-- ==== Sys2Proof/Word.lean ====
section
/-! DEFINITION. The plain number types of the module: bytes and words, and the names of its enumerated
resources (R10, R12, R15, R34, R38). -/
namespace Sys2Proof

abbrev Byte := BitVec 8
abbrev Word64 := BitVec 64

/-- Edge ports E00 to E47 (R10). -/
abbrev EdgePort := Fin 48
/-- Fabric ports F00 to F15 (R10). -/
abbrev FabPort := Fin 16
/-- Port indices of R60: 0 to 47 the edge ports, 48 to 63 the fabric ports. -/
abbrev PortIx := Fin 64
/-- Lanes L000 to L255 (R10). -/
abbrev Lane := Fin 256
/-- Clusters k = 8d + 2q + c (R38). -/
abbrev Cluster := Fin 16
/-- Regions numbered 4d + q (R15). -/
abbrev Region := Fin 8
/-- Fabric dies FD0 and FD1. -/
abbrev Die := Fin 2
/-- Feeds VIN_A (0) and VIN_B (1). -/
abbrev Feed := Fin 2
/-- Tenants T000 to T255. -/
abbrev Tenant := Fin 256
/-- VF slots 0 to 255. -/
abbrev VfSlot := Fin 256
/-- Virtual CXL switches 0 to 47. -/
abbrev Vcs := Fin 48
/-- vPPBs of one virtual CXL switch. -/
abbrev Vppb := Fin 32
/-- Queue pairs 0 to 4095. -/
abbrev Qp := Fin 4096
/-- GDDR6 channels 0 to 23. -/
abbrev Channel := Fin 24
/-- Traffic classes TC0 to TC7. -/
abbrev Tc := Fin 8
/-- Mailboxes: 0 to 255 are M000 to M255, 256 to 259 are MM0 to MM3. -/
abbrev Mbox := Fin 260
/-- Filtered counters 0 to 63. -/
abbrev FCtr := Fin 64
/-- A switch ID of the fabric (R288). -/
abbrev SwitchId := Fin 4096

/-- A unit that can be fenced (R18, R20): a port, or a region resource with the unit rules. -/
inductive UnitId where
  | edge (p : EdgePort)
  | fabric (p : FabPort)
  | bank (d : Die) (b : Fin 32)
  | slice (d : Die) (s : Fin 17)
  | tracker (d : Die) (t : Fin 4)
  deriving DecidableEq, Repr

end Sys2Proof
end

