-- ==== Sys2Proof/OperandTypes.lean ====
section
/-! DEFINITION. The data that commands carry: packets (R257), dictionary requests (R76 to R78) and their sources. -/
namespace Sys2Proof

/-- An Axsen packet (R257): its header fields and its data as 64-bit words, the first word first. -/
structure Pkt where
  fmt : Nat := 1
  tc : Nat := 0
  poison : Bool := false
  len : Nat := 0
  dest : Nat := 0
  src : Nat := 0
  hops : Nat := 0
  body : Nat := 0
  data : List Nat := []
  deriving DecidableEq, Repr

/-- One source of dictionary requests (R53, R82, R83). -/
inductive Source where
  /-- the management PF's BAR0 window -/
  | mgmtPf
  /-- the window of VF n -/
  | vf (n : VfSlot)
  /-- the window of the host PF of a virtual CXL switch -/
  | hostPf (v : Vcs)
  /-- management Ethernet: source address (as 128 bits) and UDP port -/
  | udp (addr port : Nat)
  /-- an MCTP endpoint over PCIe -/
  | mctpPcie (eid : Nat)
  /-- an MCTP endpoint of the BMC over I3C or SMBus -/
  | mctpI3c (eid : Nat)
  /-- a proxied originating session: its module, its session ID there, its privilege code -/
  | proxy (sw sess priv : Nat)
  /-- the service-core firmware -/
  | firmware
  deriving DecidableEq, Repr

/-- One request item (R77): object, type code, value length in bytes, value as a big-endian number. -/
structure Item where
  oid : Nat
  ty : Nat := 0
  len : Nat := 0
  val : Nat := 0
  deriving DecidableEq, Repr

/-- The header of a Parvor request as it arrives (R76), with the length its transport gives. -/
structure ReqHdr where
  src : Source
  ver : Nat := 1
  resp : Bool := false
  shadow : Bool := false
  session : Nat := 0
  seq : Nat := 0
  length : Nat := 0
  wire : Nat := 0
  hops : Nat := 0
  target : Nat := 0
  /-- over MCTP, what stands before the Parvor header of the message body: message type, vendor ID, command byte (R97); none is the right ones -/
  frame : Option (Nat × Nat × Nat) := none
  deriving DecidableEq, Repr

/-- The fields of a CONTROL flit's payload (R260). -/
structure Control where
  ctype : Nat := 0
  nak : Bool := false
  ack : Nat := 0
  /-- header and data grants, TC0 header first -/
  grant : List Nat := []
  opens : Nat := 0
  ownId : Nat := 0
  heldId : Nat := 0
  deriving DecidableEq, Repr

/-- What a flit carries: its KIND with what follows it (R249, R250, R260). -/
inductive FlitForm where
  | null
  | payload (replay : Bool) (seq : Nat) (words : List Nat)
  | control (c : Control)
  deriving DecidableEq, Repr

/-- The header of a PAYLOAD flit: REPLAY and SEQ (R250). -/
structure FlitHead where
  replay : Bool := false
  seq : Nat := 0
  deriving DecidableEq, Repr

/-- What a channel does to the symbols of a flit: for each physical lane the levels read in place of those sent, in their order; none is a symbol
read as it was sent. -/
abbrev Noise := List (List (Option Nat))

/-- A start of training: the port, and the lanes whose far receiver asks for precoding (R185, R273). -/
structure TrainPort where
  port : FabPort
  asks : List (Fin 4) := []
  deriving DecidableEq, Repr

/-- A virtual CXL switch of this module, or of module sw (R223). -/
structure HostVcs where
  sw : Option SwitchId := none
  v : Vcs
  deriving DecidableEq, Repr

/-- The session a proxied response names: the own one that asked, and the target's for it, 0 where it opened none (R82, R89). -/
structure SessPair where
  own : Nat
  far : Nat := 0
  deriving DecidableEq, Repr

/-- What a PROXY request comes with beside its packets: the privilege of the originating session, 0 Root to 3 Observer, that session's ID at its
module, and whether a store in module flash takes (R57, R82, R89). -/
structure ProxyOf where
  priv : Fin 4
  orig : Nat := 0
  stored : Bool := true
  deriving DecidableEq, Repr

/-- A link entry of a link-state record (R293): neighbour, local port, neighbour's port, state, cost. -/
structure LinkEntry where
  nbr : Nat
  port : Nat
  far : Nat
  state : Nat := 0
  cost : Nat := 1
  deriving DecidableEq, Repr

/-- A PID entry of a link-state record (R293): PID, virtual device, edge port or VCS. -/
structure PidEntry where
  pid : Nat
  vdcd : Bool := false
  port : Nat := 0
  deriving DecidableEq, Repr

/-- A link-state record (R293). -/
structure LinkRecord where
  id : Nat
  epoch : Nat := 0
  seq : Nat := 0
  leaving : Bool := false
  dup : Bool := false
  routed : Bool := false
  tprio : Nat := 128
  links : List LinkEntry := []
  pids : List PidEntry := []
  deriving DecidableEq, Repr

/-- A check that fails in the switch core while a command runs (R357, R358). A packet is named by its handle. -/
inductive CoreErr where
  | none
  /-- residue error in address translation or a packet field not needed for routing -/
  | field (id : Nat)
  /-- residue error in DEST, class, LEN or transaction ID -/
  | route (id : Nat)
  /-- residue error in one copy of a duplicated counter, and in both -/
  | counter | counters
  /-- residue error in a port's token bucket: a tenant's, or 256 and 257 the data classes' -/
  | bucket (port s : Nat)
  /-- a correctable error in the array of a unit: banks 0 to 31, tracker slices 49 to 52 -/
  | corrected (u : Nat)
  /-- uncorrectable: a buffer cell of a packet; a link word or queue entry; a tracker entry -/
  | cell (id : Nat) | link
  | tracker (k : Nat)
  /-- uncorrectable: the replay buffer of a fabric port, the flit retry buffer of an edge port (R591) -/
  | retry (p : PortIx)
  deriving DecidableEq, Repr

/-- An egress scheduler: a port's, or a die's toward the bridge. -/
inductive Egress where
  | port (p : PortIx)
  | bridge (d : Die)
  deriving DecidableEq, Repr

/-- What a posted CXL.io request is: a memory write, an MSI or MSI-X write of a device, a message (R492, R506). -/
inductive PostedKind where
  | write | msi | message
  deriving DecidableEq, Repr

/-- Non-posted CXL.io requests (R492). -/
inductive NpKind where
  | memRead | ioRead | ioWrite | cfgRead | cfgWrite
  deriving DecidableEq, Repr

/-- Who issues a completion barrier by a register or as firmware (R496): a VF's doorbell write by an edge port; firmware for the stream
of a port and tenant. -/
inductive BarrierBy where
  | vf (n : VfSlot) (p : EdgePort)
  | firmware (p : EdgePort) (t : Tenant)
  deriving DecidableEq, Repr

/-- The transmit taps a far receiver asks of a fabric lane (R189): the magnitudes of pre2, pre1, post1 and post2, in steps of 1/64. -/
structure Taps where
  pre2 : Nat := 0
  pre1 : Nat := 0
  post1 : Nat := 0
  post2 : Nat := 0
  deriving DecidableEq, Repr

/-- Equalisation of an edge link (R188): phases 0 to 3 at each rate from 8 GT/s, the bypass to the highest rate, the no-equalisation-needed
indication. -/
inductive EqMode where
  | phases | bypass | notNeeded
  deriving DecidableEq, Repr

/-- The negotiated result of an edge link's training (R218): rate code, width, flit format, protocols; whether the lanes arrive reversed, the lane
positions whose polarity arrives inverted, and the current coefficients of each position (R186, R188, R214); the capacity in bytes a pool device
reports for each logical device (R388). -/
structure Trained where
  rate : Nat := 6
  width : Nat := 4
  flit : Nat := 2
  io : Bool := true
  cache : Bool := false
  mem : Bool := true
  reversed : Bool := false
  inverted : List Nat := []
  taps : List Nat := []
  capacity : List Nat := []
  /-- lane positions whose partner's receiver asks for precoding at 64 GT/s (R184) -/
  precode : List Nat := []
  /-- how the lanes equalised: by phases 0 to 3 at every rate, at the highest only, or without (R188) -/
  eq : EqMode := .phases
  /-- lane positions that went through Polling.Compliance (R209) -/
  compliance : List Nat := []
  deriving DecidableEq, Repr

/-- The main rails of R17. -/
inductive Rail where
  | vib | vcore0 | vcore1 | vhub | vio | vppm | vmem | vsera | vserh
  deriving DecidableEq, Repr

/-- Kinds of hub bus transactions (R549). -/
inductive BusKind where
  | read | write | fetch
  deriving DecidableEq, Repr

/-- The operation a sample record describes (R588): port index or hub master, tenant, class, transaction ID, address. -/
structure Sampled where
  port : Nat
  hub : Bool := false
  tenant : Option Nat := none
  cls : Nat := 0
  tid : Nat := 0
  addr : Nat := 0
  deriving DecidableEq, Repr

/-- What the patrol scrub finds at a channel's next line (R597): nothing, a byte it corrects, or an uncorrectable line: of the cache, of the ledger
(a home line whose entry it holds), a descriptor, a log record by its SEQ, or none of these. -/
inductive ScrubFind where
  | clean | corrected
  | cached (line : Nat)
  | ledger (line : Nat)
  | descriptor
  | record (seq : Nat)
  | other
  deriving DecidableEq, Repr

/-- The array a background walker reads (R599): a Cadastre slice, a region's snoop filter slice, the Plat descriptor cache, a core's hub SRAM. -/
inductive Walked where
  | cadastre (d : Die) (slice : Fin 17)
  | filter (d : Die) (q : Fin 4)
  | plat
  | sram (core : Fin 16)
  deriving DecidableEq, Repr

/-- What a walker finds: an uncorrectable word belongs to a line (for the Cadastre, its low word may survive), or to an address of hub SRAM. -/
inductive WalkFind where
  | clean | corrected
  | lost (place : Nat) (known : Bool)
  deriving DecidableEq, Repr

/-- Where the far end of a binding lies (R223, R224): a vPPB and port of this module; the VCS of a local port on another module, with its upstream
port there; a port of another module for a local vPPB, with its flit format. -/
inductive Far where
  | here
  | vcs (sw up : Nat)
  | port (sw q flit : Nat)
  deriving DecidableEq, Repr

/-- A register without a command of its own (R93, R516, R517, R526): a queue block's bases, VF_CTRL, CALL_SEL of an agent, an MSI-X table entry and
the enable of a function's MSI-X capability; a host's back-invalidate configuration of its vPPB 0 and the DPC Completion Control of one of its
vPPBs (R228, R239). -/
inductive Reg where
  | object (src : Source) (oid v : Nat) (stored : Bool)
  | sqBase (n : VfSlot) (j : Fin 64) (v : Nat)
  | cqBase (n : VfSlot) (j : Fin 64) (v : Nat)
  | vfCtrl (n : VfSlot) (v : Nat)
  | callSel (agent : Fin 258) (v : Nat)
  | msix (fn entry addr data : Nat) (masked : Bool)
  | msixEnable (fn : Nat) (on : Bool)
  | biEnable (v : Vcs) (on : Bool)
  | dpcControl (v : Vcs) (n : Vppb) (ur : Bool)
  /-- an access to the fast-path map of R516: of a VF's BAR0, or, agent 256, of the management PF's BAR2; a read carries its host's tag -/
  | fastRead (agent : Fin 257) (off size tag : Nat)
  | fastWrite (agent : Fin 257) (off size v : Nat)
  /-- a read of the management PF's BAR4 (R515) -/
  | bar4Read (off size : Nat)
  deriving DecidableEq, Repr

/-- The body of a Parvor request, by its opcode (R78); `bad` is a payload without its opcode's form, or an opcode a request may not have. -/
inductive Body where
  | read (it : Item)
  | write (it : Item)
  | multi (its : List Item)
  | group (num : Nat) (its : List Item)
  | commit (num : Nat)
  | abort (num : Nat)
  | subscribe (it : Item) (mode : Nat)
  | bad (opcode : Nat)
  deriving DecidableEq, Repr

end Sys2Proof
end

