-- ==== Sys2Proof/Syntax.lean ====
section
/-! DEFINITION. The commands of the block: one constructor per row of spec/opcode_table.json, in the table's order.
Each constructor's comment gives the rule its row names. An operand is what the command brings from outside: which
port, lane or object, a value written, a reading taken, a message's fields. -/
namespace Sys2Proof

inductive Instr where
  /-- CLUSTER_PLL_LOCK_LOSS (R22) -/
  | clusterPllLockLoss (k : Cluster)
  /-- CLUSTER_PLL_RELOCK (R22) -/
  | clusterPllRelock (k : Cluster)
  /-- REGION_GATE (R26) -/
  | regionGate (r : Region)
  /-- REGION_UNGATE (R28) -/
  | regionUngate (r : Region)
  /-- FATAL_DIE_ERROR (R30) -/
  | fatalDieError (d : Die) (cause : Fin 6)
  /-- FATAL_HUB_ERROR (R31) -/
  | fatalHubError (cause : Fin 6)
  /-- MAIN_RAIL_LOSS (R32) -/
  | mainRailLoss (rail : Rail)
  /-- DICT_READ (R78) -/
  | dictRead (h : ReqHdr) (it : Item)
  /-- DICT_WRITE (R78) -/
  | dictWrite (h : ReqHdr) (it : Item) (stored : Bool)
  /-- DICT_READ_MULTI (R78) -/
  | dictReadMulti (h : ReqHdr) (its : List Item)
  /-- DICT_WRITE_GROUP (R80) -/
  | dictWriteGroup (h : ReqHdr) (num : Nat) (its : List Item) (stored : Bool)
  /-- DICT_COMMIT (R66) -/
  | dictCommit (h : ReqHdr) (num : Nat) (stored : Bool)
  /-- DICT_ABORT (R71) -/
  | dictAbort (h : ReqHdr) (num : Nat)
  /-- DICT_SUBSCRIBE (R86) -/
  | dictSubscribe (h : ReqHdr) (it : Item) (mode : Nat)
  /-- GROUP_APPLY (R67) -/
  | groupApply (num : Nat)
  /-- COMMIT_PENDING_ANSWER (R68) -/
  | commitPendingAnswer (num : Nat)
  /-- GROUP_LOCK_EXPIRY (R65) -/
  | groupLockExpiry (num : Nat)
  /-- SESSION_IDLE_TIMEOUT (R84) -/
  | sessionIdleTimeout (id : Nat)
  /-- NOTIFY_SEND (R87) -/
  | notifySend (id : Nat)
  /-- PROXY_RESPONSE (R89) -/
  | proxyResponse (sess : SessPair) (seq status subid : Nat) (items : List (Item × Nat))
  /-- PROXY_TIMEOUT (R91) -/
  | proxyTimeout (i : Nat)
  /-- SLOT_READ (R93) -/
  | slotRead (src : Source) (off : Nat) (wide : Bool)
  /-- SLOT_WRITE (R93) -/
  | slotWrite (src : Source) (off : Nat) (wide : Bool) (v : Nat) (stored : Bool)
  /-- WIN_READ (R95) -/
  | winRead (src : Source) (shadow : Bool)
  /-- WIN_WRITE (R95) -/
  | winWrite (src : Source) (len : Fin 2048) (stored : Bool)
  /-- WIN_ERR_READ (R94) -/
  | winErrRead (src : Source)
  /-- ALERT_RESPONSE_ADDRESS (R103) -/
  | alertResponseAddress
  /-- REGISTER_WRITE (R93) -/
  | registerWrite (r : Reg)
  /-- MODE_REQUEST_OFF (R106) -/
  | modeRequestOff (src : Source)
  /-- MODE_REQUEST_STANDBY (R106) -/
  | modeRequestStandby (src : Source)
  /-- MODE_REQUEST_BOOT (R106) -/
  | modeRequestBoot (src : Source)
  /-- MODE_REQUEST_CONFIGURE (R107) -/
  | modeRequestConfigure (src : Source)
  /-- MODE_REQUEST_OPERATE (R106) -/
  | modeRequestOperate (src : Source)
  /-- MODE_REQUEST_CAPPED (R107) -/
  | modeRequestCapped (src : Source)
  /-- BOOT_START (R112) -/
  | bootStart
  /-- RAIL_STEP_DONE (R110) -/
  | railStepDone
  /-- BOOT_COMPLETE (R106) -/
  | bootComplete (fails : List UnitId)
  /-- BOOT_CONFIGURE_PASS_END (R106) -/
  | bootConfigurePassEnd
  /-- BOOT_WATCHDOG (R127) -/
  | bootWatchdog
  /-- GOVERNOR_EVALUATE (R114) -/
  | governorEvaluate (t0 t1 th : Int)
  /-- GDDR6_RATE_STEP (R115) -/
  | gddr6RateStep
  /-- GOVERNOR_FLOOR (R117) -/
  | governorFloor
  /-- INPUT_CURRENT_EMERGENCY (R118) -/
  | inputCurrentEmergency
  /-- THERMAL_TRIP (R116) -/
  | thermalTrip (d : Fin 3)
  /-- DRAIN_TRACKER_DONE (R120) -/
  | drainTrackerDone
  /-- DRAIN_RECALL_DONE (R120) -/
  | drainRecallDone
  /-- PARCEL_HANDOFF (R123) -/
  | parcelHandoff (i : Fin 65536)
  /-- PARCEL_UNHOME (R124) -/
  | parcelUnhome (i : Fin 65536)
  /-- DRAIN_HANDOFF_DONE (R120) -/
  | drainHandoffDone
  /-- DRAIN_LEAVE_DONE (R120) -/
  | drainLeaveDone
  /-- DRAIN_END (R120) -/
  | drainEnd
  /-- DRAIN_BOUND_EXPIRY (R121) -/
  | drainBoundExpiry
  /-- HOT_RESET (R125) -/
  | hotReset (p : EdgePort)
  /-- FENCE_ENTRY_SET (R132) -/
  | fenceEntrySet (src : Source) (e : Fin 64) (u : UnitId) (stored : Bool)
  /-- FENCE_ENTRY_CLEAR (R132) -/
  | fenceEntryClear (src : Source) (e : Fin 64) (stored : Bool)
  /-- FEED_PRESENT (R145) -/
  | feedPresent (f : Feed) (mv : Nat)
  /-- FEED_ABSENT (R168) -/
  | feedAbsent (f : Feed) (mv : Nat)
  /-- FEED_ABSENT_TIMEOUT (R168) -/
  | feedAbsentTimeout (f : Feed)
  /-- FEED_OVERVOLTAGE (R140) -/
  | feedOvervoltage (f : Feed) (mv : Nat)
  /-- FEED_OVERVOLTAGE_RELEASE (R139) -/
  | feedOvervoltageRelease (f : Feed) (mv : Nat)
  /-- ORING_REVERSE_OFF (R144) -/
  | oringReverseOff (f : Feed) (vbus : Nat)
  /-- ORING_CONDUCT (R142) -/
  | oringConduct (f : Feed) (mv : Nat)
  /-- INRUSH_RAMP_END (R146) -/
  | inrushRampEnd (f : Feed) (vbus : Nat)
  /-- INRUSH_TIMEOUT (R146) -/
  | inrushTimeout (f : Feed)
  /-- LIMIT_REGULATION_START (R150) -/
  | limitRegulationStart (l : Fin 3)
  /-- FAULT_TIMER_RESET (R150) -/
  | faultTimerReset
  /-- SLOW_TRIP (R150) -/
  | slowTrip
  /-- FAST_TRIP (R151) -/
  | fastTrip (l : Fin 3)
  /-- FET_OVERTEMP_TRIP (R152) -/
  | fetOvertempTrip (f : Feed)
  /-- GATE_CHECK_FAIL (R159) -/
  | gateCheckFail (f : Feed)
  /-- VDS_HIGH_TRIP (R160) -/
  | vdsHighTrip (f : Feed)
  /-- FET_SHORT_DETECT (R162) -/
  | fetShortDetect (f : Feed)
  /-- LIMIT_LOWER_APPLY (R153) -/
  | limitLowerApply (l : Fin 3)
  /-- COOLDOWN_END (R157) -/
  | cooldownEnd (f : Feed) (temp : Int)
  /-- CLEAR_TRIP (R157) -/
  | clearTrip (src : Source) (v : Fin 256)
  /-- PWR_GOOD_RISE (R163) -/
  | pwrGoodRise
  /-- VAO_HOLDUP_EXPIRY (R169) -/
  | vaoHoldupExpiry
  /-- TELEMETRY_SAMPLE (R175) -/
  | telemetrySample (va ia vb ib vbus : Nat) (ta tb : Int)
  /-- CLEAR_ENERGY (R176) -/
  | clearEnergy (src : Source) (v : Fin 256)
  /-- ALIGN_SEARCH_ROUND (R195) -/
  | alignSearchRound (n : FabPort) (hits : List Nat)
  /-- CDR_RELOCK_DONE (R195) -/
  | cdrRelockDone (n : FabPort)
  /-- DESKEW_DONE (R196) -/
  | deskewDone (n : FabPort) (skew : Nat) (reversed : Bool) (inverted : List (Fin 4)) (taps : List Taps)
  /-- LANE_SIGNAL_LOST (R198) -/
  | laneSignalLost (l : Lane)
  /-- LANE_ALIGNMENT_LOST (R195) -/
  | laneAlignmentLost (l : Lane)
  /-- DORMANT_ENTRY_DONE (R199) -/
  | dormantEntryDone (n : FabPort)
  /-- WAKE_PATTERN_DETECTED (R200) -/
  | wakePatternDetected (n : FabPort)
  /-- DORMANT_EXIT_DONE (R200) -/
  | dormantExitDone (n : FabPort) (failed : List (Fin 4))
  /-- REFIN_LOSS (R203) -/
  | refinLoss
  /-- CLKREQ_ASSERT (R205) -/
  | clkreqAssert (p : EdgePort)
  /-- CLKREQ_RELEASE (R205) -/
  | clkreqRelease (p : EdgePort)
  /-- L0P_WIDTH_HALVE (R193) -/
  | l0pWidthHalve (p : EdgePort) (u1 u2 : Nat)
  /-- L0P_WIDTH_RESTORE (R193) -/
  | l0pWidthRestore (p : EdgePort)
  /-- EDGE_LINK_TRAINED (R218) -/
  | edgeLinkTrained (p : EdgePort) (t : Trained) (loop : Bool) (atomics : List Nat) (dvsec : Option Nat)
  /-- TEST_OFF (R211) -/
  | testOff (src : Source) (l : Lane) (v : Nat)
  /-- TEST_GENERATE (R211) -/
  | testGenerate (src : Source) (l : Lane) (v : Nat)
  /-- TEST_CHECK (R211) -/
  | testCheck (src : Source) (l : Lane) (v : Nat)
  /-- TEST_GENERATE_CHECK (R211) -/
  | testGenerateCheck (src : Source) (l : Lane) (v : Nat)
  /-- TEST_COMPLIANCE (R209) -/
  | testCompliance (src : Source) (l : Lane) (v : Nat)
  /-- TIMING_MARGIN (R212) -/
  | timingMargin (src : Source) (l : Lane) (v : Nat)
  /-- VOLTAGE_MARGIN (R212) -/
  | voltageMargin (src : Source) (l : Lane) (v : Nat)
  /-- TEST_COUNT_CLEAR (R214) -/
  | testCountClear (src : Source) (l : Lane)
  /-- MARGIN_RUN_DONE (R212) -/
  | marginRunDone (l : Lane) (errors : Nat)
  /-- CHECKER_LOCK (R210) -/
  | checkerLock (l : Lane) (errors symbols : Nat)
  /-- CHECKER_LOCK_LOSS (R210) -/
  | checkerLockLoss (l : Lane) (errors symbols : Nat)
  /-- PORT_ROLE_WRITE (R220) -/
  | portRoleWrite (src : Source) (p : EdgePort) (v : Fin 256) (stored : Bool)
  /-- PORT_ENABLE_WRITE (R220) -/
  | portEnableWrite (src : Source) (p : EdgePort) (on stored : Bool)
  /-- BINDING_WRITE (R223) -/
  | bindingWrite (src : Source) (p : EdgePort) (v : Fin 65536) (far : Far) (stored : Bool)
  /-- UNBIND_WRITE (R224) -/
  | unbindWrite (src : Source) (p : EdgePort) (far : Far) (stored : Bool)
  /-- HOST_SLOT_POWER_OFF (R224) -/
  | hostSlotPowerOff (v : HostVcs) (n : Vppb)
  /-- UNBIND_GRACE_EXPIRY (R224) -/
  | unbindGraceExpiry (p : EdgePort)
  /-- IDE_KEY_CHANGE_POINT (R230) -/
  | ideKeyChangePoint (p : EdgePort) (k : Fin 6)
  /-- IDE_INTEGRITY_FAILURE (R231) -/
  | ideIntegrityFailure (p : EdgePort) (k : Fin 6)
  /-- HOST_PERST_ASSERT (R235) -/
  | hostPerstAssert (p : EdgePort)
  /-- HOST_PERST_RELEASE (R235) -/
  | hostPerstRelease (p : EdgePort)
  /-- SECONDARY_BUS_RESET (R236) -/
  | secondaryBusReset (v : Vcs) (n : Vppb)
  /-- RESET_PROPAGATE_REMOTE (R236) -/
  | resetPropagateRemote (v : Vcs) (n : Vppb)
  /-- RESET_MESSAGE_RECEIVED (R314) -/
  | resetMessageReceived (i : Nat)
  /-- PRSNT_ASSERT (R237) -/
  | prsntAssert (p : EdgePort)
  /-- PRESENCE_ACCEPTED (R237) -/
  | presenceAccepted (p : EdgePort)
  /-- HOT_ADD_PERST_RELEASE (R237) -/
  | hotAddPerstRelease (p : EdgePort)
  /-- HOT_ADD_LINK_UP (R237) -/
  | hotAddLinkUp (p : EdgePort)
  /-- REMOVAL_PRSNT (R238) -/
  | removalPrsnt (p : EdgePort)
  /-- REMOVAL_LINK_DOWN (R238) -/
  | removalLinkDown (p : EdgePort)
  /-- HOST_CACHE_SCAN_DONE (R243) -/
  | hostCacheScanDone (i : Nat)
  /-- BISNP_RESPONSE (R245) -/
  | bisnpResponse (p : EdgePort) (i : Nat) (dirty : Option Nat) (poison : Bool)
  /-- BICONFLICT (R467) -/
  | biconflict (p : EdgePort) (i : Nat)
  /-- HOST_WRITEBACK (R467) -/
  | hostWriteback (p : EdgePort) (i tag mask data : Nat) (poison : Bool)
  /-- HOST_MEMRD_NOCACHE (R447) -/
  | hostMemrdNocache (p : EdgePort) (t : Tenant) (n : Vppb) (tag addr : Nat)
  /-- HOST_MEMRD_SHARED (R447) -/
  | hostMemrdShared (p : EdgePort) (t : Tenant) (n : Vppb) (tag addr : Nat)
  /-- HOST_MEMRD_ANY (R447) -/
  | hostMemrdAny (p : EdgePort) (t : Tenant) (n : Vppb) (tag addr : Nat)
  /-- HOST_MEMWR (R447) -/
  | hostMemwr (p : EdgePort) (t : Tenant) (n : Vppb) (tag addr data mask : Nat)
  /-- FLIT_SLOT (R255) -/
  | flitSlot (n : FabPort)
  /-- FLIT_RX_PAYLOAD (R263) -/
  | flitRxPayload (n : FabPort) (head : FlitHead) (words : List Nat) (noise : Noise)
  /-- FLIT_RX_CONTROL (R260) -/
  | flitRxControl (n : FabPort) (c : Control) (noise : Noise)
  /-- FLIT_RX_NULL (R263) -/
  | flitRxNull (n : FabPort) (noise : Noise)
  /-- FLIT_RX_BAD (R263) -/
  | flitRxBad (n : FabPort) (sent : FlitForm) (noise : Noise)
  /-- REPLAY_TIMEOUT (R265) -/
  | replayTimeout (n : FabPort)
  /-- LINK_SIGNAL_LOSS (R273) -/
  | linkSignalLoss (n : FabPort)
  /-- RETRAIN_TIMEOUT (R273) -/
  | retrainTimeout (n : FabPort)
  /-- TRAIN_TIMEOUT (R273) -/
  | trainTimeout (n : FabPort)
  /-- TRAIN_START (R273) -/
  | trainStart (n : TrainPort)
  /-- LINKUP_COMPLETE (R278) -/
  | linkupComplete (n : FabPort)
  /-- DORMANT_EXIT_TIMEOUT (R273) -/
  | dormantExitTimeout (n : FabPort)
  /-- LINK_RETIRE (R281) -/
  | linkRetire (src : Source) (n : FabPort) (stored : Bool)
  /-- LINK_UNRETIRE (R273) -/
  | linkUnretire (src : Source) (n : FabPort) (stored : Bool)
  /-- LINK_RETRAIN_REQUEST (R273) -/
  | linkRetrainRequest (src : Source) (n : FabPort)
  /-- LEAVE_DRAINED (R282) -/
  | leaveDrained (n : FabPort)
  /-- LEAVE_DOWN (R282) -/
  | leaveDown (n : FabPort)
  /-- DORMANT_IDLE_TIMEOUT (R283) -/
  | dormantIdleTimeout (n : FabPort)
  /-- DORMANT_RETRY (R283) -/
  | dormantRetry (n : FabPort)
  /-- RECORD_RECEIVED (R296) -/
  | recordReceived (n : FabPort) (r : LinkRecord)
  /-- RECORD_ORIGINATE (R294) -/
  | recordOriginate
  /-- RECORD_PURGE (R297) -/
  | recordPurge (id epoch : Nat)
  /-- ROUTE_COMPUTE_START (R299) -/
  | routeComputeStart
  /-- ROUTE_COMPUTE_DONE (R303) -/
  | routeComputeDone
  /-- HOME_MOVE_RECEIVED (R399) -/
  | homeMoveReceived (n : FabPort) (seq old oldDesc new newDesc cause : Nat)
  /-- PROXY_SEGMENT_RECEIVED (R314) -/
  | proxySegmentReceived (i : Nat) (req : ProxyOf)
  /-- PROXY_REASSEMBLY_TIMEOUT (R314) -/
  | proxyReassemblyTimeout (i : Nat)
  /-- SYNC_SEND (R318) -/
  | syncSend (n : FabPort)
  /-- SYNC_RECEIVED (R318) -/
  | syncReceived (n : FabPort) (t1 : Nat)
  /-- DELAY_REQ_RECEIVED (R318) -/
  | delayReqReceived (n : FabPort)
  /-- DELAY_RESP_RECEIVED (R319) -/
  | delayRespReceived (n : FabPort) (t4 : Nat)
  /-- TIME_HOLDOVER (R320) -/
  | timeHoldover
  /-- TIME_SET (R322) -/
  | timeSet (src : Source) (v : Nat)
  /-- PACKET_ADMIT (R333) -/
  | packetAdmit (i : Nat) (err : CoreErr)
  /-- DEQUEUE_DECISION (R363) -/
  | dequeueDecision (e : Egress) (credits : Nat) (err : CoreErr)
  /-- UNDERRUN_TIMEOUT (R340) -/
  | underrunTimeout (p : PortIx)
  /-- AGE_CHECK (R344) -/
  | ageCheck (p : PortIx) (c : Tc) (t : Tenant) (b : Bool)
  /-- TRACKER_RESPONSE (R348) -/
  | trackerResponse (tid code : Nat) (poison : Bool) (words : List Nat)
  /-- COMPLETION_TIMEOUT (R349) -/
  | completionTimeout (k : Fin 131072)
  /-- ORPHAN_HOLD_TIMEOUT (R352) -/
  | orphanHoldTimeout (k : Fin 131072)
  /-- BRIDGE_CRC_FAIL (R355) -/
  | bridgeCrcFail (d : Die) (c : Tc) (words last : Bool)
  /-- GATE_ENTRY_CHANGE (R374) -/
  | gateEntryChange (p : PortIx)
  /-- GATE_TAKEOVER (R375) -/
  | gateTakeover (p : PortIx)
  /-- SAMPLER_VISIT (R378) -/
  | samplerVisit (d : Die)
  /-- HIGH_WATER_READ (R381) -/
  | highWaterRead (p : PortIx) (tq : Bool) (q : Fin 256) (b : Bool)
  /-- EXTENT_ADD_REQUEST (R393) -/
  | extentAddRequest (src : Source) (e : Fin 4096) (v : Nat) (stored : Bool)
  /-- BIND_OPERATION (R393) -/
  | bindOperation (src : Source) (sw : Fin 4096) (desc : Fin 65536) (t : Tenant)
  /-- UNBIND_OPERATION (R394) -/
  | unbindOperation (src : Source) (sw : Fin 4096) (desc : Fin 65536) (t : Tenant)
  /-- BIND_RESPONSE (R393) -/
  | bindResponse (e : Fin 4096) (res d0 : Nat)
  /-- ADD_CAPACITY_RESPONSE (R393) -/
  | addCapacityResponse (e : Fin 4096) (accept : Bool)
  /-- EXTENT_RELEASE_REQUEST (R394) -/
  | extentReleaseRequest (src : Source) (e : Fin 4096) (stored : Bool)
  /-- HOST_RELEASE_CAPACITY (R394) -/
  | hostReleaseCapacity (e : Fin 4096)
  /-- UNBIND_RESPONSE (R394) -/
  | unbindResponse (e : Fin 4096)
  /-- EXTENT_FORCE (R395) -/
  | extentForce (src : Source) (e : Fin 4096) (stored : Bool)
  /-- RELEASE_GRACE_TIMEOUT (R395) -/
  | releaseGraceTimeout (e : Fin 4096)
  /-- EXTENT_CLEAR (R392) -/
  | extentClear (src : Source) (e : Fin 4096) (stored : Bool)
  /-- PARTNER_COPY_RETRY (R396) -/
  | partnerCopyRetry (i : Fin 65536) (ok : Bool)
  /-- TAKEOVER (R398) -/
  | takeover (src : Source) (lost : Fin 65536)
  /-- SERVE_WITHOUT_PARTNER (R400) -/
  | serveWithoutPartner (src : Source) (i : Fin 65536)
  /-- MIGRATION_REQUEST (R401) -/
  | migrationRequest (src : Source) (i dest : Fin 65536) (evac stored : Bool)
  /-- MIGRATION_START (R401) -/
  | migrationStart (i : Fin 65536)
  /-- MIGRATION_PASS_END (R402) -/
  | migrationPassEnd (i : Fin 65536)
  /-- MIGRATION_SWITCH (R402) -/
  | migrationSwitch (i : Fin 65536)
  /-- MIGRATION_ABORT (R403) -/
  | migrationAbort (i : Fin 65536)
  /-- HOT_UNIT_WINDOW (R406) -/
  | hotUnitWindow
  /-- REINIT_ACCEPT (R416) -/
  | reinitAccept (src : Source) (i : Fin 65536)
  /-- REINIT_ZERO (R416) -/
  | reinitZero (src : Source) (i : Fin 65536)
  /-- REINIT_ZERO_DONE (R416) -/
  | reinitZeroDone (i : Fin 65536)
  /-- HOME_TRANSACTION_START (R436) -/
  | homeTransactionStart (desc off : Nat)
  /-- HOME_RDSHARED (R439) -/
  | homeRdshared (i : Nat)
  /-- HOME_RDOWN (R439) -/
  | homeRdown (i : Nat)
  /-- HOME_UPGRADE (R439) -/
  | homeUpgrade (i : Nat)
  /-- HOME_WBDIRTY (R445) -/
  | homeWbdirty (i : Nat)
  /-- HOME_WBDIRTY_KEEP (R445) -/
  | homeWbdirtyKeep (i : Nat)
  /-- HOME_EVICTEXCL (R445) -/
  | homeEvictexcl (i : Nat)
  /-- HOME_FLUSHOWNED (R445) -/
  | homeFlushowned (i : Nat)
  /-- HOME_CMP (R462) -/
  | homeCmp (i : Nat)
  /-- HOME_INVACK (R462) -/
  | homeInvack (i : Nat)
  /-- HOME_DATAOWNED (R457) -/
  | homeDataowned (i : Nat)
  /-- BACKING_READ_DONE (R439) -/
  | backingReadDone (desc off data : Nat) (poison : Bool)
  /-- BACKING_WRITE_DONE (R445) -/
  | backingWriteDone (desc off : Nat)
  /-- DIRECTORY_ENTRY_READY (R464) -/
  | directoryEntryReady (desc off : Nat)
  /-- BROADCAST_TOKEN_GRANT (R468) -/
  | broadcastTokenGrant (d : Die)
  /-- CACHE_FWDSHARED (R442) -/
  | cacheFwdshared (i : Nat)
  /-- CACHE_FWDOWN (R442) -/
  | cacheFwdown (i : Nat)
  /-- CACHE_INV (R456) -/
  | cacheInv (i : Nat)
  /-- CACHE_DATA (R443) -/
  | cacheData (i : Nat)
  /-- CACHE_DATAOWNED (R443) -/
  | cacheDataowned (i : Nat)
  /-- CACHE_ACK_GRANT (R456) -/
  | cacheAckGrant (i : Nat)
  /-- CACHE_ACK_ERROR (R450) -/
  | cacheAckError (i : Nat)
  /-- CACHE_INVACK (R443) -/
  | cacheInvack (i : Nat)
  /-- FLUSH_REQUEST (R471) -/
  | flushRequest (src : Source) (desc : Fin 65536) (discard : Bool) (home : Fin 4096)
  /-- FLUSH_SCAN_DONE (R471) -/
  | flushScanDone (i : Nat)
  /-- FLUSH_ANSWER (R472) -/
  | flushAnswer (desc member : Nat)
  /-- FLUSH_RETRY (R472) -/
  | flushRetry (desc : Nat)
  /-- FLUSH_COMPLETE (R472) -/
  | flushComplete (desc : Nat)
  /-- CONFIRM_LOST_MODULE (R473) -/
  | confirmLostModule (src : Source) (id : Fin 4096)
  /-- LOST_MODULE_SCAN_DONE (R473) -/
  | lostModuleScanDone (id : Nat)
  /-- LOST_MESSAGE_REPORT (R474) -/
  | lostMessageReport (src : Source) (v : Nat)
  /-- LOST_REPORT_RETRY (R474) -/
  | lostReportRetry (i : Nat)
  /-- IO_POSTED_WRITE (R488) -/
  | ioPostedWrite (p : EdgePort) (t : Tenant) (kind : PostedKind) (n : Vppb) (addr len data mask hdr : Nat) (poison secure : Bool)
  /-- IO_READ_REQUEST (R492) -/
  | ioReadRequest (p : EdgePort) (t : Tenant) (kind : NpKind) (n : Vppb) (addr len data mask hdr tag : Nat) (secure : Bool)
  /-- ATOMICOP_REQUEST (R502) -/
  | atomicopRequest (p : EdgePort) (t : Tenant) (pooled : Bool) (op : Fin 3) (addr size a cmp hdr tag : Nat)
  /-- LOCKED_READ (R504) -/
  | lockedRead (p : EdgePort) (t : Tenant) (addr len hdr tag : Nat)
  /-- UNLOCK_MESSAGE (R504) -/
  | unlockMessage (p : EdgePort) (t : Tenant) (hdr : Nat)
  /-- SEMAPHORE_ACQUIRE (R503) -/
  | semaphoreAcquire (p : EdgePort)
  /-- SEMAPHORE_HOLD_TIMEOUT (R505) -/
  | semaphoreHoldTimeout (p : EdgePort)
  /-- WC_HOLD_TIMEOUT (R487) -/
  | wcHoldTimeout (p : EdgePort)
  /-- HELD_ACCESS_RELEASE (R489) -/
  | heldAccessRelease (i : Nat)
  /-- BRIDGE_REQ_RECEIVED (R492) -/
  | bridgeReqReceived (i : Nat)
  /-- BRIDGE_CPL_RECEIVED (R492) -/
  | bridgeCplReceived (i : Nat)
  /-- POSTED_WRITE_COMPLETE (R495) -/
  | postedWriteComplete (p : EdgePort)
  /-- BCMP_FLOW_TIMER (R495) -/
  | bcmpFlowTimer (sw flow : Nat)
  /-- BCMP_RECEIVED (R495) -/
  | bcmpReceived (i : Nat)
  /-- BERR_RECEIVED (R500) -/
  | berrReceived (i : Nat)
  /-- SIDE_RECEIVED (R506) -/
  | sideReceived (i : Nat)
  /-- BARRIER_WRITE (R496) -/
  | barrierWrite (b : BarrierBy)
  /-- BARRIER_COMPLETE (R497) -/
  | barrierComplete (i : Nat)
  /-- SQ_TAIL_WRITE (R519) -/
  | sqTailWrite (n : VfSlot) (j : Fin 64) (v : Nat)
  /-- CQ_HEAD_WRITE (R519) -/
  | cqHeadWrite (n : VfSlot) (j : Fin 64) (v : Nat)
  /-- QCFG_ENABLE (R518) -/
  | qcfgEnable (n : VfSlot) (j : Fin 64) (v : Nat)
  /-- QCFG_DISABLE (R518) -/
  | qcfgDisable (n : VfSlot) (j : Fin 64) (v : Nat)
  /-- DESCRIPTOR_FETCH (R519) -/
  | descriptorFetch (d : Die) (words : List Nat)
  /-- OP_COPY (R521) -/
  | opCopy (q : Qp) (num : Nat) (residue : Bool)
  /-- OP_FILL (R521) -/
  | opFill (q : Qp) (num : Nat) (residue : Bool)
  /-- OP_ZERO (R521) -/
  | opZero (q : Qp) (num : Nat) (residue : Bool)
  /-- OP_COMPARE (R521) -/
  | opCompare (q : Qp) (num : Nat) (residue : Bool)
  /-- OP_CRC32C (R521) -/
  | opCrc32c (q : Qp) (num : Nat) (residue : Bool)
  /-- OP_CRC64 (R521) -/
  | opCrc64 (q : Qp) (num : Nat) (residue : Bool)
  /-- OP_SHAKE256 (R521) -/
  | opShake256 (q : Qp) (num : Nat) (residue : Bool)
  /-- OP_FETCH_ADD (R521) -/
  | opFetchAdd (q : Qp) (num : Nat) (residue : Bool)
  /-- OP_CAS (R521) -/
  | opCas (q : Qp) (num : Nat) (residue : Bool)
  /-- OP_MIGRATE (R522) -/
  | opMigrate (q : Qp) (num : Nat)
  /-- OP_FENCE (R522) -/
  | opFence (q : Qp) (num : Nat)
  /-- OP_NOTIFY (R522) -/
  | opNotify (q : Qp) (num : Nat)
  /-- DESCRIPTOR_COMPLETE (R523) -/
  | descriptorComplete (q : Qp) (num : Nat)
  /-- BACKED_VECTORS_WRITE (R526) -/
  | backedVectorsWrite (src : Source) (host : Bool) (n : VfSlot) (v : Fin 65536) (stored : Bool)
  /-- QP_OWNER_WRITE (R528) -/
  | qpOwnerWrite (src : Source) (q : Qp) (v : Fin 65536) (stored : Bool)
  /-- QUIESCE_START (R529) -/
  | quiesceStart (src : Source) (q : Qp)
  /-- QUIESCE_ABANDON (R529) -/
  | quiesceAbandon (src : Source) (q : Qp)
  /-- QUIESCE_RESUME (R529) -/
  | quiesceResume (src : Source) (q : Qp)
  /-- QUIESCE_DONE (R529) -/
  | quiesceDone (q : Qp)
  /-- FUNCTION_LEVEL_RESET (R530) -/
  | functionLevelReset (n : VfSlot)
  /-- FLR_COMPLETE (R530) -/
  | flrComplete (n : VfSlot)
  /-- VF_ENABLE_CLEAR (R513) -/
  | vfEnableClear (v : Vcs)
  /-- VF_ASSIGNMENT_WRITE (R512) -/
  | vfAssignmentWrite (src : Source) (n : VfSlot) (on : Bool) (v : Fin 64) (t : Tenant) (stored : Bool)
  /-- OWN_IN_POP (R535) -/
  | ownInPop (k : Mbox)
  /-- OWN_OUT_PUSH (R535) -/
  | ownOutPush (k : Mbox) (w : Nat)
  /-- OWN_REPLY (R535) -/
  | ownReply (k : Mbox) (v : Nat)
  /-- OWN_DB_CLEAR (R535) -/
  | ownDbClear (k : Mbox) (v : Nat)
  /-- OWN_MASK_WRITE (R535) -/
  | ownMaskWrite (k : Mbox) (v : Nat)
  /-- CALL_LOCK_READ (R534) -/
  | callLockRead (k : Mbox)
  /-- CALL_LOCK_RELEASE (R534) -/
  | callLockRelease (k : Mbox) (v : Nat)
  /-- CALL_IN_PUSH (R535) -/
  | callInPush (k : Mbox) (w : Nat)
  /-- CALL_OUT_POP (R535) -/
  | callOutPop (k : Mbox)
  /-- CALL_DB_WRITE (R535) -/
  | callDbWrite (k : Mbox) (v : Nat)
  /-- CALL_STATUS_READ (R535) -/
  | callStatusRead (k : Mbox)
  /-- MAILBOX_LOCK_TIMEOUT (R536) -/
  | mailboxLockTimeout (k : Mbox)
  /-- EVT_CAUSE_CLEAR (R514) -/
  | evtCauseClear (v : Vcs) (bits : Nat)
  /-- BAR4_WRITE (R515) -/
  | bar4Write (off v : Nat)
  /-- HUB_BUS_TRANSACTION (R550) -/
  | hubBusTransaction (master : Fin 18) (priv : Fin 4) (k : BusKind) (addr size data : Nat)
  /-- MPU_RECORD_CLEAR (R554) -/
  | mpuRecordClear (src : Source)
  /-- SLOT_ENTRY_WRITE (R552) -/
  | slotEntryWrite (src : Source) (slot : Fin 64) (v : Nat)
  /-- CHALLENGE_READ (R571) -/
  | challengeRead (src : Source)
  /-- TOKEN_PRESENT (R571) -/
  | tokenPresent (src : Source) (len : Fin 65536)
  /-- TOKEN_LAPSE (R572) -/
  | tokenLapse (sess : Nat)
  /-- ATTESTATION_NONCE (R568) -/
  | attestationNonce (src : Source) (nonce : Nat)
  /-- KEY_SLOT_ENROL (R570) -/
  | keySlotEnrol (src : Source) (k : Fin 8) (rights : Fin 256) (stored : Bool)
  /-- KEY_SLOT_REVOKE (R570) -/
  | keySlotRevoke (src : Source) (k : Fin 8) (stored : Bool)
  /-- KEY_SLOT_CLEAR (R570) -/
  | keySlotClear (src : Source) (k : Fin 8) (stored : Bool)
  /-- LIFECYCLE_PROVISION (R574) -/
  | lifecycleProvision (src : Source)
  /-- LIFECYCLE_PRODUCTION (R574) -/
  | lifecycleProduction (src : Source)
  /-- LIFECYCLE_RMA (R574) -/
  | lifecycleRma (src : Source)
  /-- LIFECYCLE_DECOMMISSION (R574) -/
  | lifecycleDecommission (src : Source)
  /-- DEBUG_UNLOCK (R575) -/
  | debugUnlock (src : Source) (minutes : Fin 65536)
  /-- DEBUG_EXPIRY (R575) -/
  | debugExpiry
  /-- STAGING_DATA_WRITE (R576) -/
  | stagingDataWrite (src : Source) (data : Nat)
  /-- STAGING_CHECK (R576) -/
  | stagingCheck (src : Source)
  /-- STAGING_CHECK_DONE (R576) -/
  | stagingCheckDone
  /-- ACTIVATE_LIVE (R577) -/
  | activateLive (src : Source)
  /-- ACTIVATE_RESET (R577) -/
  | activateReset (src : Source)
  /-- LIVE_ACTIVATION_DONE (R577) -/
  | liveActivationDone
  /-- LIVE_ACTIVATION_TIMEOUT (R577) -/
  | liveActivationTimeout
  /-- COMMIT_IMAGES (R578) -/
  | commitImages (src : Source)
  /-- CHAIN_MASK_WRITE (R584) -/
  | chainMaskWrite (src : Source) (w : Fin 24) (v : Nat) (stored : Bool)
  /-- FILTERED_COUNTER_OVERFLOW (R588) -/
  | filteredCounterOverflow (k : Fin 64) (o : Sampled)
  /-- BANDWIDTH_WINDOW_END (R590) -/
  | bandwidthWindowEnd
  /-- WINDOW_LENGTH_WRITE (R590) -/
  | windowLengthWrite (src : Source) (v : Nat) (stored : Bool)
  /-- LEAK_TICK (R593) -/
  | leakTick
  /-- LEAK_THRESHOLD_REACHED (R593) -/
  | leakThresholdReached (d : Die) (u : Fin 53)
  /-- SCRUB_READ (R597) -/
  | scrubRead (c : Fin 24) (f : ScrubFind)
  /-- WALKER_PASS_STEP (R599) -/
  | walkerPassStep (w : Walked) (f : WalkFind)
  /-- GDDR6_REFRESH (R43) -/
  | gddr6Refresh (c : Fin 24)
  /-- GDDR6_CASE_TEMP (R629) -/
  | gddr6CaseTemp (c : Fin 24) (temp : Int)
  /-- EVENT_ACKNOWLEDGE (R602) -/
  | eventAcknowledge (src : Source) (seq : Nat)
  /-- LOSTALERT_CLEAR (R603) -/
  | lostalertClear (src : Source)
  /-- MSI_COALESCE_END (R604) -/
  | msiCoalesceEnd
  /-- STRAP_SAMPLE (R616) -/
  | strapSample (slot : Fin 32)
  /-- TAP_EXTEST (R625) -/
  | tapExtest (pins data : Nat)
  /-- TAP_IDCODE (R623) -/
  | tapIdcode
  /-- TAP_SAMPLE_PRELOAD (R623) -/
  | tapSamplePreload (pins data : Nat)
  /-- TAP_EXTEST_PULSE (R625) -/
  | tapExtestPulse (pins data : Nat)
  /-- TAP_EXTEST_TRAIN (R625) -/
  | tapExtestTrain (pins data : Nat)
  /-- TAP_CLAMP (R625) -/
  | tapClamp
  /-- TAP_HIGHZ (R625) -/
  | tapHighz
  /-- TAP_DEBUG (R625) -/
  | tapDebug
  /-- TAP_BYPASS (R623) -/
  | tapBypass
  /-- ROM_MONITOR_SERVES (R99) -/
  | romMonitorServes
  /-- LANE_CDR_LOCK_LOSS (R273) -/
  | laneCdrLockLoss (l : Lane)
  /-- TRAINING_BLOCKS_IN_ACTIVE (R273) -/
  | trainingBlocksInActive (n : FabPort)
  /-- L1_ENTRY (R192) -/
  | l1Entry (p : EdgePort) (kind : Fin 5)
  /-- PARTNER_WIDTH_CHANGE (R193) -/
  | partnerWidthChange (p : EdgePort) (w : Nat)
  /-- CXL_IO_COMPLETION (R492) -/
  | cxlIoCompletion (p : EdgePort) (k status len data rest : Nat) (poison secure : Bool)
  /-- BAR_REGISTER_WRITE (R483) -/
  | barRegisterWrite (v : Vcs) (n : Vppb) (bar : Fin 6) (base size : Nat) (pf : Bool)
  /-- VF_ENABLE_SET (R513) -/
  | vfEnableSet (v : Vcs)
  /-- DPC_TRIGGER_CLEAR (R239) -/
  | dpcTriggerClear (v : HostVcs) (n : Vppb)
  /-- TAP_RESET (R623) -/
  | tapReset
  deriving DecidableEq, Repr

end Sys2Proof
end

