-- ==== Sys2Proof/Decode.lean ====
section
/-! DEFINITION. Commands spelled by words. No row of spec/opcode_table.json gives bits: its rows name writes, events and
messages, and their operands come from outside; so no word spells a command. -/
namespace Sys2Proof

/-- The command a word of nbits bits spells by the table: none of its rows has bits. -/
def decodeTableWord (_nbits _w : Nat) : Option Instr := none

end Sys2Proof
end

