-- ==== Sys2Proof/Config.lean ====
section
/-! DEFINITION. What an implementation fixes and the values the spec leaves open: opaque constants, of which nothing
can be evaluated. Each is named in notes/assumptions. -/
namespace Sys2Proof.Config

/-- Fresh draws of the random source (epochs, keys, nonces, IVs): the k-th draw (R261, R404, R571). -/
opaque random : Nat → Nat
/-- Keyed hash of a line for its cache way set, directory slice, ledger set, snoop filter slice and set, GDDR6 channel:
selector, key, line (R404, R242, R426). -/
opaque lineHash : Nat → Nat → Nat → Nat
/-- Keyed hash of the memory-side cache's sets, injective line to set of its block (R404). -/
opaque cacheHash : Nat → Nat → Nat
/-- 16-bit route hash of a flow, hop slot and route key (R306). -/
opaque routeHash : Nat → Nat → Nat → Nat
/-- ML-DSA-65 verification: public key, context string, message, signature (R559). -/
opaque mlDsaVerify : Nat → List Nat → List Nat → Nat → Bool
/-- ML-DSA-65 signature, 3,309 bytes as a number: the seed of the key pair, context string, message (R559). -/
opaque mlDsaSign : Nat → List Nat → List Nat → Nat
/-- ML-DSA-65 public key, 1,952 bytes as a number, of the key pair of a seed (R566). -/
opaque mlDsaPublic : Nat → Nat
/-- Factory values: 0 serial number, 1 vendor ID, 2 hardware revision. -/
opaque factory : Nat → Nat
/-- Content of the factory images: slot 2 x KIND - 2, plus 1 for B; byte (R560). -/
opaque image : Nat → Nat → Nat
/-- Release key digests in ROM, by key (R561). -/
opaque releaseDigest : Nat → Nat
/-- A value the spec leaves open: which, and what it depends on. -/
opaque openValue : Nat → Nat → Nat

end Sys2Proof.Config
end

