-- ==== Sys2Proof/Machine/Bits.lean ====
section
/-! DEFINITION. Bit fields of the module's words: a word is the number its bits spell, field [hi:lo] is read with
`fld`, and a word is built from its fields with `pack`. -/
namespace Sys2Proof.Machine

/-- Field of width w at bit lo of x. -/
def fld (x lo w : Nat) : Nat := x / 2 ^ lo % 2 ^ w

/-- One bit of x as a Bool. -/
def bit (x i : Nat) : Bool := x / 2 ^ i % 2 == 1

/-- A word from its fields (value, lowest bit, width); a value is cut to its width. -/
def pack : List (Nat × Nat × Nat) → Nat
  | [] => 0
  | (v, lo, w) :: t => v % 2 ^ w * 2 ^ lo + pack t

/-- x with field [lo, lo+w) replaced by v. -/
def setFld (x lo w v : Nat) : Nat := x - fld x lo w * 2 ^ lo + v % 2 ^ w * 2 ^ lo

def b2n (b : Bool) : Nat := if b then 1 else 0

/-- Division rounded up. -/
def cdiv (a b : Nat) : Nat := (a + b - 1) / b

/-- Distance from a to b modulo n. -/
def dist (a b n : Nat) : Nat := (b + n - a % n) % n

/-- A number as len bytes, the most significant first. -/
def toBytes : Nat → Nat → List Nat
  | 0, _ => []
  | len + 1, n => n / 256 ^ len % 256 :: toBytes len n

/-- Bytes, the most significant first, as a number. -/
def ofBytes (l : List Nat) : Nat := l.foldl (fun a b => a * 256 + b % 256) 0

/-- Bytes, the least significant first, as a number. -/
def ofBytesLE : List Nat → Nat
  | [] => 0
  | b :: t => b % 256 + 256 * ofBytesLE t

/-- A number as len bytes, the least significant first: how the module lays words in memory (PRESUMED, PCI Express). -/
def leBytes (len n : Nat) : List Nat := (List.range len).map fun i => n / 256 ^ i % 256

def lastN {α : Type} (n : Nat) (l : List α) : List α := l.drop (l.length - n)

/-- All elements but those equal to a. -/
def without {α : Type} [DecidableEq α] (a : α) (l : List α) : List α := l.filter (fun x => !decide (x = a))

/-- a at the end, unless it is there. -/
def addOnce {α : Type} [DecidableEq α] (a : α) (l : List α) : List α := if a ∈ l then l else l ++ [a]

/-- Insert before the first element that does not come before a. -/
def insertBy {α : Type} (before : α → α → Bool) (a : α) : List α → List α
  | [] => [a]
  | b :: t => if before b a then b :: insertBy before a t else a :: b :: t

/-- A list in order, by a strict order; equal elements keep theirs. -/
def sortBy {α : Type} (before : α → α → Bool) : List α → List α
  | [] => []
  | a :: t => insertBy before a (sortBy before t)

end Sys2Proof.Machine
end

