-- ==== Sys2Proof/Machine/FlitCodec.lean ====
section
/-! DEFINITION. The flit as it crosses the lanes: its 256 bytes (R249, R250, R260), CRC-64 (R252), the two Reed–Solomon code words (R253), the
distribution to four lanes (R251), Gray mapping and precoding (R182, R183), alignment markers and training blocks (R194). -/
namespace Sys2Proof.Machine

/-! Lanes: Gray mapping and precoding. -/

/-- PAM4 level of a pair of bits, and the pair of a level: the mapping is its own inverse (R182). -/
def gray (x : Nat) : Nat :=
  match x % 4 with
  | 0 => 0 | 1 => 1 | 2 => 3 | _ => 2

/-- P(n) = (G(n) − P(n−1)) mod 4, from the P before the first symbol (R183). -/
def precode : Nat → List Nat → List Nat
  | _, [] => []
  | p, g :: t => (g + 4 - p % 4) % 4 :: precode ((g + 4 - p % 4) % 4) t

/-- G(n) = (P(n) + P(n−1)) mod 4 (R183). -/
def unprecode : Nat → List Nat → List Nat
  | _, [] => []
  | p, x :: t => (x + p) % 4 :: unprecode x t

/-- Inverted polarity corrected: the more significant bit of each level's pair flips, which exchanges levels 0 and 3, and 1 and 2 (R186). The
level is corrected before precoding is taken off (log 216). -/
def flipLevel (x : Nat) : Nat := gray ((gray x + 2) % 4)

/-- The levels of a byte, most significant pair first (R251). -/
def byteLevels (b : Nat) : List Nat := [gray (b / 64), gray (b / 16), gray (b / 4), gray b]

/-- Bytes of a lane's levels, four to a byte. -/
def levelBytes : List Nat → List Nat
  | a :: b :: c :: d :: t => (gray a * 64 + gray b * 16 + gray c * 4 + gray d) :: levelBytes t
  | _ => []

/-- Bytes 2j and 2j + 1 of a flit go to logical lane j mod 4 (R251). -/
def laneBytes (bs : List Nat) (lane : Nat) : List Nat :=
  (List.range 32).flatMap fun q => [bs.getD (8 * q + 2 * lane) 0, bs.getD (8 * q + 2 * lane + 1) 0]

/-- The flit's bytes from the bytes of its four logical lanes (R251). -/
def joinLanes (l0 l1 l2 l3 : List Nat) : List Nat :=
  (List.range 32).flatMap fun q => [l0, l1, l2, l3].flatMap fun l => [l.getD (2 * q) 0, l.getD (2 * q + 1) 0]

/-! CRC-64 (R252). -/

/-- The CRC register after n further bits of zero. -/
def crcShift : Nat → Nat → Nat
  | 0, r => r
  | n + 1, r => crcShift n (if r / 2 ^ 63 % 2 = 1 then Nat.xor (r * 2 % 2 ^ 64) 0x42F0E1EBA9EA3693 else r * 2 % 2 ^ 64)

/-- CRC-64 of bytes: polynomial of ECMA-182, all ones at first, most significant bit first, inverted at the end (R252). -/
def crc64 (bs : List Nat) : Nat :=
  Nat.xor (bs.foldl (fun r b => crcShift 8 (Nat.xor r (b % 256 * 2 ^ 56))) (2 ^ 64 - 1)) (2 ^ 64 - 1)

/-! Arithmetic of GF(2^8) over x^8 + x^4 + x^3 + x^2 + 1 (R253). -/

/-- a times α. -/
def gfDouble (a : Nat) : Nat := if 128 ≤ a then Nat.xor (2 * a) 0x11D else 2 * a

/-- a times b, by the n low bits of b. -/
def gfMulBits : Nat → Nat → Nat → Nat
  | 0, _, _ => 0
  | n + 1, a, b => Nat.xor (if b % 2 = 1 then a else 0) (gfMulBits n (gfDouble a) (b / 2))

def gfMul (a b : Nat) : Nat := gfMulBits 8 a b

def gfPow (a : Nat) : Nat → Nat
  | 0 => 1
  | n + 1 => gfMul a (gfPow a n)

/-- α^n. -/
def gfExp : Nat → Nat
  | 0 => 1
  | n + 1 => gfDouble (gfExp n)

/-- The inverse of a nonzero a: a^254. -/
def gfInv (a : Nat) : Nat := gfPow a 254

def gfSum (l : List Nat) : Nat := l.foldl Nat.xor 0

/-! RS(128,121) (R253). The first symbol of a code word is its highest coefficient (log 216). -/

/-- A polynomial, highest coefficient first, times (x − r). -/
def polyTimes (p : List Nat) (r : Nat) : List Nat := List.zipWith Nat.xor (p ++ [0]) (0 :: p.map (gfMul r))

/-- (x − α^0)(x − α^1)…(x − α^6), highest coefficient first, without the leading 1. -/
def rsGenerator : List Nat := ((List.range 7).foldl (fun p i => polyTimes p (gfExp i)) [1]).drop 1

/-- The seven check symbols of a code word's data. -/
def rsCheck (data : List Nat) : List Nat :=
  data.foldl (fun r d =>
    let f := Nat.xor (d % 256) (r.getD 0 0)
    List.zipWith Nat.xor (r.drop 1 ++ [0]) (rsGenerator.map (gfMul f))) (List.replicate 7 0)

/-- The seven syndromes of a code word: its values at α^0 to α^6. -/
def rsSyndromes (word : List Nat) : List Nat :=
  (List.range 7).map fun i => let a := gfExp i; word.foldl (fun s c => Nat.xor (gfMul s a) (c % 256)) 0

/-- Subtract multiples of the row `pivot :: p`, scaled to `1 :: p`, so that the rows' first column goes. -/
def gfEliminate (p : List Nat) (rows : List (List Nat)) : List (List Nat) :=
  rows.map fun r => List.zipWith (fun x y => Nat.xor x (gfMul (r.getD 0 0) y)) (r.drop 1) p

/-- The solution of n equations in n unknowns over GF(2^8), each its coefficients and right side; none where they are singular. -/
def gfSolve : Nat → List (List Nat) → Option (List Nat)
  | 0, _ => some []
  | n + 1, rows =>
    match rows.find? fun r => r.getD 0 0 ≠ 0 with
    | none => none
    | some r =>
      let k := gfInv (r.getD 0 0)
      let p := (r.drop 1).map (gfMul k)
      (gfSolve n (gfEliminate p (rows.erase r))).map fun xs =>
        Nat.xor (p.getD n 0) (gfSum (List.zipWith gfMul p xs)) :: xs

/-- The error of exactly v symbols that a code word's syndromes show: positions in the word (0 first sent) and values. -/
def rsErrors (syn : List Nat) (v : Nat) : Option (List (Nat × Nat)) :=
  let s := fun (i : Nat) => syn.getD i 0
  match gfSolve v ((List.range v).map fun i => (List.range v).map (fun j => s (i + j)) ++ [s (i + v)]) with
  | none => none
  | some c =>
    let at_ := (List.range 128).filter fun k =>
      let x := gfExp (127 - k)
      gfPow x v == gfSum ((List.range v).map fun j => gfMul (c.getD j 0) (gfPow x j))
    let xs := at_.map fun k => gfExp (127 - k)
    if at_.length ≠ v then none
    else
      match gfSolve v ((List.range v).map fun i => xs.map (fun x => gfPow x i) ++ [s i]) with
      | none => none
      | some es =>
        if (List.range 7).all fun i => s i == gfSum (List.zipWith (fun x e => gfMul (gfPow x i) e) xs es) then some (at_.zip es) else none

/-- A code word decoded: corrected, with the number of symbols corrected; none where it is uncorrectable. At most three symbols are corrected, and
four in error are always found (R253). -/
def rsDecode (word : List Nat) : Option (List Nat × Nat) :=
  let syn := rsSyndromes word
  if syn.all (· == 0) then some (word, 0)
  else
    match [1, 2, 3].findSome? (rsErrors syn) with
    | some es => some (es.foldl (fun w x => w.set x.1 (Nat.xor (w.getD x.1 0) x.2)) word, es.length)
    | none => none

/-- Every other element, from the first. -/
def evens : List Nat → List Nat
  | [] => []
  | [a] => [a]
  | a :: _ :: t => a :: evens t

/-- Two lists in turn. -/
def interleave (a b : List Nat) : List Nat := (a.zip b).flatMap fun x => [x.1, x.2]

/-! The flit's bytes. -/

/-- Bits of the 16-bit header (R250). -/
def flitHeader : FlitForm → Nat
  | .null => 0
  | .payload replay seq _ => pack [(1, 14, 2), (b2n replay, 13, 1), (seq, 0, 12)]
  | .control _ => pack [(2, 14, 2)]

/-- Bytes 0 to 53 of a CONTROL flit's payload, and its zero bytes (R260). -/
def controlBytes (c : Control) : List Nat :=
  [c.ctype % 256, if c.nak then 128 else 0] ++ toBytes 2 (c.ack % 4096) ++ ((List.range 16).flatMap fun i => toBytes 2 (c.grant.getD i 0)) ++
    [c.opens % 256, 0] ++ toBytes 8 c.ownId ++ toBytes 8 c.heldId ++ List.replicate 178 0

/-- The 232 payload bytes. Those of a NULL flit are free values (log 216). -/
def flitPayload : FlitForm → List Nat
  | .null => (List.range 232).map fun i => Config.openValue 40 i % 256
  | .payload _ _ ws => (List.range 29).flatMap fun i => toBytes 8 (ws.getD i 0)
  | .control c => controlBytes c

/-- The 256 bytes of a flit: header, payload, CRC-64, and the check symbols of the two code words, which take turns byte by byte (R249, R252,
R253). -/
def flitBytes (f : FlitForm) : List Nat :=
  let body := toBytes 2 (flitHeader f) ++ flitPayload f
  let data := body ++ toBytes 8 (crc64 body)
  data ++ interleave (rsCheck (evens data)) (rsCheck (evens (data.drop 1)))

/-- The CONTROL fields of a payload (R260). -/
def controlOfBytes (b : List Nat) : Control :=
  let at_ := fun (i len : Nat) => ofBytes ((b.drop i).take len)
  { ctype := b.getD 0 0, nak := bit (b.getD 1 0) 7, ack := at_ 2 2 % 4096, grant := (List.range 16).map fun i => at_ (4 + 2 * i) 2,
    opens := b.getD 36 0, ownId := at_ 38 8, heldId := at_ 46 8 }

/-- What the receiver makes of a flit: FEC failed, the CRC failed, KIND 3, or a good flit; with the symbols corrected (R254, R263). -/
inductive FlitRx where
  | uncorrectable (fixed : Nat)
  | crcFailed (fixed : Nat)
  | reserved (fixed : Nat)
  | good (f : FlitForm) (fixed : Nat)
  deriving DecidableEq, Repr

/-- The form of good bytes, by KIND; none for KIND 3 (R250). -/
def formOfBytes (b : List Nat) : Option FlitForm :=
  let h := ofBytes (b.take 2)
  let payload := (b.drop 2).take 232
  match fld h 14 2 with
  | 0 => some .null
  | 1 => some (.payload (bit h 13) (fld h 0 12) ((List.range 29).map fun i => ofBytes ((payload.drop (8 * i)).take 8)))
  | 2 => some (.control (controlOfBytes payload))
  | _ => none

/-- The receiver decodes FEC first and checks the CRC second (R254). -/
def flitDecode (bs : List Nat) : FlitRx :=
  match rsDecode (evens bs), rsDecode (evens (bs.drop 1)) with
  | some x, some y =>
    let b := interleave x.1 y.1
    let fixed := x.2 + y.2
    if crc64 (b.take 234) ≠ ofBytes ((b.drop 234).take 8) then .crcFailed fixed
    else match formOfBytes b with
      | some f => .good f fixed
      | none => .reserved fixed
  | some x, none => .uncorrectable x.2
  | none, some y => .uncorrectable y.2
  | none, none => .uncorrectable 0

/-! Alignment markers and training blocks (R194), whose symbols the spec does not give: free values (log 213). -/

/-- The 32-symbol alignment marker of a lane. -/
def marker (lane : Nat) : List Nat := (List.range 32).map fun i => Config.openValue 41 (32 * lane + i) % 4

/-- A training block of a lane: its marker, then 224 symbols of content that state the receiver's precoding request (R185, R194). -/
def trainingBlock (lane : Nat) (ask : Bool) : List Nat :=
  marker lane ++ (List.range 224).map fun i => Config.openValue 42 (1024 * b2n ask + 256 * lane + i) % 4

/-- One marker falls in every 2^14 symbols of a lane: 16,352 symbols of flits between two markers (R194). From the flit symbols since the last one:
the symbols with the marker in its place, and the count after them. -/
def withMarker (lane since : Nat) (syms : List Nat) : List Nat :=
  if since + syms.length < 16352 then syms
  else syms.take (16352 - since) ++ marker lane ++ syms.drop (16352 - since)

def markerCount (since : Nat) : Nat := (since + 256) % 16352

end Sys2Proof.Machine
end

