-- ==== Sys2Proof/Machine/Tbl.lean ====
section
/-! DEFINITION. Sparse tables keyed by a number, in one canonical form: keys strictly rising and no entry equal to
what an unlisted key reads as. Every per-unit array of the module (its ports, lanes, lines, objects) is one of these,
so a state at reset lists nothing and equal tables are equal data. -/
namespace Sys2Proof.Machine

abbrev Tbl (α : Type) := List (Nat × α)

/-- The entry of key k, or what an unlisted key reads as. -/
def tget {α : Type} (dflt : α) (k : Nat) : Tbl α → α
  | [] => dflt
  | (j, a) :: t => if j = k then a else tget dflt k t

/-- The table with key k unlisted. -/
def tdel {α : Type} (k : Nat) : Tbl α → Tbl α
  | [] => []
  | (j, a) :: t => if j = k then tdel k t else (j, a) :: tdel k t

/-- The table with key k listed with value v, in key order. -/
def tins {α : Type} (k : Nat) (v : α) : Tbl α → Tbl α
  | [] => [(k, v)]
  | (j, a) :: t => if k < j then (k, v) :: (j, a) :: t else if j = k then (k, v) :: t else (j, a) :: tins k v t

/-- Store v at key k; storing the default unlists the key. -/
def tset {α : Type} [DecidableEq α] (dflt : α) (k : Nat) (v : α) (t : Tbl α) : Tbl α :=
  if v = dflt then tdel k t else tins k v t

/-- Change the entry of key k by f. -/
def tmod {α : Type} [DecidableEq α] (dflt : α) (k : Nat) (f : α → α) (t : Tbl α) : Tbl α :=
  tset dflt k (f (tget dflt k t)) t

/-- Keep the listed entries that satisfy p. -/
def tkeep {α : Type} (p : Nat → α → Bool) : Tbl α → Tbl α
  | [] => []
  | (j, a) :: t => if p j a then (j, a) :: tkeep p t else tkeep p t

/-- Keys strictly above lo, rising. -/
def tsorted {α : Type} (lo : Option Nat) : Tbl α → Bool
  | [] => true
  | (j, _) :: t => (match lo with | none => true | some l => decide (l < j)) && tsorted (some j) t

/-- No entry equals what an unlisted key reads as. -/
def tnodflt {α : Type} [DecidableEq α] (dflt : α) : Tbl α → Bool
  | [] => true
  | (_, a) :: t => decide (a ≠ dflt) && tnodflt dflt t

/-- The canonical form of a table. -/
def Tbl.wf {α : Type} [DecidableEq α] (dflt : α) (t : Tbl α) : Bool := tsorted none t && tnodflt dflt t

end Sys2Proof.Machine
end

