-- ==== Sys2Proof/Machine/Blocks/Bridge.lean ====
section
/-! DEFINITION. Ordering and protocol bridging: streams, write-combining, barriers, semaphores (R481 to R508). -/
namespace Sys2Proof.Machine

/-- Kinds of access as R488 orders them. -/
inductive Ak where
  | normalWrite | deviceWrite | normalRead | deviceRead | atomic | barrier | interrupt
  deriving DecidableEq, Repr

/-- A target (R488): an edge port of a module, or a parcel by home and descriptor; or a host's memory by its upstream port. -/
inductive Tgt where
  | port (sw q : Nat)
  | parcel (home desc : Nat)
  deriving DecidableEq, Repr

/-- Who made an access: an edge port (the stream's port), or a descriptor of a queue pair. -/
inductive Maker where
  | port (p : Nat)
  | mover (qp id : Nat)
  deriving DecidableEq, Repr

/-- What an access is on the bridge. -/
inductive Io where
  | write | message | read | config | atomic | locked | completion | unlock
  deriving DecidableEq, Repr

/-- An accepted access: its stream, kind and target; its address in the window or line, size, bytes and enables (byte 0
the lowest address); its TLP header as received, and the requester's tag. -/
structure IoReq where
  id : Nat
  stream : Nat
  maker : Maker
  tenant : Nat := 0
  kind : Ak
  io : Io
  tgt : Tgt
  addr : Nat
  len : Nat
  data : Nat := 0
  mask : Nat := 0
  hdr : Nat := 0
  tag : Nat := 0
  poison : Bool := false
  secure : Bool := false
  /-- a request to the memory of a device (HDM-H), on TC3 -/
  hdm : Bool := false
  /-- its port was removed or reset after it was accepted: its response is discarded (R130, R239) -/
  lost : Bool := false
  /-- VCS and vPPB of the binding, for FMT 2 packets -/
  vcs : Nat := 0
  vppb : Nat := 0
  /-- a host's CXL.mem access held for a barrier or an atomic: its access kind 0 to 3 and DPA -/
  mem : Option (Nat × Nat) := none
  /-- the descriptor's or the emulated atomic's operand: operation, operand, compare value -/
  alu : Option (Nat × Nat × Nat) := none
  deriving DecidableEq, Repr

/-- A write-combining entry (R486): 256 bytes of one stream in one window or UC parcel. -/
structure WcEnt where
  port : Nat
  req : IoReq
  block : Nat
  mask : Nat
  data : Nat
  first : Nat
  /-- tracker entries of the host writes combined in it, when it holds a UC parcel's -/
  acks : List Nat := []
  deriving DecidableEq, Repr

/-- Who issued a barrier (R496). -/
inductive BarWho where
  | vf (n : Nat)
  | qp (q id : Nat)
  | firmware
  deriving DecidableEq, Repr

/-- A pending barrier: the covered writes not yet complete, those complete with error and the first one's address. -/
structure Barrier where
  stream : Nat
  seq : Nat
  who : BarWho
  covered : List Nat
  errors : Nat := 0
  addr : Nat := 0
  /-- STATUS 3: the stream's port was removed (R507) -/
  removed : Bool := false
  /-- STATUS 2: the bound of a warm reset expired (R507) -/
  cut : Bool := false
  deriving DecidableEq, Repr

/-- A request delivered to an edge port: a posted write not yet acknowledged by its link layer (R495), or a request the
device has still to complete. It names the module and transaction ID to answer, its flow and tenant, its class. -/
structure Deliv where
  port : Nat
  sw : Nat
  tid : Nat
  flow : Nat
  tenant : Nat
  tc : Nat := 4
  tunnel : Bool := false
  /-- a configuration read of a device whose cache capability is hidden (R225): its register offset -/
  hide : Option Nat := none
  deriving DecidableEq, Repr

/-- A request that needs a port's semaphore (R503, R504): the key of its stream (module, source port, tenant), and its REQ. -/
structure SemReq where
  key : Nat
  pkt : Pkt
  locked : Bool := false
  deriving DecidableEq, Repr

/-- The semaphore of a device-role port (R503): its holder and since when; the AtomicOp being emulated under it, its step (0 read asked, 1
write asked), its own transaction ID and the operand read; the requests waiting, first in first out. -/
structure Sem where
  holder : Option SemReq := none
  since : Nat := 0
  cur : Option SemReq := none
  step : Nat := 0
  tid : Nat := 0
  old : Nat := 0
  waiting : List SemReq := []
  deriving DecidableEq, Repr

structure BridgeBlk where
  nextId : Nat := 1
  /-- accesses carried and not complete, and those held at their ingress, in order of acceptance -/
  live : List IoReq := []
  held : List IoReq := []
  wc : List WcEnt := []
  barriers : List Barrier := []
  /-- barrier number within the stream (R499) -/
  barSeq : Tbl Nat := []
  /-- barrier results: VF slots 0 to 255, firmware at 256 -/
  results : Tbl (Nat × Nat) := []
  delivered : List Deliv := []
  sems : Tbl Sem := []
  /-- streams whose locked sequence hit its hold limit, by stream key and port: carried unlocked until their Unlock (R505) -/
  unlocked : List (Nat × Nat) := []
  /-- VCSs with a locked sequence running, with its locked read: one at a time (R504) -/
  locks : List (Nat × IoReq) := []
  /-- data of the pieces read so far of a request to a Device parcel, by 65,536 x port + tag -/
  parts : Tbl Nat := []
  /-- words of a message arriving over several FMT 2 packets, by source module and flow and class -/
  tunnel : Tbl (List Nat) := []
  /-- posted writes of a flow completed and not yet reported, with the time of the last BCMP (R495) -/
  bcmp : Tbl (Nat × Nat) := []
  deriving DecidableEq, Repr

end Sys2Proof.Machine
end

