-- ==== Sys2Proof/Machine/Blocks/Cache.lean ====
section
/-! DEFINITION. The memory-side cache, the home and its directory, pooling (R385 to R480). -/
namespace Sys2Proof.Machine

/-- Cache states of a line: stable (R424) and transient (R453). -/
inductive CSt where
  | i | s | e | o | m
  | isD | isDI | imAD | imA | smAD | smA | omAD | omA | meA | owA | miA | eiA | oiA | iiA
  deriving DecidableEq, Repr

/-- Who is answered. -/
inductive Who where
  /-- nobody: a prefetch, a maintenance access -/
  | none
  /-- a host's or device's request with its tag on an edge port; its kind 3 tracker entry -/
  | host (port tag trk : Nat)
  /-- a descriptor of a queue pair -/
  | mover (qp id : Nat)
  /-- a TC3 request from another module: its switch ID and transaction ID -/
  | remote (sw tid : Nat)
  deriving DecidableEq, Repr

/-- What an access changes in the line: nothing, bytes by a 64-bit mask (bit i for byte i), or an atomic of `size` bytes at
byte `off`: 0 fetch-and-add, 1 swap, 2 compare-and-swap of `cmp` (R502, R521). -/
inductive Edit where
  | none
  | bytes (mask data : Nat)
  | atomic (op size off a cmp : Nat)
  deriving DecidableEq, Repr

/-- Host and engine accesses to a line (R447). -/
inductive AccKind where
  | read | readShared | readAny | write | prefetch
  deriving DecidableEq, Repr

structure Access where
  kind : AccKind
  who : Who := .none
  /-- edge port of the requester: its filter bit and its tracker cap -/
  port : Option Nat := none
  /-- upstream port of the queue pair of a data-mover access, whose tracker cap it counts against (R346) -/
  cap : Option Nat := none
  tenant : Nat := 0
  edit : Edit := .none
  /-- the access has missed, and is counted (9.020.02) -/
  missed : Bool := false
  deriving DecidableEq, Repr

/-- Why a line is to be evicted: the victim of a fill, with the port whose access asked for it, a release or UC line let go, a flush with its
discard mode, DRAIN. -/
inductive Why where
  | victim (cap : Option Nat) | release | flush (discard : Bool) | drain
  deriving DecidableEq, Repr

/-- What waits for the host tier on a line (R442, R446). -/
inductive Pend where
  /-- a TC1 message: op 0 FwdShared, 1 FwdOwn, 2 Inv, its requester and ACKS -/
  | msg (op req acks : Nat)
  /-- the home's local action on its own copy (R440) -/
  | home (op : Nat)
  | evict (w : Why)
  /-- the access at the head of the line's queue has had the other holders snooped -/
  | access
  /-- the line's filter entry is the victim of its set (R245) -/
  | filter
  deriving DecidableEq, Repr

/-- A line of the memory-side cache. -/
structure Line where
  st : CSt := .i
  data : Nat := 0
  poison : Bool := false
  pfl : Bool := false
  rrpv : Nat := 0
  /-- way in its set; none while the line's way is still being freed, or in I -/
  way : Option Nat := none
  /-- InvAcks counted, and ACKS of the grant once it has come (R443) -/
  acks : Nat := 0
  need : Option Nat := none
  /-- the grant came from the home, and its KEPT -/
  fromHome : Bool := true
  kept : Bool := false
  /-- Acks still owed in ME_A, OW_A and II_A -/
  owed : Nat := 0
  /-- forward slot (R455): op, requester, ACKS -/
  fwd : Option (Nat × Nat × Nat) := none
  /-- accesses waiting, first to be served first; host writes written through, awaiting their Acks -/
  wait : List Access := []
  through : List Access := []
  pend : List Pend := []
  /-- the snoops of the first pending entry have been sent -/
  sent : Bool := false
  /-- kind 5 requester entry (R347) -/
  trk : Option Nat := none
  /-- a flush awaits this eviction's Ack: home asking -/
  flushFor : Bool := false
  deriving DecidableEq, Repr

/-- Directory states (R429). -/
inductive DSt where
  | uncached | shared | exclusive | owned | broadcast
  deriving DecidableEq, Repr

/-- A directory entry (R428): state, OWNER, pointers, and where it is kept. -/
structure DEnt where
  st : DSt := .uncached
  owner : Nat := 0
  ptrs : List Nat := []
  /-- on chip, or in the ledger; its way there -/
  chip : Bool := true
  way : Nat := 0
  age : Nat := 0
  deriving DecidableEq, Repr

/-- Busy states of a home transaction (R459). -/
inductive HSt where
  | s | l | t | d | w | c | r
  deriving DecidableEq, Repr

/-- A request at the home: a TC0 message (codes of R432), or 6 read, 7 write, 8 atomic of a UC or Device parcel. -/
structure HReq where
  op : Nat
  from_ : Nat
  pref : Bool := false
  keep : Bool := false
  poison : Bool := false
  data : Nat := 0
  /-- kind 5 home entry -/
  trk : Option Nat := none
  /-- of a UC or Device access: whom to answer, the edit, the length -/
  who : Who := .none
  edit : Edit := .none
  deriving DecidableEq, Repr

/-- Grants of R439. -/
inductive Grant where
  | data | owned | ack | none
  deriving DecidableEq, Repr

/-- A home transaction in progress. -/
structure Txn where
  busy : HSt := .s
  req : Option HReq := none
  /-- forward to the owner: op and owner; Inv targets still to be sent, as unicasts and as one multicast -/
  fwd : Option (Nat × Nat) := none
  inv : List Nat := []
  mcast : List Nat := []
  grant : Grant := .none
  acks : Nat := 0
  /-- state to write at the end, and the one when KEPT is 0 -/
  next : DEnt := {}
  nextDrop : Option DEnt := none
  /-- data of the home's own copy, when that serves the grant, with its poison -/
  own : Option (Nat × Bool) := none
  /-- modules an Inv of this transaction went to (R473) -/
  sentInv : List Nat := []
  sentFwd : Option (Nat × Nat) := none
  /-- recall: answers still due; data in them is not written back -/
  due : Nat := 0
  discard : Bool := false
  /-- the line has been recalled for this request already -/
  recalled : Bool := false
  /-- a recall's own kind 5 entry, when no request caused it (R466) -/
  trk : Option Nat := none
  /-- slot reserved for a new entry: on chip or in the ledger, its way (R464) -/
  slot : Option (Bool × Nat) := none
  deriving DecidableEq, Repr

/-- A flush the home runs (R471, R472): 65,535 is every parcel; members still to answer; the ledger scan runs. -/
structure HomeFlush where
  desc : Nat
  discard : Bool := false
  due : List Nat := []
  lastAt : Nat := 0
  scanning : Bool := false
  deriving DecidableEq, Repr

/-- A flush request a member serves: who is answered, home, parcel, mode. -/
structure MemberFlush where
  home : Nat
  desc : Nat
  discard : Bool := false
  src : Source
  seq : Nat := 0
  session : Nat := 0
  deriving DecidableEq, Repr

/-- A lost-message report kept until the home answers it (R474). -/
structure LostReport where
  home : Nat
  hdr : Nat
  lastAt : Nat := 0
  deriving DecidableEq, Repr

/-- The memory-side cache. -/
structure CacheBlk where
  lines : Tbl Line := []
  flushes : List MemberFlush := []
  reports : List LostReport := []
  /-- cache key drawn at power-on and warm reset (R404) -/
  key : Nat := 0
  /-- results of accesses for descriptors: queue pair, access, data, poison, and 0 or the error: a CODE of R500, 256 its own timer -/
  results : List (Nat × Nat × Nat × Bool × Nat) := []
  deriving DecidableEq, Repr

/-- The home role: Cadastre and ledger, transactions, flushes. Lines are keyed with home ID 0. -/
structure HomeBlk where
  dir : Tbl DEnt := []
  txns : Tbl Txn := []
  queue : Tbl (List HReq) := []
  /-- suspect sets: on chip, in the ledger (R469) -/
  suspectChip : List Nat := []
  suspectLedger : List Nat := []
  /-- broadcast tokens of each die in units of 10^-9 below the burst, and when last refilled; lines waiting (R468) -/
  spent : Tbl Nat := []
  refillAt : Tbl Nat := []
  tokenWait : List (Nat × Nat) := []
  flushes : List HomeFlush := []
  /-- switch IDs confirmed lost whose scan runs (R473) -/
  lost : List Nat := []
  deriving DecidableEq, Repr

/-- A migration that runs (R402): pass, whether it is the final one, chunks whose bit is set. -/
structure Mig where
  pass : Nat := 1
  final : Bool := false
  /-- STATE before the migration -/
  was : Nat := 1
  bits : List Nat := []
  /-- backing writes the final pass holds: byte offset, data, poison -/
  held : List (Nat × Nat × Bool) := []
  deriving DecidableEq, Repr

/-- What the module keeps of an extent beside its object (R393 to R395). -/
structure ExtSt where
  /-- size code of the parcel once known, and the D0 policy bits -/
  size : Option Nat := none
  policy : Nat := 0
  mtype : Bool := false
  pf : Bool := false
  /-- the host has been asked to release, and when -/
  askedAt : Option Nat := none
  /-- lines of the extent are being taken back before the unbind (R394) -/
  flushing : Bool := false
  /-- the unbind awaits its answer -/
  unbinding : Bool := false
  /-- the host has released the extent (R394) -/
  freed : Bool := false
  /-- home and descriptor the parcel has moved to since the entry was written (R399) -/
  moved : Option (Nat × Nat) := none
  deriving DecidableEq, Repr

structure PoolBlk where
  /-- D7 of each descriptor, by the number of its draw (R387) -/
  keys : Tbl Nat := []
  ext : Tbl ExtSt := []
  /-- partner copies that are stale: since when, last attempt (R396) -/
  stale : Tbl (Nat × Nat) := []
  /-- partner copies still to be read before a parcel is served (R400) -/
  await : List Nat := []
  /-- parcels being re-initialised with zeros (R416) -/
  zeroing : List Nat := []
  /-- parcels without a partner that DRAIN recalls, and those it has unhomed (R124); parcels handed off in DRAIN (R123) -/
  recalling : List Nat := []
  unhomed : List Nat := []
  handed : List Nat := []
  migs : Tbl Mig := []
  /-- requests counted in the window to each unit, hot windows in a row, time of the last event (R406): units 0 to 23
  channels, 32 + 32d + slice Cadastre slices, 128 + 4d + q snoop filter slices -/
  hits : Tbl Nat := []
  streak : Tbl Nat := []
  windowEnd : Nat := 0
  deriving DecidableEq, Repr

end Sys2Proof.Machine
end

