-- ==== Sys2Proof/Machine/Blocks/Dict.lean ====
section
/-! DEFINITION. The dictionary engine: stored objects, groups, sessions, subscriptions, proxies, windows (R45 to R104). -/
namespace Sys2Proof.Machine

/-- Privileges (R53). -/
inductive Priv where
  | root | manager | tenant | observer
  deriving DecidableEq, Repr

/-- Status codes (R81). -/
inductive Sts where
  | ok | pending | notFound | accessDenied | type | range | locked | mode | busy | noGroup | token
  | unreachable | timeout | header | tooLong | timePast | flash
  deriving DecidableEq, Repr

/-- One item of a response (R77). -/
structure RItem where
  oid : Nat
  ty : Nat := 0
  len : Nat := 0
  val : Nat := 0
  status : Sts := .ok
  pend : Bool := false
  deriving DecidableEq, Repr

/-- A response: message status, holder of a lock or new session, items. -/
structure Resp where
  opcode : Nat
  session : Nat := 0
  seq : Nat := 0
  status : Sts := .ok
  /-- the holder's session ID that accompanies LOCKED (R63, R70) -/
  holder : Nat := 0
  subid : Nat := 0
  items : List RItem := []
  deriving DecidableEq, Repr

/-- A dynamic session (R82 to R85). -/
structure Session where
  id : Nat
  src : Source
  lastAt : Nat := 0
  /-- the last 16 responses, newest first -/
  kept : List Resp := []
  notifySeq : Nat := 0
  deriving DecidableEq, Repr

/-- A subscription (R86): its session, object, mode and the values last sent. -/
structure Sub where
  id : Nat
  session : Nat
  oid : Nat
  /-- element 00 of an array stands for every element -/
  all : Bool := false
  mode : Nat := 0
  lastAt : Nat := 0
  last : List (Nat × Nat) := []
  /-- last event record delivered, for E.014.00 (R605) -/
  lastSeq : Nat := 0
  deriving DecidableEq, Repr

/-- States of a group slot (R75). -/
inductive GState where
  | opened | applying | armed
  deriving DecidableEq, Repr

/-- A group instance in use (R60 to R75). -/
structure Group where
  num : Nat
  /-- the group slot 0.011.01 to 0.011.40 it occupies -/
  slot : Nat := 1
  st : GState := .opened
  session : Nat := 0
  openedAt : Nat := 0
  handedAt : Nat := 0
  /-- the COMMIT has been answered -/
  answered : Bool := false
  /-- what the COMMIT is owed: its source, opcode and SEQ; the object of a WRITE -/
  src : Source := .firmware
  opcode : Nat := 5
  seq : Nat := 0
  oid : Nat := 0
  shadows : List (Nat × Nat) := []
  deriving DecidableEq, Repr

/-- A proxied message awaiting its response (R89, R91). -/
structure Proxied where
  session : Nat
  seq : Nat
  opcode : Nat
  target : Nat
  tag : Nat
  deadline : Nat
  /-- the object a request of the firmware names, and its value; source of a manager's request -/
  oid : Nat := 0
  val : Nat := 0
  src : Source := .firmware
  deriving DecidableEq, Repr

/-- The window control registers of one BAR0-style window (R94, R95). -/
structure Window where
  oid : Nat := 0
  op : Nat := 0
  shadow : Bool := false
  length : Nat := 0
  pend : Bool := false
  status : Nat := 0
  errStatus : Nat := 0
  errOid : Nat := 0
  data : Nat := 0
  deriving DecidableEq, Repr

/-- A message of several PROXY segments that is being joined (R314): its source module and tag, segments and bytes in all, the segments that have
arrived, when the first did, the privilege of its session. -/
structure SegBuf where
  src : Nat
  tag : Nat
  total : Nat
  len : Nat
  parts : List (Nat × List Nat) := []
  firstAt : Nat := 0
  deriving DecidableEq, Repr

structure DictBlk where
  /-- active values of stored objects; an unlisted object reads its default -/
  obj : Tbl Nat := []
  /-- values stored in module flash; an unlisted object is stored at its default -/
  flash : List (Nat × Nat) := []
  /-- the power-entry controller's copy of area 1 (R138) -/
  p13 : List (Nat × Nat) := []
  groups : List Group := []
  sessions : List Session := []
  /-- last access to a fixed session's window is not kept: they never expire (R83) -/
  subs : List Sub := []
  nextSub : Nat := 1
  proxied : List Proxied := []
  /-- sessions that other modules have opened for own sessions' proxied requests: own session, module, ID there (R76, R82) -/
  far : List (Nat × Nat × Nat) := []
  nextTag : Nat := 0
  segs : List SegBuf := []
  /-- windows: 0 the management PF, 1 + n VF n, 512 + v host PF v -/
  windows : Tbl Window := []
  /-- repeated or stale requests discarded (R85); late proxy responses discarded (R91) -/
  staleSeq : Nat := 0
  lateProxy : Nat := 0
  /-- management straps sampled: the island answers I3C and SMBus; SLOT_ID (R616) -/
  strapped : Bool := false
  slotId : Nat := 0
  /-- sessions and groups whose next write of the group is answered LOCKED after Root locked its region (R556) -/
  lockedOut : List (Nat × Nat) := []
  deriving DecidableEq, Repr

end Sys2Proof.Machine
end

