-- ==== Sys2Proof/Machine/Blocks/Edge.lean ====
section
/-! DEFINITION. Edge ports, virtual CXL switches, IDE streams and the edge snoop filter (R216 to R247). -/
namespace Sys2Proof.Machine

/-- LINK of 4.0pp.05 but for the codes that other state gives (fenced, region gated). -/
inductive EdgeLink where
  | disabled | detect | training | l0 | recovery | l0p | l1 | l2 | hotReset
  deriving DecidableEq, Repr

/-- Where the hot add of a port stands (R237). -/
inductive HotAdd where
  | none | counting | powered | released | up
  deriving DecidableEq, Repr

/-- One edge port. Pin fields say "asserted". -/
structure EdgeSt where
  link : EdgeLink := .disabled
  tr : Trained := { rate := 0, width := 0, flit := 0, io := false, cache := false, mem := false }
  /-- rate codes at which the phases of equalisation ran in the last training (R188) -/
  eqRates : List Nat := []
  /-- Data Link Layer up, and has been up since presence was accepted (R238) -/
  dllUp : Bool := false
  wasUp : Bool := false
  prsnt : Bool := false
  prsntSince : Nat := 0
  hotAdd : HotAdd := .none
  /-- time presence was accepted (R237) -/
  acceptedAt : Nat := 0
  perst : Bool := false
  clkreq : Bool := false
  /-- CLKREQ_N has been seen to move, and so is connected (R192) -/
  clkreqUsed : Bool := false
  dpc : Bool := false
  viral : Bool := false
  /-- forwarding from the port stopped by an IDE failure (R231) -/
  stopped : Bool := false
  /-- unbind grace running: its end and the binding that is to go (R224) -/
  unbind : Option (Nat × Nat) := none
  /-- width in effect under L0p; 0 is the negotiated width -/
  l0pWidth : Nat := 0
  /-- the device on the port is a CXL.cache device -/
  cacheDevice : Bool := false
  /-- the VCS on another module a device port is bound to: its module, VCS, vPPB and upstream port -/
  farVcs : Option (Nat × Nat × Nat × Nat) := none
  /-- that vPPB's DPC trigger is set, and its host has not cleared it (R239) -/
  farTrig : Bool := false
  /-- operand sizes for which the device completes AtomicOps, as its device reports (R502): 4, 8 or 16 bytes -/
  atomics : List Nat := []
  /-- the device's cache capability is hidden from its host (R225) -/
  cacheHidden : Bool := false
  /-- where the device's CXL DVSEC stands in its configuration space -/
  dvsec : Option Nat := none
  deriving DecidableEq, Repr

/-- One vPPB slot of a VCS (R223, R224, R239): what the host sees, and holds for a reset across modules (R236). -/
structure VppbSt where
  present : Bool := false
  pdChanged : Bool := false
  linkActive : Bool := false
  dpcTriggered : Bool := false
  /-- DPC Completion Control: false Completer Abort, true Unsupported Request -/
  dpcUr : Bool := false
  /-- the port bound from another module: its switch ID and edge port -/
  remote : Option (Nat × Nat) := none
  /-- flit format of the remote port: 1 68-byte, 2 and 3 256-byte (R311) -/
  flit : Nat := 2
  /-- new requests toward the remote port are held for a reset (R236) -/
  resetHold : Bool := false
  /-- MMIO windows by BAR: base, size, prefetchable (R483); size 0 is none -/
  bars : Tbl (Nat × Nat × Bool) := []
  deriving DecidableEq, Repr

/-- A VCS's own state beside its record: back-invalidate enabled by the host on vPPB 0 (R228), config space resets. -/
structure VcsSt where
  biEnabled : Bool := false
  configResets : Nat := 0
  /-- General Media event records of the virtual dynamic capacity device (R500), newest first: DPAs -/
  mediaLog : List Nat := []
  deriving DecidableEq, Repr

/-- An IDE stream (R229 to R232). -/
structure IdeSt where
  state : Nat := 0
  /-- keys committed and still to take effect -/
  committed : Bool := false
  deriving DecidableEq, Repr

/-- An edge snoop filter entry (R243): the ports that hold the line, and X. -/
structure SfEnt where
  vec : List Nat := []
  x : Bool := false
  deriving DecidableEq, Repr

/-- Back-invalidate snoops (R245). -/
inductive SnpKind where
  | data | inv
  deriving DecidableEq, Repr

/-- A back-invalidate snoop outstanding to a port. -/
structure Snoop where
  port : Nat
  line : Nat
  kind : SnpKind
  /-- it has been sent: at most 256 are outstanding to a port (R246) -/
  sent : Bool := true
  /-- the host has sent BIConflict for the line: it is acknowledged after the snoop (R467) -/
  conflict : Bool := false
  deriving DecidableEq, Repr

structure EdgeBlk where
  ports : Tbl EdgeSt := []
  vppb : Tbl VppbSt := []
  vcs : Tbl VcsSt := []
  ide : Tbl IdeSt := []
  filter : Tbl SfEnt := []
  snoops : List Snoop := []
  /-- hosts whose filter scan is running, with the lines it poisons (R243) -/
  scans : List (Nat × Nat) := []
  deriving DecidableEq, Repr

end Sys2Proof.Machine
end

