-- ==== Sys2Proof/Machine/Blocks/Event.lean ====
section
/-! DEFINITION. The event log (R600 to R606), the counters (R582 to R590), leak counts and scrub (R593 to R599). -/
namespace Sys2Proof.Machine

/-- A location code of R12 as an event record carries it (R600): PKG 15 and DIE 3 are "none". -/
structure Loc where
  pkg : Nat := 15
  die : Nat := 3
  region : Nat := 0
  cluster : Nat := 0
  unit : Nat := 0
  depth : Nat := 1
  tag : Nat := 0
  deriving DecidableEq, Repr

/-- What a raising statement gives of an event: its code, place, AUX, DATA and tenant (R600). -/
structure Ev where
  code : Nat
  loc : Loc := {}
  aux : Nat := 0
  data : Nat := 0
  tenant : Option Nat := none
  deriving DecidableEq, Repr

/-- One 32-byte record of the event log (R600), field by field. -/
structure EventRec where
  time : Nat
  code : Nat
  sev : Nat
  tlock : Bool
  seq : Nat
  switch : Nat
  loc : Loc
  tenant : Option Nat
  aux : Nat
  data : Nat
  deriving DecidableEq, Repr

/-- The log: the ring in service memory and the mirror in hub SRAM, newest record first (R600). -/
structure EventBlk where
  ring : List EventRec := []
  mirror : List EventRec := []
  /-- the ring in service memory has been initialised and can be read -/
  ringReady : Bool := false
  /-- SEQ the next record takes -/
  nextSeq : Nat := 1
  /-- acknowledgement point (R602); 0 before any acknowledgement -/
  ackPoint : Nat := 0
  lostAlert : Bool := false
  /-- E.017.00 -/
  lost : Nat := 0
  /-- MSI-X entry 0 of the management PF (R604): end of the quiet time, a record waits for its end -/
  msiQuiet : Option Nat := none
  msiOwed : Bool := false
  /-- events raised at most once per second: (code, unit) to the time of the last -/
  lastAt : Tbl Nat := []
  deriving DecidableEq, Repr

/-- Counters, leak counts, scrub and refresh state. -/
structure CountBlk where
  /-- event counters 0 to 3,071, 48 bits each (R582) -/
  ctr : Tbl Nat := []
  /-- filtered counters that have overflowed with SAMPLE set and owe a sample record (R588) -/
  arms : List Nat := []
  /-- stored bytes received and sent by each port in the running window, latched of the last, end of the last (R590) -/
  winRx : Tbl Nat := []
  winTx : Tbl Nat := []
  lastRx : Tbl Nat := []
  lastTx : Tbl Nat := []
  peakRx : Tbl Nat := []
  peakTx : Tbl Nat := []
  winEnd : Nat := 0
  /-- the running window is discarded (R590) -/
  winSkip : Bool := false
  /-- leak counts by die and unit: 64d + unit, units 0-31 banks, 32-48 slices, 49-52 trackers (R593) -/
  leak : Tbl Nat := []
  /-- units whose leak count has stopped at its threshold -/
  leakStopped : List Nat := []
  /-- patrol scrub: lines read by each channel in this pass, corrected lines by row (key channel x 2^20 + row), passes complete (R597) -/
  scrubPos : Tbl Nat := []
  rowFix : Tbl Nat := []
  scrubPasses : Nat := 0
  /-- when the uncorrectable lines of a channel were found, those of the last second (R594) -/
  lineLoss : Tbl (List Nat) := []
  /-- spare rows used by each channel, and the rows remapped, keys as above (R598) -/
  sparesUsed : Tbl Nat := []
  remapped : List Nat := []
  /-- words read by each background walker: 0 Cadastre, 1 snoop filter, 2 Plat cache, 3 hub SRAM (R599) -/
  walker : Tbl Nat := []
  /-- channels whose refresh interval is halved (R629) -/
  hot : List Nat := []
  deriving DecidableEq, Repr

end Sys2Proof.Machine
end

