-- ==== Sys2Proof/Machine/Blocks/Link.lean ====
section
/-! DEFINITION. The Axsen Link state of each fabric port (R249 to R286). -/
namespace Sys2Proof.Machine

/-- The six link states (R272). -/
inductive LinkState where
  | down | train | active | retrain | dormant | retired
  deriving DecidableEq, Repr

/-- A PAYLOAD flit kept in the replay buffer: its SEQ, its 29 payload words and the packets that end in it (R262). -/
structure Flit where
  seq : Nat
  words : List Nat
  pkts : List Pkt := []
  deriving DecidableEq, Repr

/-- Credits of one class: header and data (R268, R269). -/
structure Cred where
  h : Nat := 0
  d : Nat := 0
  deriving DecidableEq, Repr

/-- A word on its way into a flit (R256). -/
structure TxWord where
  w : Nat
  /-- it begins a packet header: the class and LEN whose credits are consumed when it is first sent (R268) -/
  head : Option (Nat × Nat) := none
  /-- it ends a packet -/
  fin : Bool := false
  /-- the packet that ends in it -/
  pkt : Option Pkt := none
  deriving DecidableEq, Repr

/-- Where this module's own DRAIN leave stands on a link: it sends LEAVE until it has LEAVE_ACK (R282). -/
inductive Leave where
  | none | leaving | acked
  deriving DecidableEq, Repr

/-- Where the partner's leave stands: it has asked, and this side drains; LEAVE_ACK is due; LEAVE_ACK has been sent (R282). -/
inductive PeerLeave where
  | none | asked | ackDue | ackSent
  deriving DecidableEq, Repr

/-- The Dormant handshake (R283). -/
inductive DormantHs where
  | none | reqOwed | reqSent | ackOwed | nakOwed
  deriving DecidableEq, Repr

/-- A packet arriving over several flits: the first header word, or the packet's handle and the data words still owed. -/
inductive RxPart where
  | idle
  | header (w : Nat)
  | body (id left : Nat)
  /-- data of a discarded packet (R271) -/
  | skip (left : Nat)
  deriving DecidableEq, Repr

structure LinkSt where
  st : LinkState := .down
  cause : Nat := 0
  mismatch : Bool := false
  /-- the mismatching identities for which EV-0505 was raised (R278) -/
  mismatchIds : List Nat := []
  clean : Bool := false
  /-- reached ACTIVE since the last power-on or warm reset (R25) -/
  trained : Bool := false
  openTx : List Nat := []
  openRx : List Nat := []
  replayNum : Nat := 0
  nextTx : Nat := 0
  nextRx : Nat := 0
  replay : List Flit := []
  /-- words of dequeued packets not yet in a flit -/
  tx : List TxWord := []
  /-- entries of the replay buffer still to be retransmitted, and the SEQ the running replay started from -/
  resend : List Flit := []
  replayFrom : Option Nat := none
  /-- a NAK goes out in the next slot (R263) -/
  nakOwed : Bool := false
  /-- the receiver awaits a replay: PAYLOAD flits are discarded until SEQ = NEXT_RX (R263) -/
  nakPending : Bool := false
  /-- an acknowledgement or grant has changed since the last CONTROL flit -/
  ctlOwed : Bool := false
  replayDeadline : Option Nat := none
  /-- a NAK or an expiry met the running replay: the timer restarts when it has sent its last entry (R265) -/
  timerHold : Bool := false
  slot : Nat := 0
  used : Tbl Cred := []
  limit : Tbl Cred := []
  adv : Tbl Cred := []
  freed : Tbl Cred := []
  /-- credits the partner has consumed here, by class: what has arrived -/
  taken : Tbl Cred := []
  /-- SEQ, credits and identities hold a link's state -/
  heldId : Nat := 0
  rx : RxPart := .idle
  /-- handle of the last packet whose words have all arrived, for a NULLIFY (R259) -/
  lastRx : Option Nat := none
  trainStart : Nat := 0
  lastFail : Option Nat := none
  retrainStart : Nat := 0
  /-- the partner's LINKUP flit received in this handshake, and a slot sent since (R277) -/
  peer : Option Control := none
  peerSlot : Bool := false
  /-- this TRAIN or RETRAIN was entered from DOWN (R278) -/
  fromDown : Bool := false
  /-- fresh start not yet followed by a CONTROL flit: classes open in it (R270) -/
  fresh : Bool := false
  leave : Leave := .none
  peerLeave : PeerLeave := .none
  /-- LEAVE or LEAVE_ACK has still to go out for the first time -/
  leaveOwed : Bool := false
  /-- where both are due, the next CONTROL flit carries LEAVE_ACK -/
  leaveTurn : Bool := false
  dormantHs : DormantHs := .none
  dormantAskAt : Nat := 0
  /-- Dormant entry is still running; an exit has been asked for; the exit's start (R199, R200) -/
  entering : Bool := false
  exitAsked : Bool := false
  /-- the exit was asked for by the partner's wake pattern: this side sends none (R200) -/
  woken : Bool := false
  exitAt : Option Nat := none
  /-- governor marks the link redundant (R115) -/
  redundant : Bool := false
  lastPayload : Nat := 0
  /-- flit symbols sent on each lane since the last alignment marker (R194) -/
  sinceMark : Nat := 0
  deriving DecidableEq, Repr

structure LinkBlk where
  ports : Tbl LinkSt := []
  /-- the module's epoch in its link identities (R261) -/
  epoch : Nat := 0
  deriving DecidableEq, Repr

end Sys2Proof.Machine
end

