-- ==== Sys2Proof/Machine/Blocks/Mode.lean ====
section
/-! DEFINITION. Modes, rails, the governor, DRAIN, regions and fencing (R105 to R135, R18 to R28). -/
namespace Sys2Proof.Machine

/-- The eight operating modes (R105). -/
inductive Mode where
  | off | standby | boot | configure | operate | capped | drain | fault
  deriving DecidableEq, Repr

/-- The power governor (R114). -/
structure Governor where
  step : Nat := 0
  hold : Nat := 0
  isOver : Bool := false
  /-- time since which the step has been 5 (R117) -/
  floorSince : Option Nat := none
  floor : Bool := false
  emerg : Bool := false
  volt : Bool := false
  therm : Bool := false
  cap : Bool := false
  target : Nat := 0
  /-- time of the next evaluation (R114); edge ports retrained to 32 GT/s by step 4 (R115) -/
  nextAt : Nat := 0
  capped : List Nat := []
  deriving DecidableEq, Repr

/-- A DRAIN in progress (R120): its step 1 to 6, end state, start and bound. -/
structure Drain where
  step : Nat := 0
  endState : Mode := .standby
  start : Nat := 0
  bound : Nat := 0
  expired : Bool := false
  deriving DecidableEq, Repr

/-- Operating mode and what belongs to it. -/
structure ModeBlk where
  mode : Mode := .off
  /-- level of the MRDY pin (R99) -/
  mrdy : Bool := false
  /-- the firmware, or the ROM monitor in FAULT, serves the dictionary -/
  serving : Bool := false
  /-- a BOOT request held for the power condition of R112 -/
  bootHeld : Bool := false
  bootAt : Nat := 0
  /-- rail steps of R110 that have completed since BOOT entry, and rails in window -/
  railStep : Nat := 0
  rails : List Rail := []
  /-- the rails are being raised in the order of R110: in BOOT, and in FAULT under R173 -/
  raising : Bool := false
  /-- this BOOT is a power-on reset, not a warm one (R125) -/
  cold : Bool := true
  /-- in the CONFIGURE that a BOOT toward OPERATE passes through (R106): its end -/
  passEnd : Option Nat := none
  /-- main-rail power-on reset is asserted (R111) -/
  railReset : Bool := true
  gov : Governor := {}
  drain : Drain := {}
  /-- the present FAULT followed a thermal trip (R116); the entry time of FAULT (R99) -/
  thermalTrip : Bool := false
  faultAt : Nat := 0
  /-- restore defaults at the next warm reset (R59) -/
  restoreDefaults : Bool := false
  /-- channels whose data rate is stepped down, and the channel pair being stepped (R115) -/
  slowCh : List Nat := []
  /-- data plane stopped on a die by a fatal die error (R30) -/
  dieStopped : List Nat := []
  /-- last junction temperatures of FD0, FD1 and HUB, thousandths of a degree (R114) -/
  temps : List Int := [0, 0, 0]
  deriving DecidableEq, Repr

/-- A region (R25 to R28): banks withdrawn for gating, gated. -/
structure RegionSt where
  withdrawn : Bool := false
  gated : Bool := false
  deriving DecidableEq, Repr

/-- Regions and the fence (R18 to R20, R131 to R133). -/
structure FenceBlk where
  regions : Tbl RegionSt := []
  /-- units fenced now; a bank is fenced once its last allocated cell is released -/
  fenced : List UnitId := []
  /-- banks withdrawn by a fence and not yet fenced -/
  leaving : List UnitId := []
  /-- units in the volatile overflow list (R133) -/
  overflow : List UnitId := []
  /-- the slice whose share the spare of each die has taken (R20) -/
  spareFor : Tbl Nat := []
  /-- slices whose share is kept in the ledger alone -/
  ledgerOnly : List UnitId := []
  deriving DecidableEq, Repr

end Sys2Proof.Machine
end

