-- ==== Sys2Proof/Machine/Blocks/Tap.lean ====
section
/-! DEFINITION. The test access port (R623 to R625). -/
namespace Sys2Proof.Machine

/-- Instructions of the TAP (R623). -/
inductive TapInstr where
  | extest | idcode | samplePreload | extestPulse | extestTrain | clamp | highz | debug | bypass
  deriving DecidableEq, Repr

structure TapBlk where
  /-- the instruction in effect; IDCODE after a TAP reset -/
  ir : TapInstr := .idcode
  /-- an instruction that drives pins is in effect (R625) -/
  scanning : Bool := false
  /-- the boundary register's update stage: its 1,157 cells (R624) -/
  boundary : Nat := 0
  deriving DecidableEq, Repr

end Sys2Proof.Machine
end

