-- ==== Sys2Proof/Machine/Blocks/Out.lean ====
section
/-! DEFINITION. What the module sends and answers: one constructor a kind of message, answer or pin event. -/
namespace Sys2Proof.Machine

inductive Out where
  /-- a Parvor response to a source -/
  | resp (dst : Source) (r : Resp)
  /-- the MCTP message body that carries a Parvor response to an MCTP endpoint (R97, R98) -/
  | mctp (dst : Source) (body : List Nat)
  /-- a NOTIFY to a session's source: its SEQ and items -/
  | notify (dst : Source) (session subid seq : Nat) (items : List RItem)
  /-- the value a window or slot read returns -/
  | value (dst : Source) (v : Nat)
  /-- the value a mailbox register returns to the agent of a mailbox (R532): its index -/
  | reg (agent v : Nat)
  /-- the end of a hub bus transaction to its master: permitted or denied, data read (R551) -/
  | bus (master : Nat) (ok : Bool) (data : Nat)
  /-- the data register the TAP shifts out after an instruction: what it captured (R623) -/
  | tap (ir : TapInstr) (v : Nat)
  /-- the SMBus answer to the Alert Response Address -/
  | smbus (address : Nat)
  /-- an MSI-X message: function (0 management PF, 1 + n VF n, 512 + v host PF v) and table entry -/
  | msi (fn entry : Nat)
  /-- a packet sent by an edge port -/
  | edge (port : Nat) (p : Pkt)
  /-- a PAYLOAD flit: REPLAY, SEQ and payload words -/
  | payload (port : Nat) (replay : Bool) (seq : Nat) (words : List Nat)
  | control (port : Nat) (c : Control)
  | null (port : Nat)
  /-- a wake pattern: a square wave of 16 symbols at level 0 and 16 at level 3 on the lanes of a fabric port (R200) -/
  | wake (port : Nat)
  /-- the PAM4 levels a fabric port sends on its four lanes in one slot: a flit, with its markers, or training blocks (R182, R183, R194, R251) -/
  | symbols (port : Nat) (lanes : List (List Nat))
  /-- a lane's generator sends a pattern of 3.0LL.04, or 16 for the compliance pattern, at a rate code (R209) -/
  | pattern (lane pattern rate : Nat)
  /-- a back-invalidate snoop to a host -/
  | snoop (port line : Nat) (k : SnpKind)
  /-- BIConflictAck to a host (R467) -/
  | biConflictAck (port line : Nat)
  /-- an answer to a host's or device's request: port, tag, answer code, poison, data -/
  | answer (port tag code : Nat) (poison : Bool) (data : Nat)
  /-- an access to backing memory: pool port, logical device, DPA, whether it writes, its line and poison (R404) -/
  | back (port ld dpa : Nat) (write : Bool) (data : Nat) (poison : Bool)
  /-- a dynamic capacity event to the host of a VCS: 1 Add Capacity, 2 Release Capacity (R393, R394) -/
  | capacity (vcs code ext dpa : Nat)
  /-- the directory entries of a parcel handed off to the partner: its home, the descriptor there, lines and their entries (R123) -/
  | handoff (dst desc : Nat) (entries : List (Nat × DEnt))
  /-- a time read back, and other values returned to firmware -/
  | note (code : Nat) (v : Nat)
  deriving DecidableEq, Repr

end Sys2Proof.Machine
end

