-- ==== Sys2Proof/Machine/Blocks/Phy.lean ====
section
/-! DEFINITION. Lanes, clusters and the port records of area 3 (R21 to R24, R179 to R214). -/
namespace Sys2Proof.Machine

/-- One lane (R214): its status fields, equaliser and slip position, test control and counts. -/
structure LaneSt where
  rate : Nat := 0
  precode : Bool := false
  /-- transmit precoding, as the far receiver asks for it (R184, R185) -/
  txPre : Bool := false
  /-- the last level sent and received under precoding; 0 after training (R183) -/
  lastTx : Nat := 0
  lastRx : Nat := 0
  pol : Bool := false
  rev : Bool := false
  cdr : Bool := false
  align : Bool := false
  /-- PSTATE of 3.0LL.01 -/
  pstate : Nat := 0
  logical : Nat := 0
  /-- receive signal present -/
  signal : Bool := false
  slip : Nat := 0
  /-- the slip position that is kept, and whether equaliser values are (R190, R195) -/
  kept : Option Nat := none
  eqKept : Bool := false
  taps : Nat := 0
  /-- test control 3.0LL.04 but for its status bits, and those: done, abort, lock (R214) -/
  test : Nat := 0
  done : Bool := false
  abort : Bool := false
  lock : Bool := false
  errors : Nat := 0
  symbols : Nat := 0
  /-- when the margin run in progress started (R212, R213) -/
  runStart : Nat := 0
  deriving DecidableEq, Repr

/-- One cluster: PLL, cluster reset, reference output (R21 to R24, R202 to R205). -/
structure ClusterSt where
  locked : Bool := false
  /-- cluster reset asserted -/
  reset : Bool := true
  /-- times of the last PLL lock losses, newest first (R23) -/
  losses : List Nat := []
  /-- reference source and spread in effect (R203) -/
  source : Nat := 0
  spread : Nat := 0
  /-- the reference output runs, and since when (R204, R205) -/
  refout : Bool := false
  refoutSince : Nat := 0
  deriving DecidableEq, Repr

/-- A fabric port's alignment search (R195). -/
structure SearchSt where
  running : Bool := false
  attempt : Nat := 0
  round : Nat := 0
  /-- the search started without a kept position, or some lane slipped -/
  full : Bool := false
  /-- a failed attempt waits for its CDRs to relock -/
  relock : Bool := false
  /-- lanes still to be aligned -/
  open_ : List Nat := []
  /-- the search is done and the lanes are deskewed: the LINKUP handshake may run -/
  aligned : Bool := false
  deriving DecidableEq, Repr

structure PhyBlk where
  lanes : Tbl LaneSt := []
  clusters : Tbl ClusterSt := []
  search : Tbl SearchSt := []
  /-- REFIN present and within 300 ppm -/
  refin : Bool := true
  deriving DecidableEq, Repr

end Sys2Proof.Machine
end

