-- ==== Sys2Proof/Machine/Blocks/Power.lean ====
section
/-! DEFINITION. The power-entry stage P13 (R136 to R178): its feeds, protection, metering and always-on values. -/
namespace Sys2Proof.Machine

/-- What the pass FET of a feed is commanded to: off, an inrush ramp, or full enhancement (R145, R146). -/
inductive FetCmd where
  | off | ramp | full
  deriving DecidableEq, Repr

/-- One feed (R178). Voltages in mV, currents in mA, powers in mW, temperatures in thousandths of a degree. -/
structure FeedSt where
  voltage : Nat := 0
  current : Nat := 0
  power : Nat := 0
  fetTemp : Int := 0
  present : Bool := false
  /-- time the feed fell, while its pass FET is still commanded on (R168) -/
  absentAt : Option Nat := none
  overvolt : Bool := false
  oring : Bool := false
  rev : Bool := false
  carrying : Bool := false
  ilim : Bool := false
  fet : FetCmd := .off
  /-- end of the running inrush ramp's timeout (R146) -/
  rampTimeout : Option Nat := none
  /-- time of the last full-enhancement command (R158) -/
  lastFull : Option Nat := none
  fetShort : Bool := false
  retries : Nat := 0
  /-- behaves as under latch-off until cleared (R158, R161) -/
  held : Bool := false
  /-- a clear written before the cool-down ended (R157) -/
  clearSeen : Bool := false
  coolEnd : Option Nat := none
  /-- the last trip was by over-temperature: the FET must cool below 125 degrees (R152) -/
  hotTrip : Bool := false
  latched : Bool := false
  cause : Nat := 0
  count : Nat := 0
  seconds : Nat := 0
  /-- energy in units of 0.1 µJ, and its figure in the controller's store (R169, R175) -/
  energy : Nat := 0
  peak : Nat := 0
  /-- effective limit at the controller and a lowered one awaiting its 20 ms (R153) -/
  limit : Nat := 30000
  limitDue : Option (Nat × Nat) := none
  deriving DecidableEq, Repr

/-- The power-entry controller and its always-on domain. -/
structure PowerBlk where
  a : FeedSt := {}
  b : FeedSt := {}
  vbus : Nat := 0
  /-- the last samples of VBUS (mV) and input power (mW), newest first, at most 100: 10 ms (R154, R175) -/
  samples : List (Nat × Nat) := []
  limit : Nat := 25000
  limitDue : Option (Nat × Nat) := none
  sumlim : Bool := false
  /-- start of the fault timer and its value when it started (R150) -/
  ftStart : Option Nat := none
  ftLength : Nat := 0
  pg : Bool := false
  /-- end of the VAO hold-up (R169) -/
  holdupEnd : Option Nat := none
  vao : Bool := false
  vaoSince : Nat := 0
  /-- held off after a DRAIN with end state OFF (R122) -/
  heldOff : Bool := false
  /-- power events waiting (R177), and those lost for want of room -/
  events : List Ev := []
  evLost : Nat := 0
  energy : Nat := 0
  /-- the figures in the controller's own store: energy of A, B and the module (R169) -/
  storeA : Nat := 0
  storeB : Nat := 0
  storeM : Nat := 0
  /-- time since which P_avail has been at least 115 W (R112) -/
  okSince : Option Nat := none
  deriving DecidableEq, Repr

end Sys2Proof.Machine
end

