-- ==== Sys2Proof/Machine/Blocks/Route.lean ====
section
/-! DEFINITION. Discovery, routing and meridian time (R288 to R323). -/
namespace Sys2Proof.Machine

/-- A stored record and when it arrived (R297). -/
structure StoredRec where
  lsr : LinkRecord
  at_ : Nat := 0
  deriving DecidableEq, Repr

/-- Fabric discovery and routing. -/
structure RouteBlk where
  /-- switch ID in effect (R288) -/
  id : Nat := 0
  /-- the module's own record must be originated anew (R294) -/
  dirty : Bool := false
  seq : Nat := 0
  lastOrig : Option Nat := none
  own : Option LinkRecord := none
  db : List StoredRec := []
  /-- epochs of records that carry the module's own ID, with the last SEQ of each (R290) -/
  foreign : List (Nat × Nat) := []
  dup : Bool := false
  full : Bool := false
  mismatch : Bool := false
  leaving : Bool := false
  /-- fabric ports with an adjacency (R291) -/
  adj : List Nat := []
  /-- first database change not yet computed; the database a running computation reads (R299) -/
  changedAt : Option Nat := none
  computing : Option (List LinkRecord) := none
  key : Nat := 0
  /-- round-robin pointer of each die (R305) -/
  rr : Tbl Nat := []
  /-- slots kept in flow selection while their DOWN link holds TC4 to TC6 packets: destination, port, W (R307) -/
  kept : List (Nat × Nat × Nat) := []
  /-- flows routed, with the port each took: the model's record for counting flow moves (R307) -/
  flows : Tbl Nat := []
  /-- HOME_MOVE messages accepted: old home and SEQ (R314, R399) -/
  moves : List (Nat × Nat) := []
  /-- TC1 and TC2 coherence messages this module has discarded and must report to their homes (R474) -/
  lostFwd : List Pkt := []
  deriving DecidableEq, Repr

/-- One time exchange on a port: t1, t2, t3 in units of 2^-16 ns, and the raw counter at t2 (R318). -/
structure Exchange where
  t1 : Nat := 0
  t2 : Nat := 0
  t3 : Nat := 0
  raw : Nat := 0
  /-- the exchange before it: t1 and raw counter -/
  p1 : Nat := 0
  praw : Nat := 0
  open_ : Bool := false
  deriving DecidableEq, Repr

/-- States of 6.033.00. -/
inductive TimeState where
  | unlocked | grandmaster | locked | holdover
  deriving DecidableEq, Repr

/-- The fabric time counter disciplined to meridian time (R316): units of 2^-16 ns; trim in parts per billion (R319). -/
structure TimeBlk where
  count : Nat := 0
  trim : Int := 0
  locked : Bool := false
  st : TimeState := .unlocked
  gm : Nat := 0
  parent : Option Nat := none
  hops : Nat := 0
  /-- the next parent exchange steps in either direction: first lock or a new grandmaster (R319) -/
  firstLock : Bool := true
  lastSync : Nat := 0
  ex : Tbl Exchange := []
  deriving DecidableEq, Repr

end Sys2Proof.Machine
end

