-- ==== Sys2Proof/Machine/Blocks/Sched.lean ====
section
/-! DEFINITION. Scheduling, shaping, gates and sampling (R362 to R384). -/
namespace Sys2Proof.Machine

/-- A token-bucket shaper (R369): its tokens in units of 2^-16 byte, none while it has stayed full since reset, and the
meridian time of its last update. -/
structure Shaper where
  tok : Option Int := none
  last : Nat := 0
  deriving DecidableEq, Repr

/-- The scheduler of an egress port, or of a bridge direction. -/
structure PortSched where
  /-- the second class of the Control and of the Responses group has the next turn (R362) -/
  rrControl : Bool := false
  rrResponse : Bool := false
  /-- deficits of the data classes A and B, whose turn it is (true for B), and its quantum has been added (R368) -/
  dcA : Nat := 0
  dcB : Nat := 0
  turn : Bool := false
  started : Bool := false
  /-- round-robin pointer of class B: a tenant (R373) -/
  ptr : Nat := 0
  /-- round robin among the classes of Requests in a bridge queue (R363) -/
  rrBridge : Nat := 0
  /-- take-overs since reset; a gate list has taken over since reset (R374) -/
  gateGen : Nat := 0
  gateRun : Bool := false
  deriving DecidableEq, Repr

/-- A die's sampler (R378): the next selected queue of the pass, the start of the pass, records lost since the last one
written. -/
structure SamplerSt where
  pos : Nat := 0
  passStart : Nat := 0
  lost : Bool := false
  deriving DecidableEq, Repr

structure SchedBlk where
  /-- by port index; 64 and 65 the bridge directions toward FD0 and FD1 -/
  ports : Tbl PortSched := []
  /-- class A start and finish tags with 8 fractional bits, by 256 x port + tenant (R372) -/
  tags : Tbl (Nat × Nat) := []
  /-- class B credit and round of the last visit, by 256 x port + tenant (R373) -/
  credit : Tbl (Nat × Nat) := []
  /-- shapers by the instance number of their group kind 0x01 (R60) -/
  shapers : Tbl Shaper := []
  samplers : Tbl SamplerSt := []
  deriving DecidableEq, Repr

end Sys2Proof.Machine
end

