-- ==== Sys2Proof/Machine/Blocks/Sec.lean ====
section
/-! DEFINITION. Security, boot and attestation (R560 to R581). -/
namespace Sys2Proof.Machine

/-- The boot record in module flash (R563), the outcome of the last BOOT's image checks, and the running images. -/
structure BootRec where
  /-- preferred slot of the first stage and of the firmware: true for B -/
  fsB : Bool := false
  fwB : Bool := false
  trial : Bool := false
  trialFail : Bool := false
  fallback : Bool := false
  /-- slots that run now -/
  runFsB : Bool := false
  runFwB : Bool := false
  /-- the present BOOT has found an image of both KINDs (R563), and the milliseconds its fallbacks took -/
  ready : Bool := false
  added : Nat := 0
  deriving DecidableEq, Repr

/-- A presented token (R571, R572): its session, slot, OP, PARAM, its items not consumed, when it was presented. -/
structure Token where
  session : Nat
  slot : Nat
  op : Nat
  param : Nat := 0
  /-- object and digest of the value -/
  items : List (Nat × Nat) := []
  at_ : Nat := 0
  deriving DecidableEq, Repr

/-- An attestation report kept for its session (R568). -/
structure Report where
  session : Nat
  nonce : Nat
  bytes : Nat
  deriving DecidableEq, Repr

structure SecBlk where
  boot : BootRec := {}
  /-- lifecycle fuses: 0, 1, 2, 4 or 5 of R573; the authorisation record in flash, and the next minute of its count (R575) -/
  life : Nat := 0
  debug : Bool := false
  debugMinute : Nat := 0
  /-- rollback counters of first stage and firmware, revoked release keys (R565, R561) -/
  rollFs : Nat := 0
  rollFw : Nat := 0
  revoked : Nat := 0
  /-- unique device secret, once blown; it can be read by the ROM (R566, R574) -/
  uds : Option Nat := none
  /-- what the last BOOT derived (R566): M0, M1, M2, identity public key, certificates, seed of the alias key pair -/
  m0 : Nat := 0
  m1 : Nat := 0
  m2 : Nat := 0
  identity : Nat := 0
  layerCert : Nat := 0
  aliasCert : Nat := 0
  aliasSeed : Nat := 0
  /-- bytes of module flash that staging has programmed, by offset: the byte plus 1; an unlisted byte is the factory's (R562) -/
  flash : Tbl Nat := []
  /-- D.060.05; a check runs and ends then (R576) -/
  staged : Nat := 0
  checkEnd : Option Nat := none
  /-- a live activation runs: since when; the previous image is being started (R577) -/
  live : Option Nat := none
  liveRetry : Bool := false
  /-- challenges issued: session, value, time (R571) -/
  challenges : List (Nat × Nat × Nat) := []
  tokens : List Token := []
  /-- D.042.00 by session -/
  tokenStatus : Tbl Nat := []
  reports : List Report := []
  deriving DecidableEq, Repr

end Sys2Proof.Machine
end

