-- ==== Sys2Proof/Machine/Blocks/Service.lean ====
section
/-! DEFINITION. The service function: functions and their MSI-X tables, queue pairs and the data mover, mailboxes
(R511 to R538); service memory and the hub's bus (R515, R545 to R557). -/
namespace Sys2Proof.Machine

/-- Memory as bytes by address, in the canonical form of `Tbl`: an unlisted byte reads 0, as R112 zeroes it. -/
abbrev Memory := Tbl (BitVec 8)

/-- An MSI-X table entry: masked after reset. -/
structure MsixEnt where
  addr : Nat := 0
  data : Nat := 0
  masked : Bool := true
  deriving DecidableEq, Repr

/-- A function: 0 the management PF, 1 + n VF slot n, 512 + v host PF v. -/
structure FnSt where
  msixOn : Bool := false
  table : Tbl MsixEnt := []
  pending : List Nat := []
  /-- EVT_CAUSE of a host PF (R514) -/
  cause : Nat := 0
  /-- VF Enable of a host PF (R512) -/
  vfEnable : Bool := false
  /-- VF_CTRL of a VF (R516) -/
  ctrl : Nat := 0
  /-- a Function Level Reset waits for its writes (R530) -/
  flr : Bool := false
  /-- when it began -/
  flrAt : Nat := 0
  /-- BARRIER result words of a VF (R499) -/
  bar0 : Nat := 0
  bar1 : Nat := 0
  deriving DecidableEq, Repr

/-- A read of the data mover on its way: access number, address and bytes, whether it answers with a whole line. -/
structure Want where
  id : Nat
  addr : Nat
  len : Nat
  line : Bool
  deriving DecidableEq, Repr

/-- A started descriptor (R519 to R523). -/
structure Desc where
  num : Nat
  words : List Nat
  /-- bytes done, and where the piece stands: 0 to read its first source, 1 its second -/
  pos : Nat := 0
  stage : Nat := 0
  want : Option Want := none
  /-- bytes of the piece read, and their poison; the running code; the message of a digest -/
  buf : List Nat := []
  bad : Bool := false
  acc : Nat := 0
  msg : List Nat := []
  /-- writes not yet complete: access number and address -/
  writes : List (Nat × Nat) := []
  /-- the operation has run; its status, code, first failing address, bytes processed, result words -/
  ran : Bool := false
  status : Nat := 0
  code : Nat := 0
  place : Option Nat := none
  bytes : Nat := 0
  r2 : Nat := 0
  r3 : Nat := 0
  /-- a FENCE whose barrier is pending, a MIGRATE that runs, and whether these have started -/
  fence : Bool := false
  migrate : Option Nat := none
  opened : Bool := false
  /-- no record is owed: abandoned by a quiesce or a Function Level Reset -/
  silent : Bool := false
  deriving DecidableEq, Repr

/-- States of a queue pair that is owned (R517). -/
inductive QState where
  | disabled | running | quiescing | quiesced | error
  deriving DecidableEq, Repr

structure QpSt where
  sqBase : Nat := 0
  cqBase : Nat := 0
  enable : Bool := false
  sqs : Nat := 4
  cqs : Nat := 4
  vec : Nat := 0
  sqTail : Nat := 0
  cqHead : Nat := 0
  sqHead : Nat := 0
  cqTail : Nat := 0
  phase : Bool := true
  st : QState := .disabled
  /-- ENABLE was cleared: disabled once quiesced (R518) -/
  closing : Bool := false
  errCode : Nat := 0
  started : List Desc := []
  deriving DecidableEq, Repr

/-- The data mover of a die: deficit round robin over VF slots (R531). -/
structure MoverSt where
  ptr : Nat := 0
  deficit : Tbl Int := []
  /-- when a slot's rate cap lets its next descriptor start -/
  free : Tbl Nat := []
  deriving DecidableEq, Repr

structure Mailbox where
  holder : Nat := 0
  since : Nat := 0
  inq : List Nat := []
  outq : List Nat := []
  db : Nat := 0
  mask : Nat := 0
  ovf : Bool := false
  empty : Bool := false
  deriving DecidableEq, Repr

/-- The call side of an agent, by its own mailbox index. -/
structure CallSt where
  sel : Nat := 0
  notHeld : Bool := false
  ovf : Bool := false
  empty : Bool := false
  reset : Bool := false
  deriving DecidableEq, Repr

/-- A completion record on its way: its queue pair and access, the function and the MSI-X entry it is announced with (R520, R506). -/
structure RecWrite where
  qp : Nat
  id : Nat
  fn : Nat
  vec : Option Nat
  deriving DecidableEq, Repr

structure ServiceBlk where
  fns : Tbl FnSt := []
  qps : Tbl QpSt := []
  movers : Tbl MoverSt := []
  nextDesc : Nat := 1
  records : List RecWrite := []
  boxes : Tbl Mailbox := []
  calls : Tbl CallSt := [(257, { sel := 256 })]
  /-- next slot of each VCS's posted-write error log (R501) -/
  pwe : Tbl Nat := []
  /-- service memory and hub SRAM, bytes by offset -/
  service : Memory := []
  sram : Memory := []
  deriving DecidableEq, Repr

end Sys2Proof.Machine
end

