-- ==== Sys2Proof/Machine/Blocks/Switch.lean ====
section
/-! DEFINITION. The switch core of the two fabric dies: cells, queues, admission, tracker (R325 to R360, R631). -/
namespace Sys2Proof.Machine

/-- A block that originates packets (R631). -/
inductive Block where
  | cache | home | snoop | mover | hub | bridge | error
  deriving DecidableEq, Repr

/-- A packet held by the module. `port` is its ingress port index, none when the module originated it; `target` the
edge port it is to leave by, none when its DEST is another module; `have` the data words stored so far. -/
structure Held where
  id : Nat
  port : Option Nat := none
  blk : Block := .hub
  die : Nat := 0
  pkt : Pkt
  target : Option Nat := none
  tenant : Nat := 0
  got : Nat := 0
  /-- banks of its cells, one entry a cell, die-wide numbers -/
  banks : List Nat := []
  /-- DESTs a multicast packet still has to be given to (R341) -/
  refs : List Nat := []
  /-- it has crossed, or still has to cross, the die-to-die bridge -/
  crossed : Bool := false
  /-- it arrived on a secure IDE stream (R337) -/
  secure : Bool := false
  /-- it has waited for admission, and is counted -/
  waited : Bool := false
  deriving DecidableEq, Repr

/-- A queue entry (R327). -/
structure QEnt where
  held : Held
  stamp : Nat := 0
  cells : Nat := 1
  /-- cells charged to the shared pool -/
  shared : Nat := 0
  /-- header already sent by cut-through; data words already sent -/
  cut : Bool := false
  sent : Nat := 0
  /-- sent once and nullified: it is sent again whole when stored (R340) -/
  resend : Bool := false
  /-- data class: false A, true B (R364) -/
  classB : Bool := false
  /-- times since which it heads its class queue, and is the offered head of its tenant queue; 0 otherwise (R379) -/
  headAt : Nat := 0
  tqAt : Nat := 0
  /-- held by the guard once, and counted (R376); kept from cut-through by the rates, and counted (R339) -/
  guarded : Bool := false
  rated : Bool := false
  deriving DecidableEq, Repr

/-- A packet for the module itself, with the port it came by. -/
structure Inbox where
  id : Nat
  port : Option Nat
  pkt : Pkt
  deriving DecidableEq, Repr

/-- A tracker entry (R346 to R352); kind 0 is free. -/
structure Trk where
  kind : Nat := 0
  gen : Nat := 0
  port : Option Nat := none
  tag : Nat := 0
  tenant : Nat := 0
  deadline : Option Nat := none
  orphan : Bool := false
  orphanAt : Nat := 0
  /-- its response is discarded and counted: the requester's port was removed or reset (R130, R239) -/
  discard : Bool := false
  write : Bool := false
  /-- a request to a device's own memory (HDM-H), not to pooled memory -/
  hdm : Bool := false
  /-- one 8-byte piece of a request to a Device parcel: its bytes; the host is answered with the last (R490) -/
  piece : Nat := 0
  /-- its response answers no host: an earlier piece, a run of a flushed write-combining entry -/
  silent : Bool := false
  /-- an AtomicOp's operand in its line: 1 + its offset + 64 x its size; 0 for no AtomicOp. It is answered by a completion -/
  span : Nat := 0
  /-- entries of combined writes answered with it (R486) -/
  acks : List Nat := []
  addr : Nat := 0
  /-- flow of a bridged write, target module and port, order of allocation -/
  flow : Nat := 0
  dest : Nat := 0
  destPort : Nat := 0
  order : Nat := 0
  /-- what completes with it: a queue pair's descriptor, or an evicted line -/
  ref : Nat := 0
  deriving DecidableEq, Repr

structure SwitchBlk where
  nextId : Nat := 1
  /-- packets in their ingress reservation or originating block, in arrival order -/
  waiting : List Held := []
  inbox : List Inbox := []
  /-- queues: 8 x port index + class; 512 + 8 x die + class the bridge queues -/
  queues : Tbl (List QEnt) := []
  age : Tbl Nat := []
  shared : Tbl Nat := []
  sharedHigh : Tbl Nat := []
  bankUse : Tbl Nat := []
  /-- multicast packets: references left, by handle -/
  refs : Tbl Nat := []
  trk : Tbl Trk := []
  trkHigh : Tbl Nat := []
  /-- allocation order of tracker entries -/
  trkOrder : Nat := 0
  /-- packets completed early on an edge port, whose remainder is to be discarded: handle to port index (R340) -/
  remnants : Tbl (Option Nat) := []
  /-- consecutive replays of a bridge transfer, by die (R355) -/
  bridgeReplays : Tbl Nat := []
  deriving DecidableEq, Repr

end Sys2Proof.Machine
end

