-- ==== Sys2Proof/Machine/State.lean ====
section
/-! DEFINITION. The machine: the block's state, the commands waiting for it, the reasons a step can stop, and the
state after reset. -/
namespace Sys2Proof.Machine

/-- Everything the module holds, one structure a subject. Every number is in the spec's own units unless its
structure says otherwise; times are nanoseconds of `now`. -/
structure Mod where
  /-- nanoseconds of the 1 GHz fabric time counter's clock since reset (R40) -/
  now : Nat := 0
  /-- draws of the free values taken so far: the model's own field, not the spec's -/
  draws : Nat := 0
  /-- what the module has sent and answered, oldest first -/
  out : List Out := []
  /-- the event log (R600) -/
  ev : EventBlk := {}
  /-- counters, leak counts, scrub -/
  cn : CountBlk := {}
  /-- the power-entry stage (R136) -/
  pw : PowerBlk := {}
  /-- modes, rails, governor, DRAIN (R105) -/
  md : ModeBlk := {}
  /-- regions and the fence list's effect (R20) -/
  fn : FenceBlk := {}
  /-- lanes and clusters (R179) -/
  ph : PhyBlk := {}
  /-- edge ports, virtual CXL switches, the snoop filter (R216) -/
  ed : EdgeBlk := {}
  /-- the Axsen links (R249) -/
  lk : LinkBlk := {}
  /-- the switch cores and trackers (R325) -/
  sw : SwitchBlk := {}
  /-- discovery and routing (R288) -/
  rt : RouteBlk := {}
  /-- meridian time (R316) -/
  ti : TimeBlk := {}
  /-- the dictionary engine (R73) -/
  di : DictBlk := {}
  /-- the test access port (R621) -/
  tp : TapBlk := {}
  /-- the memory-side cache (R410) -/
  ca : CacheBlk := {}
  /-- the home and its directory (R426) -/
  ho : HomeBlk := {}
  /-- pooling (R385) -/
  po : PoolBlk := {}
  /-- scheduling, shaping, gates, sampling (R362) -/
  sc : SchedBlk := {}
  /-- ordering and protocol bridging (R481) -/
  br : BridgeBlk := {}
  /-- the service function (R511) -/
  sv : ServiceBlk := {}
  /-- security, boot and attestation (R560) -/
  se : SecBlk := {}
  deriving DecidableEq, Repr

/-- The machine: its commands waiting, first in first out, and the module. -/
structure State where
  pending : List Instr := []
  mod : Mod := {}
  deriving DecidableEq, Repr

/-- Why a step stops with a fault: never. Every condition the spec gives is an effect on the state. -/
inductive Fault where
  deriving DecidableEq, Repr

/-- Why a step is refused. -/
inductive Refusal where
  /-- raised by exec's arm of a command that has no meaning yet; safe -/
  | notModelled (mnemonic : String)
  deriving DecidableEq, Repr

/-- The machine right after reset: no feed has been applied, so the mode is OFF (R105), every object reads its
default, nothing is in flight, and no command waits. -/
def State.reset : State := { pending := [], mod := {} }

end Sys2Proof.Machine
end

