-- ==== Sys2Proof/Machine/Codes.lean ====
section
/-! DEFINITION. Codes of the named values, and the operations of memory kept as bytes by address (R81, R105, R272, R424, R515). -/
namespace Sys2Proof.Machine

/-- The code of a mode (R105). -/
def Mode.code : Mode → Nat
  | .off => 0 | .standby => 1 | .boot => 2 | .configure => 3
  | .operate => 4 | .capped => 5 | .drain => 6 | .fault => 7

/-- Status codes (R81). -/
def Sts.code : Sts → Nat
  | .ok => 0 | .pending => 1 | .notFound => 2 | .accessDenied => 3 | .type => 4 | .range => 5 | .locked => 6
  | .mode => 7 | .busy => 8 | .noGroup => 9 | .token => 0xA | .unreachable => 0xB | .timeout => 0xC
  | .header => 0xD | .tooLong => 0xE | .timePast => 0xF | .flash => 0x10

/-- Codes of the link states (R272). -/
def LinkState.code : LinkState → Nat
  | .down => 0 | .train => 1 | .active => 2 | .retrain => 3 | .dormant => 4 | .retired => 5

/-- Stable cache states (R424); the others are transient (R453). -/
def CSt.stable : CSt → Bool
  | .i | .s | .e | .o | .m => true
  | .isD | .isDI | .imAD | .imA | .smAD | .smA | .omAD | .omA | .meA | .owA | .miA | .eiA | .oiA | .iiA => false

/-! Memory. -/

/-- The byte at an address. -/
def Memory.read (mem : Memory) (a : Nat) : Nat := (tget (0 : BitVec 8) a mem).toNat
/-- The memory with a byte written. -/
def Memory.write (mem : Memory) (a v : Nat) : Memory := tset (0 : BitVec 8) a (BitVec.ofNat 8 v) mem
/-- The canonical form: addresses rising, no entry that an unlisted address reads as. -/
def Memory.wf (mem : Memory) : Bool := Tbl.wf (0 : BitVec 8) mem

/-- len bytes from address a, lowest address first. -/
def Memory.bytes (mem : Memory) (a len : Nat) : List Nat := (List.range len).map fun i => mem.read (a + i)

/-- Write bytes from address a on. -/
def Memory.put (mem : Memory) (a : Nat) : List Nat → Memory
  | [] => mem
  | b :: t => Memory.put (mem.write a b) (a + 1) t

end Sys2Proof.Machine
end

