-- ==== Sys2Proof/Machine/Operands.lean ====
section
/-! DEFINITION. The object dictionary (R45 to R51): one row per object of the tables R104, R135, R178, R214, R247, R286,
R323, R360, R381, R417, R453, R479, R510, R537, R557, R580 and R608, with its type, rights, suffixes, default, group
kind, persistence and range of values, and the defaults that depend on the element. -/
namespace Sys2Proof.Machine

/-- Types of R49. -/
inductive ObjTy where
  | bool | u8 | u16 | u32 | u64 | s32 | s64 | fix32 | time64 | addr64 | blob | string
  deriving DecidableEq, Repr

/-- The type code of a protocol item (R49). -/
def tyCode : ObjTy → Nat
  | .bool => 1 | .u8 => 2 | .u16 => 3 | .u32 => 4 | .u64 => 5 | .s32 => 6 | .s64 => 7 | .fix32 => 8
  | .time64 => 9 | .addr64 => 0xA | .blob => 0xB | .string => 0xC

/-- Access codes of R51; rc is the read-clear of the field conventions. -/
inductive Acc where
  | no | r | w | rw | rc
  deriving DecidableEq, Repr

def accReads : Acc → Bool
  | .no => false | _ => true

def accWrites : Acc → Bool
  | .w => true | .rw => true | _ => false

/-- A row of a dictionary table: indices lo to hi (area and index), elements e0 to e1. -/
structure ObjRow where
  lo : Nat
  hi : Nat
  e0 : Nat
  e1 : Nat
  ty : ObjTy
  size : Nat
  m : Acc
  t : Acc
  o : Acc
  /-- suffixes c and k of R51 -/
  cfg : Bool
  tok : Bool
  dflt : Nat
  grp : Nat
  pers : Bool
  /-- permitted values, as inclusive ranges; none means every value of the type -/
  lims : List (Nat × Nat)
  deriving DecidableEq, Repr

def objRows0 : List ObjRow := [
  ⟨1, 1, 0, 0, .u8, 1, .r, .r, .r, false, false, 5, 0, false, []⟩,
  ⟨1, 1, 1, 1, .string, 16, .r, .r, .r, false, false, 0x5444562d32353634, 0, false, []⟩,
  ⟨1, 1, 2, 2, .string, 16, .r, .no, .r, false, false, 0, 0, false, []⟩,
  ⟨1, 1, 3, 3, .u16, 2, .r, .r, .r, false, false, 0, 0, false, []⟩,
  ⟨1, 1, 4, 4, .u16, 2, .r, .r, .r, false, false, 0, 0, false, []⟩,
  ⟨1, 1, 5, 5, .u16, 2, .r, .r, .r, false, false, 0, 0, false, []⟩,
  ⟨0x10, 0x10, 0, 0, .u32, 4, .w, .w, .no, false, false, 0, 0, false, []⟩,
  ⟨0x11, 0x11, 0, 0, .u8, 1, .r, .no, .r, false, false, 0x40, 0, false, []⟩,
  ⟨0x11, 0x11, 1, 0x40, .u64, 8, .r, .no, .r, false, false, 0, 0, false, []⟩,
  ⟨0x12, 0x12, 0, 0, .u32, 4, .w, .w, .no, false, false, 0, 0, false, []⟩,
  ⟨0x13, 0x13, 0, 0, .u8, 1, .r, .no, .r, false, false, 0, 0, false, []⟩,
  ⟨0x14, 0x14, 0, 0, .u16, 2, .w, .no, .no, false, true, 0, 0, false, []⟩,
  ⟨0x20, 0x20, 0, 0, .u8, 1, .r, .no, .r, false, false, 0x20, 0, false, []⟩,
  ⟨0x20, 0x20, 1, 0x20, .u64, 8, .r, .no, .r, false, false, 0, 0, false, []⟩,
  ⟨0x21, 0x21, 0, 0, .u16, 2, .r, .r, .r, false, false, 0, 0, false, []⟩,
  ⟨0x22, 0x22, 0, 0, .u8, 1, .r, .no, .r, false, false, 0, 0, false, []⟩,
  ⟨0x30, 0x30, 0, 0, .u8, 1, .r, .no, .r, false, false, 0x10, 0, false, []⟩,
  ⟨0x30, 0x30, 1, 0x10, .blob, 17, .rw, .no, .r, false, false, 0, 0, true, []⟩,
  ⟨0x31, 0x31, 1, 2, .u8, 1, .rw, .no, .r, true, false, 2, 0, true, [(0, 2)]⟩,
  ⟨0x32, 0x32, 1, 2, .blob, 17, .rw, .no, .r, true, false, 0, 0, true, []⟩,
  ⟨0x33, 0x33, 1, 2, .bool, 1, .rw, .no, .r, true, false, 1, 0, true, []⟩,
  ⟨0x34, 0x34, 0, 0, .u32, 4, .rw, .no, .r, false, false, 0x1f4, 0, true, [(0xa, 0x2710)]⟩,
  ⟨0x35, 0x35, 0, 0, .u32, 4, .rw, .no, .r, false, false, 0x3c, 0, true, [(0xa, 0xe10)]⟩,
  ⟨0x36, 0x36, 0, 0, .u8, 1, .r, .no, .r, false, false, 0, 0, false, []⟩]

def objRows1 : List ObjRow := [
  ⟨0x1001, 0x1001, 0, 0, .u8, 1, .r, .no, .r, false, false, 2, 0, false, []⟩,
  ⟨0x1001, 0x1001, 1, 2, .u32, 4, .r, .no, .r, false, false, 0, 0, false, []⟩,
  ⟨0x1002, 0x1002, 1, 2, .u16, 2, .r, .no, .r, false, false, 0, 0, false, []⟩,
  ⟨0x1003, 0x1003, 1, 2, .u16, 2, .r, .no, .r, false, false, 0, 0, false, []⟩,
  ⟨0x1004, 0x1004, 1, 2, .u16, 2, .r, .no, .r, false, false, 0, 0, false, []⟩,
  ⟨0x1005, 0x1005, 1, 2, .u64, 8, .r, .no, .r, false, false, 0, 0, false, []⟩,
  ⟨0x1006, 0x1006, 0, 0, .u16, 2, .r, .no, .r, false, false, 0, 0, false, []⟩,
  ⟨0x1007, 0x1007, 0, 0, .u16, 2, .r, .no, .r, false, false, 0, 0, false, []⟩,
  ⟨0x1008, 0x1008, 0, 0, .u64, 8, .r, .no, .r, false, false, 0, 0, false, []⟩,
  ⟨0x1009, 0x1009, 1, 2, .fix32, 4, .r, .no, .r, false, false, 0, 0, false, []⟩,
  ⟨0x100a, 0x100a, 0, 0, .u16, 2, .r, .no, .r, false, false, 0, 0, false, []⟩,
  ⟨0x100b, 0x100b, 0, 0, .u16, 2, .r, .no, .r, false, false, 0, 0, false, []⟩,
  ⟨0x1010, 0x1010, 1, 2, .u16, 2, .rw, .no, .rw, false, false, 0x7530, 0, true, [(0x1388, 0x7530)]⟩,
  ⟨0x1011, 0x1011, 0, 0, .u16, 2, .rw, .no, .rw, false, false, 0x61a8, 0, true, [(0x1388, 0x61a8)]⟩,
  ⟨0x1012, 0x1012, 0, 0, .u16, 2, .rw, .no, .rw, false, false, 0x2710, 0, true, [(0x64, 0xc350)]⟩,
  ⟨0x1013, 0x1013, 0, 0, .u8, 1, .rw, .no, .rw, false, false, 0x14, 0, true, [(5, 0x64)]⟩,
  ⟨0x1014, 0x1014, 0, 0, .u8, 1, .rw, .no, .rw, false, false, 1, 0, true, [(0, 1)]⟩,
  ⟨0x1015, 0x1015, 0, 0, .u16, 2, .rw, .no, .rw, false, false, 0x3e8, 0, true, [(0x1f4, 0x2710)]⟩,
  ⟨0x1016, 0x1016, 0, 0, .u8, 1, .rw, .no, .rw, false, false, 3, 0, true, [(0, 0xf)]⟩,
  ⟨0x1020, 0x1020, 1, 2, .u32, 4, .r, .no, .r, false, false, 0, 0, false, []⟩,
  ⟨0x1021, 0x1021, 0, 0, .u8, 1, .w, .no, .w, false, false, 0, 0, false, []⟩,
  ⟨0x1022, 0x1022, 1, 2, .u16, 2, .r, .no, .r, false, false, 0, 0, false, []⟩,
  ⟨0x1023, 0x1023, 0, 0, .u8, 1, .w, .no, .w, false, false, 0, 0, false, []⟩,
  ⟨0x1024, 0x1024, 1, 2, .u16, 2, .r, .no, .r, false, false, 0, 0, false, []⟩,
  ⟨0x1025, 0x1025, 0, 0, .u32, 4, .r, .no, .r, false, false, 0, 0, false, []⟩]

def objRows2 : List ObjRow := [
  ⟨0x2001, 0x2001, 0, 0, .u8, 1, .rw, .no, .rw, false, false, 0xff, 0, false, [(0, 7)]⟩,
  ⟨0x2002, 0x2002, 0, 0, .u8, 1, .r, .r, .r, false, false, 0, 0, false, []⟩,
  ⟨0x2003, 0x2003, 0, 0, .u16, 2, .r, .no, .r, false, false, 0, 0, false, []⟩,
  ⟨0x2004, 0x2004, 0, 0, .u32, 4, .rw, .no, .r, false, false, 0x2710, 0, true, [(0x64, 0x927c0)]⟩,
  ⟨0x2010, 0x2010, 0, 0, .bool, 1, .rw, .no, .rw, false, false, 1, 0, true, []⟩,
  ⟨0x2011, 0x2011, 0, 0, .u8, 1, .rw, .no, .r, false, false, 3, 0, true, [(3, 4)]⟩,
  ⟨0x2020, 0x2020, 0, 0, .u16, 2, .rw, .no, .rw, false, false, 0, 0, true, [(0, 0), (0x3c, 0xdc)]⟩,
  ⟨0x2021, 0x2021, 0, 0, .u32, 4, .r, .no, .r, false, false, 0, 0, false, []⟩,
  ⟨0x2022, 0x2022, 0, 0, .u8, 1, .rw, .no, .r, false, false, 0x64, 0, true, [(0x55, 0x69)]⟩,
  ⟨0x2030, 0x2030, 0, 0, .u8, 1, .r, .no, .r, false, false, 0x40, 0, false, []⟩,
  ⟨0x2030, 0x2030, 1, 0x40, .u64, 8, .rw, .no, .r, false, false, 0, 0, true, []⟩,
  ⟨0x2031, 0x2031, 0, 0, .u8, 1, .r, .no, .r, false, false, 0, 0, false, []⟩,
  ⟨0x2032, 0x2032, 0, 0, .u32, 4, .r, .no, .r, false, false, 0, 0, false, []⟩,
  ⟨0x2040, 0x2040, 0, 0, .u32, 4, .r, .no, .r, false, false, 0, 0, false, []⟩,
  ⟨0x2041, 0x2041, 0, 0, .u64, 8, .r, .no, .r, false, false, 0, 0, false, []⟩,
  ⟨0x2042, 0x2042, 0, 0, .time64, 8, .r, .no, .r, false, false, 0, 0, false, []⟩]

def objRows3 : List ObjRow := [
  ⟨0x3000, 0x30ff, 1, 1, .u32, 4, .r, .no, .r, false, false, 0, 0, false, []⟩,
  ⟨0x3000, 0x30ff, 2, 2, .bool, 1, .rw, .no, .r, true, false, 0, 0, true, []⟩,
  ⟨0x3000, 0x30ff, 3, 3, .blob, 5, .r, .no, .r, false, false, 0, 0, false, []⟩,
  ⟨0x3000, 0x30ff, 4, 4, .u32, 4, .rw, .no, .r, false, false, 0, 0, false, []⟩,
  ⟨0x3000, 0x30ff, 5, 5, .u64, 8, .r, .no, .r, false, false, 0, 0, false, []⟩,
  ⟨0x3000, 0x30ff, 6, 6, .u64, 8, .r, .no, .r, false, false, 0, 0, false, []⟩,
  ⟨0x3000, 0x30ff, 7, 7, .u8, 1, .r, .no, .r, false, false, 0, 0, false, []⟩,
  ⟨0x3000, 0x30ff, 8, 8, .u32, 4, .r, .no, .r, false, false, 0, 0, false, []⟩,
  ⟨0x3000, 0x30ff, 9, 9, .u32, 4, .r, .no, .r, false, false, 0, 0, false, []⟩,
  ⟨0x3100, 0x310f, 1, 1, .u8, 1, .rw, .no, .r, true, false, 0, 0, true, [(0, 1)]⟩,
  ⟨0x3100, 0x310f, 2, 2, .u8, 1, .rw, .no, .r, true, false, 0, 0, true, [(0, 1)]⟩,
  ⟨0x3100, 0x310f, 3, 3, .u8, 1, .rw, .no, .r, false, false, 1, 0, true, [(0, 2)]⟩,
  ⟨0x3100, 0x310f, 4, 4, .u32, 4, .r, .no, .r, false, false, 0, 0, false, []⟩,
  ⟨0x3110, 0x3110, 0, 0, .bool, 1, .r, .no, .r, false, false, 0, 0, false, []⟩,
  ⟨0x3200, 0x323f, 1, 1, .u8, 1, .rw, .no, .r, false, false, 6, 0, true, [(1, 6)]⟩,
  ⟨0x3200, 0x323f, 2, 2, .u8, 1, .rw, .no, .r, true, false, 0, 0, true, [(0, 2)]⟩,
  ⟨0x3200, 0x323f, 3, 3, .u8, 1, .rw, .no, .r, false, false, 1, 0, true, [(0, 2)]⟩,
  ⟨0x3200, 0x323f, 4, 4, .u8, 1, .rw, .no, .r, false, false, 3, 0, true, [(0, 3)]⟩,
  ⟨0x3200, 0x323f, 5, 5, .u32, 4, .r, .no, .r, false, false, 0, 0, false, []⟩,
  ⟨0x3200, 0x323f, 6, 6, .u32, 4, .r, .no, .r, false, false, 0, 0, false, []⟩,
  ⟨0x3200, 0x323f, 7, 7, .u32, 4, .r, .no, .r, false, false, 0, 0, false, []⟩]

def objRows4a : List ObjRow := [
  ⟨0x4000, 0x402f, 0, 0, .u8, 1, .r, .no, .r, false, false, 0xa, 0, false, []⟩,
  ⟨0x4000, 0x402f, 1, 1, .bool, 1, .rw, .no, .r, false, false, 0, 0, true, []⟩,
  ⟨0x4000, 0x402f, 2, 2, .u8, 1, .rw, .no, .r, true, false, 0, 0, true, [(0, 3)]⟩,
  ⟨0x4000, 0x402f, 3, 3, .u16, 2, .rw, .no, .r, false, false, 0xffff, 0, true, []⟩,
  ⟨0x4000, 0x402f, 4, 4, .u16, 2, .rw, .no, .r, false, false, 0xfff, 0, true, [(0, 0xfff)]⟩,
  ⟨0x4000, 0x402f, 5, 5, .u32, 4, .r, .no, .r, false, false, 0, 0, false, []⟩,
  ⟨0x4000, 0x402f, 6, 6, .u8, 1, .rw, .no, .r, false, false, 1, 0, true, [(0, 1)]⟩,
  ⟨0x4000, 0x402f, 7, 7, .u32, 4, .rw, .no, .r, false, false, 0x1388, 0, true, [(0, 0xea60)]⟩,
  ⟨0x4000, 0x402f, 8, 8, .u32, 4, .r, .no, .r, false, false, 0, 0, false, []⟩,
  ⟨0x4000, 0x402f, 9, 9, .u64, 8, .r, .no, .r, false, false, 0, 0, false, []⟩,
  ⟨0x4000, 0x402f, 0xa, 0xa, .bool, 1, .rw, .no, .r, false, false, 1, 0, true, []⟩,
  ⟨0x4080, 0x40af, 0, 0, .u8, 1, .r, .no, .r, false, false, 5, 0, false, []⟩,
  ⟨0x4080, 0x40af, 1, 1, .u32, 4, .r, .no, .r, false, false, 0, 0, false, []⟩,
  ⟨0x4080, 0x40af, 2, 2, .u32, 4, .r, .no, .r, false, false, 0, 0, false, []⟩,
  ⟨0x4080, 0x40af, 3, 3, .u32, 4, .r, .no, .r, false, false, 0, 0, false, []⟩,
  ⟨0x4080, 0x40af, 4, 4, .u32, 4, .r, .no, .r, false, false, 0, 0, false, []⟩,
  ⟨0x4080, 0x40af, 5, 5, .u32, 4, .r, .no, .r, false, false, 0, 0, false, []⟩,
  ⟨0x4100, 0x412f, 0, 0, .u8, 1, .r, .r, .r, false, false, 6, 0, false, []⟩,
  ⟨0x4100, 0x412f, 1, 1, .u8, 1, .r, .r, .r, false, false, 0xff, 0, false, []⟩,
  ⟨0x4100, 0x412f, 2, 2, .u8, 1, .r, .r, .r, false, false, 0, 0, false, []⟩,
  ⟨0x4100, 0x412f, 3, 3, .u8, 1, .rw, .r, .r, true, false, 1, 0, true, [(1, 8)]⟩,
  ⟨0x4100, 0x412f, 4, 4, .u16, 2, .r, .r, .r, false, false, 0, 0, false, []⟩,
  ⟨0x4100, 0x412f, 5, 5, .u8, 1, .r, .r, .r, false, false, 0, 0, false, []⟩,
  ⟨0x4100, 0x412f, 6, 6, .u16, 2, .rw, .r, .r, false, false, 0xfff, 0, true, [(0, 0xfff)]⟩,
  ⟨0x4200, 0x437d, 0, 0, .u8, 1, .r, .no, .r, false, false, 6, 0, false, []⟩,
  ⟨0x4200, 0x437d, 1, 1, .u8, 1, .rw, .no, .r, false, true, 0, 7, false, []⟩,
  ⟨0x4200, 0x437d, 2, 2, .blob, 32, .w, .no, .no, false, true, 0, 7, false, []⟩,
  ⟨0x4200, 0x437d, 3, 3, .blob, 32, .w, .no, .no, false, true, 0, 7, false, []⟩,
  ⟨0x4200, 0x437d, 4, 4, .blob, 12, .w, .no, .no, false, true, 0, 7, false, []⟩,
  ⟨0x4200, 0x437d, 5, 5, .blob, 12, .w, .no, .no, false, true, 0, 7, false, []⟩,
  ⟨0x4200, 0x437d, 6, 6, .u8, 1, .r, .no, .r, false, false, 0, 0, false, []⟩,
  ⟨0x43f0, 0x43f0, 0, 0, .u8, 1, .r, .no, .r, false, false, 4, 0, false, []⟩]

def objRows4b : List ObjRow := [
  ⟨0x43f0, 0x43f0, 1, 1, .u32, 4, .r, .no, .r, false, false, 0, 0, false, []⟩,
  ⟨0x43f0, 0x43f0, 2, 2, .u64, 8, .r, .no, .r, false, false, 0, 0, false, []⟩,
  ⟨0x43f0, 0x43f0, 3, 3, .u64, 8, .r, .no, .r, false, false, 0, 0, false, []⟩,
  ⟨0x43f0, 0x43f0, 4, 4, .u64, 8, .r, .no, .r, false, false, 0, 0, false, []⟩,
  ⟨0x4400, 0x440f, 1, 1, .u8, 1, .rw, .no, .r, false, false, 0, 8, true, [(0, 2)]⟩]

def objRows4 : List ObjRow := objRows4a ++ objRows4b

def objRows5a : List ObjRow := [
  ⟨0x5000, 0x500f, 0, 0, .u8, 1, .r, .no, .r, false, false, 0xc, 0, false, []⟩,
  ⟨0x5000, 0x500f, 1, 1, .u8, 1, .r, .no, .r, false, false, 0, 0, false, []⟩,
  ⟨0x5000, 0x500f, 2, 2, .bool, 1, .rw, .no, .r, false, false, 0, 0, true, []⟩,
  ⟨0x5000, 0x500f, 3, 3, .u32, 4, .r, .no, .r, false, false, 0, 0, false, []⟩,
  ⟨0x5000, 0x500f, 4, 4, .u8, 1, .rw, .no, .r, false, false, 4, 0, true, [(1, 0xf)]⟩,
  ⟨0x5000, 0x500f, 5, 5, .u32, 4, .rw, .no, .r, false, false, 0x3e8, 0, true, [(0x100, 0x3e80)]⟩,
  ⟨0x5000, 0x500f, 6, 6, .u32, 4, .rw, .no, .r, false, false, 0x2710, 0, true, [(0x3e8, 0x186a0)]⟩,
  ⟨0x5000, 0x500f, 7, 7, .u32, 4, .rw, .no, .r, false, false, 0, 0, true, [(0, 0), (0xa, 0xf4240)]⟩,
  ⟨0x5000, 0x500f, 8, 8, .bool, 1, .w, .no, .no, false, false, 0, 0, false, []⟩,
  ⟨0x5000, 0x500f, 9, 9, .u64, 8, .r, .no, .r, false, false, 0, 0, false, []⟩,
  ⟨0x5000, 0x500f, 0xa, 0xa, .u64, 8, .r, .no, .r, false, false, 0, 0, false, []⟩,
  ⟨0x5000, 0x500f, 0xb, 0xb, .u32, 4, .r, .no, .r, false, false, 0, 0, false, []⟩,
  ⟨0x5000, 0x500f, 0xc, 0xc, .u64, 8, .r, .no, .r, false, false, 0, 0, false, []⟩,
  ⟨0x5100, 0x510f, 0, 0, .u8, 1, .r, .no, .r, false, false, 8, 0, false, []⟩,
  ⟨0x5100, 0x510f, 1, 8, .u32, 4, .rw, .no, .r, true, false, 0, 0, true, []⟩,
  ⟨0x5200, 0x520f, 0, 0, .u8, 1, .r, .no, .r, false, false, 0x10, 0, false, []⟩,
  ⟨0x5200, 0x520f, 1, 8, .u64, 8, .r, .no, .r, false, false, 0, 0, false, []⟩,
  ⟨0x5200, 0x520f, 9, 0x10, .u32, 4, .r, .no, .r, false, false, 0, 0, false, []⟩,
  ⟨0x5300, 0x530f, 0, 0, .u8, 1, .r, .no, .r, false, false, 0xe, 0, false, []⟩,
  ⟨0x5300, 0x530f, 1, 1, .u64, 8, .r, .no, .r, false, false, 0, 0, false, []⟩,
  ⟨0x5300, 0x530f, 2, 2, .u64, 8, .r, .no, .r, false, false, 0, 0, false, []⟩,
  ⟨0x5300, 0x530f, 3, 3, .u64, 8, .r, .no, .r, false, false, 0, 0, false, []⟩,
  ⟨0x5300, 0x530f, 4, 4, .u64, 8, .r, .no, .r, false, false, 0, 0, false, []⟩,
  ⟨0x5300, 0x530f, 5, 5, .u64, 8, .r, .no, .r, false, false, 0, 0, false, []⟩,
  ⟨0x5300, 0x530f, 6, 6, .u64, 8, .r, .no, .r, false, false, 0, 0, false, []⟩,
  ⟨0x5300, 0x530f, 7, 7, .u64, 8, .r, .no, .r, false, false, 0, 0, false, []⟩,
  ⟨0x5300, 0x530f, 8, 8, .u64, 8, .r, .no, .r, false, false, 0, 0, false, []⟩,
  ⟨0x5300, 0x530f, 9, 9, .u64, 8, .r, .no, .r, false, false, 0, 0, false, []⟩,
  ⟨0x5300, 0x530f, 0xa, 0xa, .u64, 8, .r, .no, .r, false, false, 0, 0, false, []⟩,
  ⟨0x5300, 0x530f, 0xb, 0xb, .u64, 8, .r, .no, .r, false, false, 0, 0, false, []⟩,
  ⟨0x5300, 0x530f, 0xc, 0xc, .u64, 8, .r, .no, .r, false, false, 0, 0, false, []⟩,
  ⟨0x5300, 0x530f, 0xd, 0xd, .u64, 8, .r, .no, .r, false, false, 0, 0, false, []⟩]

def objRows5b : List ObjRow := [
  ⟨0x5300, 0x530f, 0xe, 0xe, .u64, 8, .r, .no, .r, false, false, 0, 0, false, []⟩]

def objRows5 : List ObjRow := objRows5a ++ objRows5b

def objRows6 : List ObjRow := [
  ⟨0x6001, 0x6001, 0, 0, .u16, 2, .rw, .no, .r, true, false, 0, 0, true, [(0, 0xffe)]⟩,
  ⟨0x6002, 0x6002, 0, 0, .u32, 4, .r, .no, .r, false, false, 0, 0, false, []⟩,
  ⟨0x6003, 0x6003, 0, 0, .u32, 4, .r, .no, .r, false, false, 0, 0, false, []⟩,
  ⟨0x6004, 0x6004, 0, 0, .u16, 2, .r, .no, .r, false, false, 0, 0, false, []⟩,
  ⟨0x6005, 0x6005, 0, 0, .u32, 4, .r, .no, .r, false, false, 0, 0, false, []⟩,
  ⟨0x6006, 0x6006, 0, 0, .u64, 8, .r, .no, .r, false, false, 0, 0, false, []⟩,
  ⟨0x6007, 0x6007, 0, 0, .u64, 8, .r, .no, .r, false, false, 0, 0, false, []⟩,
  ⟨0x6010, 0x6010, 0, 0, .u8, 1, .rw, .no, .r, false, false, 0, 0, true, [(0, 2)]⟩,
  ⟨0x6011, 0x6011, 0, 0, .u8, 1, .rw, .no, .r, false, false, 8, 0, true, [(1, 8)]⟩,
  ⟨0x6014, 0x6014, 0, 0, .u32, 4, .rw, .no, .r, false, false, 0x3e8, 0, true, [(0x64, 0x186a0)]⟩,
  ⟨0x6020, 0x6020, 0, 0, .u8, 1, .rw, .no, .r, true, false, 0, 0, true, [(0, 1)]⟩,
  ⟨0x6030, 0x6030, 0, 0, .u8, 1, .rw, .no, .r, false, false, 0x80, 0, true, []⟩,
  ⟨0x6031, 0x6031, 0, 0, .time64, 8, .r, .r, .r, false, false, 0, 0, false, []⟩,
  ⟨0x6032, 0x6032, 0, 0, .time64, 8, .w, .no, .no, false, false, 0, 0, false, []⟩,
  ⟨0x6033, 0x6033, 0, 0, .u32, 4, .r, .no, .r, false, false, 0, 0, false, []⟩,
  ⟨0x6034, 0x6034, 0, 0, .s32, 4, .r, .no, .r, false, false, 0, 0, false, []⟩,
  ⟨0x6035, 0x6035, 0, 0, .s32, 4, .r, .no, .r, false, false, 0, 0, false, []⟩,
  ⟨0x6036, 0x6036, 0, 0, .u32, 4, .rw, .no, .r, false, false, 0x3e8, 0, true, [(0x64, 0xf4240)]⟩,
  ⟨0x6037, 0x6037, 0, 0, .u32, 4, .r, .no, .r, false, false, 0, 0, false, []⟩,
  ⟨0x6040, 0x6040, 1, 0x10, .u8, 1, .rw, .no, .r, false, false, 1, 0, true, [(1, 0xf)]⟩,
  ⟨0x6041, 0x6041, 1, 0x10, .u32, 4, .r, .no, .r, false, false, 0, 0, false, []⟩,
  ⟨0x6042, 0x6042, 1, 0x10, .s32, 4, .rw, .no, .r, false, false, 0, 0, true, []⟩,
  ⟨0x6050, 0x6050, 0, 0, .u16, 2, .rw, .no, .r, false, false, 0, 0, false, []⟩,
  ⟨0x6051, 0x6051, 0, 0, .blob, 448, .r, .no, .r, false, false, 0, 0, false, []⟩,
  ⟨0x6100, 0x611f, 1, 0x80, .u64, 8, .rw, .no, .r, false, false, 0, 4, false, []⟩,
  ⟨0x6200, 0x621f, 1, 0x80, .u32, 4, .rw, .no, .r, false, false, 0, 0, false, []⟩]

def objRows7a : List ObjRow := [
  ⟨0x7010, 0x7011, 0, 0, .u8, 1, .r, .no, .r, false, false, 0xc, 0, false, []⟩,
  ⟨0x7010, 0x7011, 1, 1, .u32, 4, .r, .no, .r, false, false, 0x30000, 0, false, []⟩,
  ⟨0x7010, 0x7011, 2, 2, .u32, 4, .r, .no, .r, false, false, 0, 0, false, []⟩,
  ⟨0x7010, 0x7011, 3, 3, .u32, 4, .r, .no, .r, false, false, 0x22e80, 0, false, []⟩,
  ⟨0x7010, 0x7011, 4, 4, .u32, 4, .r, .no, .r, false, false, 0, 0, false, []⟩,
  ⟨0x7010, 0x7011, 5, 5, .u32, 4, .rc, .no, .r, false, false, 0, 0, false, []⟩,
  ⟨0x7010, 0x7011, 6, 6, .u32, 4, .r, .no, .r, false, false, 0, 0, false, []⟩,
  ⟨0x7010, 0x7011, 7, 7, .u32, 4, .r, .no, .r, false, false, 0, 0, false, []⟩,
  ⟨0x7010, 0x7011, 8, 8, .u32, 4, .rc, .no, .r, false, false, 0, 0, false, []⟩,
  ⟨0x7010, 0x7011, 9, 9, .u64, 8, .r, .no, .r, false, false, 0, 0, false, []⟩,
  ⟨0x7010, 0x7011, 0xa, 0xa, .u64, 8, .r, .no, .r, false, false, 0, 0, false, []⟩,
  ⟨0x7010, 0x7011, 0xb, 0xb, .u64, 8, .r, .no, .r, false, false, 0, 0, false, []⟩,
  ⟨0x7010, 0x7011, 0xc, 0xc, .u64, 8, .r, .no, .r, false, false, 0, 0, false, []⟩,
  ⟨0x7020, 0x7027, 0, 0, .u8, 1, .r, .no, .r, false, false, 4, 0, false, []⟩,
  ⟨0x7020, 0x7027, 1, 1, .s32, 4, .rw, .no, .r, false, false, 0, 0, true, [(0, 3), (0xfffffffa, 0xffffffff)]⟩,
  ⟨0x7020, 0x7027, 2, 2, .u32, 4, .rw, .no, .r, false, false, 0, 0, true, [(1, 0xf4240)]⟩,
  ⟨0x7020, 0x7027, 3, 3, .u16, 2, .rw, .no, .r, true, false, 0x10, 0, true, [(1, 0x100)]⟩,
  ⟨0x7020, 0x7027, 4, 4, .u64, 8, .r, .no, .r, false, false, 0, 0, false, []⟩,
  ⟨0x7030, 0x7030, 1, 4, .u32, 4, .rw, .no, .r, false, false, 0, 0, true, [(1, 0xea60)]⟩,
  ⟨0x7031, 0x7031, 0, 0, .u32, 4, .rw, .no, .r, false, false, 0xa, 0, true, [(1, 0x258)]⟩,
  ⟨0x7032, 0x7032, 0, 0, .u32, 4, .rw, .no, .r, false, false, 0x1f4, 0, true, [(0x64, 0x186a0)]⟩,
  ⟨0x7100, 0x713f, 0, 0, .u8, 1, .r, .no, .r, false, false, 7, 0, false, []⟩,
  ⟨0x7100, 0x713f, 1, 1, .u8, 1, .rw, .no, .r, false, false, 0xff, 0, true, []⟩,
  ⟨0x7100, 0x713f, 2, 2, .u16, 2, .rw, .no, .r, true, false, 0x200, 0, true, [(0x80, 0x800)]⟩,
  ⟨0x7100, 0x713f, 3, 3, .u32, 4, .rw, .no, .r, false, false, 0x2000, 0, true, [(0x100, 0x10000)]⟩,
  ⟨0x7100, 0x713f, 4, 4, .u64, 8, .r, .no, .r, false, false, 0, 0, false, []⟩,
  ⟨0x7100, 0x713f, 5, 5, .u64, 8, .r, .no, .r, false, false, 0, 0, false, []⟩,
  ⟨0x7100, 0x713f, 6, 6, .u64, 8, .r, .no, .r, false, false, 0, 0, false, []⟩,
  ⟨0x7100, 0x713f, 7, 7, .u64, 8, .r, .no, .r, false, false, 0, 0, false, []⟩,
  ⟨0x7200, 0x723f, 0, 0, .u8, 1, .r, .no, .r, false, false, 8, 0, false, []⟩,
  ⟨0x7200, 0x723f, 1, 8, .u32, 4, .r, .no, .r, false, false, 0, 0, false, []⟩,
  ⟨0x7300, 0x7300, 0, 0, .u8, 1, .r, .no, .r, false, false, 4, 0, false, []⟩]

def objRows7b : List ObjRow := [
  ⟨0x7300, 0x7300, 1, 1, .u32, 4, .rw, .no, .r, false, false, 0x3e8, 0, true, [(0, 0), (0x64, 0x186a0)]⟩,
  ⟨0x7300, 0x7300, 2, 2, .u32, 4, .rw, .no, .r, false, false, 0x64, 0, true, [(0xa, 0x186a0)]⟩,
  ⟨0x7300, 0x7300, 3, 3, .u32, 4, .rw, .no, .r, false, false, 0x2710, 0, true, [(0xa, 0x186a0)]⟩,
  ⟨0x7300, 0x7300, 4, 4, .u64, 8, .r, .no, .r, false, false, 0, 0, false, []⟩,
  ⟨0x7400, 0x742f, 0, 0, .u8, 1, .r, .no, .r, false, false, 0xa, 0, false, []⟩,
  ⟨0x7400, 0x742f, 1, 1, .bool, 1, .rw, .no, .r, false, false, 1, 0, true, []⟩,
  ⟨0x7400, 0x742f, 2, 2, .u8, 1, .rw, .no, .r, false, false, 0, 0, true, []⟩,
  ⟨0x7400, 0x742f, 3, 3, .u8, 1, .r, .no, .r, false, false, 0, 0, false, []⟩,
  ⟨0x7400, 0x742f, 4, 4, .u64, 8, .r, .no, .r, false, false, 0, 0, false, []⟩,
  ⟨0x7400, 0x742f, 5, 5, .u64, 8, .r, .no, .r, false, false, 0, 0, false, []⟩,
  ⟨0x7400, 0x742f, 6, 6, .u64, 8, .r, .no, .r, false, false, 0, 0, false, []⟩,
  ⟨0x7400, 0x742f, 7, 7, .u64, 8, .r, .no, .r, false, false, 0, 0, false, []⟩,
  ⟨0x7400, 0x742f, 8, 8, .u64, 8, .r, .no, .r, false, false, 0, 0, false, []⟩,
  ⟨0x7400, 0x742f, 9, 9, .u32, 4, .r, .no, .r, false, false, 0, 0, false, []⟩,
  ⟨0x7400, 0x742f, 0xa, 0xa, .u64, 8, .r, .no, .r, false, false, 0, 0, false, []⟩,
  ⟨0x7500, 0x752f, 0, 0, .u8, 1, .r, .r, .r, false, false, 0x10, 0, false, []⟩,
  ⟨0x7500, 0x752f, 1, 0x10, .blob, 16, .r, .r, .r, false, false, 0, 0, false, []⟩]

def objRows7 : List ObjRow := objRows7a ++ objRows7b

def objRows8a : List ObjRow := [
  ⟨0x8000, 0x803f, 0, 0, .u8, 1, .r, .no, .r, false, false, 0xa, 0, false, []⟩,
  ⟨0x8000, 0x803f, 1, 1, .s32, 4, .rw, .no, .r, false, false, 0, 0, true, [(0, 0xff), (0xffffffc0, 0xffffffff)]⟩,
  ⟨0x8000, 0x803f, 2, 2, .u8, 1, .rw, .no, .r, false, false, 3, 0, true, [(1, 0xff)]⟩,
  ⟨0x8000, 0x803f, 3, 3, .u8, 1, .rw, .no, .r, false, false, 1, 0, true, [(1, 0xff)]⟩,
  ⟨0x8000, 0x803f, 4, 4, .u32, 4, .rw, .no, .r, false, false, 0x7d000, 1, true, [(1, 0x7d000)]⟩,
  ⟨0x8000, 0x803f, 5, 5, .u32, 4, .rw, .no, .r, false, false, 0x1000000, 1, true, [(0x200, 0x1000000)]⟩,
  ⟨0x8000, 0x803f, 6, 6, .u32, 4, .rw, .no, .r, false, false, 0x7d000, 1, true, [(1, 0x7d000)]⟩,
  ⟨0x8000, 0x803f, 7, 7, .u32, 4, .rw, .no, .r, false, false, 0x1000000, 1, true, [(0x200, 0x1000000)]⟩,
  ⟨0x8000, 0x803f, 8, 8, .u8, 1, .rw, .no, .r, false, false, 1, 0, true, [(0, 1)]⟩,
  ⟨0x8000, 0x803f, 9, 9, .u64, 8, .r, .no, .r, false, false, 0, 0, false, []⟩,
  ⟨0x8000, 0x803f, 0xa, 0xa, .u32, 4, .r, .no, .r, false, false, 0, 0, false, []⟩,
  ⟨0x8100, 0x817f, 1, 0x80, .u32, 4, .rw, .r, .r, false, false, 0x7d000, 1, true, [(1, 0x7d000)]⟩,
  ⟨0x8200, 0x827f, 1, 0x80, .u32, 4, .rw, .r, .r, false, false, 0x1000000, 1, true, [(0x200, 0x1000000)]⟩,
  ⟨0x8300, 0x837f, 1, 0x80, .u8, 1, .rw, .r, .r, false, false, 1, 0, true, [(1, 0xff)]⟩,
  ⟨0x8400, 0x84ff, 1, 0x80, .u64, 8, .rc, .r, .r, false, false, 0, 0, false, []⟩,
  ⟨0x8500, 0x853f, 1, 8, .u64, 8, .rc, .no, .r, false, false, 0, 0, false, []⟩,
  ⟨0x8600, 0x8601, 1, 0x80, .u8, 1, .rw, .r, .r, false, false, 0, 0, true, []⟩,
  ⟨0x8700, 0x873f, 0, 0, .u8, 1, .r, .no, .r, false, false, 0x80, 0, false, []⟩,
  ⟨0x8700, 0x873f, 1, 0x80, .u64, 8, .rw, .no, .r, false, false, 0xff000000000003e8, 6, true, []⟩,
  ⟨0x8800, 0x883f, 0, 0, .u8, 1, .r, .no, .r, false, false, 5, 0, false, []⟩,
  ⟨0x8800, 0x883f, 1, 1, .time64, 8, .rw, .no, .r, false, false, 0, 6, true, []⟩,
  ⟨0x8800, 0x883f, 2, 2, .u8, 1, .rw, .no, .r, false, false, 0, 6, true, [(0, 0x80)]⟩,
  ⟨0x8800, 0x883f, 3, 3, .u32, 4, .r, .no, .r, false, false, 0, 0, false, []⟩,
  ⟨0x8800, 0x883f, 4, 4, .time64, 8, .r, .no, .r, false, false, 0, 0, false, []⟩,
  ⟨0x8800, 0x883f, 5, 5, .u64, 8, .r, .no, .r, false, false, 0, 0, false, []⟩,
  ⟨0x8900, 0x8901, 0, 0, .u8, 1, .r, .no, .r, false, false, 8, 0, false, []⟩,
  ⟨0x8900, 0x8901, 1, 1, .u32, 4, .rw, .no, .r, false, false, 0x48000000, 0, false, []⟩,
  ⟨0x8900, 0x8901, 2, 2, .u64, 8, .rw, .no, .r, false, false, 0xffffffffffffffff, 0, false, []⟩,
  ⟨0x8900, 0x8901, 3, 3, .addr64, 8, .rw, .no, .r, false, false, 0x70000000, 0, false, []⟩,
  ⟨0x8900, 0x8901, 4, 4, .u32, 4, .rw, .no, .r, false, false, 0x100000, 0, false, []⟩,
  ⟨0x8900, 0x8901, 5, 5, .u32, 4, .r, .no, .r, false, false, 0, 0, false, []⟩,
  ⟨0x8900, 0x8901, 6, 6, .u32, 4, .rw, .no, .r, false, false, 0, 0, false, []⟩]

def objRows8b : List ObjRow := [
  ⟨0x8900, 0x8901, 7, 7, .u64, 8, .r, .no, .r, false, false, 0, 0, false, []⟩,
  ⟨0x8900, 0x8901, 8, 8, .u32, 4, .rw, .no, .r, false, false, 0x64, 0, false, [(0xa, 0xf4240)]⟩]

def objRows8 : List ObjRow := objRows8a ++ objRows8b

def objRows9 : List ObjRow := [
  ⟨0x9001, 0x9001, 0, 0, .u32, 4, .r, .no, .r, false, false, 0, 0, false, []⟩,
  ⟨0x9002, 0x9002, 0, 0, .bool, 1, .r, .no, .r, false, false, 0, 0, true, []⟩,
  ⟨0x9003, 0x9003, 0, 0, .u8, 1, .rw, .no, .r, false, false, 2, 0, true, [(0, 7)]⟩,
  ⟨0x9004, 0x9004, 0, 0, .u32, 4, .rw, .no, .r, false, false, 0x100, 0, true, [(1, 0x10000)]⟩,
  ⟨0x9005, 0x9005, 0, 0, .u8, 1, .rw, .no, .r, false, false, 4, 0, true, [(1, 8)]⟩,
  ⟨0x9006, 0x9006, 0, 0, .u8, 1, .rw, .no, .r, false, false, 4, 0, true, [(2, 0x40)]⟩,
  ⟨0x9007, 0x9007, 0, 0, .u16, 2, .rw, .no, .r, false, false, 8, 0, true, [(1, 0x3e8)]⟩,
  ⟨0x9008, 0x9008, 0, 0, .u32, 4, .rw, .no, .r, false, false, 0x3e8, 0, true, [(0x64, 0x186a0)]⟩,
  ⟨0x9009, 0x9009, 0, 0, .u32, 4, .rw, .no, .r, false, false, 0x2710, 0, true, [(0x64, 0x927c0)]⟩,
  ⟨0x9010, 0x9010, 0, 0, .u64, 8, .no, .no, .no, false, false, 0, 0, false, []⟩,
  ⟨0x9011, 0x9011, 0, 0, .u16, 2, .w, .no, .no, false, false, 0, 0, false, []⟩,
  ⟨0x9012, 0x9012, 0, 0, .u32, 4, .w, .no, .no, false, false, 0, 0, false, []⟩,
  ⟨0x9013, 0x9013, 0, 0, .u16, 2, .w, .no, .no, false, false, 0, 0, false, []⟩,
  ⟨0x9014, 0x9014, 1, 0x30, .u32, 4, .r, .no, .r, false, false, 0, 0, false, []⟩,
  ⟨0x9020, 0x9020, 1, 8, .u64, 8, .r, .no, .r, false, false, 0, 0, false, []⟩,
  ⟨0x9040, 0x905f, 1, 0x80, .u64, 8, .rw, .r, .r, false, false, 0, 0, true, []⟩,
  ⟨0x9060, 0x907f, 1, 0x80, .u64, 8, .r, .no, .r, false, false, 0, 0, false, []⟩,
  ⟨0x9080, 0x9087, 1, 0x80, .blob, 96, .rw, .no, .r, false, false, 0, 0, true, []⟩,
  ⟨0x9100, 0x917f, 1, 0x80, .u32, 4, .rw, .r, .r, false, false, 0, 0, true, []⟩,
  ⟨0x9200, 0x93ff, 1, 0x80, .u64, 8, .rw, .r, .r, false, false, 0, 5, true, []⟩,
  ⟨0x9400, 0x95ff, 1, 0x80, .u64, 8, .rw, .r, .r, false, false, 0, 5, true, []⟩,
  ⟨0x9600, 0x9dff, 1, 0x80, .u64, 8, .rw, .r, .r, false, false, 0, 5, true, []⟩,
  ⟨0x9e00, 0x9fff, 1, 0x80, .u64, 8, .rw, .r, .r, false, false, 0, 0, true, []⟩]

def objRowsAa : List ObjRow := [
  ⟨0xa001, 0xa001, 0, 0, .u8, 1, .r, .no, .r, false, false, 6, 0, false, []⟩,
  ⟨0xa001, 0xa001, 1, 1, .u32, 4, .r, .no, .r, false, false, 0, 0, false, []⟩,
  ⟨0xa001, 0xa001, 2, 2, .u32, 4, .r, .no, .r, false, false, 0, 0, false, []⟩,
  ⟨0xa001, 0xa001, 3, 3, .u32, 4, .rc, .no, .r, false, false, 0, 0, false, []⟩,
  ⟨0xa001, 0xa001, 4, 4, .u32, 4, .r, .no, .r, false, false, 0, 0, false, []⟩,
  ⟨0xa001, 0xa001, 5, 5, .u64, 8, .r, .no, .r, false, false, 0, 0, false, []⟩,
  ⟨0xa001, 0xa001, 6, 6, .u64, 8, .r, .no, .r, false, false, 0, 0, false, []⟩,
  ⟨0xa010, 0xa010, 0, 0, .bool, 1, .rw, .no, .r, false, false, 1, 0, true, []⟩,
  ⟨0xa020, 0xa021, 0, 0, .u8, 1, .r, .no, .r, false, false, 7, 0, false, []⟩,
  ⟨0xa020, 0xa021, 1, 1, .u32, 4, .r, .no, .r, false, false, 0, 0, false, []⟩,
  ⟨0xa020, 0xa021, 2, 2, .u32, 4, .r, .no, .r, false, false, 0, 0, false, []⟩,
  ⟨0xa020, 0xa021, 3, 3, .u64, 8, .r, .no, .r, false, false, 0, 0, false, []⟩,
  ⟨0xa020, 0xa021, 4, 4, .u64, 8, .r, .no, .r, false, false, 0, 0, false, []⟩,
  ⟨0xa020, 0xa021, 5, 5, .u32, 4, .r, .no, .r, false, false, 0, 0, false, []⟩,
  ⟨0xa020, 0xa021, 6, 6, .u32, 4, .r, .no, .r, false, false, 0, 0, false, []⟩,
  ⟨0xa020, 0xa021, 7, 7, .u64, 8, .r, .no, .r, false, false, 0, 0, false, []⟩,
  ⟨0xa030, 0xa030, 0, 0, .u8, 1, .r, .no, .r, false, false, 3, 0, false, []⟩,
  ⟨0xa030, 0xa030, 1, 1, .u32, 4, .rw, .no, .r, false, false, 0x3d0900, 0, true, [(0x2710, 0x5f5e100)]⟩,
  ⟨0xa030, 0xa030, 2, 2, .u16, 2, .rw, .no, .r, false, false, 0x100, 0, true, [(1, 0xffff)]⟩,
  ⟨0xa030, 0xa030, 3, 3, .u64, 8, .r, .no, .r, false, false, 0, 0, false, []⟩,
  ⟨0xa040, 0xa040, 0, 0, .u8, 1, .r, .no, .r, false, false, 0xf, 0, false, []⟩,
  ⟨0xa040, 0xa040, 1, 0xf, .u64, 8, .r, .no, .r, false, false, 0, 0, false, []⟩,
  ⟨0xa041, 0xa041, 0, 0, .u8, 1, .r, .no, .r, false, false, 0xf, 0, false, []⟩,
  ⟨0xa041, 0xa041, 1, 0xf, .u64, 8, .r, .no, .r, false, false, 0, 0, false, []⟩,
  ⟨0xa050, 0xa050, 0, 0, .u64, 8, .rw, .no, .r, false, false, 0, 0, false, []⟩,
  ⟨0xa051, 0xa051, 0, 0, .blob, 16, .r, .no, .r, false, false, 0, 0, false, []⟩,
  ⟨0xa052, 0xa052, 0, 0, .u8, 1, .r, .no, .r, false, false, 0, 0, false, []⟩,
  ⟨0xa060, 0xa060, 0, 0, .u8, 1, .r, .no, .r, false, false, 9, 0, false, []⟩,
  ⟨0xa060, 0xa060, 1, 1, .u64, 8, .r, .no, .r, false, false, 0, 0, false, []⟩,
  ⟨0xa060, 0xa060, 2, 2, .u64, 8, .r, .no, .r, false, false, 0, 0, false, []⟩,
  ⟨0xa060, 0xa060, 3, 3, .u64, 8, .r, .no, .r, false, false, 0, 0, false, []⟩,
  ⟨0xa060, 0xa060, 4, 4, .u64, 8, .r, .no, .r, false, false, 0, 0, false, []⟩]

def objRowsAb : List ObjRow := [
  ⟨0xa060, 0xa060, 5, 5, .u64, 8, .r, .no, .r, false, false, 0, 0, false, []⟩,
  ⟨0xa060, 0xa060, 6, 6, .u64, 8, .r, .no, .r, false, false, 0, 0, false, []⟩,
  ⟨0xa060, 0xa060, 7, 7, .u32, 4, .r, .no, .r, false, false, 0, 0, false, []⟩,
  ⟨0xa060, 0xa060, 8, 8, .u64, 8, .r, .no, .r, false, false, 0, 0, false, []⟩,
  ⟨0xa060, 0xa060, 9, 9, .u64, 8, .r, .no, .r, false, false, 0, 0, false, []⟩,
  ⟨0xa061, 0xa061, 0, 0, .u16, 2, .w, .no, .no, false, false, 0, 0, false, []⟩,
  ⟨0xa062, 0xa062, 0, 0, .u32, 4, .no, .no, .no, false, false, 0, 0, false, []⟩,
  ⟨0xa063, 0xa063, 0, 0, .blob, 16, .no, .no, .no, false, false, 0, 0, false, []⟩]

def objRowsA : List ObjRow := objRowsAa ++ objRowsAb

def objRowsB : List ObjRow := [
  ⟨0xb001, 0xb001, 1, 1, .u32, 4, .rw, .no, .r, false, false, 0x3e8, 0, true, [(0xa, 0xea60)]⟩,
  ⟨0xb001, 0xb001, 2, 2, .u16, 2, .r, .no, .r, false, false, 0x1f00, 0, false, []⟩,
  ⟨0xb001, 0xb001, 3, 3, .u16, 2, .r, .no, .r, false, false, 0x1000, 0, false, []⟩,
  ⟨0xb100, 0xb12f, 1, 1, .u8, 1, .r, .r, .r, false, false, 0, 0, false, []⟩,
  ⟨0xb100, 0xb12f, 2, 2, .u8, 1, .rw, .r, .r, false, false, 4, 0, true, [(1, 4)]⟩,
  ⟨0xb200, 0xb2ff, 1, 1, .u32, 4, .rw, .r, .r, false, false, 0, 0, true, []⟩,
  ⟨0xb200, 0xb2ff, 2, 2, .u8, 1, .r, .r, .r, false, false, 0, 0, false, []⟩,
  ⟨0xb200, 0xb2ff, 3, 3, .u16, 2, .rw, .r, .r, false, false, 0, 0, true, [(0, 0x100)]⟩,
  ⟨0xb200, 0xb2ff, 4, 4, .u16, 2, .rw, .r, .r, false, false, 0x20, 0, true, [(1, 0x100)]⟩,
  ⟨0xb200, 0xb2ff, 5, 5, .u8, 1, .rw, .r, .r, false, false, 1, 0, true, []⟩,
  ⟨0xb200, 0xb2ff, 6, 6, .u32, 4, .rw, .r, .r, false, false, 0xf4240, 0, true, [(1, 0xf4240)]⟩,
  ⟨0xb200, 0xb2ff, 7, 7, .bool, 1, .rw, .r, .r, false, false, 0, 0, true, []⟩,
  ⟨0xb200, 0xb2ff, 8, 8, .u64, 8, .r, .r, .r, false, false, 0, 0, false, []⟩,
  ⟨0xb200, 0xb2ff, 9, 9, .u64, 8, .r, .r, .r, false, false, 0, 0, false, []⟩,
  ⟨0xb200, 0xb2ff, 0xa, 0xa, .u64, 8, .r, .r, .r, false, false, 0, 0, false, []⟩,
  ⟨0xb400, 0xb41f, 1, 0x80, .u16, 2, .rw, .r, .r, false, false, 0, 0, true, []⟩,
  ⟨0xb440, 0xb45f, 1, 0x80, .u8, 1, .w, .no, .no, false, false, 0, 0, false, [(0, 2)]⟩,
  ⟨0xb480, 0xb49f, 1, 0x80, .u32, 4, .r, .r, .r, false, false, 0, 0, false, []⟩,
  ⟨0xb600, 0xb602, 1, 4, .u32, 4, .r, .r, .r, false, false, 0, 0, false, []⟩,
  ⟨0xb700, 0xb700, 1, 1, .u32, 4, .no, .no, .r, false, false, 0, 0, false, []⟩,
  ⟨0xb700, 0xb700, 2, 2, .u32, 4, .no, .no, .w, false, false, 0, 0, false, []⟩,
  ⟨0xb700, 0xb700, 3, 3, .u32, 4, .no, .no, .rw, false, false, 0, 0, false, []⟩,
  ⟨0xb700, 0xb700, 4, 4, .u32, 4, .no, .no, .rw, false, false, 0, 0, false, []⟩,
  ⟨0xb700, 0xb700, 5, 5, .u32, 4, .no, .no, .rw, false, false, 0, 0, false, []⟩,
  ⟨0xb700, 0xb700, 6, 6, .u16, 2, .no, .no, .rw, false, false, 0x100, 0, false, []⟩,
  ⟨0xb700, 0xb700, 7, 7, .u32, 4, .no, .no, .rw, false, false, 0, 0, false, []⟩,
  ⟨0xb700, 0xb700, 8, 8, .u32, 4, .no, .no, .rw, false, false, 0, 0, false, []⟩,
  ⟨0xb700, 0xb700, 9, 9, .u32, 4, .no, .no, .w, false, false, 0, 0, false, []⟩,
  ⟨0xb700, 0xb700, 0xa, 0xa, .u32, 4, .no, .no, .r, false, false, 0, 0, false, []⟩]

def objRowsC : List ObjRow := [
  ⟨0xc010, 0xc010, 0, 0, .u8, 1, .r, .no, .r, false, false, 3, 0, false, []⟩,
  ⟨0xc010, 0xc010, 1, 1, .addr64, 8, .r, .no, .r, false, false, 0, 0, false, []⟩,
  ⟨0xc010, 0xc010, 2, 2, .u32, 4, .rw, .no, .r, false, false, 0, 0, false, []⟩,
  ⟨0xc010, 0xc010, 3, 3, .u32, 4, .rc, .no, .r, false, false, 0, 0, false, []⟩,
  ⟨0xc020, 0xc020, 0, 0, .u8, 1, .r, .no, .r, false, false, 0x40, 0, false, []⟩,
  ⟨0xc020, 0xc020, 1, 0x40, .u32, 4, .r, .no, .r, false, false, 0, 0, false, []⟩,
  ⟨0xc100, 0xc11f, 0, 0, .u8, 1, .r, .no, .r, false, false, 2, 0, false, []⟩,
  ⟨0xc100, 0xc10f, 1, 1, .addr64, 8, .r, .no, .r, false, false, 0, 2, true, []⟩,
  ⟨0xc110, 0xc11f, 1, 1, .addr64, 8, .rw, .no, .r, false, false, 0, 2, true, []⟩,
  ⟨0xc100, 0xc10f, 2, 2, .u32, 4, .r, .no, .r, false, false, 0, 2, true, []⟩,
  ⟨0xc110, 0xc11f, 2, 2, .u32, 4, .rw, .no, .r, false, false, 0, 2, true, []⟩,
  ⟨0xc030, 0xc030, 0, 0, .u8, 1, .r, .no, .r, false, false, 3, 0, false, []⟩,
  ⟨0xc030, 0xc030, 1, 1, .u64, 8, .r, .no, .r, false, false, 0, 0, false, []⟩,
  ⟨0xc030, 0xc030, 2, 2, .u64, 8, .r, .no, .r, false, false, 0, 0, false, []⟩,
  ⟨0xc030, 0xc030, 3, 3, .u64, 8, .r, .no, .r, false, false, 0, 0, false, []⟩]

def objRowsD : List ObjRow := [
  ⟨0xd001, 0xd001, 0, 0, .u8, 1, .r, .r, .r, false, false, 0, 0, false, []⟩,
  ⟨0xd002, 0xd002, 0, 0, .u8, 1, .w, .no, .no, false, true, 0, 0, false, []⟩,
  ⟨0xd003, 0xd003, 0, 0, .u16, 2, .r, .no, .r, false, false, 0, 0, true, []⟩,
  ⟨0xd004, 0xd004, 0, 0, .u32, 4, .r, .no, .r, false, false, 0, 0, false, []⟩,
  ⟨0xd005, 0xd005, 1, 2, .u8, 1, .r, .no, .r, false, false, 0, 0, false, []⟩,
  ⟨0xd006, 0xd006, 0, 0, .u8, 1, .r, .no, .r, false, false, 0, 0, false, []⟩,
  ⟨0xd010, 0xd010, 1, 1, .blob, 1024, .r, .r, .r, false, false, 0, 0, false, []⟩,
  ⟨0xd010, 0xd010, 2, 2, .blob, 928, .r, .r, .r, false, false, 0, 0, false, []⟩,
  ⟨0xd011, 0xd011, 1, 6, .blob, 1024, .r, .r, .r, false, false, 0, 0, false, []⟩,
  ⟨0xd012, 0xd012, 1, 8, .blob, 1024, .rw, .r, .r, false, false, 0, 0, true, []⟩,
  ⟨0xd013, 0xd013, 1, 6, .blob, 1024, .r, .r, .r, false, false, 0, 0, false, []⟩,
  ⟨0xd020, 0xd020, 0, 0, .blob, 32, .rw, .rw, .no, false, false, 0, 0, false, []⟩,
  ⟨0xd021, 0xd021, 1, 4, .blob, 1024, .r, .r, .no, false, false, 0, 0, false, []⟩,
  ⟨0xd022, 0xd022, 1, 3, .blob, 64, .r, .r, .r, false, false, 0, 0, false, []⟩,
  ⟨0xd030, 0xd030, 0, 0, .blob, 32, .r, .no, .no, false, false, 0, 0, false, []⟩,
  ⟨0xd040, 0xd040, 1, 4, .blob, 1024, .w, .no, .no, false, false, 0, 0, false, []⟩,
  ⟨0xd041, 0xd041, 0, 0, .u16, 2, .w, .no, .no, false, false, 0, 0, false, []⟩,
  ⟨0xd042, 0xd042, 0, 0, .u32, 4, .r, .no, .no, false, false, 0, 0, false, []⟩,
  ⟨0xd050, 0xd050, 0, 0, .u16, 2, .w, .no, .no, false, true, 0, 0, false, [(1, 0x2760)]⟩,
  ⟨0xd060, 0xd060, 1, 1, .u8, 1, .rw, .no, .r, false, false, 2, 0, false, [(1, 2)]⟩,
  ⟨0xd060, 0xd060, 2, 2, .u32, 4, .rw, .no, .r, false, false, 0, 0, false, []⟩,
  ⟨0xd060, 0xd060, 3, 3, .blob, 1024, .w, .no, .no, false, false, 0, 0, false, []⟩,
  ⟨0xd060, 0xd060, 4, 4, .u8, 1, .w, .no, .no, false, false, 0, 0, false, []⟩,
  ⟨0xd060, 0xd060, 5, 5, .u32, 4, .r, .no, .r, false, false, 0, 0, false, []⟩,
  ⟨0xd061, 0xd061, 0, 0, .u8, 1, .w, .no, .no, false, true, 0, 0, false, [(1, 2)]⟩,
  ⟨0xd062, 0xd062, 0, 0, .u8, 1, .w, .no, .no, false, true, 0, 0, false, []⟩,
  ⟨0xd100, 0xd107, 1, 1, .blob, 1024, .w, .no, .no, false, true, 0, 0, true, []⟩,
  ⟨0xd100, 0xd107, 2, 2, .blob, 928, .w, .no, .no, false, true, 0, 0, true, []⟩,
  ⟨0xd100, 0xd107, 3, 3, .u32, 4, .rw, .no, .r, false, true, 0, 0, true, []⟩,
  ⟨0xd100, 0xd107, 4, 4, .blob, 64, .r, .no, .r, false, false, 0, 0, true, []⟩]

def objRowsEa : List ObjRow := [
  ⟨0xe001, 0xe001, 0, 0, .u8, 1, .rw, .no, .r, false, false, 3, 0, true, [(0, 4)]⟩,
  ⟨0xe002, 0xe002, 0, 0, .u8, 1, .rw, .no, .r, false, false, 0, 0, true, [(0, 4)]⟩,
  ⟨0xe003, 0xe003, 0, 0, .u32, 4, .rw, .no, .r, false, false, 0xa, 0, true, [(1, 0x2710)]⟩,
  ⟨0xe010, 0xe010, 0, 0, .u32, 4, .rw, .no, .rw, false, false, 0, 0, false, []⟩,
  ⟨0xe011, 0xe011, 0, 0, .blob, 32, .r, .no, .r, false, false, 0, 0, false, []⟩,
  ⟨0xe012, 0xe012, 0, 0, .u32, 4, .r, .no, .r, false, false, 0, 0, false, []⟩,
  ⟨0xe013, 0xe013, 0, 0, .u32, 4, .r, .no, .r, false, false, 0, 0, false, []⟩,
  ⟨0xe014, 0xe014, 0, 0, .blob, 32, .r, .no, .r, false, false, 0, 0, false, []⟩,
  ⟨0xe015, 0xe015, 0, 0, .u32, 4, .w, .no, .no, false, false, 0, 0, false, []⟩,
  ⟨0xe016, 0xe016, 0, 0, .u32, 4, .rw, .no, .r, false, false, 0, 0, false, []⟩,
  ⟨0xe017, 0xe017, 0, 0, .u32, 4, .r, .no, .r, false, false, 0, 0, false, []⟩,
  ⟨0xe020, 0xe020, 0, 0, .u8, 1, .rw, .no, .r, false, false, 0x18, 0, true, [(1, 0xa8)]⟩,
  ⟨0xe021, 0xe021, 0, 0, .u32, 4, .r, .no, .r, false, false, 0, 0, false, []⟩,
  ⟨0xe022, 0xe022, 0, 0, .u16, 2, .rw, .no, .r, false, false, 0x3c, 0, true, [(1, 0x5a0)]⟩,
  ⟨0xe023, 0xe023, 1, 3, .u8, 1, .rw, .no, .r, false, false, 0x20, 0, true, [(1, 0xff)]⟩,
  ⟨0xe030, 0xe030, 1, 0x18, .u64, 8, .rw, .no, .r, false, false, 0, 0, true, []⟩,
  ⟨0xe040, 0xe040, 0, 0, .u32, 4, .rw, .no, .r, false, false, 0xf4240, 0, true, [(0x3e8, 0x3b9aca00)]⟩,
  ⟨0xe041, 0xe041, 0, 0, .addr64, 8, .rw, .no, .r, false, false, 0x70200000, 0, false, []⟩,
  ⟨0xe042, 0xe042, 0, 0, .u32, 4, .rw, .no, .r, false, false, 0x10000, 0, false, []⟩,
  ⟨0xe043, 0xe043, 0, 0, .u32, 4, .r, .no, .r, false, false, 0, 0, false, []⟩,
  ⟨0xe044, 0xe044, 0, 0, .u32, 4, .rw, .no, .r, false, false, 0, 0, false, []⟩,
  ⟨0xe045, 0xe045, 0, 0, .u64, 8, .r, .no, .r, false, false, 0, 0, false, []⟩,
  ⟨0xe100, 0xe13f, 1, 1, .u64, 8, .rw, .no, .r, false, false, 0, 0, false, []⟩,
  ⟨0xe100, 0xe13f, 2, 2, .u64, 8, .rw, .no, .r, false, false, 0x3c00ff000000000, 0, false, []⟩,
  ⟨0xe100, 0xe13f, 3, 3, .addr64, 8, .rw, .no, .r, false, false, 0, 3, false, []⟩,
  ⟨0xe100, 0xe13f, 4, 4, .u64, 8, .rw, .no, .r, false, false, 0, 3, false, []⟩,
  ⟨0xe100, 0xe13f, 5, 5, .u64, 8, .rw, .no, .r, false, false, 0, 0, false, []⟩,
  ⟨0xe200, 0xe21d, 1, 0x80, .u8, 1, .rw, .no, .r, false, false, 0, 0, true, [(0, 4)]⟩,
  ⟨0xe300, 0xe33f, 1, 2, .u64, 8, .r, .no, .r, false, false, 0, 0, false, []⟩,
  ⟨0xe300, 0xe33f, 3, 4, .u64, 8, .rc, .no, .r, false, false, 0, 0, false, []⟩,
  ⟨0xe300, 0xe33f, 5, 5, .time64, 8, .r, .no, .r, false, false, 0, 0, false, []⟩,
  ⟨0xe400, 0xe417, 1, 0x80, .u64, 8, .r, .no, .r, false, false, 0, 0, false, []⟩]

def objRowsEb : List ObjRow := [
  ⟨0xe600, 0xe601, 1, 0x35, .u8, 1, .r, .no, .r, false, false, 0, 0, false, []⟩]

def objRowsE : List ObjRow := objRowsEa ++ objRowsEb

/-- The rows of one area. -/
def objRowsOf : Nat → List ObjRow
  | 0 => objRows0
  | 1 => objRows1
  | 2 => objRows2
  | 3 => objRows3
  | 4 => objRows4
  | 5 => objRows5
  | 6 => objRows6
  | 7 => objRows7
  | 8 => objRows8
  | 9 => objRows9
  | 0xa => objRowsA
  | 0xb => objRowsB
  | 0xc => objRowsC
  | 0xd => objRowsD
  | 0xe => objRowsE
  | _ => []

/-- The row covers index ix (area and index) and element el. -/
def rowHas (r : ObjRow) (ix el : Nat) : Bool :=
  decide (r.lo ≤ ix) && decide (ix ≤ r.hi) && decide (r.e0 ≤ el) && decide (el ≤ r.e1)

/-- Element 00 of a record or array that no row lists: the number of its elements (R46). -/
def countRow (ix : Nat) (rows : List ObjRow) : Option ObjRow :=
  match rows.filter (fun r => decide (r.lo ≤ ix) && decide (ix ≤ r.hi) && decide (1 ≤ r.e1)) with
  | [] => none
  | r :: t =>
    some { r with e0 := 0, e1 := 0, ty := .u8, size := 1, cfg := false, tok := false, grp := 0, pers := false, lims := [],
                  m := if accReads r.m then .r else .no, t := if accReads r.t then .r else .no,
                  o := if accReads r.o then .r else .no, dflt := t.foldl (fun n x => max n x.e1) r.e1 }

/-- The dictionary row of an object, none where no such object exists. Streams 6 and 7 of an edge port have no IDE key
record (R247). -/
def objFind (oid : Nat) : Option ObjRow :=
  let ix := oid / 256
  let el := oid % 256
  if 0x4200 ≤ ix ∧ ix ≤ 0x437D ∧ 6 ≤ ix % 8 then none
  else if 2 ^ 24 ≤ oid then none
  else
    let rows := objRowsOf (oid / 2 ^ 20)
    match rows.find? (fun r => rowHas r ix el) with
    | some r => some r
    | none => if el = 0 then countRow ix rows else none

/-- Reads of the object return 0: some session may write it and none may read it (R51). -/
def ObjRow.writeOnly (r : ObjRow) : Bool := decide (r.m = .w) || (decide (r.m = .no) && decide (r.t = .no) && decide (r.o = .w))

/-- The number of elements that element 00 of a record or an array holds (R46); none for an object that is neither. -/
def countOf (oid : Nat) : Option Nat :=
  if oid % 256 = 0 then
    match (objRowsOf (oid / 2 ^ 20)).find? fun r => rowHas r (oid / 256) 0 with
    | some _ => none
    | none => (objFind oid).map (·.dflt)
  else none

/-- Default severities of event codes (R601). -/
def sevDefault (code : Nat) : Nat :=
  if code ∈ [0x0217, 0x0E01, 0x0E02] then 4
  else if code ∈ [0x0101, 0x0102, 0x0103, 0x0104, 0x0105, 0x0106, 0x010A, 0x0222, 0x0302, 0x0404, 0x0406, 0x0504, 0x0505,
      0x0506, 0x0602, 0x0603, 0x0606, 0x0607, 0x0701, 0x0703, 0x0704, 0x0707, 0x070B, 0x0710, 0x0711, 0x0905, 0x0908,
      0x090A, 0x0A02, 0x0A07, 0x0A08, 0x0B01, 0x0C01, 0x0D01, 0x0D02, 0x0D08, 0x0E04, 0x0E05, 0x0E07, 0x0E0A] then 3
  else if code ∈ [0x0001, 0x0002, 0x0003, 0x010D, 0x0220, 0x0303, 0x0305, 0x0306, 0x0402, 0x0405, 0x0503, 0x0604, 0x0605,
      0x0608, 0x0609, 0x0705, 0x0706, 0x0709, 0x070A, 0x0803, 0x0904, 0x0909, 0x090B, 0x0A04, 0x0A05, 0x0A09, 0x0B04,
      0x0B05, 0x0C02, 0x0C03, 0x0D04, 0x0E03, 0x0E09] then 2
  else 1

/-- Default advertisement of class c: header credits in [31:16], data credits in [15:0] (R271). -/
def advDefault : Nat → Nat
  | 0 => 512 * 65536 + 1024
  | 1 => 512 * 65536
  | 2 => 1024 * 65536 + 2048
  | 3 => 512 * 65536 + 2048
  | 4 => 256 * 65536 + 1024
  | 5 => 256 * 65536 + 512
  | 6 => 256 * 65536 + 1024
  | _ => 64 * 65536 + 256

/-- Default of a class record element of area 7 (R360). -/
def classDefault (c el : Nat) : Nat :=
  if el = 1 then (if c ≤ 2 then 1 else if c = 5 then 2 ^ 32 - 1 else if c = 7 then 2 ^ 32 - 2 else 0)
  else if el = 2 then (if c ≤ 2 then 0 else if c = 7 then 500000 else 50000)
  else if el = 3 then 16 else if el = 0 then 4 else 0

/-- Default of an MPU element (R555): regions 0 and 1, slots 0 to 21. -/
def mpuDefault (ix el : Nat) : Nat :=
  if ix = 0xC100 ∧ el = 2 then 0xD2000005
  else if ix = 0xC101 ∧ el = 1 then 0x10000000
  else if ix = 0xC101 ∧ el = 2 then 0x98000007
  else if ix = 0xC020 ∧ 1 ≤ el ∧ el ≤ 22 then 3
  else if ix = 0xC020 ∧ el = 0 then 64
  else if 0xC100 ≤ ix ∧ el = 0 then 2 else 0

/-- The default value of an object. -/
def objDefault (oid : Nat) : Nat :=
  let ix := oid / 256
  let el := oid % 256
  let area := oid / 2 ^ 20
  if area = 3 ∧ el = 2 ∧ 0x30C0 ≤ ix ∧ ix ≤ 0x30FF then 1
  else if area = 3 ∧ el = 1 ∧ 0x3230 ≤ ix ∧ ix ≤ 0x323F then 7
  else if area = 4 ∧ el = 1 ∧ 0x4200 ≤ ix ∧ ix ≤ 0x437D then ix % 8
  else if area = 5 ∧ 1 ≤ el ∧ el ≤ 8 ∧ 0x5100 ≤ ix ∧ ix ≤ 0x510F then advDefault (el - 1)
  else if area = 7 ∧ 0x7020 ≤ ix ∧ ix ≤ 0x7027 then classDefault (ix - 0x7020) el
  else if oid = 0x703002 then 20 else if oid = 0x703003 then 100 else if oid = 0x703004 then 1000
  else if oid = 0x703001 then 20
  else if oid = 0x890103 then 0x70100000
  else if area = 0xC ∧ (ix = 0xC020 ∨ 0xC100 ≤ ix) then mpuDefault ix el
  else if area = 0xE ∧ 0xE200 ≤ ix ∧ ix ≤ 0xE21D ∧ 1 ≤ el then sevDefault ((ix - 0xE200) / 2 * 256 + (ix - 0xE200) % 2 * 128 + (el - 1))
  else match objFind oid with
    | some r => r.dflt
    | none => 0

/-- Object ID from area, index and element (R45). -/
def mkOid (area index element : Nat) : Nat := area * 2 ^ 20 + index * 256 + element

end Sys2Proof.Machine
end

