-- ==== Sys2Proof/Machine/Update.lean ====
section
/-! DEFINITION. Changing one block of the module: the updaters every operation is built from. -/
namespace Sys2Proof.Machine

/-- Apply f when c holds. -/
def Mod.when (m : Mod) (c : Bool) (f : Mod → Mod) : Mod := if c then f m else m

/-- Apply f for every element of a list in order. -/
def Mod.each {α : Type} (m : Mod) (l : List α) (f : α → Mod → Mod) : Mod := l.foldl (fun m a => f a m) m

/-- Append what the module sends or answers. -/
def Mod.emit (m : Mod) (o : Out) : Mod := { m with out := m.out ++ [o] }

/-- Draw a fresh index for a free value. -/
def Mod.drawn (m : Mod) : Mod := { m with draws := m.draws + 1 }

def Mod.onEv (m : Mod) (f : EventBlk → EventBlk) : Mod := { m with ev := f m.ev }
def Mod.onCn (m : Mod) (f : CountBlk → CountBlk) : Mod := { m with cn := f m.cn }
def Mod.onPw (m : Mod) (f : PowerBlk → PowerBlk) : Mod := { m with pw := f m.pw }
def Mod.onMd (m : Mod) (f : ModeBlk → ModeBlk) : Mod := { m with md := f m.md }
def Mod.onFn (m : Mod) (f : FenceBlk → FenceBlk) : Mod := { m with fn := f m.fn }
def Mod.onPh (m : Mod) (f : PhyBlk → PhyBlk) : Mod := { m with ph := f m.ph }
def Mod.onEd (m : Mod) (f : EdgeBlk → EdgeBlk) : Mod := { m with ed := f m.ed }
def Mod.onLk (m : Mod) (f : LinkBlk → LinkBlk) : Mod := { m with lk := f m.lk }
def Mod.onSw (m : Mod) (f : SwitchBlk → SwitchBlk) : Mod := { m with sw := f m.sw }
def Mod.onRt (m : Mod) (f : RouteBlk → RouteBlk) : Mod := { m with rt := f m.rt }
def Mod.onTi (m : Mod) (f : TimeBlk → TimeBlk) : Mod := { m with ti := f m.ti }
def Mod.onDi (m : Mod) (f : DictBlk → DictBlk) : Mod := { m with di := f m.di }
def Mod.onTp (m : Mod) (f : TapBlk → TapBlk) : Mod := { m with tp := f m.tp }
def Mod.onCa (m : Mod) (f : CacheBlk → CacheBlk) : Mod := { m with ca := f m.ca }
def Mod.onHo (m : Mod) (f : HomeBlk → HomeBlk) : Mod := { m with ho := f m.ho }
def Mod.onPo (m : Mod) (f : PoolBlk → PoolBlk) : Mod := { m with po := f m.po }
def Mod.onSc (m : Mod) (f : SchedBlk → SchedBlk) : Mod := { m with sc := f m.sc }
def Mod.onBr (m : Mod) (f : BridgeBlk → BridgeBlk) : Mod := { m with br := f m.br }
def Mod.onSv (m : Mod) (f : ServiceBlk → ServiceBlk) : Mod := { m with sv := f m.sv }
def Mod.onSe (m : Mod) (f : SecBlk → SecBlk) : Mod := { m with se := f m.se }

end Sys2Proof.Machine
end

