-- ==== Sys2Proof/Machine/Ops.lean ====
section
/-! DEFINITION. The named operations every family is built from: time, stored objects, event counters and the event
log. -/
namespace Sys2Proof.Machine

/-- A meaning from its effect: everything but the queue. -/
def lift (f : Mod → Mod) (s : State) : Host.Outcome State Fault Refusal := .next { s with mod := f s.mod }

/-- A meaning of what the firmware does: it pauses while a live activation runs (R577). -/
def liftFw (f : Mod → Mod) : State → Host.Outcome State Fault Refusal := lift fun m => if m.se.live.isSome then m else f m

/-! Time. -/

/-- The output of a queue can carry its class now (R280, R343): keys as `qKey` and `bridgeKey` number them. -/
def Mod.carries (m : Mod) (k : Nat) : Bool :=
  if 512 ≤ k then true
  else if k < 384 then
    let e := tget {} (k / 8) m.ed.ports
    e.dllUp && (decide (e.link = .l0) || decide (e.link = .l0p) || decide (e.link = .l1))
  else
    let s := tget {} (k / 8 - 48) m.lk.ports
    (decide (s.st = .active) || decide (s.st = .dormant)) && s.openTx.contains (k % 8)

/-- dt nanoseconds pass: the fabric time counter advances at its trimmed rate (R40, R319), and the age clock of every queue
that holds packets and can carry them (R343). -/
def Mod.advance (m : Mod) (dt : Nat) : Mod :=
  let age := m.sw.queues.foldl (fun t x => if m.carries x.1 then tset 0 x.1 (tget 0 x.1 t + dt) t else t) m.sw.age
  let t := ({ m with now := m.now + dt }).onSw fun b => { b with age := age }
  t.onTi fun b => { b with count := b.count + (Int.toNat ((dt * 65536 : Int) + (dt * 65536 : Int) * b.trim / 1000000000)) }

/-- Time passes to t, if t lies ahead. -/
def Mod.advanceTo (m : Mod) (t : Nat) : Mod := m.advance (t - m.now)

/-- Meridian time in nanoseconds (R316). -/
def Mod.meridian (m : Mod) : Nat := m.ti.count / 65536

def ms : Nat := 1000000
def sec : Nat := 1000000000

/-- A free value from the random source, and the state with the draw taken. -/
def Mod.random (m : Mod) : Nat := Config.random m.draws

/-- Firmware runs and serves the fabric: CONFIGURE to DRAIN (R105). -/
def Mode.pastBootMode : Mode → Bool
  | .configure | .operate | .capped | .drain => true
  | .off | .standby | .boot | .fault => false

/-! Stored objects. -/

/-- Active value of a stored object. -/
def Mod.objv (m : Mod) (oid : Nat) : Nat := tget (objDefault oid) oid m.di.obj

/-- Make v the active value of a stored object. -/
def Mod.setObj (m : Mod) (oid v : Nat) : Mod := m.onDi fun d => { d with obj := tset (objDefault oid) oid v d.obj }

/-- Store v in module flash as the value of a persistent object (R57). -/
def Mod.setFlash (m : Mod) (oid v : Nat) : Mod :=
  m.onDi fun d => { d with flash := tset (objDefault oid) oid v d.flash }

/-- A value the module itself sets in a persistent object: active and in flash. -/
def Mod.setPers (m : Mod) (oid v : Nat) : Mod := (m.setObj oid v).setFlash oid v

/-- Listed objects of an area with indices lo to hi and an element above 0: number among the run's elements of 128, and value. -/
def Mod.listedIn (m : Mod) (area lo hi : Nat) : List (Nat × Nat) :=
  (m.di.obj.filter fun x => decide (mkOid area lo 1 ≤ x.1) && decide (x.1 ≤ mkOid area hi 255) && decide (x.1 % 256 ≠ 0)).map fun x =>
    ((x.1 / 256 % 4096 - lo) * 128 + (x.1 % 256 - 1), x.2)

/-- Raise a count object by n, modulo its width. -/
def Mod.bump (m : Mod) (oid n : Nat) : Mod :=
  let w := match objFind oid with
    | some r => 256 ^ r.size
    | none => 2 ^ 64
  m.setObj oid ((m.objv oid + n) % w)

/-! Locations (R12, R15, R34). -/

def Loc.module : Loc := {}
def Loc.p13 : Loc := { pkg := 13, depth := 2 }
def Loc.p14 : Loc := { pkg := 14, depth := 2 }
def Loc.hub : Loc := { pkg := 0, die := 2, depth := 3 }
def Loc.ofDie (d : Nat) : Loc := { pkg := 0, die := d, depth := 3 }
def Loc.ofRegion (d q : Nat) : Loc := { pkg := 0, die := d, region := q, depth := 4 }

/-- Cluster k = 8d + 2q + c (R38). -/
def Loc.ofCluster (k : Nat) : Loc :=
  { pkg := 0, die := k / 8, region := k % 8 / 2, cluster := k % 2, depth := 5 }

/-- Edge port n (R34). -/
def Loc.edge (n : Nat) : Loc :=
  let p := n % 6
  { pkg := 0, die := n / 24, region := n % 24 / 6, cluster := if p < 4 then 0 else 1, unit := if p < 4 then p else p - 4,
    depth := 6 }

/-- Fabric port n (R34). -/
def Loc.fab (n : Nat) : Loc :=
  { pkg := 0, die := n / 8, region := n % 8 / 2, cluster := 1, unit := 2 + n % 2, depth := 6 }

/-- Port index of R60. -/
def Loc.port (p : Nat) : Loc := if p < 48 then Loc.edge p else Loc.fab (p - 48)

/-- Channel c of R404: 12d + 3q + g. -/
def Loc.channel (c : Nat) : Loc :=
  { pkg := 0, die := c / 12, region := c % 12 / 3, unit := c % 3, depth := 4, tag := 14 }

def Loc.ofUnit : UnitId → Loc
  | .edge p => Loc.edge p.val
  | .fabric p => Loc.fab p.val
  | .bank d b => { pkg := 0, die := d.val, region := b.val / 8, depth := 4, tag := 1 + b.val % 8 }
  | .slice d s =>
    if s.val = 16 then { pkg := 0, die := d.val, region := 0, depth := 4, tag := 13 }
    else { pkg := 0, die := d.val, region := s.val / 4, depth := 4, tag := 9 + s.val % 4 }
  | .tracker d t => { pkg := 0, die := d.val, region := t.val, depth := 4, tag := 15 }

/-- An event of the module itself, with AUX and DATA. -/
def evt (code : Nat) (loc : Loc := Loc.module) (aux : Nat := 0) (data : Nat := 0) : Ev :=
  { code := code, loc := loc, aux := aux % 2 ^ 24, data := data % 2 ^ 64 }

/-! Event counters (R582 to R585). -/

/-- Chain bit i of E.030 (R584). -/
def Mod.chained (m : Mod) (i : Nat) : Bool := bit (m.objv (mkOid 0xE 0x30 (1 + i / 64))) (i % 64)

/-- Counter c counts n events: 48 bits, wrapping, its wraps counted above when chained (R582, R584). -/
def Mod.count (m : Mod) (c n : Nat) : Mod :=
  if c % 2 = 1 ∧ m.chained (c / 2) = true then m
  else
    let v := tget 0 c m.cn.ctr + n
    let up := if c % 2 = 0 ∧ m.chained (c / 2) = true then v / 2 ^ 48 else 0
    m.onCn fun b =>
      let t := tset 0 c (v % 2 ^ 48) b.ctr
      { b with ctr := if up = 0 then t else tset 0 (c + 1) ((tget 0 (c + 1) t + up) % 2 ^ 48) t }

/-- Port event e of port index p (R583). -/
def Mod.portCtr (m : Mod) (p e n : Nat) : Mod := m.count (24 * p + e) n
/-- Die event e of die d (R583). -/
def Mod.dieCtr (m : Mod) (d e n : Nat) : Mod := m.count (1536 + 384 * d + e) n
/-- Channel event e of channel c (R583). -/
def Mod.chCtr (m : Mod) (c e n : Nat) : Mod := m.count (2304 + 16 * c + e) n
/-- Hub event e (R583). -/
def Mod.hubCtr (m : Mod) (e n : Nat) : Mod := m.count (2688 + e) n

/-! The event log (R600 to R604). -/

/-- Distance along the sequence from SEQ a forward to SEQ b, which skips 0 (R600). -/
def seqDist (a b : Nat) : Nat := (b + (2 ^ 32 - 1) - a % (2 ^ 32 - 1)) % (2 ^ 32 - 1)

/-- b lies ahead of a along the sequence (R600). -/
def seqAhead (a b : Nat) : Bool := decide (1 ≤ seqDist a b ∧ seqDist a b ≤ 2 ^ 31 - 1)

/-- SEQ after n: from 2^32 - 1 to 1 (R600). -/
def seqNext (n : Nat) : Nat := if n = 2 ^ 32 - 1 then 1 else n + 1

/-- Records the log serves: the ring, or the mirror while the ring cannot be read (R600). -/
def Mod.heldRecords (m : Mod) : List EventRec := if m.ev.ringReady then m.ev.ring else m.ev.mirror

/-- Alert threshold E.001.00 (R602). -/
def Mod.alertAt (m : Mod) : Nat := m.objv 0xE00100

/-- The record is an unacknowledged alert record (R602). -/
def Mod.unacked (m : Mod) (r : EventRec) : Bool :=
  decide (m.alertAt ≤ r.sev) && seqAhead m.ev.ackPoint r.seq

/-- Severity of an event code now (R601). -/
def Mod.severity (m : Mod) (code : Nat) : Nat :=
  m.objv (mkOid 0xE (0x200 + 2 * (code / 256) + code % 256 / 128) (1 + code % 128))

/-- The record an event becomes (R600). -/
def Mod.record (m : Mod) (e : Ev) : EventRec :=
  { time := m.meridian, code := e.code, sev := m.severity e.code, tlock := m.ti.locked, seq := m.ev.nextSeq,
    switch := m.rt.id, loc := e.loc, tenant := e.tenant, aux := e.aux, data := e.data }

/-- Write one record to the ring and the mirror; the record it pushes out, when that was an unacknowledged alert
record, sets LOSTALERT and is counted (R600, R603). -/
def Mod.logOne (m : Mod) (e : Ev) : Mod :=
  let r := m.record e
  let pushed := if m.ev.ringReady then m.ev.ring.drop 4095 else m.ev.mirror.drop 255
  let lost := pushed.filter m.unacked
  m.onEv fun b =>
    { b with
      ring := if b.ringReady then r :: b.ring.take 4095 else b.ring
      mirror := r :: b.mirror.take 255
      nextSeq := seqNext b.nextSeq
      lostAlert := b.lostAlert || !lost.isEmpty
      lost := b.lost + (if b.ringReady then lost.length else pushed.length) }

/-- The event with this code and key was last raised a second or more ago (R603 and others: at most once per second). -/
def Mod.secondPast (m : Mod) (key : Nat) : Bool :=
  let t := tget 0 key m.ev.lastAt
  t == 0 || decide (t - 1 + sec ≤ m.now)

def Mod.noteRaised (m : Mod) (key : Nat) : Mod := m.onEv fun b => { b with lastAt := tset 0 key (m.now + 1) b.lastAt }

/-- Signal MSI-X entry 0 of the management PF for a record of severity sev (R604). -/
def Mod.signalMsi (m : Mod) (sev : Nat) : Mod :=
  if m.objv 0xE00200 ≤ sev then
    let pf := tget {} 0 m.sv.fns
    if m.md.mrdy = false ∨ pf.msixOn = false ∨ (tget {} 0 pf.table).masked = true then
      m.onSv fun b => { b with fns := tmod {} 0 (fun s => { s with pending := addOnce 0 s.pending }) b.fns }
    else if m.ev.msiQuiet.any (fun t => m.now < t) then m.onEv fun b => { b with msiOwed := true }
    else (m.emit (.msi 0 0)).onEv fun b => { b with msiQuiet := some (m.now + m.objv 0xE00300 * 1000) }
  else m

/-- Raise an event: one record, the MSI it calls for, and EV-0E0A when an unacknowledged alert record was overwritten,
at most once per second (R600, R603, R604). -/
def Mod.raise (m : Mod) (e : Ev) : Mod :=
  let before := m.ev.lost
  let m1 := (m.logOne e).signalMsi (m.severity e.code)
  if before < m1.ev.lost ∧ m1.ev.lostAlert = true ∧ m1.secondPast 0x0E0A = true then
    ((m1.noteRaised 0x0E0A).logOne (evt 0x0E0A)).signalMsi (m.severity 0x0E0A)
  else m1

/-- Raise an event at most once per second for the given unit. -/
def Mod.raiseOnce (m : Mod) (e : Ev) (unit : Nat) : Mod :=
  let key := e.code + unit * 65536
  if m.secondPast key then (m.noteRaised key).raise e else m

/-- Level of ALERT_N, true when asserted; it is not driven in OFF (R102, R602). -/
def Mod.alert (m : Mod) : Bool :=
  decide (m.md.mode ≠ .off) && (m.heldRecords.any m.unacked || m.ev.lostAlert || m.pw.a.latched || m.pw.b.latched)

end Sys2Proof.Machine
end

