-- ==== Sys2Proof/Machine/StreamOps.lean ====
section
/-! DEFINITION. Operations shared by every data-path block: filtered counters (R586 to R588), MSI-X messages of functions
(R526, R527), host events (R514), posted-write errors (R501) and the completion of a stream's accesses (R482, R497). -/
namespace Sys2Proof.Machine

/-! Filtered counters. -/

/-- An operation as the filters of R586 see it. -/
structure FilterOp where
  source : Nat
  port : Option Nat := none
  tenant : Option Nat := none
  cls : Option Nat := none
  addr : Option Nat := none
  master : Option Nat := none
  priv : Nat := 0

/-- The operation passes every filter of a counter's control word (R586). -/
def passesFilter (ctl base size : Nat) (o : FilterOp) : Bool :=
  let kind := fld ctl 52 2
  let mine := fld ctl 44 8
  bit ctl 63 && decide (fld ctl 58 5 = o.source) &&
  (match kind with
    | 1 => decide (o.port = some mine)
    | 2 => decide (o.tenant = some mine)
    | 3 => decide (o.master = some mine)
    | _ => true) &&
  (match o.cls with
    | some c => bit ctl (36 + c)
    | none => true) &&
  (if bit ctl 35 then (match o.addr with
    | some a => decide (base ≤ a) && decide (a < base + size)
    | none => false) else true) &&
  (decide (o.source < 10) || bit ctl (54 + o.priv))

def fctrOid (k el : Nat) : Nat := mkOid 0xE (0x100 + k) el

/-- Every filtered counter that the operation passes rises by n; one that passes 2^64 - 1 with SAMPLE set restarts from
its reload value and owes a record (R588). -/
def Mod.tally (m : Mod) (o : FilterOp) (n : Nat) : Mod :=
  m.each (List.range 64) fun k m =>
    let ctl := m.objv (fctrOid k 2)
    if passesFilter ctl (m.objv (fctrOid k 3)) (m.objv (fctrOid k 4)) o then
      let v := m.objv (fctrOid k 1) + n
      if v < 2 ^ 64 then m.setObj (fctrOid k 1) v
      else if bit ctl 34 then
        (m.setObj (fctrOid k 1) ((m.objv (fctrOid k 5) + (v - 2 ^ 64)) % 2 ^ 64)).onCn fun b => { b with arms := b.arms ++ [k] }
      else m.setObj (fctrOid k 1) (v % 2 ^ 64)
    else m

/-! MSI-X messages. -/

def Mod.fnSt (m : Mod) (f : Nat) : FnSt := tget {} f m.sv.fns
def Mod.onFn_ (m : Mod) (f : Nat) (g : FnSt → FnSt) : Mod := m.onSv fun b => { b with fns := tmod {} f g b.fns }

def vfFn (n : Nat) : Nat := 1 + n
def hostFn (v : Nat) : Nat := 512 + v
/-- Object of a VF slot's record B.2nn. -/
def vfOid (n el : Nat) : Nat := mkOid 0xB (0x200 + n) el

/-- Entries of a function's table that pool vectors back (R526). -/
def Mod.backed (m : Mod) (f : Nat) : Nat :=
  if f = 0 then 64 else if f < 512 then m.objv (vfOid (f - 1) 3) else m.objv (mkOid 0xB (0x100 + (f - 512)) 2)

/-- Entries of a function's MSI-X table (R514, R526). -/
def Mod.msixSize (m : Mod) (f : Nat) : Nat := if f = 0 then 64 else if f < 512 then m.objv (vfOid (f - 1) 4) else 4

/-- Send a function's MSI-X message; an unbacked, masked or disabled entry sets its pending bit (R527). -/
def Mod.msi (m : Mod) (f entry : Nat) : Mod :=
  let s := m.fnSt f
  let pend := m.onFn_ f fun s => { s with pending := addOnce entry s.pending }
  if m.backed f ≤ entry then
    if 1 ≤ f ∧ f < 512 then
      (pend.bump (vfOid (f - 1) 0xA) 1).raiseOnce (evt 0x0B05 Loc.module (f - 1) entry) (f - 1)
    else pend
  else if s.msixOn = false ∨ (tget {} entry s.table).masked = true then pend
  else m.emit (.msi f entry)

/-- Deliver the pending messages of a function that may go now (R527); entry 0 of the management PF only while MRDY is high, and by its
coalescing time (R604). -/
def Mod.msiRelease (m : Mod) (f : Nat) : Mod :=
  let go := (m.fnSt f).pending.filter fun e =>
    (m.fnSt f).msixOn && decide (e < m.backed f) && !(tget {} e (m.fnSt f).table).masked && (m.md.mrdy || decide (f ≠ 0) || decide (e ≠ 0))
  (m.onFn_ f fun s => { s with pending := s.pending.filter fun e => e ∉ go }).each go fun e m =>
    if f = 0 ∧ e = 0 then
      if m.ev.msiQuiet.any (fun t => m.now < t) then m.onEv fun b => { b with msiOwed := true }
      else (m.emit (.msi 0 0)).onEv fun b => { b with msiQuiet := some (m.now + m.objv 0xE00300 * 1000) }
    else m.emit (.msi f e)

/-- The level of MRDY changes; a rise delivers what entry 0 of the management PF has pending (R99, R604). -/
def Mod.setMrdy (m : Mod) (v : Bool) : Mod :=
  let m1 := m.onMd fun b => { b with mrdy := v }
  if v then m1.msiRelease 0 else m1

/-- A bit of a host PF's EVT_CAUSE is set; its event vector fires when the register was 0 (R514). -/
def Mod.hostEvent (m : Mod) (v b : Nat) : Mod :=
  let old := (m.fnSt (hostFn v)).cause
  let m1 := m.onFn_ (hostFn v) fun s => { s with cause := if bit old b then old else old + 2 ^ b }
  if old = 0 then m1.msi (hostFn v) 0 else m1

/-- VCS whose upstream port is p. -/
def Mod.vcsOfPort (m : Mod) (p : Nat) : Option Nat := (List.range 48).find? fun v => m.objv (mkOid 4 (0x100 + v) 1) = p

/-- A posted write completes with error (R501): the log of the stream's VCS, the host's event vector, EV-0710, the count
of the ingress port. -/
def Mod.postedError (m : Mod) (vcs : Option Nat) (port tenant addr code : Nat) : Mod :=
  let word := addr % 2 ^ 64 * 2 ^ 64 + pack [(port, 40, 8), (tenant, 32, 8), (code, 24, 8), (m.meridian / 2 ^ 30, 0, 24)]
  let m1 := match vcs with
    | some v =>
      let k := tget 0 v m.sv.pwe
      ((m.setObj (mkOid 7 (0x500 + v) (1 + k % 16)) word).onSv fun b => { b with pwe := tset 0 v ((k + 1) % 16) b.pwe }).hostEvent v 1
    | none => m
  (m1.raise { evt 0x0710 (Loc.port port) code addr with tenant := some tenant }).bump (mkOid 7 (0x400 + port) 5) 1

/-! Accesses of streams. -/

/-- The stream of an edge port and tenant, and of a queue pair (R481). -/
def portStream (p t : Nat) : Nat := 256 * p + t
def qpStream (q : Nat) : Nat := 65536 + q

/-- The owner record of a queue pair (R538), its VF slot, and that slot's VCS, tenant and upstream port (R517). -/
def qpOwnerOid (q : Nat) : Nat := mkOid 0xB (0x400 + q / 128) (1 + q % 128)
def Mod.qpSlot (m : Mod) (q : Nat) : Nat := fld (m.objv (qpOwnerOid q)) 6 8
def Mod.vfVcs (m : Mod) (n : Nat) : Nat := fld (m.objv (vfOid n 1)) 24 6
def Mod.vfTenant (m : Mod) (n : Nat) : Nat := fld (m.objv (vfOid n 1)) 0 8
def Mod.qpPort (m : Mod) (q : Nat) : Nat := m.objv (mkOid 4 (0x100 + m.vfVcs (m.qpSlot q)) 1)

/-- A carried access is complete at its end point, or complete with error: it leaves the stream's list, and the barriers that
cover it take note (R482, R497). -/
def Mod.liveDone (m : Mod) (id : Nat) (err : Bool) : Mod :=
  match m.br.live.find? fun r => r.id = id with
  | none => m
  | some r =>
    m.onBr fun b =>
      { b with
        live := b.live.filter fun x => x.id ≠ id
        barriers := b.barriers.map fun x =>
          if id ∈ x.covered then
            { x with covered := without id x.covered, errors := if err then min 65535 (x.errors + 1) else x.errors,
                     addr := if err && x.errors == 0 then r.addr else x.addr }
          else x }

/-- Name a new access: its number. -/
def Mod.newAccess (m : Mod) : Mod × Nat := (m.onBr fun b => { b with nextId := b.nextId + 1 }, m.br.nextId)

end Sys2Proof.Machine
end

