-- ==== Sys2Proof/Machine/SwitchOps.lean ====
section
/-! DEFINITION. Operations of the switch core: queues, cells, accounts, packets waiting, the tracker (R325 to R352,
R631). -/
namespace Sys2Proof.Machine

/-- Die of a port index (R34). -/
def dieOfPort (p : Nat) : Nat := if p < 48 then p / 24 else (p - 48) / 8
/-- Region of a port index within its die (R34). -/
def regionOfPort (p : Nat) : Nat := if p < 48 then p % 24 / 6 else (p - 48) % 8 / 2
/-- Cluster k of a port index (R34, R38). -/
def clusterOfPort (p : Nat) : Nat :=
  8 * dieOfPort p + 2 * regionOfPort p + (if p < 48 then (if p % 6 < 4 then 0 else 1) else 1)

/-- Queue key of an egress port and class, and of a bridge queue toward the other die (R328). -/
def qKey (p c : Nat) : Nat := 8 * p + c
def bridgeKey (d c : Nat) : Nat := 512 + 8 * d + c
/-- Die of a queue. -/
def dieOfQueue (k : Nat) : Nat := if k < 512 then dieOfPort (k / 8) else (k - 512) / 8

def Mod.queue (m : Mod) (k : Nat) : List QEnt := tget [] k m.sw.queues

def Mod.setQueue (m : Mod) (k : Nat) (l : List QEnt) : Mod := m.onSw fun b => { b with queues := tset [] k l b.queues }

/-- Length of a queue in cells (R333). -/
def Mod.qLen (m : Mod) (k : Nat) : Nat := ((m.queue k).map (·.cells)).sum

/-- Reserved minimum M(c) of a queue of class c (R330). -/
def Mod.qMin (m : Mod) (c : Nat) : Nat := m.objv (mkOid 7 (0x20 + c) 3)

/-- Cells of a packet (R326). -/
def pktCells (p : Pkt) : Nat := cdiv (16 + 32 * p.len) 256

/-- Stored bytes of a packet (R590). -/
def pktBytes (p : Pkt) : Nat := 16 + 32 * p.len

/-- Cells usable on die d: banks neither fenced nor withdrawn (R331). -/
def Mod.bankUsable (m : Mod) (d b : Nat) : Bool :=
  !(tget {} (4 * d + b / 8) m.fn.regions).withdrawn &&
  !(m.fn.fenced ++ m.fn.leaving).any fun u => match u with
    | .bank d' b' => d'.val == d && b'.val == b
    | _ => false

def Mod.cellsUsable (m : Mod) (d : Nat) : Nat := 6144 * ((List.range 32).filter (m.bankUsable d)).length

/-- Ingress reservation of port index p and class c, or of the port for an edge port (R329). -/
def Mod.fabricResv (m : Mod) (p c : Nat) : Nat :=
  let a := m.objv (mkOid 5 (0x100 + (p - 48)) (1 + c))
  a / 65536 + a % 65536 / 8

def Mod.portResv (m : Mod) (p : Nat) : Nat :=
  if p < 48 then m.objv (mkOid 7 (0x100 + p) 2) else ((List.range 8).map (m.fabricResv p)).sum

/-- Port indices of die d in regions that are not gated (R331). -/
def Mod.livePorts (m : Mod) (d : Nat) : List Nat :=
  (List.range 64).filter fun p => dieOfPort p == d && !(tget {} (4 * d + regionOfPort p) m.fn.regions).gated

/-- The shared pool S of die d (R331). -/
def Mod.poolS (m : Mod) (d : Nat) : Nat :=
  m.cellsUsable d - ((m.livePorts d).map m.portResv).sum - 8 * 256
    - ((List.range 8).map fun c => ((m.livePorts d).length + 1) * m.qMin c).sum

def Mod.sharedUsed (m : Mod) (d : Nat) : Nat := tget 0 d m.sw.shared

/-- Cells of die d now allocated. -/
def Mod.cellsInUse (m : Mod) (d : Nat) : Nat := ((List.range 32).map fun b => tget 0 (32 * d + b) m.sw.bankUse).sum

/-- A bank with room, the lowest-numbered: no write is pending between commands, so every bank ties (R325). -/
def Mod.pickBank (m : Mod) (d : Nat) : Option Nat :=
  (List.range 32).find? fun b => m.bankUsable d b && decide (tget 0 (32 * d + b) m.sw.bankUse < 6144)

/-- Allocate n cells on die d: the banks they lie in. -/
def Mod.allocCells (m : Mod) (d : Nat) : Nat → Mod × List Nat
  | 0 => (m, [])
  | n + 1 =>
    match m.pickBank d with
    | none => (m, [])
    | some b =>
      let m1 := (m.onSw fun s => { s with bankUse := tset 0 (32 * d + b) (tget 0 (32 * d + b) s.bankUse + 1) s.bankUse }).dieCtr d (4 * b) 1
      let (m2, l) := m1.allocCells d n
      (m2, b :: l)

/-- Release the cells of a packet on die d; a bank being fenced is fenced at its last cell (R20). -/
def Mod.freeCells (m : Mod) (d : Nat) (banks : List Nat) : Mod :=
  m.each banks fun b m =>
    let m1 := m.onSw fun s => { s with bankUse := tset 0 (32 * d + b) (tget 0 (32 * d + b) s.bankUse - 1) s.bankUse }
    if tget 0 (32 * d + b) m1.sw.bankUse = 0 then
      m1.onFn fun f =>
        let mine := fun (u : UnitId) => match u with
          | .bank d' b' => d'.val == d && b'.val == b
          | _ => false
        { f with fenced := f.fenced ++ f.leaving.filter mine, leaving := f.leaving.filter fun u => !mine u }
    else m1

/-- Shared cells of die d rise by n, with the high-water mark (R333). -/
def Mod.addShared (m : Mod) (d n : Nat) : Mod :=
  m.onSw fun s =>
    let v := tget 0 d s.shared + n
    { s with shared := tset 0 d v s.shared, sharedHigh := tset 0 d (max v (tget 0 d s.sharedHigh)) s.sharedHigh }

def Mod.subShared (m : Mod) (d n : Nat) : Mod :=
  m.onSw fun s => { s with shared := tset 0 d (tget 0 d s.shared - n) s.shared }

/-- A packet the module originates waits in its block for admission, or is delivered when the module is its own
destination (R631). -/
def Mod.originate (m : Mod) (blk : Block) (die : Nat) (pkt : Pkt) (target : Option Nat := none) (tenant : Nat := 0) : Mod :=
  let id := m.sw.nextId
  let m1 := m.onSw fun s => { s with nextId := s.nextId + 1 }
  if pkt.dest = m.rt.id ∧ target = none then
    m1.onSw fun s => { s with inbox := s.inbox ++ [{ id := id, port := none, pkt := pkt }] }
  else
    m1.onSw fun s =>
      let h : Held := { id := id, blk := blk, die := die, pkt := pkt, target := target, tenant := tenant, got := 4 * pkt.len }
      { s with waiting := s.waiting ++ [h] }

/-- A multicast packet the module originates: stored once, one reference for each DEST (R341). -/
def Mod.originateMulti (m : Mod) (blk : Block) (die : Nat) (pkt : Pkt) (dests : List Nat) : Mod :=
  if dests = [] then m
  else
    m.onSw fun s =>
      let h : Held := { id := s.nextId, blk := blk, die := die, pkt := pkt, refs := dests, got := 4 * pkt.len }
      { s with nextId := s.nextId + 1, waiting := s.waiting ++ [h] }

/-- Count an object of a die record of area 7: 7.0d0 (R360). -/
def Mod.dieObj (m : Mod) (d el n : Nat) : Mod := m.bump (mkOid 7 (0x10 + d) el) n
/-- Count an object of a port record of area 7: 7.1pp (R360). -/
def Mod.portObj (m : Mod) (p el n : Nat) : Mod := m.bump (mkOid 7 (0x100 + p) el) n

/-! The tracker (R346 to R352). -/

def Mod.trk (m : Mod) (k : Nat) : Trk := tget {} k m.sw.trk

def Mod.setTrk (m : Mod) (k : Nat) (t : Trk) : Mod := m.onSw fun s => { s with trk := tset {} k t s.trk }

/-- Entries held, by port (R346). -/
def Mod.trkOfPort (m : Mod) (p : Nat) : Nat := (m.sw.trk.filter fun x => decide (x.2.kind ≠ 0) && decide (x.2.port = some p)).length

def Mod.trkInUse (m : Mod) (d : Nat) : Nat :=
  (m.sw.trk.filter fun x => decide (x.2.kind ≠ 0) && decide (x.1 / 65536 = d)).length

def Mod.trkInSlice (m : Mod) (d q : Nat) : Nat :=
  (m.sw.trk.filter fun x => decide (x.2.kind ≠ 0) && decide (x.1 / 16384 = 4 * d + q)).length

/-- The tracker slice q of die d takes new entries: not fenced, its region neither gated nor being gated (R20, R26). -/
def Mod.sliceOpen (m : Mod) (d q : Nat) : Bool :=
  let r := tget {} (4 * d + q) m.fn.regions
  !r.gated && !r.withdrawn && !(m.fn.fenced.any fun u => match u with
    | .tracker d' t => d'.val == d && t.val == q
    | _ => false)

/-- The lowest free index of slice q of die d: the n-th candidate is tried after the ones before it. -/
def Mod.freeIndex (m : Mod) (d q : Nat) : Option Nat :=
  if m.trkInSlice d q < 16384 then
    let base := 65536 * d + 16384 * q
    let used := (m.sw.trk.filter fun x => decide (x.2.kind ≠ 0) && decide (x.1 / 16384 = 4 * d + q)).map (·.1)
    (List.range (used.length + 1)).findSome? fun i => if (base + i) ∈ used then none else some (base + i)
  else none

/-- Allocate an entry for a port's request, in its own region's slice first (R346), or from slices 0 to 3 of a die. -/
def Mod.allocTrk (m : Mod) (port : Option Nat) (die : Nat) (t : Trk) : Option (Mod × Nat) :=
  let q0 := match port with
    | some p => regionOfPort p
    | none => 0
  let d := match port with
    | some p => dieOfPort p
    | none => die
  let capped := match port with
    | some p => decide (m.objv (mkOid 7 (0x100 + p) 3) ≤ m.trkOfPort p)
    | none => false
  if capped then none
  else
    match ([q0, (q0 + 1) % 4, (q0 + 2) % 4, (q0 + 3) % 4].filter (m.sliceOpen d)).findSome? (m.freeIndex d) with
    | none => none
    | some k =>
      let g := (m.trk k).gen
      let m1 := (m.setTrk k { t with gen := g, port := port, order := m.sw.trkOrder }).onSw fun s =>
        { s with trkOrder := s.trkOrder + 1 }
      let m2 := m1.onSw fun s => { s with trkHigh := tset 0 d (max (m1.trkInUse d) (tget 0 d s.trkHigh)) s.trkHigh }
      let m3 := m2.dieCtr d (264 + 8 * (k % 65536 / 16384)) 1
      some (match port with
        | some p => m3.portCtr p 9 1
        | none => m3, k)

/-- The transaction ID of an entry (R348). -/
def Mod.tid (m : Mod) (k : Nat) : Nat := (m.trk k).gen * 2 ^ 17 + k % 2 ^ 17

/-- The entry a transaction ID names, if it is live or orphaned with that generation (R348). -/
def Mod.trkOfTid (m : Mod) (tid : Nat) : Option Nat :=
  let k := tid % 2 ^ 17
  if (m.trk k).kind ≠ 0 ∧ (m.trk k).gen = tid / 2 ^ 17 % 128 then some k else none

/-- Release an entry that completed: GEN rises by 1 modulo 128 at every release (R352). -/
def Mod.freeTrk (m : Mod) (k : Nat) : Mod :=
  (m.setTrk k { gen := ((m.trk k).gen + 1) % 128 }).dieCtr (k / 65536) (264 + 8 * (k % 65536 / 16384) + 1) 1

/-- Release an orphan: GEN rises by 1 modulo 128 (R352). -/
def Mod.releaseOrphan (m : Mod) (k : Nat) : Mod :=
  (m.setTrk k { gen := ((m.trk k).gen + 1) % 128 })

/-- Orphans of a die (7.0d0.07). -/
def Mod.orphans (m : Mod) (d : Nat) : Nat := (m.sw.trk.filter fun x => x.2.orphan && decide (x.1 / 65536 = d)).length

/-- Stop tracking: the allocation stalls, counted, with EV-070A at most once per second (R346). -/
def Mod.trkStall (m : Mod) (p : Nat) : Mod :=
  ((m.portCtr p 10 1).dieCtr (dieOfPort p) (264 + 8 * regionOfPort p + 7) 1).raiseOnce (evt 0x070A (Loc.ofDie (dieOfPort p))) (dieOfPort p)

end Sys2Proof.Machine
end

