-- ==== Sys2Proof/Machine/Msg.lean ====
section
/-! DEFINITION. Message formats: packet headers as words (R257), coherence messages (R431 to R434), bridge messages
(R493, R494), and the error answers a packet receives (R281, R308, R344). -/
namespace Sys2Proof.Machine

/-- First header word of a packet: bits 127 to 64 (R257). -/
def hdrWord (p : Pkt) : Nat :=
  pack [(p.fmt, 60, 4), (p.tc, 57, 3), (b2n p.poison, 56, 1), (p.len, 51, 5), (p.dest, 36, 12), (p.src, 24, 12), (p.hops, 20, 4)]

/-- A packet header from its two words. -/
def pktOf (w body : Nat) : Pkt :=
  { fmt := fld w 60 4, tc := fld w 57 3, poison := bit w 56, len := fld w 51 5, dest := fld w 36 12, src := fld w 24 12,
    hops := fld w 20 4, body := body }

/-- All words of a packet: header, BODY, data. -/
def pktWords (p : Pkt) : List Nat := hdrWord p :: p.body % 2 ^ 64 :: (List.range (4 * p.len)).map fun i => p.data.getD i 0

/-- A line of pooled memory: home switch ID, descriptor index, byte offset of its 64-byte line, as one key. -/
def lineKey (home desc off : Nat) : Nat := home * 2 ^ 64 + desc % 65536 * 2 ^ 48 + off % 2 ^ 48 / 64 * 64
def lineHome (l : Nat) : Nat := l / 2 ^ 64
def lineDesc (l : Nat) : Nat := l / 2 ^ 48 % 65536
def lineOff (l : Nat) : Nat := l % 2 ^ 48

/-- TC0 messages (R432). -/
inductive Tc0 where
  | rdShared | rdOwn | upgrade | wbDirty | evictExcl | flushOwned
  deriving DecidableEq, Repr

def tc0Code : Tc0 → Nat
  | .rdShared => 0 | .rdOwn => 1 | .upgrade => 2 | .wbDirty => 3 | .evictExcl => 4 | .flushOwned => 5

/-- The kind of a message as the counters A.040 and A.041 number it: R431's rows in order, 1 to 15. -/
inductive MsgKind where
  | rdShared | rdOwn | upgrade | wbDirty | evictExcl | flushOwned | fwdShared | fwdOwn | inv | data | dataOwned | ack | ackErr
  | invAck | cmp
  deriving DecidableEq, Repr

def msgNo : MsgKind → Nat
  | .rdShared => 1 | .rdOwn => 2 | .upgrade => 3 | .wbDirty => 4 | .evictExcl => 5 | .flushOwned => 6 | .fwdShared => 7
  | .fwdOwn => 8 | .inv => 9 | .data => 10 | .dataOwned => 11 | .ack => 12 | .ackErr => 13 | .invAck => 14 | .cmp => 15

/-- A 64-byte line as the data words of a packet, and back: the first byte of the line is the most significant of the
first word. -/
def lineWords (v : Nat) : List Nat := (List.range 8).map fun i => v / 2 ^ (64 * (7 - i)) % 2 ^ 64
def wordsLine (l : List Nat) : Nat := l.foldl (fun a w => a * 2 ^ 64 + w % 2 ^ 64) 0

/-- DESC and OFFSET of a line in a BODY (R432 to R434). -/
def bodyLine (line : Nat) : Nat := pack [(lineDesc line, 34, 16), (lineOff line / 64, 6, 28)]

/-- A TC0 packet (R432). -/
def tc0Pkt (self : Nat) (op : Tc0) (line : Nat) (pref keep : Bool) (data : Nat) (poison : Bool) : Pkt :=
  let withData := op = .wbDirty ∨ op = .flushOwned
  { tc := 0, len := if withData then 2 else 0, poison := if withData then poison else false, dest := lineHome line, src := self,
    body := pack [(tc0Code op, 61, 3), (b2n pref, 60, 1), (b2n keep, 59, 1)] + bodyLine line,
    data := if withData then lineWords data else [] }

/-- A TC1 packet: op 0 FwdShared, 1 FwdOwn, 2 Inv (R433). -/
def tc1Pkt (home dest op req line acks : Nat) : Pkt :=
  { tc := 1, dest := dest, src := home, body := pack [(op, 62, 2), (req, 50, 12), (acks, 0, 6)] + bodyLine line }

/-- A TC2 packet: op 0 Data, 1 DataOwned, 2 Ack, 3 short form (R434). -/
def tc2Pkt (self dest op line low data : Nat) (poison : Bool) : Pkt :=
  { tc := 2, len := if op ≤ 1 then 2 else 0, poison := if op ≤ 1 then poison else false, dest := dest, src := self,
    body := pack [(op, 62, 2), (lineHome line, 50, 12), (low, 0, 6)] + bodyLine line,
    data := if op ≤ 1 then lineWords data else [] }

/-- The Ack in the error form with a CODE of R449. -/
def ackErrPkt (self dest line code : Nat) : Pkt := tc2Pkt self dest 3 line (2 * 16 + code) 0 false

/-- The line a coherence message names: its home is DEST on TC0, SRC on TC1, the HOME field on TC2. -/
def pktLine (p : Pkt) : Nat :=
  let home := if p.tc = 0 then p.dest else if p.tc = 1 then p.src else fld p.body 50 12
  lineKey home (fld p.body 34 16) (fld p.body 6 28 * 64)

/-- A packet for an edge port of this module waits for that port's queue (R328). -/
def Mod.toEdge (m : Mod) (blk : Block) (port : Nat) (pkt : Pkt) (tenant : Nat) (secure : Bool := false) : Mod :=
  m.onSw fun s =>
    { s with nextId := s.nextId + 1,
             waiting := s.waiting ++ [{ id := s.nextId, blk := blk, die := dieOfPort port, pkt := pkt, target := some port,
                                        tenant := tenant, got := 4 * pkt.len, secure := secure }] }

/-- The answer to a host's or device's CXL.mem request, toward its port on TC2: tag, answer code, data. -/
def Mod.answerHost (m : Mod) (port tag code : Nat) (poison : Bool) (data tenant : Nat) : Mod :=
  m.toEdge .cache port { tc := 2, len := 2, poison := poison, dest := m.rt.id, src := m.rt.id,
                         body := pack [(code, 56, 4), (tag, 0, 16)], data := lineWords data } tenant

/-- A back-invalidate snoop toward a host on TC1 (R328). -/
def Mod.sendSnoop (m : Mod) (port line : Nat) (k : SnpKind) : Mod :=
  m.toEdge .snoop port { tc := 1, dest := m.rt.id, src := lineHome line,
                         body := pack [(match k with | .data => 0 | .inv => 2, 62, 2)] + bodyLine line } 0

/-- What leaves an edge port with a packet: a snoop, an answer, or the message a packet carries. -/
def edgeOut (port : Nat) (h : Held) (p : Pkt) : Out :=
  match h.blk with
  | .snoop => .snoop port (pktLine p) (if fld p.body 62 2 = 0 then .data else .inv)
  | .cache => .answer port (fld p.body 0 16) (fld p.body 56 4) p.poison (wordsLine p.data)
  | _ => .edge port p

/-- A bridge packet's BODY (R493). -/
def bridgeBody (flow op tid tenant code : Nat) : Nat :=
  pack [(flow, 52, 12), (op, 48, 4), (tid, 24, 24), (tenant, 16, 8), (code, 8, 8)]

/-- A header unit as four words (R494): ADDR64, length, MTYPE and POISON, destination edge port, the 20 bytes of the
message header. -/
def headerUnit (addr len : Nat) (device poison : Bool) (port hdr : Nat) : List Nat :=
  [addr % 2 ^ 64, pack [(len, 48, 16), (b2n device, 47, 1), (b2n poison, 46, 1), (port, 32, 8), (hdr / 2 ^ 128, 0, 32)],
    hdr / 2 ^ 64 % 2 ^ 64, hdr % 2 ^ 64]

/-- The flow label of BODY[63:52]: source edge port and destination edge port, 63 the module itself (R306). -/
def flowLabel (srcPort dstPort : Nat) : Nat := srcPort % 64 * 64 + dstPort % 64

/-- Kinds of a CXL.io or CXL.mem message, the first byte of its header in flit-mode form (PRESUMED, PCI Express): 0x02 I/O read, 0x42 I/O
write, 0x04 and 0x44 configuration, 0x20 and 0x60 memory, 0x21 locked read, 0x30 and 0x70 messages, 0x33 an Unlock message, 0x6C to 0x6E atomics,
0x0A and 0x4A completions; 0x80 and 0xC0 CXL.mem read and write. -/
def tlpKind (hdr : Nat) : Nat := fld hdr 152 8
def withKind (hdr k : Nat) : Nat := setFld (hdr % 2 ^ 160) 152 8 k
/-- The kind of the message whose header unit begins at word i of a packet's data. -/
def unitKind (p : Pkt) (i : Nat) : Nat := fld (p.data.getD (i + 1) 0) 24 8
/-- Length in bytes that the header unit at word i gives. -/
def unitLen (p : Pkt) (i : Nat) : Nat := fld (p.data.getD (i + 1) 0) 48 16
def isMessage (k : Nat) : Bool := decide (k = 0x30) || decide (k = 0x33) || decide (k = 0x70)
/-- Reads: the data they ask for comes back (R367). -/
def isRead (k : Nat) : Bool := decide (k = 0x20) || decide (k = 0x21) || decide (k = 0x02) || decide (k = 0x04) || decide (k = 0x80)

/-- A tunnelled flit that begins a message: its first word is the message's BODY with 1 in its low byte (the layout of flits is the
model's, R311). -/
def flitStarts (p : Pkt) : Bool := decide (p.fmt = 2) && decide (p.data.getD 0 0 % 256 = 1)
/-- BODY of the message a packet carries, and its header unit and data. -/
def msgBody (p : Pkt) : Nat := if p.fmt = 2 then p.data.getD 0 0 else p.body
def msgWords (p : Pkt) : List Nat := if p.fmt = 2 then p.data.drop 1 else p.data

/-- A BERR for a request packet with a CODE of R500: on TC6 for TC4 and TC5, on TC2 for TC3 (R492); for a tunnelled flit, one for the
message that begins in it (R495). -/
def berrPkt (self : Nat) (req : Pkt) (code : Nat) : Option Pkt :=
  let body := if req.fmt = 2 then req.data.getD 0 0 else req.body
  let unit_ := if req.fmt = 2 then (req.data.drop 1).take 4 else req.data.take 4
  let f := fld body 52 12
  if req.fmt = 2 ∧ flitStarts req = false then none
  else some { tc := if req.tc = 3 then 2 else 6, len := 1, dest := req.src, src := self,
              body := bridgeBody (f % 64 * 64 + f / 64) 3 (fld body 24 24) (fld body 16 8) code, data := unit_ }

/-! Data (byte 0 of a number's bytes the lowest address), and completions. -/

/-- n data bytes as packet words, the lowest address first, whole units of 32 bytes. -/
def dataWords (n data : Nat) : List Nat :=
  (List.range (4 * cdiv n 32)).map fun j => ofBytes ((List.range 8).map fun i => if 8 * j + i < n then data / 256 ^ (8 * j + i) % 256 else 0)
/-- Data of n bytes from packet words. -/
def wordsData (n : Nat) (ws : List Nat) : Nat :=
  ofBytesLE ((List.range n).map fun i => ws.getD (i / 8) 0 / 256 ^ (7 - i % 8) % 256)

/-- Completion status of an error code (R500): 1 Unsupported Request, 4 Completer Abort. -/
def errStatus (code : Nat) : Nat := if code = 5 ∨ code = 6 then 1 else 4

/-- A completion for a request of an edge port, toward that port on TC6: CODE 0, or the error of R500 as its status; its tag in the TID field. -/
def Mod.completeTo (m : Mod) (port tag tenant code : Nat) (poison : Bool) (words : List Nat) : Mod :=
  let ws := if words = [] then headerUnit 0 0 false poison port (withKind (if code = 0 then 0 else errStatus code) 0x0A) else words
  m.toEdge .bridge port { tc := 6, len := cdiv ws.length 4, poison := poison, dest := m.rt.id, src := m.rt.id,
                          body := bridgeBody (flowLabel 63 port) 1 tag tenant code, data := ws ++ List.replicate (4 * cdiv ws.length 4 - ws.length) 0 } tenant

/-- The originating block's die for a packet: FD0 for the hub's own, else the die of a port (R631). -/
def Mod.answerPkt (m : Mod) (die : Nat) (pkt : Pkt) : Mod := m.originate .error die pkt

/-- The error answer of a request packet that goes no further: the error form on TC0, BERR on TC3 to TC5 (R449, R500);
nothing for other classes. `coh` is the CODE of R449, `io` that of R500. -/
def Mod.errorAnswer (m : Mod) (die : Nat) (p : Pkt) (coh io : Nat) : Mod :=
  if p.tc = 0 then m.answerPkt die (ackErrPkt m.rt.id p.src (pktLine p) coh)
  else if p.tc = 3 ∨ p.tc = 4 ∨ p.tc = 5 then
    match berrPkt m.rt.id p io with
    | some b => m.answerPkt die b
    | none => m
  else m

end Sys2Proof.Machine
end

