-- ==== Sys2Proof/Machine/LinkOps.lean ====
section
/-! DEFINITION. Operations of the Axsen links and of the lanes under them: entering and leaving link states, credits,
replay, sending and receiving words (R249 to R286, R195 to R201). -/
namespace Sys2Proof.Machine

def Mod.link (m : Mod) (n : Nat) : LinkSt := tget {} n m.lk.ports

def Mod.onLink (m : Mod) (n : Nat) (f : LinkSt → LinkSt) : Mod := m.onLk fun b => { b with ports := tmod {} n f b.ports }

def Mod.lane (m : Mod) (l : Nat) : LaneSt := tget {} l m.ph.lanes

def Mod.onLane (m : Mod) (l : Nat) (f : LaneSt → LaneSt) : Mod := m.onPh fun b => { b with lanes := tmod {} l f b.lanes }

def Mod.cluster (m : Mod) (k : Nat) : ClusterSt := tget {} k m.ph.clusters

def Mod.onCluster (m : Mod) (k : Nat) (f : ClusterSt → ClusterSt) : Mod :=
  m.onPh fun b => { b with clusters := tmod {} k f b.clusters }

def Mod.searchOf (m : Mod) (n : Nat) : SearchSt := tget {} n m.ph.search

def Mod.onSearch (m : Mod) (n : Nat) (f : SearchSt → SearchSt) : Mod :=
  m.onPh fun b => { b with search := tmod {} n f b.search }

/-- The four lanes of a port index: both edge and fabric ports own lanes 4p to 4p + 3 (R10, R60). -/
def lanesOf (p : Nat) : List Nat := [4 * p, 4 * p + 1, 4 * p + 2, 4 * p + 3]

/-- Change every lane of a port index. -/
def Mod.onLanes (m : Mod) (p : Nat) (f : LaneSt → LaneSt) : Mod := m.each (lanesOf p) fun l m => m.onLane l f

/-- Symbol rate of a lane in tenths of a GBd (R179). -/
def symbolRate (r : Nat) : Nat :=
  match r with
  | 1 => 25
  | 2 => 50
  | 3 => 80
  | 4 => 160
  | 7 => 640
  | _ => 320

/-- A margin run on lane l ends with ABORT set; the counts so far are kept: the symbols of its time, and a number of errors that is a free value
(R213, log 217). -/
def LaneSt.abortMargin (l now : Nat) (s : LaneSt) : LaneSt :=
  if (fld s.test 29 3 = 5 ∨ fld s.test 29 3 = 6) ∧ s.done = false then
    let n := min (symbolRate s.rate * (now - s.runStart) / 10) (2 ^ 32)
    { s with abort := true, test := setFld s.test 29 3 0, symbols := n, errors := Config.openValue 43 (256 * now + l) % (n + 1) }
  else s

/-- Lanes leave L0 or ACTIVE: a margin run on one of them ends. -/
def Mod.endMargins (m : Mod) (ls : List Nat) : Mod := m.each ls fun l m => m.onLane l (LaneSt.abortMargin l m.now)

/-- Lane test modes 1 to 4 are in force (R211). -/
def LaneSt.testing (s : LaneSt) : Bool := decide (1 ≤ fld s.test 29 3) && decide (fld s.test 29 3 ≤ 4)

/-- A lane of the port is in test modes 1 to 4 (R211). -/
def Mod.portTesting (m : Mod) (p : Nat) : Bool := (lanesOf p).any fun l => (m.lane l).testing

/-- Egress queues of fabric port n are empty. -/
def Mod.queuesEmpty (m : Mod) (p : Nat) : Bool := (List.range 8).all fun c => (m.queue (qKey p c)).isEmpty

/-- The port holds nothing: replay buffer and egress queues empty (R278, R283). -/
def Mod.holdsNothing (m : Mod) (n : Nat) : Bool :=
  (m.link n).replay.isEmpty && (m.link n).tx.isEmpty && m.queuesEmpty (48 + n)

/-- Count an object 5.3pp. -/
def Mod.linkObj (m : Mod) (n el k : Nat) : Mod := m.bump (mkOid 5 (0x300 + n) el) k

/-- The port's own link identity (R261). -/
def Mod.ownIdentity (m : Mod) (n : Nat) : Nat := pack [(m.rt.id, 52, 12), (n, 48, 4), (m.lk.epoch, 0, 32)]

/-- The database must originate a new record (R294). -/
def Mod.recordDirty (m : Mod) : Mod := m.onRt fun b => { b with dirty := true }

/-- The adjacency of fabric port n ends (R291). -/
def Mod.adjEnds (m : Mod) (n : Nat) : Mod :=
  if n ∈ m.rt.adj then (m.onRt fun b => { b with adj := without n b.adj }).recordDirty else m

/-- The link's search and lanes when it leaves ACTIVE, TRAIN or RETRAIN. -/
def Mod.stopSearch (m : Mod) (n : Nat) : Mod := m.onSearch n fun s => { s with running := false, relock := false, aligned := false }

/-- Enter DOWN with a cause; held traffic, SEQ, NEXT_RX, credits, OPEN masks and identities stay (R273, R274, R279). -/
def Mod.linkDown (m : Mod) (n cause : Nat) : Mod :=
  let s := m.link n
  if s.st = .retired ∨ s.st = .down then m
  else
    let failed := decide (s.st = .train) && [7, 8, 10].contains cause
    let m1 := m.onLink n fun s =>
      { s with st := .down, cause := cause, clean := decide (cause = 11), resend := [], replayFrom := none, replayDeadline := none,
               nakOwed := false, nakPending := false, peer := none, peerSlot := false, leave := .none, peerLeave := .none, leaveOwed := false,
               leaveTurn := false, timerHold := false, dormantHs := .none, entering := false, exitAsked := false, woken := false, exitAt := none, lastFail := if failed then some m.now else s.lastFail }
    let m2 := (((m1.stopSearch n).endMargins (lanesOf (48 + n))).onLanes (48 + n) fun l => { l with pstate := 1 }).linkObj n 0xB 1
    let m3 := m2.adjEnds n
    if cause = 17 then m3 else m3.raise (evt 0x0504 (Loc.fab n) cause)

/-- 3.0LL.03 of a fabric lane: the five taps as signed bytes within their limits, main being what the others leave (R189, R214). -/
def tapsBlob (t : Taps) : Nat :=
  let a := min t.pre2 8
  let b := min t.pre1 20
  let c := min t.post1 20
  let d := min t.post2 8
  let neg := fun x => (256 - x) % 256
  pack [(neg a, 32, 8), (neg b, 24, 8), (64 - (a + b + c + d), 16, 8), (neg c, 8, 8), (neg d, 0, 8)]

/-- An alignment search starts from the kept positions (R195); it counts as full when some lane keeps none. -/
def Mod.startSearch (m : Mod) (n : Nat) : Mod :=
  let ls := lanesOf (48 + n)
  let full := ls.any fun l => (m.lane l).kept.isNone
  let m1 := m.onSearch n fun s =>
    { s with running := true, attempt := 0, round := 0, full := full, relock := false, aligned := false, open_ := [0, 1, 2, 3] }
  let m2 := m1.onLanes (48 + n) fun l => { l with align := false, slip := l.kept.getD 0 }
  if full then m2.bump (mkOid 3 (0x230 + n) 6) 1 else m2

/-- Enter RETRAIN with a cause (R273, R274): the kept positions are verified by a search that starts from them (R190, R272). -/
def Mod.linkRetrain (m : Mod) (n cause : Nat) : Mod :=
  if (m.link n).st ≠ .active then m
  else
    let m1 := m.onLink n fun s =>
      { s with st := .retrain, cause := cause, retrainStart := m.now, resend := [], replayFrom := none, replayDeadline := none,
               nakOwed := false, nakPending := false, peer := none, peerSlot := false, fromDown := false, timerHold := false, dormantHs := .none }
    let m2 := (((m1.endMargins (lanesOf (48 + n))).onLanes (48 + n) fun l => { l with lastTx := 0, lastRx := 0 }).startSearch n).linkObj n 0xA 1
    m2.raise (evt 0x0503 (Loc.fab n) cause)

/-- Credits of one class: header count and data count. -/
def credOf (t : Tbl Cred) (c : Nat) : Cred := tget {} c t

/-- Consume the credits of the headers among words that are first sent (R268). -/
def chargeHeads (ws : List TxWord) (used : Tbl Cred) : Tbl Cred :=
  (ws.filterMap (·.head)).foldl (fun t x => tset {} x.1 { h := ((credOf t x.1).h + 1) % 65536, d := ((credOf t x.1).d + x.2) % 65536 } t) used

/-- The link can take a packet of class c and length len (R269), beside the packets whose headers have still to go out. -/
def LinkSt.canSend (s : LinkSt) (c len : Nat) : Bool :=
  let u := credOf (chargeHeads s.tx s.used) c
  let l := credOf s.limit c
  decide (1 ≤ (l.h + 65536 - u.h) % 65536) && decide (len ≤ (l.d + 65536 - u.d) % 65536) && s.openTx.contains c

/-- Grants carried for class c: (ADV + FREED) mod 65,536 (R269). -/
def LinkSt.grantOf (s : LinkSt) (c : Nat) : Cred :=
  { h := ((credOf s.adv c).h + (credOf s.freed c).h) % 65536, d := ((credOf s.adv c).d + (credOf s.freed c).d) % 65536 }

/-- The receiver raises FREED for a packet that left its ingress reservation (R269, R332). -/
def Mod.freeCredit (m : Mod) (n : Nat) (p : Pkt) : Mod :=
  m.onLink n fun s =>
    let f := credOf s.freed p.tc
    { s with freed := tset {} p.tc { h := (f.h + 1) % 65536, d := (f.d + p.len) % 65536 } s.freed, ctlOwed := true }

/-- Classes due to open in the next CONTROL flit (R270). -/
def Mod.opensDue (m : Mod) (n : Nat) : List Nat :=
  let s := m.link n
  let all := m.md.mode = .operate ∨ m.md.mode = .capped ∨ (m.md.mode = .drain ∧ s.fresh = true)
  if s.st ≠ .active then []
  else (if all then List.range 8 else [7]).filter fun c => !s.openRx.contains c

/-- Open classes for receive: the advertisement takes its written value (R270). -/
def Mod.openClasses (m : Mod) (n : Nat) : Mod :=
  let cs := m.opensDue n
  let adv := fun (c : Nat) => m.objv (mkOid 5 (0x100 + n) (1 + c))
  m.onLink n fun s =>
    { s with openRx := s.openRx ++ cs, fresh := false,
             adv := cs.foldl (fun t c => tset {} c { h := adv c / 65536, d := adv c % 65536 } t) s.adv }

/-- Class set as the OPEN byte. -/
def openByte (l : List Nat) : Nat := (List.range 8).foldl (fun a c => a + if l.contains c then 2 ^ c else 0) 0

/-- The CONTROL flit the port sends now with a CTYPE (R260). -/
def Mod.controlOf (m : Mod) (n ctype : Nat) : Control :=
  let s := m.link n
  { ctype := ctype, nak := s.nakOwed, ack := (s.nextRx + 4095) % 4096,
    grant := (List.range 8).flatMap fun c => [(s.grantOf c).h, (s.grantOf c).d],
    opens := openByte s.openRx, ownId := m.ownIdentity n, heldId := s.heldId }

/-- LEAVE_ACK is due in every CONTROL flit (R282). -/
def LinkSt.acksLeave (s : LinkSt) : Bool := decide (s.peerLeave = .ackDue) || decide (s.peerLeave = .ackSent)

/-- CTYPE of a CONTROL flit in ACTIVE that carries no Dormant message: LEAVE and LEAVE_ACK ride every one of them, and take turns where both are
due (R282, log 214). -/
def LinkSt.ctypeNow (s : LinkSt) : Nat :=
  if s.leave = .leaving ∧ (s.acksLeave = false ∨ s.leaveTurn = false) then 5 else if s.acksLeave then 6 else 0

/-- The module may train its fabric ports now (R273): CONFIGURE, OPERATE, CAPPED, or DRAIN before step 5. -/
def Mod.mayTrain (m : Mod) : Bool :=
  match m.md.mode with
  | .configure | .operate | .capped => true
  | .drain => decide (m.md.drain.step < 5)
  | _ => false

/-- Fabric port n is DOWN and can train, but for its partner and its back-off: training blocks are sent (R272, R273). A port under test or boundary
scan that has not trained stays DOWN (R211, R625). -/
def Mod.canTrain (m : Mod) (n : Nat) : Bool :=
  let k := clusterOfPort (48 + n)
  decide ((m.link n).st = .down) && m.mayTrain && !m.portTesting (48 + n) && (m.cluster k).locked && !(tget {} (k / 2) m.fn.regions).gated &&
    !m.tp.scanning

/-- Lane i of fabric port n. -/
def fabLane (n i : Nat) : Nat := 4 * (48 + n) + i

/-- The levels of a flit on lane i of port n: its bytes of the logical lane, Gray-mapped, and precoded where the far receiver asks for it (R182,
R183, R185, R251). -/
def Mod.laneLevels (m : Mod) (n : Nat) (bytes : List Nat) (i : Nat) : List Nat :=
  let l := m.lane (fabLane n i)
  let g := (laneBytes bytes i).flatMap byteLevels
  if l.txPre then precode l.lastTx g else g

/-- Put a flit on the lanes of port n; in ACTIVE each lane carries its alignment marker when one is due (R194, R251). -/
def Mod.sendFlit (m : Mod) (n : Nat) (f : FlitForm) : Mod :=
  let levels := (List.range 4).map (m.laneLevels n (flitBytes f))
  let s := m.link n
  let marked := levels.mapIdx fun i l => if s.st = .active then withMarker i s.sinceMark l else l
  let m1 := (m.emit (.symbols n marked)).each (List.range 4) fun i m =>
    m.onLane (fabLane n i) fun l => { l with lastTx := (levels.getD i []).getLastD 0 }
  m1.onLink n fun s => { s with sinceMark := if s.st = .active then markerCount s.sinceMark else 0 }

/-- One slot of training blocks on the four lanes, each with the precoding request of its receiver (R185, R194). -/
def Mod.sendTraining (m : Mod) (n : Nat) : Mod :=
  m.emit (.symbols n ((List.range 4).map fun i => trainingBlock i (decide (m.objv (mkOid 3 (fabLane n i) 2) = 1))))

/-- Send one CONTROL flit (R255, R260): classes due open in it, and a pending NAK goes with it. -/
def Mod.sendControl (m : Mod) (n ctype : Nat) : Mod :=
  let m1 := m.openClasses n
  let c := m1.controlOf n ctype
  let m2 := (m1.emit (.control n c)).sendFlit n (.control c)
  let m3 := if (m1.link n).nakOwed then m2.linkObj n 9 1 else m2
  m3.onLink n fun s =>
    { s with nakOwed := false, ctlOwed := false, leaveOwed := s.leaveOwed && decide (ctype ≠ 5) && decide (ctype ≠ 6),
             leaveTurn := decide (ctype = 5),
             peerLeave := if s.peerLeave = .ackDue ∧ ctype = 6 then .ackSent else s.peerLeave }

/-- Replay timer value (R265). -/
def Mod.replayTime (m : Mod) (n : Nat) : Nat := m.objv (mkOid 5 n 5)

/-- An acknowledgement frees every replay entry s with (ACK − s) mod 4,096 below 2,048; freeing the oldest entry returns
REPLAY_NUM to 0, and the timer restarts (R264, R265, R267). -/
def Mod.ackFrees (m : Mod) (n ack : Nat) : Mod :=
  let keep := fun (f : Flit) => !decide ((ack + 4096 - f.seq % 4096) % 4096 < 2048)
  let s := m.link n
  let freed := s.replay.any fun f => !keep f
  if freed = false then m
  else
    let left := s.replay.filter keep
    m.onLink n fun s =>
      { s with replay := left, resend := s.resend.filter keep, replayNum := 0,
               replayFrom := if (s.resend.filter keep).isEmpty then none else s.replayFrom,
               replayDeadline := if left.isEmpty then none else some (m.now + m.replayTime n) }

/-- A replay starts at the oldest unacknowledged entry: go back to N, count it, and escalate (R265, R267). A replay that
is still sending from the same entry is left alone. -/
def Mod.startReplay (m : Mod) (n : Nat) : Mod :=
  let s := m.link n
  match s.replay with
  | [] => m
  | f :: _ =>
    if s.replayFrom = some f.seq ∧ s.resend ≠ [] then m.onLink n fun s => { s with timerHold := true }
    else
      let k := s.replayNum + 1
      let m1 := (m.onLink n fun s =>
        { s with replayNum := k, resend := s.replay, replayFrom := some f.seq }).linkObj n 3 1
      let m2 := m1.portCtr (48 + n) 12 1
      let big := m.objv (mkOid 5 n 4)
      if 2 * big ≤ k then m2.linkDown n 2 else if k = big then m2.linkRetrain n 1 else m2

/-- FEC corrected so many symbols of a received flit (R254): 5.3pp.05, and port event 13 (R583). -/
def Mod.fecFixed (m : Mod) (n fixed : Nat) : Mod :=
  if fixed = 0 ∨ ((m.link n).st ≠ .active ∧ (m.link n).st ≠ .train ∧ (m.link n).st ≠ .retrain) then m
  else (m.linkObj n 5 fixed).portCtr (48 + n) 13 1

/-- A flit is discarded under R254, is of KIND 3 or is a gap: in ACTIVE a NAK goes out unless one is pending (R263). -/
def Mod.badFlit (m : Mod) (n : Nat) : Mod :=
  m.onLink n fun s => if s.st ≠ .active ∨ s.nakPending = true then s else { s with nakPending := true, nakOwed := true }

/-- Give the words of a packet to the link for sending: `first` with its header, `last` to its end (R256). -/
def Mod.sendWords (m : Mod) (n : Nat) (p : Pkt) (ws : List Nat) (first last : Bool) : Mod :=
  m.onLink n fun s =>
    { s with tx := s.tx ++ ws.mapIdx fun i w =>
        let e := last && i + 1 == ws.length
        { w := w, head := if first && i == 0 then some (p.tc, p.len) else none, fin := e, pkt := if e then some p else none } }

/-- Packets whose words the link still holds, oldest first: the replay buffer before the words not yet sent (R281). -/
def LinkSt.heldPkts (s : LinkSt) : List Pkt := s.replay.flatMap (·.pkts) ++ s.tx.filterMap (·.pkt)

/-- The exit from DORMANT starts now; the waking side sends the wake pattern (R200). -/
def Mod.beginExit (m : Mod) (n : Nat) (wakes : Bool) : Mod :=
  (if wakes then m.emit (.wake n) else m).onLink n fun s => { s with exitAt := some m.now }

/-- This side asks for the exit from DORMANT: it starts, or is noted while entry still runs (R200, R213, R284). -/
def Mod.startExit (m : Mod) (n : Nat) : Mod :=
  let s := m.link n
  if s.st ≠ .dormant ∨ s.exitAt.isSome = true then m
  else if s.entering then m.onLink n fun s => { s with exitAsked := true }
  else m.beginExit n true

/-- Enter DORMANT at the end of the slot that carries the acknowledgement (R283, R199); a link the governor takes there leaves the record (R293). -/
def Mod.enterDormant (m : Mod) (n : Nat) : Mod :=
  (((m.onLink n fun s =>
    { s with st := .dormant, dormantHs := .none, entering := true, exitAsked := false, woken := false, exitAt := none, replayDeadline := none }).endMargins (lanesOf (48 + n))).portCtr (48 + n) 22 1).when
    (m.link n).redundant (·.recordDirty)

/-- Clear everything a link holds for a partner (R278, R281). -/
def LinkSt.cleared (s : LinkSt) : LinkSt :=
  { s with openTx := [], openRx := [], replayNum := 0, nextTx := 0, nextRx := 0, replay := [], resend := [], replayFrom := none,
           nakOwed := false, nakPending := false, replayDeadline := none, timerHold := false, used := [], limit := [], adv := [], freed := [],
           taken := [], heldId := 0, rx := .idle, lastRx := none, mismatchIds := [] }

/-- A request, as a retire answers it (R281). -/
def heldRequest (p : Pkt) : Bool := decide (p.tc = 0) || decide (p.tc = 3) || decide (p.tc = 4) || decide (p.tc = 5)

/-- The address of the write a packet carries: the line a write-back brings home, or ADDR64 of a bridge packet whose kind of message writes (R281,
R432, R494). -/
def writeAddr (p : Pkt) : Option Nat :=
  let ws := msgWords p
  let k := fld (ws.getD 1 0) 24 8
  if p.tc = 0 then (if 0 < p.len then some (pktLine p) else none)
  else if p.fmt = 2 ∧ flitStarts p = false then none
  else if bit k 6 = true ∧ isMessage k = false ∧ k ≠ 0x4A then some (ws.getD 0 0)
  else none

/-- What a link holds, oldest first, each with whether some of it may have reached the partner: the replay buffer, then the words still to be
sent, of whose packets the first may have its header out. -/
def LinkSt.heldSent (s : LinkSt) : List (Bool × Pkt) :=
  (s.replay.flatMap (·.pkts)).map (fun p => (true, p)) ++
    (s.tx.filterMap (·.pkt)).mapIdx fun i p => (decide (i = 0) && ((s.tx.head?.bind (·.head)).isNone), p)

/-- Release a held packet at retire: requests are answered with error, the rest discarded and counted (R281). A write that may have reached
the partner has its address logged. -/
def Mod.releaseHeld (m : Mod) (n : Nat) (sent : Bool) (p : Pkt) : Mod :=
  let d := dieOfPort (48 + n)
  if heldRequest p then
    let m1 := (m.errorAnswer d p 3 1).linkObj n 0xC 1
    match writeAddr p with
    | some a => if sent then m1.emit (.note 0x0506 a) else m1
    | none => m1
  else if p.tc = 1 then m.onRt fun b => { b with lostFwd := b.lostFwd ++ [p] }
  else
    let m1 := m.linkObj n 0xD 1
    if p.tc = 2 then m1.onRt fun b => { b with lostFwd := b.lostFwd ++ [p] } else m1

/-- Drop the entries of a queue, releasing their cells; multicast packets keep theirs until the last reference. -/
def Mod.dropEntry (m : Mod) (k : Nat) (e : QEnt) : Mod :=
  let d := dieOfQueue k
  let refs := tget 0 e.held.id m.sw.refs
  if refs ≤ 1 then
    ((m.freeCells d e.held.banks).subShared d e.shared).onSw fun s => { s with refs := tset 0 e.held.id 0 s.refs }
  else m.onSw fun s => { s with refs := tset 0 e.held.id (refs - 1) s.refs }

/-- Take a held packet out of waiting and queues, with its cells. -/
def Mod.removeHeld (m : Mod) (id : Nat) : Mod :=
  let hs := m.sw.waiting.filter fun h => h.id = id
  let m1 := m.each hs fun h m => m.freeCells h.die h.banks
  let m2 := m1.onSw fun s => { s with waiting := s.waiting.filter fun h => h.id ≠ id }
  m2.each m2.sw.queues fun x m =>
    let es := x.2.filter fun e => e.held.id = id
    if es = [] then m
    else (m.each es fun e m => m.dropEntry x.1 e).setQueue x.1 (x.2.filter fun e => e.held.id ≠ id)

/-- Enter RETIRED: held traffic is released, packets waiting for the port's queues with it, and the link state cleared
(R281, R359). -/
def Mod.linkRetire (m : Mod) (n cause : Nat) : Mod :=
  if (m.link n).st = .retired then m
  else
    let was := m.link n
    let m1 := ((m.onLink n fun s => { s with st := .retired, cause := cause }).endMargins (lanesOf (48 + n))).onLanes (48 + n) fun l => { l with pstate := 1 }
    let m2 := match was.rx with
      | .body id _ => m1.removeHeld id
      | _ => m1
    let keys := (List.range 8).map fun c => qKey (48 + n) c
    let queued := keys.flatMap fun k => (m2.queue k).map fun e => (e.cut, e.held)
    let waits := m2.sw.waiting.filter fun h => h.refs = [] ∧ h.target = some (48 + n)
    let all := was.heldSent ++
      (sortBy (fun (a b : Bool × Held) => decide (a.2.id < b.2.id)) queued ++ waits.map fun h => (false, h)).map fun x => (x.1, x.2.pkt)
    let turns := [all.filter fun x => heldRequest x.2, all.filter fun x => decide (x.2.tc = 1),
                  all.filter fun x => !heldRequest x.2 && decide (x.2.tc ≠ 1)]
    let m3 := (m2.each turns.flatten fun x m => m.releaseHeld n x.1 x.2).each keys fun k m => (m.each (m.queue k) fun e m => m.dropEntry k e).setQueue k []
    let m4 := m3.onSw fun s => { s with waiting := s.waiting.filter fun h => !(h.refs = [] ∧ h.target = some (48 + n)) }
    let m5 := m4.onLink n fun s =>
      { s.cleared with tx := [], mismatch := false, leave := .none, peerLeave := .none, leaveOwed := false, leaveTurn := false, dormantHs := .none,
                       entering := false, exitAsked := false, woken := false, exitAt := none, peer := none, clean := false }
    ((m5.stopSearch n).adjEnds n).raise (evt 0x0506 (Loc.fab n) cause)

end Sys2Proof.Machine
end

