-- ==== Sys2Proof/Machine/RouteOps.lean ====
section
/-! DEFINITION. Operations of discovery, routing and time: records, shortest paths, lookup, drops, grandmaster (R288 to
R322). -/
namespace Sys2Proof.Machine

/-- The neighbour's switch ID on fabric port n (R291). -/
def Mod.nbrOf (m : Mod) (n : Nat) : Nat := fld (m.link n).heldId 52 12
/-- Tells neighbours apart: by switch ID, those with ID 0x000 by their epoch (R261, R296). -/
def Mod.nbrKey (m : Mod) (n : Nat) : Nat := if m.nbrOf n = 0 then 4096 + (m.link n).heldId % 2 ^ 32 else m.nbrOf n
def Mod.farPort (m : Mod) (n : Nat) : Nat := fld (m.link n).heldId 48 4

/-- Adjacency on fabric port n (R291). -/
def Mod.adjacent (m : Mod) (n : Nat) : Bool :=
  let s := m.link n
  (decide (s.st = .active) || decide (s.st = .retrain) || decide (s.st = .dormant)) && s.openTx.contains 7 && s.openRx.contains 7
    && decide (s.heldId ≠ 0)

def fabPorts : List Nat := List.range 16

/-- PID entries of the module's record (R293). -/
def Mod.ownPids (m : Mod) : List PidEntry :=
  ((List.range 48).filterMap fun p =>
    let v := m.objv (mkOid 4 p 4)
    if v = 0xFFF then none else some { pid := v, vdcd := false, port := p }) ++
  ((List.range 48).filterMap fun v =>
    let x := m.objv (mkOid 4 (0x100 + v) 6)
    if x = 0xFFF then none else some { pid := x, vdcd := true, port := v })

/-- State field of a link entry (R293). -/
def linkStateField : LinkState → Nat
  | .dormant => 1
  | .retrain => 2
  | _ => 0

/-- The record the module would originate now (R293). A link the governor took to DORMANT has no entry. -/
def Mod.buildRecord (m : Mod) : LinkRecord :=
  { id := m.rt.id, epoch := m.lk.epoch, seq := m.rt.seq, leaving := m.rt.leaving, dup := m.rt.dup,
    routed := decide (m.objv 0x602000 = 1), tprio := m.objv 0x603000,
    links := (fabPorts.filter fun n => m.adjacent n && !((m.link n).redundant && decide ((m.link n).st = .dormant))).map fun n =>
      { nbr := m.nbrOf n, port := n, far := m.farPort n, state := linkStateField (m.link n).st, cost := m.objv (mkOid 6 0x40 (1 + n)) },
    pids := m.ownPids.take 96 }

/-- A record's 448 bytes as 56 words (R293). -/
def recordWords (r : LinkRecord) : List Nat :=
  let w0 := pack [(r.id, 48, 12), (b2n r.leaving, 47, 1), (b2n r.dup, 46, 1), (b2n r.routed, 45, 1), (r.links.length, 32, 8), (r.epoch, 0, 32)]
  let w1 := pack [(r.seq, 32, 32), (r.tprio, 24, 8), (r.pids.length, 16, 8)]
  let link := fun (e : LinkEntry) => pack [(e.nbr, 52, 12), (e.port, 48, 4), (e.far, 44, 4), (e.state, 40, 4), (e.cost, 36, 4)]
  let links := (List.range 16).map fun i => match r.links[i]? with
    | some e => link e
    | none => 0
  let pid := fun (e : PidEntry) => pack [(e.pid, 12, 12), (b2n e.vdcd, 11, 1), (e.port, 5, 6)]
  let bytes := (List.range 96).flatMap fun i => toBytes 3 (match r.pids[i]? with
    | some e => pid e
    | none => 0)
  let tail := (List.range 36).map fun i => ofBytes ((bytes.drop (8 * i)).take 8)
  w0 :: w1 :: links ++ tail ++ [0, 0]

/-- A TC7 packet of a type, with BODY[55:0] and data (R314). -/
def tc7Pkt (self dest type body : Nat) (data : List Nat) : Pkt :=
  { tc := 7, len := cdiv data.length 4, dest := dest, src := self, body := type * 2 ^ 56 + body % 2 ^ 56, data := data }

/-- Send a TC7 packet to the neighbour on fabric port n only. -/
def Mod.sendNbr (m : Mod) (n type body : Nat) (data : List Nat) : Mod :=
  let m1 := m.startExit n
  let id := m1.sw.nextId
  m1.onSw fun s =>
    { s with nextId := id + 1,
             waiting := s.waiting ++ [{ id := id, blk := .hub, die := 0, pkt := tc7Pkt m.rt.id (m.nbrOf n) type body data,
                                        target := some (48 + n), got := 4 * cdiv data.length 4 }] }

def Mod.sendRecord (m : Mod) (n : Nat) (r : LinkRecord) : Mod := m.sendNbr n 1 0 (recordWords r)

/-- Neighbours, each with the port that carries floods to it: the lowest-numbered ACTIVE link, or a DORMANT
one when none is ACTIVE (R295); toward a neighbour with links in RETRAIN alone, the first of them. -/
def Mod.floodPorts (m : Mod) (except_ : Option Nat) : List Nat :=
  let ns := ((fabPorts.filter m.adjacent).map m.nbrKey).eraseDups.filter fun id => some id ≠ except_
  ns.filterMap fun id =>
    let ps := fabPorts.filter fun n => m.adjacent n && decide (m.nbrKey n = id)
    match ps.find? fun n => decide ((m.link n).st = .active) with
    | some n => some n
    | none => match ps.find? fun n => decide ((m.link n).st = .dormant) with
      | some n => some n
      | none => ps.head?

/-- Flood a record, except to the neighbour it came from (R295). -/
def Mod.flood (m : Mod) (r : LinkRecord) (from_ : Option Nat) : Mod := m.each (m.floodPorts from_) fun n m => m.sendRecord n r

/-- The adjacency of port n has started or ended: at its start every stored record is sent (R291, R294, R297). -/
def Mod.adjCheck (m : Mod) (n : Nat) : Mod :=
  if m.adjacent n = true ∧ n ∉ m.rt.adj then
    let m1 := (m.onRt fun b => { b with adj := b.adj ++ [n], dirty := true })
    let rs := (match m.rt.own with
      | some r => [r]
      | none => []) ++ m.rt.db.map (·.lsr)
    m1.each rs fun r m => m.sendRecord n r
  else if m.adjacent n = false ∧ n ∈ m.rt.adj then m.onRt fun b => { b with adj := without n b.adj, dirty := true }
  else m

/-- A database change starts the hold-off unless one is waiting (R299). -/
def Mod.dbChanged (m : Mod) : Mod := m.onRt fun b => { b with changedAt := some (b.changedAt.getD m.now) }

/-! Paths (R299). -/

/-- A link entry counts only when the records at both ends list it. -/
def bothList (rs : List LinkRecord) (r : LinkRecord) (e : LinkEntry) : Bool :=
  rs.any fun x => x.id == e.nbr && x.links.any fun f => f.nbr == r.id && f.port == e.far && f.far == e.port

/-- The module of a record may be passed through. -/
def transitOk (r : LinkRecord) : Bool := !r.leaving && !r.dup && r.id != 0

/-- One round of distances to a destination: cost and hops of each module. -/
def relaxOnce (rs : List LinkRecord) (unit_ : Bool) (dest : Nat) (d : Tbl (Option (Nat × Nat))) : Tbl (Option (Nat × Nat)) :=
  rs.foldl (fun t r =>
    if r.id = dest then t
    else
      r.links.foldl (fun t e =>
        let ok := bothList rs r e && (e.nbr == dest || rs.any fun x => x.id == e.nbr && transitOk x)
        match ok, tget none e.nbr t with
        | true, some (c, h) =>
          let nc := c + if unit_ then 1 else e.cost
          match tget none r.id t with
          | some (c0, h0) => if nc < c0 ∨ (nc = c0 ∧ h + 1 < h0) then tset none r.id (some (nc, h + 1)) t else t
          | none => tset none r.id (some (nc, h + 1)) t
        | _, _ => t) t) d

/-- Distances to a destination after k rounds. -/
def relax (rs : List LinkRecord) (unit_ : Bool) (dest : Nat) : Nat → Tbl (Option (Nat × Nat))
  | 0 => [(dest, some (0, 0))]
  | k + 1 => relaxOnce rs unit_ dest (relax rs unit_ dest k)

/-- The records that paths of a module may use: beside one with ID 0x000, a module of that ID keeps its own, which comes first, apart (R289). -/
def recordsFor (self : Nat) (rs : List LinkRecord) : List LinkRecord :=
  if self ≠ 0 then rs
  else match rs with
    | [] => []
    | r :: t => r :: t.filter fun x => x.id ≠ 0

/-- Cost and hops from a module to a destination, none without a path. -/
def pathTo (rs : List LinkRecord) (unit_ : Bool) (src dest : Nat) : Option (Nat × Nat) :=
  tget none src (relax rs unit_ dest rs.length)

/-- Port order of R300: F00, F08, F01, F09, … -/
def hopOrder : List Nat := (List.range 8).flatMap fun i => [i, i + 8]

/-- The bearing entry computed for a destination: none when there is no path within the hop limit, with whether a path
exists beyond it (R299 to R301). -/
def computeEntry (all : List LinkRecord) (self limit dest : Nat) : Option Nat × Bool :=
  let rs := recordsFor self all
  match rs.find? fun r => r.id = dest with
  | none => (none, false)
  | some r =>
    if r.leaving ∨ r.dup ∨ dest = 0 ∨ dest = self then (none, false)
    else
      match rs.find? fun r => r.id = self, pathTo rs false self dest with
      | some me, some (c, h) =>
        if limit < h then (none, true)
        else
          let begins := fun (n : Nat) => me.links.any fun e => e.port == n && bothList rs me e &&
            (e.nbr == dest || rs.any fun x => x.id == e.nbr && transitOk x) &&
            match pathTo rs false e.nbr dest with
            | some (c2, _) => decide (c2 + e.cost = c)
            | none => false
          let hops := (hopOrder.filter begins).take 4
          let slots := hops.mapIdx fun k n => (2048 + n) * 2 ^ (12 * k)
          (some (2 ^ 63 + h * 2 ^ 56 + slots.sum), false)
      | _, _ => (none, false)

/-! Lookup (R304 to R308). -/

/-- Bearing entry object of a destination (R323). -/
def bearingOid (dest : Nat) : Nat := mkOid 6 (0x100 + dest / 128) (1 + dest % 128)

/-- Used slots of an entry: port and W (R301). -/
def slotsOf (e : Nat) : List (Nat × Nat) :=
  (List.range 4).filterMap fun k => let s := fld e (12 * k) 12; if bit s 11 then some (s % 16, fld s 8 3) else none

/-- A lookup may use the port: the partner has not asked to leave (R282). -/
def Mod.portUsable (m : Mod) (n : Nat) : Bool := decide ((m.link n).leave = .none ∧ (m.link n).peerLeave = .none)

/-- The port holds TC4 to TC6 packets (R307). -/
def Mod.holdsFlows (m : Mod) (n : Nat) : Bool :=
  ([4, 5, 6].any fun c => !(m.queue (qKey (48 + n) c)).isEmpty) ||
  (m.link n).heldPkts.any fun p => p.tc == 4 || p.tc == 5 || p.tc == 6

/-- Slots in the flow selection of a destination: those of its entry, and those kept (R306, R307). -/
def Mod.flowSlots (m : Mod) (dest : Nat) : List (Nat × Nat) :=
  let s := slotsOf (m.objv (bearingOid dest))
  let kept := (m.rt.kept.filter fun x => x.1 = dest ∧ (m.link x.2.1).st ≠ .retired ∧ m.holdsFlows x.2.1 = true ∧ ¬ (s.any fun y => y.1 = x.2.1)).map (·.2)
  (s ++ kept).filter fun x => m.portUsable x.1

/-- Key of a flow: SRC, DEST and flow label (R306). -/
def flowKey (p : Pkt) : Nat := p.src * 2 ^ 24 + p.dest * 2 ^ 12 + fld p.body 52 12

/-- The slot a flow selects: the highest score, the lower port on a tie (R306). -/
def pickFlow (key fk : Nat) (l : List (Nat × Nat)) : Option Nat :=
  match l with
  | [] => none
  | [x] => some x.1
  | x :: t =>
    let score := fun (y : Nat × Nat) => Config.routeHash key fk y.1 % 65536 * (y.2 + 1)
    some (t.foldl (fun b y => if score b < score y ∨ (score b = score y ∧ y.1 < b.1) then y else b) x).1

/-- Depth of a slot for a class seen from a die (R305). -/
def Mod.depth (m : Mod) (die c n : Nat) : Nat := m.qLen (qKey (48 + n) c) + if n / 8 = die then 0 else 16

/-- The least depth/(W + 1) among ACTIVE slots, ties by the die's round-robin pointer; else the first DORMANT slot; else
HOP0 (R305). -/
def Mod.pickAdaptive (m : Mod) (die c : Nat) (l : List (Nat × Nat)) : Option Nat :=
  let act := l.filter fun x => (m.link x.1).st = .active
  match act with
  | [] =>
    match l.find? fun x => (m.link x.1).st = .dormant with
    | some x => some x.1
    | none => l.head?.map (·.1)
  | x :: t =>
    let less := fun (a b : Nat × Nat) => decide (m.depth die c a.1 * (b.2 + 1) < m.depth die c b.1 * (a.2 + 1))
    let best := t.foldl (fun b y => if less y b then y else b) x
    let ties := act.filter fun y => !less best y
    let rr := tget 0 die m.rt.rr
    (ties[rr % ties.length]?).map (·.1)

/-- The fabric port a packet for another module leaves by, none when its DEST has no valid entry (R305, R306, R308). -/
def Mod.route (m : Mod) (die : Nat) (p : Pkt) : Option Nat :=
  let e := m.objv (bearingOid p.dest)
  if p.tc ≤ 3 then
    if bit e 63 then m.pickAdaptive die p.tc ((slotsOf e).filter fun x => m.portUsable x.1) else none
  else
    let l := m.flowSlots p.dest
    if bit e 63 ∨ l ≠ [] then pickFlow m.rt.key (flowKey p) l else none

/-- The lookup's effects: the round-robin pointer moves, the flow's port is noted. -/
def Mod.routed (m : Mod) (die : Nat) (p : Pkt) (n : Nat) : Mod :=
  if p.tc ≤ 3 then m.onRt fun b => { b with rr := tset 0 die ((tget 0 die b.rr + 1) % 12) b.rr }
  else m.onRt fun b => { b with flows := tset 0 (flowKey p) (n + 1) b.flows }

/-- A packet is dropped for want of a route (R308), or as such (R304, R340, R357). -/
def Mod.dropPkt (m : Mod) (die : Nat) (p : Pkt) : Mod :=
  let m1 := (m.bump 0x600600 1).raiseOnce (evt 0x0603 Loc.module p.dest) p.dest
  let m2 := m1.errorAnswer die p 4 2
  if p.tc = 1 ∨ p.tc = 2 then m2.onRt fun b => { b with lostFwd := b.lostFwd ++ [p] } else m2

/-- The flows toward a destination take the slots they select now; those that move are counted (R307). The result tells whether one moved. -/
def Mod.reflow (m : Mod) (dest : Nat) : Mod × Bool :=
  let now := fun (k : Nat) => pickFlow m.rt.key k (m.flowSlots dest)
  let moved := m.rt.flows.filter fun x => x.1 / 2 ^ 12 % 4096 = dest ∧ now x.1 ≠ some (x.2 - 1)
  let m1 := m.onRt fun b => { b with flows := b.flows.filterMap fun x =>
    if x.1 / 2 ^ 12 % 4096 = dest then (now x.1).map fun n => (x.1, n + 1) else some x }
  (m1.bump 0x600700 moved.length, !moved.isEmpty)

/-- Apply a bearing entry whole: route generation, slots kept for held flows, and flow moves counted (R303, R307). The
result tells whether a flow moved. -/
def Mod.applyEntry (m : Mod) (dest e : Nat) : Mod × Bool :=
  let old := slotsOf (m.objv (bearingOid dest))
  let gone := old.filter fun x => ¬ ((slotsOf e).any fun y => y.1 = x.1)
  let m1 := (m.setObj (bearingOid dest) e).bump 0x600500 1
  let m2 := m1.onRt fun b =>
    { b with kept := (b.kept.filter fun x => x.1 ≠ dest ∨ ¬ ((slotsOf e).any fun y => y.1 = x.2.1)) ++
        (gone.filter fun x => (m.link x.1).st = .down ∧ m.holdsFlows x.1 = true).map fun x => (dest, x.1, x.2) }
  m2.reflow dest

/-- Slots kept in flow selection leave it when their port holds no TC4 to TC6 packet, or is retired: their flows move (R307). -/
def Mod.pruneKept (m : Mod) : Mod :=
  let gone := m.rt.kept.filter fun x => (m.link x.2.1).st = .retired ∨ m.holdsFlows x.2.1 = false
  if gone = [] then m
  else
    let m1 := m.onRt fun b => { b with kept := b.kept.filter fun x => x ∉ gone }
    let x := (gone.map (·.1)).eraseDups.foldl (fun (x : Mod × Bool) d => let y := x.1.reflow d; (y.1, x.2 || y.2)) (m1, false)
    if x.2 then x.1.raise (evt 0x0601) else x.1

/-! Carriage mode and the ID map (R310, R313). -/

/-- Records the module computes with: its own and those stored. -/
def Mod.allRecords (m : Mod) : List LinkRecord := m.buildRecord :: m.rt.db.map (·.lsr)

/-- Set or clear MISMATCH (R310). -/
def Mod.carriageCheck (m : Mod) : Mod :=
  let rs := m.allRecords
  let own := decide (m.objv 0x602000 = 1)
  let differs := m.rt.db.any fun x => (pathTo (recordsFor m.rt.id rs) true m.rt.id x.lsr.id).isSome && x.lsr.routed != own
  let bad := differs || (!own && decide (16 < rs.length))
  if bad = true ∧ m.rt.mismatch = false then (m.onRt fun b => { b with mismatch := true }).raise (evt 0x0606)
  else m.onRt fun b => { b with mismatch := bad }

def pidOid (p : Nat) : Nat := mkOid 6 (0x200 + p / 128) (1 + p % 128)

/-- Fill the ID map from the PID entries of the records; a PID two records name is marked CONFLICT, a kept STATIC
entry too (R313). -/
def Mod.fillIdMap (m : Mod) : Mod :=
  let all := m.allRecords.flatMap fun r => r.pids.map fun e => (r.id, e)
  let known := (m.di.obj.filter fun x => pidOid 0 ≤ x.1 ∧ x.1 ≤ pidOid 4095).map fun x => (x.1 / 256 - 0x6200) * 128 + (x.1 % 256 - 1)
  let pids := (all.map (·.2.pid) ++ known).eraseDups
  m.each pids fun p m =>
    let cur := m.objv (pidOid p)
    if bit cur 30 = true ∧ m.objv 0x601000 ≠ 0 then
      let twice := decide (2 ≤ (all.filter fun x => x.2.pid = p).length)
      let m1 := m.setObj (pidOid p) (setFld cur 29 1 (b2n twice))
      if twice && !bit cur 29 then m1.raise (evt 0x0607 Loc.module p) else m1
    else
      match all.filter fun x => x.2.pid = p with
      | [] => m.setObj (pidOid p) 0
      | [x] => m.setObj (pidOid p) (pack [(1, 31, 1), (b2n x.2.vdcd, 28, 1), (x.2.port, 22, 6), (x.1, 0, 12)])
      | x :: _ =>
        let m1 := m.setObj (pidOid p) (pack [(1, 31, 1), (1, 29, 1), (b2n x.2.vdcd, 28, 1), (x.2.port, 22, 6), (x.1, 0, 12)])
        if bit cur 29 then m1 else m1.raise (evt 0x0607 Loc.module p)

/-! Grandmaster and parent (R317, R318). -/

/-- The grandmaster the records name: the reachable module with the lowest (TPRIO, ID), none when no module may be it. -/
def Mod.grandmaster (m : Mod) : Option Nat :=
  let rs := recordsFor m.rt.id m.allRecords
  let c := rs.filter fun r => r.tprio < 255 && r.id != 0 && !r.dup && (r.id == m.rt.id || (pathTo rs true m.rt.id r.id).isSome)
  match c with
  | [] => none
  | r :: t => some (t.foldl (fun b x => if x.tprio < b.tprio ∨ (x.tprio = b.tprio ∧ x.id < b.id) then x else b) r).id

/-- Hops of a module to the grandmaster. -/
def Mod.hopsToGm (m : Mod) (id : Nat) : Option Nat := (pathTo (recordsFor m.rt.id m.allRecords) true id m.ti.gm).map (·.2)

/-- The time parent's port: the neighbour with the fewest hops to the grandmaster, the lower ID on a tie, on its
lowest-numbered ACTIVE link (R318). -/
def Mod.pickParent (m : Mod) (except_ : Option Nat) : Option Nat :=
  let c := fabPorts.filterMap fun n =>
    if (m.link n).st = .active ∧ some n ≠ except_ then (m.hopsToGm (m.nbrOf n)).map fun h => (h, m.nbrOf n, n) else none
  match c with
  | [] => none
  | x :: t => some (t.foldl (fun b y => if y.1 < b.1 ∨ (y.1 = b.1 ∧ (y.2.1 < b.2.1 ∨ (y.2.1 = b.2.1 ∧ y.2.2 < b.2.2))) then y else b) x).2.2

/-- Reconsider the grandmaster and the parent after a change of the database (R317, R318). -/
def Mod.timeSelect (m : Mod) : Mod :=
  match m.grandmaster with
  | none =>
    if m.ti.gm = 0 then m
    else (m.onTi fun t =>
      { t with gm := 0, parent := none, hops := 0, firstLock := true,
               st := if t.st = .grandmaster then .unlocked else t.st, locked := t.locked && decide (t.st ≠ .grandmaster) }).raise (evt 0x060A)
  | some g =>
    let changed := decide (g ≠ m.ti.gm)
    let m1 := m.onTi fun t => { t with gm := g, firstLock := t.firstLock || changed }
    let m2 := if changed = true ∧ m.ti.gm ≠ 0 then m1.raise (evt 0x060A Loc.module g) else m1
    if g = m.rt.id then m2.onTi fun t => { t with st := .grandmaster, locked := true, parent := none, hops := 0, trim := if changed then 0 else t.trim }
    else
      let h := (m2.hopsToGm m.rt.id).getD 0
      let p := m2.pickParent none
      let m3 := m2.onTi fun t => { t with parent := p, hops := h, st := if changed then .unlocked else t.st, locked := !changed && t.locked }
      match m.ti.parent, p with
      | some a, some b => if a ≠ b ∧ m.ti.st = .locked then m3.raise (evt 0x0608 (Loc.fab b)) else m3
      | _, _ => m3

/-- What every database change brings: the hold-off, the carriage check, the ID map, the grandmaster. -/
def Mod.dbUpdate (m : Mod) : Mod := ((m.dbChanged.carriageCheck).fillIdMap).timeSelect

/-- Every port latches the bytes of the running window, which ends at t, and raises its peaks (R590). -/
def Mod.latchWindow (m : Mod) (t : Nat) : Mod :=
  m.onCn fun c =>
    if c.winSkip = true then { c with winRx := [], winTx := [], winSkip := false }
    else
      let top := fun (now peak : Tbl Nat) => now.foldl (fun acc x => if tget 0 x.1 acc < x.2 then tset 0 x.1 x.2 acc else acc) peak
      { c with
        lastRx := c.winRx
        lastTx := c.winTx
        peakRx := top c.winRx c.peakRx
        peakTx := top c.winTx c.peakTx
        winEnd := t
        winRx := []
        winTx := [] }

/-- The counter steps by d units of 2^-16 ns (R319): counted, EV-0609; a forward step closes the running bandwidth window (R590). -/
def Mod.stepTime (m : Mod) (d : Int) : Mod :=
  let m0 := if 0 < d ∧ m.cn.winSkip = false then m.latchWindow m.meridian else m
  let m1 := m0.onTi fun t => { t with count := ((t.count : Int) + d).toNat }
  (m1.bump 0x603700 1).raise (evt 0x0609)

end Sys2Proof.Machine
end

