-- ==== Sys2Proof/Machine/ProxyOps.lean ====
section
/-! DEFINITION. Parvor messages as words (R76, R77), and messages proxied over TC7 (R89, R314). -/
namespace Sys2Proof.Machine

/-- One item of a message: object, type code, value length, status with PEND in bit 15, value. -/
structure WireItem where
  oid : Nat
  ty : Nat := 0
  len : Nat := 0
  status : Nat := 0
  val : Nat := 0

/-- An item as bytes (R77). -/
def itemBytes (i : WireItem) : List Nat :=
  toBytes 3 i.oid ++ toBytes 1 i.ty ++ toBytes 2 i.len ++ toBytes 2 i.status ++ toBytes i.len i.val ++
    List.replicate ((4 - i.len % 4) % 4) 0

/-- A message as bytes (R76). -/
def parvorBytes (flags opcode session seq status wireTarget subid : Nat) (payload : List Nat) : List Nat :=
  toBytes 1 (16 + flags) ++ toBytes 1 opcode ++ toBytes 2 session ++ toBytes 4 seq ++ toBytes 2 payload.length ++ toBytes 2 status ++
    toBytes 2 wireTarget ++ toBytes 2 subid ++ payload

/-- Bytes as 64-bit words, zero-padded. -/
def bytesWords (l : List Nat) : List Nat :=
  (List.range (cdiv l.length 8)).map fun i => ofBytes ((List.range 8).map fun j => l.getD (8 * i + j) 0)

/-- Send a Parvor message to another module as PROXY packets of up to 512 bytes (R314). -/
def Mod.sendProxy (m : Mod) (target : Nat) (msg : List Nat) : Mod :=
  let n := cdiv msg.length 512
  let tag := m.di.nextTag
  let m1 := m.onDi fun d => { d with nextTag := (d.nextTag + 1) % 2 ^ 32 }
  m1.each (List.range n) fun i m =>
    let seg := (msg.drop (512 * i)).take 512
    let ws := bytesWords seg
    let pad := (4 - ws.length % 4) % 4
    m.originate .hub 0 (tc7Pkt m.rt.id target 6
      (pack [(i, 54, 2), (n, 52, 2), (tag, 32, 16), (msg.length, 16, 16)]) (ws ++ List.replicate pad 0))

/-- Type code of an object (R49). -/
def oidType (oid : Nat) : Nat :=
  match objFind oid with
  | some r => tyCode r.ty
  | none => 5

/-- A message of the firmware to another module, executed there in a Root proxy session (R89), with the proxy timer of R91; `oid` and `val` say
what it is about. -/
def Mod.firmwareSend (m : Mod) (target opcode oid val : Nat) (payload : List Nat) : Mod :=
  let p : Proxied := { session := 0, seq := m.di.nextTag, opcode := opcode, target := target, tag := m.di.nextTag,
                       deadline := m.now + m.objv 0x003400 * ms, oid := oid, val := val }
  (m.onDi fun d => { d with proxied := d.proxied ++ [p] }).sendProxy target (parvorBytes 0 opcode 0 m.di.nextTag 0 (4096 + target % 4096) 0 payload)

/-- A WRITE of one object on another module. -/
def Mod.firmwareWrite (m : Mod) (target oid len val : Nat) : Mod :=
  m.firmwareSend target 2 oid val (itemBytes { oid := oid, ty := oidType oid, len := len, val := val })

/-- A READ of one object on another module. -/
def Mod.firmwareRead (m : Mod) (target oid : Nat) : Mod := m.firmwareSend target 1 oid 0 (itemBytes { oid := oid, ty := oidType oid })

/-- A WRITE_GROUP of words of one descriptor on another module (R60, R80). -/
def Mod.firmwareDesc (m : Mod) (target desc : Nat) (items : List (Nat × Nat)) : Mod :=
  m.firmwareSend target 4 ((items.map (·.1)).headD 0) ((items.map (·.2)).headD 0)
    (toBytes 4 (5 * 2 ^ 24 + desc) ++ items.flatMap fun x => itemBytes { oid := x.1, ty := 5, len := 8, val := x.2 })

/-- The item that carries the holder's session ID beside LOCKED (R63, R70). DESIGN CHOICE (log entry 201): R76 and R77 give it no field; it travels as one
more item, of 0.021.00. -/
def holderItems (r : Resp) : List RItem := if r.status = .locked then [{ oid := 0x002100, ty := 3, len := 2, val := r.holder }] else []

/-- A response as bytes (R76, R77). -/
def respBytes (r : Resp) : List Nat :=
  parvorBytes 8 r.opcode r.session r.seq r.status.code 0 r.subid
    ((r.items ++ holderItems r).flatMap fun i =>
      itemBytes { oid := i.oid, ty := i.ty, len := i.len, status := i.status.code + 32768 * b2n i.pend, val := i.val })

/-- What stands before the Parvor header in an MCTP message body: message type 0x7E, vendor-defined PCI; Walysta's PCI vendor ID; the command byte 0x50
(R97). -/
def mctpFrame : Nat × Nat × Nat := (0x7E, Config.factory 1 % 65536, 0x50)

/-- The MCTP message body of a response (R97, R98). -/
def mctpBody (r : Resp) : List Nat := toBytes 1 mctpFrame.1 ++ toBytes 2 mctpFrame.2.1 ++ toBytes 1 mctpFrame.2.2 ++ respBytes r

/-- Send a response to its source: over TC7 to the module of a proxied session (R89), in an MCTP message to an MCTP endpoint (R97, R98), else out of the
module. -/
def Mod.respond (m : Mod) (src : Source) (r : Resp) : Mod :=
  match src with
  | .proxy sw _ _ => m.sendProxy sw (respBytes r)
  | .firmware => m
  | .mctpPcie _ => m.emit (.mctp src (mctpBody r))
  | .mctpI3c _ => m.emit (.mctp src (mctpBody r))
  | _ => m.emit (.resp src r)

/-! Answers of requests. -/

/-- Windows by number (R83, R92, R96): 0 the management PF's, 1 + n VF n's, 512 + v the host PF's of VCS v. -/
def winKey : Source → Option Nat
  | .mgmtPf => some 0
  | .vf n => some (1 + n.val)
  | .hostPf v => some (512 + v.val)
  | _ => none

def Mod.dictWindow (m : Mod) (k : Nat) : Window := tget {} k m.di.windows
def Mod.onDictWindow (m : Mod) (k : Nat) (f : Window → Window) : Mod := m.onDi fun d => { d with windows := tmod {} k f d.windows }

/-- Hub event k of the transport of a source: the management PCIe endpoint, the I3C/SMBus target (R583). -/
def Mod.transportCtr (m : Mod) (src : Source) (k : Nat) : Mod :=
  match src with
  | .mctpPcie _ => m.hubCtr (352 + k) 1
  | .mctpI3c _ => m.hubCtr (368 + k) 1
  | _ => m

/-- Answer a request: the session keeps the last 16 responses (R85); opcode 0 is an operation of a window, whose status it sets (R95). -/
def Mod.answer (m : Mod) (src : Source) (r : Resp) : Mod :=
  match winKey src with
  | some k => if r.opcode = 0 then m.onDictWindow k fun w => { w with status := r.status.code } else m
  | none =>
    (((m.hubCtr (if r.status = .ok ∨ r.status = .pending then 273 else 274) 1).transportCtr src (if r.status = .ok ∨ r.status = .pending then 1 else 2)).onDi fun d =>
      { d with sessions := d.sessions.map fun s => if s.src = src then { s with kept := (r :: s.kept).take 16 } else s }).respond src r

/-- The answer a COMMIT, or a write of 0.010.00, is owed: the message status of a WRITE is that of its item (log entry 20). -/
def Group.resp (g : Group) (s : Sts) : Resp :=
  { opcode := g.opcode, session := g.session, seq := g.seq, status := s,
    items := if g.opcode = 2 then [{ oid := g.oid, ty := 4, status := s }] else [] }

/-- The IDE key record of a group: port and stream. -/
def ideOf (g : Group) : Nat × Nat :=
  let k := (g.shadows.headD (0, 0)).1 / 256 - 0x4200
  (k / 8, k % 8)

end Sys2Proof.Machine
end

