-- ==== Sys2Proof/Machine/PoolOps.lean ====
section
/-! DEFINITION. Operations of the pool: descriptors, sharing sets, rights, extents, the remote parcel table, the backing
of a line (R385 to R418). -/
namespace Sys2Proof.Machine

/-- Object of word w of descriptor i (R417). -/
def descOid (w i : Nat) : Nat := mkOid 9 (0x200 + 0x200 * w + i / 128) (1 + i % 128)
def extOid (e : Nat) : Nat := mkOid 9 (0x040 + e / 128) (1 + e % 128)
def remOid (r : Nat) : Nat := mkOid 9 (0x060 + r / 128) (1 + r % 128)
def setOid (s : Nat) : Nat := mkOid 9 (0x080 + s / 128) (1 + s % 128)
def grantOid (g : Nat) : Nat := mkOid 9 (0x100 + g / 128) (1 + g % 128)

/-- Element number of an object in a run of records of 128 elements that starts at index base. -/
def runIndex (base oid : Nat) : Nat := (oid / 256 % 4096 - base) * 128 + (oid % 256 - 1)

/-- Listed objects with indices lo to hi of area 9 and an element above 0: their numbers and values. -/
def Mod.listed (m : Mod) (lo hi : Nat) : List (Nat × Nat) :=
  (m.di.obj.filter fun x => decide (mkOid 9 lo 1 ≤ x.1) && decide (x.1 ≤ mkOid 9 hi 128) && decide (x.1 % 256 ≠ 0)).map fun x =>
    (runIndex lo x.1, x.2)

/-! Descriptors (R387). -/

def Mod.d0 (m : Mod) (i : Nat) : Nat := m.objv (descOid 0 i)
def Mod.dState (m : Mod) (i : Nat) : Nat := fld (m.d0 i) 61 3
def Mod.dSize (m : Mod) (i : Nat) : Nat := fld (m.d0 i) 58 3
def Mod.dWays (m : Mod) (i : Nat) : Nat := 2 ^ fld (m.d0 i) 55 3
def Mod.dDevice (m : Mod) (i : Nat) : Bool := bit (m.d0 i) 54
/-- 0 WB, 1 WT, 2 UC -/
def Mod.dPolicy (m : Mod) (i : Nat) : Nat := fld (m.d0 i) 52 2
def Mod.dPartner (m : Mod) (i : Nat) : Nat := fld (m.d0 i) 21 12
def Mod.dBinds (m : Mod) (i : Nat) : Nat := fld (m.d0 i) 0 16

/-- Served states (R389); a parcel that DRAIN recalls or has unhomed is not served (R124). -/
def servedState (st : Nat) : Bool := decide (1 ≤ st) && decide (st ≤ 4)
def Mod.served (m : Mod) (i : Nat) : Bool := servedState (m.dState i) && !(m.po.recalling ++ m.po.unhomed).contains i

/-- The module sets a word of a descriptor: the active value and the one in flash (R386). -/
def Mod.setDesc (m : Mod) (w i v : Nat) : Mod := (m.setObj (descOid w i) v).setFlash (descOid w i) v

def Mod.setDState (m : Mod) (i st : Nat) : Mod := m.setDesc 0 i (setFld (m.d0 i) 61 3 st)

/-- Free or bound, by BINDS (R389). -/
def Mod.restState (m : Mod) (i : Nat) : Nat := if m.dBinds i = 0 then 1 else 2

/-- Descriptors with a listed D0. -/
def Mod.descs (m : Mod) : List Nat := (m.listed 0x200 0x3FF).map (·.1)

/-- Way w of descriptor i: V, PORT, LD (R387). -/
def Mod.wayField (m : Mod) (i w : Nat) : Nat := fld (m.objv (descOid (2 + w / 4) i)) (16 * (w % 4)) 16
def Mod.wayPort (m : Mod) (i w : Nat) : Nat := fld (m.wayField i w) 9 6
def Mod.wayUsed (m : Mod) (i w : Nat) : Bool := bit (m.wayField i w) 15

/-- Pool ports a parcel has ways on. -/
def Mod.dPorts (m : Mod) (i : Nat) : List Nat := ((List.range 16).filter (m.wayUsed i)).map (m.wayPort i)

/-- Members of a sharing set (R390). -/
def Mod.setMembers (m : Mod) (s : Nat) : List Nat :=
  let v := m.objv (setOid s)
  ((List.range 64).map fun j => fld v (12 * (63 - j)) 12).filter (· ≠ 0)

def Mod.members (m : Mod) (i : Nat) : List Nat := m.setMembers (fld (m.d0 i) 41 10)

/-- The right of a tenant to a parcel: owner RW, else its grant entry (R390). Read, write. -/
def Mod.rights (m : Mod) (i tenant : Nat) : Bool × Bool :=
  if fld (m.d0 i) 33 8 = tenant then (true, true)
  else
    let gs := ((m.listed 0x100 0x17F).map (·.2)).filter fun g => bit g 7 && decide (fld g 16 16 = i) && decide (fld g 8 8 = tenant)
    (gs.any fun g => bit g 0 || bit g 1, gs.any fun g => bit g 1)

/-! Backing of a line (R385, R404). -/

/-- Target and DPA of a line of a homed parcel. -/
def Mod.target (m : Mod) (i off : Nat) : Nat × Nat × Nat :=
  let w := m.dWays i
  let b := off / 256
  let g := b / w
  let h := Config.lineHash 8 (Config.random (tget 0 i m.po.keys)) g % 16
  let way := (b % w + h) % w
  let base := fld (m.objv (descOid 1 i)) 24 40 * 2 ^ 24
  (m.wayPort i way, fld (m.wayField i way) 5 4, base + g * 256 + off % 256)

/-- Ask the backing for a line (R439). -/
def Mod.backRead (m : Mod) (i off : Nat) : Mod :=
  let t := m.target i off
  m.emit (.back t.1 t.2.1 t.2.2 false 0 false)

/-- Copy pointer of a migration in its pass, in chunks: how far the copy has come is left open by R402. -/
def Mod.copyPtr (m : Mod) (i : Nat) : Nat := Config.openValue 9 (m.now * 65536 + i) % (65536 * 2 ^ m.dSize i + 1)

/-- Set the migration bit of the chunk a backing write falls in (R402). -/
def Mod.migMark (m : Mod) (i off : Nat) : Mod :=
  match tget none i (m.po.migs.map fun x => (x.1, some x.2)) with
  | none => m
  | some g =>
    let c := off / 4096
    if g.final then m
    else if g.pass = 1 ∧ m.copyPtr i < c then m
    else m.onPo fun b => { b with migs := tset { pass := 0 } i { g with bits := addOnce c g.bits } b.migs }

/-- Write a line to its backing, with the poison indication (R445); the final pass of a migration holds every backing write (R402). -/
def Mod.backWrite (m : Mod) (i off data : Nat) (poison : Bool) : Mod :=
  let t := m.target i off
  let now := (m.emit (.back t.1 t.2.1 t.2.2 true data poison)).migMark i off
  match tget none i (m.po.migs.map fun x => (x.1, some x.2)) with
  | none => now
  | some g =>
    if g.final then m.onPo fun b => { b with migs := tset { pass := 0 } i { g with held := g.held ++ [(off, data, poison)] } b.migs } else now

/-! Extents and the remote table (R391). -/

def extState (v : Nat) : Nat := fld v 61 3
def extVcs (v : Nat) : Nat := fld v 55 6
def extRegion (v : Nat) : Nat := fld v 52 3
def extHome (v : Nat) : Nat := fld v 40 12
def extDesc (v : Nat) : Nat := fld v 24 16
def extBlock (v : Nat) : Nat := fld v 12 12
def extTenant (v : Nat) : Nat := fld v 4 8

def Mod.exts (m : Mod) : List (Nat × Nat) := m.listed 0x040 0x05F
def Mod.extAux (m : Mod) (e : Nat) : ExtSt := tget {} e m.po.ext
def Mod.onExt (m : Mod) (e : Nat) (f : ExtSt → ExtSt) : Mod := m.onPo fun b => { b with ext := tmod {} e f b.ext }
def Mod.setExt (m : Mod) (e v : Nat) : Mod := (m.setObj (extOid e) v).setFlash (extOid e) v

/-- Home and descriptor of the parcel of extent e, its entry v: those the entry names, or those the parcel has moved to (R399). -/
def Mod.extParcel (m : Mod) (e v : Nat) : Nat × Nat := (m.extAux e).moved.getD (extHome v, extDesc v)

/-- Index of the remote table entry that names a parcel (R422). -/
def Mod.remoteIx (m : Mod) (home desc : Nat) : Option Nat :=
  ((m.listed 0x060 0x07F).find? fun x => bit x.2 63 && decide (fld x.2 51 12 = home) && decide (fld x.2 35 16 = desc)).map (·.1)

/-- Policy, device type, prefetch bit and size code of the parcel a line belongs to, from D0 or from the remote table. -/
def Mod.lineAttr (m : Mod) (line : Nat) : Nat × Bool × Bool × Nat :=
  let desc := lineDesc line
  if lineHome line = m.rt.id then (m.dPolicy desc, m.dDevice desc, bit (m.d0 desc) 51, m.dSize desc)
  else
    match m.remoteIx (lineHome line) desc with
    | some r =>
      let v := m.objv (remOid r)
      (fld v 30 2, bit v 29, bit v 28, fld v 32 3)
    | none => (0, false, false, 0)

/-- The cached line address of a line (R404): parcel number and line within the parcel. -/
def Mod.cachedAddr (m : Mod) (line : Nat) : Nat :=
  let desc := lineDesc line
  let n := if lineHome line = m.rt.id then desc else 65536 + (m.remoteIx (lineHome line) desc).getD 0
  n * 2 ^ 28 + lineOff line / 64

/-- First free index of the remote table (R391). -/
def Mod.freeRemote (m : Mod) : Option Nat :=
  let used := ((m.listed 0x060 0x07F).filter fun x => bit x.2 63).map (·.1)
  ((List.range (used.length + 1)).find? fun r => r ∉ used).bind fun r => if r < 4096 then some r else none

/-- Blocks of a region taken by a VCS's extents other than e, in states 2 to 6 (R393). -/
def Mod.takenBlocks (m : Mod) (e vcs region : Nat) : List (Nat × Nat) :=
  (m.exts.filter fun x => decide (x.1 ≠ e) && decide (2 ≤ extState x.2) && decide (extState x.2 ≤ 6)
      && decide (extVcs x.2 = vcs) && decide (extRegion x.2 = region)).map fun x =>
    (extBlock x.2, match (m.extAux x.1).size with
      | some n => 2 ^ n
      | none => 1)

/-- Blocks b to b + n - 1 of a region lie within it, are aligned to n and free. -/
def Mod.spanFree (m : Mod) (e vcs region b n : Nat) : Bool :=
  decide (b % n = 0) && decide (region < m.objv (mkOid 4 (0x100 + vcs) 3)) && decide (b + n ≤ 4096) &&
  (m.takenBlocks e vcs region).all fun t => decide (t.1 + t.2 ≤ b) || decide (b + n ≤ t.1)

/-- DPA of the first byte of block b of region r: regions follow each other (R227, R393). -/
def regionSpan : Nat := 4096 * 2 ^ 28
def dpaOf (region block : Nat) : Nat := region * regionSpan + block * 2 ^ 28

/-- The extent of a VCS a DPA falls in, and the byte offset in it. -/
def Mod.extentAt (m : Mod) (vcs dpa : Nat) : Option (Nat × Nat × Nat) :=
  (m.exts.find? fun x =>
    decide (3 ≤ extState x.2) && decide (extState x.2 ≤ 6) && decide (extVcs x.2 = vcs) &&
    (let b := dpaOf (extRegion x.2) (extBlock x.2)
     decide (b ≤ dpa) && decide (dpa < b + 2 ^ ((m.extAux x.1).size.getD 0) * 2 ^ 28))).map fun x =>
    (x.1, x.2, dpa - dpaOf (extRegion x.2) (extBlock x.2))

/-! States of parcels. -/

/-- A parcel is poisoned, with EV-0905 (R415, R418). -/
def Mod.poisonParcel (m : Mod) (i : Nat) : Mod := (m.setDState i 5).raise (evt 0x0905 Loc.module i)

/-- BINDS of a parcel becomes n: free and bound follow it (R389). -/
def Mod.setBinds (m : Mod) (i n : Nat) : Mod :=
  let m1 := m.setDesc 0 i (setFld (m.d0 i) 0 16 n)
  if m.dState i = 1 ∨ m.dState i = 2 then m1.setDState i (if n = 0 then 1 else 2) else m1

/-- Write the reserve copy's fields to the partner (R396): every word but the targets, STATE, PARTNER and PIDX. -/
def Mod.copyToPartner (m : Mod) (i : Nat) : Mod :=
  let p := m.dPartner i
  let pidx := fld (m.objv (descOid 1 i)) 0 16
  if p = 0 ∨ m.dState i = 0 ∨ m.dState i = 6 then m
  else if bit (m.objv (bearingOid p)) 63 then
    let d0 := setFld (setFld (setFld (m.d0 i) 61 3 6) 21 12 m.rt.id) 20 1 0
    let d1 := setFld (m.objv (descOid 1 i)) 0 16 i
    (m.firmwareDesc p pidx [(descOid 0 pidx, d0), (descOid 1 pidx, d1)]).firmwareWrite p (descOid 6 pidx) 8 (m.objv (descOid 6 i))
  else
    (m.setDesc 0 i (setFld (m.d0 i) 20 1 1)).onPo fun b =>
      { b with stale := tset (0, 0) i ((match tget (0, 0) i b.stale with
        | (0, _) => m.now + 1
        | (t, _) => t), m.now + 1) b.stale }

/-- Count a cache counter 9.020.0n (R417). -/
def Mod.cacheCount (m : Mod) (n : Nat) : Mod := m.bump (mkOid 9 0x020 n) 1

end Sys2Proof.Machine
end

