-- ==== Sys2Proof/Machine/CacheOps.lean ====
section
/-! DEFINITION. Operations of the memory-side cache: lines, ways, snoop filter, requests to the home, grants and
their completion, the cache table (R242 to R246, R410 to R413, R424, R442 to R448, R453 to R459). -/
namespace Sys2Proof.Machine

def Mod.cline (m : Mod) (l : Nat) : Line := tget {} l m.ca.lines
def Mod.onLine (m : Mod) (l : Nat) (f : Line → Line) : Mod := m.onCa fun b => { b with lines := tmod {} l f b.lines }

/-- The line as a key of the home's tables. -/
def dirKey (l : Nat) : Nat := l % 2 ^ 64
def homeLine (m : Mod) (d : Nat) : Nat := m.rt.id * 2 ^ 64 + d

/-! Bytes of a line; byte 0 is the most significant. -/

def lineByte (v i : Nat) : Nat := v / 256 ^ (63 - i) % 256
def setLineByte (v i b : Nat) : Nat := v - lineByte v i * 256 ^ (63 - i) + b % 256 * 256 ^ (63 - i)

def fullMask : Nat := 2 ^ 64 - 1

def writeMask (mask data old : Nat) : Nat :=
  (List.range 64).foldl (fun v i => if bit mask i then setLineByte v i (lineByte data i) else v) old

/-- An operand of size bytes at byte off, little-endian as in host memory. -/
def lineField (v off size : Nat) : Nat := ofBytesLE ((List.range size).map fun i => lineByte v (off + i))
def setLineField (v off size x : Nat) : Nat :=
  (List.range size).foldl (fun v i => setLineByte v (off + i) (x / 256 ^ i)) v

def applyEdit (old : Nat) : Edit → Nat
  | .none => old
  | .bytes mask data => writeMask mask data old
  | .atomic op size off a cmp =>
    let x := lineField old off size
    if op = 0 then setLineField old off size ((x + a) % 256 ^ size)
    else if op = 1 then setLineField old off size a
    else if x = cmp then setLineField old off size a else old

/-- The edit writes all 64 bytes. -/
def Edit.whole : Edit → Bool
  | .bytes mask _ => decide (mask % 2 ^ 64 = fullMask)
  | .none => false
  | .atomic _ _ _ _ _ => false

/-! Where a line lives. -/

def Mod.cacheSet (m : Mod) (l : Nat) : Nat := Config.cacheHash (Config.random m.ca.key) (m.cachedAddr l) % 2 ^ 24
/-- Channel 8 (p mod 3) + (set mod 8), p the keyed permutation of set [23:3] (R404). -/
def Mod.lineChannel (m : Mod) (l : Nat) : Nat :=
  8 * (Config.lineHash 3 (Config.random m.ca.key) (m.cacheSet l / 8) % 2 ^ 21 % 3) + m.cacheSet l % 8
def Mod.cacheDie (m : Mod) (l : Nat) : Nat := m.lineChannel l / 12
def Mod.filterSet (m : Mod) (l : Nat) : Nat := Config.lineHash 4 (Config.random m.ca.key) l % 131072

/-- The tenant charged for a line's packets: the extent naming the parcel, or its owner (R364). -/
def Mod.lineTenant (m : Mod) (l : Nat) : Nat :=
  if lineHome l = m.rt.id then fld (m.d0 (lineDesc l)) 33 8
  else
    match m.exts.find? fun x => m.extParcel x.1 x.2 = (lineHome l, lineDesc l) with
    | some x => extTenant x.2
    | none => 0

/-! Messages. -/

/-- Send a coherence message, counted by kind (A.040). -/
def Mod.sendCoh (m : Mod) (blk : Block) (die : Nat) (k : MsgKind) (p : Pkt) (tenant : Nat := 0) : Mod :=
  (m.bump (mkOid 0xA 0x040 (msgNo k)) 1).originate blk die p none tenant

def tc0Kind : Tc0 → MsgKind
  | .rdShared => .rdShared | .rdOwn => .rdOwn | .upgrade => .upgrade | .wbDirty => .wbDirty | .evictExcl => .evictExcl
  | .flushOwned => .flushOwned

/-- Unexpected message: discarded, counted, EV-0A05 at most once per second per die (R456). -/
def Mod.cohErr (m : Mod) (die : Nat) : Mod := (m.bump 0xA06001 1).raiseOnce (evt 0x0A05 (Loc.ofDie die)) die

/-! The home's transactions as far as the cache needs them. -/

def Mod.txn (m : Mod) (d : Nat) : Option Txn := tget none d (m.ho.txns.map fun x => (x.1, some x.2))
def Mod.setTxn (m : Mod) (d : Nat) (t : Txn) : Mod := m.onHo fun b => { b with txns := tins d t b.txns }
def Mod.endTxn (m : Mod) (d : Nat) : Mod := m.onHo fun b => { b with txns := tdel d b.txns }
def Mod.dent (m : Mod) (d : Nat) : DEnt := tget {} d m.ho.dir
def Mod.setDent (m : Mod) (d : Nat) (e : DEnt) : Mod :=
  m.onHo fun b => { b with dir := if e.st = .uncached then tdel d b.dir else tins d e b.dir }
def Mod.homeQueue (m : Mod) (d : Nat) : List HReq := tget [] d m.ho.queue
def Mod.setHomeQueue (m : Mod) (d : Nat) (q : List HReq) : Mod := m.onHo fun b => { b with queue := tset [] d q b.queue }

def freeKind5 (m : Mod) : Option Nat → Mod
  | some k => m.freeTrk k
  | none => m

/-- The die, slice and set of a home line, and its ledger set (R404, R426). -/
def Mod.homeDie (m : Mod) (d : Nat) : Nat := Config.lineHash 0 (Config.random m.ca.key) d % 2
def Mod.sliceOf (m : Mod) (d : Nat) : Nat := Config.lineHash 5 (Config.random m.ca.key) d % 16
def Mod.chipSet (m : Mod) (d : Nat) : Nat :=
  m.homeDie d * 2 ^ 17 + m.sliceOf d * 2 ^ 13 + Config.lineHash 1 (Config.random m.ca.key) d % 8192
def Mod.ledgerSet (m : Mod) (d : Nat) : Nat := Config.lineHash 2 (Config.random m.ca.key) d % 2 ^ 23
/-- Channel of a line's ledger set: the spec names none, so it is a free value of the set. -/
def Mod.ledgerChannel (m : Mod) (d : Nat) : Nat := Config.lineHash 6 (Config.random m.ca.key) (m.ledgerSet d) % 24

/-- A directory state is written in the slot the entry has, or the one reserved for it; entering Broadcast raises EV-0A03. -/
def Mod.writeDent (m : Mod) (d : Nat) (slot : Option (Bool × Nat)) (e : DEnt) : Mod :=
  let old := m.dent d
  let place := if old.st = .uncached then slot.getD (true, 0) else (old.chip, old.way)
  let m1 := m.setDent d { e with chip := place.1, way := place.2, age := old.age }
  if e.st = .broadcast ∧ old.st ≠ .broadcast then m1.raiseOnce (evt 0x0A03 (Loc.ofDie (m.homeDie d))) (m.homeDie d) else m1

/-- A transaction ends: the state of R439 is written, by KEPT where it depends on it (R438). -/
def Mod.homeEnd (m : Mod) (d : Nat) (kept : Bool) : Mod :=
  match m.txn d with
  | none => m
  | some t =>
    let e := match t.nextDrop with
      | some x => if kept then t.next else x
      | none => t.next
    let m1 := (m.endTxn d).writeDent d t.slot e
    match t.req with
    | some r => freeKind5 m1 r.trk
    | none => m1

/-- A request to a unit, counted in the monitor's window (R406). -/
def Mod.unitHit (m : Mod) (u : Nat) : Mod := m.onPo fun b => { b with hits := tmod 0 u (· + 1) b.hits }

/-- A request reaches its line's Cadastre slice and wait queue (R406, R436). -/
def Mod.enqueue (m : Mod) (d : Nat) (r : HReq) : Mod :=
  let q := m.homeQueue d ++ [r]
  ((m.unitHit (32 + 32 * m.homeDie d + m.sliceOf d)).setHomeQueue d q).when (decide (m.objv 0xA00103 < q.length)) (·.setObj 0xA00103 q.length)

/-- The die whose slices give an entry that no port's access causes: that of the line's Cadastre slice where it is homed here, else that of its
cache set (R346). -/
def Mod.entryDie (m : Mod) (l : Nat) : Nat := if lineHome l = m.rt.id then m.homeDie (dirKey l) else m.cacheDie l

/-- Kind 5 entry of a requester or a home (R346, R347). -/
def Mod.kind5 (m : Mod) (port : Option Nat) (die : Nat) : Option (Mod × Nat) :=
  (m.allocTrk port die { kind := 5 }).map fun x => (x.1.dieCtr (x.2 / 65536) (264 + 8 * (x.2 % 65536 / 16384) + 6) 1, x.2)

/-- Send a TC0 message for a line to its home; a home on this module takes it into the line's queue (R436). -/
def Mod.sendHome (m : Mod) (l : Nat) (op : Tc0) (pref keep : Bool) (data : Nat) (poison : Bool) (port : Option Nat) (tenant : Nat)
    (blk : Block := .cache) : Mod :=
  if lineHome l = m.rt.id then
    let r : HReq := { op := tc0Code op, from_ := m.rt.id, pref := pref, keep := keep, poison := poison, data := data }
    match m.kind5 port (m.entryDie l) with
    | some (m1, k) => m1.enqueue (dirKey l) { r with trk := some k }
    | none => m.enqueue (dirKey l) r
  else m.sendCoh blk (m.cacheDie l) (tc0Kind op) (tc0Pkt m.rt.id op l pref keep data poison) tenant

/-! Answers. -/

/-- A General Media event record for a failed write, with the host PF's event vector (R500). -/
def Mod.mediaEvent (m : Mod) (vcs dpa : Nat) : Mod :=
  let m1 := m.onEd fun b => { b with vcs := tmod {} vcs (fun s => { s with mediaLog := dpa :: s.mediaLog.take 255 }) b.vcs }
  m1.hostEvent vcs 2

/-- DPA of a line in a VCS, by the extent that names its parcel. -/
def Mod.dpaOfLine (m : Mod) (vcs l : Nat) : Nat :=
  match m.exts.find? fun x => extVcs x.2 = vcs ∧ m.extParcel x.1 x.2 = (lineHome l, lineDesc l) with
  | some x => dpaOf (extRegion x.2) (extBlock x.2) + lineOff l
  | none => 0

/-- A host's write, combined with others, is done: its Cmp, and the report of a failure (R486, R500). -/
def Mod.ackWrite (m : Mod) (err : Bool) (k : Nat) : Mod :=
  let t := m.trk k
  let m1 := m.liveDone t.ref err
  match t.port with
  | none => m1.freeTrk k
  | some p =>
    let m2 := if err then (match m.vcsOfPort p with
      | some v => m1.mediaEvent v (m.dpaOfLine v t.addr)
      | none => m1) else m1
    if t.orphan then m2.releaseOrphan k
    else if t.discard then (m2.bump (mkOid 4 (0x080 + p) 4) 1).freeTrk k
    else (m2.answerHost p t.tag 0 false 0 t.tenant).freeTrk k

/-- A kind 3 entry completes: its host is answered, with the pieces read before it; an orphan is released; after a removal or reset the
answer is counted and discarded (R130, R239, R350, R490). -/
def Mod.memDone (m : Mod) (k code : Nat) (poison : Bool) (data : Nat) : Mod :=
  let t := m.trk k
  let err := decide (code ≠ 0)
  let m1 := m.each t.acks fun a m => m.ackWrite err a
  match t.port with
  | none => (m1.liveDone t.ref err).freeTrk k
  | some p =>
    let key := 65536 * p + t.tag
    let whole := if t.piece = 0 then data else writeMask t.piece data (tget 0 key m.br.parts)
    let m2 := (m1.liveDone t.ref err).onBr fun b => { b with parts := tset 0 key (if t.silent then whole else 0) b.parts }
    if t.orphan then m2.releaseOrphan k
    else if t.silent then m2.freeTrk k
    else if t.discard then (m2.bump (mkOid 4 (0x080 + p) 4) 1).freeTrk k
    else if t.span ≠ 0 then
      let size := (t.span - 1) / 64
      let ok := headerUnit 0 size false poison p (withKind 0 0x4A) ++ dataWords size (lineField data ((t.span - 1) % 64) size)
      (m2.completeTo p t.tag t.tenant (if code = 0 then 0 else 8) poison (if code = 0 then ok else [])).freeTrk k
    else (m2.answerHost p t.tag code poison whole t.tenant).freeTrk k

/-- Answer a host's or engine's access: code 0 done, 1 Unsupported Request, 2 Completer Abort. A host's answer leaves by its port's
TC2 queue; an orphan is released, and after a removal or reset the answer is counted and discarded (R130, R239, R350). -/
def Mod.answerWho (m : Mod) (w : Who) (code : Nat) (poison : Bool) (data : Nat) : Mod :=
  match w with
  | .none => m
  | .host port tag k =>
    if (m.trk k).kind = 0 then m.answerHost port tag code poison data 0 else m.memDone k code poison data
  | .mover qp id =>
    (m.liveDone id (decide (code ≠ 0))).onCa fun b => { b with results := b.results ++ [(qp, id, data, poison, if code = 0 then 0 else 8)] }
  | .remote sw tid =>
    if code = 0 then
      m.originate .home 0 { tc := 2, len := 3, dest := sw, src := m.rt.id, poison := poison, body := bridgeBody 0 1 tid 0 0,
                            data := headerUnit 0 64 false poison 63 0 ++ lineWords data }
    else
      m.originate .home 0 { tc := 2, len := 1, dest := sw, src := m.rt.id, body := bridgeBody 0 3 tid 0 8,
                            data := headerUnit 0 0 false false 63 0 }

/-- The CODE of R500 for the error form's CODE of R449. -/
def ioCode (code : Nat) : Nat := if code = 1 then 8 else if code = 2 then 6 else if code = 3 then 1 else 2

/-- An access ends with an error: a host's read in poisoned data; a host's write in Cmp, its line held poisoned and logged; a
descriptor's with its code (R450, R500). -/
def Mod.failAccess (m : Mod) (l : Nat) (a : Access) (code : Nat) : Mod :=
  match a.who with
  | .mover qp id => (m.liveDone id true).onCa fun b => { b with results := b.results ++ [(qp, id, 0, true, ioCode code)] }
  | _ =>
  match a.kind with
  | .write =>
    let m1 := m.onLine l fun s => { s with poison := true }
    match (match a.edit with
      | .atomic _ _ _ _ _ => Who.none
      | _ => a.who) with
    | .host port _ k =>
      let m2 := (m1.liveDone (m1.trk k).ref true).answerWho a.who 0 false 0
      match m.vcsOfPort port with
      | some v => m2.mediaEvent v (m.dpaOfLine v l)
      | none => m2
    | _ => m1.answerWho a.who 2 true 0
  | _ => m.answerWho a.who 0 true 0

/-! Ways (R411). -/

/-- Lines of the set of l that hold a way. -/
def Mod.waysUsed (m : Mod) (l : Nat) : List (Nat × Nat) :=
  (m.ca.lines.filter fun x => x.2.way.isSome && decide (m.cacheSet x.1 = m.cacheSet l)).map fun x => (x.2.way.getD 0, x.1)

/-- The victim of a full set: the first way with RRPV 3 after all have been raised as often as needed. -/
def Mod.victim (m : Mod) (l : Nat) : Option Nat :=
  let c := (m.waysUsed l).filter fun x => let s := m.cline x.2; s.st.stable && s.pend.isEmpty && s.wait.isEmpty
  let top := c.foldl (fun t x => max t (m.cline x.2).rrpv) 0
  let best := c.filter fun x => (m.cline x.2).rrpv = top
  match best with
  | [] => none
  | x :: t => some (t.foldl (fun b y => if y.1 < b.1 then y else b) x).2

/-- The port whose tracker cap the access at the head of a line counts against (R346). -/
def Mod.capOf (m : Mod) (l : Nat) : Option Nat := (m.cline l).wait.head?.bind fun a => a.port.or a.cap

/-- Give a filled line a way: a free one, or that of a victim once its eviction ends. The victim's RRPV is raised to 3 with
those of its set. -/
def Mod.takeWay (m : Mod) (l : Nat) : Mod :=
  if (m.cline l).way.isSome then m
  else
    let used := m.waysUsed l
    match (List.range 16).find? fun w => !(used.any fun x => x.1 == w) with
    | some w => m.onLine l fun s => { s with way := some w }
    | none =>
      match m.victim l with
      | none => m
      | some v =>
        let up := 3 - (m.cline v).rrpv
        let m1 := m.each used fun x m => m.onLine x.2 fun s => { s with rrpv := min 3 (s.rrpv + up) }
        m1.onLine v fun s => { s with pend := s.pend ++ [.evict (.victim (m.capOf l))] }

/-- A line leaves the cache: its way goes to a filled line of the set that has none. -/
def Mod.dropLine (m : Mod) (l : Nat) : Mod :=
  let s := m.cline l
  let m1 := m.onLine l fun s => { wait := s.wait, pend := s.pend, poison := false, sent := s.sent, fwd := s.fwd }
  match s.way with
  | none => m1
  | some _ =>
    match m1.ca.lines.find? fun x => decide (x.2.st ≠ .i) && x.2.way.isNone && decide (m1.cacheSet x.1 = m1.cacheSet l) with
    | some x => m1.takeWay x.1
    | none => m1

/-! The snoop filter (R243, R245). -/

def Mod.filt (m : Mod) (l : Nat) : SfEnt := tget {} l m.ed.filter
def Mod.setFilt (m : Mod) (l : Nat) (e : SfEnt) : Mod := m.onEd fun b => { b with filter := tset {} l e b.filter }

/-- Filter statistics of a line's slice: event k of R583, with the module's totals of victims and of snoops sent (4.3F0). -/
def Mod.filtCtr (m : Mod) (l k : Nat) : Mod :=
  let r := m.filterSet l / 16384
  let m1 := m.dieCtr (r / 4) (296 + 8 * (r % 4) + k) 1
  if k = 2 then m1.bump 0x43F002 1 else if k = 3 ∨ k = 4 then m1.bump 0x43F003 1 else m1

/-- Holders a pending entry snoops, and how (R245). -/
def Mod.toSnoop (m : Mod) (l : Nat) (p : Pend) : List (Nat × SnpKind) :=
  let f := m.filt l
  let all := f.vec.map fun n => (n, SnpKind.inv)
  match p with
  | .msg 0 _ _ => if f.x then f.vec.map fun n => (n, SnpKind.data) else []
  | .home 0 => if f.x then f.vec.map fun n => (n, SnpKind.data) else []
  | .msg _ _ _ => all
  | .home _ => all
  | .evict _ => all
  | .filter => all
  | .access =>
    match (m.cline l).wait with
    | [] => []
    | a :: _ =>
      let others := f.vec.filter fun n => some n ≠ a.port
      match a.kind with
      | .readAny => others.map fun n => (n, SnpKind.inv)
      | .write => others.map fun n => (n, SnpKind.inv)
      | _ => if f.x then others.map fun n => (n, SnpKind.data) else []

/-- The filter after the responses (R245). -/
def Mod.filtAfter (m : Mod) (l : Nat) (p : Pend) : Mod :=
  let f := m.filt l
  match p with
  | .msg 0 _ _ => m.setFilt l { f with x := false }
  | .home 0 => m.setFilt l { f with x := false }
  | .access =>
    match (m.cline l).wait with
    | [] => m
    | a :: _ =>
      match a.kind with
      | .readAny => m.setFilt l { vec := f.vec.filter fun n => some n = a.port, x := f.x }
      | .write => m.setFilt l { vec := f.vec.filter fun n => some n = a.port, x := f.x && f.vec.any fun n => some n == a.port }
      | _ => if f.vec.any (fun n => some n ≠ a.port) then m.setFilt l { f with x := false } else m
  | _ => m.setFilt l {}

/-- Send one snoop, or hold it while 256 are outstanding to the port (R246). -/
def Mod.snoop (m : Mod) (l n : Nat) (k : SnpKind) : Mod :=
  let go := decide ((m.ed.snoops.filter fun s => s.port = n ∧ s.sent = true).length < 256)
  let m1 := m.onEd fun b => { b with snoops := b.snoops ++ [{ port := n, line := l, kind := k, sent := go }] }
  if go then
    ((m1.sendSnoop n l k).portCtr n 19 1).filtCtr l (match k with
      | .data => 3
      | .inv => 4)
  else m1

/-! Requests. -/

/-- A transaction starts at the requester: the line enters its transient state and holds a kind 5 entry (R453). With none to
be had, the access waits (R346). -/
def Mod.issue (m : Mod) (l : Nat) (op : Tc0) (pref : Bool) (st : CSt) (a : Access) : Mod :=
  match m.kind5 (a.port.or a.cap) (m.entryDie l) with
  | none => match a.port.or a.cap with
    | some p => m.trkStall p
    | none => m
  | some (m1, k) =>
    (m1.onLine l fun s => { s with st := st, trk := some k, acks := 0, need := none }).sendHome l op pref false 0 false (a.port.or a.cap) a.tenant (if a.cap.isSome ∧ a.kind ≠ .prefetch then .mover else .cache)

/-- Send an eviction of a line, counted as a write-back or an eviction (9.020.05, 9.020.06). -/
def Mod.sendEvict (m : Mod) (l : Nat) (op : Tc0) (st : CSt) (cap : Option Nat := none) : Mod :=
  let s := m.cline l
  let m1 := m.cacheCount (if op = .evictExcl then 6 else 5)
  let m2 := match m1.kind5 cap (m.entryDie l) with
    | some (m2, k) => m2.onLine l fun s => { s with trk := some k }
    | none => m1
  (m2.onLine l fun s => { s with st := st, owed := 1 }).sendHome l op false false s.data s.poison cap (m.lineTenant l)

/-- Write a line of a WT parcel through: one more WbDirty with KEEP outstanding (R448, R454). -/
def Mod.writeThrough (m : Mod) (l : Nat) (a : Option Access) : Mod :=
  let s := m.cline l
  let cap := match a with
    | some x => x.port.or x.cap
    | none => m.capOf l
  let m1 := if s.trk.isSome then m else
    match m.kind5 cap (m.entryDie l) with
    | some (m1, k) => m1.onLine l fun s => { s with trk := some k }
    | none => m
  let m2 := m1.onLine l fun s =>
    { s with st := .meA, owed := (if s.st = .meA then s.owed else 0) + 1, through := s.through ++ [a.getD { kind := .prefetch }] }
  m2.sendHome l .wbDirty false true s.data s.poison cap (m.lineTenant l)

/-- The Cmp of a completed transaction, when one is owed (R444). -/
def Mod.sendCmp (m : Mod) (l : Nat) (kept : Bool) : Mod :=
  if lineHome l = m.rt.id then m.homeEnd (dirKey l) kept
  else m.sendCoh .cache (m.cacheDie l) .cmp (tc2Pkt m.rt.id (lineHome l) 3 l (16 + b2n kept) 0 false)

/-! Filling and completing (R443). -/

/-- Fill a line: RRPV 2, or 3 with PFL for a prefetch (R411). -/
def Mod.fill (m : Mod) (l : Nat) (st : CSt) : Mod :=
  let pre := match (m.cline l).wait with
    | a :: _ => decide (a.kind = .prefetch)
    | [] => true
  let m1 := m.onLine l fun s =>
    { s with st := st, rrpv := if pre then 3 else 2, pfl := pre,
             wait := if pre then s.wait.drop 1 else s.wait }
  (m1.cacheCount (if pre then 4 else 3)).takeWay l

/-- The transaction of a line is complete: its entry is freed and Cmp sent when owed (R443, R444). -/
def Mod.complete (m : Mod) (l : Nat) (kept : Bool) : Mod :=
  let s := m.cline l
  let m1 := freeKind5 m s.trk
  let m2 := m1.onLine l fun s => { s with trk := none, acks := 0, need := none }
  if s.fromHome = false ∨ s.need.getD 0 ≠ 0 then m2.sendCmp l kept else m2

/-- An ownership request ends when its InvAcks have come: the line is M (R443). A line of a WT parcel whose data another
module sent is written through at once (R459). -/
def Mod.ownCheck (m : Mod) (l : Nat) (dataCame : Bool) : Mod :=
  let s := m.cline l
  if s.need = some s.acks then
    let wt := decide ((m.lineAttr l).1 = 1) && dataCame && !s.fromHome
    let m1 := (m.complete l false).onLine l fun s => { s with st := .m }
    let m2 := if s.way.isSome then m1 else m1.fill l .m
    if wt then m2.writeThrough l none else m2
  else m

/-- The forward slot is emptied into the line's pending work once the grant has been applied (R455). -/
def Mod.releaseFwd (m : Mod) (l : Nat) : Mod :=
  match (m.cline l).fwd with
  | some (op, req, acks) =>
    if (m.cline l).st = .isD ∨ (m.cline l).st = .isDI ∨ (m.cline l).st = .imAD ∨ (m.cline l).st = .imA ∨ (m.cline l).st = .smA ∨
        (m.cline l).st = .omA then m
    else m.onLine l fun s => { s with fwd := none, pend := s.pend ++ [.msg op req acks] }
  | none => m

/-- Data, a shared copy: from the home or an owner (R456). -/
def Mod.rxData_ (m : Mod) (l : Nat) (fromHome kept : Bool) (data : Nat) (poison : Bool) : Mod :=
  let s := m.cline l
  let put := m.onLine l fun s => { s with data := data, poison := poison, fromHome := fromHome, need := some 0 }
  match s.st with
  | .isD => (((put.complete l kept).fill l .s)).releaseFwd l
  | .isDI =>
    let m1 := put.complete l kept
    let m2 := match s.wait with
      | a :: _ => m1.answerWho a.who 0 poison data
      | [] => m1
    ((m2.onLine l fun s => { s with wait := s.wait.drop 1 }).dropLine l).releaseFwd l
  | _ => m.cohErr (m.cacheDie l)

/-- DataOwned with its ACKS (R456). -/
def Mod.rxOwned (m : Mod) (l : Nat) (fromHome : Bool) (acks data : Nat) (poison : Bool) : Mod :=
  let s := m.cline l
  let take := fun (st : CSt) => m.onLine l fun s => { s with data := data, poison := poison, fromHome := fromHome, need := some acks, st := st }
  match s.st with
  | .isD => (((take .isD).complete l false).fill l .e).releaseFwd l
  | .isDI => (((take .isD).complete l false).fill l .e).releaseFwd l
  | .imAD => ((take .imA).ownCheck l true).releaseFwd l
  | .smAD => ((take .imA).ownCheck l true).releaseFwd l
  | .omAD => ((m.onLine l fun s => { s with fromHome := fromHome, need := some acks, st := .omA }).ownCheck l true).releaseFwd l
  | _ => m.cohErr (m.cacheDie l)

/-- InvAck counted (R456). -/
def Mod.rxInvAck (m : Mod) (l : Nat) : Mod :=
  let m1 := m.onLine l fun s => { s with acks := s.acks + 1 }
  match (m.cline l).st with
  | .imAD | .smAD | .omAD => m1
  | .imA | .omA => (m1.ownCheck l true).releaseFwd l
  | .smA => (m1.ownCheck l false).releaseFwd l
  | _ => m.cohErr (m.cacheDie l)

/-- One Ack fewer owed: the state when none remains. -/
def Mod.oneFewer (m : Mod) (l : Nat) (st : CSt) : Mod :=
  let s := m.cline l
  if s.owed ≤ 1 then
    let m1 := (freeKind5 m s.trk).onLine l fun s => { s with owed := 0, trk := none, st := st }
    if st = .i then m1.dropLine l else m1
  else m.onLine l fun s => { s with owed := s.owed - 1 }

/-- The host write behind the oldest write-through completes, or fails (R448, R458). -/
def Mod.throughDone (m : Mod) (l : Nat) (ok : Bool) (code : Nat := 0) : Mod :=
  match (m.cline l).through with
  | [] => m
  | a :: t =>
    let m1 := m.onLine l fun s => { s with through := t }
    if ok then m1.answerWho a.who 0 false 0 else m1.failAccess l a code

/-- Ack in the grant form (R456). -/
def Mod.rxAck (m : Mod) (l acks : Nat) : Mod :=
  let s := m.cline l
  let own := fun (st : CSt) => m.onLine l fun s => { s with need := some acks, fromHome := true, st := st }
  match s.st with
  | .smAD => ((own .smA).ownCheck l false).releaseFwd l
  | .omAD => ((own .omA).ownCheck l false).releaseFwd l
  | .meA => (m.throughDone l true).oneFewer l .e
  | .owA => (m.throughDone l true).oneFewer l .o
  | .miA | .eiA | .oiA => ((freeKind5 m s.trk).onLine l fun s => { s with trk := none, owed := 0 }).dropLine l
  | .iiA => (m.throughDone l true).oneFewer l .i
  | _ => m.cohErr (m.cacheDie l)

/-- An eviction ended in the error form: the line is stable again, RRPV 0, EV-0A05; the fill that needed its way selects
again (R458). -/
def Mod.evictFailed (m : Mod) (l : Nat) (st : CSt) : Mod :=
  let m1 := (freeKind5 m (m.cline l).trk).onLine l fun s => { s with st := st, rrpv := 0, trk := none, owed := 0, flushFor := false }
  let m2 := m1.raiseOnce (evt 0x0A05 (Loc.ofDie (m.cacheDie l))) (m.cacheDie l)
  match m2.ca.lines.find? fun x => decide (x.2.st ≠ .i) && x.2.way.isNone && decide (m2.cacheSet x.1 = m2.cacheSet l) with
  | some x => m2.takeWay x.1
  | none => m2

/-- The request at the head of a line ends in an error: the line is I (R450). -/
def Mod.requestFailed (m : Mod) (l code : Nat) : Mod :=
  let s := m.cline l
  let m1 := ((freeKind5 m s.trk).onLine l fun s => { s with trk := none, wait := s.wait.drop 1 }).dropLine l
  match s.wait with
  | a :: _ => m1.failAccess l a code
  | [] => m1

/-- Ack in the error form (R456, R458). -/
def Mod.rxAckErr (m : Mod) (l code : Nat) : Mod :=
  let s := m.cline l
  match s.st with
  | .isD | .isDI | .imAD | .smAD => (m.requestFailed l code).releaseFwd l
  | .omAD =>
    let m1 := (freeKind5 m s.trk).onLine l fun s => { s with trk := none, wait := s.wait.drop 1, acks := 0, need := none }
    let m2 := match s.wait with
      | a :: _ => m1.failAccess l a code
      | [] => m1
    (m2.sendEvict l .flushOwned .oiA ((s.wait.head?).bind fun a => a.port.or a.cap)).releaseFwd l
  | .meA => (m.throughDone l false code).oneFewer l .m
  | .owA => (m.throughDone l false code).oneFewer l .o
  | .miA => m.evictFailed l .m
  | .eiA => m.evictFailed l .e
  | .oiA => m.evictFailed l .o
  | .iiA => (m.throughDone l false code).oneFewer l .i
  | _ => m.cohErr (m.cacheDie l)

/-! Forwards and invalidations (R442, R456). -/

/-- Data to the requester with KEPT, the line's state after. -/
def Mod.ansShared (m : Mod) (l req : Nat) (kept : Bool) (st : CSt) : Mod :=
  let s := m.cline l
  (m.sendCoh .cache (m.cacheDie l) .data (tc2Pkt m.rt.id req 0 l (b2n kept) s.data s.poison)).onLine l fun s => { s with st := st }

/-- DataOwned to the requester with ACKS; the line is given away. -/
def Mod.ansOwned (m : Mod) (l req acks : Nat) (st : CSt) : Mod :=
  let s := m.cline l
  let m1 := m.sendCoh .cache (m.cacheDie l) .dataOwned (tc2Pkt m.rt.id req 1 l acks s.data s.poison)
  if st = .i then m1.dropLine l else m1.onLine l fun s => { s with st := st }

def Mod.ansInv (m : Mod) (l req : Nat) (st : CSt) : Mod :=
  let m1 := m.sendCoh .cache (m.cacheDie l) .invAck (tc2Pkt m.rt.id req 3 l 0 0 false)
  if st = .i then m1.dropLine l else m1.onLine l fun s => { s with st := st }

/-- FwdShared by state, after the host tier. -/
def Mod.doFwdShared (m : Mod) (l req : Nat) : Mod :=
  match (m.cline l).st with
  | .m => m.ansShared l req true .o
  | .o => m.ansShared l req true .o
  | .e => m.ansShared l req false .s
  | .omAD => m.ansShared l req true .omAD
  | .meA => m.ansShared l req true .owA
  | .owA => m.ansShared l req true .owA
  | .miA => m.ansShared l req true .oiA
  | .eiA => m.ansShared l req false .iiA
  | .oiA => m.ansShared l req true .oiA
  | .isD | .isDI | .imAD => m.onLine l fun s => { s with fwd := some (0, req, 0) }
  | .i | .s | .imA | .smAD | .smA | .omA | .iiA => m.cohErr (m.cacheDie l)

/-- FwdOwn by state, after the host tier. -/
def Mod.doFwdOwn (m : Mod) (l req acks : Nat) : Mod :=
  match (m.cline l).st with
  | .m | .o | .e => m.ansOwned l req acks .i
  | .omAD =>
    if req = m.rt.id then
      (m.onLine l fun s => { s with fromHome := false, need := some acks, st := .omA }).ownCheck l false
    else m.ansOwned l req acks .imAD
  | .meA | .owA => m.ansOwned l req acks .iiA
  | .miA | .eiA | .oiA => m.ansOwned l req acks .iiA
  | .isD | .isDI | .imAD => m.onLine l fun s => { s with fwd := some (1, req, acks) }
  | .i | .s | .imA | .smAD | .smA | .omA | .iiA => m.cohErr (m.cacheDie l)

/-- Inv by state, after the host tier; one whose REQ is the home takes data from M, E and O copies (R457). -/
def Mod.doInv (m : Mod) (l req : Nat) : Mod :=
  let home := decide (req = lineHome l)
  match (m.cline l).st with
  | .i => m.ansInv l req .i
  | .s => m.ansInv l req .i
  | .e | .m => if home then m.ansOwned l req 0 .i else m.cohErr (m.cacheDie l)
  | .o => if home then m.ansOwned l req 0 .i else m.ansInv l req .i
  | .isD | .isDI => m.ansInv l req .isDI
  | .imAD | .smAD => m.ansInv l req .imAD
  | .omAD => if home then m.ansOwned l req 0 .imAD else m.ansInv l req .imAD
  | .meA => if home then m.ansOwned l req 0 .iiA else m.cohErr (m.cacheDie l)
  | .miA | .eiA => if home then m.ansOwned l req 0 .iiA else m.cohErr (m.cacheDie l)
  | .owA | .oiA => if home then m.ansOwned l req 0 .iiA else m.ansInv l req .iiA
  | .iiA => m.ansInv l req .iiA
  | .imA | .smA | .omA => m.cohErr (m.cacheDie l)

def Mod.doMsg (m : Mod) (l op req acks : Nat) : Mod :=
  if op = 0 then m.doFwdShared l req else if op = 1 then m.doFwdOwn l req acks else m.doInv l req

/-- An eviction goes ahead from the state that remains once the filter is clear (R446, R467, R471). -/
def Mod.doEvict (m : Mod) (l : Nat) (w : Why) : Mod :=
  let s := m.cline l
  let silent := match w with
    | .flush d => d
    | _ => false
  let cap := match w with
    | .victim c => c
    | _ => none
  if silent then (if s.st.stable then m.dropLine l else m.onLine l fun s => { s with flushFor := false })
  else
    match s.st with
    | .m => m.sendEvict l .wbDirty .miA cap
    | .o => m.sendEvict l .flushOwned .oiA cap
    | .e => m.sendEvict l .evictExcl .eiA cap
    | .s => m.dropLine l
    | _ => m.onLine l fun s => { s with flushFor := false }

end Sys2Proof.Machine
end

