-- ==== Sys2Proof/Machine/HomeOps.lean ====
section
/-! DEFINITION. Operations of the home: directory entries and their places, transactions, grants, recalls, evictions,
UC accesses, lost modules (R426 to R445, R459 to R474). -/
namespace Sys2Proof.Machine

/-- The slice keeps entries on chip: not one left to the ledger alone (R20). -/
def Mod.chipOpen (m : Mod) (d : Nat) : Bool :=
  !(m.fn.ledgerOnly.any fun u => match u with
    | .slice x s => x.val == m.homeDie d && s.val == m.sliceOf d
    | _ => false)

/-- Slice that serves a line: the spare for the one it replaced. -/
def Mod.servingSlice (m : Mod) (d : Nat) : Nat :=
  if tget 0 (m.homeDie d) m.fn.spareFor = m.sliceOf d + 1 then 16 else m.sliceOf d

/-- Count a slice event of a line (R583). -/
def Mod.sliceCtr (m : Mod) (d k : Nat) : Mod := m.dieCtr (m.homeDie d) (128 + 8 * m.servingSlice d + k) 1

/-- A ledger lookup of line d: an access of its channel (R583). -/
def Mod.ledgerLook (m : Mod) (d : Nat) : Mod := ((m.sliceCtr d 2).chCtr (m.ledgerChannel d) 11 1).unitHit (m.ledgerChannel d)

/-- A lookup (R427, R463): counted; an entry found takes the age of its slice's lookup count. -/
def Mod.lookup (m : Mod) (d : Nat) : Mod :=
  let die := m.homeDie d
  let m1 := (m.sliceCtr d 0).bump (mkOid 0xA (0x020 + die) 3) 1
  let e := m1.dent d
  if e.st = .uncached then (m1.bump (mkOid 0xA (0x020 + die) 4) 1).ledgerLook d
  else
    let n := if e.chip then tget 0 (1536 + 384 * die + 128 + 8 * m.servingSlice d) m1.cn.ctr else m1.objv (mkOid 0xA (0x020 + die) 3)
    let m2 := m1.setDent d { e with age := n / 2 ^ 24 % 256 }
    if e.chip then m2.sliceCtr d 1 else (m2.bump (mkOid 0xA (0x020 + die) 4) 1).ledgerLook d

/-- Ways taken in the on-chip set, or slots in the ledger set, of line d: entries and reserved slots (R464). -/
def Mod.takenSlots (m : Mod) (chip : Bool) (d : Nat) : List (Nat × Nat) :=
  let same := fun (x : Nat) => if chip then decide (m.chipSet x = m.chipSet d) else decide (m.ledgerSet x = m.ledgerSet d)
  ((m.ho.dir.filter fun x => (x.2.chip == chip) && same x.1).map fun x => (x.2.way, x.1)) ++
    m.ho.txns.filterMap fun x =>
      match x.2.slot with
      | some (c, w) => if c == chip && same x.1 && decide ((m.dent x.1).st = .uncached) then some (w, x.1) else none
      | none => none

def Mod.freeSlot (m : Mod) (chip : Bool) (d : Nat) : Option Nat :=
  (List.range 16).find? fun w => !((m.takenSlots chip d).any fun x => x.1 == w)

/-- The victim of a set: the non-BUSY entry with the greatest age, the lowest way on a tie (R463). -/
def Mod.slotVictim (m : Mod) (chip : Bool) (d : Nat) : Option Nat :=
  let die := m.homeDie d
  let n := (if chip then tget 0 (1536 + 384 * die + 128 + 8 * m.servingSlice d) m.cn.ctr else m.objv (mkOid 0xA (0x020 + die) 3)) / 2 ^ 24 % 256
  let c := (m.takenSlots chip d).filter fun x => (m.txn x.2).isNone
  match c with
  | [] => none
  | x :: t =>
    let age := fun (y : Nat × Nat) => (n + 256 - (m.dent y.2).age % 256) % 256
    some (t.foldl (fun b y => if age b < age y ∨ (age b = age y ∧ y.1 < b.1) then y else b) x).2

/-- Change the transaction of a line. -/
def Mod.onTxn (m : Mod) (d : Nat) (f : Txn → Txn) : Mod :=
  match m.txn d with
  | some t => m.setTxn d (f t)
  | none => m

def Mod.sendHomeMsg (m : Mod) (d : Nat) (k : MsgKind) (p : Pkt) : Mod := m.sendCoh .home (m.homeDie d) k p

/-- The error form to a requester (R449), with EV-0A01 once per parcel per second. -/
def Mod.homeError (m : Mod) (d : Nat) (r : HReq) (code : Nat) : Mod :=
  let l := homeLine m d
  let m1 := freeKind5 (m.when (decide (r.op < 6)) (·.raiseOnce (evt 0x0A01 Loc.module (d / 2 ^ 48)) (d / 2 ^ 48))) r.trk
  if 6 ≤ r.op then m1.answerWho r.who 2 true 0
  else if r.from_ = m.rt.id then m1.rxAckErr l code
  else m1.sendHomeMsg d .ackErr (ackErrPkt m.rt.id r.from_ l code)

/-- The Ack of an eviction (R445). -/
def Mod.evictAck (m : Mod) (d : Nat) (r : HReq) : Mod :=
  let l := homeLine m d
  if r.from_ = m.rt.id then m.rxAck l 0 else m.sendHomeMsg d .ack (tc2Pkt m.rt.id r.from_ 2 l 0 0 false)

/-! What the directory calls for (R439). -/

/-- Add a sharer; a fifth pointer makes the line Broadcast (R430). -/
def addSharer (e : DEnt) (req : Nat) : DEnt :=
  if req ∈ e.ptrs then e
  else if e.ptrs.length < 4 then { e with ptrs := e.ptrs ++ [req] }
  else { e with st := .broadcast, ptrs := [] }

def ownedBy (req : Nat) : DEnt := { st := .exclusive, owner := req }

/-- The transaction of RdShared. -/
def planShared (e : DEnt) (req : Nat) (excl : Bool) : Txn :=
  match e.st with
  | .uncached => if excl then { grant := .owned, next := ownedBy req } else { grant := .data, next := { st := .shared, ptrs := [req] } }
  | .shared => { grant := .data, next := addSharer e req }
  | .exclusive =>
    { fwd := some (0, e.owner), next := { st := .owned, owner := e.owner, ptrs := [req] },
      nextDrop := some { st := .shared, ptrs := [e.owner, req] } }
  | .owned => { fwd := some (0, e.owner), next := addSharer e req }
  | .broadcast => if e.owner = 0 then { grant := .data, next := e } else { fwd := some (0, e.owner), next := e }

/-- The transaction of RdOwn. -/
def planOwn (e : DEnt) (req : Nat) (members : List Nat) : Txn :=
  match e.st with
  | .uncached => { grant := .owned, next := ownedBy req }
  | .shared => { grant := .owned, inv := without req e.ptrs, next := ownedBy req }
  | .exclusive => { fwd := some (1, e.owner), next := ownedBy req }
  | .owned => { fwd := some (1, e.owner), inv := without e.owner (without req e.ptrs), next := ownedBy req }
  | .broadcast =>
    if e.owner = 0 then { grant := .owned, mcast := without req members, next := ownedBy req }
    else { fwd := some (1, e.owner), mcast := without e.owner (without req members), next := ownedBy req }

/-- The transaction of Upgrade, and whether it is handled as RdOwn. -/
def planUpgrade (e : DEnt) (req : Nat) (members : List Nat) : Txn × Bool :=
  match e.st with
  | .shared => if req ∈ e.ptrs then ({ grant := .ack, inv := without req e.ptrs, next := ownedBy req }, false) else (planOwn e req members, true)
  | .owned =>
    if e.owner = req then ({ grant := .ack, inv := e.ptrs, next := ownedBy req }, false)
    else if req ∈ e.ptrs then ({ grant := .ack, inv := e.owner :: without req e.ptrs, next := ownedBy req }, false)
    else (planOwn e req members, true)
  | _ => (planOwn e req members, true)

/-- The local action a plan needs on the home's own copy: 0 FwdShared, 1 FwdOwn, 2 Inv. -/
def localOp (self : Nat) (t : Txn) : Option Nat :=
  match t.fwd with
  | some (op, o) => if o = self then some op else if self ∈ t.inv ∨ self ∈ t.mcast then some 2 else none
  | none => if self ∈ t.inv ∨ self ∈ t.mcast then some 2 else none

/-! Grants. -/

/-- The home sends the grant: data from the backing or its own copy (R438, R439). -/
def Mod.homeGrant (m : Mod) (d data : Nat) (poison kept : Bool) : Mod :=
  match m.txn d with
  | none => m
  | some t =>
    match t.req with
    | none => m
    | some r =>
      let l := homeLine m d
      let m1 := m.setTxn d { t with busy := .c }
      let m2 :=
        if r.from_ = m.rt.id then
          match t.grant with
          | .data => m1.rxData_ l true kept data poison
          | .owned => m1.rxOwned l true t.acks data poison
          | .ack => m1.rxAck l t.acks
          | .none => m1
        else
          match t.grant with
          | .data => m1.sendHomeMsg d .data (tc2Pkt m.rt.id r.from_ 0 l (b2n kept) data poison)
          | .owned => m1.sendHomeMsg d .dataOwned (tc2Pkt m.rt.id r.from_ 1 l t.acks data poison)
          | .ack => m1.sendHomeMsg d .ack (tc2Pkt m.rt.id r.from_ 2 l t.acks 0 false)
          | .none => m1
      if t.acks = 0 then m2.homeEnd d kept else m2

/-! The broadcast token bucket (R468). -/

def Mod.tokensSpent (m : Mod) (die : Nat) : Nat :=
  tget 0 die m.ho.spent - m.objv 0xA03001 * (m.now - tget 0 die m.ho.refillAt)

/-- A token is there. -/
def Mod.tokenReady (m : Mod) (die : Nat) : Bool := decide (m.tokensSpent die + sec ≤ m.objv 0xA03002 * sec)

def Mod.takeToken (m : Mod) (die : Nat) : Mod :=
  let v := m.tokensSpent die + sec
  (m.onHo fun b => { b with spent := tset 0 die v b.spent, refillAt := tset 0 die m.now b.refillAt }).bump (mkOid 0xA (0x020 + die) 7) 1

/-- Send the forward and the invalidations of a transaction, and then the grant where the home gives it. -/
def Mod.homeGo (m : Mod) (d : Nat) : Mod :=
  match m.txn d with
  | none => m
  | some t =>
    let l := homeLine m d
    let self := m.rt.id
    let req := match t.req with
      | some r => if t.busy = .r then self else r.from_
      | none => self
    let m1 := m.each t.inv fun o m => m.sendHomeMsg d .inv (tc1Pkt self o 2 req l 0)
    let m2 := if t.mcast = [] then m1 else
      (m1.bump (mkOid 0xA 0x040 9) t.mcast.length).originateMulti .home (m.homeDie d) (tc1Pkt self 0 2 req l 0) t.mcast
    let m3 := match t.fwd with
      | some (op, o) => m2.sendHomeMsg d (if op = 0 then .fwdShared else .fwdOwn) (tc1Pkt self o op req l (if op = 1 then t.acks else 0))
      | none => m2
    let t1 := { t with sentInv := t.inv ++ t.mcast, sentFwd := t.fwd, inv := [], mcast := [], fwd := none }
    if t.busy = .r then m3.setTxn d t1
    else
      match t.own, t.grant with
      | some (x, p), _ => (m3.setTxn d t1).homeGrant d x p (decide (t1.next.st ≠ .shared))
      | none, .none => m3.setTxn d { t1 with busy := .c }
      | none, .ack => (m3.setTxn d t1).homeGrant d 0 false true
      | none, _ => (m3.setTxn d { t1 with busy := .d }).backRead (d / 2 ^ 48) (d % 2 ^ 48)

/-- Send now, or wait for a broadcast token when a multicast is owed (R441). -/
def Mod.homeSend (m : Mod) (d : Nat) : Mod :=
  match m.txn d with
  | none => m
  | some t =>
    if t.mcast = [] then m.homeGo d
    else
      let die := m.homeDie d
      if m.tokenReady die = true ∧ ¬ (m.ho.tokenWait.any fun x => x.1 == die) then (m.takeToken die).homeGo d
      else
        let m1 := (m.bump 0xA03003 1).raiseOnce (evt 0x0A04 (Loc.ofDie die)) die
        (m1.onTxn d fun t => { t with busy := if t.busy = .r then .r else .t }).onHo fun b => { b with tokenWait := b.tokenWait ++ [(die, d)] }

/-- Start what a plan calls for: the local action first (R440). -/
def Mod.homePlan (m : Mod) (d : Nat) (t : Txn) : Mod :=
  let self := m.rt.id
  let act := localOp self t
  let fwd := match t.fwd with
    | some (op, o) => if o = self then none else some (op, o)
    | none => none
  let ownFwd := match t.fwd with
    | some (op, o) => if o = self then some op else none
    | none => none
  let inv := without self t.inv
  let mc := without self t.mcast
  let t1 := { t with fwd := fwd, inv := inv, mcast := mc, acks := inv.length + mc.length,
                     grant := match ownFwd with
                       | some 0 => .data
                       | some _ => .owned
                       | none => t.grant }
  match act with
  | some op => (m.setTxn d { t1 with busy := .l }).onLine (homeLine m d) fun s => { s with pend := s.pend ++ [.home op] }
  | none => (m.setTxn d t1).homeSend d

/-! The home's own copy (R440). -/

/-- Its state after a local FwdShared, FwdOwn or Inv. -/
def ownAfter (st : CSt) (op : Nat) : CSt :=
  match st with
  | .m => if op = 0 then .o else .i
  | .o => if op = 0 then .o else .i
  | .e => if op = 0 then .s else .i
  | .s => if op = 0 then .s else .i
  | .i => .i
  | .isD => if op = 2 then .isDI else .isD
  | .isDI => .isDI
  | .imAD => .imAD
  | .smAD => if op = 0 then .smAD else .imAD
  | .omAD => if op = 0 then .omAD else .imAD
  | .imA => .imA
  | .smA => .smA
  | .omA => .omA
  | .meA => if op = 0 then .owA else .iiA
  | .owA => if op = 0 then .owA else .iiA
  | .miA => if op = 0 then .oiA else .iiA
  | .eiA => .iiA
  | .oiA => if op = 0 then .oiA else .iiA
  | .iiA => .iiA

def Mod.setOwn (m : Mod) (l : Nat) (st : CSt) : Mod := if st = .i then m.dropLine l else m.onLine l fun s => { s with st := st }

/-- A copy in these states holds the line's data. -/
def CSt.dirty : CSt → Bool
  | .m | .o | .meA | .owA | .miA | .oiA | .omAD => true
  | .i | .s | .e | .isD | .isDI | .imAD | .imA | .smAD | .smA | .omA | .eiA | .iiA => false

/-- The line of a recall is Uncached; the request that caused it goes on, or the next one may start (R466). -/
def Mod.recallDone (m : Mod) (d : Nat) : Mod :=
  match m.txn d with
  | none => m
  | some t =>
    let m1 := m.setDent d {}
    match t.req with
    | some r =>
      m1.setTxn d { req := some r, recalled := true, busy := .s }
    | none => freeKind5 (m1.endTxn d) t.trk

/-- The local action is done: data of the own copy serves the grant, or goes to the backing in a recall (op 3). -/
def Mod.homeLocal (m : Mod) (d op : Nat) : Mod :=
  let l := homeLine m d
  let s := m.cline l
  match m.txn d with
  | none => m
  | some t =>
    if op = 3 then
      let m1 := if s.st.dirty && !t.discard then m.backWrite (d / 2 ^ 48) (d % 2 ^ 48) s.data s.poison else m
      let m2 := m1.setOwn l (ownAfter s.st 2)
      if t.due = 0 then m2.recallDone d else m2.homeSend d
    else
      let kept := decide (s.st ≠ .e) && decide (s.st ≠ .eiA)
      let m1 := m.setOwn l (ownAfter s.st op)
      if op = 2 then m1.homeSend d
      else
        let t1 := { t with own := some (s.data, s.poison), nextDrop := none,
                           next := if op = 0 && !kept then t.nextDrop.getD t.next else t.next }
        (m1.setTxn d t1).homeSend d

/-! Recall of a line (R466). -/

/-- One answer of a recall has come; data goes to the backing unless it is discarded. -/
def Mod.recallAnswer (m : Mod) (d : Nat) (data : Option (Nat × Bool)) : Mod :=
  match m.txn d with
  | none => m
  | some t =>
    let m1 := match data with
      | some (x, p) => if t.discard then m else m.backWrite (d / 2 ^ 48) (d % 2 ^ 48) x p
      | none => m
    let m2 := m1.setTxn d { t with due := t.due - 1 }
    if t.due ≤ 1 then m2.recallDone d else m2

/-- Recall a line: unicast Inv to the owner and pointers, one multicast when Broadcast or unknown; `trk` is the recall's own tracker entry. -/
def Mod.recallWith (m : Mod) (d : Nat) (req : Option HReq) (known discard : Bool) (trk : Option Nat) : Mod :=
  let e := m.dent d
  let self := m.rt.id
  let all := m.members (d / 2 ^ 48)
  let uni := if known && decide (e.st ≠ .broadcast) then (if e.owner = 0 then e.ptrs else e.owner :: e.ptrs) else []
  let mc := if known && decide (e.st ≠ .broadcast) then [] else all
  let m1 := (m.bump 0xA06006 1).sliceCtr d 6
  let t : Txn := { busy := .r, req := req, inv := without self uni, mcast := without self mc, discard := discard,
                   due := (without self uni).length + (without self mc).length, recalled := true, trk := trk }
  let m2 := m1.setTxn d t
  if self ∈ uni ∨ self ∈ mc then m2.onLine (homeLine m d) fun s => { s with pend := s.pend ++ [.home 3] }
  else if t.due = 0 then m2.recallDone d
  else m2.homeSend d

/-- A recall that no request caused, under a tracker entry of its own where there is one. -/
def Mod.recallOwn (m : Mod) (d : Nat) (known discard : Bool) : Mod :=
  match m.kind5 none (m.homeDie d) with
  | some x => x.1.recallWith d none known discard (some x.2)
  | none => m.recallWith d none known discard none

/-- A recall that a request caused. -/
def Mod.recall (m : Mod) (d : Nat) (req : Option HReq) (known discard : Bool) : Mod := m.recallWith d req known discard none

/-! Requests and evictions in a known directory state. -/

/-- An access to a UC or Device parcel at its home, on the backing (R421, R502). -/
def Mod.homeUc (m : Mod) (d : Nat) (t : Txn) (r : HReq) : Mod :=
  let m1 := m.setTxn d { t with busy := .d, next := m.dent d }
  match r.edit with
  | .bytes mask x => if mask % 2 ^ 64 = fullMask then (m.setTxn d { t with busy := .w, next := m.dent d }).backWrite (d / 2 ^ 48) (d % 2 ^ 48) x false
    else m1.backRead (d / 2 ^ 48) (d % 2 ^ 48)
  | _ => m1.backRead (d / 2 ^ 48) (d % 2 ^ 48)

/-- The backing write of an eviction starts: H_W, and the state at its end (R445). -/
def Mod.homeWrite (m : Mod) (d : Nat) (r : HReq) (slot : Option (Bool × Nat)) (next : DEnt) : Mod :=
  (m.setTxn d { busy := .w, req := some r, next := next, slot := slot }).backWrite (d / 2 ^ 48) (d % 2 ^ 48) r.data r.poison

/-- A stale eviction (R460). -/
def Mod.homeStale (m : Mod) (d : Nat) (r : HReq) : Mod :=
  let e := m.dent d
  let e1 := if r.from_ ∈ e.ptrs then
      let p := without r.from_ e.ptrs
      if p = [] ∧ e.st = .shared then {} else { e with ptrs := p }
    else e
  let m1 := (((m.endTxn d).setDent d e1).bump 0xA06002 1).evictAck d r
  freeKind5 (if r.op = 3 ∧ r.keep = true then m1.raise (evt 0x0A0B) else m1) r.trk

/-- An eviction ends without a backing write. -/
def Mod.homeEvicted (m : Mod) (d : Nat) (r : HReq) (e : DEnt) : Mod :=
  freeKind5 (((m.endTxn d).setDent d e).evictAck d r) r.trk

/-- The owner of an entry removed (R461). -/
def unowned (e : DEnt) : DEnt :=
  match e.st with
  | .exclusive => {}
  | .owned => if e.ptrs = [] then {} else { e with st := .shared, owner := 0 }
  | .broadcast => { e with owner := 0 }
  | .uncached => e
  | .shared => e

/-- Act on the request of a line's transaction in the directory state that stands (R439, R445, R460 to R462). -/
def Mod.homeAct (m : Mod) (d : Nat) : Mod :=
  match m.txn d with
  | none => m
  | some t =>
    match t.req with
    | none => m
    | some r =>
      let e := m.dent d
      let desc := d / 2 ^ 48
      let req := r.from_
      let owner := decide (e.st ≠ .uncached) && decide (e.owner = req) && decide (req ≠ 0)
      let put := fun (p : Txn) => { p with req := some r, slot := t.slot, recalled := t.recalled }
      if 6 ≤ r.op then
        if e.st = .uncached then m.homeUc d t r else m.recall d (some r) true false
      else if r.op ≤ 2 then
        let lost := owner && (decide (r.op ≠ 2) || decide (e.st = .exclusive))
        let m1 := if lost then
            (((m.backWrite desc (d % 2 ^ 48) 0 true).setDent d (unowned e)).bump 0xA06009 1).raise (evt 0x0A07 (Loc.ofDie (m.homeDie d)) 0 d)
          else m
        let e1 := if lost then unowned e else e
        let put := fun (p : Txn) => if lost then { put p with slot := some (e.chip, e.way) } else put p
        if r.op = 0 then m1.homePlan d (put (planShared e1 req (!r.pref && decide (m.objv 0xA01000 ≠ 0))))
        else if r.op = 1 then m1.homePlan d (put (planOwn e1 req (m.members desc)))
        else
          let (p, asOwn) := planUpgrade e1 req (m.members desc)
          (m1.when asOwn (·.bump 0xA00106 1)).homePlan d (put p)
      else if owner = false then m.homeStale d r
      else if r.op = 4 then (if e.st = .exclusive then m.homeEvicted d r {} else m.homeStale d r)
      else
        match e.st with
        | .exclusive =>
          if r.op = 5 then m.homeStale d r
          else m.homeWrite d r t.slot (if r.keep then e else {})
        | .owned =>
          if r.op = 3 ∧ r.keep = true then m.homeWrite d r t.slot e
          else m.homeWrite d r t.slot (if e.ptrs = [] then {} else { e with st := .shared, owner := 0 })
        | .broadcast => if r.op = 3 ∧ r.keep = true then m.homeWrite d r t.slot e else m.homeWrite d r t.slot { e with owner := 0 }
        | .uncached => m.homeStale d r
        | .shared => m.homeStale d r

/-- Step 4 of DRAIN has begun and the parcel, which has a partner, is still to be handed off: later requests wait at the home (R123). -/
def Mod.awaitsHandoff (m : Mod) (desc : Nat) : Bool :=
  decide (m.md.mode = .drain) && decide (m.md.drain.step = 4) && decide (m.dPartner desc ≠ 0) && !m.po.handed.contains desc

/-- The home holds a request: the parcel recovers, or awaits its hand-off, or its final migration pass holds backing writes (R123, R389, R402,
R472). -/
def Mod.homeHolds (m : Mod) (desc : Nat) (r : HReq) : Bool :=
  let final := (tget { pass := 0 } desc m.po.migs).final
  m.awaitsHandoff desc || (decide (m.dState desc = 7) && (decide (r.op ≤ 2) || decide (6 ≤ r.op))) ||
    (final && (decide (r.op = 3) || decide (r.op = 5) || decide (7 ≤ r.op)))

/-- A parcel handed off in DRAIN: its requests go on to the partner (R123). -/
def Mod.handedOff (m : Mod) (desc : Nat) : Bool := m.po.handed.contains desc

/-- A discard-mode flush of the parcel runs (R471). -/
def Mod.discarding (m : Mod) (desc : Nat) : Bool := m.ho.flushes.any fun f => f.discard && (f.desc == desc || f.desc == 65535)

/-- Forward a request of a handed-off parcel to its partner, as though its requester had sent it there (R123). -/
def Mod.forwardReq (m : Mod) (d : Nat) (r : HReq) : Mod :=
  let desc := d / 2 ^ 48
  let pidx := fld (m.objv (descOid 1 desc)) 0 16
  let op := match r.op with
    | 0 => Tc0.rdShared
    | 1 => Tc0.rdOwn
    | 2 => Tc0.upgrade
    | 3 => Tc0.wbDirty
    | 4 => Tc0.evictExcl
    | _ => Tc0.flushOwned
  freeKind5 (m.sendHomeMsg d (tc0Kind op)
    (tc0Pkt r.from_ op (lineKey (m.dPartner desc) pidx (d % 2 ^ 48)) r.pref r.keep r.data r.poison)) r.trk

/-- Forward another module's request to a UC or Device parcel that has been handed off (R123). -/
def Mod.forwardUc (m : Mod) (d : Nat) (r : HReq) (sw tid : Nat) : Mod :=
  let desc := d / 2 ^ 48
  let pidx := fld (m.objv (descOid 1 desc)) 0 16
  let (off, len, kind, mask, ws) := match r.edit with
    | .none => (0, 64, 0x80, fullMask, [])
    | .bytes mask x => (0, 64, 0xC0, mask % 2 ^ 64, dataWords 64 (lineField x 0 64))
    | .atomic op size off a cmp => (off, size, 0x6C + op, 0, dataWords 32 (a % 2 ^ 128 + cmp % 2 ^ 128 * 2 ^ 128))
  let words := headerUnit (pidx * 2 ^ 48 + d % 2 ^ 48 + off) len true r.poison 63 (withKind mask kind) ++ ws
  freeKind5 (m.originate .home (m.homeDie d)
    { tc := 3, len := words.length / 4, poison := r.poison, dest := m.dPartner desc, src := sw, body := bridgeBody 0 0 tid 0 0, data := words }) r.trk

/-! Lost modules (R473). -/

/-- Remove a lost module from an entry and its transaction. -/
def Mod.scrubEntry (m : Mod) (lost d : Nat) : Mod :=
  let desc := d / 2 ^ 48
  let l := homeLine m d
  let e := m.dent d
  match m.txn d with
  | none =>
    let m1 := if e.owner = lost ∧ lost ≠ 0 then (m.backWrite desc (d % 2 ^ 48) 0 true).setDent d (unowned e) else m
    let e1 := m1.dent d
    if lost ∈ e1.ptrs then
      let p := without lost e1.ptrs
      m1.setDent d (if p = [] ∧ e1.st = .shared then {} else { e1 with ptrs := p })
    else m1
  | some t =>
    let req := match t.req with
      | some r => r.from_
      | none => m.rt.id
    let hit := match t.sentFwd with
      | some (_, o) => decide (o = lost)
      | none => false
    let m1 := match t.sentFwd with
      | some (op, o) =>
        if o = lost then
          let k : MsgKind := if op = 0 then .data else .dataOwned
          (m.backWrite desc (d % 2 ^ 48) 0 true).sendHomeMsg d k (tc2Pkt m.rt.id req op l (if op = 1 then t.acks else 0) 0 true)
        else m
      | none => m
    let m2 := if lost ∈ t.sentInv then
        if t.busy = .r then m1.recallAnswer d none else m1.sendHomeMsg d .invAck (tc2Pkt m.rt.id req 3 l 0 0 false)
      else m1
    let m3 := m2.onTxn d fun t => { t with sentInv := without lost t.sentInv, sentFwd := match t.sentFwd with
      | some (op, o) => if o = lost then none else some (op, o)
      | none => none }
    let drop := fun (m : Mod) =>
      let e := m.dent d
      m.setDent d (if e.owner = lost then unowned e else
        let p := without lost e.ptrs
        if p = [] ∧ e.st = .shared then {} else { e with ptrs := p })
    if t.busy = .c ∧ req = lost then
      let m5 := drop (m3.homeEnd d false)
      if t.nextDrop.isSome ∧ (m5.dent d).st ≠ .uncached then m5.recallOwn d true false else m5
    else if t.busy = .c ∧ hit = true ∧ t.acks = 0 then drop (m3.homeEnd d false)
    else m3

/-- The next request of a line starts its transaction (R436, R439). -/
def Mod.homeStart (m : Mod) (d : Nat) : Mod :=
  match m.txn d, m.homeQueue d with
  | none, r :: rest =>
    let desc := d / 2 ^ 48
    if m.homeHolds desc r then m
    else
      let m0 := ((m.setHomeQueue d rest).each m.ho.lost fun x m => m.scrubEntry x d).lookup d
      let far := match r.who with
        | .remote sw tid => if m.handedOff desc = true ∧ 6 ≤ r.op then some (sw, tid) else none
        | _ => none
      if m.handedOff desc = true ∧ r.op ≤ 5 then m0.forwardReq d r
      else if far.isSome then m0.forwardUc d r (far.getD (0, 0)).1 (far.getD (0, 0)).2
      else if r.op ≤ 2 ∧ m.served desc = false then m0.homeError d r 1
      else if 6 ≤ r.op ∧ m.served desc = false then m0.homeError d r 8
      else if r.op ≤ 2 ∧ r.from_ ∉ m.members desc then m0.homeError d r 2
      else if 3 ≤ r.op ∧ r.op ≤ 5 ∧ m.dState desc = 7 ∧ m.discarding desc = false ∧ r.op ≠ 4 then m0.homeWrite d r none {}
      else if 3 ≤ r.op ∧ r.op ≤ 5 ∧ m.served desc = false ∧ m.po.recalling.contains desc = false then
        freeKind5 ((m0.when (decide (r.op ≠ 4)) (·.cacheCount 8)).evictAck d r) r.trk
      else
        let m1 := m0.setTxn d { req := some r }
        if (m1.dent d).st ≠ .uncached ∧ (m1.dent d).chip = true then m1.homeAct d else m1
  | _, _ => m

/-- The entry of a transaction in H_S can be had: a ledger read has ended, or a way is free, or a victim spills (R464,
R465, R470). -/
def Mod.homeReady (m : Mod) (d : Nat) : Mod :=
  match m.txn d with
  | none => m
  | some t =>
    match t.req with
    | none => m
    | some r =>
      if t.busy ≠ .s then m
      else
        let e := m.dent d
        let die := m.homeDie d
        let suspect := decide (m.chipSet d ∈ m.ho.suspectChip) || decide (m.ledgerSet d ∈ m.ho.suspectLedger)
        if e.st ≠ .uncached then
          match if e.chip || !m.chipOpen d then none else m.freeSlot true d with
          | some w => ((m.setDent d { e with chip := true, way := w }).bump 0xA06004 1).homeAct d
          | none => m.homeAct d
        else if suspect = true ∧ t.recalled = false then
          if r.op = 3 ∨ r.op = 5 then m.homeWrite d r none {}
          else if r.op = 4 then m.homeEvicted d r {}
          else m.recall d (some r) false false
        else if 3 ≤ r.op then m.homeAct d
        else
          let chip := m.chipOpen d
          match m.freeSlot chip d with
          | some w => (m.setTxn d { t with slot := some (chip, w) }).homeAct d
          | none =>
            match m.slotVictim chip d with
            | none => m
            | some v =>
              if chip = false then ((m.bump 0xA06005 1).raiseOnce (evt 0x0A06 (Loc.ofDie die)) die).recall v none true false
              else
                match m.freeSlot false v with
                | some w =>
                  let ve := m.dent v
                  let m1 := (((m.setDent v { ve with chip := false, way := w }).bump 0xA06003 1).sliceCtr v 3).chCtr (m.ledgerChannel v) 11 1
                  (m1.setTxn d { t with slot := some (true, ve.way) }).homeAct d
                | none =>
                  match m.slotVictim false v with
                  | some u => ((m.bump 0xA06005 1).raiseOnce (evt 0x0A06 (Loc.ofDie die)) die).recall u none true false
                  | none => m

/-- The backing read of H_D has come (R439): the grant, or a UC or Device access's answer. -/
def Mod.homeRead (m : Mod) (d data : Nat) (poison : Bool) : Mod :=
  match m.txn d with
  | none => m
  | some t =>
    match t.req with
    | none => m
    | some r =>
      if t.busy ≠ .d then m
      else if r.op ≤ 2 then m.homeGrant d data poison false
      else if r.op = 6 then freeKind5 ((m.endTxn d).answerWho r.who 0 poison data) r.trk
      else
        ((m.setTxn d { t with busy := .w, own := some (data, poison) }).backWrite (d / 2 ^ 48) (d % 2 ^ 48) (applyEdit data r.edit) poison)

/-- The backing write of H_W is done (R445): the Ack, or a UC or Device write's answer. -/
def Mod.homeWritten (m : Mod) (d : Nat) : Mod :=
  match m.txn d with
  | none => m
  | some t =>
    match t.req with
    | none => m
    | some r =>
      if t.busy ≠ .w then m
      else if 6 ≤ r.op then
        let old := t.own.getD (0, false)
        freeKind5 ((m.endTxn d).answerWho r.who 0 old.2 old.1) r.trk
      else (m.evictAck d r).homeEnd d true

/-! Lost messages (R474). -/

/-- A lost-message report reaches the home: the message is replaced (R474). -/
def Mod.replaceLost (m : Mod) (p : Pkt) : Mod :=
  let l := pktLine p
  let d := dirKey l
  let desc := d / 2 ^ 48
  let op := fld p.body 62 2
  let sub := fld p.body 4 2
  let m1 := m.bump 0xA06008 1
  let busy := (m.txn d).map (·.busy)
  let waits := decide (busy = some .c)
  let recalled := decide (busy = some .r)
  if p.tc = 1 then m1.sendHomeMsg d (if op = 0 then .fwdShared else if op = 1 then .fwdOwn else .inv) { p with hops := 0 }
  else if op ≤ 1 then
    let m2 := (m1.backWrite desc (d % 2 ^ 48) 0 true).sendHomeMsg d (if op = 0 then .data else .dataOwned)
      { p with src := m.rt.id, hops := 0, poison := true, data := lineWords 0 }
    if waits ∧ p.src ≠ m.rt.id ∧ (op = 0 ∨ fld p.body 0 6 = 0) then m2.homeEnd d (bit p.body 0) else m2
  else if op = 2 then m1.sendHomeMsg d .ack { p with src := m.rt.id, hops := 0 }
  else if sub = 0 then
    if p.dest = m.rt.id ∧ recalled then m1.recallAnswer d none else m1.sendHomeMsg d .invAck { p with hops := 0 }
  else if sub = 1 then (if waits then m1.homeEnd d (bit p.body 0) else m1)
  else m1.sendHomeMsg d .ackErr { p with src := m.rt.id, hops := 0 }

end Sys2Proof.Machine
end

