-- ==== Sys2Proof/Machine/CacheStep.lean ====
section
/-! DEFINITION. What a line does next: host snoops, pending messages and evictions, the access at the head of its queue
(R411, R413, R446 to R448, R454, R467); lost-message reports and extents whose lines are gone. -/
namespace Sys2Proof.Machine

/-- An entry is made in the snoop filter, counted (R583). -/
def Mod.newFilt (m : Mod) (l : Nat) : Mod := if (m.filt l).vec = [] then m.filtCtr l 1 else m

/-- The access at the head of a line is performed: the line's state permits it and the hosts have been snooped (R447). -/
def Mod.doAccess (m : Mod) (l : Nat) : Mod :=
  let s := m.cline l
  match s.wait with
  | [] => m
  | a :: rest =>
    let m1 := (m.unitHit (m.lineChannel l)).onLine l fun s => { s with wait := rest, rrpv := if a.missed then s.rrpv else 0, pfl := false }
    let m2 := if a.missed then m1 else
      ((m1.cacheCount 1).chCtr (m.lineChannel l) 9 1).tally { source := 7, tenant := some a.tenant, addr := some (dirKey l) } 1
    let reads := (m2.chCtr (m.lineChannel l) 0 1).answerWho a.who 0 s.poison s.data
    match a.kind with
    | .prefetch => m1
    | .read => reads
    | .readShared =>
      match a.port with
      | some p => (reads.newFilt l).setFilt l { vec := addOnce p (m.filt l).vec, x := (m.filt l).x }
      | none => reads
    | .readAny =>
      match a.port with
      | some p => (reads.newFilt l).setFilt l { vec := [p], x := true }
      | none => reads
    | .write =>
      let m3 := (m2.chCtr (m.lineChannel l) 1 1).onLine l fun s =>
        { s with data := applyEdit s.data a.edit, poison := s.poison && !a.edit.whole, st := if s.st = .e then .m else s.st }
      let old := match a.edit with
        | .atomic _ _ _ _ _ => s.data
        | _ => 0
      if (m.lineAttr l).1 = 1 then m3.writeThrough l (some a) else m3.answerWho a.who 0 s.poison old

/-- The state permits the access (R447, R454). -/
def permits (s : Line) (k : AccKind) : Bool :=
  match k with
  | .read | .readShared => decide (s.st = .m ∨ s.st = .o ∨ s.st = .e ∨ s.st = .s ∨ s.st = .meA ∨ s.st = .owA)
  | .readAny => decide (s.st = .m ∨ s.st = .e ∨ s.st = .meA)
  | .write => decide (s.st = .m ∨ s.st = .e ∨ (s.st = .meA ∧ s.owed < 4))
  | .prefetch => true

/-- A host bit must be set in a filter set that is full: the entry to give up (R245). -/
def Mod.filterFull (m : Mod) (l : Nat) (a : Access) : Option Nat :=
  if a.port.isSome ∧ (a.kind = .readShared ∨ a.kind = .readAny) ∧ (m.filt l).vec = [] then
    let same := m.ed.filter.filter fun x => decide (m.filterSet x.1 = m.filterSet l)
    if same.length < 16 then none else same.head?.map (·.1)
  else none

/-- Lines L + 1 to L + n of the same 4 KiB not already present (R413). -/
def Mod.prefetchLines (m : Mod) (l : Nat) : List Nat :=
  let n := m.objv 0x900300
  ((List.range n).map fun i => l + 64 * (i + 1)).filter fun x => decide (x / 4096 = l / 4096) && decide ((m.cline x).st = .i) && (m.cline x).wait.isEmpty

/-- A demand miss asks for the following lines, while the governor is at step 0 and the parcel permits it (R413, R115). -/
def Mod.prefetch (m : Mod) (l : Nat) (a : Access) : Mod :=
  let at_ := m.lineAttr l
  if at_.2.2.1 = true ∧ at_.2.1 = false ∧ m.md.gov.step = 0 ∧ a.kind ≠ .prefetch then
    m.each (m.prefetchLines l) fun x m => m.onLine x fun s => { s with wait := s.wait ++ [{ kind := .prefetch, cap := a.port.or a.cap, tenant := a.tenant }] }
  else m

/-- Start the access at the head of a line's queue: perform it, ask the home, or wait (none). -/
def Mod.startAccess (m : Mod) (l : Nat) (s : Line) (a : Access) : Option Mod :=
  let pop := m.onLine l fun s => { s with wait := s.wait.drop 1 }
  if a.kind = .prefetch ∧ s.st ≠ .i then some pop
  else if s.st = .i ∧ s.poison = true ∧ a.kind ≠ .write ∧ a.kind ≠ .prefetch then some (pop.answerWho a.who 0 true s.data)
  else if a.kind ≠ .prefetch ∧ permits s a.kind = true then
    match m.filterFull l a with
    | some v =>
      if (m.cline v).pend = [] then some ((m.filtCtr v 2).onLine v fun s => { s with pend := [.filter] })
      else none
    | none => some (m.onLine l fun s => { s with pend := [.access] })
  else if s.st.stable = false then none
  else
    let own := decide (a.kind = .readAny) || decide (a.kind = .write)
    let ask := fun (m : Mod) =>
      match s.st with
      | .i => if own then m.issue l .rdOwn false .imAD a else m.issue l .rdShared (decide (a.kind = .prefetch)) .isD a
      | .s => m.issue l .upgrade false .smAD a
      | .o => m.issue l .upgrade false .omAD a
      | _ => m
    let m1 := if a.missed ∨ a.kind = .prefetch then m else
      ((((m.cacheCount 2).chCtr (m.lineChannel l) 10 1).tally { source := 8, tenant := some a.tenant, addr := some (dirKey l) } 1).onLine l fun s =>
        { s with wait := match s.wait with
          | x :: t => { x with missed := true } :: t
          | [] => [] }).prefetch l a
    let m2 := ask m1
    if (m2.cline l).st = s.st then (if a.missed ∨ a.kind = .prefetch then none else some m1) else some m2

/-- One move of a line, none when it has none (R442, R446, R447). -/
def Mod.lineStep (m : Mod) (l : Nat) (s : Line) : Option Mod :=
  match s.pend with
  | p :: rest =>
    if s.sent = false then
      some ((((m.filtCtr l 0).unitHit (128 + m.filterSet l / 16384)).each (m.toSnoop l p) fun x m => m.snoop l x.1 x.2).onLine l fun s => { s with sent := true })
    else if m.ed.snoops.any fun x => x.line = l then none
    else
      let m1 := (m.filtAfter l p).onLine l fun s => { s with pend := rest, sent := false }
      some (match p with
        | .msg op req acks => m1.doMsg l op req acks
        | .home op => m1.homeLocal (dirKey l) op
        | .evict w => m1.doEvict l w
        | .access => m1.doAccess l
        | .filter => m1)
  | [] =>
    match s.wait with
    | a :: _ => m.startAccess l s a
    | [] =>
      if s.st.stable = true ∧ s.st ≠ .i ∧ (m.lineAttr l).1 = 2 ∧ (m.filt l).vec = [] then
        some (m.onLine l fun s => { s with pend := [.evict .release] })
      else none

/-- Moves of all lines until none is left, at most n. -/
def Mod.settleLines : Nat → Mod → Mod
  | 0, m => m
  | n + 1, m =>
    match m.ca.lines.findSome? fun x => m.lineStep x.1 x.2 with
    | some m1 => m1.settleLines n
    | none => m

/-- Send the report of a discarded TC1 or TC2 packet to the line's home (R474). -/
def Mod.reportLost (m : Mod) (p : Pkt) : Mod :=
  let home := if p.tc = 1 then p.src else fld p.body 50 12
  if home = m.rt.id then m.replaceLost p
  else if 1024 ≤ m.ca.reports.length then m.raise (evt 0x0A08)
  else
    let hdr := hdrWord p * 2 ^ 64 + p.body % 2 ^ 64
    (m.onCa fun b => { b with reports := b.reports ++ [{ home := home, hdr := hdr, lastAt := m.now }] }).firmwareWrite home 0xA06300 16 hdr

/-- A line belongs to the parcel of an extent. -/
def lineOfParcel (home desc l : Nat) : Bool := decide (lineHome l = home) && decide (lineDesc l = desc)

/-- Extents of the module other than e that name the same parcel and hold it bound. -/
def Mod.otherNaming (m : Mod) (e : Nat) (par : Nat × Nat) : Bool :=
  m.exts.any fun x => decide (x.1 ≠ e) && decide (2 ≤ extState x.2) && decide (extState x.2 ≤ 6) && decide (m.extParcel x.1 x.2 = par)
    && !(m.extAux x.1).unbinding && (decide (extState x.2 ≠ 6) || (m.extAux x.1).flushing)

/-- The remote table entry of a parcel is named by one extent fewer; at none it is freed (R391). -/
def Mod.dropRemote (m : Mod) (home desc : Nat) : Mod :=
  match m.remoteIx home desc with
  | none => m
  | some r =>
    let v := m.objv (remOid r)
    let n := fld v 16 12
    m.setObj (remOid r) (if n ≤ 1 then 0 else setFld v 16 12 (n - 1))

/-- An extent's unbind has been answered, or its parcel is homed here: the entry is empty, or stays failed, or forced until its host has
released it (R394, R395). -/
def Mod.unbound (m : Mod) (e : Nat) : Mod :=
  let st := extState (m.objv (extOid e))
  let gone := (m.setExt e 0).onPo fun b => { b with ext := tdel e b.ext }
  if st = 7 ∨ (st = 6 ∧ (m.extAux e).freed = false) then m.onExt e fun x => { x with unbinding := false, flushing := false, askedAt := none }
  else if st = 6 then gone
  else gone.raise (evt 0x0903 Loc.module e)

/-- Send the unbind of an extent to its parcel's home (R394); its remote entry is given up if the bind had filled one. -/
def Mod.sendUnbind (m : Mod) (e : Nat) : Mod :=
  let v := m.objv (extOid e)
  let (home, desc) := m.extParcel e v
  if home = m.rt.id then (m.setBinds desc (m.dBinds desc - 1)).unbound e
  else
    ((m.when (m.extAux e).size.isSome (·.dropRemote home desc)).onExt e fun x => { x with unbinding := true }).firmwareWrite home 0x901000 8
      (pack [(2, 62, 2), (m.rt.id, 50, 12), (desc, 34, 16), (extTenant v, 26, 8)])

/-- Extents being taken back. -/
def Mod.flushingExts (m : Mod) : List Nat := (m.po.ext.filter fun x => x.2.flushing).map (·.1)

/-- Lines of a parcel no other extent names are evicted as they become idle (R394). -/
def Mod.releaseStart (m : Mod) : Mod :=
  m.each m.flushingExts fun e m =>
    let par := m.extParcel e (m.objv (extOid e))
    if m.otherNaming e par then m
    else
      let ls := (m.ca.lines.filter fun x => lineOfParcel par.1 par.2 x.1 && x.2.st.stable && decide (x.2.st ≠ .i) && x.2.pend.isEmpty).map (·.1)
      m.each ls fun l m => m.onLine l fun s => { s with pend := [.evict .release] }

/-- Extents whose lines have been taken back send their unbind (R394). -/
def Mod.releaseCheck (m : Mod) : Mod :=
  m.each m.flushingExts fun e m =>
    let par := m.extParcel e (m.objv (extOid e))
    let busy := m.ca.lines.any fun x => lineOfParcel par.1 par.2 x.1 && (!x.2.pend.isEmpty || (decide (x.2.st ≠ .i) && !m.otherNaming e par))
    if busy then m else (m.onExt e fun x => { x with flushing := false }).sendUnbind e

/-- Lines of a parcel with an entry at the home. -/
def Mod.parcelLines (m : Mod) (i : Nat) : List Nat := (m.ho.dir.filter fun x => decide (x.1 / 2 ^ 48 = i)).map (·.1)

/-- Lines of the parcels being unhomed are recalled as they become idle (R124). -/
def Mod.recallRest (m : Mod) : Mod :=
  if m.md.mode = .drain ∧ m.md.drain.step = 4 then
    m.each m.po.recalling fun i m => m.each (m.parcelLines i) fun d m => if (m.txn d).isSome || !(m.homeQueue d).isEmpty then m else m.recallOwn d true false
  else m

/-- The lines move on, and extents whose lines are gone with them. -/
def Mod.settleRound (m : Mod) : Mod :=
  let m1 := m.recallRest.releaseStart
  (m1.settleLines (64 + 16 * m1.ca.lines.length)).releaseCheck

/-- Everything the cache and the home can do at once is done; slots kept for flows that are gone leave the selection (R307). -/
def Mod.settle (m0 : Mod) : Mod :=
  let m := m0.pruneKept
  let lost := m.rt.lostFwd
  let m1 := ((m.onRt fun b => { b with lostFwd := [] }).each lost fun p m => m.reportLost p).settleRound
  if m1.flushingExts = [] then m1 else m1.settleRound

end Sys2Proof.Machine
end

