-- ==== Sys2Proof/Machine/PowerOps.lean ====
section
/-! DEFINITION. Operations of the power-entry stage (R136 to R178): inrush ramps, trips, PWR_GOOD, the power available,
power events. -/
namespace Sys2Proof.Machine

def PowerBlk.feed (p : PowerBlk) (f : Feed) : FeedSt := if f = 0 then p.a else p.b

def PowerBlk.setFeed (p : PowerBlk) (f : Feed) (s : FeedSt) : PowerBlk := if f = 0 then { p with a := s } else { p with b := s }

def otherFeed (f : Feed) : Feed := if f = 0 then 1 else 0

def Mod.feed (m : Mod) (f : Feed) : FeedSt := m.pw.feed f

/-- Change one feed. -/
def Mod.onFeed (m : Mod) (f : Feed) (g : FeedSt → FeedSt) : Mod := m.onPw fun p => p.setFeed f (g (p.feed f))

/-- The module has left BOOT since VAO rose: power events pass to the log at once (R177). -/
def Mode.pastBoot : Mode → Bool
  | .off | .standby | .boot => false
  | .configure | .operate | .capped | .drain | .fault => true

/-- The hub runs: its rails stand, in FAULT too (R31, R173). -/
def Mod.hubRuns (m : Mod) : Bool := decide (m.md.mode ≠ .fault) || [.vib, .vhub, .vio].all fun r => m.md.rails.contains r

/-- Raise a power event, or hold it in the always-on domain until the module leaves BOOT, and while the hub's rails are down in FAULT: at most 64, the last of
them EV-010D with the number lost (R177). -/
def Mod.powerEvent (m : Mod) (code : Nat) (aux : Nat := 0) : Mod :=
  if m.md.mode.pastBoot && m.hubRuns then m.raise (evt code Loc.p13 aux)
  else m.onPw fun p =>
    if p.events.length < 63 then { p with events := p.events ++ [evt code Loc.p13 aux] }
    else if p.events.length = 63 ∧ p.evLost = 0 then { p with events := p.events ++ [evt code Loc.p13 aux] }
    else
      let lost := min (2 ^ 24 - 1) (p.evLost + if p.evLost = 0 then 2 else 1)
      { p with events := p.events.take 63 ++ [evt 0x010D Loc.p13 lost], evLost := lost }

/-- Pass the waiting power events to the log, in order (R172, R177). -/
def Mod.flushPowerEvents (m : Mod) : Mod :=
  let m1 := m.each m.pw.events fun e m => m.raise e
  m1.onPw fun p => { p with events := [], evLost := 0 }

/-- VBUS is within 0.5 V of the feed (R146). -/
def PowerBlk.near (p : PowerBlk) (f : Feed) : Bool :=
  decide ((p.feed f).voltage ≤ p.vbus + 500 ∧ p.vbus ≤ (p.feed f).voltage + 500)

/-- The feed's pass FET is off after a trip: it cools down, or is held as under latch-off (R154 to R158). A FET that an overvoltage has turned off is not tripped
(R140). -/
def FeedSt.tripped (s : FeedSt) : Bool := decide (s.fet = .off) && (s.coolEnd.isSome || s.held)

/-- Command full enhancement (R146). -/
def Mod.fullEnhance (m : Mod) (f : Feed) : Mod :=
  m.onFeed f fun s => { s with fet := .full, rampTimeout := none, lastFull := some m.now }

/-- Start an inrush ramp: it ends in its first tick where VBUS is already within 0.5 V (R145 to R147). -/
def Mod.startRamp (m : Mod) (f : Feed) : Mod :=
  if m.pw.near f then m.fullEnhance f
  else
    let t := m.now + (m.feed f).voltage * 20000 / m.objv 0x101300 + 5 * ms
    m.onFeed f fun s => { s with fet := .ramp, rampTimeout := some t }

/-- A pass FET may turn on: its feed is present, in range, not held, not cooling, and the module is not held off. -/
def Mod.mayRamp (m : Mod) (f : Feed) : Bool :=
  let s := m.feed f
  s.present && !s.overvolt && !s.held && s.coolEnd.isNone && decide (s.fet = .off) && !m.pw.heldOff && m.pw.vao

/-- Feed conditions of PWR_GOOD (R163): VAO up, and a present feed with a fully enhanced pass FET within 0.5 V of VBUS. -/
def PowerBlk.good (p : PowerBlk) : Bool :=
  p.vao && ((p.a.present && decide (p.a.fet = .full) && p.near 0) || (p.b.present && decide (p.b.fet = .full) && p.near 1))

/-- PWR_GOOD falls when its conditions fail, with EV-010B (R166, R167). -/
def Mod.pgCheck (m : Mod) : Mod :=
  if m.pw.pg = true ∧ m.pw.good = false then (m.onPw fun p => { p with pg := false }).powerEvent 0x010B else m

/-- Trip a feed: pass FET off, trip record, LATCHED, cool-down, RETRIES and the retry limit (R155, R158). -/
def Mod.trip (m : Mod) (f : Feed) (cause : Nat) (hold : Bool) (code : Nat) : Mod :=
  let s := m.feed f
  let again := s.lastFull.any fun t => m.now ≤ t + 10 * sec
  let r := if again then s.retries + 1 else 1
  let past := decide (m.objv 0x101600 ≠ 0) && decide (m.objv 0x101600 < r)
  let m1 := m.onFeed f fun s =>
    { s with fet := .off, rampTimeout := none, latched := true, cause := cause, count := min 15 (s.count + 1),
             seconds := (m.now - m.pw.vaoSince) / sec % 2 ^ 23, retries := r, held := s.held || hold || past,
             clearSeen := false, coolEnd := some (m.now + m.objv 0x101500 * ms), hotTrip := decide (cause = 8),
             carrying := false, ilim := false, current := 0 }
  let m2 := m1.powerEvent code cause
  (if past then m2.powerEvent 0x010A else m2).pgCheck

/-- The module input-current limit I_lim in mA (R154). -/
def Mod.ilim (m : Mod) : Nat :=
  let one := fun (f : Feed) (oid : Nat) => if (m.feed f).present && !(m.feed f).tripped then m.objv oid else 0
  min (m.objv 0x101100) (one 0 0x101001 + one 1 0x101002)

/-- 10 ms average of VBUS in mV, and of the input power in mW (R154, R175). -/
def Mod.vbusAvg (m : Mod) : Nat :=
  if m.pw.samples.length = 0 then m.pw.vbus else (m.pw.samples.map (·.1)).sum / m.pw.samples.length
def Mod.powerAvg (m : Mod) : Nat :=
  if m.pw.samples.length = 0 then 0 else (m.pw.samples.map (·.2)).sum / m.pw.samples.length

/-- Available input power P_avail in W: V_in × I_lim − 5 W (R112). -/
def Mod.pAvail (m : Mod) : Nat := m.vbusAvg * m.ilim / 1000000 - 5

/-- Note since when P_avail has been at least 115 W (R112). -/
def Mod.notePAvail (m : Mod) : Mod :=
  if 115 ≤ m.pAvail then m.onPw fun p => { p with okSince := some (p.okSince.getD m.now) }
  else m.onPw fun p => { p with okSince := none }

/-- No limit is in regulation. -/
def PowerBlk.unregulated (p : PowerBlk) : Bool := !p.a.ilim && !p.b.ilim && !p.sumlim

/-- VAO rises: always-on values start anew, the controller applies its copy of area 1, energy counts return (R138,
R169, R172, R178). -/
def Mod.vaoRise (m : Mod) : Mod :=
  let m1 := m.onDi fun d =>
    { d with obj := d.p13.foldl (fun t x => tset (objDefault x.1) x.1 x.2 t) (tkeep (fun k _ => decide (k / 2 ^ 20 ≠ 1)) d.obj) }
  m1.onPw fun p =>
    { p with vao := true, vaoSince := m.now, holdupEnd := none,
             a := { p.a with energy := p.storeA, limit := m1.objv 0x101001, limitDue := none, fetShort := false, rev := false, peak := 0 },
             b := { p.b with energy := p.storeB, limit := m1.objv 0x101002, limitDue := none, fetShort := false, rev := false, peak := 0 },
             energy := p.storeM, limit := m1.objv 0x101100, limitDue := none }

/-- The clear of one feed's trip (R156, R157). -/
def Mod.clearTripOf (m : Mod) (f : Feed) : Mod :=
  let s := m.feed f
  let latchOff := s.held || decide (m.objv 0x101400 = 0)
  let m1 := m.onFeed f fun s => { s with latched := false, retries := 0, count := 0 }
  if latchOff = false then m1
  else if s.coolEnd.isSome then m1.onFeed f fun s => { s with held := false, clearSeen := true }
  else
    let m2 := m1.onFeed f fun s => { s with held := false, clearSeen := false }
    if m2.mayRamp f then m2.startRamp f else m2

/-- The clear register 1.021.00: [0] feed A, [1] feed B. -/
def Mod.clearTrips (m : Mod) (v : Nat) : Mod :=
  (m.when (bit v 0) (·.clearTripOf 0)).when (bit v 1) (·.clearTripOf 1)

/-- The clear register 1.023.00 (R176). -/
def Mod.clearEnergy (m : Mod) (v : Nat) : Mod :=
  m.onPw fun p =>
    { p with
      a := { p.a with energy := if bit v 0 then 0 else p.a.energy, peak := if bit v 3 then 0 else p.a.peak }
      b := { p.b with energy := if bit v 1 then 0 else p.b.energy, peak := if bit v 4 then 0 else p.b.peak }
      energy := if bit v 2 then 0 else p.energy }

/-- A feed limit or the module limit is written: raised at once, lowered 20 ms after the write (R153). -/
def Mod.limitWritten (m : Mod) (which v : Nat) : Mod :=
  let due := some (v, m.now + 20 * ms)
  let g := fun (s : FeedSt) => if s.limit ≤ v then { s with limit := v, limitDue := none } else { s with limitDue := due }
  let m1 := if which = 0 then m.onFeed 0 g
    else if which = 1 then m.onFeed 1 g
    else m.onPw fun p => if p.limit ≤ v then { p with limit := v, limitDue := none } else { p with limitDue := due }
  m1.notePAvail

end Sys2Proof.Machine
end

