-- ==== Sys2Proof/Machine/ModeOps.lean ====
section
/-! DEFINITION. Operations of the modes (R105 to R134): entering a mode, FAULT, fatal errors, edge port basics. -/
namespace Sys2Proof.Machine

def Mod.edge (m : Mod) (p : Nat) : EdgeSt := tget {} p m.ed.ports
def Mod.onEdge (m : Mod) (p : Nat) (f : EdgeSt → EdgeSt) : Mod := m.onEd fun b => { b with ports := tmod {} p f b.ports }

/-- Role of an edge port (R219). -/
def Mod.role (m : Mod) (p : Nat) : Nat := m.objv (mkOid 4 p 2)

/-- A downstream role: the module drives the port's PERST_N (R219). -/
def Mod.downstream (m : Mod) (p : Nat) : Bool := decide (m.role p = 2) || decide (m.role p = 3)

/-- Width code of a port's cluster in effect (R35). -/
def Mod.widthCode (m : Mod) (p : Nat) : Nat := m.objv (mkOid 4 (0x400 + clusterOfPort p) 1)

/-- The lowest-numbered member of the merged port p belongs to (R36). -/
def Mod.lead (m : Mod) (p : Nat) : Nat :=
  let base := p / 6 * 6
  let u := p % 6
  if u < 4 then (if m.widthCode p = 2 then base else if m.widthCode p = 1 then base + u / 2 * 2 else p)
  else if m.widthCode p = 1 then base + 4 else p

/-- Members of a merged port. -/
def Mod.membersOf (m : Mod) (p : Nat) : List Nat := (List.range 6).filterMap fun i => let q := p / 6 * 6 + i; if m.lead q = m.lead p then some q else none

/-- Lanes of the merged port p, lane 0 first. -/
def Mod.mergedLanes (m : Mod) (p : Nat) : List Nat := (m.membersOf p).flatMap lanesOf

def vppbKey (v n : Nat) : Nat := 32 * v + n
def Mod.vppb (m : Mod) (v n : Nat) : VppbSt := tget {} (vppbKey v n) m.ed.vppb
def Mod.onVppb (m : Mod) (v n : Nat) (f : VppbSt → VppbSt) : Mod := m.onEd fun b => { b with vppb := tmod {} (vppbKey v n) f b.vppb }

/-- Binding of an edge port: 256 v + n, 0xFFFF unbound. -/
def Mod.binding (m : Mod) (p : Nat) : Nat := m.objv (mkOid 4 p 3)

/-- The port bound to vPPB n of VCS v: its module and number (R223). -/
def Mod.boundPort (m : Mod) (v n : Nat) : Option (Nat × Nat) :=
  match (m.vppb v n).remote with
  | some x => some x
  | none => ((List.range 48).find? fun p => decide (m.binding p = 256 * v + n) && (m.edge p).farVcs.isNone).map fun p => (m.rt.id, p)

/-- VCS a local port belongs to: the one whose upstream port it is, or the one it is bound to (R222). -/
def Mod.vcsOf (m : Mod) (p : Nat) : Option Nat :=
  let b := m.binding p
  if b = 0xFFFF ∨ (m.edge p).farVcs.isSome = true then none else some (b / 256)

/-- Abort a group that is open, with EV-0003 (R72). -/
def Mod.abortGroups (m : Mod) (p : Group → Bool) : Mod :=
  let gs := m.di.groups.filter fun g => decide (g.st = .opened) && p g
  m.each gs fun g m => (m.onDi fun d => { d with groups := d.groups.filter fun x => x ≠ g }).raise (evt 0x0003 Loc.module 0 g.num)

/-- A session closes: its open groups are aborted, its subscriptions and its token end (R72, R84, R86, R572). -/
def Mod.closeSession (m : Mod) (id : Nat) : Mod :=
  let m1 := m.abortGroups fun g => decide (g.session = id)
  (m1.onDi fun d => { d with sessions := d.sessions.filter fun s => s.id ≠ id, subs := d.subs.filter fun s => s.session ≠ id,
                             far := d.far.filter fun x => x.1 ≠ id }).onSe fun b =>
    { b with tokens := b.tokens.filter fun t => t.session ≠ id, challenges := b.challenges.filter fun c => c.1 ≠ id,
             tokenStatus := tdel id b.tokenStatus, reports := b.reports.filter fun r => r.session ≠ id }

/-- Every open group is aborted and every dynamic session closes (R72, R84). -/
def Mod.closeAll (m : Mod) : Mod := (m.abortGroups fun _ => true).each (m.di.sessions.map (·.id)) fun id m => m.closeSession id

/-- Requests accepted and not yet answered are answered before MRDY falls (R100): a group handed off is PENDING (R68), a proxied message gets no answer
any more, so TIMEOUT (R91). -/
def Mod.answerRest (m : Mod) : Mod :=
  let gs := m.di.groups.filter fun g => decide (g.st ≠ .opened) && !g.answered
  let m1 := (m.onDi fun d => { d with groups := d.groups.map fun g => if g.st = .opened then g else { g with answered := true } }).each gs fun g m =>
    m.answer g.src (g.resp .pending)
  let ps := m1.di.proxied.filter fun p => p.src ≠ .firmware
  (m1.onDi fun d => { d with proxied := d.proxied.filter fun p => p.src = .firmware }).each ps fun p m =>
    m.answer p.src { opcode := p.opcode, session := p.session, seq := p.seq, status := .timeout }

/-- Enter a mode with the trigger's event code, 0 for a mode request: 2.003.00 and EV-0211 to EV-0217 (R105, R606). -/
def Mod.enterMode (m : Mod) (mode : Mode) (trigger : Nat) : Mod :=
  let m1 := m.onMd fun b => { b with mode := mode }
  if mode = .off then m1
  else
    let code := 0x0210 + mode.code
    (m1.setObj 0x200300 code).raise (evt code Loc.module trigger)

/-- A BOOT under TRIAL ends in FAULT before CONFIGURE: the other firmware slot becomes preferred (R564). -/
def Mod.trialFails (m : Mod) : Mod :=
  if m.md.mode = .boot ∧ m.se.boot.trial = true then
    (m.onSe fun s => { s with boot := { s.boot with fwB := !s.boot.fwB, trial := false, trialFail := true } }).raise (evt 0x0D08)
  else m

/-! IDE (R229 to R232). -/

/-- Object el of IDE stream s of port p. -/
def ideOid (p s el : Nat) : Nat := mkOid 4 (0x200 + 8 * p + s) el
def Mod.ideSt (m : Mod) (p s : Nat) : IdeSt := tget {} (8 * p + s) m.ed.ide
def Mod.onIde (m : Mod) (p s : Nat) (f : IdeSt → IdeSt) : Mod := m.onEd fun b => { b with ide := tmod {} (8 * p + s) f b.ide }

/-- Committed key sets of a port that await their key-change points apply now, their keys about to be erased (R240). -/
def Mod.keysPending (m : Mod) (p : Nat) : Mod :=
  m.each (m.di.groups.filter fun g => decide (g.num / 2 ^ 24 = 7) && decide (g.st = .applying) && decide ((ideOf g).1 = p)) fun g m =>
    let m1 := (m.onDi fun d => { d with groups := without g d.groups }).each g.shadows fun x m => m.setObj x.1 x.2
    if g.answered then m1 else m1.answer g.src (g.resp .ok)

/-- The keys of every stream of a port are erased (R232), key sets committed before with them (R240). -/
def Mod.ideErase (m : Mod) (p : Nat) : Mod :=
  (m.keysPending p).each (List.range 6) fun s m => (m.each [2, 3, 4, 5] fun el m => m.setObj (ideOid p s el) 0).onIde p s fun _ => {}

/-- An edge port goes to electrical idle without a removal: FAULT, shutdown. A link that was up takes its IDE keys with it (R232). -/
def Mod.edgeIdle (m : Mod) (p : Nat) : Mod :=
  ((m.when (m.edge p).dllUp (·.ideErase p)).onEdge p fun s =>
    { s with link := if m.objv (mkOid 4 p 1) = 1 then .detect else .disabled, dllUp := false, l0pWidth := 0, hotAdd := .none,
             tr := { rate := 0, width := 0, flit := 0, io := false, cache := false, mem := false },
             perst := s.perst || m.downstream p }).endMargins (m.mergedLanes p) |>.each (m.mergedLanes p) fun l m =>
    m.onLane l fun s => { s with pstate := if s.pstate = 6 then 6 else 1, align := false }

/-- The accepted writes that FAULT discards: write-combining entries and writes not complete (R507). -/
def Mod.writesAtFault (m : Mod) : Nat :=
  m.br.wc.length + ((m.br.live ++ m.br.held).filter fun r => r.io = .write ∨ r.io = .message).length

/-- Enter FAULT (R30 to R32, R109, R134, R507): data plane stopped, links DOWN with their traffic held, edge ports idle after
Viral to every host, open groups aborted, writes discarded and counted, mailbox traffic on MM0 and MM1 only (R99). -/
def Mod.enterFault (m : Mod) (trigger : Nat) : Mod :=
  let n := m.writesAtFault
  let m1 := m.answerRest.closeAll.trialFails
  let m2 := m1.each (List.range 48) fun p m =>
    let viral := decide (m.role p = 1) && (m.edge p).dllUp
    (m.edgeIdle p).onEdge p fun s => { s with viral := s.viral || viral }
  let m3 := m2.each (List.range 16) fun k m => m.linkDown k 17
  let m4 := m3.onMd fun b => { b with mrdy := false, serving := false, faultAt := m.now, drain := {}, passEnd := none, bootHeld := false,
                                          raising := false }
  let m5 := (m4.onBr fun b => { b with wc := [], live := [], held := [], barriers := [], delivered := [], sems := [] }).setObj 0x730004 n
  let m6 := (m5.onSe fun b => { b with live := none, liveRetry := false }).onSv fun b => { b with boxes := b.boxes.map fun x => if x.1 = 256 ∨ x.1 = 257 then x else (x.1, { x.2 with holder := 0 }) }
  let m7 := m6.enterMode .fault trigger |>.when (decide (m.md.mode = .boot)) (·.flushPowerEvents)
  if n = 0 then m7 else m7.raise (evt 0x0714 Loc.module 0 n)

/-- A fatal error of the hub (R31, R595). -/
def Mod.fatalHub (m : Mod) (cause : Nat) : Mod :=
  if m.md.mode.code < 2 ∨ m.md.mode = .fault then m
  else (m.raise (evt 0x0E02 Loc.hub cause)).enterFault 0x0E02

end Sys2Proof.Machine
end

