-- ==== Sys2Proof/Machine/RxOps.lean ====
section
/-! DEFINITION. Receiving packets: the word stream of a link's PAYLOAD flits (R256 to R259, R271), and the packets of
edge ports, into their ingress reservation (R326, R332). -/
namespace Sys2Proof.Machine

/-- Change the held packet with a handle, wherever it waits or queues. -/
def Mod.onHeld (m : Mod) (id : Nat) (f : Held → Held) : Mod :=
  m.onSw fun s =>
    { s with
      waiting := s.waiting.map fun h => if h.id = id then f h else h
      queues := s.queues.map fun x => (x.1, x.2.map fun e => if e.held.id = id then { e with held := f e.held } else e) }

/-- The address a packet carries, as filters compare it (R586): the parcel form of a coherence message; ADDR64 of a bridge
packet's header unit, once it is there. -/
def pktAddr (p : Pkt) : Option Nat :=
  if p.tc ≤ 2 ∧ p.fmt = 1 then some (fld p.body 34 16 * 2 ^ 48 + fld p.body 6 28 * 64)
  else if p.fmt = 1 ∧ 3 ≤ p.tc ∧ p.tc ≤ 6 then p.data.head?
  else none

/-- A packet at a port's ingress (source 0, and 1 for its stored bytes) or egress (2 and 3). -/
def Mod.tallyPkt (m : Mod) (source port tenant : Nat) (p : Pkt) : Mod :=
  let o : FilterOp := { source := source, port := some port, tenant := some tenant, cls := some p.tc, addr := pktAddr p }
  (m.tally o 1).tally { o with source := source + 1 } (pktBytes p)

/-- A packet's header arrives at port index p: cells are allocated for it and charged to the ingress reservation. -/
def Mod.arrive (m : Mod) (p : Nat) (pkt : Pkt) (got : Nat) (target : Option Nat := none) (tenant : Nat := 0)
    (secure : Bool := false) : Mod :=
  let d := dieOfPort p
  let id := m.sw.nextId
  let (m1, banks) := m.allocCells d (pktCells pkt)
  let m2 := m1.onSw fun s =>
    { s with nextId := id + 1,
             waiting := s.waiting ++ [{ id := id, port := some p, die := d, pkt := pkt, target := target, tenant := tenant, got := got,
                                        banks := banks, secure := secure }] }
  let m3 := ((m2.portCtr p 0 1).portCtr p 2 (cdiv (pktBytes pkt) 32)).onCn fun c =>
    { c with winRx := tset 0 p (tget 0 p c.winRx + pktBytes pkt) c.winRx }
  (m3.when pkt.poison (·.portCtr p 21 1)).tallyPkt 0 p tenant pkt

/-- Protocol error from the partner: the packet is discarded, counted, EV-0507 (R271). -/
def Mod.protocolError (m : Mod) (n : Nat) : Mod := (m.linkObj n 0xE 1).raise (evt 0x0507 (Loc.fab n))

/-- A packet header has arrived on fabric port n (R257, R259, R268, R271). -/
def Mod.rxHeader (m : Mod) (n : Nat) (p : Pkt) : Mod :=
  let s := m.link n
  let skip := fun (m : Mod) => m.onLink n fun s => { s with rx := if p.len = 0 then .idle else .skip (4 * p.len), lastRx := none }
  if p.fmt = 3 then
    let m1 := m.onLink n fun s => { s with rx := .idle, lastRx := none }
    match s.lastRx with
    | some id =>
      let held := m.sw.waiting.find? fun h => h.id = id
      match held with
      | some h =>
        if h.pkt.tc = p.tc ∧ h.pkt.dest = p.dest ∧ h.pkt.src = p.src then (m1.removeHeld id).freeCredit n h.pkt else m1
      | none => m1.removeHeld id
    | none => m1
  else if p.fmt ≠ 1 ∧ p.fmt ≠ 2 then (m.onLink n fun s => { s with rx := .idle, lastRx := none }).protocolError n
  else
    let c := p.tc
    let g := s.grantOf c
    let t := credOf s.taken c
    let hasCred := decide (1 ≤ (g.h + 65536 - t.h) % 65536) && decide (p.len ≤ (g.d + 65536 - t.d) % 65536) && s.openRx.contains c
    if hasCred = false ∨ 16 < p.len ∨ (c = 1 ∧ 0 < p.len) then skip (m.protocolError n)
    else
      let id := m.sw.nextId
      let m1 := m.onLink n fun s =>
        { s with taken := tset {} c { h := (t.h + 1) % 65536, d := (t.d + p.len) % 65536 } s.taken, lastRx := some id,
                 rx := if p.len = 0 then .idle else .body id (4 * p.len) }
      m1.arrive (48 + n) p 0 none (if p.fmt = 1 ∧ 3 ≤ c ∧ c ≤ 6 then fld p.body 16 8 else 0)

/-- A data word of a packet has arrived: it is stored, and goes on at once where the packet is in cut-through (R337). -/
def Mod.rxData (m : Mod) (id w : Nat) : Mod :=
  let cuts := m.sw.queues.flatMap fun x => (x.2.filter fun e => decide (e.held.id = id) && e.cut && !e.resend).map fun e => (x.1, e)
  let m1 := m.onHeld id fun h => { h with pkt := { h.pkt with data := h.pkt.data ++ [w] }, got := h.got + 1 }
  m1.each cuts fun x m =>
    let k := x.1
    let e := x.2
    let last := decide (e.held.got + 1 = 4 * e.held.pkt.len)
    if 48 ≤ k / 8 ∧ k < 512 then
      let m1 := m.sendWords (k / 8 - 48) { e.held.pkt with data := e.held.pkt.data ++ [w] } [w] false last
      if last then (m1.dropEntry k e).setQueue k ((m1.queue k).filter fun e => e.held.id ≠ id)
      else m1.setQueue k ((m1.queue k).map fun e => if e.held.id = id then { e with sent := e.sent + 1 } else e)
    else if last then
      let m1 := m.emit (edgeOut (k / 8) e.held { e.held.pkt with data := e.held.pkt.data ++ [w] })
      (m1.dropEntry k e).setQueue k ((m1.queue k).filter fun e => e.held.id ≠ id)
    else m

/-- One word of the byte stream of a port (R256). -/
def Mod.rxWord (m : Mod) (n w : Nat) : Mod :=
  match (m.link n).rx with
  | .idle => if w / 2 ^ 60 = 0 then m else m.onLink n fun s => { s with rx := .header w }
  | .header h => m.rxHeader n (pktOf h w)
  | .body id left =>
    let m0 := match tget none id m.sw.remnants with
      | some p => if left ≤ 1 then (m.portObj p 5 1).onSw fun s => { s with remnants := tset none id none s.remnants } else m
      | none => m
    let m1 := m0.rxData id w
    m1.onLink n fun s => { s with rx := if left ≤ 1 then .idle else .body id (left - 1) }
  | .skip left => m.onLink n fun s => { s with rx := if left ≤ 1 then .idle else .skip (left - 1) }

/-- Take the i-th packet for the module itself, when it fits and no earlier one of its module, flow and class waits (R304). -/
def Mod.takeInbox (m : Mod) (i : Nat) (fits : Pkt → Bool) : Mod × Option Pkt :=
  match m.sw.inbox[i]? with
  | none => (m, none)
  | some x =>
    let same := fun (y : Inbox) => decide (y.pkt.src = x.pkt.src) && decide (y.pkt.tc = x.pkt.tc) && decide (fld y.pkt.body 52 12 = fld x.pkt.body 52 12)
    if fits x.pkt = false ∨ (x.pkt.tc ≠ 3 ∧ (m.sw.inbox.take i).any same = true) then (m, none)
    else (m.onSw fun s => { s with inbox := s.inbox.take i ++ s.inbox.drop (i + 1) }, some x.pkt)

end Sys2Proof.Machine
end

