-- ==== Sys2Proof/Machine/SchedOps.lean ====
section
/-! DEFINITION. Operations of the schedulers (R362 to R384): counted length, shapers, tags and credits, gates and guard, heads and
high-water marks. Ports by index; 64 and 65 the bridge directions. -/
namespace Sys2Proof.Machine

def Mod.sched (m : Mod) (k : Nat) : PortSched := tget {} k m.sc.ports
def Mod.onSched (m : Mod) (k : Nat) (f : PortSched → PortSched) : Mod := m.onSc fun b => { b with ports := tmod {} k f b.ports }

/-- The data plane carries packets in this mode (R105). -/
def Mod.forwards (m : Mod) : Bool := m.md.mode.pastBootMode

/-- Lane rate of a rate code in Mb/s (R180). -/
def laneRate (r : Nat) : Nat := [0, 2500, 5000, 8000, 16000, 32000, 64000].getD r 0

/-- Raw rate of a port in Mb/s: the rate in use and the width in effect (R337). -/
def Mod.rawRate (m : Mod) (p : Nat) : Nat :=
  if 48 ≤ p then 512000
  else
    let s := m.edge p
    laneRate s.tr.rate * (if s.l0pWidth = 0 then s.tr.width else s.l0pWidth)

/-- ASK: the data a packet asks to be returned (R367). -/
def askOf (p : Pkt) : Nat :=
  if p.fmt = 1 ∧ p.tc = 0 then (if fld p.body 61 3 ≤ 1 then 64 else 0)
  else if p.fmt = 1 ∧ (p.tc = 3 ∨ p.tc = 5) ∧ fld p.body 48 4 = 0 ∧ isRead (unitKind p 0) = true then min 4096 (unitLen p 0)
  else if (p.tc = 3 ∨ p.tc = 5) ∧ flitStarts p = true ∧ isRead (unitKind p 1) = true then min 4096 (unitLen p 1)
  else 0

/-- A signed 32-bit object's value. -/
def signed32 (v : Nat) : Int := if v < 2 ^ 31 then v else (v : Int) - 2 ^ 32

/-- Counted length on an egress port (R366). -/
def Mod.clen (m : Mod) (port : Nat) (p : Pkt) : Nat :=
  (max 1 ((16 + 32 * p.len + askOf p : Int) + signed32 (m.objv (mkOid 8 port 1)))).toNat

/-! Shapers (R369 to R371): s is a tenant, 256 the class A shaper, 257 class B's. -/

def rateOid (port s : Nat) : Nat :=
  if s = 256 then mkOid 8 port 4 else if s = 257 then mkOid 8 port 6 else mkOid 8 (0x100 + 2 * port + s / 128) (1 + s % 128)
def burstOid (port s : Nat) : Nat :=
  if s = 256 then mkOid 8 port 5 else if s = 257 then mkOid 8 port 7 else mkOid 8 (0x200 + 2 * port + s / 128) (1 + s % 128)
def shaperKey (port s : Nat) : Nat := 512 * port + s

/-- Tokens after refill at meridian time, in units of 2^-16 byte. -/
def Mod.tokens (m : Mod) (port s : Nat) : Int :=
  let full : Int := (m.objv (burstOid port s) * 65536 : Nat)
  match tget {} (shaperKey port s) m.sc.shapers with
  | { tok := none, last := _ } => full
  | { tok := some t, last := l } => min full (t + ((m.objv (rateOid port s) * (m.meridian - l) * 65536 / 8000 : Nat) : Int))

/-- Set a shaper's tokens as of now; a full one is unlisted. -/
def Mod.setTokens (m : Mod) (port s : Nat) (t : Int) : Mod :=
  let full : Int := (m.objv (burstOid port s) * 65536 : Nat)
  m.onSc fun b => { b with shapers := tset {} (shaperKey port s) (if full ≤ t then {} else { tok := some t, last := m.meridian }) b.shapers }

def Mod.conforms (m : Mod) (port s : Nat) : Bool := decide (m.md.mode = .drain) || decide (0 < m.tokens port s)

/-- Charge a sent packet to a shaper; none is charged in DRAIN (R371). -/
def Mod.charge (m : Mod) (port s n : Nat) : Mod :=
  if m.md.mode = .drain then m else m.setTokens port s (m.tokens port s - (n * 65536 : Nat))

/-! Weighted service: class A tags, class B credits (R372, R373). -/

def tqKey (port t : Nat) : Nat := 256 * port + t
def Mod.weight (m : Mod) (port t : Nat) : Nat := max 1 (m.objv (mkOid 8 (0x300 + 2 * port + t / 128) (1 + t % 128)))
def vOid (port : Nat) : Nat := mkOid 8 port 9
def rOid (port : Nat) : Nat := mkOid 8 port 10

/-- Classes of the Requests group (R362). -/
def reqClasses : List Nat := [0, 3, 4, 5]

/-- Entries of a data class at a port, each with its class, in the order of the classes and their queues. -/
def Mod.dataEntries (m : Mod) (port : Nat) (b : Bool) : List (Nat × QEnt) :=
  reqClasses.flatMap fun c => ((m.queue (qKey port c)).filter fun e => e.classB = b).map fun e => (c, e)

/-- Heads of the lists of a tenant queue, the oldest admission stamp first (R365). -/
def Mod.listHeads (m : Mod) (port : Nat) (b : Bool) (t : Nat) : List (Nat × QEnt) :=
  let heads := reqClasses.filterMap fun c => ((m.queue (qKey port c)).find? fun e => decide (e.classB = b) && decide (e.held.tenant = t)).map fun e => (c, e)
  sortBy (fun x y => decide (x.2.stamp < y.2.stamp)) heads

/-- The offered head of a tenant queue when eligibility is left aside. -/
def Mod.offered (m : Mod) (port : Nat) (b : Bool) (t : Nat) : Option (Nat × QEnt) := (m.listHeads port b t).head?

/-- Tenants with packets in a data class of a port, rising. -/
def Mod.activeTenants (m : Mod) (port : Nat) (b : Bool) : List Nat :=
  sortBy (fun x y => decide (x < y)) ((m.dataEntries port b).map fun x => x.2.held.tenant).eraseDups

/-- The pointer visits a class B queue, or the queue wakes: its credit rises (R373). -/
def Mod.visitB (m : Mod) (port t : Nat) : Mod :=
  let k := tqKey port t
  let old := tget (0, 0) k m.sc.credit
  let r := m.objv (rOid port)
  let burst := m.objv (burstOid port t)
  let cap := match m.offered port true t with
    | some x => max burst (m.clen port x.2.held.pkt)
    | none => burst
  let d := min (old.1 + 256 * m.weight port t * ((r + 2 ^ 32 - old.2) % 2 ^ 32)) cap
  m.onSc fun b => { b with credit := tset (0, 0) k (d, r) b.credit }

/-- A packet wakes its tenant queue (R372, R373); called before the packet is put on the queue. -/
def Mod.wake (m : Mod) (port : Nat) (b : Bool) (t : Nat) : Mod :=
  if (m.offered port b t).isSome then m
  else if b then m.visitB port t
  else
    let k := tqKey port t
    let f := (tget (0, 0) k m.sc.tags).2
    m.onSc fun s => { s with tags := tset (0, 0) k (max (m.objv (vOid port)) f, f) s.tags }

/-! Gates (R374 to R377). -/

def gateOid (port e : Nat) : Nat := mkOid 8 (0x700 + port) (1 + e)
def gateObj (port el : Nat) : Nat := mkOid 8 (0x800 + port) el
/-- Entries of the running list: OPEN and DURATION. -/
def Mod.gateList (m : Mod) (port : Nat) : List (Nat × Nat) :=
  if (m.sched port).gateRun then
    (List.range (m.objv (gateObj port 2))).map fun e => let v := m.objv (gateOid port e); (fld v 56 8, fld v 0 32)
  else []

/-- Where the list stands at meridian time: the active entry, and how long it has run. -/
def gateAt : List (Nat × Nat) → Nat → Nat → Option (Nat × Nat)
  | [], _, _ => none
  | (_, d) :: t, e, pos => if pos < d then some (e, pos) else gateAt t (e + 1) (pos - d)

def Mod.gatePos (m : Mod) (port : Nat) : Option (Nat × Nat) :=
  let l := m.gateList port
  let cycle := (l.map (·.2)).sum
  if cycle = 0 then none else gateAt l 0 ((m.meridian - m.objv (gateObj port 4)) % cycle)

/-- Classes open now. -/
def Mod.gateMask (m : Mod) (port : Nat) : Nat :=
  match m.gatePos port with
  | some (e, _) => ((m.gateList port).getD e (255, 0)).1
  | none => 255

/-- Time for which a class stays open from an entry on, over at most n entries; none while it never closes. -/
def openFrom (l : List (Nat × Nat)) (c : Nat) : Nat → Nat → Option Nat
  | 0, _ => none
  | n + 1, e =>
    match l[e % l.length]? with
    | some (mask, d) => if bit mask c then (openFrom l c n (e + 1)).map (· + d) else some 0
    | none => some 0

/-- Lengths of the open periods of a class: from each entry that opens it after one that does not. -/
def openPeriods (l : List (Nat × Nat)) (c : Nat) : List Nat :=
  (List.range l.length).filterMap fun e =>
    let before := ((l.getD ((e + l.length - 1) % l.length) (0, 0)).1)
    if bit before c then none else openFrom l c l.length e

/-- The guard lets the packet start now (R376): 0 yes, 1 held, 2 started at the opening of the longest open period. -/
def Mod.guardOf (m : Mod) (port c n : Nat) : Nat :=
  if m.objv (mkOid 8 port 8) = 0 then 0
  else
    match m.gatePos port with
    | none => 0
    | some (e, pos) =>
      let l := m.gateList port
      match openFrom l c l.length e with
      | none => 0
      | some d =>
        let need := n * 8000
        let left := d - pos
        if need ≤ left * m.rawRate port then 0
        else
          let longest := (openPeriods l c).foldl max 0
          if longest * m.rawRate port < need then (if left = longest then 2 else 1) else 1

/-! Heads and high-water marks (R379, R381). -/

def cqHw (port c : Nat) : Nat := mkOid 8 (0x500 + port) (1 + c)
def tqHw (port : Nat) (b : Bool) (t : Nat) : Nat := mkOid 8 (0x400 + 4 * port + 2 * b2n b + t / 128) (1 + t % 128)

/-- Raise a high-water element (R381). -/
def Mod.highWater (m : Mod) (oid depth delay : Nat) : Mod :=
  let v := m.objv oid
  m.setObj oid (max (fld v 32 32) (min delay (2 ^ 32 - 1)) * 2 ^ 32 + max (fld v 0 18) (min depth (2 ^ 18 - 1)))

/-- Cells of a tenant queue. -/
def Mod.tqCells (m : Mod) (port : Nat) (b : Bool) (t : Nat) : Nat :=
  (((m.dataEntries port b).filter fun x => x.2.held.tenant = t).map fun x => x.2.cells).sum

/-- Note since when the entries that head their queues do so. Times are kept with 1 added; 0 is "not a head". -/
def Mod.noteHeads (m : Mod) (port : Nat) : Mod :=
  let t0 := m.now + 1
  let offered := [false, true].flatMap fun b => (m.activeTenants port b).filterMap fun t => (m.offered port b t).map fun x => x.2.held.id
  m.each (List.range 8) fun c m =>
    m.setQueue (qKey port c) ((m.queue (qKey port c)).mapIdx fun i e =>
      { e with headAt := if i = 0 then (if e.headAt = 0 then t0 else e.headAt) else 0,
               tqAt := if e.held.id ∈ offered ∧ c ∈ reqClasses then (if e.tqAt = 0 then t0 else e.tqAt) else 0 })

/-- A head's delay so far. -/
def Mod.delayOf (m : Mod) (at_ : Nat) : Nat := if at_ = 0 then 0 else m.now + 1 - at_

/-- Firmware made the packet with neither a tenant nor a parcel: class A of T000, charged to no tenant shaper (R364). -/
def Held.free (h : Held) : Bool := decide (h.blk = .hub) && decide (h.port = none)

/-- Data class of a packet (R364): what the data mover makes, write-backs and evictions of the memory-side cache, and its prefetches (R413), are class B;
else the tenant's map. -/
def Mod.isClassB (m : Mod) (h : Held) : Bool :=
  let made := decide (h.port = none) && (decide (h.blk = .mover) || (decide (h.blk = .cache) && decide (h.pkt.tc = 0) && (decide (3 ≤ fld h.pkt.body 61 3) || bit h.pkt.body 60)))
  made || (!h.free && bit (m.objv (mkOid 8 (0x600 + h.tenant / 128) (1 + h.tenant % 128))) h.pkt.tc)

/-! Cut-through (R337 to R339). -/

/-- The packet may leave before its last cell is stored: 0 yes, 1 no, 2 no because of the rates (R339). -/
def Mod.cutOf (m : Mod) (port c : Nat) (h : Held) : Nat :=
  match h.port with
  | none => 1
  | some q =>
    if h.refs ≠ [] ∨ bit (m.objv (mkOid 7 (0x100 + port) 1)) c = false ∨ h.secure = true ∨ (port < 48 ∧ 4 ≤ c ∧ c ≤ 6) then 1
    else if m.rawRate q < m.rawRate port then 2
    else 0

/-- Key of the stream a bridge packet belongs to at its target: source module and port, tenant (R481). -/
def pktStream (p : Pkt) : Nat := p.src * 2 ^ 14 + fld (msgBody p) 58 6 * 2 ^ 8 + fld (msgBody p) 16 8

/-- The port's semaphore keeps this packet back (R503). -/
def Mod.semBlocks (m : Mod) (port : Nat) (p : Pkt) : Bool :=
  (p.tc = 4 || p.tc = 5) &&
  let s := tget {} port m.br.sems
  match s.holder with
  | some h => decide (h.key ≠ pktStream p) && !(s.cur.isSome && decide (p.src = m.rt.id) && decide (fld (msgBody p) 24 24 = s.tid))
  | none => false

/-! Array errors (R357, R358, R591, R593): units of a die, 0 to 31 banks, 32 to 48 Cadastre slices, 49 to 52 tracker slices. -/

/-- Threshold of a unit's kind (R593). -/
def Mod.leakLimit (m : Mod) (u : Nat) : Nat := m.objv (mkOid 0xE 0x23 (if u < 32 then 1 else if u < 49 then 2 else 3))

def unitEvent (u k : Nat) : Nat :=
  if u < 32 then 4 * u + k else if u < 49 then 128 + 8 * (u - 32) + 2 + k else 264 + 8 * (u - 49) + 2 + k

def leakUnit (d u : Nat) : UnitId :=
  let die : Die := Fin.ofNat 2 d
  if u < 32 then .bank die (Fin.ofNat 32 u) else if u < 49 then .slice die (Fin.ofNat 17 (u - 32)) else .tracker die (Fin.ofNat 4 (u - 49))

/-- Raise a unit's leak count, which stops once it has reached its threshold (R593). -/
def Mod.leakUp (m : Mod) (d u n : Nat) : Mod :=
  let k := 64 * d + u
  if k ∈ m.cn.leakStopped ∨ m.leakLimit u ≤ tget 0 k m.cn.leak then m
  else m.onCn fun c => { c with leak := tset 0 k (min 255 (tget 0 k c.leak + n)) c.leak }

/-- A corrected error in a unit's array: counted, EV-0E03 at most once per unit per second. -/
def Mod.corrected (m : Mod) (d u : Nat) : Mod :=
  ((m.dieCtr d (unitEvent u 2) 1).leakUp d u 1).raiseOnce (evt 0x0E03 (Loc.ofUnit (leakUnit d u))) (64 * d + u)

/-- An uncorrectable error in a unit's array: counted in 7.0d0.0B. -/
def Mod.uncorrected (m : Mod) (d u : Nat) : Mod := ((m.dieCtr d (unitEvent u 3) 1).leakUp d u 8).dieObj d 0xB 1

/-- A residue check fails, row k of R357 (R357, R583). -/
def Mod.residue (m : Mod) (d k code : Nat) : Mod := ((m.dieCtr d (328 + k) 1).dieObj d 0xA 1).raise (evt code (Loc.ofDie d))

end Sys2Proof.Machine
end

