-- ==== Sys2Proof/Machine/DequeueOps.lean ====
section
/-! DEFINITION. Admission to an egress queue, and sending from one (R331 to R345, R363 to R376). -/
namespace Sys2Proof.Machine

/-! Admission. -/

/-- Cells the shared pool must give for n cells in queue k under the dynamic threshold, none when the packet waits (R333). -/
def Mod.admitNeed (m : Mod) (k n : Nat) : Option Nat :=
  let c := k % 8
  let len := m.qLen k
  let mn := m.qMin c
  let need := n - (mn - len)
  let free := m.poolS (dieOfQueue k) - m.sharedUsed (dieOfQueue k)
  let e := signed32 (m.objv (mkOid 7 (0x20 + c) 1))
  let lim := if 0 ≤ e then free * 2 ^ e.toNat else free / 2 ^ (-e).toNat
  if need = 0 ∨ ((len - mn) + need ≤ lim ∧ need ≤ free) then some need else none

/-- Put a packet on queue k: tags, credit, heads and high-water marks follow. `charge` cells of it are the shared pool's. -/
def Mod.putQueue (m : Mod) (k : Nat) (h : Held) (charge : Nat) : Mod :=
  let port := k / 8
  let c := k % 8
  let isReq := decide (k < 512) && reqClasses.contains c
  let b := isReq && m.isClassB h
  let m1 := if isReq then m.wake port b h.tenant else m
  let e : QEnt := { held := h, stamp := tget 0 k m.sw.age, cells := pktCells h.pkt, shared := charge, classB := b }
  let m2 := m1.setQueue k (m1.queue k ++ [e])
  if 512 ≤ k then m2
  else
    let m3 := (m2.noteHeads port).highWater (cqHw port c) (m2.qLen k) 0
    if isReq then m3.highWater (tqHw port b h.tenant) (m2.tqCells port b h.tenant) 0 else m3

/-- The queue a packet on die d goes to toward a port: the port's, or the bridge queue toward the other die (R328). -/
def queueToward (d port c : Nat) : Nat := if dieOfPort port = d then qKey port c else bridgeKey d c

/-- Release the ingress reservation of an admitted or delivered packet (R332). -/
def Mod.releaseIngress (m : Mod) (h : Held) : Mod :=
  match h.port with
  | some p => if 48 ≤ p ∧ h.crossed = false then m.freeCredit (p - 48) h.pkt else m
  | none => m

def Mod.dropWaiting (m : Mod) (id : Nat) : Mod := m.onSw fun s => { s with waiting := s.waiting.filter fun h => h.id ≠ id }

/-- A waiting packet is taken out with its cells: it goes no further from here. -/
def Mod.takeOut (m : Mod) (h : Held) : Mod := ((m.dropWaiting h.id).freeCells h.die h.banks).releaseIngress h

/-- Two waiting packets share an ingress reservation, or an originating block and class (R334, R631). -/
def sameSource (a b : Held) : Bool :=
  decide (a.pkt.tc = b.pkt.tc) && decide (a.crossed = b.crossed) &&
  (if a.crossed then decide (a.die = b.die)
   else match a.port, b.port with
    | some p, some q => decide (p = q)
    | none, none => decide (a.blk = b.blk) && decide (a.die = b.die)
    | _, _ => false)

/-- The packet is for the module itself: no egress port is meant. -/
def Mod.forSelf (m : Mod) (h : Held) : Bool := decide (h.refs = []) && h.target.isNone && decide (h.pkt.dest = m.rt.id)

/-- An earlier packet of the same source keeps this one back: it has not been looked up, or is bound for the same queue, or is of the
same block (R334, R631). -/
def Mod.keptBack (m : Mod) (i : Nat) (h : Held) (k : Option Nat) : Bool :=
  (m.sw.waiting.take i).any fun g =>
    sameSource g h && (g.port.isNone || match g.target, k with
      | some t, some q => decide (queueToward g.die t g.pkt.tc = q)
      | none, none => m.forSelf g
      | none, some _ => !m.forSelf g
      | some _, none => false)

/-- HOPS of a packet received on a fabric port rises by 1 (R304). -/
def hopped (h : Held) : Held :=
  match h.port with
  | some p => if 48 ≤ p ∧ h.crossed = false then { h with pkt := { h.pkt with hops := h.pkt.hops + 1 } } else h
  | none => h

/-- The header of a waiting packet has been looked up: keep its target, with the raised HOPS (R304, R305). -/
def Mod.lookedUp (m : Mod) (h : Held) (t : Nat) : Mod :=
  m.onSw fun s => { s with waiting := s.waiting.map fun x => if x.id = h.id then { h with target := some t } else x }

/-- A packet that waits for admission is counted once (R583). -/
def Mod.waits (m : Mod) (h : Held) : Mod :=
  if h.waited then m
  else
    let m1 := m.onSw fun s => { s with waiting := s.waiting.map fun x => if x.id = h.id then { x with waited := true } else x }
    match h.port with
    | some p => m1.portCtr p 4 1
    | none => m1

/-- Admit a looked-up packet, or let it wait (R332, R333, R335). -/
def Mod.enqueueAt (m : Mod) (h : Held) (t : Nat) : Mod :=
  let k := queueToward h.die t h.pkt.tc
  if 48 ≤ t ∧ (m.link (t - 48)).st = .retired then (m.takeOut h).releaseHeld (t - 48) false h.pkt
  else
    let m0 := if 48 ≤ t then m.startExit (t - 48) else m
    match m0.admitNeed k (pktCells h.pkt) with
    | none => m0.waits h
    | some need =>
      let (m1, h1) := match h.port, h.crossed with
        | none, false => let x := m0.allocCells h.die (pktCells h.pkt); (x.1, { h with banks := x.2 })
        | _, _ => (m0, h)
      (((m1.dropWaiting h.id).releaseIngress h).addShared h.die need).putQueue k { h1 with target := some t } need

/-- References of a multicast packet on its die: the queues of this die, each with its DEST and port, and the DESTs on the other die
(R341). -/
def Mod.mcastTargets (m : Mod) (h : Held) : List (Nat × Nat) × List Nat × List Nat :=
  let routed := h.refs.map fun d => (d, m.route h.die { h.pkt with dest := d })
  let here := routed.filterMap fun x => match x.2 with
    | some n => if dieOfPort (48 + n) = h.die then some (x.1, 48 + n) else none
    | none => none
  let there := routed.filterMap fun x => match x.2 with
    | some n => if dieOfPort (48 + n) = h.die ∨ h.crossed = true then none else some x.1
    | none => none
  (here, there, routed.filterMap fun x => if x.2.isNone then some x.1 else none)

/-- Admit a multicast packet when every target queue admits it: stored once, charged once (R341, R342). -/
def Mod.admitMulti (m : Mod) (h : Held) : Mod :=
  let (here, there, lost) := m.mcastTargets h
  let n := pktCells h.pkt
  let keys := (here.map fun x => qKey x.2 h.pkt.tc) ++ if there = [] then [] else [bridgeKey h.die h.pkt.tc]
  let needs := keys.map fun k => m.admitNeed k n
  if here = [] ∧ there = [] then (m.takeOut h).each lost fun d m => m.dropPkt h.die { h.pkt with dest := d }
  else if needs.any (·.isNone) then m.waits h
  else
    let charge := (needs.map fun x => x.getD 0).foldl max 0
    let (m1, banks) := if h.banks = [] then m.allocCells h.die n else (m, h.banks)
    let m2 := ((m1.dropWaiting h.id).releaseIngress h).addShared h.die charge
    let m3 := m2.each here fun x m =>
      (m.startExit (x.2 - 48)).putQueue (qKey x.2 h.pkt.tc)
        { h with banks := banks, refs := [], pkt := { h.pkt with dest := x.1 }, target := some x.2 } charge
    let m4 := if there = [] then m3 else m3.putQueue (bridgeKey h.die h.pkt.tc) { h with banks := banks, refs := there } charge
    (m4.onSw fun s => { s with refs := tset 0 h.id keys.length s.refs }).each lost fun d m => m.dropPkt h.die { h.pkt with dest := d }

/-! Sending. -/

/-- A configuration write to a device whose cache capability is hidden leaves Cache_Enable 0 (R225): bit 0 of the register at 0Ch of its CXL
DVSEC (PRESUMED, CXL 3.1). -/
def Mod.hideWrite (m : Mod) (port : Nat) (p : Pkt) : Pkt :=
  match (m.edge port).dvsec with
  | none => p
  | some d =>
    let o := p.fmt - 1
    let a := p.data.getD o 0
    let n := unitLen p o
    if (m.edge port).cacheHidden = true ∧ (p.fmt = 1 ∨ flitStarts p = true) ∧ p.tc = 5 ∧ unitKind p o = 0x44 ∧ a ≤ d + 12 ∧ d + 12 < a + n then
      let w := dataWords n (setFld (wordsData n (p.data.drop (4 + o))) (8 * (d + 12 - a)) 1 0)
      { p with data := p.data.take (4 + o) ++ w ++ p.data.drop (4 + o + w.length) }
    else p

/-- Packet handed to an edge port: a REQ of TC3 to TC5 is recorded until its device answers or its link layer acknowledges it (R495). -/
def Mod.noteDelivered (m : Mod) (port : Nat) (p : Pkt) : Mod :=
  let b := msgBody p
  let isReq := decide (3 ≤ p.tc) && decide (p.tc ≤ 5) && decide (fld b 48 4 = 0) && (decide (p.fmt = 1) || flitStarts p)
  if isReq && !(decide (p.tc = 4) && isMessage (unitKind p (p.fmt - 1))) then
    let d : Deliv := { port := port, sw := p.src, tid := fld b 24 24, flow := fld b 52 12, tenant := fld b 16 8,
                       tc := p.tc, tunnel := decide (p.fmt = 2),
                       hide := if (m.edge port).cacheHidden = true ∧ p.tc = 5 ∧ unitKind p (p.fmt - 1) = 0x04 then some (p.data.getD (p.fmt - 1) 0) else none }
    m.onBr fun b => { b with delivered := b.delivered ++ [d] }
  else m

/-- Counters of a packet sent by a port, or of one reference of it (R583, R590). -/
def Mod.countSent (m : Mod) (port : Nat) (e : QEnt) : Mod :=
  let p := e.held.pkt
  let multi := decide (tget 0 e.held.id m.sw.refs ≠ 0)
  let m1 := ((m.portCtr port 1 1).portCtr port 3 (cdiv (pktBytes p) 32)).onCn fun c => { c with winTx := tset 0 port (tget 0 port c.winTx + pktBytes p) c.winTx }
  let m2 := (m1.when p.poison (·.portCtr port 20 1)).when multi (·.portCtr port 18 1)
  let m3 := m2.each e.held.banks fun b m => m.dieCtr (dieOfPort port) (4 * b + 1) 1
  m3.tallyPkt 2 port e.held.tenant p

/-- An entry leaves its queue: its cells go, its delay is noted, the next heads are noted. -/
def Mod.unqueue (m : Mod) (k : Nat) (e : QEnt) : Mod :=
  let port := k / 8
  let m1 := (m.dropEntry k e).setQueue k ((m.queue k).filter fun x => x.held.id ≠ e.held.id ∨ x.held.pkt.dest ≠ e.held.pkt.dest)
  if 512 ≤ k then m1
  else
    let m2 := m1.highWater (cqHw port (k % 8)) 0 (m.delayOf e.headAt)
    let m3 := if e.tqAt = 0 then m2 else m2.highWater (tqHw port e.classB e.held.tenant) 0 (m.delayOf e.tqAt)
    m3.noteHeads port

/-- Send an entry of port p: whole, or by cut-through the words stored so far (R337). -/
def Mod.sendEntry (m : Mod) (port c : Nat) (e : QEnt) : Mod :=
  let k := qKey port c
  let p := if port < 48 then m.hideWrite port e.held.pkt else e.held.pkt
  let whole := decide (4 * p.len ≤ e.held.got)
  let m1 := m.countSent port e
  let m2 := if port < 48 then m1.noteDelivered port p else m1
  if whole then
    let m3 := if 48 ≤ port then m2.sendWords (port - 48) p (pktWords p) true true else m2.emit (edgeOut port e.held p)
    m3.unqueue k e
  else
    let m3 := m2.portCtr port 6 1
    let m4 := if 48 ≤ port then m3.sendWords (port - 48) p (hdrWord p :: p.body % 2 ^ 64 :: p.data) true false else m3
    m4.setQueue k ((m4.queue k).map fun x => if x.held.id = e.held.id then { x with cut := true, sent := e.held.got } else x)

/-- Send an entry of a die's bridge queue: it waits in the bridge reservation of the other die (R330, R354). -/
def Mod.sendBridge (m : Mod) (d c : Nat) (e : QEnt) : Mod :=
  let k := bridgeKey d c
  let o := 1 - d
  let m1 := (m.unqueue k e).dieObj d 9 1
  let (m2, banks) := m1.allocCells o (pktCells e.held.pkt)
  let m3 := (m2.dieCtr d 344 1).dieCtr o 345 1
  m3.onSw fun s =>
    let id := if e.held.refs = [] then e.held.id else s.nextId
    { s with nextId := if e.held.refs = [] then s.nextId else s.nextId + 1,
             waiting := s.waiting ++ [{ e.held with id := id, die := o, banks := banks, crossed := true }] }

/-! Eligibility (R363). -/

/-- The output takes a packet of class c and its length now. -/
def Mod.outputTakes (m : Mod) (port credits c len : Nat) : Bool :=
  if 48 ≤ port then decide ((m.link (port - 48)).st = .active) && (m.link (port - 48)).canSend c len
  else m.carries (qKey port c) && bit credits c

/-- An entry may leave but for shapers: 0 yes; 1 no; 2 held by the guard; 3 yes, counted by the guard; 4 not stored yet and the rates forbid
cut-through (R339). -/
def Mod.mayLeave (m : Mod) (port credits c : Nat) (e : QEnt) : Nat :=
  if bit (m.gateMask port) c = false ∨ m.outputTakes port credits c e.held.pkt.len = false ∨ m.semBlocks port e.held.pkt = true then 1
  else
    let cut := if e.held.got < 4 * e.held.pkt.len ∨ e.resend then (if e.held.got < 4 * e.held.pkt.len then (if e.resend then 1 else m.cutOf port c e.held) else 0) else 0
    if cut = 1 then 1
    else if cut = 2 then 4
    else match m.guardOf port c (m.clen port e.held.pkt) with
      | 0 => 0
      | 2 => 3
      | _ => 2

/-- A port is in the middle of a packet it sends by cut-through. -/
def Mod.midPacket (m : Mod) (port : Nat) : Bool := (List.range 8).any fun c => (m.queue (qKey port c)).any fun e => e.cut && !e.resend

/-- Count what a look at an entry shows: held by the guard, or by the rates, once each (R339, R376). -/
def Mod.noteHeld (m : Mod) (port c : Nat) (e : QEnt) (r : Nat) : Mod :=
  let note := fun (f : QEnt → QEnt) => m.setQueue (qKey port c) ((m.queue (qKey port c)).map fun x => if x.held.id = e.held.id then f x else x)
  if r < 2 then m
  else if r = 4 then
    if e.rated then m else ((note fun x => { x with rated := true }).portObj port 4 1).portCtr port 5 1
  else if e.guarded then m
  else ((note fun x => { x with guarded := true }).bump (gateObj port 5) 1).portCtr port 16 1

/-- The tenant shaper and the data-class shaper conform (R369). -/
def Mod.shaped (m : Mod) (port : Nat) (b : Bool) (h : Held) : Bool :=
  (h.free || m.conforms port h.tenant) && m.conforms port (if b then 257 else 256)

/-- The entry a tenant queue offers: the oldest eligible head of its lists (R365). -/
def Mod.eligible (m : Mod) (port credits : Nat) (b : Bool) (t : Nat) : Option (Nat × QEnt) :=
  (m.listHeads port b t).find? fun x => let r := m.mayLeave port credits x.1 x.2; (decide (r = 0) || decide (r = 3)) && m.shaped port b x.2.held

/-- Next packet of class A: the least start tag, the lowest tenant on a tie (R372). -/
def Mod.nextA (m : Mod) (port credits : Nat) : Option (Nat × QEnt) :=
  let c := (m.activeTenants port false).filterMap fun t => (m.eligible port credits false t).map fun x => ((tget (0, 0) (tqKey port t) m.sc.tags).1, x)
  match c with
  | [] => none
  | x :: l => some (l.foldl (fun a y => if y.1 < a.1 then y else a) x).2

/-- The tenant after the pointer among those with class B packets, and whether the pass is complete. -/
def nextTenant (ts : List Nat) (ptr : Nat) : Option (Nat × Bool) :=
  match ts.find? fun t => ptr < t with
  | some t => some (t, false)
  | none => ts.head?.map fun t => (t, true)

/-- Next packet of class B: the pointer stays while its queue has credit, else visits the next queue (R373). -/
def Mod.nextB (port credits : Nat) (m : Mod) : Nat → Mod × Option (Nat × QEnt)
  | 0 => (m, none)
  | n + 1 =>
    let ptr := (m.sched port).ptr
    let d := (tget (0, 0) (tqKey port ptr) m.sc.credit).1
    match m.eligible port credits true ptr with
    | some x => if m.clen port x.2.held.pkt ≤ d then (m, some x) else step m ptr n
    | none => step m ptr n
where
  step (m : Mod) (ptr n : Nat) : Mod × Option (Nat × QEnt) :=
    match nextTenant (m.activeTenants port true) ptr with
    | none => (m, none)
    | some (t, wrap) =>
      let m1 := if wrap then m.setObj (rOid port) ((m.objv (rOid port) + 1) % 2 ^ 32) else m
      Mod.nextB port credits ((m1.onSched port fun s => { s with ptr := t }).visitB port t) n

/-- Some class B queue offers an eligible packet. -/
def Mod.anyB (m : Mod) (port credits : Nat) : Bool := (m.activeTenants port true).any fun t => (m.eligible port credits true t).isSome

/-- A data class's turn begins: its deficit takes the quantum (R368). -/
def Mod.startTurn (m : Mod) (port : Nat) : Mod :=
  let q := fun (el : Nat) => 256 * m.objv (mkOid 8 port el)
  m.onSched port fun s =>
    if s.started then s else if s.turn then { s with dcB := s.dcB + q 3, started := true } else { s with dcA := s.dcA + q 2, started := true }

/-- A data class's turn ends: the other's begins; a class with no packet loses its deficit (R368). -/
def Mod.endTurn (m : Mod) (port : Nat) : Mod :=
  let empty := fun (b : Bool) => (m.dataEntries port b).isEmpty
  m.onSched port fun s =>
    { s with turn := !s.turn, started := false, dcA := if empty false then 0 else s.dcA, dcB := if empty true then 0 else s.dcB }

/-- The Requests group sends one packet by deficit round robin between the data classes (R368). -/
def Mod.sendRequest (port credits : Nat) (m : Mod) : Nat → Option Mod
  | 0 => none
  | n + 1 =>
    let s := m.sched port
    let b := s.turn
    let fuel := 32 * ((m.activeTenants port true).length + 1)
    let offers := if b then m.anyB port credits else (m.nextA port credits).isSome
    let other := if b then (m.nextA port credits).isSome else m.anyB port credits
    if offers = false ∧ other = false then none
    else if offers = false then Mod.sendRequest port credits ((m.startTurn port).endTurn port) n
    else
      let (m1, pick) := if b then (m.startTurn port).nextB port credits fuel else (m.startTurn port, m.nextA port credits)
      match pick with
      | none => Mod.sendRequest port credits (m1.endTurn port) n
      | some (c, e) =>
        let have_ := if b then (m1.sched port).dcB else (m1.sched port).dcA
        let len := m1.clen port e.held.pkt
        if have_ < len then Mod.sendRequest port credits (m1.endTurn port) n
        else
          let t := e.held.tenant
          let m3 := m1.onSched port fun s => if b then { s with dcB := have_ - len } else { s with dcA := have_ - len }
          let m4 := if b then m3.onSc fun x => { x with credit := tmod (0, 0) (tqKey port t) (fun y => (y.1 - len, y.2)) x.credit }
            else
              let tag := tget (0, 0) (tqKey port t) m3.sc.tags
              let f := tag.1 + len * 256 / m3.weight port t
              (m3.setObj (vOid port) tag.1).onSc fun x => { x with tags := tset (0, 0) (tqKey port t) (f, f) x.tags }
          let m5 := (if e.held.free then m4 else m4.charge port t len).charge port (if b then 257 else 256) len
          let m6 := m5.noteHeld port c e (m5.mayLeave port credits c e)
          let m7 := m6.sendEntry port c e
          some (m7.onSched port fun s =>
            { s with dcA := if (m7.dataEntries port false).isEmpty then 0 else s.dcA, dcB := if (m7.dataEntries port true).isEmpty then 0 else s.dcB })

/-- The first entry of a class of the Control or Responses group that may leave. -/
def Mod.headOf (m : Mod) (port credits c : Nat) : Option QEnt :=
  match m.queue (qKey port c) with
  | [] => none
  | e :: _ => let r := m.mayLeave port credits c e; if r = 0 ∨ r = 3 then some e else none

/-- One of two classes served in turn, one packet each (R362). -/
def Mod.sendPair (m : Mod) (port credits c1 c2 : Nat) (second : Bool) : Option (Mod × Bool) :=
  let first := if second then c2 else c1
  let last := if second then c1 else c2
  let send := fun (c : Nat) (e : QEnt) => ((m.noteHeld port c e (m.mayLeave port credits c e)).sendEntry port c e, decide (c = c1))
  match m.headOf port credits first with
  | some e => some (send first e)
  | none => (m.headOf port credits last).map (send last)

/-- Note the packets the guard or the rates hold at the heads, and a decision a shaper defers (R376, R339, R583). -/
def Mod.noteDeferred (m : Mod) (port credits : Nat) : Mod :=
  let heads := ([1, 2, 6, 7].filterMap fun c => (m.queue (qKey port c)).head?.map fun e => (c, e)) ++
    [false, true].flatMap fun b => (m.activeTenants port b).flatMap fun t => m.listHeads port b t
  let m1 := m.each heads fun x m => m.noteHeld port x.1 x.2 (m.mayLeave port credits x.1 x.2)
  let deferred := [false, true].any fun b => (m.activeTenants port b).any fun t =>
    (m.listHeads port b t).any fun x => decide (m.mayLeave port credits x.1 x.2 = 0) && !m.shaped port b x.2.held
  if deferred then m1.portCtr port 17 1 else m1

/-- One dequeue decision of an egress port (R363). -/
def Mod.dequeuePort (m : Mod) (port credits : Nat) : Mod :=
  if m.midPacket port then m
  else
    let s := m.sched port
    match m.sendPair port credits 1 7 s.rrControl with
    | some (m1, x) => m1.onSched port fun s => { s with rrControl := x }
    | none =>
      match m.sendPair port credits 2 6 s.rrResponse with
      | some (m1, x) => m1.onSched port fun s => { s with rrResponse := x }
      | none =>
        let m0 := m.noteDeferred port credits
        (Mod.sendRequest port credits m0 80).getD m0

/-- The bridge takes the head of class c: its reservation of 256 cells on the other die has room; a packet not yet stored crosses only
under R337's conditions for its final port (R330, R338, R354). -/
def Mod.bridgeHead (m : Mod) (d c : Nat) : Option QEnt :=
  match m.queue (bridgeKey d c) with
  | [] => none
  | e :: _ =>
    let used := ((m.sw.waiting.filter fun h => h.crossed && decide (h.die = 1 - d) && decide (h.pkt.tc = c)).map fun h => pktCells h.pkt).sum
    let stored := decide (4 * e.held.pkt.len ≤ e.held.got) || (match e.held.target with
      | some t => decide (m.cutOf t c e.held = 0)
      | none => false)
    if used + e.cells ≤ 256 ∧ stored = true then some e else none

/-- One dequeue decision of a die's bridge direction: class groups, the classes of a group in turn (R363). -/
def Mod.dequeueBridge (m : Mod) (d : Nat) : Mod :=
  let s := m.sched (64 + d)
  let try_ := fun (l : List Nat) => l.findSome? fun c => (m.bridgeHead d c).map fun e => (c, e)
  match try_ (if s.rrControl then [7, 1] else [1, 7]) with
  | some (c, e) => (m.sendBridge d c e).onSched (64 + d) fun s => { s with rrControl := decide (c = 1) }
  | none =>
    match try_ (if s.rrResponse then [6, 2] else [2, 6]) with
    | some (c, e) => (m.sendBridge d c e).onSched (64 + d) fun s => { s with rrResponse := decide (c = 2) }
    | none =>
      match try_ ((reqClasses.drop s.rrBridge) ++ reqClasses.take s.rrBridge) with
      | some (c, e) => (m.sendBridge d c e).onSched (64 + d) fun s => { s with rrBridge := ((reqClasses.findIdx? (· = c)).getD 0 + 1) % 4 }
      | none => m

/-! A fatal error of a die (R30). -/

/-- A packet that waits on die d is bound for the other die. -/
def Mod.boundAcross (m : Mod) (d : Nat) (h : Held) : Bool :=
  decide (h.die = d) && !h.crossed && !m.forSelf h && (if h.refs = [] then
      match h.target with
      | some t => decide (dieOfPort t ≠ d)
      | none => (m.route d (hopped h).pkt).any fun n => decide (dieOfPort (48 + n) ≠ d)
    else !(m.mcastTargets h).2.1.isEmpty)

/-- Die d stops: packets not yet sent across the bridge are poisoned (R30). -/
def Mod.stopDie (m : Mod) (d : Nat) : Mod :=
  let poison := fun (h : Held) => { h with pkt := { h.pkt with poison := true } }
  let m1 := m.each (List.range 8) fun c m =>
    m.setQueue (bridgeKey d c) ((m.queue (bridgeKey d c)).map fun e => { e with held := poison e.held })
  let m2 := m1.onSw fun s => { s with waiting := s.waiting.map fun h => if m.boundAcross d h then poison h else h }
  m2.onMd fun b => { b with dieStopped := addOnce d b.dieStopped }

/-- Entries of a queue up to its last one that came across the bridge. -/
def carriedOf (q : List QEnt) : List QEnt := (q.reverse.dropWhile fun e => !e.held.crossed).reverse

/-- Die o carries what it had accepted from the bridge: it is admitted, and each queue sends up to it, as far as its output takes it (R30). An
edge port's link credits are taken as held: the fatal error names none (DESIGN CHOICE, log entry 209). -/
def Mod.carryOver (m : Mod) (o : Nat) : Mod :=
  let m1 := m.each (m.sw.waiting.filter fun h => h.crossed && decide (h.die = o)) fun h m =>
    if h.refs ≠ [] then m.admitMulti h
    else match h.target with
      | some t => m.enqueueAt h t
      | none => m
  m1.each ((List.range 64).filter fun p => dieOfPort p = o) fun p m =>
    m.each (List.range 8) fun c m => m.each (carriedOf (m.queue (qKey p c))) fun x m =>
      match m.queue (qKey p c) with
      | [] => m
      | e :: _ =>
        if e.held.id = x.held.id ∧ 4 * e.held.pkt.len ≤ e.held.got ∧ m.outputTakes p 0xFF c e.held.pkt.len = true then m.sendEntry p c e else m

/-- A fatal error of a fabric die (R30, R594): it stops at once, the other die carries what came across, FAULT follows. -/
def Mod.fatalDie (m : Mod) (d cause : Nat) : Mod :=
  if m.md.mode.code < 2 ∨ m.md.mode = .fault then m
  else (((m.raise (evt 0x0E01 (Loc.ofDie d) cause)).stopDie d).carryOver (1 - d)).enterFault 0x0E01

end Sys2Proof.Machine
end

