-- ==== Sys2Proof/Machine/TrackerOps.lean ====
section
/-! DEFINITION. Operations of the transaction tracker and of late errors: answers to requesters, responses, timers (R340, R346 to R358,
R500, R501). -/
namespace Sys2Proof.Machine

/-- Result of a data-mover access: queue pair, access number, data, poison, error (0 none, a CODE of R500, 256 its own timer). A completion
record that is written raises its vector (R506, R520). -/
def Mod.moverResult (m : Mod) (qp id data : Nat) (poison : Bool) (err : Nat) : Mod :=
  match m.sv.records.find? fun (r : RecWrite) => decide (r.qp = qp) && decide (r.id = id) with
  | none => m.onCa fun b => { b with results := b.results ++ [(qp, id, data, poison, err)] }
  | some r =>
    let m1 := m.onSv fun b => { b with records := without r b.records }
    match r.vec with
    | some v => if err = 0 then m1.msi r.fn v else m1
    | none => m1

/-- The vPPB a port is bound to completes contained requests as Unsupported Request (R239). -/
def Mod.dpcUrOf (m : Mod) (sw q : Nat) : Bool := m.ed.vppb.any fun x => x.2.dpcUr && decide (m.boundPort (x.1 / 32) (x.1 % 32) = some (sw, q))

/-- Answer the requester of a live entry with an error (R349, R500, R501); `code` 0 is its own completion timer. -/
def Mod.answerError (m : Mod) (k code : Nat) : Mod :=
  let t := m.trk k
  let m1 := (m.each (if t.kind = 3 then t.acks else []) fun a m => m.ackWrite true a).liveDone t.ref true
  if t.orphan ∨ t.kind = 0 ∨ t.kind = 5 then m
  else
    match t.kind, t.port with
    | 1, some p =>
      if t.discard then (if code = 0 then m1 else m1.bump (mkOid 4 (0x080 + p) 4) 1)
      else
        let ur := decide (code = 4) && m.dpcUrOf t.dest t.destPort
        m1.completeTo p t.tag t.tenant (if code = 0 then 1 else code) false (if ur then headerUnit 0 0 false false p (withKind 1 0x0A) else [])
    | 2, some p => m1.postedError (m.vcsOfPort p) p t.tenant t.addr code
    | 3, some p =>
      if t.silent then m1
      else if t.span ≠ 0 ∧ t.discard = false then m1.completeTo p t.tag t.tenant (if code = 0 then 1 else code) false []
      else if t.hdm && t.write then m1.postedError (m.vcsOfPort p) p t.tenant t.addr code
      else if t.discard then (if code = 0 then m1 else m1.bump (mkOid 4 (0x080 + p) 4) 1)
      else if t.write then
        let m2 := (m1.onLine t.addr fun s => { s with poison := true }).answerHost p t.tag 0 false 0 t.tenant
        match m.vcsOfPort p with
        | some v => m2.mediaEvent v (m.dpaOfLine v t.addr)
        | none => m2
      else m1.answerHost p t.tag 0 true 0 t.tenant
    | 4, _ => m1.moverResult t.tag t.ref 0 true (if code = 0 then 256 else code)
    | _, _ => m1

/-- Late and unmatched responses are discarded and counted (R351). -/
def Mod.lateResponse (m : Mod) (d : Nat) : Mod := m.dieObj d 0xC 1

/-- A response with a transaction ID meets the tracker (R348, R351): the entry completes and its requester is answered, an orphan is
released, or the response is discarded. `words` are its header unit and data. -/
def Mod.trkAnswer (m : Mod) (tid code : Nat) (poison : Bool) (words : List Nat) : Mod :=
  match m.trkOfTid tid with
  | none => m.lateResponse (tid / 65536 % 2)
  | some k =>
    let t := m.trk k
    let d := k / 65536
    if t.orphan then (m.releaseOrphan k).lateResponse d
    else if code ≠ 0 then (m.answerError k code).freeTrk k
    else
      let m1 := m.liveDone t.ref false
      match t.kind, t.port with
      | 1, some p =>
        if t.discard then (m1.bump (mkOid 4 (0x080 + p) 4) 1).freeTrk k
        else (m1.completeTo p t.tag t.tenant 0 poison words).freeTrk k
      | 3, some _ =>
        m.memDone k 0 poison (if t.write then 0 else wordsLine (words.drop 4))
      | 4, _ => (m1.moverResult t.tag t.ref (wordsLine (words.drop 4)) poison 0).freeTrk k
      | _, _ => m1.freeTrk k

/-- A completion timer expires (R349): the requester is answered, the entry is orphaned, a write's address is logged. -/
def Mod.trkExpire (m : Mod) (k : Nat) : Mod :=
  let t := m.trk k
  let d := k / 65536
  let slice := k % 65536 / 16384
  let m1 := (m.answerError k 0).setTrk k { t with orphan := true, orphanAt := m.now, deadline := none }
  let m2 := ((m1.dieCtr d (264 + 8 * slice + 2) 1).dieCtr d (264 + 8 * slice + 3) 1)
  let m3 := match t.port with
    | some p => (m2.portCtr p 11 1).portObj p 7 1
    | none => m2
  let m4 := m3.raise { evt 0x0706 (Loc.ofDie d) (m.tid k) t.addr with tenant := some t.tenant }
  if t.kind = 2 ∨ (t.kind = 1 ∧ t.write = true) then m4.raise { evt 0x0707 (Loc.ofDie d) (m.tid k) t.addr with tenant := some t.tenant } else m4

/-! Late errors (R340). -/

/-- The packet with a handle, and where it is: its queue entry, or waiting. -/
def Mod.findQueued (m : Mod) (id : Nat) : Option (Nat × QEnt) :=
  m.sw.queues.findSome? fun x => (x.2.find? fun e => e.held.id = id).map fun e => (x.1, e)

/-- Abandon a packet of which `sent` data words have gone to the link: its LEN is completed with zeros, and a NULLIFY header follows (R259). -/
def Mod.sendNullify (m : Mod) (n : Nat) (p : Pkt) (sent : Nat) : Mod :=
  let rest : List TxWord := (List.range (4 * p.len - sent)).map fun i => { w := 0, fin := decide (i + 1 = 4 * p.len - sent) }
  m.onLink n fun s => { s with tx := s.tx ++ rest ++ [{ w := hdrWord { p with fmt := 3, len := 0 } }, { w := 0, fin := true }] }

/-- A late error in a cut-through packet (R340): `routing` when the error lies in a field needed for routing or matching. -/
def Mod.lateError (m : Mod) (k : Nat) (e : QEnt) (routing stall : Bool) : Mod :=
  let port := k / 8
  let p := e.held.pkt
  let m1 := (((m.portCtr port 8 1).portObj port 5 1).raise (evt 0x0704 (Loc.port port)))
  if 48 ≤ port then
    let m2 := m1.sendNullify (port - 48) p e.sent
    if routing then (m2.unqueue k e).dropPkt (dieOfPort port) p
    else m2.setQueue k ((m2.queue k).map fun x => if x.held.id = e.held.id then
      { x with resend := true, cut := false, sent := 0, held := { x.held with pkt := { x.held.pkt with poison := x.held.pkt.poison || !stall } } } else x)
  else
    let data := p.data ++ List.replicate (4 * p.len - p.data.length) 0
    let m2 := (m1.emit (edgeOut port e.held { p with data := data, poison := true })).unqueue k e
    if e.held.got < 4 * p.len then m2.onSw fun s => { s with remnants := tset none e.held.id (some port) s.remnants } else m2

/-- A packet is poisoned where it stands. -/
def Mod.poisonHeld (m : Mod) (id : Nat) : Mod := m.onHeld id fun h => { h with pkt := { h.pkt with poison := true } }

/-- Remove a packet for good; the packet. -/
def Mod.discardHeld (m : Mod) (id : Nat) : Mod × Option Held :=
  match m.sw.waiting.find? fun h => h.id = id with
  | some h => (m.takeOut h, some h)
  | none =>
    match m.findQueued id with
    | some (k, e) => (m.unqueue k e, some e.held)
    | none => (m, none)

def isRequest (p : Pkt) : Bool := decide (p.tc = 0) || decide (3 ≤ p.tc ∧ p.tc ≤ 5)

end Sys2Proof.Machine
end

