-- ==== Sys2Proof/Machine/BridgeOps.lean ====
section
/-! DEFINITION. Operations of ordering and bridging: windows and targets, what may pass what, write-combining, carrying an access, host
accesses to pooled memory, barriers, semaphores (R481 to R508, R542 to R544). -/
namespace Sys2Proof.Machine

/-! Ports and targets. -/

/-- The vPPB window an address falls in: its vPPB, BAR and whether it is prefetchable. -/
def Mod.window (m : Mod) (v addr : Nat) : Option (Nat × Nat × Bool) :=
  (List.range 31).findSome? fun i =>
    let n := i + 1
    ((m.vppb v n).bars.find? fun x => decide (0 < x.2.2.1) && decide (x.2.1 ≤ addr) && decide (addr < x.2.1 + x.2.2.1)).map fun x => (n, x.1, x.2.2.2)

/-- Memory type of a window: Normal when prefetchable and not overridden (R483). -/
def Mod.windowNormal (m : Mod) (v n bar : Nat) (pf : Bool) : Bool :=
  pf && (match m.boundPort v n with
    | some (sw, q) => if sw = m.rt.id then !bit (m.objv (mkOid 7 (0x400 + q) 2)) bar else true
    | none => true)

/-- What an address leads to from port p: its module and port, VCS, vPPB, and 0 a Device window, 1 a Normal window, 2 the host's memory; none
when nothing of the VCS claims it (R483, R542). Host memory has no type in R483: it is neither combined nor split. -/
def Mod.decodeIo (m : Mod) (p addr : Nat) : Option (Nat × Nat × Nat × Nat × Nat) :=
  match (m.edge p).farVcs with
  | some (sw, v, n, up) => some (sw, up, v, n, 2)
  | none =>
    match m.vcsOf p with
    | none => none
    | some v =>
      match m.window v addr with
      | some (n, bar, pf) => (m.boundPort v n).map fun x => (x.1, x.2, v, n, if m.windowNormal v n bar pf then 1 else 0)
      | none =>
        let up := m.objv (mkOid 4 (0x100 + v) 1)
        if m.role p = 2 ∧ up ≠ 0xFF then some (m.rt.id, up, v, m.binding p % 256, 2) else none

/-! Bytes and enables. -/

/-- Bytes [a, a + n) as an enable mask. -/
def spanMask (a n : Nat) : Nat := 2 ^ a * (2 ^ n - 1)
/-- data with the bytes of a mask taken from new, over len bytes. -/
def mergeBytes (mask new old len : Nat) : Nat :=
  ofBytesLE ((List.range len).map fun i => if bit mask i then new / 256 ^ i % 256 else old / 256 ^ i % 256)
/-- Contiguous runs of set bits below len: start and length, ascending. -/
def maskRuns (mask : Nat) : Nat → List (Nat × Nat)
  | 0 => []
  | n + 1 =>
    let l := maskRuns mask n
    if bit mask n then
      match l.getLast? with
      | some (a, k) => if a + k = n then l.dropLast ++ [(a, k + 1)] else l ++ [(n, 1)]
      | none => [(n, 1)]
    else l

/-! Order (R488, R489). -/

/-- Two accesses touch a common 64-byte line of one target. -/
def commonLine (a b : IoReq) : Bool :=
  decide (a.tgt = b.tgt) && decide (a.addr / 64 ≤ (b.addr + b.len - 1) / 64) && decide (b.addr / 64 ≤ (a.addr + a.len - 1) / 64)

/-- The later access may pass the earlier one (R488). -/
def mayPass (later earlier : IoReq) : Bool :=
  let other := decide (later.tgt ≠ earlier.tgt)
  let line := !commonLine later earlier
  match later.kind, earlier.kind with
  | .normalWrite, .normalWrite => line
  | .normalWrite, .atomic => other
  | .normalWrite, .barrier => false
  | .normalWrite, _ => true
  | .deviceWrite, .normalWrite | .deviceWrite, .deviceWrite | .deviceWrite, .atomic => other
  | .deviceWrite, .barrier => false
  | .deviceWrite, _ => true
  | .normalRead, .normalWrite => line
  | .normalRead, _ => true
  | .deviceRead, .normalRead | .deviceRead, .barrier | .deviceRead, .interrupt => true
  | .deviceRead, _ => other
  | .atomic, .normalRead | .atomic, .interrupt => true
  | .atomic, .barrier => false
  | .atomic, _ => other
  | .barrier, .normalRead | .barrier, .deviceRead => true
  | .barrier, _ => false
  | .interrupt, .normalRead | .interrupt, .deviceRead => true
  | .interrupt, _ => false

/-- Class an access travels in (R492). -/
def Io.cls : Io → Nat
  | .write | .message | .unlock => 4
  | .read | .config | .atomic | .locked => 5
  | .completion => 6

def IoReq.cls (r : IoReq) : Nat := if r.hdm then 3 else r.io.cls

/-- Both travel in one class and flow: the path keeps their order (R489). Parcel accesses keep none: TC3 is routed adaptively. -/
def sameFlow (a b : IoReq) : Bool :=
  decide (a.tgt = b.tgt) && decide (a.cls = b.cls) && a.mem.isNone && b.mem.isNone && !a.hdm && !b.hdm &&
  match a.tgt with
  | .port _ _ => true
  | .parcel _ _ => false

/-- A barrier of the stream is pending (R498). -/
def Mod.barred (m : Mod) (stream : Nat) : Bool := m.br.barriers.any fun b => decide (b.stream = stream)

/-- The access may be carried now: nothing earlier of its stream keeps it, no reset holds its target, no second locked sequence runs in its
VCS (R236, R488, R498, R504). `before` are the held accesses accepted before it. -/
def Mod.mayCarry (m : Mod) (r : IoReq) (before : List IoReq) : Bool :=
  let mine := fun (x : IoReq) => decide (x.stream = r.stream) && decide (x.id ≠ r.id)
  let reads := decide (r.kind = .normalRead) || decide (r.kind = .deviceRead)
  let done := if r.io = .completion then
      ((m.br.live ++ before).all fun x => !(mine x && decide (x.tgt = r.tgt) && (decide (x.io = .write) || decide (x.io = .message))))
    else
      ((m.br.live.filter mine).all fun x => decide (r.id < x.id) || mayPass r x || sameFlow r x) &&
      ((before.filter mine).all fun x => mayPass r x) && (reads || !m.barred r.stream)
  let reset := match r.tgt with
    | .port sw q => decide (sw ≠ m.rt.id) && m.ed.vppb.any fun x => x.2.resetHold && decide (x.2.remote = some (sw, q))
    | .parcel _ _ => false
  let locked := decide (r.io = .locked) && ((m.br.locks.any fun x => decide (x.1 = r.vcs)) || before.any fun x => decide (x.io = .locked) && decide (x.vcs = r.vcs))
  done && !reset && !locked

/-! Errors before an access is carried. -/

/-- An access that is not carried is answered with an error of R500 (R491, R501, R542). -/
def Mod.refuse (m : Mod) (r : IoReq) (code : Nat) : Mod :=
  match r.maker with
  | .mover q _ => m.moverResult q r.id 0 true code
  | .port p =>
    match r.io with
    | .write => m.postedError (m.vcsOf p) p r.tenant r.addr code
    | .message | .unlock | .completion => m
    | _ => m.completeTo p r.tag r.tenant code false []

/-- How a denied CXL.io request counts: 2 one that writes, 1 any other (R544). -/
def IoReq.denial (r : IoReq) : Nat := if r.io = .write ∨ r.io = .atomic ∨ r.mask ≠ 0 then 2 else 1

/-- A refusal for size or kind: counted, EV-0713 at most once per port per second (R491). -/
def Mod.refuseSize (m : Mod) (r : IoReq) : Mod :=
  match r.maker with
  | .port p => ((m.refuse r 5).bump (mkOid 7 (0x400 + p) 0xA) 1).raiseOnce (evt 0x0713 (Loc.port p) 0 r.addr) p
  | .mover _ _ => m.refuse r 5

/-- A denial under R542: counted by kind (1 host reads, 2 host writes, 3 descriptors), EV-0C03 at most once per tenant and port per second. -/
def Mod.deny (m : Mod) (kind port tenant addr : Nat) : Mod :=
  let m1 := m.bump (mkOid 0xC 0x30 kind) 1
  m1.raiseOnce { evt 0x0C03 (Loc.port port) port addr with tenant := some tenant } (256 * port + tenant)

/-- R491 refuses an access to a window: to a Device window by its size, alignment and enables; longer than 4 KiB. -/
def badSize (r : IoReq) (device : Bool) : Bool :=
  let whole := decide (r.mask = 0) || decide ((maskRuns r.mask r.len).length ≤ 1)
  match r.io with
  | .write | .read =>
    decide (4096 < r.len) || (device && (!(decide (r.len = 1) || decide (r.len = 2) || decide (r.len = 4) || decide (r.len = 8)) || !whole || decide (r.addr % r.len ≠ 0)))
  | .atomic => !(decide (r.len = 4) || decide (r.len = 8) || decide (r.len = 16))
  | .locked => !device
  | _ => false

/-! Carrying (R492 to R494). -/

/-- Completion timer of a kind, ms (R347). -/
def Mod.timerOf (m : Mod) (kind : Nat) : Nat := m.objv (mkOid 7 0x30 kind)

/-- Tracker kind of an access (R347). -/
def IoReq.trkKind (r : IoReq) : Nat :=
  match r.maker with
  | .mover _ _ => 4
  | .port _ =>
    if r.hdm then 3 else
    match r.io with
    | .write => 2
    | .read | .config | .atomic | .locked => 1
    | .message | .completion | .unlock => 0

/-- The PID entry of a remote port in the ID map stands and is no conflict (R226, R312, R313). -/
def Mod.pidKnown (m : Mod) (sw q : Nat) : Bool :=
  m.di.obj.any fun x => decide (pidOid 0 ≤ x.1) && decide (x.1 ≤ pidOid 4095) && bit x.2 31 && !bit x.2 29 && !bit x.2 28 &&
    decide (fld x.2 22 6 = q) && decide (fld x.2 0 12 = sw)

/-- Cross-module traffic is carried: the carriage modes agree, and a routed port has its PID (R310, R312). -/
def Mod.carriageOk (m : Mod) (sw q : Nat) : Bool := !m.rt.mismatch && (m.objv 0x602000 = 0 || m.pidKnown sw q)

/-- A message as FMT 2 flits of a format: the first word of each is the BODY with 1 in its low byte, or 2 in a continuation (R311; the layout of
flits is the model's). -/
def tunnelFlits (pkt : Pkt) (format vppb vcs : Nat) : List Pkt :=
  let len := if format = 1 then 3 else 8
  let room := 4 * len - 1
  let body := pack [(fld pkt.body 52 12, 52, 12), (format, 50, 2), (vppb, 44, 6), (vcs, 38, 6)]
  (List.range (cdiv pkt.data.length room)).map fun i =>
    let ws := (pkt.data.drop (room * i)).take room
    let first := (pkt.body / 256 * 256) + if i = 0 then 1 else 2
    { pkt with fmt := 2, len := len, body := body, data := (first :: ws) ++ List.replicate (room - ws.length) 0 }

/-- The edge port an access enters by, or its queue pair's upstream port (R346). -/
def Mod.portOf (m : Mod) (r : IoReq) : Nat :=
  match r.maker with
  | .port p => p
  | .mover q _ => m.qpPort q

/-- Flit format of the messages between a host and a device of another module (R311): the device port's own, or the one its vPPB keeps. -/
def Mod.flitFormat (m : Mod) (r : IoReq) : Nat :=
  match r.maker with
  | .port a => if (m.edge a).farVcs.isSome then (m.edge a).tr.flit else (m.vppb r.vcs r.vppb).flit
  | .mover _ _ => (m.vppb r.vcs r.vppb).flit

/-- Give a packet to its way: an edge port of this module, this module itself (`inbox`), or another module by flits or as it is; it enters by
its maker's port or from the data mover. -/
def Mod.launch (m : Mod) (r : IoReq) (sw q : Nat) (inbox : Bool) (pkt : Pkt) : Mod :=
  let put := fun (m : Mod) (p : Pkt) (t : Option Nat) =>
    match r.maker with
    | .port a => m.arrive a p (4 * p.len) t r.tenant r.secure
    | .mover _ _ => m.originate .mover (dieOfPort (m.portOf r)) p t r.tenant
  if sw = m.rt.id then put m pkt (if inbox then none else some q)
  else if m.objv 0x602000 = 1 ∨ (match r.maker with | .mover _ _ => true | .port _ => false) = true then put m pkt none
  else m.each (tunnelFlits pkt (m.flitFormat r) r.vppb r.vcs) fun p m => put m p none

/-- Header unit and data of an access; an AtomicOp carries its operands, the compare value of a CAS before the swap value. -/
def ioWords (r : IoReq) (q : Nat) : List Nat :=
  let device := decide (r.kind = .deviceWrite) || decide (r.kind = .deviceRead)
  let hdr := if r.hdm then withKind (r.mask % 2 ^ 64) (if r.io = .write then 0xC0 else 0x80) else r.hdr
  headerUnit r.addr r.len device r.poison q hdr ++
    match r.io with
    | .write => dataWords r.len r.data
    | .config | .message => if r.mask = 0 then [] else dataWords r.len r.data
    | .atomic =>
      match r.alu with
      | some (2, a, c) => dataWords (2 * r.len) (c % 256 ^ r.len + 256 ^ r.len * a)
      | some (_, a, _) => dataWords r.len a
      | none => []
    | .completion => if r.mask = 0 then [] else dataWords r.len r.data
    | .read | .locked | .unlock => []

/-- A write, or the write part of an atomic or a locked sequence: what a barrier covers (R496). -/
def IoReq.writes (r : IoReq) : Bool :=
  decide (r.io = .write) || decide (r.io = .atomic) || decide (r.io = .locked) || (decide (r.io = .config) && decide (r.mask ≠ 0))

/-- Carry a CXL.io access, or one to a device's memory, to an edge port: its tracker entry, its REQ; none when the tracker has no room (R346,
R492). A locked read, an atomic the device does not complete and an Unlock go through the bridge of the target's module (R502 to R504). -/
def Mod.carryIo (m : Mod) (r : IoReq) (sw q : Nat) : Option Mod :=
  let p := m.portOf r
  let flow := if r.hdm then 0 else flowLabel (match r.maker with | .port a => a | .mover _ _ => 63) q
  let kind := r.trkKind
  let native := decide (r.len ∈ (m.edge q).atomics)
  let inbox := decide (r.io = .locked) || decide (r.io = .unlock) || (decide (r.io = .atomic) && !native)
  let words := ioWords r q
  let send := fun (m : Mod) (tid : Nat) =>
    m.launch r sw q inbox { tc := r.cls, len := words.length / 4, poison := r.poison, dest := sw, src := m.rt.id,
                            body := bridgeBody flow 0 tid r.tenant 0, data := words }
  let live := fun (m : Mod) => m.onBr fun b => { b with live := b.live ++ [r], locks := if r.io = .locked then b.locks ++ [(r.vcs, r)] else b.locks }
  if kind = 0 then
    let m1 := send m 0
    some (if r.io = .unlock then m1.onBr fun b => { b with locks := b.locks.filter fun x => x.1 ≠ r.vcs } else m1)
  else
    let tag := match r.maker with
      | .port _ => r.tag
      | .mover x _ => x
    let t : Trk := { kind := kind, tag := tag, tenant := r.tenant, deadline := some (m.now + m.timerOf kind * ms), hdm := r.hdm,
                     write := r.writes, addr := r.addr, flow := flow, dest := sw, destPort := q, ref := r.id, discard := r.lost }
    match m.allocTrk (some p) (dieOfPort p) t with
    | none => none
    | some (m1, k) => some (send (live m1) (m1.tid k))

/-- Requests toward a removed port with DPC end by the vPPB's DPC Completion Control; posted writes are discarded and counted (R239). -/
def Mod.dpcRefuse (m : Mod) (r : IoReq) (q : Nat) : Mod :=
  match r.io, r.maker with
  | .write, _ => (m.bump (mkOid 4 (0x080 + q) 5) 1).refuse r 4
  | .message, _ | .unlock, _ | .completion, _ => m
  | _, .port p => m.completeTo p r.tag r.tenant 4 false (headerUnit 0 0 false false p (withKind (if (m.vppb r.vcs r.vppb).dpcUr then 1 else 4) 0x0A))
  | _, _ => m.refuse r 4

/-- Carry an access, or answer it where its target is contained, insecure or cannot be reached (R231, R239, R310); none while the tracker has no
room. -/
def Mod.carryTo (m : Mod) (r : IoReq) : Option Mod :=
  match r.tgt with
  | .port sw q =>
    if sw = m.rt.id then
      if (m.edge q).dpc then some (m.dpcRefuse r q)
      else if (m.edge q).stopped then some (m.refuse r 7)
      else m.carryIo r sw q
    else if m.carriageOk sw q = false then some (m.refuse r 2)
    else m.carryIo r sw q
  | .parcel _ _ => none

/-! Requests to parcels: TC3, or the home on this module (R412, R421, R492). -/

/-- The operand of an AtomicOp to a parcel, as `Trk.span` keeps it. -/
def IoReq.span (r : IoReq) : Nat := if r.io = .atomic then 1 + r.addr % 64 + 64 * r.len else 0

/-- What a CXL.mem request does at the home of a UC or Device parcel: 6 read, 7 write, 8 atomic. -/
def homeOp (r : IoReq) : Nat := match r.io with
  | .write => 7
  | .atomic => 8
  | _ => 6

/-- The edit of a parcel access: the enabled bytes of its line, the first byte of the line the lowest address, or an atomic. -/
def lineEdit (r : IoReq) : Edit :=
  match r.io with
  | .write =>
    let off := r.addr % 64
    .bytes (r.mask * 2 ^ off % 2 ^ 64) (ofBytes ((List.range 64).map fun i => if off ≤ i then r.data / 256 ^ (i - off) % 256 else 0))
  | .atomic =>
    match r.alu with
    | some (op, a, c) => .atomic op r.len (r.addr % 64) a c
    | none => .none
  | _ => .none

/-- Carry one access to a parcel at its home (R492); none while the tracker has no room. `acks`, `piece`, `silent` as the tracker entry keeps
them. -/
def Mod.carryParcel (m : Mod) (r : IoReq) (home desc : Nat) (acks : List Nat) (piece : Nat) (silent : Bool) : Option Mod :=
  let p := m.portOf r
  let line := lineKey home desc (r.addr % 2 ^ 48)
  let (kind, tag) := match r.maker with
    | .port _ => (3, r.tag)
    | .mover x _ => (4, x)
  let t : Trk := { kind := kind, tag := tag, tenant := r.tenant, deadline := some (m.now + m.timerOf kind * ms), write := decide (r.io = .write),
                   addr := line, dest := home, destPort := 63, ref := r.id, acks := acks, piece := piece, silent := silent, span := r.span,
                   discard := r.lost }
  match m.allocTrk (some p) (dieOfPort p) t with
  | none => none
  | some (m1, k) =>
    let m2 := m1.onBr fun b => { b with live := b.live ++ [r] }
    if home = m.rt.id then
      let who := match r.maker with
        | .port a => Who.host a r.tag k
        | .mover x _ => Who.mover x r.id
      let m3 := match r.maker with
        | .port _ => m2
        | .mover _ _ => m2.freeTrk k
      some (m3.enqueue (dirKey line) { op := homeOp r, from_ := m.rt.id, who := who, edit := lineEdit r })
    else
      let kindByte := match r.io with
        | .write => 0xC0
        | .atomic => 0x6C + (r.alu.getD (0, 0, 0)).1
        | _ => 0x80
      let words := headerUnit (desc * 2 ^ 48 + r.addr % 2 ^ 48) r.len true r.poison 63 (withKind (r.mask % 2 ^ 64) kindByte) ++
        (match r.io with
          | .write => dataWords r.len r.data
          | .atomic => let x := r.alu.getD (0, 0, 0); dataWords 32 (x.2.1 % 2 ^ 128 + x.2.2 % 2 ^ 128 * 2 ^ 128)
          | _ => [])
      let pkt : Pkt := { tc := 3, len := words.length / 4, poison := r.poison, dest := home, src := m.rt.id,
                         body := bridgeBody 0 0 (m1.tid k) r.tenant 0, data := words }
      some (match r.maker with
        | .port a => m2.arrive a pkt (4 * pkt.len) none r.tenant r.secure
        | .mover _ _ => m2.originate .mover (dieOfPort p) pkt none r.tenant)

/-! Accepting an access: carried at once, or held at its ingress (R489). -/

def Mod.hold (m : Mod) (r : IoReq) : Mod := m.onBr fun b => { b with held := b.held ++ [r] }

/-- An access of `mem` form carries its piece and its answer's form: (mask of the piece, 0 whole; 1 answered by nobody). -/
def Mod.tryCarry (m : Mod) (r : IoReq) : Option Mod :=
  match r.tgt with
  | .port _ _ => m.carryTo r
  | .parcel home desc =>
    let x := r.mem.getD (0, 0)
    m.carryParcel r home desc [] x.1 (x.2 = 1)

/-- A tracker without room: the access waits (R346). -/
def Mod.stallHold (m : Mod) (r : IoReq) : Mod := (m.trkStall (m.portOf r)).hold r

/-- Accept an access: it is carried, or held. -/
def Mod.accept (m : Mod) (r : IoReq) : Mod :=
  if m.mayCarry r m.br.held then
    match m.tryCarry r with
    | some m1 => m1
    | none => m.stallHold r
  else m.hold r

/-! Write-combining (R486, R487). -/

/-- The writes a flush sends: one for each contiguous run of written bytes, ascending. -/
def wcRuns (e : WcEnt) : List IoReq :=
  (maskRuns e.mask 256).map fun x =>
    { e.req with addr := e.block * 256 + x.1, len := x.2, data := e.data / 256 ^ x.1 % 256 ^ x.2, mask := 2 ^ x.2 - 1 }

/-- Runs of a UC parcel's entry, one for each line they touch. -/
def lineRuns (e : WcEnt) : List IoReq :=
  (List.range 4).flatMap fun i =>
    (maskRuns (e.mask / 2 ^ (64 * i) % 2 ^ 64) 64).map fun x =>
      { e.req with addr := e.block * 256 + 64 * i + x.1, len := x.2, data := e.data / 256 ^ (64 * i + x.1) % 256 ^ x.2, mask := 2 ^ x.2 - 1 }

/-- Carry or hold a run with a fresh number; the last run of a UC entry answers the writes combined in it. -/
def Mod.sendRun (m : Mod) (r : IoReq) (acks : List Nat) : Mod :=
  let (m1, id) := m.newAccess
  let r1 := { r with id := id, mem := match r.tgt with
    | .parcel _ _ => some (0, 1)
    | .port _ _ => none }
  match r1.tgt with
  | .port _ _ => m1.accept r1
  | .parcel home desc =>
    match m1.carryParcel r1 home desc acks 0 true with
    | some m2 => m2
    | none => (m1.each acks fun a m => m.ackWrite true a).trkStall (m1.portOf r1)

/-- Flush a write-combining entry (R487). -/
def Mod.flushWc (m : Mod) (e : WcEnt) : Mod :=
  let m1 := (m.onBr fun b => { b with wc := without e b.wc }).bump (mkOid 7 (0x400 + e.port) 4) 1
  match e.req.tgt with
  | .port _ _ => m1.each (wcRuns e) fun r m => m.sendRun r []
  | .parcel _ _ =>
    let runs := lineRuns e
    (m1.each (runs.dropLast) fun r m => m.sendRun r []).each (lastN 1 runs) fun r m => m.sendRun r e.acks

/-- Flush every entry a condition picks, oldest first. -/
def Mod.flushWhere (m : Mod) (f : WcEnt → Bool) : Mod := m.each (m.br.wc.filter f) fun e m => m.flushWc e

/-- Write-combining is in use on a port (R487). -/
def Mod.wcOn (m : Mod) (p : Nat) : Bool := decide (m.objv 0x730001 ≠ 0) && decide (m.objv (mkOid 7 (0x400 + p) 1) = 1)

/-- Merge a Normal write that lies within one 256-byte block into the port's entries (R486). -/
def Mod.combine (m : Mod) (p : Nat) (r : IoReq) (acks : List Nat) : Mod :=
  let block := r.addr / 256
  let off := r.addr % 256
  let mask := r.mask * 2 ^ off % 2 ^ 256
  let data := r.data * 256 ^ off
  let mine := fun (e : WcEnt) => decide (e.port = p) && decide (e.req.stream = r.stream) && decide (e.req.tgt = r.tgt) && decide (e.block = block)
  let m1 := match m.br.wc.find? mine with
    | some (e : WcEnt) => m.onBr fun b => { b with wc := b.wc.map fun x => if x = e then
        { e with mask := Nat.lor e.mask mask, data := mergeBytes mask data e.data 256, acks := e.acks ++ acks } else x }
    | none =>
      let full := decide (64 ≤ (m.br.wc.filter fun (e : WcEnt) => decide (e.port = p)).length)
      let oldest := m.br.wc.find? fun (e : WcEnt) => decide (e.port = p)
      let m0 := if full then (match oldest with
        | some e => m.flushWc e
        | none => m) else m
      let e0 : WcEnt := { port := p, req := r, block := block, mask := mask, data := mergeBytes mask data 0 256, first := m0.now, acks := acks }
      m0.onBr fun b => { b with wc := b.wc ++ [e0] }
  match m1.br.wc.find? mine with
  | some e => if e.mask = 2 ^ 256 - 1 then m1.flushWc e else m1
  | none => m1

/-- What a new access makes the stream flush first (R487, cases 3 and 4). -/
def Mod.flushFor (m : Mod) (r : IoReq) : Mod :=
  match r.kind with
  | .normalWrite => m
  | .normalRead => m.flushWhere fun e =>
      decide (e.req.stream = r.stream) && decide (e.req.tgt = r.tgt) && decide (r.addr / 64 * 64 < e.block * 256 + 256) && decide (e.block * 256 < (r.addr + r.len + 63) / 64 * 64) &&
      (List.range 4).any fun i => decide (e.mask / 2 ^ (64 * i) % 2 ^ 64 ≠ 0) && decide (r.addr / 64 ≤ e.block * 4 + i) && decide (e.block * 4 + i ≤ (r.addr + r.len - 1) / 64)
  | .barrier | .interrupt => m.flushWhere fun e => decide (e.req.stream = r.stream)
  | .deviceWrite | .deviceRead | .atomic => m.flushWhere fun e => decide (e.req.stream = r.stream) && decide (e.req.tgt = r.tgt)

/-- Pieces of an access that crosses boundaries of `b` bytes, ascending (R490). -/
def cutAt (b : Nat) (r : IoReq) : List IoReq :=
  (List.range ((r.addr + r.len - 1) / b - r.addr / b + 1)).map fun i =>
    let lo := max r.addr ((r.addr / b + i) * b)
    let hi := min (r.addr + r.len) ((r.addr / b + i + 1) * b)
    { r with addr := lo, len := hi - lo, data := r.data / 256 ^ (lo - r.addr) % 256 ^ (hi - lo), mask := r.mask / 2 ^ (lo - r.addr) % 2 ^ (hi - lo) }

/-- Accept a write of a stream: split, combined where it may be, carried in order (R484 to R490). -/
def Mod.acceptWrite (m : Mod) (r : IoReq) (normal windowed : Bool) : Mod :=
  let m0 := m.flushFor r
  let pieces := if normal ∧ windowed then cutAt 64 r else if 256 < r.len then cutAt 256 r else [r]
  m0.each pieces fun x m =>
    match r.maker with
    | .port p => if normal && windowed && m.wcOn p && !m.barred r.stream then m.combine p x [] else m.sendRun x []
    | .mover _ _ => m.accept x

/-! Host accesses to pooled memory (R447, R542). -/

/-- The word of one 8-byte piece for each piece whose bytes are enabled (R490). -/
def pieceMasks (mask : Nat) : List Nat := (List.range 8).filterMap fun i => let b := mask / 2 ^ (8 * i) % 256; if b = 0 then none else some (b * 2 ^ (8 * i))

/-- A tenant's access is admitted in this mode (R105, R120). -/
def Mod.admits (m : Mod) : Bool := decide (m.md.mode = .operate) || decide (m.md.mode = .capped)

/-- Answer a host's CXL.mem access with an error before anything is done: a read in poison; a write in Cmp, with the General Media event (R500,
R543). -/
def Mod.memRefuse (m : Mod) (p tag tenant v dpa : Nat) (write : Bool) : Mod :=
  let m1 := m.answerHost p tag 0 (!write) 0 tenant
  if write then m1.mediaEvent v dpa else m1

/-- An access to a Normal parcel through the memory-side cache, a host's with its kind 3 entry (R447). -/
def Mod.cacheAccess (m : Mod) (r : IoReq) (kind : AccKind) (line : Nat) : Mod :=
  let p := m.portOf r
  let put := fun (m : Mod) (a : Access) =>
    (m.onBr fun b => { b with live := b.live ++ [r] }).onLine line fun s => { s with wait := s.wait ++ [a] }
  match r.maker with
  | .mover q _ => put m { kind := kind, who := .mover q r.id, cap := some p, tenant := r.tenant, edit := lineEdit r }
  | .port _ =>
    let t : Trk := { kind := 3, tag := r.tag, tenant := r.tenant, deadline := some (m.now + m.timerOf 3 * ms),
                     write := decide (kind = .write), addr := line, ref := r.id, span := r.span, discard := r.lost }
    match m.allocTrk (some p) (dieOfPort p) t with
    | none => m.stallHold r
    | some (m1, k) => put m1 { kind := kind, who := .host p r.tag k, port := some p, tenant := r.tenant, edit := lineEdit r }

/-- Kinds of access as `IoReq.mem` numbers them, 16 and up to tell them from pieces. -/
def memCode : AccKind → Nat
  | .read => 16 | .readShared => 17 | .readAny => 18 | .write => 19 | .prefetch => 20
def memKind (n : Nat) : AccKind := if n = 17 then .readShared else if n = 18 then .readAny else if n = 19 then .write else .read

/-- Perform or hold a host's access that has passed its checks, by its parcel's type and policy (R412, R421, R447, R490). -/
def Mod.hostAccess (m : Mod) (r : IoReq) (kind : AccKind) (home desc : Nat) : Mod :=
  let line := lineKey home desc r.addr
  let attr := m.lineAttr line
  let device := attr.2.1
  let uc := decide (attr.1 = 2)
  let cachedRead := uc && decide (kind ≠ .write) && (decide (kind ≠ .read) || decide ((m.cline line).st ≠ .i))
  if r.io = .atomic ∧ (device = true ∨ uc = true) then (m.flushFor r).accept { r with mem := none }
  else if device then
    let m0 := m.flushFor r
    let ps := if kind = .write then pieceMasks (r.mask * 2 ^ (r.addr % 64)) else pieceMasks fullMask
    m0.each (ps.mapIdx fun i b => (i, b)) fun x m =>
      let (m1, id) := m.newAccess
      let a := (r.addr / 64 * 64) + (List.range 8).foldl (fun s i => if x.2 / 2 ^ (8 * i) % 256 ≠ 0 then 8 * i else s) 0
      let b := x.2 / 2 ^ (a % 64) % 256
      let piece := { r with id := id, addr := a, len := 8, mask := b, data := r.data * 256 ^ (r.addr % 64) / 256 ^ (a % 64) % 256 ^ 8,
                            mem := some (x.2, if x.1 + 1 = ps.length then 0 else 1) }
      m1.accept piece
  else if uc && !cachedRead then
    if kind = .write then
      if m.wcOn (m.portOf r) && !m.barred r.stream then
        let p := m.portOf r
        let (m1, id) := m.newAccess
        let t : Trk := { kind := 3, tag := r.tag, tenant := r.tenant, deadline := some (m1.now + m1.timerOf 3 * ms), write := true, addr := line, ref := id }
        match m1.allocTrk (some p) (dieOfPort p) t with
        | none => m1.stallHold r
        | some (m2, k) => (m2.onBr fun b => { b with live := b.live ++ [{ r with id := id, kind := .normalRead }] }).combine p r [k]
      else m.accept { r with mem := none }
    else (m.flushFor r).accept { r with mem := none }
  else
    let r1 := { r with mem := some (memCode kind, 0) }
    if kind = .write ∧ m.mayCarry r1 m.br.held = false then m.hold r1 else m.cacheAccess r1 kind line

/-- A host's CXL.mem request for vPPB 0 at a DPA (R542 to R544, R395). -/
def Mod.hostMem (m : Mod) (p tag dpa : Nat) (kind : AccKind) (io : Io) (len data mask : Nat) (alu : Option (Nat × Nat × Nat)) : Mod :=
  match m.vcsOf p with
  | none => m
  | some v =>
    let write := decide (kind = .write)
    let no := fun (m : Mod) (tenant code : Nat) =>
      if io = .atomic then m.completeTo p tag tenant code false [] else m.memRefuse p tag tenant v dpa write
    match m.extentAt v dpa with
    | none => no (m.deny (if write then 2 else 1) p 0 dpa) 0 6
    | some (e, x, off) =>
      let par := m.extParcel e x
      let tenant := extTenant x
      if extState x = 6 ∨ m.admits = false then no m tenant 8
      else if extState x ≠ 3 ∨ (write = true ∧ bit x 3 = false) then no (m.deny (if write then 2 else 1) p tenant dpa) tenant 6
      else if io = .atomic ∧ ¬ (len = 4 ∨ len = 8 ∨ len = 16) then
        ((m.bump (mkOid 7 (0x400 + p) 0xA) 1).raiseOnce (evt 0x0713 (Loc.port p) 0 dpa) p).completeTo p tag tenant 5 false []
      else
        let (m1, id) := m.newAccess
        let attr := m.lineAttr (lineKey par.1 par.2 off)
        let ak := match io, attr.2.1 with
          | .atomic, _ => Ak.atomic
          | _, true => if write then .deviceWrite else .deviceRead
          | _, false => if write then .normalWrite else .normalRead
        let r : IoReq := { id := id, stream := portStream p tenant, maker := .port p, tenant := tenant, kind := ak, io := io,
                           tgt := .parcel par.1 par.2, addr := off, len := len, data := data, mask := mask, tag := tag, alu := alu, vcs := v }
        let addr := par.2 * 2 ^ 48 + off
        let m2 := m1.tally { source := if write then 5 else 4, port := some p, tenant := some tenant, addr := some addr } 1
        m2.hostAccess r kind par.1 par.2

end Sys2Proof.Machine
end

