-- ==== Sys2Proof/Machine/BridgeRx.lean ====
section
/-! DEFINITION. Operations of bridging at both ends: CXL.io requests accepted, messages in flits put together, completions, semaphores and
emulated atomics, barriers (R490 to R506). -/
namespace Sys2Proof.Machine

/-! Accepting CXL.io requests. -/

/-- Where a message of port p goes: a device's to its host, a host's to the device of a vPPB (R506): module, port, VCS, vPPB. -/
def Mod.messageTo (m : Mod) (p n : Nat) : Option (Nat × Nat × Nat × Nat) :=
  match (m.edge p).farVcs with
  | some (sw, v, k, up) => some (sw, up, v, k)
  | none =>
    match m.vcsOf p with
    | none => none
    | some v =>
      if m.role p = 2 then some (m.rt.id, m.objv (mkOid 4 (0x100 + v) 1), v, m.binding p % 256)
      else (m.boundPort v n).map fun x => (x.1, x.2, v, n)

/-- The mode or the port lets a request in: all traffic in OPERATE and CAPPED, configuration in CONFIGURE (R105). -/
def Mod.ioAdmits (m : Mod) (io : Io) : Bool := m.admits || (decide (io = .config) && decide (m.md.mode = .configure))

/-- Accept a CXL.io request whose target is known, or answer it with the error of R491, R310 or R120 (code 11, an open status, R120). Normal
accesses are split at 64-byte lines, longer ones at 256 bytes (R490). -/
def Mod.ioAccept (m : Mod) (r0 : IoReq) (windowed device : Bool) : Mod :=
  let (m0, id) := m.newAccess
  let r := { r0 with id := id }
  if m0.ioAdmits r.io = false then (m0.drawn).refuse r (1 + Config.openValue 11 m0.draws % 9)
  else if windowed && badSize r device then m0.refuseSize r
  else
    match r.io with
    | .write => if r.kind = .interrupt then (m0.flushFor r).accept r else m0.acceptWrite r (windowed && !device) windowed
    | .read =>
      let pieces := if windowed && !device then cutAt 64 r else cutAt 256 r
      (m0.flushFor r).each pieces fun x m =>
        let (m1, k) := m.newAccess
        m1.accept { x with id := k }
    | _ => (m0.flushFor r).accept r

/-- A request of port p to an address (R483, R491, R542). -/
def Mod.ioByAddr (m : Mod) (p : Nat) (r : IoReq) (interrupt : Bool) : Mod :=
  match m.decodeIo p r.addr with
  | none => (m.deny r.denial p r.tenant r.addr).refuse r 6
  | some (sw, q, v, n, ty) =>
    let device := decide (ty = 0)
    let kind := match r.io with
      | .write => if interrupt then Ak.interrupt else if device then .deviceWrite else .normalWrite
      | .atomic | .locked => .atomic
      | _ => if device then .deviceRead else .normalRead
    m.ioAccept { r with tgt := .port sw q, vcs := v, vppb := n, kind := kind } (decide (ty ≤ 1)) device

/-- A request of port p to a vPPB, or from a device to its host: configuration, I/O and messages. -/
def Mod.ioByVppb (m : Mod) (p n : Nat) (r : IoReq) : Mod :=
  match m.messageTo p n with
  | none => if r.io = .message then m else (m.deny r.denial p r.tenant r.addr).refuse r 6
  | some (sw, q, v, k) => m.ioAccept { r with tgt := .port sw q, vcs := v, vppb := k } false false

/-- The first byte of the TLP header of a request kind. -/
def npByte : NpKind → Nat
  | .memRead => 0x20 | .ioRead => 0x02 | .ioWrite => 0x42 | .cfgRead => 0x04 | .cfgWrite => 0x44

/-- A host's CXL.mem request to the memory of the device on a vPPB (R492). -/
def Mod.hdmAccess (m : Mod) (p tag n addr : Nat) (write : Bool) (data mask tenant : Nat) : Mod :=
  match (m.vcsOf p).bind fun v => (m.boundPort v n).map fun x => (v, x) with
  | none => m.answerHost p tag 0 (!write) 0 tenant
  | some (v, sw, q) =>
    let (m1, id) := m.newAccess
    let r : IoReq := { id := id, stream := portStream p tenant, maker := .port p, tenant := tenant,
                       kind := if write then .normalWrite else .normalRead, io := if write then .write else .read, tgt := .port sw q, addr := addr,
                       len := 64, data := data, mask := mask, tag := tag, vcs := v, vppb := n, hdm := true }
    let o : FilterOp := { source := if write then 5 else 4, port := some p, tenant := some tenant, addr := some addr }
    if m.admits = false then m1.answerHost p tag 0 (!write) 0 tenant else (m1.tally o 1).accept r

/-! Messages in flits (R311, R492). -/

/-- Data bytes that follow the header unit of a message. -/
def dataBytes (kind len : Nat) : Nat :=
  if kind = 0x6E then 2 * len
  else if kind = 0x60 ∨ kind = 0x42 ∨ kind = 0x44 ∨ kind = 0x6C ∨ kind = 0x6D ∨ kind = 0x70 ∨ kind = 0xC0 ∨ kind = 0x4A then len
  else 0

/-- The message that a packet completes: an FMT 1 packet carries one; a flit is put to those before it of its module, flow and class. -/
def Mod.untunnel (m : Mod) (p : Pkt) : Mod × Option Pkt :=
  if p.fmt ≠ 2 then (m, some p)
  else
    let key := (p.src * 4096 + fld p.body 52 12) * 8 + p.tc
    let got := if flitStarts p then p.data else tget [] key m.br.tunnel ++ p.data.drop 1
    let unit_ := got.drop 1
    let need := 4 + 4 * cdiv (dataBytes (fld (unit_.getD 1 0) 24 8) (fld (unit_.getD 1 0) 48 16)) 32
    if unit_.length < need then (m.onBr fun b => { b with tunnel := tset [] key got b.tunnel }, none)
    else
      let words := got.take (1 + need)
      let pad := (4 - words.length % 4) % 4
      (m.onBr fun b => { b with tunnel := tset [] key [] b.tunnel },
        some { p with len := cdiv words.length 4, data := words ++ List.replicate pad 0 })

/-! Semaphores (R503 to R505). -/

def Mod.sem (m : Mod) (q : Nat) : Sem := tget {} q m.br.sems
def Mod.onSem (m : Mod) (q : Nat) (f : Sem → Sem) : Mod := m.onBr fun b => { b with sems := tmod {} q f b.sems }

/-- The error answer of a request at a semaphore. -/
def Mod.semRefuse (m : Mod) (q : Nat) (r : SemReq) (code : Nat) : Mod :=
  match berrPkt m.rt.id r.pkt code with
  | some b => m.originate .bridge (dieOfPort q) b none (fld (msgBody r.pkt) 16 8)
  | none => m

/-- The completion of an emulated atomic: its operand, or the status its read ended with. -/
def Mod.semComplete (m : Mod) (q : Nat) (r : SemReq) (old status : Nat) : Mod :=
  let b := msgBody r.pkt
  let f := fld b 52 12
  let size := fld ((msgWords r.pkt).getD 1 0) 48 16
  let ws := if status = 0 then headerUnit 0 size false false (f / 64) (withKind 0 0x4A) ++ dataWords size old
    else headerUnit 0 0 false false (f / 64) (withKind status 0x0A)
  m.originate .bridge (dieOfPort q) { tc := 6, len := ws.length / 4, dest := r.pkt.src, src := m.rt.id,
                                      body := bridgeBody (f % 64 * 64 + f / 64) 1 (fld b 24 24) (fld b 16 8) 0, data := ws } none (fld b 16 8)

/-- Start the emulation of an AtomicOp under the semaphore: read the operand (R503); none while the tracker has no room. -/
def Mod.emuStart (m : Mod) (q : Nat) (r : SemReq) : Option Mod :=
  let b := msgBody r.pkt
  let ws := msgWords r.pkt
  match m.allocTrk none (dieOfPort q) { kind := 1, tenant := fld b 16 8, addr := ws.getD 0 0 } with
  | none => none
  | some (m1, k) =>
    let tid := m1.tid k
    let unit_ := headerUnit (ws.getD 0 0) (fld (ws.getD 1 0) 48 16) (bit (ws.getD 1 0) 47) false q (withKind 0 0x20)
    let m2 := m1.toEdge .bridge q { tc := 5, len := 1, dest := m.rt.id, src := m.rt.id,
                                    body := bridgeBody (flowLabel 63 q) 0 tid (fld b 16 8) 0, data := unit_ } (fld b 16 8)
    some ((m2.onSem q fun s => { s with cur := some r, step := 0, tid := tid, old := 0 }).bump (mkOid 7 (0x400 + q) 8) 1)

/-- A request acquires the free semaphore of port q (R503, R504). -/
def Mod.semTake (m : Mod) (q : Nat) (r : SemReq) : Option Mod :=
  let hold := fun (m : Mod) => m.onSem q fun s => { s with holder := some r, since := m.now }
  if r.locked then some (((hold m).toEdge .bridge q r.pkt (fld (msgBody r.pkt) 16 8)).bump (mkOid 7 (0x400 + q) 8) 1)
  else (m.emuStart q r).map hold

/-- A request that needs the semaphore of port q: an AtomicOp of the stream that holds it in a locked sequence runs under it; a free semaphore
is taken; else it waits (R503, R504). -/
def Mod.semRequest (m : Mod) (q : Nat) (r : SemReq) : Mod :=
  let s := m.sem q
  let wait := m.onSem q fun s => { s with waiting := s.waiting ++ [r] }
  match s.holder with
  | some h => if h.locked = true ∧ h.key = r.key ∧ s.cur = none ∧ r.locked = false then (m.emuStart q r).getD wait else wait
  | none => if s.waiting = [] then (m.semTake q r).getD wait else wait

/-- The emulation under way ends; the semaphore stays with a locked sequence, else it is free. -/
def Mod.emuEnd (m : Mod) (q : Nat) : Mod :=
  let s := m.sem q
  let m1 := match s.cur with
    | some _ => m.releaseOrphan (s.tid % 2 ^ 17)
    | none => m
  m1.onSem q fun s =>
    { s with cur := none, step := 0, tid := 0, old := 0, holder := s.holder.filter fun h => h.locked }

/-- Take a request that has not been answered out of port q: its packet in the queue, or its delivered record. True when it was there. -/
def Mod.pullReq (m : Mod) (q : Nat) (r : SemReq) : Mod × Bool :=
  let b := msgBody r.pkt
  let isIt := fun (p : Pkt) => decide (p.src = r.pkt.src) && decide (fld (msgBody p) 24 24 = fld b 24 24) && decide (p.tc = 5)
  let mine := fun (d : Deliv) => decide (d.port = q) && decide (d.tc = 5) && decide (d.sw = r.pkt.src) && decide (d.tid = fld b 24 24)
  let waits := m.sw.waiting.filter fun h => decide (h.target = some q) && isIt h.pkt
  let queued := (m.queue (qKey q 5)).filter fun e => isIt e.held.pkt
  let m1 := (m.each waits fun h m => m.takeOut h).each queued fun e m => m.unqueue (qKey q 5) e
  (m1.onBr fun x => { x with delivered := x.delivered.filter fun d => !mine d },
    !waits.isEmpty || !queued.isEmpty || m.br.delivered.any mine)

/-- The sequence at port q ends with an error: the request in progress is answered, the semaphore is free (R505, R508). -/
def Mod.semFail (m : Mod) (q code : Nat) : Mod :=
  let s := m.sem q
  match s.holder with
  | none => m
  | some h =>
    let own : Pkt := { tc := 5, src := m.rt.id, body := bridgeBody 0 0 s.tid 0 0 }
    let m1 := match s.cur with
      | some r => (((m.pullReq q { key := 0, pkt := own }).1.emuEnd q)).semRefuse q r code
      | none =>
        match m.pullReq q h with
        | (m1, true) => m1.semRefuse q h code
        | (m1, false) => m1
    m1.onSem q fun s => { s with holder := none }

/-- The result an atomic writes: 0 fetch-and-add, 1 swap, 2 compare-and-swap (R502). -/
def aluResult (op size old a cmp : Nat) : Nat :=
  if op = 0 then (old + a) % 256 ^ size else if op = 1 then a % 256 ^ size else if old = cmp % 256 ^ size then a % 256 ^ size else old

/-- The operand of an emulated atomic has been read: compute and write, but for a CAS whose compare fails (R503). -/
def Mod.emuRead (m : Mod) (q : Nat) (words : List Nat) : Mod :=
  let s := m.sem q
  match s.cur with
  | none => m
  | some r =>
    let ws := msgWords r.pkt
    let size := fld (ws.getD 1 0) 48 16
    let op := fld (ws.getD 1 0) 24 8 - 0x6C
    let opnd := wordsData (2 * size) (ws.drop 4)
    let (a, cmp) := if op = 2 then (opnd / 256 ^ size, opnd % 256 ^ size) else (opnd % 256 ^ size, 0)
    let status := words.getD 3 0 % 8
    let old := wordsData size (words.drop 4)
    if status ≠ 0 then ((m.emuEnd q).semComplete q r 0 status)
    else if op = 2 ∧ old ≠ cmp then (m.emuEnd q).semComplete q r old 0
    else
      let b := msgBody r.pkt
      let ws := headerUnit (ws.getD 0 0) size (bit (ws.getD 1 0) 47) false q (withKind 0 0x60) ++ dataWords size (aluResult op size old a cmp)
      (m.toEdge .bridge q { tc := 4, len := ws.length / 4, dest := m.rt.id, src := m.rt.id,
                            body := bridgeBody (flowLabel 63 q) 0 s.tid (fld b 16 8) 0, data := ws } (fld b 16 8)).onSem q fun s =>
        { s with step := 1, old := old }

/-- The write of an emulated atomic is complete at its end point: the original value is returned (R503). -/
def Mod.emuWritten (m : Mod) (q : Nat) : Mod :=
  let s := m.sem q
  match s.cur with
  | none => m
  | some r => (m.emuEnd q).semComplete q r s.old 0

/-- The port whose emulation asked with a transaction ID. -/
def Mod.semOfTid (m : Mod) (tid : Nat) : Option Nat := (m.br.sems.find? fun x => x.2.cur.isSome && decide (x.2.tid = tid)).map (·.1)

/-- An Unlock of a stream arrives at port q (R504, R505). -/
def Mod.semUnlock (m : Mod) (q : Nat) (pkt : Pkt) : Mod :=
  let key := pktStream pkt
  let m1 := match (m.sem q).holder with
    | some h => if h.locked ∧ h.key = key then (m.emuEnd q).onSem q fun s => { s with holder := none } else m
    | none => m
  (m1.onBr fun b => { b with unlocked := b.unlocked.filter fun x => x ≠ (key, q) }).toEdge .bridge q pkt (fld (msgBody pkt) 16 8)

/-! Requests delivered, and what answers them. -/

/-- A request toward a contained port ends (R239): posted writes are discarded and counted, messages dropped, each but a message answered with
code 4. -/
def Mod.dpcEnd (m : Mod) (q : Nat) (pkt : Pkt) : Mod :=
  if pkt.tc = 4 ∧ isMessage (fld ((msgWords pkt).getD 1 0) 24 8) = true then m
  else (if pkt.tc = 4 then m.bump (mkOid 4 (0x080 + q) 5) 1 else m).semRefuse q { key := 0, pkt := pkt } 4

/-- A bridge request for an edge port of this module (R239, R231, R502 to R504); a stream whose locked sequence hit its limit is carried
unlocked until its Unlock (R505). -/
def Mod.bridgeDeliver (m : Mod) (q : Nat) (pkt : Pkt) : Mod :=
  let b := msgBody pkt
  let kind := fld ((msgWords pkt).getD 1 0) 24 8
  let size := fld ((msgWords pkt).getD 1 0) 48 16
  let posted := decide (pkt.tc = 4)
  let no := fun (m : Mod) (code : Nat) =>
    if posted && isMessage kind then m else m.semRefuse q { key := 0, pkt := pkt } code
  if (m.edge q).dpc then m.dpcEnd q pkt
  else if (m.edge q).stopped then no m 7
  else if kind = 0x33 then m.semUnlock q pkt
  else if kind = 0x21 ∧ (pktStream pkt, q) ∉ m.br.unlocked then m.semRequest q { key := pktStream pkt, pkt := pkt, locked := true }
  else if 0x6C ≤ kind ∧ kind ≤ 0x6E ∧ size ∉ (m.edge q).atomics then m.semRequest q { key := pktStream pkt, pkt := pkt }
  else m.toEdge .bridge q pkt (fld b 16 8)

/-- A request of another module to a UC or Device parcel homed here (R421, R492). -/
def Mod.bridgeHome (m : Mod) (pkt : Pkt) : Mod :=
  let ws := msgWords pkt
  let addr := ws.getD 0 0
  let kind := fld (ws.getD 1 0) 24 8
  let len := fld (ws.getD 1 0) 48 16
  let opnd := wordsData 32 (ws.drop 4)
  let io := if kind = 0xC0 then Io.write else if kind = 0x80 then .read else .atomic
  let r : IoReq := { id := 0, stream := 0, maker := .port 63, kind := .atomic, io := io, tgt := .parcel m.rt.id (addr / 2 ^ 48), addr := addr % 2 ^ 48,
                     len := len, data := wordsData len (ws.drop 4), mask := ws.getD 3 0,
                     alu := some (kind - 0x6C, opnd % 2 ^ 128, opnd / 2 ^ 128) }
  m.enqueue (dirKey (lineKey m.rt.id (addr / 2 ^ 48) (addr % 2 ^ 48)))
    { op := homeOp r, from_ := pkt.src, who := .remote pkt.src (fld (msgBody pkt) 24 24), poison := pkt.poison, edit := lineEdit r }

/-- Bytes still to come with or after a completion's data: the byte count of its header (bits 107 to 96; PCI Express). -/
def byteCount (words : List Nat) : Nat := fld (words.getD 2 0) 32 12

/-- A completion with a transaction ID reaches its requester's tracker: a piece that is not the last passes it on and keeps the entry (R490). -/
def Mod.bridgeCpl (m : Mod) (tid : Nat) (poison : Bool) (words : List Nat) : Mod :=
  let len := fld (words.getD 1 0) 48 16
  match m.semOfTid tid, m.trkOfTid tid with
  | some q, _ => m.emuRead q words
  | none, some k =>
    let t := m.trk k
    match t.kind, t.port with
    | 1, some p =>
      if len < byteCount words ∧ t.orphan = false ∧ t.discard = false then m.completeTo p t.tag t.tenant 0 poison words
      else m.trkAnswer tid 0 poison words
    | 4, _ =>
      let status := words.getD 3 0 % 8
      if status ≠ 0 ∧ words.getD 1 0 / 2 ^ 24 % 256 = 0x0A then (m.drawn).trkAnswer tid (1 + Config.openValue 12 m.draws % 9) poison words
      else m.trkAnswer tid 0 poison words
    | _, _ => m.trkAnswer tid 0 poison words
  | none, none => m.trkAnswer tid 0 poison words

/-- A locked read ended with an error that ends its sequence: its VCS may lock again (R504). -/
def Mod.lockEnded (m : Mod) (ref code : Nat) : Mod :=
  if code = 9 then m else m.onBr fun b => { b with locks := b.locks.filter fun x => x.2.id ≠ ref }

/-- A BERR with a transaction ID (R500). -/
def Mod.bridgeErr (m : Mod) (tid code : Nat) : Mod :=
  match m.semOfTid tid with
  | some q => m.semFail q (max 1 code)
  | none =>
    match m.trkOfTid tid with
    | some k => (m.trkAnswer tid (max 1 code) false []).lockEnded (m.trk k).ref code
    | none => m.trkAnswer tid (max 1 code) false []

/-- A posted write delivered at an edge port is complete at its end point (R482, R495). -/
def Mod.writeLanded (m : Mod) (d : Deliv) : Mod :=
  let rev := d.flow % 64 * 64 + d.flow / 64
  if d.sw = m.rt.id then
    match m.semOfTid d.tid with
    | some q => m.emuWritten q
    | none => m.trkAnswer d.tid 0 false []
  else if d.tunnel then
    m.onBr fun b => { b with bcmp := tmod (0, 0) (d.sw * 4096 + d.flow) (fun x => (x.1 + 1, x.2)) b.bcmp }
  else
    m.originate .bridge (dieOfPort d.port) { tc := 6, dest := d.sw, src := m.rt.id, body := bridgeBody rev 2 d.tid d.tenant 0 } none d.tenant

/-! Completions of a device or host toward their requester (R488, R492). -/

/-- Carry a completion: an access whose header holds status and byte count, its tag the transaction ID. -/
def Mod.carryCpl (m : Mod) (r : IoReq) : Mod :=
  match r.tgt, r.maker with
  | .port sw q, .port p =>
    let words := ioWords r q
    let pkt : Pkt := { tc := if r.hdm then 2 else 6, len := words.length / 4, poison := r.poison, dest := sw, src := m.rt.id,
                       body := bridgeBody (if r.hdm then 0 else flowLabel p q) 1 r.tag r.tenant 0, data := words }
    if r.hdm then m.arrive p pkt (4 * pkt.len) none r.tenant r.secure else m.launch r sw q true pkt
  | _, _ => m

/-- Accept a completion: carried, or held behind the earlier writes of its port's stream to the same host (R488). -/
def Mod.acceptCpl (m : Mod) (r : IoReq) : Mod := if r.hdm || m.mayCarry r m.br.held then m.carryCpl r else m.hold r

/-! Barriers (R496 to R499). -/

/-- Number within its stream of the next barrier. -/
def Mod.barNumber (m : Mod) (stream : Nat) : Nat := (tget 0 stream m.br.barSeq + 1) % 2 ^ 32

/-- A barrier of a stream is accepted: the stream's entries are flushed, and every earlier write is covered (R487, R496). -/
def Mod.barStart (m : Mod) (stream : Nat) (who : BarWho) (before : List IoReq) : Mod :=
  let m1 := m.flushWhere fun (e : WcEnt) => decide (e.req.stream = stream)
  let news := m1.br.held.drop m.br.held.length
  let ids := ((m1.br.live ++ before ++ news).filter fun r => decide (r.stream = stream) && r.writes).map (·.id)
  let b : Barrier := { stream := stream, seq := m1.barNumber stream, who := who, covered := ids }
  m1.onBr fun x => { x with barriers := x.barriers ++ [b], barSeq := tset 0 stream b.seq x.barSeq }

/-- Accept a barrier: at most one is pending in a stream; another waits (R498). -/
def Mod.barAccept (m : Mod) (stream : Nat) (maker : Maker) (who : BarWho) : Mod :=
  let tag := match who with
    | .vf n => n
    | .qp _ _ => 257
    | .firmware => 256
  let earlier := m.br.held.any fun x => decide (x.stream = stream) && decide (x.kind = .barrier)
  if m.barred stream || earlier then
    let (m1, id) := m.newAccess
    m1.hold { id := id, stream := stream, maker := maker, kind := .barrier, io := .message, tgt := .parcel 0 0, addr := 0, len := 0, tag := tag }
  else m.barStart stream who m.br.held

/-- Who issued a held barrier. -/
def barWho (r : IoReq) : BarWho :=
  match r.maker with
  | .mover q id => .qp q id
  | .port _ => if r.tag = 256 then .firmware else .vf r.tag

/-- Result words of a completed barrier (R499). -/
def barWords (b : Barrier) : Nat × Nat :=
  let status := if b.removed then 3 else if b.cut then 2 else if b.errors = 0 then 0 else 1
  (pack [(1, 63, 1), (status, 60, 3), (b.errors, 32, 16), (b.seq, 0, 32)], if status = 0 then 0 else b.addr)

def Mod.qp (m : Mod) (q : Nat) : QpSt := tget {} q m.sv.qps
def Mod.onQp (m : Mod) (q : Nat) (f : QpSt → QpSt) : Mod := m.onSv fun b => { b with qps := tmod {} q f b.qps }

/-- A barrier completes: its result goes to its issuer; counted; EV-0711 and the host's event when a write failed (R497, R499, R514). -/
def Mod.barDone (m : Mod) (b : Barrier) : Mod :=
  let (w0, w1) := barWords b
  let bad := decide (0 < b.errors)
  let m1 := m.onBr fun x => { x with barriers := without b x.barriers }
  let m2 := match b.who with
    | .vf n => (m1.onFn_ (vfFn n) fun s => { s with bar0 := w0, bar1 := w1 }).when bad (·.hostEvent (m.vfVcs n) 0)
    | .firmware => m1.onBr fun x => { x with results := tset (0, 0) 256 (w0, w1) x.results }
    | .qp q id => m1.onQp q fun s =>
        { s with started := s.started.map fun (d : Desc) => if d.num = id then { d with fence := false, ran := true, r2 := w0, r3 := w1 } else d }
  let port := match b.who with
    | .qp q _ => m.qpPort q
    | _ => b.stream / 256
  let m3 := m2.bump (mkOid 7 (0x400 + port) 6) 1
  if bad then (m3.bump (mkOid 7 (0x400 + port) 7) 1).raise (evt 0x0711 (Loc.port port) 0 b.addr) else m3

/-! Held accesses (R489). -/

/-- Carry a held access now; one that ends without being carried is complete with error (R497). -/
def Mod.carryHeld (m : Mod) (r : IoReq) (before : List IoReq) : Mod :=
  let m0 := m.onBr fun b => { b with held := b.held.filter fun x => x.id ≠ r.id }
  if r.kind = .barrier then m0.barStart r.stream (barWho r) before
  else if r.io = .completion then m0.carryCpl r
  else
    let m1 := match r.mem, r.tgt with
      | some (n, _), .parcel home desc =>
        if 16 ≤ n then
          let x := m0.cacheAccess r (memKind n) (lineKey home desc r.addr)
          if x.br.live.any fun y => decide (y.id = r.id) then some x else none
        else m0.tryCarry r
      | _, _ => m0.tryCarry r
    match m1 with
    | none => m
    | some m2 =>
      if r.writes && !(m2.br.live.any fun x => decide (x.id = r.id)) && !(m2.br.held.any fun x => decide (x.id = r.id)) then
        (m2.onBr fun b => { b with live := b.live ++ [r] }).liveDone r.id true
      else m2

/-- A held access may go: nothing earlier of its stream keeps it (R488, R498). -/
def Mod.mayRelease (m : Mod) (r : IoReq) (before : List IoReq) : Bool :=
  if r.kind = .barrier then
    !m.barred r.stream && !(before.any fun x => decide (x.stream = r.stream) && decide (x.kind = .barrier))
  else m.mayCarry r before

end Sys2Proof.Machine
end

