-- ==== Sys2Proof/Machine/Bridging.lean ====
section
/-! DEFINITION. The commands of protocol bridging: CXL.io and CXL.mem requests, bridge packets, write-combining, semaphores, barriers (R447,
R481 to R510). -/
namespace Sys2Proof.Machine

/-- An access of an edge port before its target is known. -/
def portReq (p : EdgePort) (lead : Nat) (t : Tenant) (io : Io) (addr len data mask hdr tag : Nat) (poison secure : Bool) : IoReq :=
  let _ := p
  { id := 0, stream := portStream lead t.val, maker := .port lead, tenant := t.val, kind := .interrupt, io := io, tgt := .port 0 0, addr := addr,
    len := len, data := data % 256 ^ len, mask := mask % 2 ^ len, hdr := hdr % 2 ^ 160, tag := tag, poison := poison, secure := secure }

/-- Requests are taken from an edge port whose Data Link Layer is up and whose forwarding no IDE failure has stopped, by its merged port's lowest
member (R36, R216, R231). -/
def Mod.takesFrom (m : Mod) (p : Nat) : Bool := (m.edge (m.lead p)).dllUp && !(m.edge (m.lead p)).stopped

/-- R488: a posted write, an MSI or MSI-X write of a device, or a message (to vPPB n when a host sends it). -/
def execIoPostedWrite (p : EdgePort) (t : Tenant) (kind : PostedKind) (n : Vppb) (addr len data mask hdr : Nat) (poison secure : Bool) :
    State → Host.Outcome State Fault Refusal := lift fun m =>
  let r := portReq p (m.lead p) t .write addr len data mask hdr 0 poison secure
  if m.takesFrom p = false then m
  else
    (match kind with
      | .write => m.ioByAddr (m.lead p) { r with hdr := withKind r.hdr 0x60 } false
      | .msi => m.ioByAddr (m.lead p) { r with hdr := withKind r.hdr 0x60 } true
      | .message => m.ioByVppb (m.lead p) n { r with io := .message, hdr := withKind r.hdr (if r.mask = 0 then 0x30 else 0x70) }).settle

/-- R492: a memory read, or an I/O or configuration request to vPPB n. -/
def execIoReadRequest (p : EdgePort) (t : Tenant) (kind : NpKind) (n : Vppb) (addr len data mask hdr tag : Nat) (secure : Bool) :
    State → Host.Outcome State Fault Refusal := lift fun m =>
  let write := decide (kind = .ioWrite) || decide (kind = .cfgWrite)
  let r := portReq p (m.lead p) t .read addr len data (if write then mask else 0) (withKind hdr (npByte kind)) tag false secure
  if m.takesFrom p = false then m
  else
    (if kind = .memRead then m.ioByAddr (m.lead p) r false
      else m.ioByVppb (m.lead p) n { r with io := .config, kind := if write then .deviceWrite else .deviceRead }).settle

/-- R502: an AtomicOp (op 0 FetchAdd, 1 Swap, 2 CAS) to an MMIO window or host memory, or to pooled memory at a DPA. -/
def execAtomicopRequest (p : EdgePort) (t : Tenant) (pooled : Bool) (op : Fin 3) (addr size a cmp hdr tag : Nat) :
    State → Host.Outcome State Fault Refusal := lift fun m =>
  if m.takesFrom p = false then m
  else if pooled then (m.hostMem (m.lead p) tag addr .write .atomic size a (2 ^ size - 1) (some (op.val, a, cmp))).settle
  else
    let r := portReq p (m.lead p) t .atomic addr size a (2 ^ size - 1) (withKind hdr (0x6C + op.val)) tag false false
    (m.ioByAddr (m.lead p) { r with alu := some (op.val, a, cmp) } false).settle

/-- R504: a locked read. -/
def execLockedRead (p : EdgePort) (t : Tenant) (addr len hdr tag : Nat) : State → Host.Outcome State Fault Refusal := lift fun m =>
  if m.takesFrom p = false then m
  else
    let parcel := (m.vcsOf (m.lead p)).any fun v => (m.extentAt v addr).isSome
    let r := portReq p (m.lead p) t .locked addr len 0 0 (withKind hdr 0x21) tag false false
    match m.decodeIo (m.lead p) addr with
    | some (_, _, _, _, 0) => (m.ioByAddr (m.lead p) r false).settle
    | some _ => (m.refuseSize r).settle
    | none => if parcel then (m.refuseSize r).settle else (m.ioByAddr (m.lead p) r false).settle

/-- R504: an Unlock message of the locking stream. -/
def execUnlockMessage (p : EdgePort) (t : Tenant) (hdr : Nat) : State → Host.Outcome State Fault Refusal := lift fun m =>
  let stream := portStream (m.lead p) t.val
  if m.takesFrom p = false then m
  else
    match m.br.locks.find? fun x => decide (x.2.stream = stream) with
    | none => m
    | some (_, l) =>
      let r := portReq p (m.lead p) t .unlock l.addr 0 0 0 (withKind hdr 0x33) 0 false false
      let (m1, id) := m.newAccess
      (m1.accept { r with id := id, tgt := l.tgt, vcs := l.vcs, vppb := l.vppb }).settle

/-- R503: the semaphore of port p is free and the next waiting stream acquires it. -/
def execSemaphoreAcquire (p : EdgePort) : State → Host.Outcome State Fault Refusal := lift fun m =>
  match (m.sem p).holder, (m.sem p).waiting with
  | none, r :: rest => ((m.semTake p r).map fun m => m.onSem p fun s => { s with waiting := rest }).getD m
  | _, _ => m

/-- R505: the semaphore of port p is held for longer than its limit. -/
def execSemaphoreHoldTimeout (p : EdgePort) : State → Host.Outcome State Fault Refusal := lift fun m =>
  match (m.sem p).holder with
  | none => m
  | some h =>
    let m1 := m.advanceTo ((m.sem p).since + m.objv (if h.locked then 0x730003 else 0x730002) * 1000)
    let m2 := m1.semFail p 9
    let m3 := if h.locked then m2.onBr fun b => { b with unlocked := addOnce (h.key, p.val) b.unlocked } else m2
    (m3.raise (evt 0x0712 (Loc.edge p))).settle

/-- R487: the oldest write-combining entry of port p reaches its hold time. -/
def execWcHoldTimeout (p : EdgePort) : State → Host.Outcome State Fault Refusal := lift fun m =>
  match m.br.wc.find? fun (e : WcEnt) => decide (e.port = p.val) with
  | some e => ((m.advanceTo (e.first + m.objv 0x730001)).flushWc e).settle
  | none => m

/-- R489: the i-th held access is carried if nothing earlier keeps it. -/
def execHeldAccessRelease (i : Nat) : State → Host.Outcome State Fault Refusal := lift fun m =>
  match m.br.held[i]? with
  | some r => if m.mayRelease r (m.br.held.take i) then (m.carryHeld r (m.br.held.take i)).settle else m
  | none => m

/-- A bridge packet with an OP: on TC3 to TC6, or on TC2 with the home field of a coherence message zero. -/
def isBridge (p : Pkt) (op : Nat) : Bool :=
  if p.fmt = 2 then decide (3 ≤ p.tc ∧ p.tc ≤ 5) == decide (op = 0) && decide (op ≤ 1)
  else decide (p.fmt = 1) && decide (fld p.body 48 4 = op) && (decide (3 ≤ p.tc ∧ p.tc ≤ 6) || (decide (p.tc = 2) && decide (fld p.body 50 14 = 0)))

/-- R492: the i-th packet for the module is a bridge request. -/
def execBridgeReqReceived (i : Nat) : State → Host.Outcome State Fault Refusal := lift fun m =>
  match m.takeInbox i fun p => isBridge p 0 with
  | (_, none) => m
  | (m1, some p) =>
    match m1.untunnel p with
    | (m2, none) => m2
    | (m2, some msg) =>
      let port := fld ((msgWords msg).getD 1 0) 32 8
      if msg.tc = 3 ∧ port = 63 then (m2.bridgeHome msg).settle
      else if 48 ≤ port then m2
      else (m2.bridgeDeliver (m2.lead port) msg).settle

/-- R492: the i-th packet for the module is a bridge completion. -/
def execBridgeCplReceived (i : Nat) : State → Host.Outcome State Fault Refusal := lift fun m =>
  match m.takeInbox i fun p => isBridge p 1 with
  | (_, none) => m
  | (m1, some p) =>
    match m1.untunnel p with
    | (m2, none) => m2
    | (m2, some msg) => (m2.bridgeCpl (fld (msgBody msg) 24 24) msg.poison (msgWords msg)).settle

/-- R495: the oldest posted write delivered at edge port p is complete at its end point. -/
def execPostedWriteComplete (p : EdgePort) : State → Host.Outcome State Fault Refusal := lift fun m =>
  match m.br.delivered.find? fun (d : Deliv) => decide (d.port = p.val) && decide (d.tc = 4) with
  | none => m
  | some d => ((m.onBr fun b => { b with delivered := b.delivered.erase d }).writeLanded d).settle

/-- R495: the completed posted writes of a tunnelled flow are reported, at most once per microsecond. -/
def execBcmpFlowTimer (sw flow : Nat) : State → Host.Outcome State Fault Refusal := lift fun m =>
  let key := sw % 4096 * 4096 + flow % 4096
  let (count, last) := tget (0, 0) key m.br.bcmp
  if count = 0 then m
  else
    let f := flow % 4096
    let n := min count 65535
    let m1 := if last = 0 then m else m.advanceTo (last - 1 + 1000)
    let m2 := m1.onBr fun b => { b with bcmp := tset (0, 0) key (count - n, m1.now + 1) b.bcmp }
    m2.originate .bridge (dieOfPort (f % 64)) { tc := 6, dest := sw % 4096, src := m.rt.id,
                                                 body := pack [(f % 64 * 64 + f / 64, 52, 12), (2, 48, 4), (n, 32, 16)] } none 0

/-- The kind 2 entries of a flow toward a module, oldest first (R495). -/
def Mod.flowWrites (m : Mod) (sw flow : Nat) : List Nat :=
  let es := m.sw.trk.filter fun x => decide (x.2.kind = 2) && decide (x.2.dest = sw) && decide (x.2.flow = flow)
  (sortBy (fun (a b : Nat × Trk) => decide (a.2.order < b.2.order)) es).map (·.1)

/-- R495: the i-th packet for the module is a BCMP: of a flow of flits it counts writes, else it names one. -/
def execBcmpReceived (i : Nat) : State → Host.Outcome State Fault Refusal := lift fun m =>
  match m.takeInbox i fun p => isBridge p 2 with
  | (_, none) => m
  | (m1, some p) =>
    let f := fld p.body 52 12
    let rev := f % 64 * 64 + f / 64
    (if m.objv 0x602000 = 0 ∧ rev / 64 ≠ 63 then
      m1.each ((m1.flowWrites p.src rev).take (fld p.body 32 16)) fun k m => m.trkAnswer (m.tid k) 0 false []
    else m1.trkAnswer (fld p.body 24 24) 0 false []).settle

/-- R500: the i-th packet for the module is an error response. -/
def execBerrReceived (i : Nat) : State → Host.Outcome State Fault Refusal := lift fun m =>
  match m.takeInbox i fun p => isBridge p 3 with
  | (_, none) => m
  | (m1, some p) => (m1.bridgeErr (fld p.body 24 24) (fld p.body 8 8)).settle

/-- R506: the i-th packet for the module tells of a remote vPPB: its presence, link, DPC or a wake. -/
def execSideReceived (i : Nat) : State → Host.Outcome State Fault Refusal := lift fun m =>
  match m.takeInbox i fun p => isBridge p 4 && decide (p.tc = 4) with
  | (_, none) => m
  | (m1, some p) =>
    let far := (p.src, fld p.body 58 6)
    let code := fld p.body 8 8
    let keys := (m1.ed.vppb.filter fun x => decide (x.2.remote = some far)).map (·.1)
    m1.each keys fun k m =>
      let up := m.objv (mkOid 4 (0x100 + k / 32) 1)
      if code = 4 then
        m.toEdge .bridge up { tc := 4, len := 1, dest := m.rt.id, src := m.rt.id, body := bridgeBody (flowLabel 63 up) 0 0 0 0,
                                   data := headerUnit 0 0 false false up (withKind 0x18 0x30) } 0
      else m.onVppb (k / 32) (k % 32) fun s =>
        if code = 1 then { s with present := !s.present, pdChanged := true }
        else if code = 2 then { s with linkActive := !s.linkActive }
        else if code = 3 then { s with dpcTriggered := true }
        else s

/-- R496: a completion barrier is issued by a VF's BARRIER write, or by firmware. -/
def execBarrierWrite (b : BarrierBy) : State → Host.Outcome State Fault Refusal := lift fun m =>
  (match b with
    | .vf n p => m.barAccept (portStream (m.lead p) (m.vfTenant n)) (.port (m.lead p)) (.vf n)
    | .firmware p t => m.barAccept (portStream (m.lead p) t) (.port (m.lead p)) .firmware).settle

/-- R497: the i-th pending barrier completes once every write it covers has; or at once when its port was removed (R507). -/
def execBarrierComplete (i : Nat) : State → Host.Outcome State Fault Refusal := lift fun m =>
  match m.br.barriers[i]? with
  | some b => if b.covered = [] ∨ b.removed = true then (m.barDone b).settle else m
  | none => m

/-- Data of a configuration read of a device whose cache capability is hidden: Cache Capable, bit 0 of the register at 0Ah of its CXL DVSEC
(PRESUMED, CXL 3.1), reads 0 (R225). -/
def Mod.hideRead (m : Mod) (p len data : Nat) (d : Deliv) : Nat :=
  match d.hide, (m.edge p).dvsec with
  | some a, some v => if a ≤ v + 10 ∧ v + 10 < a + len then setFld data (8 * (v + 10 - a)) 1 0 else data
  | _, _ => data

/-- R492: the k-th request delivered at port p and not answered is completed with a status (0 Successful Completion), data of len bytes,
`rest` bytes still to come after them; more than 256 bytes go in pieces (R490). -/
def execCxlIoCompletion (p : EdgePort) (k status len data rest : Nat) (poison secure : Bool) : State → Host.Outcome State Fault Refusal := lift fun m =>
  match (if (m.edge p).stopped then none else (m.br.delivered.filter fun (d : Deliv) => decide (d.port = p.val) && decide (d.tc ≠ 4))[k]?) with
  | none => m
  | some d =>
    let m1 := if rest = 0 then m.onBr fun b => { b with delivered := b.delivered.erase d } else m
    let r : IoReq := { id := 0, stream := portStream p d.tenant, maker := .port p, tenant := d.tenant, kind := .deviceRead, io := .completion,
                       tgt := .port d.sw (d.flow / 64), addr := 0, len := len, tag := d.tid, poison := poison, secure := secure, hdm := decide (d.tc = 3),
                       vcs := ((m.edge p).farVcs.map (·.2.1)).getD (m.binding p / 256), vppb := ((m.edge p).farVcs.map (·.2.2.1)).getD (m.binding p % 256) }
    let pieces := (List.range (max 1 (cdiv len 256))).map fun i => (256 * i, min 256 (len - 256 * i))
    (m1.each pieces fun x m =>
      let (m2, id) := m.newAccess
      let left := len - x.1 + rest
      let hdr := (withKind (status % 8) (if x.2 = 0 then 0x0A else 0x4A)) + left % 4096 * 2 ^ 96
      m2.acceptCpl { r with id := id, len := x.2, data := m.hideRead p len data d / 256 ^ x.1 % 256 ^ x.2, mask := x.2, hdr := hdr }).settle

/-- R483, R508: a host writes a BAR of the device on vPPB n; open entries of the window are flushed before it is typed anew. -/
def execBarRegisterWrite (v : Vcs) (n : Vppb) (bar : Fin 6) (base size : Nat) (pf : Bool) : State → Host.Outcome State Fault Refusal := lift fun m =>
  let m1 := m.flushWhere fun (e : WcEnt) => decide (e.req.vcs = v.val) && decide (e.req.vppb = n.val) && (match e.req.tgt with
    | .port _ _ => true
    | .parcel _ _ => false)
  (m1.onVppb v n fun s => { s with bars := tset (0, 0, false) bar (base, size, pf) s.bars }).settle

/-! CXL.mem requests of a host: to pooled memory through vPPB 0 at a DPA, or to the device of vPPB n (R447, R492, R542). The 64 bytes
of a line are one number, its first byte the most significant. -/

def Mod.memRequest (m : Mod) (p : EdgePort) (t : Tenant) (n : Vppb) (tag addr : Nat) (kind : AccKind) (line mask : Nat) : Mod :=
  let data := ofBytesLE ((List.range 64).map (lineByte line))
  if m.takesFrom p = false then m
  else if n = 0 then (m.hostMem (m.lead p) tag addr kind (if kind = .write then .write else .read) 64 data (mask % 2 ^ 64) none).settle
  else (m.hdmAccess (m.lead p) tag n addr (decide (kind = .write)) data (mask % 2 ^ 64) t).settle

/-- R447: a read without caching. -/
def execHostMemrdNocache (p : EdgePort) (t : Tenant) (n : Vppb) (tag addr : Nat) : State → Host.Outcome State Fault Refusal :=
  lift fun m => m.memRequest p t n tag addr .read 0 0

/-- R447: a read for a shared copy. -/
def execHostMemrdShared (p : EdgePort) (t : Tenant) (n : Vppb) (tag addr : Nat) : State → Host.Outcome State Fault Refusal :=
  lift fun m => m.memRequest p t n tag addr .readShared 0 0

/-- R447: a read for an exclusive copy. -/
def execHostMemrdAny (p : EdgePort) (t : Tenant) (n : Vppb) (tag addr : Nat) : State → Host.Outcome State Fault Refusal :=
  lift fun m => m.memRequest p t n tag addr .readAny 0 0

/-- R447: a write of the bytes that mask enables. -/
def execHostMemwr (p : EdgePort) (t : Tenant) (n : Vppb) (tag addr data mask : Nat) : State → Host.Outcome State Fault Refusal :=
  lift fun m => m.memRequest p t n tag addr .write data mask

end Sys2Proof.Machine
end

