-- ==== Sys2Proof/Machine/Coherence.lean ====
section
/-! DEFINITION. Commands of the home and the cache roles: coherence messages that have reached the module, backing
accesses, directory entries, tokens, flushes, lost modules and messages (R431 to R480). Messages are taken from the
module's inbox by position. -/
namespace Sys2Proof.Machine

/-- Kind of a coherence message (R431 to R434); none for a value never sent. -/
def kindOf (p : Pkt) : Option MsgKind :=
  if p.tc = 0 then
    match fld p.body 61 3 with
    | 0 => some .rdShared
    | 1 => some .rdOwn
    | 2 => some .upgrade
    | 3 => some .wbDirty
    | 4 => some .evictExcl
    | 5 => some .flushOwned
    | _ => none
  else if p.tc = 1 then
    match fld p.body 62 2 with
    | 0 => some .fwdShared
    | 1 => some .fwdOwn
    | 2 => some .inv
    | _ => none
  else if p.tc = 2 then
    match fld p.body 62 2, fld p.body 4 2 with
    | 0, _ => some .data
    | 1, _ => some .dataOwned
    | 2, _ => some .ack
    | 3, 0 => some .invAck
    | 3, 1 => some .cmp
    | 3, 2 => some .ackErr
    | _, _ => none
  else none

/-- LEN of R431. -/
def kindLen : MsgKind → Nat
  | .wbDirty | .flushOwned | .data | .dataOwned => 2
  | .rdShared | .rdOwn | .upgrade | .evictExcl | .fwdShared | .fwdOwn | .inv | .ack | .ackErr | .invAck | .cmp => 0

/-- A message malformed under R435: a value never sent, another LEN, an OFFSET beyond its parcel. -/
def Mod.malformed (m : Mod) (p : Pkt) : Bool :=
  match kindOf p with
  | none => true
  | some k =>
    let l := pktLine p
    let known := decide (lineHome l = m.rt.id) || (m.remoteIx (lineHome l) (lineDesc l)).isSome
    decide (p.len ≠ kindLen k) || (known && decide (2 ^ (22 + (m.lineAttr l).2.2.2) ≤ lineOff l / 64))

/-- The home takes a received TC2 message of a line in recall (R457). -/
def Mod.inRecall (m : Mod) (l : Nat) : Bool :=
  decide (lineHome l = m.rt.id) && (match m.txn (dirKey l) with
    | some t => decide (t.busy = .r)
    | none => false)

/-- Take the coherence message at a position of the inbox: f when it is of the kind and role asked for; a malformed one is
discarded, counted, EV-0A02 (R435). Messages of another kind stay. -/
def Mod.onMsg (m : Mod) (i : Nat) (k : MsgKind) (role : Nat → Bool) (f : Pkt → Nat → Mod → Mod) : Mod :=
  match m.sw.inbox[i]? with
  | none => m
  | some b =>
    if 2 < b.pkt.tc ∨ (b.pkt.tc = 2 ∧ fld b.pkt.body 50 14 = 0) then m
    else
      let out := m.onSw fun s => { s with inbox := s.inbox.eraseIdx i }
      if m.malformed b.pkt then (out.bump 0xA00105 1).raise (evt 0x0A02)
      else if kindOf b.pkt = some k ∧ role (pktLine b.pkt) = true then
        (f b.pkt (pktLine b.pkt) (out.bump (mkOid 0xA 0x041 (msgNo k)) 1)).settle
      else m

/-- A request at the home: it holds a kind 5 entry from its arrival, queues, and starts when its line is free (R436, R437).
Without an entry to be had it stays where it is. -/
def Mod.homeMsg (m : Mod) (i : Nat) (k : MsgKind) (keep : Bool) : Mod :=
  match m.sw.inbox[i]? with
  | none => m
  | some b =>
    if 2 < b.pkt.tc ∨ (kindOf b.pkt = some k ∧ (bit b.pkt.body 59) ≠ keep ∧ k = .wbDirty) then m
    else
      match m.kind5 b.port (match b.port with
        | some p => dieOfPort p
        | none => 0) with
      | none => match b.port with
        | some p => m.trkStall p
        | none => m
      | some (_, _) =>
        m.onMsg i k (fun _ => true) fun p l m =>
          match m.kind5 b.port (m.homeDie (dirKey l)) with
          | none => m
          | some (m1, e) =>
            let d := dirKey l
            let r : HReq := { op := fld p.body 61 3, from_ := p.src, pref := bit p.body 60, keep := bit p.body 59, poison := p.poison,
                              data := wordsLine p.data, trk := some e }
            let idle := decide (m.homeQueue d = [])
            let m2 := m1.tally { source := 6, port := b.port, addr := some (dirKey l) } 1
            if idle then (m2.enqueue d r).homeStart d else (m2.sliceCtr d 7).enqueue d r

/-- The line of a parcel homed here, as a key of the directory. -/
def lineOf (desc off : Nat) : Nat := desc % 65536 * 2 ^ 48 + off % 2 ^ 34 / 64 * 64

/-- R436: the next request of a line's wait queue starts its transaction. -/
def execHomeTransactionStart (desc off : Nat) : State → Host.Outcome State Fault Refusal := lift fun m =>
  (m.homeStart (lineOf desc off)).settle

/-- R439: RdShared at the home. -/
def execHomeRdshared (i : Nat) : State → Host.Outcome State Fault Refusal := lift fun m => m.homeMsg i .rdShared false

/-- R439: RdOwn at the home. -/
def execHomeRdown (i : Nat) : State → Host.Outcome State Fault Refusal := lift fun m => m.homeMsg i .rdOwn false

/-- R439: Upgrade at the home. -/
def execHomeUpgrade (i : Nat) : State → Host.Outcome State Fault Refusal := lift fun m => m.homeMsg i .upgrade false

/-- R445: WbDirty at the home. -/
def execHomeWbdirty (i : Nat) : State → Host.Outcome State Fault Refusal := lift fun m => m.homeMsg i .wbDirty false

/-- R445, R448: WbDirty with KEEP at the home. -/
def execHomeWbdirtyKeep (i : Nat) : State → Host.Outcome State Fault Refusal := lift fun m => m.homeMsg i .wbDirty true

/-- R445: EvictExcl at the home. -/
def execHomeEvictexcl (i : Nat) : State → Host.Outcome State Fault Refusal := lift fun m => m.homeMsg i .evictExcl false

/-- R445: FlushOwned at the home. -/
def execHomeFlushowned (i : Nat) : State → Host.Outcome State Fault Refusal := lift fun m => m.homeMsg i .flushOwned false

/-- R462: Cmp ends the transaction of a line in H_C; elsewhere it is unexpected. -/
def execHomeCmp (i : Nat) : State → Host.Outcome State Fault Refusal := lift fun m =>
  m.onMsg i .cmp (fun _ => true) fun p l m =>
    match m.txn (dirKey l) with
    | some t =>
      if t.busy = .c ∧ lineHome l = m.rt.id ∧ (t.req.map (·.from_)) = some p.src then m.homeEnd (dirKey l) (bit p.body 0)
      else m.cohErr (m.homeDie (dirKey l))
    | none => m.cohErr (m.homeDie (dirKey l))

/-- R462: InvAck to a line in recall. -/
def execHomeInvack (i : Nat) : State → Host.Outcome State Fault Refusal := lift fun m =>
  m.onMsg i .invAck m.inRecall fun _ l m => m.recallAnswer (dirKey l) none

/-- R457: DataOwned to a line in recall: counted, its data to the backing. -/
def execHomeDataowned (i : Nat) : State → Host.Outcome State Fault Refusal := lift fun m =>
  m.onMsg i .dataOwned m.inRecall fun p l m => m.recallAnswer (dirKey l) (some (wordsLine p.data, p.poison))

/-- R439: the backing read of a line in H_D has its data. -/
def execBackingReadDone (desc off data : Nat) (poison : Bool) : State → Host.Outcome State Fault Refusal := lift fun m =>
  (m.homeRead (lineOf desc off) (data % 2 ^ 512) poison).settle

/-- R445: the backing write of a line in H_W is done. -/
def execBackingWriteDone (desc off : Nat) : State → Host.Outcome State Fault Refusal := lift fun m =>
  (m.homeWritten (lineOf desc off)).settle

/-- R464: a way, a spill or a ledger read is done, and the transaction in H_S proceeds. -/
def execDirectoryEntryReady (desc off : Nat) : State → Host.Outcome State Fault Refusal := lift fun m =>
  (m.homeReady (lineOf desc off)).settle

/-- R468: a token becomes available on a die; its first waiting transaction sends its multicast Inv. -/
def execBroadcastTokenGrant (d : Die) : State → Host.Outcome State Fault Refusal := lift fun m =>
  match m.ho.tokenWait.find? fun x => x.1 = d.val with
  | none => m
  | some (_, k) =>
    let need := m.tokensSpent d + sec - m.objv 0xA03002 * sec
    let m1 := m.advance (if m.objv 0xA03001 = 0 then 0 else cdiv need (m.objv 0xA03001))
    let m2 := (m1.takeToken d).onHo fun b => { b with tokenWait := b.tokenWait.erase (d.val, k) }
    (m2.homeGo k).settle

/-! The cache role (R442 to R459). -/

/-- A TC1 message waits for the line's host tier, unless its state stalls it (R455, R467). -/
def Mod.cacheTc1 (m : Mod) (i : Nat) (k : MsgKind) (op : Nat) : Mod :=
  m.onMsg i k (fun _ => true) fun p l m =>
    m.onLine l fun s => { s with pend := s.pend ++ [.msg op (fld p.body 50 12) (fld p.body 0 6)] }

/-- R442: FwdShared at a cache. -/
def execCacheFwdshared (i : Nat) : State → Host.Outcome State Fault Refusal := lift fun m => m.cacheTc1 i .fwdShared 0

/-- R442: FwdOwn at a cache. -/
def execCacheFwdown (i : Nat) : State → Host.Outcome State Fault Refusal := lift fun m => m.cacheTc1 i .fwdOwn 1

/-- R456: Inv at a cache. -/
def execCacheInv (i : Nat) : State → Host.Outcome State Fault Refusal := lift fun m => m.cacheTc1 i .inv 2

/-- The message goes to the cache role: not to a line in recall here (R457). -/
def Mod.cacheRole (m : Mod) (l : Nat) : Bool := !m.inRecall l

/-- The home's own cache upgrades the line: an owner's DataOwned is its acknowledgement (R457). -/
def Mod.ownUpgrade (m : Mod) (l : Nat) : Bool :=
  decide (lineHome l = m.rt.id) && (match m.txn (dirKey l) with
    | some t => decide (t.busy = .c) && decide (t.grant = .ack) && decide ((t.req.map (·.from_)) = some m.rt.id)
    | none => false)

/-- R443: Data at its requester. -/
def execCacheData (i : Nat) : State → Host.Outcome State Fault Refusal := lift fun m =>
  m.onMsg i .data m.cacheRole fun p l m => m.rxData_ l (decide (p.src = lineHome l)) (bit p.body 0) (wordsLine p.data) p.poison

/-- R443: DataOwned at its requester. -/
def execCacheDataowned (i : Nat) : State → Host.Outcome State Fault Refusal := lift fun m =>
  m.onMsg i .dataOwned m.cacheRole fun p l m => if m.ownUpgrade l then m.rxInvAck l else m.rxOwned l (decide (p.src = lineHome l)) (fld p.body 0 6) (wordsLine p.data) p.poison

/-- R456: Ack in the grant form. -/
def execCacheAckGrant (i : Nat) : State → Host.Outcome State Fault Refusal := lift fun m =>
  m.onMsg i .ack m.cacheRole fun p l m => m.rxAck l (fld p.body 0 6)

/-- R450, R456: Ack in the error form. -/
def execCacheAckError (i : Nat) : State → Host.Outcome State Fault Refusal := lift fun m =>
  m.onMsg i .ackErr m.cacheRole fun p l m => m.rxAckErr l (fld p.body 0 4)

/-- R443: InvAck at its requester. -/
def execCacheInvack (i : Nat) : State → Host.Outcome State Fault Refusal := lift fun m =>
  m.onMsg i .invAck m.cacheRole fun _ l m => m.rxInvAck l

/-! Flushes (R471, R472). -/

/-- Lines of a home, or of one of its parcels, in a stable state are to be evicted (R471). -/
def Mod.flushLines (m : Mod) (home desc : Nat) (discard mark : Bool) : Mod :=
  let ls := (m.ca.lines.filter fun x => decide (lineHome x.1 = home) && (desc == 65535 || decide (lineDesc x.1 = desc))
      && x.2.st.stable && decide (x.2.st ≠ .i)).map (·.1)
  m.each ls fun l m => m.onLine l fun s => { s with pend := s.pend ++ [.evict (.flush discard)], flushFor := mark }

/-- Members a flush of a parcel, or of every parcel, goes to. -/
def Mod.flushMembers (m : Mod) (desc : Nat) : List Nat :=
  let ds := if desc = 65535 then m.descs.filter fun i => decide (m.dState i ≠ 0) && decide (m.dState i ≠ 6) else [desc]
  without m.rt.id ((ds.flatMap m.members).eraseDups)

def flushWord (desc home : Nat) (discard : Bool) : Nat := pack [(desc, 16, 16), (b2n discard, 15, 1), (home, 0, 12)]

/-- The home starts a flush: it writes A.062.00 on each member and handles its own cache (R471). -/
def Mod.startFlush (m : Mod) (desc : Nat) (discard : Bool) : Mod :=
  let due := m.flushMembers desc
  let m1 := m.onHo fun b =>
    { b with flushes := b.flushes.filter (fun f => f.desc ≠ desc) ++ [{ desc := desc, discard := discard, due := due, lastAt := m.now, scanning := due.isEmpty }] }
  (m1.each due fun x m => m.firmwareWrite x 0xA06200 4 (flushWord desc m.rt.id discard)).flushLines m.rt.id desc discard false

/-- A member starts the scan a flush request asks for (R471). -/
def Mod.memberFlush (m : Mod) (v : Nat) (src : Source) (session seq : Nat) : Mod :=
  let home := fld v 0 12
  let desc := fld v 16 16
  let m1 := m.onCa fun b =>
    { b with flushes := b.flushes ++ [{ home := home, desc := desc, discard := bit v 15, src := src, seq := seq, session := session }] }
  (m1.flushLines home desc (bit v 15) true).settle

/-- R471: the member's scan is done and every eviction it sent has its Ack: it answers the flush write. -/
def execFlushScanDone (i : Nat) : State → Host.Outcome State Fault Refusal := lift fun m =>
  match m.ca.flushes[i]? with
  | none => m
  | some f =>
    if m.ca.lines.any fun x => x.2.flushFor && decide (lineHome x.1 = f.home) && (f.desc == 65535 || decide (lineDesc x.1 = f.desc)) then m
    else
      (m.onCa fun b => { b with flushes := b.flushes.eraseIdx i }).respond f.src
        { opcode := 2, session := f.session, seq := f.seq, items := [{ oid := 0xA06200 }] }

/-- A member has answered, or has been confirmed lost; with the last one the ledger scan starts (R472). -/
def Mod.flushAnswered (m : Mod) (desc member : Nat) : Mod :=
  m.onHo fun b =>
    { b with flushes := b.flushes.map fun f =>
        if f.desc = desc then
          let due := without member f.due
          { f with due := due, scanning := f.scanning || due.isEmpty }
        else f }

/-- R472: a member's answer reaches the home. -/
def execFlushAnswer (desc member : Nat) : State → Host.Outcome State Fault Refusal := lift fun m => m.flushAnswered desc member

/-- R472: every second the write is repeated to members that have not answered. -/
def execFlushRetry (desc : Nat) : State → Host.Outcome State Fault Refusal := lift fun m =>
  match m.ho.flushes.find? fun f => f.desc = desc with
  | none => m
  | some f =>
    if f.due = [] then m
    else
      let m1 := m.advanceTo (f.lastAt + sec)
      let m2 := m1.each f.due fun x m => m.firmwareWrite x 0xA06200 4 (flushWord desc m.rt.id f.discard)
      m2.onHo fun b => { b with flushes := b.flushes.map fun g => if g.desc = desc then { g with lastAt := m1.now } else g }

/-- R472: the ledger scan ends: every entry of the parcel is free, and the parcel leaves recovering; a flush of every parcel
clears the suspect marks (R470). -/
def execFlushComplete (desc : Nat) : State → Host.Outcome State Fault Refusal := lift fun m =>
  match m.ho.flushes.find? fun f => f.desc = desc with
  | none => m
  | some f =>
    if f.scanning = false then m
    else
      let mine := fun (d : Nat) => (desc == 65535 || decide (d / 2 ^ 48 = desc)) && !m.served (d / 2 ^ 48)
      let m1 := m.onHo fun b =>
        { b with flushes := b.flushes.filter (fun g => g.desc ≠ desc),
                 dir := tkeep (fun d _ => !mine d || (m.txn d).isSome) b.dir,
                 suspectChip := if desc = 65535 then [] else b.suspectChip,
                 suspectLedger := if desc = 65535 then [] else b.suspectLedger }
      let ds := (if desc = 65535 then m.descs else [desc]).filter fun i => decide (m.dState i = 7) && decide (i ∉ m.po.await)
      (m1.each ds fun i m => m.setDState i (m.restState i)).settle

/-! Lost modules (R473, R474). -/

/-- The manager confirms a caching module lost: its entries are scanned; it counts as having answered every flush. -/
def Mod.confirmLost (m : Mod) (id : Nat) : Mod :=
  let m1 := m.onHo fun b => { b with lost := addOnce id b.lost }
  m1.each (m.ho.flushes.map (·.desc)) fun d m => m.flushAnswered d id

/-- R473: the scan of the entries that name a lost module ends. -/
def execLostModuleScanDone (id : Nat) : State → Host.Outcome State Fault Refusal := lift fun m =>
  if id ∈ m.ho.lost then
    let ds := (m.ho.dir.map (·.1) ++ m.ho.txns.map (·.1)).eraseDups
    ((m.each ds fun d m => m.scrubEntry id d).onHo fun b => { b with lost := without id b.lost }).raise (evt 0x0A0A Loc.module id) |>.settle
  else m

/-- A lost-message report is acted on, unless its parcel is being recovered by a flush (R474, R478). -/
def Mod.lostReport (m : Mod) (v : Nat) : Mod :=
  let p := { pktOf (v / 2 ^ 64 % 2 ^ 64) (v % 2 ^ 64) with data := [] }
  if m.dState (lineDesc (pktLine p)) = 7 ∨ lineHome (pktLine p) ≠ m.rt.id then m.bump 0xA06008 1 else (m.replaceLost p).settle

/-- R474: every second a module repeats a report the home has not answered. -/
def execLostReportRetry (i : Nat) : State → Host.Outcome State Fault Refusal := lift fun m =>
  match m.ca.reports[i]? with
  | none => m
  | some r =>
    let m1 := m.advanceTo (r.lastAt + sec)
    (m1.onCa fun b => { b with reports := b.reports.mapIdx fun j x => if j = i then { x with lastAt := m1.now } else x }).firmwareWrite
      r.home 0xA06300 16 r.hdr

/-- An uncorrectable directory entry (R469): with its low word intact the line is known and recalled; else its set is
suspect, the first mark starting a flush of every parcel. -/
def Mod.entryLost (m : Mod) (d : Nat) (known : Bool) : Mod :=
  let e := m.dent d
  let m1 := m.raise (evt 0x0A07 (Loc.ofDie (m.homeDie d)) 0 d)
  if e.chip ∧ known = true then (if (m1.txn d).isSome then m1 else (m1.setDent d {}).recallOwn d false false)
  else
    let gone := fun (m : Mod) (x : Nat) => m.setDent x {}
    let first := decide (m.ho.suspectChip = []) && decide (m.ho.suspectLedger = [])
    let m2 :=
      if e.chip then (gone m1 d).onHo fun b => { b with suspectChip := addOnce (m.chipSet d) b.suspectChip }
      else
        let lost := (m1.ho.dir.filter fun x => !x.2.chip && decide (m.ledgerSet x.1 = m.ledgerSet d) && decide (x.2.way / 4 = e.way / 4)).map (·.1)
        (m1.each lost fun x m => gone m x).onHo fun b => { b with suspectLedger := addOnce (m.ledgerSet d) b.suspectLedger }
    if first then m2.startFlush 65535 false else m2

end Sys2Proof.Machine
end

