-- ==== Sys2Proof/Machine/FnOps.lean ====
section
/-! DEFINITION. Operations of the service function that other families call: VF slots, queue pairs of a slot, mailboxes and their locks, Function
Level Reset (R512, R529 to R536). -/
namespace Sys2Proof.Machine

/-! Slots. -/

/-- Queue pairs a VF slot owns (R538). -/
def Mod.qpsOf (m : Mod) (n : Nat) : List Nat :=
  ((m.listedIn 0xB 0x400 0x41F).filter fun x => bit x.2 15 && decide (fld x.2 6 8 = n)).map (·.1)

/-- VF slots assigned to a VCS, ascending (R512). -/
def Mod.slotsOf (m : Mod) (v : Nat) : List Nat :=
  (List.range 256).filter fun n => bit (m.objv (vfOid n 1)) 31 && decide (m.vfVcs n = v)

def Mod.slotUsed (m : Mod) (n : Nat) : Bool := bit (m.objv (vfOid n 1)) 31

/-- VF slot n is presented to its host: assigned, with VF Enable set (R512, R513). -/
def Mod.vfShown (m : Mod) (n : Nat) : Bool := m.slotUsed n && (m.fnSt (hostFn (m.vfVcs n))).vfEnable

/-! Mailboxes (R532 to R536): index 0 to 255 the slots', 256 MM0, 257 MM1. -/

def Mod.box (m : Mod) (k : Nat) : Mailbox := tget {} k m.sv.boxes
def Mod.onBox (m : Mod) (k : Nat) (f : Mailbox → Mailbox) : Mod := m.onSv fun b => { b with boxes := tmod {} k f b.boxes }
def Mod.callSide (m : Mod) (k : Nat) : CallSt := tget {} k m.sv.calls
def Mod.onCall (m : Mod) (k : Nat) (f : CallSt → CallSt) : Mod := m.onSv fun b => { b with calls := tmod {} k f b.calls }

/-- A release clears both queues of the mailbox (R534). -/
def Mod.releaseLock (m : Mod) (k : Nat) : Mod := m.onBox k fun s => { s with holder := 0, since := 0, inq := [], outq := [] }

/-- A lock ends without its holder (R536). -/
def Mod.breakLock (m : Mod) (k : Nat) : Mod := (m.releaseLock k).raise (evt 0x0B04 Loc.module k)

/-- The agent of mailbox k is reset or its slot loses its assignment: its locks are released; its own queues, doorbells and masks are cleared,
and the holder of its lock is told (R530, R536). -/
def Mod.agentReset (m : Mod) (k : Nat) : Mod :=
  let held := (m.sv.boxes.filter fun x => x.2.holder = k + 1).map (·.1)
  let m1 := m.each held fun t m => m.breakLock t
  let h := (m1.box k).holder
  let m2 := m1.onBox k fun s => { s with inq := [], outq := [], db := 0, mask := 0, ovf := false, empty := false }
  if h = 0 then m2 else m2.onCall (h - 1) fun s => { s with reset := true }

/-! Function Level Reset (R530). -/

/-- Descriptors of a queue pair leave no record any more; those with no write on its way are gone. -/
def QpSt.abandon (s : QpSt) : QpSt :=
  { s with started := (s.started.filter fun d => d.writes ≠ []).map fun d => { d with silent := true, ran := true, want := none } }

/-- Steps 1 and 2: no fetch, no record; the writes already issued go on. -/
def Mod.flrStart (m : Mod) (n : Nat) : Mod :=
  (m.each (m.qpsOf n) fun q m => m.onQp q QpSt.abandon).onFn_ (vfFn n) fun s => { s with flr := true, flrAt := m.now }

/-- Steps 3 and 4. -/
def Mod.flrEnd (m : Mod) (n : Nat) : Mod :=
  ((m.each (m.qpsOf n) fun q m => m.onQp q fun _ => {}).onFn_ (vfFn n) fun _ => {}).agentReset n

/-- Every write issued by the slot's queue pairs is complete at its end point, or step 2 has lasted the kind 2 completion timer. -/
def Mod.flrReady (m : Mod) (n : Nat) : Bool :=
  (m.fnSt (vfFn n)).flr && (decide ((m.fnSt (vfFn n)).flrAt + m.timerOf 2 * ms ≤ m.now) || (m.qpsOf n).all fun q =>
    ((m.qp q).started.all fun d => decide (d.writes = [])) && m.sv.records.all fun (r : RecWrite) => decide (r.qp ≠ q))

/-- The functions of a VCS are reset with its host PF (R513, R514). -/
def Mod.hostPfReset (m : Mod) (v : Nat) : Mod := (m.each (m.slotsOf v) fun n m => m.flrStart n).onFn_ (hostFn v) fun _ => {}

end Sys2Proof.Machine
end

