-- ==== Sys2Proof/Machine/Routing.lean ====
section
/-! DEFINITION. The commands of discovery, routing and time (R288 to R322). -/
namespace Sys2Proof.Machine

/-- SEQ a lies ahead of b modulo 2^32 (R296). -/
def recAhead (a b : Nat) : Bool := let d := (a + 2 ^ 32 - b % 2 ^ 32) % 2 ^ 32; decide (1 ≤ d) && decide (d ≤ 2 ^ 31 - 1)

/-- R473: a record with a new epoch shows that a member of a homed parcel's sharing set has restarted. -/
def Mod.memberRestarted (m : Mod) (id : Nat) : Mod :=
  if m.descs.any fun i => decide (m.dState i ≠ 0) && decide (m.dState i ≠ 6) && decide (id ∈ m.members i) then m.raise (evt 0x0A09 Loc.module id) else m

/-- R290, R295, R296, R298: a record arrives on fabric port n. -/
def execRecordReceived (n : FabPort) (r : LinkRecord) : State → Host.Outcome State Fault Refusal := liftFw fun m =>
  let from_ := some (m.nbrKey n)
  if r.id = m.rt.id ∧ r.id ≠ 0 then
    if r.epoch = m.lk.epoch then m
    else
      let floodOwn := fun (m : Mod) => m.flood m.buildRecord none
      match m.rt.foreign.find? fun x => x.1 = r.epoch with
      | none => floodOwn (m.onRt fun b => { b with foreign := b.foreign ++ [(r.epoch, r.seq)] })
      | some (_, last) =>
        if recAhead r.seq last then
          let m1 := m.onRt fun b => { b with foreign := b.foreign.map fun x => if x.1 = r.epoch then (x.1, r.seq) else x }
          if r.epoch < m.lk.epoch ∧ m.rt.dup = false then
            let m2 := (m1.onRt fun b => { b with dup := true, dirty := true }).raise (evt 0x0602 Loc.module r.id)
            (floodOwn m2).dbUpdate
          else floodOwn m1
        else floodOwn m
  else
    let same := fun (x : StoredRec) => decide (x.lsr.id = r.id) && (decide (r.id ≠ 0) || decide (x.lsr.epoch = r.epoch))
    let put := fun (m : Mod) => (m.onRt fun b =>
      { b with db := (b.db.filter fun x => !same x) ++ [{ lsr := r, at_ := m.now }] }).flood r from_
    match m.rt.db.find? same with
    | some x =>
      if x.lsr.epoch ≠ r.epoch then (put (m.memberRestarted r.id)).dbUpdate
      else if recAhead r.seq x.lsr.seq = true then (put m).dbUpdate
      else m
    | none =>
      let here := (m.rt.db.filter fun x => decide (x.lsr.id = 0) == decide (r.id = 0)).length
      if (if r.id = 0 then 32 else 4094) ≤ here then (m.onRt fun b => { b with full := true }).raise (evt 0x0605)
      else (put m).dbUpdate

/-- R294: the module originates its record, after a change or 30 s, at most once per millisecond, and floods it. -/
def execRecordOriginate : State → Host.Outcome State Fault Refusal := liftFw fun m =>
  let due := match m.rt.lastOrig with
    | some t => if m.rt.dirty then t + ms else t + 30 * sec
    | none => m.now
  if m.md.mode.pastBootMode = false then m
  else
    let m1 := m.advanceTo due
    let m2 := m1.onRt fun b => { b with seq := (b.seq + 1) % 2 ^ 32, lastOrig := some m1.now, dirty := false }
    let r := m2.buildRecord
    ((m2.onRt fun b => { b with own := some r }).flood r none).dbUpdate

/-- R297: a record not replaced for 120 s is purged. -/
def execRecordPurge (id epoch : Nat) : State → Host.Outcome State Fault Refusal := lift fun m =>
  match m.rt.db.find? fun x => x.lsr.id = id ∧ x.lsr.epoch = epoch with
  | none => m
  | some x =>
    let m1 := m.advanceTo (x.at_ + 120 * sec)
    (m1.onRt fun b => { b with db := b.db.filter fun y => !(y.lsr.id = id ∧ y.lsr.epoch = epoch) }).dbUpdate

/-- R299: the hold-off after the first change ends and computation starts. -/
def execRouteComputeStart : State → Host.Outcome State Fault Refusal := liftFw fun m =>
  match m.rt.changedAt, m.rt.computing with
  | some t, none =>
    let m1 := m.advanceTo (t + m.objv 0x601400 * 1000)
    m1.onRt fun b => { b with changedAt := none, computing := some m1.allRecords }
  | _, _ => m

/-- R299, R302, R303, R307: computation ends; changed entries are applied destination by destination. -/
def execRouteComputeDone : State → Host.Outcome State Fault Refusal := liftFw fun m =>
  match m.rt.computing with
  | none => m
  | some rs =>
    let m0 := m.onRt fun b => { b with computing := none }
    if m.objv 0x601000 = 2 then m0
    else
      let valid := (m.di.obj.filter fun x => bearingOid 0 ≤ x.1 ∧ x.1 ≤ bearingOid 4095 ∧ bit x.2 63 = true).map fun x =>
        (x.1 / 256 - 0x6100) * 128 + (x.1 % 256 - 1)
      let dests := ((rs.map (·.id)) ++ valid).eraseDups.filter fun d => d ≠ m.rt.id ∧ d ≠ 0
      let kept := fun (m : Mod) (d : Nat) => decide (m.objv 0x601000 = 1) && bit (m.objv (bearingOid d)) 62
      let far := dests.any fun d => (computeEntry rs m.rt.id (m.objv 0x601100) d).2
      let m1 := dests.foldl (fun (x : Mod × Bool) d =>
        let e := (computeEntry rs m.rt.id (m.objv 0x601100) d).1.getD 0
        if kept x.1 d = true ∨ e = x.1.objv (bearingOid d) then x
        else let y := x.1.applyEntry d e; (y.1, x.2 || y.2)) (m0, false)
      let m2 := if m1.2 then m1.1.raise (evt 0x0601) else m1.1
      if far then m2.raise (evt 0x0605) else m2

/-- A time as the words of a SYNC or DELAY_RESP: nanoseconds, then the 16-bit fraction (R314). -/
def timeWords (t : Nat) : List Nat := [t / 65536, t % 65536 * 2 ^ 48, 0, 0]

/-- R318: every 1 ms the end nearer the grandmaster, the lower ID on a tie, sends SYNC on an ACTIVE port. -/
def execSyncSend (n : FabPort) : State → Host.Outcome State Fault Refusal := liftFw fun m =>
  let mine := m.hopsToGm m.rt.id
  let far := m.hopsToGm (m.nbrOf n)
  let nearer := match mine, far with
    | some a, some b => decide (a < b) || (decide (a = b) && decide (m.rt.id < m.nbrOf n))
    | some _, none => true
    | _, _ => false
  if (m.link n).st = .active ∧ nearer = true then m.sendNbr n 3 0 (timeWords m.ti.count) else m

/-- R318: SYNC received with t1 (units of 2^-16 ns): t2 is taken, DELAY_REQ sent and t3 taken. -/
def execSyncReceived (n : FabPort) (t1 : Nat) : State → Host.Outcome State Fault Refusal := liftFw fun m =>
  if (m.link n).st ≠ .active then m
  else
    let m1 := m.onTi fun t =>
      let x := tget {} n.val t.ex
      { t with ex := tset {} n.val { t1 := t1, t2 := t.count, t3 := t.count, raw := m.now, p1 := x.t1, praw := x.raw, open_ := true } t.ex,
               lastSync := if t.parent = some n.val then m.now else t.lastSync }
    m1.sendNbr n 4 0 []

/-- R318: DELAY_REQ received: t4 is taken and returned. -/
def execDelayReqReceived (n : FabPort) : State → Host.Outcome State Fault Refusal := liftFw fun m =>
  if (m.link n).st = .active then m.sendNbr n 5 0 (timeWords m.ti.count) else m

/-- A picosecond value as a 32-bit two's complement object. -/
def toS32 (i : Int) : Nat := (i % 4294967296).toNat
def ofS32 (n : Nat) : Int := if n < 2147483648 then n else (n : Int) - 4294967296
def clampInt (lo hi x : Int) : Int := max lo (min hi x)

/-- R318, R319: DELAY_RESP received with t4: delay and offset are computed; the parent's offset disciplines the counter. -/
def execDelayRespReceived (n : FabPort) (t4 : Nat) : State → Host.Outcome State Fault Refusal := liftFw fun m =>
  let x := tget {} n.val m.ti.ex
  if x.open_ = false then m
  else
    let a : Int := (x.t2 : Int) - x.t1
    let b : Int := (t4 : Int) - x.t3
    let delay := (a + b) / 2
    let asym := ofS32 (m.objv (mkOid 6 0x42 (1 + n))) * 65536 / 1000
    let off := (a - b) / 2 - asym
    let m1 := (m.onTi fun t => { t with ex := tset {} n.val { x with open_ := false } t.ex }).setObj (mkOid 6 0x41 (1 + n)) (toS32 (delay * 1000 / 65536))
    if m.ti.parent ≠ some n.val then m1
    else
      let m2 := m1.setObj 0x603400 (toS32 (off * 1000 / 65536))
      let offPpb := off * 1000 / 65536
      let freq : Int := if x.praw = 0 ∨ x.raw ≤ x.praw then m.ti.trim
        else (((x.t1 : Int) - x.p1) - ((x.raw : Int) - x.praw) * 65536) * 1000000000 / (((x.raw : Int) - x.praw) * 65536)
      let thr : Int := (m.objv 0x603600 : Int) * 65536
      let trim := if thr < off ∧ m.ti.firstLock = false then -500000 else clampInt (-500000) 500000 (freq - offPpb)
      let m3 := (m2.onTi fun t => { t with trim := trim, st := .locked, locked := true, firstLock := false }).setObj 0x603500 (toS32 trim)
      if m.ti.firstLock then (if off = 0 then m3 else m3.stepTime (-off))
      else if off < -thr then m3.stepTime (-off) else m3

/-- R320: three consecutive SYNCs from the parent are missing. -/
def execTimeHoldover : State → Host.Outcome State Fault Refusal := lift fun m =>
  match m.ti.st, m.ti.parent with
  | .locked, some p =>
    let m1 := m.advanceTo (m.ti.lastSync + 3 * ms)
    let np := m1.pickParent (some p)
    (m1.onTi fun t => { t with st := .holdover, locked := false, parent := np }).raise (evt 0x0608 (Loc.fab p))
  | _, _ => m

end Sys2Proof.Machine
end

