-- ==== Sys2Proof/Machine/Pool.lean ====
section
/-! DEFINITION. Pooling: binding and releasing extents, partner copies, takeover, migration, re-initialisation, loss of
backing, hot units (R389 to R416): the effects of the manager's writes and the commands. -/
namespace Sys2Proof.Machine

/-! Binding (R393). -/

/-- An extent's add fails with a RESULT (R393). -/
def Mod.extFail (m : Mod) (e result : Nat) : Mod :=
  (m.setExt e (setFld (setFld (m.objv (extOid e)) 61 3 7) 0 3 result)).raise (evt 0x0902 Loc.module e result)

/-- The home checks a bind: RESULT 0 with the write right, or the code of the check that failed (R391, R393). -/
def Mod.bindCheck (m : Mod) (requester desc tenant : Nat) : Nat × Bool :=
  let r := m.rights desc tenant
  if m.served desc = false then (2, false)
  else if r.1 = false then (1, false)
  else if requester ∉ m.members desc then (3, false)
  else (0, r.2)

/-- Write of 9.010.00 at the home: bind or unbind; the bind result of R393 (none: refused operation code). -/
def Mod.bindOp (m : Mod) (v : Nat) : Mod × Nat :=
  let desc := fld v 34 16
  if fld v 62 2 = 1 then
    let c := m.bindCheck (fld v 50 12) desc (fld v 26 8)
    if c.1 = 0 then ((m.setBinds desc (m.dBinds desc + 1)).copyToPartner desc, pack [(b2n c.2, 60, 1)]) else (m, pack [(c.1, 61, 3)])
  else if fld v 62 2 = 2 then
    if m.dBinds desc = 0 then (m, pack [(2, 61, 3)]) else ((m.setBinds desc (m.dBinds desc - 1)).copyToPartner desc, 0)
  else (m, pack [(2, 61, 3)])

/-- The remote table names the parcel for one extent more (R391). -/
def Mod.addRemote (m : Mod) (home desc d0 : Nat) : Option Mod :=
  match m.remoteIx home desc with
  | some r =>
    let v := m.objv (remOid r)
    some (m.setObj (remOid r) (setFld v 16 12 (fld v 16 12 + 1)))
  | none =>
    m.freeRemote.map fun r =>
      m.setObj (remOid r) (pack [(1, 63, 1), (home, 51, 12), (desc, 35, 16), (fld d0 58 3, 32, 3), (fld d0 52 2, 30, 2), (fld d0 54 1, 29, 1),
        (fld d0 51 1, 28, 1), (1, 16, 12)])

/-- The home's answer to a bind: the span is checked and reserved, the remote entry filled, Add Capacity sent (R393). -/
def Mod.bindAnswer (m : Mod) (e res d0 : Nat) : Mod :=
  let v := m.objv (extOid e)
  if fld res 61 3 ≠ 0 then m.extFail e (fld res 61 3)
  else
    let n := fld d0 58 3
    if m.spanFree e (extVcs v) (extRegion v) (extBlock v) (2 ^ n) = false then (m.extFail e 6).sendUnbind e
    else
      let put := fun (m : Mod) =>
        ((m.onExt e fun x => { x with size := some n, policy := fld d0 52 2, mtype := bit d0 54, pf := bit d0 51 }).setExt e
          (setFld v 3 1 (fld res 60 1))).emit (.capacity (extVcs v) 1 e (dpaOf (extRegion v) (extBlock v)))
      if extHome v = m.rt.id then put m
      else
        match m.addRemote (extHome v) (extDesc v) d0 with
        | some m1 => put m1
        | none => (m.extFail e 6).sendUnbind e

/-- The manager writes an extent from 0 to 1 (R393): the local check, then the bind at the home. -/
def Mod.extAdd (m : Mod) (e v : Nat) : Mod :=
  let vcs := extVcs v
  let home := extHome v
  let desc := extDesc v
  let w := setFld (setFld v 3 1 0) 0 3 0
  let m1 := m.setExt e (setFld w 61 3 2)
  let n := if home = m.rt.id then 2 ^ m.dSize desc else 1
  if m.objv (mkOid 4 (0x100 + vcs) 1) = 0xFF ∨ (tget {} vcs m.ed.vcs).biEnabled = false then m1.extFail e 7
  else if m.spanFree e vcs (extRegion v) (extBlock v) n = false then m1.extFail e 6
  else if home ≠ m.rt.id ∧ (m.remoteIx home desc).isNone ∧ m.freeRemote.isNone then m1.extFail e 6
  else
    let op := pack [(1, 62, 2), (m.rt.id, 50, 12), (desc, 34, 16), (extTenant v, 26, 8)]
    if home = m.rt.id then
      let r := m1.bindOp op
      r.1.bindAnswer e r.2 (r.1.d0 desc)
    else m1.firmwareWrite home 0x901000 8 op

/-- R393: the home's answer to a bind reaches the requester: its bind result and D0. -/
def execBindResponse (e : Fin 4096) (res d0 : Nat) : State → Host.Outcome State Fault Refusal := lift fun m =>
  if extState (m.objv (extOid e)) = 2 ∧ (m.extAux e).size = none then m.bindAnswer e res d0 else m

/-- R393: the host answers Add Capacity: the entry is active, or fails with RESULT 4 and is unbound. -/
def execAddCapacityResponse (e : Fin 4096) (accept : Bool) : State → Host.Outcome State Fault Refusal := lift fun m =>
  let v := m.objv (extOid e)
  if extState v = 2 ∧ (m.extAux e).size.isSome = true then
    if accept then (m.setExt e (setFld v 61 3 3)).raise (evt 0x0901 Loc.module e)
    else (m.extFail e 4).sendUnbind e
  else m

/-! Release (R394, R395). -/

/-- Host copies of the extent's lines are back-invalidated, and the lines evicted when no other extent names the parcel. -/
def Mod.takeBack (m : Mod) (e : Nat) : Mod :=
  let v := m.objv (extOid e)
  let par := m.extParcel e v
  let last := !m.otherNaming e par
  let ls := (m.ca.lines.filter fun x => lineOfParcel par.1 par.2 x.1 && decide (x.2.st ≠ .i)).map (·.1)
  (m.each ls fun l m => m.onLine l fun s => { s with pend := s.pend ++ [if last then .evict .release else .filter] }).onExt e fun x =>
    { x with flushing := true }

/-- The manager writes 4 (R394): the host is asked, and the release grace runs. -/
def Mod.extRelease (m : Mod) (e : Nat) : Mod :=
  let v := m.objv (extOid e)
  ((m.setExt e (setFld v 61 3 5)).onExt e fun x => { x with askedAt := some m.now }).emit
    (.capacity (extVcs v) 2 e (dpaOf (extRegion v) (extBlock v)))

/-- R394: the host releases the extent, asked or unasked; a forced entry becomes empty, once its lines have been taken back. -/
def execHostReleaseCapacity (e : Fin 4096) : State → Host.Outcome State Fault Refusal := lift fun m =>
  let v := m.objv (extOid e)
  let freed := fun (m : Mod) => m.onExt e fun x => { x with freed := true }
  if extState v = 6 then
    if (m.extAux e).flushing then freed m else (m.setExt e 0).onPo fun b => { b with ext := tdel e.val b.ext }
  else if 3 ≤ extState v ∧ extState v ≤ 5 ∧ (m.extAux e).unbinding = false ∧ (m.extAux e).flushing = false then
    ((freed (m.setExt e (setFld v 61 3 5))).takeBack e).settle
  else m

/-- R394: the home has answered the unbind. -/
def execUnbindResponse (e : Fin 4096) : State → Host.Outcome State Fault Refusal := lift fun m =>
  if (m.extAux e).unbinding then m.unbound e else m

/-- A release is forced (R395); lines already being taken back go on. -/
def Mod.extForce (m : Mod) (e : Nat) : Mod :=
  let v := m.objv (extOid e)
  let m1 := ((m.setExt e (setFld v 61 3 6)).onExt e fun x => { x with askedAt := none }).raise (evt 0x0904 Loc.module e)
  if (m.extAux e).flushing ∨ (m.extAux e).unbinding then m1 else (m1.takeBack e).settle

/-- R395: a release the host has not met within the release grace. -/
def execReleaseGraceTimeout (e : Fin 4096) : State → Host.Outcome State Fault Refusal := lift fun m =>
  match extState (m.objv (extOid e)), (m.extAux e).askedAt with
  | 5, some t => if (m.extAux e).flushing ∨ (m.extAux e).unbinding then m else (m.advanceTo (t + m.objv 0x900900 * ms)).extForce e
  | _, _ => m

/-! Partner homes (R396 to R400). -/

/-- R396: every second the home writes a stale reserve copy again; `ok` tells that the partner has taken it. -/
def execPartnerCopyRetry (i : Fin 65536) (ok : Bool) : State → Host.Outcome State Fault Refusal := lift fun m =>
  if bit (m.d0 i) 20 = false then m
  else
    let t := tget (0, 0) i.val m.po.stale
    let m1 := m.advanceTo (t.2 - 1 + sec)
    let m2 := m1.copyToPartner i
    if ok then (m2.setDesc 0 i (setFld (m2.d0 i) 20 1 0)).onPo fun b => { b with stale := tdel i.val b.stale }
    else
      let m3 := m2.onPo fun b => { b with stale := tset (0, 0) i.val ((if t.1 = 0 then m1.now + 1 else t.1), m1.now + 1) b.stale }
      if t.1 ≠ 0 ∧ t.1 - 1 + 60 * sec ≤ m1.now then m3.raiseOnce (evt 0x090B Loc.module i.val) i.val else m3

/-- HOME_MOVE as 32 bytes (R399). -/
def homeMoveWords (old oldDesc new newDesc cause : Nat) : List Nat :=
  [pack [(old, 48, 16), (oldDesc, 32, 16), (new, 16, 16), (newDesc, 0, 16)], cause % 256 * 2 ^ 56, 0, 0]

/-- Flood HOME_MOVE (R314, R399), except to the neighbour it came from. -/
def Mod.floodMove (m : Mod) (from_ : Option Nat) (seq old oldDesc new newDesc cause : Nat) : Mod :=
  m.each (m.floodPorts from_) fun n m => m.sendNbr n 2 (seq % 2 ^ 32) (homeMoveWords old oldDesc new newDesc cause)

/-- The module announces a parcel's new home, with the SEQ after the last one of its old home. -/
def Mod.announceMove (m : Mod) (old oldDesc new newDesc cause : Nat) : Mod :=
  let seq := ((m.rt.moves.find? fun x => x.1 = old).map (·.2)).getD 0 + 1
  ((m.onRt fun b => { b with moves := b.moves.filter (fun x => x.1 ≠ old) ++ [(old, seq)] }).floodMove none seq old oldDesc new newDesc cause)

/-- A line of the old pair is the same line of the new one. -/
def reHome (old oldDesc new newDesc l : Nat) : Nat := if lineOfParcel old oldDesc l then lineKey new newDesc (lineOff l) else l

/-- Everything the module keeps by line follows the parcel: cached lines, filter entries, snoops, accesses. -/
def Mod.rekey (m : Mod) (old oldDesc new newDesc : Nat) : Mod :=
  let f := reHome old oldDesc new newDesc
  let g := fun (r : IoReq) => if r.tgt = .parcel old oldDesc then { r with tgt := .parcel new newDesc } else r
  let m1 := m.onCa fun b =>
    { b with lines := b.lines.foldl (fun t x => tset {} (f x.1) x.2 t) [],
             reports := b.reports.map fun r =>
               if r.home = old ∧ fld r.hdr 34 16 = oldDesc then { r with home := new } else r }
  let m2 := m1.onEd fun b =>
    { b with filter := b.filter.foldl (fun t x => tset {} (f x.1) x.2 t) [], snoops := b.snoops.map fun s => { s with line := f s.line } }
  let m3 := m2.onSw fun b => { b with trk := b.trk.map fun x => if x.2.kind = 3 then (x.1, { x.2 with addr := f x.2.addr }) else x }
  m3.onBr fun b => { b with live := b.live.map g, held := b.held.map g }

/-- A parcel has a new home (R399): the remote entry that names the old pair is rewritten, its extents and lines go with it. A parcel that
leaves this module gets a remote entry, one that comes here needs none (R391). -/
def Mod.redirect (m : Mod) (old oldDesc new newDesc : Nat) : Mod :=
  let es := m.exts.filter fun x => decide (2 ≤ extState x.2) && decide (m.extParcel x.1 x.2 = (old, oldDesc))
  let m1 := match m.remoteIx old oldDesc with
    | some r => m.setObj (remOid r) (if new = m.rt.id then 0 else setFld (setFld (m.objv (remOid r)) 51 12 new) 35 16 newDesc)
    | none =>
      if old = m.rt.id then m.each es fun _ m => (m.addRemote new newDesc (m.d0 oldDesc)).getD m else m
  let m2 := m1.each es fun x m => m.onExt x.1 fun a => { a with moved := some (new, newDesc) }
  m2.rekey old oldDesc new newDesc

/-- R399, R314: HOME_MOVE from the neighbour on a fabric port, keyed by the old home's ID and SEQ. -/
def execHomeMoveReceived (n : FabPort) (seq old oldDesc new newDesc cause : Nat) : State → Host.Outcome State Fault Refusal := lift fun m =>
  match m.rt.moves.find? fun x => x.1 = old with
  | some x =>
    if recAhead seq x.2 = true then
      (((m.onRt fun b => { b with moves := b.moves.filter (fun y => y.1 ≠ old) ++ [(old, seq % 2 ^ 32)] }).redirect old oldDesc new newDesc).floodMove
        (some (m.nbrKey n)) seq old oldDesc new newDesc cause)
    else m
  | none =>
    (((m.onRt fun b => { b with moves := b.moves ++ [(old, seq % 2 ^ 32)] }).redirect old oldDesc new newDesc).floodMove
      (some (m.nbrKey n)) seq old oldDesc new newDesc cause)

/-- Takeover of a lost home (R398): every reserve copy that names it is served from here. -/
def Mod.takeOver (m : Mod) (lost : Nat) : Mod :=
  let ds := m.descs.filter fun i => decide (m.dState i = 6) && decide (m.dPartner i = lost)
  (m.each ds fun i m =>
    let pidx := fld (m.objv (descOid 1 i)) 0 16
    let m1 := if m.dPolicy i = 0 then m.poisonParcel i else (m.setDState i 7).startFlush i false
    let m2 := (m1.announceMove lost pidx m.rt.id i 1).setDesc 0 i (setFld (m1.d0 i) 20 1 1)
    (m2.onPo fun b => { b with stale := tset (0, 0) i (m.now + 1, m.now + 1) b.stale }).redirect lost pidx m.rt.id i).raise (evt 0x090A Loc.module lost)

/-- A recovering parcel is served from this home without its partner (R400). -/
def Mod.serveAlone (m : Mod) (i : Nat) : Mod :=
  let m1 := m.onPo fun b => { b with await := without i b.await }
  if m.ho.flushes.any fun f => f.desc = i ∨ f.desc = 65535 then m1
  else if m.dState i = 7 then m1.setDState i (m1.restState i)
  else m1

/-! Migration (R401 to R403). -/

def Mod.mState (m : Mod) (i : Nat) : Nat := fld (m.objv (descOid 6 i)) 61 3
def Mod.mDest (m : Mod) (i : Nat) : Nat := fld (m.objv (descOid 6 i)) 45 16

/-- The destination a migration may name (R401). -/
def Mod.migDestOk (m : Mod) (i dest : Nat) : Bool :=
  m.served i && decide (m.dState dest = 1) && decide (m.dSize dest = m.dSize i) && decide (m.dWays dest = m.dWays i) && decide (m.dBinds dest = 0)

/-- MSTATE of D6 and its PASS. -/
def Mod.setMState (m : Mod) (i st pass : Nat) : Mod := m.setDesc 6 i (setFld (setFld (m.objv (descOid 6 i)) 61 3 st) 40 4 pass)

/-- R401: a waiting migration starts when fewer than 9.005.00 run. -/
def execMigrationStart (i : Fin 65536) : State → Host.Outcome State Fault Refusal := lift fun m =>
  if m.mState i = 1 ∧ m.po.migs.length < m.objv 0x900500 ∧ m.served i = true ∧ m.migDestOk i (m.mDest i) = true then
    let was := m.dState i
    let m1 := (m.setMState i 2 1).onPo fun b => { b with migs := tins i.val { was := was } b.migs }
    (m1.setDState i (if bit (m.objv (descOid 6 i)) 44 then 4 else 3)).raise (evt 0x0906 Loc.module i.val)
  else m

/-- R402: a copy pass ends: the final pass follows one with no more set bits than the threshold, or pass 8. -/
def execMigrationPassEnd (i : Fin 65536) : State → Host.Outcome State Fault Refusal := lift fun m =>
  match tget none i.val (m.po.migs.map fun x => (x.1, some x.2)) with
  | none => m
  | some g =>
    if g.final then m
    else
      let fin := decide (g.bits.length ≤ m.objv 0x900400) || decide (8 ≤ g.pass)
      let g1 : Mig := { pass := g.pass + 1, final := fin, was := g.was, bits := [] }
      (m.setMState i (if fin then 3 else 2) (g.pass + 1)).onPo fun b => { b with migs := tins i.val g1 b.migs }

/-- R402: the final pass ends: the destination's backing, key and partner are the parcel's, and held writes go on. -/
def execMigrationSwitch (i : Fin 65536) : State → Host.Outcome State Fault Refusal := lift fun m =>
  match tget none i.val (m.po.migs.map fun x => (x.1, some x.2)) with
  | none => m
  | some g =>
    if g.final = false then m
    else
      let dest := m.mDest i
      let oldP := m.dPartner i
      let oldX := fld (m.objv (descOid 1 i)) 0 16
      let m1 := m.each [1, 2, 3, 4, 5] fun w m => m.setDesc w i (m.objv (descOid w dest))
      let m2 := (m1.setDesc 0 i (setFld (setFld (m1.d0 i) 61 3 (m1.restState i)) 21 12 (m.dPartner dest))).onPo fun b =>
        { b with keys := tset 0 i.val (tget 0 dest b.keys) (tset 0 dest 0 b.keys), migs := tdel i.val b.migs }
      let m4 := (m2.setDState dest 0).setMState i 0 0
      let m5 := if oldP = 0 then m4 else m4.firmwareDesc oldP oldX [(descOid 0 oldX, 0)]
      (((m5.each g.held fun w m => m.backWrite i w.1 w.2.1 w.2.2).copyToPartner i).raise (evt 0x0907 Loc.module i.val)).settle

/-- A migration ends with the source unchanged (R403). -/
def Mod.migAbort (m : Mod) (i : Nat) : Mod :=
  let run := tget none i (m.po.migs.map fun x => (x.1, some x.2))
  if m.mState i = 1 ∨ run.isSome = true then
    let m1 := match run with
      | some g => if m.dState i = 3 ∨ m.dState i = 4 then m.setDState i (m.restState i) else m
      | none => m
    let m2 := (m1.setMState i 5 0).onPo fun b => { b with migs := tdel i b.migs }
    (m2.each ((run.map (·.held)).getD []) fun w m => m.backWrite i w.1 w.2.1 w.2.2).raise (evt 0x0908 Loc.module i)
  else m

/-- R403: a migration is ended by MSTATE 5, DRAIN, a warm reset or the removal of a destination target. -/
def execMigrationAbort (i : Fin 65536) : State → Host.Outcome State Fault Refusal := lift fun m => (m.migAbort i.val).settle

/-! Loss of backing, re-initialisation (R415, R416). -/

/-- A pool port is removed: every parcel with a way on it is poisoned and flushed with its data discarded; migrations to it
end (R403, R415). -/
def Mod.backingLost (m : Mod) (port : Nat) : Mod :=
  let dests := (m.po.migs.filter fun x => decide (port ∈ m.dPorts (m.mDest x.1))).map (·.1)
  let m1 := m.each dests fun i m => m.migAbort i
  let ds := m1.descs.filter fun i => decide (port ∈ m1.dPorts i) && (m1.served i || decide (m1.dState i = 7))
  m1.each ds fun i m =>
    ((m.when (tget none i (m.po.migs.map fun x => (x.1, some x.2))).isSome (·.migAbort i)).poisonParcel i).startFlush i true

/-- A re-initialised parcel returns to free or bound (R416). -/
def Mod.reinitDone (m : Mod) (i : Nat) : Mod :=
  ((m.setDState i (m.restState i)).onPo fun b => { b with zeroing := without i b.zeroing }).raise (evt 0x090C Loc.module i)

/-- Every target of a parcel is present. -/
def Mod.targetsUp (m : Mod) (i : Nat) : Bool := (m.dPorts i).all fun p => (tget {} p m.ed.ports).dllUp

/-- R416: the zero fill ends. -/
def execReinitZeroDone (i : Fin 65536) : State → Host.Outcome State Fault Refusal := lift fun m =>
  if i.val ∈ m.po.zeroing ∧ m.dState i = 5 then (m.reinitDone i).settle else m

/-! Hot units (R406). -/

/-- Like units of a unit number, and its location. -/
def likeUnits (u : Nat) : List Nat × Loc :=
  if u < 24 then ((List.range 12).map (· + u / 12 * 12), Loc.channel u)
  else if u < 128 then ((List.range 16).map (· + u / 32 * 32), { pkg := 0, die := u / 32 - 1, region := u % 32 / 4, depth := 4, tag := 9 + u % 4 })
  else ((List.range 4).map (· + u / 4 * 4), Loc.ofRegion ((u - 128) / 4) (u % 4))

/-- R406: a window of the hot-unit monitor ends. -/
def execHotUnitWindow : State → Host.Outcome State Fault Refusal := lift fun m =>
  let len := m.objv 0x900800 * 1000
  let m0 := m.advanceTo m.po.windowEnd
  let factor := m.objv 0x900600
  let need := m.objv 0x900700
  let units := (m0.po.hits.map (·.1) ++ m0.po.streak.map (·.1)).eraseDups
  let hot := fun (u : Nat) =>
    let like := (likeUnits u).1
    let total := (like.map fun x => tget 0 x m0.po.hits).sum
    decide (factor * total < tget 0 u m0.po.hits * like.length)
  let m1 := m0.onPo fun b =>
    { b with hits := [], windowEnd := m0.now + len,
             streak := units.foldl (fun t u => tset 0 u (if hot u then tget 0 u b.streak + 1 else 0) t) b.streak }
  m1.each units fun u m =>
    let key := 0x0909 + 65536 * (1 + u)
    let last := tget 0 key m.ev.lastAt
    if need ≤ tget 0 u m.po.streak ∧ (last = 0 ∨ last - 1 + 10 * sec ≤ m.now) then
      (m.noteRaised key).raise (evt 0x0909 (likeUnits u).2 0 0)
    else m

end Sys2Proof.Machine
end

