-- ==== Sys2Proof/Machine/EdgeOps.lean ====
section
/-! DEFINITION. Operations of the edge ports: IDE keys, loss of a host or device, removal, hot reset and its propagation, binding, reference
outputs, lane tests (R124 to R130, R203 to R213, R216 to R248). -/
namespace Sys2Proof.Machine

/-! What a port leaves behind when it is lost. -/

/-- Requests accepted from a port answer nobody any more (R130, R239). -/
def Mod.discardReads (m : Mod) (p : Nat) : Mod :=
  (m.onSw fun b =>
    { b with trk := b.trk.map fun x => if x.2.port = some p ∧ (x.2.kind = 1 ∨ x.2.kind = 3) then (x.1, { x.2 with discard := true }) else x }).onBr
    fun b => { b with held := b.held.map fun r => if r.maker = .port p then { r with lost := true } else r }

/-- The write-combining entries of a port are flushed and carried (R507). -/
def Mod.flushPort (m : Mod) (p : Nat) : Mod := m.flushWhere fun (e : WcEnt) => decide (e.port = p)

/-- Queues a packet for port p can stand in: the port's own and those of the bridge toward its die. -/
def queuesToward (p : Nat) (c : Nat) : List Nat := [qKey p c, bridgeKey (1 - dieOfPort p) c]

/-- Take every packet of some classes that is on its way to port p out of the switch core: the packets. -/
def Mod.pullPackets (m : Mod) (p : Nat) (cs : List Nat) : Mod × List Pkt :=
  let waits := m.sw.waiting.filter fun h => decide (h.target = some p) && decide (h.pkt.tc ∈ cs)
  let queued := cs.flatMap fun c => (queuesToward p c).flatMap fun k =>
    ((m.queue k).filter fun e => decide (k < 512) || decide (e.held.target = some p)).map fun e => (k, e)
  ((m.each waits fun h m => m.takeOut h).each queued fun x m => m.unqueue x.1 x.2, waits.map (·.pkt) ++ queued.map (·.2.held.pkt))

/-- The caches of the host, or of the CXL.cache device, on port p are lost (R243): its bit goes from every filter entry, lines it held with X are
poisoned and counted, an E line becoming M so that the poison goes home with it (R244, log 219), its snoops complete as invalid (R240); EV-0406 follows at the end of the scan. -/
def Mod.hostLost (m : Mod) (p : Nat) : Mod :=
  let mine := m.ed.filter.filter fun x => decide (p ∈ x.2.vec)
  let xs := (mine.filter fun x => x.2.x).map (·.1)
  let m1 := m.onEd fun b => { b with snoops := b.snoops.filter fun s => s.port ≠ p, scans := b.scans ++ [(p, xs.length)] }
  let m2 := m1.each mine fun x m => m.setFilt x.1 { vec := without p x.2.vec, x := false }
  (m2.each xs fun l m =>
    if (m.cline l).st = .i then m
    else m.onLine l fun s => { s with poison := true, st := if s.st = .e then .m else s.st }).bump (mkOid 4 p 9) xs.length

/-- Tell the vPPB a device port is bound to, here or on another module, of a change: 1 presence, 2 link, 3 DPC (R239, R506). -/
def Mod.tellVppb (m : Mod) (p code : Nat) (f : VppbSt → VppbSt) : Mod :=
  match (m.edge p).farVcs with
  | some (sw, _, _, up) =>
    m.originate .bridge (dieOfPort p) { tc := 4, dest := sw, src := m.rt.id, body := bridgeBody (flowLabel p up) 4 0 0 code }
  | none =>
    let b := m.binding p
    if b = 0xFFFF ∨ b % 256 = 0xFF then m else m.onVppb (b / 256) (b % 256) f

/-- Requests toward a contained port that have not been answered end now (R239, R508). -/
def Mod.contain (m : Mod) (p : Nat) : Mod :=
  let (m1, pkts) := m.pullPackets p [3, 4, 5]
  let m2 := m1.each pkts fun x m => m.dpcEnd p x
  let ds := m2.br.delivered.filter fun (d : Deliv) => decide (d.port = p)
  let m3 := m2.each ds fun d m =>
    (if d.tc = 4 then m.bump (mkOid 4 (0x080 + p) 5) 1 else m).semRefuse p
      { key := 0, pkt := { tc := d.tc, src := d.sw, body := bridgeBody d.flow 0 d.tid d.tenant 0 } } 4
  m3.each (m3.sem p).waiting fun r m => m.semRefuse p r 4

/-- The device row of R239, for a removal and for a surprise unbind (R241): DPC, or silence that the requesters' timers end. -/
def Mod.deviceLost (m : Mod) (p : Nat) (port : Bool) : Mod :=
  let on := decide (m.objv (mkOid 4 p 0xA) = 1)
  let m1 := m.semFail p 4
  let m2 := if on then
      (((m1.contain p).onEdge p fun s => { s with dpc := s.dpc || port, farTrig := s.farTrig || (port && s.farVcs.isSome) }).raise (evt 0x0403 (Loc.edge p))).tellVppb p 3 fun s => { s with dpcTriggered := true }
    else m1
  let m3 := m2.onBr fun b => { b with delivered := b.delivered.filter (fun (d : Deliv) => d.port ≠ p), sems := tset {} p {} b.sems }
  if (m3.edge p).cacheDevice then m3.hostLost p else m3

/-! Binding (R223, R224). -/

/-- A device port appears in the slot of its vPPB, or goes from it. A slot of another module has the presence change of a pending unbind already
(R224, log 218). -/
def Mod.showDevice (m : Mod) (p : Nat) (up : Bool) : Mod :=
  let told := (m.edge p).unbind.isSome && (m.edge p).farVcs.isSome
  (if told then m else m.tellVppb p 1 fun s => { s with present := up, pdChanged := true }).tellVppb p 2 fun s => { s with linkActive := up }

/-- The binding of a device port ends. -/
def Mod.unbindNow (m : Mod) (p : Nat) : Mod :=
  let shown := decide ((m.edge p).hotAdd = .up)
  let m1 := if shown then m.showDevice p false else m
  (m1.setPers (mkOid 4 p 3) 0xFFFF).onEdge p fun s => { s with unbind := none, farVcs := none, farTrig := false, cacheHidden := false }

/-- Ports of a VCS whose unbind grace runs are unbound when its host's link goes down (R224, R240). -/
def Mod.unbindAll (m : Mod) (v : Nat) : Mod :=
  let ps := (List.range 48).filter fun p => (m.edge p).unbind.isSome && (m.edge p).farVcs.isNone && decide (m.binding p / 256 = v)
  m.each ps fun p m => m.unbindNow p

/-! Removal (R238, R239). -/

/-- The link of a port goes down: electrical idle, keys erased, buffered writes carried (R232, R507). -/
def Mod.portDown (m : Mod) (p : Nat) : Mod :=
  (((m.flushPort p).edgeIdle p).ideErase p).onEdge p fun s => { s with wasUp := false, cacheDevice := false }

/-- Answers still on their way to a lost port are discarded and counted; snoops to it are withdrawn. -/
def Mod.dropAnswers (m : Mod) (p : Nat) : Mod :=
  let (m1, pkts) := m.pullPackets p [1, 2, 6]
  m1.bump (mkOid 4 (0x080 + p) 4) (pkts.filter fun x => x.tc ≠ 1).length

/-- Removal of what is on port p (R238, R239): by PRSNT_N, or by Data Link Layer down. -/
def Mod.removal (m : Mod) (p : Nat) (byPrsnt : Bool) : Mod :=
  let role := m.role p
  let v := m.vcsOfPort p
  let was := m.edge p
  let m1 := (m.raise (evt 0x0402 (Loc.edge p))).bump (mkOid 4 (0x080 + p) (if byPrsnt then 2 else 3)) 1
  let m2 := if role = 2 then (if was.hotAdd = .up then m1.showDevice p false else m1).deviceLost p true else m1
  let m3 := m2.portDown p
  let m4 := if role = 1 then
      let a := ((m3.discardReads p).hostLost p).dropAnswers p
      let b := a.onBr fun b => { b with barriers := b.barriers.map fun x => if x.stream / 256 = p then { x with removed := true } else x }
      match v with
      | some v => b.unbindAll v
      | none => b
    else if role = 3 then m3.backingLost p
    else m3
  m4.onEdge p fun s =>
    if role = 1 then { s with prsnt := s.prsnt && !byPrsnt }
    else { s with prsnt := s.prsnt && !byPrsnt, prsntSince := m.now,
                  hotAdd := if s.prsnt && !byPrsnt && decide (m.objv (mkOid 4 p 1) = 1) then .counting else .none }

/-- A port goes to electrical idle for a cause of the module's own, a PLL loss or a fence: a removal where its Data Link Layer was up (R238). -/
def Mod.loseEdge (m : Mod) (p : Nat) : Mod := if (m.edge p).dllUp then m.removal p false else m.edgeIdle p

/-! Hot reset (R125, R126, R130, R235, R236). -/

/-- Records of a port: areas 3, 4 and 7. -/
def portRecords (p : Nat) : List Nat :=
  ([mkOid 3 (0x200 + p) 0, mkOid 4 p 0, mkOid 4 (0x080 + p) 0, mkOid 7 (0x100 + p) 0, mkOid 7 (0x400 + p) 0] ++
    (List.range 6).map fun s => mkOid 4 (0x200 + 8 * p + s) 0).map (· / 256)

/-- The volatile objects of a port return to their defaults (R126). -/
def Mod.portDefaults (m : Mod) (p : Nat) : Mod :=
  m.onDi fun d =>
    { d with obj := tkeep (fun k _ => !(decide (k / 256 ∈ portRecords p) && !((objFind k).map (·.pers)).getD true)) d.obj }

/-- A fixed session of the functions of a VCS (R83). -/
def Mod.sessionOfVcs (m : Mod) (v id : Nat) : Bool :=
  decide (id = 0x200 + v) || (decide (0x100 ≤ id) && decide (id < 0x200) && decide (id - 0x100 ∈ m.slotsOf v))

/-- The link, transaction layer and objects of a port are reset; it trains again (R125, R126, R130). -/
def Mod.resetPort (m : Mod) (p : Nat) : Mod :=
  let m1 := ((m.flushPort p).discardReads p).ideErase p
  let m2 := m1.onEdge p fun s =>
    { s with link := if m.objv (mkOid 4 p 1) = 1 then .hotReset else .disabled, dllUp := false, l0pWidth := 0, viral := false,
             tr := { rate := 0, width := 0, flit := 0, io := false, cache := false, mem := false } }
  let m3 := ((m2.endMargins (m2.mergedLanes p)).each (m2.mergedLanes p) fun l m => m.onLane l fun s =>
    { s with pstate := 1, rate := 0, precode := false, txPre := false, pol := false, rev := false, cdr := false, align := false, logical := 0 }).portDefaults p
  m3.onBr fun b => { b with delivered := b.delivered.filter fun (d : Deliv) => d.port ≠ p }

/-- A reset of a VCS's upstream port reaches its device ports: those here at once, those of other modules after their traffic (R236). -/
def Mod.propagate (m : Mod) (v : Nat) (ns : List Nat) : Mod :=
  m.each ns fun n m =>
    match m.boundPort v n with
    | some (sw, q) => if sw = m.rt.id then m.resetPort q else m.onVppb v n fun s => { s with resetHold := true }
    | none => m

/-- A hot reset on port p: of a host port it takes the functions of its VCS, their sessions and every bound device port with it (R126, R236). -/
def Mod.hotReset (m : Mod) (p : Nat) : Mod :=
  let m1 := m.resetPort p
  match (if m.role p = 1 then m.vcsOfPort p else none) with
  | some v => ((m1.abortGroups fun g => m.sessionOfVcs v g.session).hostPfReset v).propagate v (List.range 32)
  | none => m1

/-! Reference outputs (R204, R205). -/

def edgesOfCluster (k : Nat) : List Nat := (List.range 48).filter fun p => clusterOfPort p = k

/-- REFOUT runs in this mode (R204, R116): in BOOT from the end of the rail sequence, 20 ms after its entry (R110). -/
def Mod.refoutMode (m : Mod) : Bool :=
  !m.md.thermalTrip && match m.md.mode with
    | .off | .standby => false
    | .boot => decide (m.md.railStep = 6)
    | .configure | .operate | .capped | .drain | .fault => true

/-- Output k may stand still in mode 2: each enabled port has L1.2 enabled and CLKREQ_N released. -/
def Mod.refoutIdle (m : Mod) (k : Nat) : Bool :=
  ((edgesOfCluster k).filter fun p => m.lead p = p ∧ m.objv (mkOid 4 p 1) = 1).all fun p => bit (m.objv (mkOid 3 (0x200 + p) 4)) 1 && !(m.edge p).clkreq

/-- The output starts now; in a BOOT that keeps its rails, 20 ms after BOOT entry. -/
def Mod.startRefout (m : Mod) (k : Nat) : Mod :=
  if (m.cluster k).refout then m
  else m.onCluster k fun s => { s with refout := true, refoutSince := if m.md.mode = .boot then max m.now (m.md.bootAt + 20 * ms) else m.now }

/-- The output of cluster k follows its mode object: off, on, or gated. A gated one starts for a CLKREQ_N asserted. -/
def Mod.refoutCheck (m : Mod) (k : Nat) : Mod :=
  let mode := m.objv (mkOid 3 (0x100 + k) 3)
  if m.refoutMode && (decide (mode = 1) || (decide (mode = 2) && !m.refoutIdle k)) then m.startRefout k
  else m.onCluster k fun s => { s with refout := false, refoutSince := 0 }

/-! Fenced ports. -/

def Mod.edgeFenced (m : Mod) (p : Nat) : Bool := m.fn.fenced.any fun u => match u with
  | .edge q => m.lead q.val == m.lead p
  | _ => false

def Mod.fabFenced (m : Mod) (n : Nat) : Bool := m.fn.fenced.any fun u => match u with
  | .fabric q => q.val == n
  | _ => false

/-- Region of a port index as one number: 4 x die + region. -/
def regionKey (p : Nat) : Nat := 4 * dieOfPort p + regionOfPort p
def Mod.regionGated (m : Mod) (r : Nat) : Bool := (tget {} r m.fn.regions).gated

/-- The port has power, clock and permission to run its link. -/
def Mod.portPowered (m : Mod) (p : Nat) : Bool :=
  m.md.mode.pastBootMode && (m.cluster (clusterOfPort p)).locked && !(m.cluster (clusterOfPort p)).reset &&
    !m.regionGated (regionKey p) && !m.edgeFenced p

/-! Lane tests and margining (R208 to R213). -/

/-- A lane's rate is NRZ: 2.5 to 32 GT/s. -/
def LaneSt.nrz (s : LaneSt) : Bool := decide (1 ≤ s.rate) && decide (s.rate ≤ 5)

/-- Test control accepts the value for lane l (R209, R211, R214). -/
def Mod.testOk (m : Mod) (l v : Nat) : Bool :=
  let p := l / 4
  let mode := fld v 29 3
  let pat := fld v 25 4
  let free := if p < 48 then decide (m.objv (mkOid 4 (m.lead p) 1) = 0)
    else decide ((m.link (p - 48)).st = .retired) || !(m.link (p - 48)).trained
  decide (mode ≠ 7) && decide (pat ≤ 6) && !(decide (pat = 2) && (m.lane l).nrz) && !(decide (mode = 4) && decide (48 ≤ p)) &&
    (!(decide (1 ≤ mode) && decide (mode ≤ 4)) || free)

/-- Lane l is in L0 or ACTIVE (R212). -/
def Mod.laneLive (m : Mod) (l : Nat) : Bool :=
  let p := l / 4
  decide ((m.lane l).pstate = 0) &&
    (if p < 48 then decide ((m.edge (m.lead p)).link = .l0) || decide ((m.edge (m.lead p)).link = .l0p) else decide ((m.link (p - 48)).st = .active))

/-- The lane runs at a rate. At an NRZ rate PRBS13Q stops, and locks afresh later (R209). -/
def LaneSt.atRate (s : LaneSt) (rate : Nat) : LaneSt :=
  { s with rate := rate, lock := s.lock && !(decide (fld s.test 25 4 = 2) && decide (1 ≤ rate) && decide (rate ≤ 5)) }

/-- A write of test control takes effect: a margin run ends (R213), then CLEAR, then the new mode; a checker whose mode and pattern stay keeps its
lock (R210), and a generator sends its pattern, 16 the compliance pattern (R209). A margin run on a lane outside L0 and ACTIVE ends at once with
ABORT. -/
def Mod.testWrite (m : Mod) (l v : Nat) : Mod :=
  let mode := fld v 29 3
  let margin := decide (mode = 5) || decide (mode = 6)
  let m1 := (m.endMargins [l]).onLane l fun s =>
    let running := decide (5 ≤ fld (m.lane l).test 29 3) && !s.done
    let zero := bit v 24 || margin
    let same := decide (fld (m.lane l).test 25 7 = fld v 25 7) && !margin
    { s with test := if margin && !m.laneLive l then setFld (setFld (v / 2 ^ 16 * 2 ^ 16) 24 1 0) 29 3 0 else setFld (v / 2 ^ 16 * 2 ^ 16) 24 1 0,
             done := false, abort := running || (margin && !m.laneLive l), lock := s.lock && same, runStart := m.now,
             errors := if zero then 0 else s.errors, symbols := if zero then 0 else s.symbols,
             pstate := if 1 ≤ mode ∧ mode ≤ 4 then 6 else if s.pstate = 6 then 1 else s.pstate }
  if mode = 1 ∨ mode = 3 then m1.emit (.pattern l (fld v 25 4) (m.lane l).rate) else if mode = 4 then m1.emit (.pattern l 16 (m.lane l).rate) else m1

end Sys2Proof.Machine
end

