-- ==== Sys2Proof/Machine/FenceOps.lean ====
section
/-! DEFINITION. Operations of the hierarchy: fencing units, clusters, regions (R15, R18 to R28, R131 to R133). -/
namespace Sys2Proof.Machine

/-! Fence entries (R131). -/

def fenceOid (n : Nat) : Nat := mkOid 2 0x030 n

/-- The unit KIND, DIE, REGION and INDEX of an entry name; none where they name no unit. -/
def unitOf (v : Nat) : Option UnitId :=
  let d := fld v 50 2
  let q := fld v 48 2
  let i := fld v 40 8
  if d ≥ 2 then none
  else match fld v 56 8 with
    | 1 => if i < 6 then some (.edge (Fin.ofNat 48 (24 * d + 6 * q + i))) else none
    | 2 => if i = 6 ∨ i = 7 then some (.fabric (Fin.ofNat 16 (8 * d + 2 * q + (i - 6)))) else none
    | 3 => if i < 8 then some (.bank (Fin.ofNat 2 d) (Fin.ofNat 32 (8 * q + i))) else none
    | 4 =>
      if i < 4 then some (.slice (Fin.ofNat 2 d) (Fin.ofNat 17 (4 * q + i)))
      else if i = 4 ∧ q = 0 then some (.slice (Fin.ofNat 2 d) 16) else none
    | 5 => if i = 0 then some (.tracker (Fin.ofNat 2 d) (Fin.ofNat 4 q)) else none
    | _ => none

/-- The unit of a port. -/
def unitOfPort (p : Nat) : UnitId := if p < 48 then .edge (Fin.ofNat 48 p) else .fabric (Fin.ofNat 16 (p - 48))

/-- The fields that name a unit in an entry. -/
def unitFields : UnitId → Nat
  | .edge p => pack [(1, 56, 8), (p.val / 24, 50, 2), (p.val % 24 / 6, 48, 2), (p.val % 6, 40, 8)]
  | .fabric p => pack [(2, 56, 8), (p.val / 8, 50, 2), (p.val % 8 / 2, 48, 2), (6 + p.val % 2, 40, 8)]
  | .bank d b => pack [(3, 56, 8), (d.val, 50, 2), (b.val / 8, 48, 2), (b.val % 8, 40, 8)]
  | .slice d s => if s.val = 16 then pack [(4, 56, 8), (d.val, 50, 2), (4, 40, 8)]
    else pack [(4, 56, 8), (d.val, 50, 2), (s.val / 4, 48, 2), (s.val % 4, 40, 8)]
  | .tracker d t => pack [(5, 56, 8), (d.val, 50, 2), (t.val, 48, 2)]

/-- Seconds of meridian time, bits [61:30] of its nanoseconds. -/
def Mod.fenceSeconds (m : Mod) : Nat := m.meridian / 2 ^ 30 % 2 ^ 32

/-- The entry of a unit, a cause and now. -/
def Mod.fenceWord (m : Mod) (u : UnitId) (cause : Nat) : Nat := unitFields u + pack [(cause, 32, 8), (m.fenceSeconds, 0, 32)]

/-- A unit is in the fence list. -/
def Mod.unitListed (m : Mod) (u : UnitId) : Bool := (List.range 64).any fun i => unitOf (m.objv (fenceOid (i + 1))) = some u

/-- A unit is fenced, or leaving. -/
def Mod.unitFenced (m : Mod) (u : UnitId) : Bool := decide (u ∈ m.fn.fenced) || decide (u ∈ m.fn.leaving)

/-! What fencing does (R20). -/

/-- A Cadastre slice fails: its on-chip entries are lost and recovered, and the spare takes its share, or the ledger alone keeps it.
DESIGN CHOICE (log entry 200): none of the entries lost with a slice counts as known under R469, so each line is set suspect and its parcel flushed. -/
def Mod.fenceSlice (m : Mod) (d s : Nat) : Mod :=
  let serves := fun (x : Nat) => decide (m.homeDie x = d) && decide (m.servingSlice x = s)
  let lost := (m.ho.dir.filter fun x => x.2.chip && serves x.1).map (·.1)
  let share := if s = 16 then tget 0 d m.fn.spareFor - 1 else s
  let spare := decide (tget 0 d m.fn.spareFor = 0) && decide (s ≠ 16) && !decide (UnitId.slice (Fin.ofNat 2 d) 16 ∈ m.fn.fenced)
  let m1 := m.each lost fun x m => m.entryLost x false
  if s = 16 ∧ tget 0 d m.fn.spareFor = 0 then m1
  else m1.onFn fun b =>
    if spare then { b with spareFor := tset 0 d (s + 1) b.spareFor }
    else { b with ledgerOnly := b.ledgerOnly ++ [.slice (Fin.ofNat 2 d) (Fin.ofNat 17 share)] }

/-- The effect of fencing a unit. -/
def Mod.fenceEffect (m : Mod) (u : UnitId) : Mod :=
  let in_ := fun (m : Mod) => m.onFn fun b => { b with fenced := addOnce u b.fenced }
  match u with
  | .edge p =>
    let q := m.lead p.val
    ((in_ (m.loseEdge q)).endMargins (m.mergedLanes q)).each (m.mergedLanes q) fun l m => m.onLane l fun s => { s with pstate := 7 }
  | .fabric p => (in_ (m.linkRetire p.val 14)).onLanes (48 + p.val) fun s => { s with pstate := 7 }
  | .bank d b =>
    if tget 0 (32 * d.val + b.val) m.sw.bankUse = 0 then in_ m else m.onFn fun x => { x with leaving := addOnce u x.leaving }
  | .slice d s => in_ (m.fenceSlice d.val s.val)
  | .tracker _ _ => in_ m

/-- Fence a unit for a cause of the module's own: in the first free entry, with EV-0220; else in the overflow list, with EV-0222 (R18, R131,
R133). -/
def Mod.fenceUnit (m : Mod) (u : UnitId) (cause : Nat) : Mod :=
  if m.unitFenced u || decide (u ∈ m.fn.overflow) then m
  else
    let m1 := match (List.range 64).find? fun i => m.objv (fenceOid (i + 1)) = 0 with
      | some i => (m.setPers (fenceOid (i + 1)) (m.fenceWord u cause)).raise (evt 0x0220 (Loc.ofUnit u) (i + 1))
      | none => (m.onFn fun b => { b with overflow := b.overflow ++ [u] }).raise (evt 0x0222 (Loc.ofUnit u))
    m1.fenceEffect u

/-! Clusters (R21 to R24). -/

/-- Units of cluster k. -/
def unitsOfCluster (k : Nat) : List UnitId :=
  (((List.range 48).filter fun p => clusterOfPort p = k).map fun p => UnitId.edge (Fin.ofNat 48 p)) ++
    (((List.range 16).filter fun n => clusterOfPort (48 + n) = k).map fun n => UnitId.fabric (Fin.ofNat 16 n))

/-- Lanes of a fabric port lose alignment, CDR lock and their slip positions, and keep their equalisers (R195, R213). -/
def Mod.lanesUnlocked (m : Mod) (p : Nat) : Mod :=
  (m.endMargins (lanesOf p)).onLanes p fun l => { l with pstate := 1, align := false, cdr := false, slip := 0, kept := none }

/-- The cluster's PLL loses lock: every port loses its link, and cluster reset is asserted (R22, R24). -/
def Mod.pllLoss (m : Mod) (k : Nat) : Mod :=
  let m1 := m.onCluster k fun s => { s with locked := false, reset := true, losses := m.now :: s.losses.filter fun t => m.now < t + sec }
  let m2 := (m1.bump (mkOid 3 (0x100 + k) 4) 1).raise (evt 0x0301 (Loc.ofCluster k))
  let m3 := m2.each ((edgesOfCluster k).filter fun p => m.lead p = p) fun p m =>
    (m.loseEdge p).onEdge p fun s => { s with clkreq := false }
  let m4 := m3.each ((List.range 16).filter fun n => clusterOfPort (48 + n) = k) fun n m => (m.linkDown n 5).lanesUnlocked (48 + n)
  if 3 ≤ (m4.cluster k).losses.length then m4.each (unitsOfCluster k) fun u m => m.fenceUnit u 4 else m4

/-- An enabled port trains where its cluster runs: a host port at once, a device or pool port with a device present by its hot add (R22, R237,
R238). -/
def Mod.startTraining (m : Mod) (p : Nat) : Mod :=
  let s := m.edge p
  if m.objv (mkOid 4 p 1) ≠ 1 then m
  else if m.role p = 1 then (if s.perst then m else m.onEdge p fun s => { s with link := .training })
  else if m.downstream p && s.prsnt && decide (s.hotAdd = .none) then m.onEdge p fun s => { s with hotAdd := .counting, prsntSince := m.now }
  else m

/-- Cluster reset is released with the PLL locked: links train again. -/
def Mod.pllLocked (m : Mod) (k : Nat) : Mod :=
  let m1 := m.onCluster k fun s => { s with locked := true, reset := false }
  (m1.each ((edgesOfCluster k).filter fun p => m1.lead p = p) fun p m => m.startTraining p).refoutCheck k

/-! Regions (R25 to R28): r = 4 x die + region. -/

def edgesOfRegion (r : Nat) : List Nat := (List.range 48).filter fun p => regionKey p = r
def fabsOfRegion (r : Nat) : List Nat := (List.range 16).filter fun n => regionKey (48 + n) = r
def Mod.region (m : Mod) (r : Nat) : RegionSt := tget {} r m.fn.regions
def Mod.onRegion (m : Mod) (r : Nat) (f : RegionSt → RegionSt) : Mod := m.onFn fun b => { b with regions := tmod {} r f b.regions }

/-- The region is unbound (R25). -/
def Mod.regionUnbound (m : Mod) (r : Nat) : Bool :=
  ((edgesOfRegion r).all fun p => !(m.edge p).prsnt && decide (m.binding p = 0xFFFF)) &&
  ((fabsOfRegion r).all fun n => decide ((m.link n).st = .retired) || !(m.link n).trained) &&
  ((List.range 8).all fun b => decide (tget 0 (32 * (r / 4) + 8 * (r % 4) + b) m.sw.bankUse = 0)) &&
  decide (m.trkInSlice (r / 4) (r % 4) = 0)

/-- Clusters of a region. -/
def clustersOfRegion (r : Nat) : List Nat := [2 * r, 2 * r + 1]

/-- The region's power goes: a host port that trained without PRSNT_N and a fabric port in TRAIN lose their link as at a loss of the cluster PLL, and
Cadastre slices, snoop filter slice and channels keep their contents (R27). -/
def Mod.gateRegion (m : Mod) (r : Nat) : Mod :=
  let m1 := m.onRegion r fun s => { s with gated := true }
  let m2 := m1.each (clustersOfRegion r) fun k m => m.onCluster k fun s => { s with locked := false, reset := true }
  let m3 := m2.each ((edgesOfRegion r).filter fun p => m.lead p = p) fun p m => m.edgeIdle p
  let m4 := m3.each ((fabsOfRegion r).filter fun n => (m.link n).st ≠ .retired) fun n m => m.linkDown n 5
  let ls := ((edgesOfRegion r).flatMap lanesOf) ++ (fabsOfRegion r).flatMap fun n => lanesOf (48 + n)
  (m4.endMargins ls).each ls fun l m => m.onLane l fun s => { s with pstate := 7, cdr := false, align := false }

/-- The region's power returns: its banks and tracker slice are in use again (R28), groups held for it apply (R67). -/
def Mod.ungateRegion (m : Mod) (r : Nat) : Mod :=
  let ls := ((edgesOfRegion r).flatMap lanesOf) ++ (fabsOfRegion r).flatMap fun n => lanesOf (48 + n)
  let m1 := m.onRegion r fun _ => {}
  let m2 := m1.each ls fun l m => m.onLane l fun s => { s with pstate := 1 }
  let ports := edgesOfRegion r ++ (fabsOfRegion r).map (48 + ·)
  (m2.onSc fun b => { b with shapers := tkeep (fun k _ => !decide (k / 512 ∈ ports)) b.shapers }).each (clustersOfRegion r) fun k m => m.pllLocked k

end Sys2Proof.Machine
end

