-- ==== Sys2Proof/Machine/Hash.lean ====
section
/-! DEFINITION. The digests the module computes: SHAKE256 of FIPS 202 (R521, R559) and the cyclic redundancy codes of the data
mover (R521), over bytes. -/
namespace Sys2Proof.Machine

/-- A 64-bit lane turned left by n. -/
def rot64 (x n : Nat) : Nat := (x * 2 ^ n ||| x / 2 ^ (64 - n)) % 2 ^ 64

/-- Constants of the 24 rounds of Keccak-f[1600]. -/
def keccakRounds : List Nat :=
  [0x0000000000000001, 0x0000000000008082, 0x800000000000808A, 0x8000000080008000, 0x000000000000808B, 0x0000000080000001,
   0x8000000080008081, 0x8000000000008009, 0x000000000000008A, 0x0000000000000088, 0x0000000080008009, 0x000000008000000A] ++
  [0x000000008000808B, 0x800000000000008B, 0x8000000000008089, 0x8000000000008003, 0x8000000000008002, 0x8000000000000080,
   0x000000000000800A, 0x800000008000000A, 0x8000000080008081, 0x8000000000008080, 0x0000000080000001, 0x8000000080008008]

/-- Turn of lane x + 5y. -/
def keccakTurns : List Nat :=
  [0, 1, 62, 28, 27, 36, 44, 6, 55, 20, 3, 10, 43, 25, 39, 41, 45, 15, 21, 8, 18, 2, 61, 56, 14]

/-- One round on the 25 lanes, lane x + 5y at that position. -/
def keccakRound (a : List Nat) (rc : Nat) : List Nat :=
  let g := fun (i : Nat) => a.getD i 0
  let c := (List.range 5).map fun x => g x ^^^ g (x + 5) ^^^ g (x + 10) ^^^ g (x + 15) ^^^ g (x + 20)
  let d := (List.range 5).map fun x => c.getD ((x + 4) % 5) 0 ^^^ rot64 (c.getD ((x + 1) % 5) 0) 1
  let t := (List.range 25).map fun i => rot64 (g i ^^^ d.getD (i % 5) 0) (keccakTurns.getD i 0)
  let b := (List.range 25).map fun i => t.getD ((i % 5 + 3 * (i / 5)) % 5 + 5 * (i % 5)) 0
  let h := fun (x y : Nat) => b.getD (x % 5 + 5 * y) 0
  (List.range 25).map fun i =>
    let v := h i (i / 5) ^^^ ((2 ^ 64 - 1 - h (i + 1) (i / 5)) &&& h (i + 2) (i / 5))
    if i = 0 then v ^^^ rc else v

def keccak (a : List Nat) : List Nat := keccakRounds.foldl keccakRound a

/-- A lane of eight bytes, the lowest first. -/
def laneOf (l : List Nat) : Nat := ofBytesLE l

/-- Absorb blocks of 136 bytes, n at most. -/
def absorb : Nat → List Nat → List Nat → List Nat
  | 0, a, _ => a
  | n + 1, a, l =>
    if l = [] then a
    else absorb n (keccak ((List.range 25).map fun i => if i < 17 then a.getD i 0 ^^^ laneOf ((l.drop (8 * i)).take 8) else a.getD i 0)) (l.drop 136)

/-- Squeeze blocks of 136 bytes, n of them. -/
def squeeze : Nat → List Nat → List Nat
  | 0, _ => []
  | n + 1, a => ((a.take 17).flatMap fun x => leBytes 8 x) ++ squeeze n (keccak a)

/-- SHAKE256 of a message, with len bytes of output. -/
def shake256 (msg : List Nat) (len : Nat) : List Nat :=
  let pad := 136 - msg.length % 136
  let p := if pad = 1 then [0x9F] else 0x1F :: List.replicate (pad - 2) 0 ++ [0x80]
  (squeeze (cdiv len 136) (absorb (msg.length / 136 + 1) (List.replicate 25 0) (msg ++ p))).take len

/-- One bit of a reflected code with polynomial p. -/
def crcBit (p c : Nat) : Nat := if c % 2 = 1 then (c / 2) ^^^ p else c / 2

/-- One byte of a reflected code. -/
def crcByte (p c b : Nat) : Nat := (List.range 8).foldl (fun c _ => crcBit p c) (c ^^^ b % 256)

/-- Remainder of bytes in a reflected code, from the running value c. -/
def crcBytes (p c : Nat) (l : List Nat) : Nat := l.foldl (crcByte p) c

/-- One byte of the CRC-64 of R252, bits most significant first: polynomial of ECMA-182. -/
def crc64Byte (c b : Nat) : Nat :=
  (List.range 8).foldl (fun c _ => if c / 2 ^ 63 % 2 = 1 then (c * 2 % 2 ^ 64) ^^^ 0x42F0E1EBA9EA3693 else c * 2 % 2 ^ 64) (c ^^^ (b % 256 * 2 ^ 56))

/-- Remainder of bytes in the code of R252, from the running value c. -/
def crc64Bytes (c : Nat) (l : List Nat) : Nat := l.foldl crc64Byte c

end Sys2Proof.Machine
end

