-- ==== Sys2Proof/Machine/SecOps.lean ====
section
/-! DEFINITION. Operations of security: images and their checks, the keys a BOOT derives (R559 to R567, R573). -/
namespace Sys2Proof.Machine

/-- ASCII strings of the formats (R559 to R571). -/
def sFolut : List Nat := [0x46, 0x4F, 0x4C, 0x55, 0x54]
def sCert : List Nat := [0x43, 0x45, 0x52, 0x54]
def sReport : List Nat := [0x52, 0x45, 0x50, 0x4F, 0x52, 0x54]
def sToken : List Nat := [0x54, 0x4F, 0x4B, 0x45, 0x4E]
def sIdentity : List Nat := [0x49, 0x44, 0x45, 0x4E, 0x54, 0x49, 0x54, 0x59]
def sLayer : List Nat := [0x4C, 0x41, 0x59, 0x45, 0x52]
def sAlias : List Nat := [0x41, 0x4C, 0x49, 0x41, 0x53]
/-- PART of an image: "TDV-2564", zero padded. -/
def sPart : Nat := 0x5444562D323536340000000000000000

/-! Images (R560 to R563). KIND 1 first stage, 2 firmware; slot b is B. -/

/-- Offset and size of a slot in flash (R562). -/
def slotBase (kind : Nat) (b : Bool) : Nat :=
  if kind = 1 then (if b then 0x100000 else 0) else if b then 0x4200000 else 0x200000
def slotSize (kind : Nat) : Nat := if kind = 1 then 0x100000 else 0x4000000
def slotNumber (kind : Nat) (b : Bool) : Nat := 2 * kind - 2 + b2n b

/-- A byte of a slot: what staging has programmed, or the factory's. -/
def Mod.imageByte (m : Mod) (kind : Nat) (b : Bool) (i : Nat) : Nat :=
  match tget 0 (slotBase kind b + i) m.se.flash with
  | 0 => Config.image (slotNumber kind b) i % 256
  | v + 1 => v

/-- Bytes of a slot, and a field of them, the most significant byte first. -/
def Mod.imageBytes (m : Mod) (kind : Nat) (b : Bool) (at_ len : Nat) : List Nat :=
  (List.range len).map fun i => m.imageByte kind b (at_ + i)
def Mod.imageField (m : Mod) (kind : Nat) (b : Bool) (at_ len : Nat) : Nat := ofBytes (m.imageBytes kind b at_ len)

/-- Nothing has been programmed into the slot: it holds the image of the factory. -/
def Mod.factoryImage (m : Mod) (kind : Nat) (b : Bool) : Bool :=
  !m.se.flash.any fun x => decide (slotBase kind b ≤ x.1) && decide (x.1 < slotBase kind b + slotSize kind)

/-- The release key that signed a slot's image; the factory image's is one of the four (R561). -/
def Mod.imageKey (m : Mod) (kind : Nat) (b : Bool) : Option Nat :=
  if m.factoryImage kind b then some (Config.openValue 20 (slotNumber kind b) % 4)
  else
    let dig := ofBytes (shake256 (m.imageBytes kind b 256 1952) 64)
    (List.range 4).find? fun r => Config.releaseDigest r = dig

/-- Lifecycle code (R573). -/
def Mod.lifeCode (m : Mod) : Nat := if m.se.life = 2 ∧ m.se.debug = true then 3 else m.se.life

/-- Minutes left of DEBUG-AUTHORISED: full minutes since the stored figure was current are gone (R575). -/
def Mod.debugLeft (m : Mod) : Nat := if m.se.debug then m.objv 0xD00300 - (m.now - m.se.debugMinute) / (60 * sec) else m.objv 0xD00300

/-- The remaining minutes go to flash and count from now on: at a DRAIN, and at what ends the hub's running (R575). -/
def Mod.storeDebug (m : Mod) : Mod :=
  if m.se.debug then (m.setPers 0xD00300 m.debugLeft).onSe fun b => { b with debugMinute := m.now } else m

/-- The lifecycle state accepts debug builds. -/
def Mod.debugBuilds (m : Mod) : Bool := decide (m.lifeCode = 0) || decide (m.lifeCode = 3) || decide (m.lifeCode = 4)

def Mod.rollback (m : Mod) (kind : Nat) : Nat := if kind = 1 then m.se.rollFs else m.se.rollFw

/-- First failing check of an image, 0 when it is valid (R561). The factory's images pass the checks of format, signature, body and
build. -/
def Mod.imageReason (m : Mod) (kind : Nat) (b : Bool) : Nat :=
  let old := decide (m.rollback kind ≠ 0) && decide (m.imageByte kind b 12 < m.rollback kind)
  let keyGone := decide (m.se.revoked ≠ 0) && !(m.imageKey kind b).any fun r => !bit m.se.revoked r
  if m.factoryImage kind b then (if keyGone then 2 else if old then 5 else 0)
  else
    let n := m.imageField kind b 32 4
    if m.imageField kind b 0 4 ≠ 0x464F4C54 ∨ m.imageField kind b 4 2 ≠ 1 ∨ m.imageField kind b 36 16 ≠ sPart ∨
        m.imageByte kind b 6 ≠ kind ∨ slotSize kind - 8192 < n then 1
    else if (m.imageKey kind b).isNone = true ∨ keyGone = true then 2
    else if Config.mlDsaVerify (m.imageField kind b 256 1952) sFolut (m.imageBytes kind b 0 2208) (m.imageField kind b 2208 3309) = false then 3
    else if m.imageBytes kind b 64 64 ≠ shake256 (m.imageBytes kind b 8192 n) 64 then 4
    else if old then 5
    else if bit (m.imageByte kind b 7) 0 = true ∧ m.debugBuilds = false then 6
    else 0

/-- Measurement of an image (R561). -/
def Mod.measure (m : Mod) (kind : Nat) (b : Bool) : Nat := ofBytes (shake256 (m.imageBytes kind b 0 2208) 64)

/-- VERSION [31:16] of an image. -/
def Mod.imageVersion (m : Mod) (kind : Nat) (b : Bool) : Nat := m.imageField kind b 8 2

/-! Keys and certificates (R566, R567). -/

def shakeNum (l : List Nat) (len : Nat) : Nat := ofBytes (shake256 l len)

/-- Serial number of the module (0.001.02), 16 bytes. -/
def serialNumber : Nat := Config.factory 0 % 2 ^ 128

/-- A certificate of a layer over a subject key, signed by the key pair of a seed. -/
def certOf (layer key m2 m0 m1 seed : Nat) : Nat :=
  let body := toBytes 2 1 ++ [layer] ++ List.replicate 13 0 ++ toBytes 16 serialNumber ++ toBytes 1952 key ++ toBytes 64 m2 ++ toBytes 64 m0 ++
    toBytes 64 m1
  ofBytes body * 256 ^ 3309 + Config.mlDsaSign seed sCert body % 256 ^ 3309

/-- What a BOOT measures and derives. -/
def Mod.deriveKeys (m : Mod) : Mod :=
  let m0 := m.measure 1 m.se.boot.runFsB
  let m1 := m.measure 2 m.se.boot.runFwB
  let m2 := shakeNum [m.lifeCode, m.se.rollFs, m.se.rollFw, m.se.revoked] 64
  let none_ := m.onSe fun b => { b with m0 := m0, m1 := m1, m2 := m2, identity := 0, layerCert := 0, aliasCert := 0, aliasSeed := 0 }
  match m.se.uds with
  | none => none_
  | some u =>
    if m.se.life = 4 then none_
    else
      let idSeed := shakeNum (toBytes 32 u ++ sIdentity) 32
      let cdi1 := shake256 (toBytes 32 u ++ toBytes 64 m2 ++ toBytes 64 m0) 64
      let layerSeed := shakeNum (cdi1 ++ sLayer) 32
      let cdi2 := shake256 (cdi1 ++ toBytes 64 m1) 64
      let aliasSeed := shakeNum (cdi2 ++ sAlias) 32
      m.onSe fun b =>
        { b with
          m0 := m0
          m1 := m1
          m2 := m2
          identity := Config.mlDsaPublic idSeed
          layerCert := certOf 1 (Config.mlDsaPublic layerSeed) m2 m0 0 idSeed
          aliasCert := certOf 2 (Config.mlDsaPublic aliasSeed) m2 m0 m1 layerSeed
          aliasSeed := aliasSeed }

/-! What a BOOT runs (R563). -/

/-- The slot a BOOT runs of a KIND: the preferred one, else the other one. -/
def Mod.pickSlot (m : Mod) (kind : Nat) (pref : Bool) : Option Bool :=
  if m.imageReason kind pref = 0 then some pref
  else if m.imageReason kind (!pref) = 0 then some (!pref)
  else none

/-- EV-0D01 when a preferred slot of a KIND fails its check, with the time of the other check in milliseconds. -/
def Mod.fallback (m : Mod) (kind : Nat) (pref : Bool) : Mod :=
  if m.imageReason kind pref = 0 then m
  else
    (m.raise (evt 0x0D01)).onSe fun b => { b with boot := { b.boot with fallback := true, added := b.boot.added + if kind = 1 then 30 else 200 } }

/-- The image checks of a BOOT and the keys it derives. A decommissioned module erases its records and runs nothing (R573, R574). -/
def Mod.bootImages (m : Mod) : Mod :=
  let m1 := m.onSe fun b => { b with boot := { b.boot with ready := false, fallback := false, added := 0 } }
  if m.se.life = 5 then (m1.onSe fun b => { b with boot := {} }).onDi fun d => { d with flash := [] }
  else
    let fs := m.se.boot.fsB
    let fw := m.se.boot.fwB
    let m2 := m1.fallback 1 fs
    match m2.pickSlot 1 fs with
    | none => m2
    | some s1 =>
      let m3 := (m2.onSe fun b => { b with boot := { b.boot with runFsB := s1 } }).fallback 2 fw
      match m3.pickSlot 2 fw with
      | none => m3
      | some s2 => (m3.onSe fun b => { b with boot := { b.boot with runFwB := s2, ready := true } }).deriveKeys

end Sys2Proof.Machine
end

