-- ==== Sys2Proof/Machine/ModeSeq.lean ====
section
/-! DEFINITION. Operations of the mode sequences: resets and what they keep, BOOT, the governor's measures, DRAIN (R58, R105 to R130). -/
namespace Sys2Proof.Machine

/-! Resets (R125, R126). -/

/-- Why volatile state goes: a power-on reset, a warm reset, the main rails lowered. -/
inductive ResetKind where
  | power | warm | down
  deriving DecidableEq, Repr

/-- Volatile objects that keep their values: area 1 lives in the always-on domain; the figures of DRAIN and FAULT and the MPU's record over a warm reset;
areas 0 and 2 while the rails are down. -/
def keepsObject (k : ResetKind) (oid : Nat) : Bool :=
  decide (oid / 2 ^ 20 = 1) ||
  match k with
  | .power => false
  | .warm => [0x204000, 0x204100, 0x204200, 0x730004, 0xC01001, 0xC01002].contains oid
  | .down => decide (oid / 2 ^ 20 ≤ 2)

/-- The defaults of all persistent objects (R59): flash, and the controller's settings of area 1. -/
def Mod.restoreAll (m : Mod) : Mod :=
  let m1 := m.each m.di.p13 fun x m => m.setObj x.1 (objDefault x.1)
  let m2 := m1.onDi fun d => { d with flash := [], p13 := [] }
  (((m2.limitWritten 0 (m2.objv 0x101001)).limitWritten 1 (m2.objv 0x101002)).limitWritten 2 (m2.objv 0x101100)).onMd fun b =>
    { b with restoreDefaults := false }

/-- Objects after a reset: the values in flash, and the volatile ones that keep theirs. -/
def Mod.restoredObjects (m : Mod) (k : ResetKind) : Tbl Nat :=
  (m.di.obj.filter fun x => keepsObject k x.1).foldl (fun t x => tset (objDefault x.1) x.1 x.2 t)
    ((m.di.flash.filter fun x => decide (x.1 / 2 ^ 20 ≠ 1)).foldl (fun t x => tset (objDefault x.1) x.1 x.2 t) [])

/-- The event log after a reset (R126, R600). -/
def EventBlk.afterReset (b : EventBlk) (k : ResetKind) : EventBlk :=
  match k with
  | .warm => { ring := b.ring, nextSeq := b.nextSeq, ackPoint := b.ackPoint, lostAlert := b.lostAlert, lost := b.lost }
  | .power | .down => {}

/-- What the outside world and other modules still hold of the edge ports through a reset. -/
def EdgeBlk.afterReset (b : EdgeBlk) : EdgeBlk :=
  { ports := b.ports.foldl (fun t x => tset {} x.1
      { prsnt := x.2.prsnt, prsntSince := x.2.prsntSince, clkreq := x.2.clkreq, farVcs := x.2.farVcs } t) []
    vppb := b.vppb.foldl (fun t x => tset {} x.1 { remote := x.2.remote, flit := x.2.flit } t) [] }

/-- Reference source and spread of each cluster after a reset are what its objects say (R203). -/
def Mod.clusterSources (m : Mod) : Tbl ClusterSt :=
  (List.range 16).foldl (fun t k => tset {} k { source := m.objv (mkOid 3 (0x100 + k) 1), spread := m.objv (mkOid 3 (0x100 + k) 2) } t) []

/-- The remote table names the parcels of the extents that have outlived the reset (R391). -/
def Mod.restoreRemote (m : Mod) : Mod :=
  m.each (m.exts.filter fun x => decide (3 ≤ extState x.2) && decide (extState x.2 ≤ 5)) fun x m =>
    let par := m.extParcel x.1 x.2
    let a := m.extAux x.1
    if par.1 = m.rt.id then m
    else (m.addRemote par.1 par.2 (pack [(a.size.getD 0, 58, 3), (b2n a.mtype, 54, 1), (a.policy, 52, 2), (b2n a.pf, 51, 1)])).getD m

/-- All volatile state goes, and persistent objects are as stored (R58, R126 to R129, R261, R288, R404). Governor status and fence overflow are reset by P and
W alone: they stand while the rails are down (R133, R135). -/
def Mod.reboot (m : Mod) (k : ResetKind) : Mod :=
  let kept := match m.md.mode with
    | .off | .standby => m
    | _ => m.storeDebug
  let m0 := if k = .warm ∧ m.md.restoreDefaults = true then kept.restoreAll else kept
  let objs := m0.restoredObjects k
  let m1 := m0.onDi fun d => { obj := objs, flash := d.flash, p13 := d.p13, strapped := d.strapped, slotId := d.slotId }
  let epoch := m1.random % (2 ^ 32 - 1) + 1
  let m2 := m1.drawn
  let routeKey := m2.random
  let m3 := m2.drawn
  let cacheKey := m3.draws
  let m4 := m3.drawn
  Mod.restoreRemote { m4 with
    ev := m4.ev.afterReset k
    cn := if k = .warm then { sparesUsed := m4.cn.sparesUsed, remapped := m4.cn.remapped } else {}
    md := { mode := m4.md.mode, bootAt := m4.md.bootAt, railStep := m4.md.railStep, rails := m4.md.rails, cold := m4.md.cold,
            railReset := m4.md.railReset, temps := m4.md.temps, restoreDefaults := m4.md.restoreDefaults,
            gov := if k = .down then m4.md.gov else {} }
    fn := if k = .down then { overflow := m4.fn.overflow } else {}
    ph := { refin := m4.ph.refin, clusters := m4.clusterSources }
    ed := m4.ed.afterReset
    lk := { epoch := epoch }
    sw := { nextId := m4.sw.nextId }
    rt := { id := m4.objv 0x600100 % 4096, key := routeKey }
    ti := { count := if k = .warm then m4.ti.count else 0 }
    tp := {}
    ca := { key := cacheKey }
    ho := {}
    po := { keys := m4.po.keys, ext := m4.po.ext.map fun x => (x.1, { size := x.2.size, policy := x.2.policy, mtype := x.2.mtype, pf := x.2.pf, moved := x.2.moved }) }
    sc := {}
    br := {}
    sv := { service := if k = .warm then m4.sv.service else [] }
    se := { m4.se with boot := { m4.se.boot with ready := false }, staged := 0, checkEnd := none, live := none, liveRetry := false,
                       debugMinute := m4.now, challenges := [], tokens := [], tokenStatus := [], reports := [] } }

/-! BOOT (R106 to R113). -/

/-- Rails of a sequencing step, and the milliseconds from BOOT entry at which all of them are in window (R110). -/
def railStepRails : Nat → List Rail
  | 1 => [.vib]
  | 2 => [.vcore0, .vcore1, .vhub]
  | 3 => [.vio]
  | 4 => [.vppm]
  | 5 => [.vmem]
  | _ => [.vsera, .vserh]

def railStepMs : Nat → Nat
  | 1 => 6 | 2 => 10 | 3 => 12 | 4 => 14 | 5 => 16 | _ => 20

def allRails : List Rail := [.vib, .vcore0, .vcore1, .vhub, .vio, .vppm, .vmem, .vsera, .vserh]
def Mod.railsUp (m : Mod) : Bool := allRails.all fun r => m.md.rails.contains r
/-- Rails a module is to have: after a thermal trip those that the trip keeps (R116). -/
def ModeBlk.wantedRails (b : ModeBlk) : List Rail := if b.thermalTrip then [.vib, .vhub, .vio] else allRails

/-- The dies leave reset: lanes in electrical idle, PERST_N asserted on downstream-role ports, reference outputs running (R134, R204). -/
def Mod.outOfReset (m : Mod) : Mod :=
  let m1 := m.each (List.range 48) fun p m => m.edgeIdle p
  let m2 := m1.each (List.range 16) fun n m => m.onLanes (48 + n) fun l => { l with pstate := 1 }
  let m3 := m2.onMd fun b => { b with railReset := false, raising := false }
  m3.each (List.range 16) fun k m => m.refoutCheck k

/-- Module flash takes the power-entry controller's copy of area 1 (R138). -/
def Mod.flashArea1 (m : Mod) : Mod :=
  m.onDi fun d => { d with flash := d.p13.foldl (fun t x => tset (objDefault x.1) x.1 x.2 t) (tkeep (fun k _ => decide (k / 2 ^ 20 ≠ 1)) d.flash) }

/-- Enter BOOT: a warm reset while every main rail is up, else a power-on reset (R113, R125). -/
def Mod.enterBoot (m : Mod) (warm : Bool) : Mod :=
  let w := warm && m.railsUp && !m.md.railReset
  let m1 := m.answerRest.closeAll.reboot (if w then .warm else .power)
  let m2 := m1.onMd fun b =>
    { b with bootAt := m.now, cold := !w, railStep := if w then 6 else 0, raising := !w, railReset := !w }
  let m3 := (m2.enterMode .boot 0).flashArea1.bootImages
  if w then m3.outOfReset else m3

/-- A step of R110 is done: its rails are in window. -/
def Mod.railStepDone (m : Mod) : Mod :=
  let k := m.md.railStep + 1
  let m1 := (m.advanceTo (m.md.bootAt + railStepMs k * ms)).onMd fun b =>
    { b with railStep := k, rails := ((railStepRails k).filter fun r => b.wantedRails.contains r).foldl (fun l r => addOnce r l) b.rails }
  if k < 6 then m1
  else if m1.md.mode = .fault then
    (m1.onMd fun b => { b with railReset := b.thermalTrip, raising := false, faultAt := m1.now }).flushPowerEvents
  else m1.outOfReset

/-- The ring in service memory is initialised: events raised before are copied into it; after a warm reset it is read again (R600). -/
def Mod.ringInit (m : Mod) : Mod :=
  let pushed := (m.ev.ring.drop (4096 - m.ev.mirror.length)).filter m.unacked
  m.onEv fun b =>
    let ring := b.mirror ++ b.ring.take (4096 - b.mirror.length)
    { b with ring := ring, mirror := ring.take 256, ringReady := true, lostAlert := b.lostAlert || !pushed.isEmpty, lost := b.lost + pushed.length }

/-- Parcels after BOOT (R128, R400, R414), `clean` the flag 9.002.00 as BOOT found it: after an unclean end WB parcels are poisoned and
partners' copies read; every parcel homed here recovers by a flush of all. -/
def Mod.bootParcels (m : Mod) (clean : Bool) : Mod :=
  let homed := m.descs.filter fun i => servedState (m.dState i) || decide (m.dState i = 7)
  let m1 := m.each homed fun i m =>
    if clean = false ∧ m.dPolicy i = 0 ∧ servedState (m.dState i) = true then m.poisonParcel i else m.setDState i 7
  let running := m1.descs.filter fun i => decide (fld (m1.objv (descOid 6 i)) 61 3 = 2) || decide (fld (m1.objv (descOid 6 i)) 61 3 = 3)
  let m2 := m1.each running fun i m => (m.setMState i 5 0).raise (evt 0x0908 Loc.module i)
  let asks := if clean then [] else homed.filter fun i => decide (m2.dPartner i ≠ 0)
  let m3 := (m2.onPo fun b => { b with await := asks }).each asks fun i m => m.firmwareRead (m.dPartner i) (descOid 0 (fld (m.objv (descOid 1 i)) 0 16))
  if homed = [] then m3 else m3.startFlush 65535 false

/-- The upstream port of each virtual CXL switch is the host port bound to it (R222). -/
def Mod.bindHosts (m : Mod) : Mod :=
  m.each ((List.range 48).filter fun p => m.role p = 1 ∧ m.binding p ≠ 0xFFFF) fun p m => m.setObj (mkOid 4 (0x100 + m.binding p / 256) 1) p

/-- The units that self-test has failed, and those of the fence list, are fenced (R18, R19, R133); fabric ports whose Retire has persisted are retired
(R273, R286). -/
def Mod.bootFences (m : Mod) (fails : List UnitId) : Mod :=
  let listed := (List.range 64).filterMap fun i => unitOf (m.objv (fenceOid (i + 1)))
  let m1 := (m.each listed fun u m => m.fenceEffect u).each fails fun u m => m.fenceUnit u 1
  m1.each ((List.range 16).filter fun n => m1.objv (mkOid 5 n 2) = 1) fun n m => m.linkRetire n 13

/-- Enter CONFIGURE from BOOT (R106, R112). -/
def Mod.enterConfigure (m : Mod) : Mod :=
  let m1 := m.enterMode .configure 0
  let m2 := (m1.flushPowerEvents.setPers 0x900200 0).recordDirty
  let m3 := m2.each (List.range 16) fun k m => if (m.cluster k).source = 1 ∧ m.ph.refin = false then m else m.pllLocked k
  let m4 := m3.each ((List.range 48).filter fun p => m3.lead p = p ∧ m3.downstream p = true ∧ m3.objv (mkOid 4 p 1) = 1 ∧ (m3.edge p).prsnt = true)
    fun p m => m.onEdge p fun s => { s with hotAdd := .counting, prsntSince := m.now }
  let m5 := m4.onMd fun b => { b with passEnd := if m.objv 0x201100 = 4 then some (m.now + 50 * ms) else none, gov := { nextAt := m.now + 10 * ms } }
  ((m5.advance ms).onMd fun b => { b with serving := true }).setMrdy true

/-- BOOT is complete (R112, R113). -/
def Mod.bootDone (m : Mod) (fails : List UnitId) : Mod :=
  let m1 := m.advanceTo (m.md.bootAt + ((if m.md.cold then 600 else 580) + m.se.boot.added) * ms)
  ((m1.bindHosts.bootFences fails).ringInit.enterConfigure).bootParcels (decide (m1.objv 0x900200 = 1))

/-! OPERATE and CAPPED (R105, R114). -/

/-- Every link sends its classes' openings in its next CONTROL flit (R270). -/
def Mod.openAll (m : Mod) : Mod := m.each (List.range 16) fun n m => if (m.link n).st = .active then m.onLink n fun s => { s with ctlOwed := true } else m

/-- From CONFIGURE to OPERATE, or CAPPED with the governor above step 0. -/
def Mod.enterOperate (m : Mod) : Mod :=
  ((m.onMd fun b => { b with passEnd := none }).enterMode (if m.md.gov.step = 0 then .operate else .capped) 0).openAll

/-! The governor's measures (R115). -/

/-- Fabric ports ACTIVE toward the same neighbour as another, lower-numbered one, and not yet taken out of use. -/
def Mod.redundantLinks (m : Mod) : List Nat :=
  (List.range 16).filter fun n => (m.link n).st = .active ∧ (m.link n).redundant = false ∧
    (List.range n).any fun k => decide ((m.link k).st = .active) && !(m.link k).redundant && decide (m.nbrKey k = m.nbrKey n)

/-- Retrain an edge port: margin runs end, traffic pauses (R213). Under L0p the rate changes at the width in effect. -/
def Mod.retrainEdge (m : Mod) (p rate : Nat) : Mod :=
  let m1 := m.endMargins (m.mergedLanes p)
  match (m.edge p).link with
  | .l0p => (m1.onEdge p fun s => { s with tr := { s.tr with rate := rate } }).each (m.mergedLanes p) fun l m =>
      m.onLane l fun s => { s.atRate rate with precode := decide (rate = 6) && decide (m.objv (mkOid 3 l 2) = 1) }
  | .l0 => (m1.portCtr p 12 1).onEdge p fun s => { s with link := .recovery }
  | _ => m

/-- A redundant link is used again: it leaves Dormant. -/
def Mod.wakeLink (m : Mod) (n : Nat) : Mod := ((m.onLink n fun s => { s with redundant := false }).startExit n).recordDirty

/-- Take up the measure of a step. -/
def Mod.takeMeasure (m : Mod) (step : Nat) : Mod :=
  match step with
  | 3 => m.each m.redundantLinks fun n m =>
      let ask := decide ((m.link n).dormantHs = .none) && m.holdsNothing n
      m.onLink n fun s => { s with redundant := true, dormantHs := if ask then .reqOwed else s.dormantHs, dormantAskAt := if ask then s.dormantAskAt else m.now }
  | 4 =>
    let ps := (List.range 48).filter fun p => m.lead p = p ∧ (m.edge p).dllUp = true ∧ (m.edge p).tr.rate = 6
    (m.each ps fun p m => m.retrainEdge p 5).onMd fun b => { b with gov := { b.gov with capped := ps } }
  | 5 => m.each ((List.range 8).filter fun r => m.regionUnbound r ∧ (m.region r).gated = false) fun r m => m.onRegion r fun s => { s with withdrawn := true }
  | _ => m

/-- Release the measure of a step. A gated region has its power back by REGION_UNGATE, a GDDR6 channel pair its rate by GDDR6_RATE_STEP. -/
def Mod.dropMeasure (m : Mod) (step : Nat) : Mod :=
  match step with
  | 3 => m.each (fabPorts.filter fun n => (m.link n).redundant) fun n m => m.wakeLink n
  | 4 => (m.each (m.md.gov.capped.filter fun p => (m.edge p).dllUp) fun p m => m.retrainEdge p (min 6 (m.objv (mkOid 3 (0x200 + p) 1)))).onMd fun b => { b with gov := { b.gov with capped := [] } }
  | 5 => m.each ((List.range 8).filter fun r => (m.region r).withdrawn ∧ (m.region r).gated = false) fun r m => m.onRegion r fun s => { s with withdrawn := false }
  | _ => m

/-- The governor has taken the port out of use, and no other ACTIVE link reaches its neighbour any more. -/
def Mod.lastLink (m : Mod) (n : Nat) : Bool :=
  (m.link n).redundant && !(List.range 16).any fun k => k ≠ n && decide ((m.link k).st = .active) && !(m.link k).redundant && decide (m.nbrKey k = m.nbrKey n)

/-- The measures in force meet what has changed since they were taken up, at each evaluation: one link toward each neighbour stays ACTIVE, links
that have become redundant go Dormant, regions that have become unbound are gated (R115). -/
def Mod.holdMeasures (m : Mod) : Mod :=
  let m1 := if 3 ≤ m.md.gov.step then (m.each fabPorts fun n m => if m.lastLink n then m.wakeLink n else m).takeMeasure 3 else m
  if 5 ≤ m1.md.gov.step then m1.takeMeasure 5 else m1

/-- The governor's step becomes n, one measure at a time; OPERATE and CAPPED follow it (R106, R114, R115). -/
def Mod.govStep (m : Mod) (n : Nat) : Mod :=
  let old := m.md.gov.step
  let m1 := m.onMd fun b => { b with gov := { b.gov with step := n, hold := 0, floorSince := if n = 5 then some (b.gov.floorSince.getD m.now) else none } }
  let m2 := (m1.each ((List.range 6).filter fun k => old < k ∧ k ≤ n) fun k m => m.takeMeasure k).each
    (((List.range 6).filter fun k => n < k ∧ k ≤ old).reverse) fun k m => m.dropMeasure k
  if n ≠ 0 ∧ m2.md.mode = .operate then m2.enterMode .capped 0
  else if n = 0 ∧ m2.md.mode = .capped then m2.enterMode .operate 0
  else m2

/-! DRAIN (R120 to R124). -/

/-- Start DRAIN toward an end state with a bound in milliseconds: admission stops at once, write-combining entries are flushed. -/
def Mod.startDrain (m : Mod) (endState : Mode) (bound : Nat) : Mod :=
  let m1 := (m.enterMode .drain 0).closeAll
  let m2 := m1.onMd fun b => { b with passEnd := none, drain := { step := 2, endState := endState, start := m.now, bound := m.now + bound * ms } }
  let m3 := m2.each (m2.po.migs.map (·.1)) fun i m => m.migAbort i
  m3.storeDebug.flushWhere fun _ => true

/-- Step 3: every line in a stable state is to be evicted, its host copies back-invalidated first. -/
def Mod.recallAll (m : Mod) : Mod :=
  let ls := (m.ca.lines.filter fun x => x.2.st.stable && decide (x.2.st ≠ .i) && x.2.pend.isEmpty).map (·.1)
  m.each ls fun l m => m.onLine l fun s => { s with pend := s.pend ++ [.evict .drain] }

/-- No line remains, and the edge snoop filter is empty. -/
def Mod.recalled (m : Mod) : Bool := m.ca.lines.all (fun x => decide (x.2.st = .i)) && m.ed.filter.isEmpty

/-- Parcels homed here: neither empty nor reserve. -/
def Mod.homedParcels (m : Mod) : List Nat := m.descs.filter fun i => decide (m.dState i ≠ 0) && decide (m.dState i ≠ 6)

/-- Lines of a parcel with an entry, a transaction or a waiting request at the home. -/
def Mod.parcelBusy (m : Mod) (i : Nat) : Bool := m.ho.txns.any fun x => decide (x.1 / 2 ^ 48 = i)

/-- Step 4 starts: parcels without a partner are no longer served, and every line of theirs at another module is recalled (R124): at once, or when
the transaction in progress on it has ended. -/
def Mod.startHandoff (m : Mod) : Mod :=
  let own := m.homedParcels.filter fun i => decide (m.dPartner i = 0)
  ((m.onPo fun b => { b with recalling := own }).onMd fun b => { b with drain := { b.drain with step := 4 } }).recallRest

/-- Requests of a parcel that wait at the home go on to the partner, n rounds at most (R123). -/
def Mod.forwardWaiting (m : Mod) (i : Nat) : Nat → Mod
  | 0 => m
  | n + 1 =>
    match m.ho.queue.find? fun x => decide (x.1 / 2 ^ 48 = i) && !x.2.isEmpty && (m.txn x.1).isNone with
    | some x => (m.homeStart x.1).forwardWaiting i n
    | none => m

/-- Hand a parcel off: its entries and descriptor go to the partner, whose copy is served; the own one becomes reserve; the new home is
announced (R123, R397). -/
def Mod.handOff (m : Mod) (i : Nat) : Mod :=
  let dst := m.dPartner i
  let pidx := fld (m.objv (descOid 1 i)) 0 16
  let entries := m.ho.dir.filter fun x => decide (x.1 / 2 ^ 48 = i)
  let d0 := setFld (setFld (m.d0 i) 21 12 m.rt.id) 20 1 0
  let m1 := (m.emit (.handoff dst pidx entries)).firmwareDesc dst pidx [(descOid 0 pidx, d0)]
  let m2 := m1.onHo fun b => { b with dir := tkeep (fun d _ => !decide (d / 2 ^ 48 = i)) b.dir }
  let m3 := (m2.setDState i 6).onPo fun b => { b with handed := addOnce i b.handed }
  let waits := (m.ho.queue.map fun x => x.2.length).sum
  ((m3.announceMove m.rt.id i dst pidx 0).redirect m.rt.id i dst pidx).forwardWaiting i waits

/-- Homes whose reserve copies this module still holds: its role as their partner ends (R124). -/
def Mod.partnerHomes (m : Mod) : List Nat :=
  ((m.descs.filter fun i => decide (m.dState i = 6) && decide (i ∉ m.po.handed)).map m.dPartner).eraseDups

/-- Step 5: the departure is announced, and every link that can carries LEAVE (R120, R282). -/
def Mod.startLeave (m : Mod) : Mod :=
  let m1 := (m.onMd fun b => { b with drain := { b.drain with step := 5 } }).onRt fun b => { b with leaving := true }
  let m2 := m1.recordDirty.each m.partnerHomes fun h m => m.raise (evt 0x0221 Loc.module h)
  m2.each (List.range 16) fun n m =>
    match (m.link n).st with
    | .active | .retrain | .train => m.onLink n fun s => { s with leave := .leaving, leaveOwed := true }
    | .dormant => (m.onLink n fun s => { s with leave := .leaving, leaveOwed := true }).startExit n
    | .down | .retired => m

/-- Step 6: the data plane has ended in order; hosts' and devices' links go to electrical idle (R120, R414). -/
def Mod.startEnd (m : Mod) : Mod :=
  let m1 := (m.setPers 0x900200 1).onMd fun b => { b with drain := { b.drain with step := 6 } }
  if m.md.drain.endState = .boot then m1 else m1.each (List.range 48) fun p m => m.edgeIdle p

/-- The main rails are lowered (R110), groups that are open aborted before (R72). -/
def Mod.lowerRails (m : Mod) : Mod :=
  (((m.answerRest.closeAll).advance (2 * ms)).onMd fun b => { b with rails := [], railStep := 0, railReset := true, raising := false, cold := true }).reboot .down

/-- End of DRAIN: STANDBY, OFF with the module held off, or a warm reset (R120, R122). -/
def Mod.drainEnds (m : Mod) : Mod :=
  let e := m.md.drain.endState
  let start := m.md.drain.start
  let took := fun (m : Mod) => m.setObj 0x204200 (m.now - start)
  match e with
  | .boot => (took m).enterBoot true
  | .off =>
    let m1 := took m.lowerRails
    let off := fun (s : FeedSt) => { s with fet := .off, rampTimeout := none, carrying := false, ilim := false, current := 0 }
    let m2 := ((m1.onPw fun p => { p with a := off p.a, b := off p.b }).enterMode .off 0).pgCheck
    (m2.onPw fun p => { p with vao := false, heldOff := true }).onDi fun d => { d with strapped := false }
  | _ => (took m.lowerRails).enterMode .standby 0

/-- The bound of a DRAIN expires in step 5 or before: what is left of steps 2 and 3 is discarded and counted, step 4 is omitted, and
every link leaves at once (R121, R282, R507). Only lines of WB parcels hold dirty data: a WT or UC parcel needs no re-initialisation (R7, R412). -/
def Mod.drainBound (m : Mod) : Mod :=
  let writes := m.br.wc.length + ((m.br.live ++ m.br.held).filter fun r => r.writes).length
  let dirty := m.ca.lines.filter fun x => x.2.st.dirty && decide ((m.lineAttr x.1).1 = 0)
  let parcels := (dirty.map fun x => (lineHome x.1, lineDesc x.1)).eraseDups
  let m1 := (m.setObj 0x204000 (writes % 2 ^ 32)).setObj 0x204100 dirty.length
  let m2 := m1.each parcels fun x m => if x.1 = m.rt.id then m.poisonParcel x.2 else m.raise (evt 0x0905 Loc.module x.2 x.1)
  let bars := m2.br.barriers.map fun b => { b with cut := decide (m.md.drain.endState = .boot) }
  let m3 := (m2.onBr fun b => { b with wc := [], live := [], held := [], barriers := bars }).each bars fun b m => m.barDone b
  let m4 := (m3.onCa fun b => { b with lines := [], flushes := [] }).onEd fun b => { b with filter := [], snoops := [] }
  let m5 := (m4.onMd fun b => { b with drain := { b.drain with expired := true } })
  let m6 := if m5.md.drain.step < 5 then m5.startLeave else m5
  (m6.each (List.range 16) fun n m =>
    match (m.link n).st with
    | .active | .dormant => (m.sendControl n 5).linkDown n 12
    | .retrain => m.linkDown n 12
    | .train | .down | .retired => m).startEnd

/-! Mode requests (R106 to R108). -/

/-- The mode a request may name (R106, R107, R116): what the module does with it; none is RANGE. -/
def Mod.modeRequest (m : Mod) (v : Nat) : Option (Mod → Mod) :=
  let cool := m.md.thermalTrip = false ∨ m.md.temps.all (fun t => decide (t < (m.objv 0x202200 : Int) * 1000)) = true
  if v = 5 then none
  else if v = m.md.mode.code ∨ (v = 4 ∧ m.md.mode = .capped) then some id
  else
    match m.md.mode, v with
    | .standby, 2 => some fun m =>
        let m1 := m.onMd fun b => { b with bootHeld := true }
        if 115 ≤ m.pAvail then m1 else m1.powerEvent 0x010C
    | .configure, 4 => if m.tp.scanning then none else some (·.enterOperate)
    | .configure, 0 | .operate, 0 | .capped, 0 => some fun m => m.startDrain .off (m.objv 0x200400)
    | .configure, 1 | .operate, 1 | .capped, 1 => some fun m => m.startDrain .standby (m.objv 0x200400)
    | .configure, 2 | .operate, 2 | .capped, 2 => some fun m => m.startDrain .boot 10
    | .drain, 0 => some fun m => m.onMd fun b => { b with drain := { b.drain with endState := .off } }
    | .drain, 1 => some fun m => m.onMd fun b => { b with drain := { b.drain with endState := .standby } }
    | .drain, 2 => some fun m => m.onMd fun b =>
        { b with drain := { b.drain with endState := .boot, bound := min b.drain.bound (m.now + 10 * ms) } }
    | .fault, 1 => if cool then some fun m => m.lowerRails.enterMode .standby 0 else none
    | .fault, 2 => if cool then some fun m => m.enterBoot true else none
    | _, _ => none

end Sys2Proof.Machine
end

