-- ==== Sys2Proof/Machine/MpuOps.lean ====
section
/-! DEFINITION. Operations of the hub's memory protection: ranges, governing entries, checks, the violation record (R545 to R555). -/
namespace Sys2Proof.Machine

/-- The ranges of R545: base and size. -/
def hubRanges : List (Nat × Nat) :=
  [(0, 0x40000), (0x10000000, 0x1000000), (0x20000000, 64 * 0x10000), (0x100000000, 0x80000000), (0x200000000, 0x20000000),
   (0x1000000000, 0x100000000), (0x1100000000, 0x100000000)]

def inHubRange (a : Nat) : Bool := hubRanges.any fun r => decide (r.1 ≤ a) && decide (a < r.1 + r.2)
/-- Peripheral slot of an address. -/
def slotOf (a : Nat) : Option Nat := if 0x20000000 ≤ a ∧ a < 0x20400000 then some ((a - 0x20000000) / 0x10000) else none

def regionOid (r el : Nat) : Nat := mkOid 0xC (0x100 + r) el
def slotOid (s : Nat) : Nat := mkOid 0xC 0x020 (1 + s)

/-- The region covers an address. -/
def Mod.regionCovers (m : Mod) (r a : Nat) : Bool :=
  let c := m.objv (regionOid r 2)
  let base := m.objv (regionOid r 1)
  bit c 31 && decide (base ≤ a) && decide (a < base + 2 ^ fld c 24 6)

/-- The entry that governs a byte (R549): 0x00 to 0x1F a region, 0x20 + s slot s, 0x7F no match. -/
def Mod.governing (m : Mod) (a : Nat) : Nat :=
  match slotOf a with
  | some s => 0x20 + s
  | none => if inHubRange a then ((List.range 32).find? fun r => m.regionCovers r a).getD 0x7F else 0x7F

def Mod.entryWord (m : Mod) (e : Nat) : Nat := if e < 0x20 then m.objv (regionOid e 2) else if e < 0x60 then m.objv (slotOid (e - 0x20)) else 0

/-- The entry is locked: bit 30 of a region, bit 31 of a slot. -/
def Mod.entryLocked (m : Mod) (e : Nat) : Bool := if e < 0x20 then bit (m.entryWord e) 30 else decide (e < 0x60) && bit (m.entryWord e) 31

/-- R, W, X as bits 0, 1, 2 of a privilege's field. -/
def busRight : BusKind → Nat
  | .read => 0 | .write => 1 | .fetch => 2

/-- A byte is permitted (R549, R553). -/
def Mod.bytePermitted (m : Mod) (priv : Nat) (k : BusKind) (a : Nat) : Bool :=
  let e := m.governing a
  if e = 0x7F then false
  else if priv = 3 ∧ m.lifeCode = 3 ∧ m.entryLocked e = true then true
  else bit (m.entryWord e) (3 * priv + busRight k)

/-- The first byte of an access that is not permitted. -/
def Mod.forbidden (m : Mod) (priv : Nat) (k : BusKind) (addr size : Nat) : Option Nat :=
  ((List.range size).map (addr + ·)).find? fun a => !m.bytePermitted priv k a

def busCode : BusKind → Nat
  | .read => 0 | .write => 1 | .fetch => 2

/-- Record or count a violation at byte a (R551, R554). -/
def Mod.violation (m : Mod) (master priv : Nat) (k : BusKind) (addr size a : Nat) : Mod :=
  let e := m.governing a
  if bit (m.objv 0xC01002) 31 then ((m.bump 0xC01003 1).raiseOnce (evt 0x0C02 Loc.hub master addr) 0)
  else
    let info := pack [(1, 31, 1), (priv, 29, 2), (master, 24, 5), (busCode k, 22, 2), (size, 15, 7), (e, 8, 7), (b2n (m.entryLocked e), 7, 1),
                      (b2n (decide (a ≠ addr)), 6, 1)]
    ((m.setObj 0xC01001 addr).setObj 0xC01002 info).raise (evt 0x0C01 Loc.hub master addr)

/-- The fault reaches its master (R551): a service core takes an exception, the crypto engine's command ends in error, the debug port is denied. -/
def Mod.faultTo (m : Mod) (master : Nat) : Mod :=
  let m1 := if master < 16 then (m.hubCtr (16 * master + 2) 1).hubCtr (16 * master + 3) 1
    else if master = 16 then m.hubCtr 258 1 else m
  m1.emit (.bus master false 0)

/-- A byte of the hub's address space: SRAM and service memory hold what was written, flash its images; the content of the ROM and what device
registers return is open (free value 30). -/
def Mod.hubByte (m : Mod) (a : Nat) : Nat :=
  if 0x10000000 ≤ a ∧ a < 0x11000000 then m.sv.sram.read (a - 0x10000000)
  else if 0x100000000 ≤ a ∧ a < 0x180000000 then m.sv.service.read (a - 0x100000000)
  else if 0x200000000 ≤ a ∧ a < 0x208200000 then
    let o := a - 0x200000000
    if o < 0x200000 then m.imageByte 1 (decide (0x100000 ≤ o)) (o % 0x100000)
    else m.imageByte 2 (decide (0x4200000 ≤ o)) ((o - 0x200000) % 0x4000000)
  else Config.openValue 30 a % 256

/-- Write bytes of the hub's address space, the lowest address first: the memories take them. -/
def Mod.hubWrite (m : Mod) (a : Nat) (bytes : List Nat) : Mod :=
  if 0x10000000 ≤ a ∧ a < 0x11000000 then m.onSv fun b => { b with sram := b.sram.put (a - 0x10000000) bytes }
  else if 0x100000000 ≤ a ∧ a < 0x180000000 then m.onSv fun b => { b with service := b.service.put (a - 0x100000000) bytes }
  else m

/-- A slot entry is written (R547, R552): rights without X; a slot without a peripheral reads 0. The value, none when the entry is locked. -/
def Mod.slotWrite (m : Mod) (s v : Nat) : Mod :=
  if 22 ≤ s then m
  else
    let m1 := m.setObj (slotOid s) (pack [(fld v 31 1, 31, 1), (v, 0, 12)])
    if bit v 31 then m1.raise (evt 0x0C04 Loc.hub (0x20 + s)) else m1

/-- The X bits of a slot entry's rights. -/
def slotXBits (v : Nat) : Bool := bit v 2 || bit v 5 || bit v 8 || bit v 11

/-- The joint check of a region group (R548): aligned, within one range, outside the peripheral slots. -/
def regionOk (base ctl : Nat) : Bool :=
  let n := fld ctl 24 6
  decide (12 ≤ n ∧ n ≤ 36) && decide (base % 2 ^ n = 0) &&
    hubRanges.any fun r => decide (r.1 ≠ 0x20000000) && decide (r.1 ≤ base) && decide (base + 2 ^ n ≤ r.1 + r.2)

end Sys2Proof.Machine
end

