-- ==== Sys2Proof/Machine/CountOps.lean ====
section
/-! DEFINITION. Operations of the counters and the error handling: sample records, bandwidth windows, patrol scrub and spare rows, background
walkers, acknowledgement (R584 to R604). -/
namespace Sys2Proof.Machine

/-- Time passes until meridian time reaches t nanoseconds. -/
def Mod.advanceMeridian (m : Mod) (t : Nat) : Mod :=
  let rest := t * 65536 - m.ti.count
  let per : Nat := Int.toNat ((65536 : Int) + (65536 : Int) * m.ti.trim / 1000000000)
  m.advance (cdiv rest per)

/-- The sample record of an operation taken for a counter (R588). -/
def Mod.opRecord (m : Mod) (k : Nat) (o : Sampled) : Nat :=
  let ctl := m.objv (fctrOid k 2)
  pack [(m.meridian, 192, 64), (k, 186, 6), (o.port, 180, 6), (b2n o.hub, 179, 1), (o.tenant.getD 0, 171, 8), (b2n o.tenant.isSome, 170, 1),
        (if o.hub then 0 else o.cls, 167, 3), (o.tid, 143, 24), (o.addr, 64, 64), (fld ctl 58 5, 59, 5)]

/-- A sample record goes into the sample ring, or is lost when the ring is full (R589). -/
def Mod.sampleOut (m : Mod) (rec : Nat) : Mod :=
  let size := m.objv 0xE04200 / 32
  let prod := m.objv 0xE04300
  if size ≤ (prod + 2 ^ 32 - m.objv 0xE04400) % 2 ^ 32 then (m.bump 0xE04500 1).raiseOnce (evt 0x0E09) 0
  else
    (m.onSv fun b => { b with service := b.service.put (m.objv 0xE04100 + 32 * (prod % size)) (leBytes 32 rec) }).setObj 0xE04300
      ((prod + 1) % 2 ^ 32)

/-! Chaining (R584). -/

/-- The counters above the pairs of word w whose chain bit changes read 0. -/
def Mod.chainChange (m : Mod) (w old new : Nat) : Mod :=
  m.each ((List.range 64).filter fun i => bit old i != bit new i) fun i m =>
    m.onCn fun c => { c with ctr := tset 0 (2 * (64 * w + i) + 1) 0 c.ctr }

/-! Patrol scrub (R597, R598). -/

/-- Whole lines of 72 raw bytes in the 1 GiB of a channel. -/
def scrubLines : Nat := 2 ^ 30 / 72
/-- Spare rows of a channel (R598). -/
def spareRows (c : Nat) : Nat := if c < 16 then 32767 else 32768
/-- The row of 2 KiB the p-th line begins in. -/
def rowOf (p : Nat) : Nat := p * 72 / 2048

/-- A failing row is copied to a spare row; with no spare left it stays in service (R598). -/
def Mod.remapRow (m : Mod) (c row : Nat) : Mod :=
  let used := tget 0 c m.cn.sparesUsed
  if spareRows c ≤ used then m.raise (evt 0x0E07 (Loc.channel c))
  else
    ((m.onCn fun b => { b with sparesUsed := tset 0 c (used + 1) b.sparesUsed, remapped := addOnce (c * 2 ^ 20 + row) b.remapped }).chCtr c 8 1).raise
      (evt 0x0E06 (Loc.channel c) c row)

/-- A line of the memory-side cache is poisoned (R409). -/
def Mod.cachePoisoned (m : Mod) (l : Nat) : Mod :=
  if (m.cline l).st = .i then m
  else (m.onLine l fun s => { s with poison := true }).raise (evt 0x0905 (Loc.ofDie (m.cacheDie l)) (lineDesc l) (l % 2 ^ 64))

/-- A log record in the ring is lost and counted (R591). -/
def Mod.recordLost (m : Mod) (seq : Nat) : Mod :=
  if m.ev.ring.any fun r => r.seq == seq then
    m.onEv fun b => { b with ring := b.ring.filter fun r => r.seq ≠ seq, lost := b.lost + 1 }
  else m

/-- What an uncorrectable line of GDDR6 costs (R591). -/
def Mod.scrubLoss (m : Mod) : ScrubFind → Mod
  | .cached l => m.cachePoisoned l
  | .ledger d => m.entryLost d false
  | .record s => m.recordLost s
  | .descriptor => m
  | .other => m
  | .clean => m
  | .corrected => m

/-- The pass is complete when every channel has read its last line: EV-0E08 (R597). -/
def Mod.scrubEnd (m : Mod) : Mod :=
  if (List.range 24).all fun c => tget 0 c m.cn.scrubPos == scrubLines then
    (m.onCn fun b => { b with scrubPos := [], rowFix := [], scrubPasses := (b.scrubPasses + 1) % 2 ^ 24 }).raise (evt 0x0E08)
  else m

/-- A line of channel c is found uncorrectable: the 65th within 1 s is the failure of the channel as a whole (R594). -/
def Mod.lineLost (m : Mod) (c : Nat) : Mod :=
  let l := m.now :: (tget [] c m.cn.lineLoss).filter fun t => m.now < t + sec
  let m1 := m.onCn fun b => { b with lineLoss := tset [] c l b.lineLoss }
  if 64 < l.length then m1.fatalDie (c / 12) 5 else m1

/-- The scrub of channel c reads its next line and deals with what it finds (R597, R598). -/
def Mod.scrubRead (m : Mod) (c : Nat) (f : ScrubFind) : Mod :=
  let p := tget 0 c m.cn.scrubPos
  let row := rowOf p
  let key := c * 2 ^ 20 + row
  let m1 := (m.onCn fun b => { b with scrubPos := tset 0 c (p + 1) b.scrubPos }).chCtr c 5 1
  let m2 := match f with
    | .clean => m1
    | .corrected =>
      let n := tget 0 key m1.cn.rowFix + 1
      let m2 := (m1.onCn fun b => { b with rowFix := tset 0 key n b.rowFix }).chCtr c 6 1
      if n = 4 then m2.remapRow c row else m2
    | f => (((m1.scrubLoss f).chCtr c 7 1).remapRow c row).lineLost c
  m2.scrubEnd

/-! Background walkers (R599). -/

def walkIndex : Walked → Nat
  | .cadastre _ _ => 0
  | .filter _ _ => 1
  | .plat => 2
  | .sram _ => 3

/-- Place of a walked array, and a key of its unit. -/
def walkLoc : Walked → Loc
  | .cadastre d s => Loc.ofUnit (.slice d s)
  | .filter d q => Loc.ofRegion d.val q.val
  | .plat => Loc.module
  | .sram _ => Loc.hub
def walkUnit : Walked → Nat
  | .cadastre d s => 64 * d.val + 32 + s.val
  | .filter d q => 256 + 4 * d.val + q.val
  | .plat => 264
  | .sram k => 272 + k.val

/-- A word is corrected: counted (R591, R593). -/
def Mod.walkCorrected (m : Mod) : Walked → Mod
  | .cadastre d s => m.corrected d.val (32 + s.val)
  | .filter d q => (m.dieCtr d.val (296 + 8 * q.val + 6) 1).raiseOnce (evt 0x0E03 (Loc.ofRegion d.val q.val)) (walkUnit (.filter d q))
  | .plat => m.raiseOnce (evt 0x0E03) (walkUnit .plat)
  | .sram k => (m.hubCtr (16 * k.val + 4) 1).raiseOnce (evt 0x0E03 Loc.hub) (walkUnit (.sram k))

/-- Host-role ports of the module. -/
def Mod.hostPorts (m : Mod) : List Nat := (List.range 48).filter fun p => m.role p = 1

/-- An uncorrectable word (R591): a directory entry is lost (R469); of a filter entry every host-role port is snooped for the line; a
descriptor is read again; hub SRAM of a Root region, 0 to 15, is a fatal hub error, elsewhere an exception follows its access. -/
def Mod.walkLost (m : Mod) (w : Walked) (place : Nat) (known : Bool) : Mod :=
  match w with
  | .cadastre d s => (m.uncorrected d.val (32 + s.val)).entryLost place known
  | .filter d q =>
    let m1 := (m.dieCtr d.val (296 + 8 * q.val + 7) 1).raise (evt 0x0E04 (Loc.ofRegion d.val q.val) 0 (place % 2 ^ 64))
    (m1.setFilt place { vec := m.hostPorts, x := true }).onLine place fun s => { s with pend := s.pend ++ [.filter] }
  | .plat => m.raise (evt 0x0E04)
  | .sram k =>
    let m1 := (m.hubCtr (16 * k.val + 5) 1).raise (evt 0x0E04 Loc.hub 0 place)
    if m.governing place < 16 then m1.fatalHub 1 else m1

/-! Acknowledgement (R602). -/

/-- Newest SEQ written, none before the first record. -/
def Mod.newestSeq (m : Mod) : Option Nat := (m.heldRecords.head?).map (·.seq)

/-- s may become the acknowledgement point: not behind it, not ahead of the newest SEQ (R602). -/
def Mod.ackOk (m : Mod) (s : Nat) : Bool :=
  match m.newestSeq with
  | none => decide (s = m.ev.ackPoint)
  | some n => decide (s = m.ev.ackPoint) || (decide (s ≠ 0) && decide (s < 2 ^ 32) && seqAhead m.ev.ackPoint s && !seqAhead n s)

end Sys2Proof.Machine
end

