-- ==== Sys2Proof/Machine/Counting.lean ====
section
/-! DEFINITION. The commands of the counters, the error scrub and the event log's message (R588 to R604, R629). -/
namespace Sys2Proof.Machine

/-- R588: a filtered counter with SAMPLE has overflowed; one of its next operations is recorded. -/
def execFilteredCounterOverflow (k : Fin 64) (o : Sampled) : State → Host.Outcome State Fault Refusal := lift fun m =>
  if k.val ∈ m.cn.arms then (m.sampleOut (m.opRecord k.val o)).onCn fun b => { b with arms := b.arms.erase k.val } else m

/-- R590: the running window ends at its boundary of meridian time. -/
def execBandwidthWindowEnd : State → Host.Outcome State Fault Refusal := lift fun m =>
  let w := m.objv 0xE04000
  let t := (m.meridian / w + 1) * w
  (m.advanceMeridian t).latchWindow t

/-- R593: a tick of the leak period, counted from BOOT. -/
def execLeakTick : State → Host.Outcome State Fault Refusal := lift fun m =>
  let p := m.objv 0xE02200 * 60 * sec
  let t := m.md.bootAt + ((m.now - m.md.bootAt) / p + 1) * p
  (m.advanceTo t).onCn fun b => { b with leak := b.leak.filterMap fun x => if x.1 ∈ b.leakStopped then some x else if x.2 ≤ 1 then none else some (x.1, x.2 - 1) }

/-- R597, R598: the scrub of a channel reads its next line. -/
def execScrubRead (c : Fin 24) (f : ScrubFind) : State → Host.Outcome State Fault Refusal := lift fun m =>
  if .vmem ∈ m.md.rails ∧ tget 0 c.val m.cn.scrubPos < scrubLines then (m.scrubRead c.val f).settle else m

/-- R599: a walker reads the next word of its array. -/
def execWalkerPassStep (w : Walked) (f : WalkFind) : State → Host.Outcome State Fault Refusal := lift fun m =>
  let m1 := m.onCn fun b => { b with walker := tset 0 (walkIndex w) (tget 0 (walkIndex w) b.walker + 1) b.walker }
  match f with
  | .clean => m1
  | .corrected => m1.walkCorrected w
  | .lost place known => (m1.walkLost w place known).settle

/-- R43, R583: a per-bank refresh command on a channel that is powered. -/
def execGddr6Refresh (c : Fin 24) : State → Host.Outcome State Fault Refusal := lift fun m =>
  if .vmem ∈ m.md.rails then m.chCtr c.val 3 1 else m

/-- R629: a case above 85 degrees halves its channel's refresh interval, below 83 degrees it returns to normal. -/
def execGddr6CaseTemp (c : Fin 24) (temp : Int) : State → Host.Outcome State Fault Refusal := lift fun m =>
  if 85000 < temp then m.onCn fun b => { b with hot := addOnce c.val b.hot }
  else if temp < 83000 then m.onCn fun b => { b with hot := without c.val b.hot }
  else m

/-- R604: the quiet time of the event message ends; one message is sent for what was recorded meanwhile. -/
def execMsiCoalesceEnd : State → Host.Outcome State Fault Refusal := lift fun m =>
  match m.ev.msiQuiet with
  | none => m
  | some t =>
    let m1 := (m.advanceTo t).onEv fun b => { b with msiQuiet := none, msiOwed := false }
    if m.ev.msiOwed then (m1.onFn_ 0 fun s => { s with pending := addOnce 0 s.pending }).msiRelease 0 else m1

end Sys2Proof.Machine
end

