-- ==== Sys2Proof/Machine/Sched.lean ====
section
/-! DEFINITION. The commands of the switch core and the schedulers: admission, dequeue, ageing, the tracker's timers, gates, sampling
(R325 to R384). -/
namespace Sys2Proof.Machine

/-- A failing check on die d (R357, R358, R591). CODE of the error answer to a request whose packet fails a check: the spec states none, so it is
open (free value 10). -/
def Mod.coreErr (m : Mod) (d : Nat) (err : CoreErr) : Mod :=
  let cut := fun (id : Nat) => (m.findQueued id).filter fun x => x.2.cut && !x.2.resend
  let free := Config.openValue 10 m.draws % 16
  match err with
  | .none => m
  | .field id =>
    let m1 := m.residue d 0 0x0701
    match cut id with
    | some (k, e) => m1.lateError k e false false
    | none =>
      let pkt := match m.sw.waiting.find? fun h => h.id = id with
        | some h => some h.pkt
        | none => (m.findQueued id).map (·.2.held.pkt)
      match pkt with
      | none => m1
      | some p => if isRequest p then ((m1.drawn).discardHeld id).1.errorAnswer d p free free else m1.poisonHeld id
  | .route id =>
    let m1 := m.residue d 1 0x0701
    match cut id with
    | some (k, e) => m1.lateError k e true false
    | none =>
      match m1.discardHeld id with
      | (m2, some h) => m2.dropPkt d h.pkt
      | (m2, none) => m2
  | .counter => m.residue d 2 0x0702
  | .counters => (m.residue d 2 0x0702).fatalDie d 3
  | .bucket port s => (m.residue d 3 0x0702).setTokens port s 0
  | .corrected u => m.corrected d u
  | .cell id =>
    let bank := match m.sw.waiting.find? fun h => h.id = id with
      | some h => h.banks.head?
      | none => (m.findQueued id).bind fun x => x.2.held.banks.head?
    let m1 := (match bank with
      | some b => m.uncorrected d b
      | none => m.dieObj d 0xB 1).raise (evt 0x0703 (Loc.ofDie d))
    match cut id with
    | some (k, e) => m1.lateError k e false false
    | none => m1.poisonHeld id
  | .link => (m.dieObj d 0xB 1).fatalDie d 2
  | .tracker k =>
    let m1 := m.uncorrected d (49 + k % 65536 / 16384)
    (m1.answerError k 0).releaseOrphan k
  | .retry p =>
    let m1 := (m.raise (evt 0x0E04 (Loc.port p))).dieObj (dieOfPort p) 0xB 1
    m1.fenceUnit (unitOfPort p) 3

/-- A packet reaches the module itself. A TC7 packet of a type that R314 does not list is discarded and counted; what the types RECORD to DELAY_RESP
carry comes with the commands of their receipt, so that their packet ends here (log entry 221). -/
def Mod.deliver (m : Mod) (h : Held) : Mod :=
  let type := fld h.pkt.body 56 8
  if h.pkt.tc = 7 ∧ (h.pkt.fmt ≠ 1 ∨ type = 0 ∨ 7 < type) then m.bump 0x600600 1
  else if h.pkt.tc = 7 ∧ type ≤ 5 then m
  else m.onSw fun s => { s with inbox := s.inbox ++ [{ id := h.id, port := h.port, pkt := h.pkt }] }

/-- R333: the i-th waiting packet is looked up and admitted, delivered to the module itself, or waits; a failing check comes first. -/
def execPacketAdmit (i : Nat) (err : CoreErr) : State → Host.Outcome State Fault Refusal := lift fun m =>
  if m.forwards = false then m
  else
    match m.sw.waiting[i]? with
    | none => m
    | some h0 =>
      Mod.settle <|
      let m0 := (m.coreErr h0.die err).pruneKept
      match m0.sw.waiting.find? fun x => x.id = h0.id with
      | none => m0
      | some h =>
        if m0.md.dieStopped.contains h.die then m0
        else if h.refs ≠ [] then
          if h.got < 4 * h.pkt.len ∨ m0.keptBack i h none = true then m0 else m0.admitMulti h
        else if m0.forSelf h then
          let h1 := hopped h
          if h.got < 4 * h.pkt.len ∨ m0.keptBack i h none = true then m0
          else (m0.takeOut h).deliver h1
        else
          match h.target with
          | some t => if m0.keptBack i h (some (queueToward h.die t h.pkt.tc)) then m0 else m0.enqueueAt h t
          | none =>
            let h1 := hopped h
            let limit := m0.objv 0x601100
            if m0.keptBack i h none then m0
            else if h.port.any (fun p => 48 ≤ p) && decide (limit < h1.pkt.hops) then
              ((m0.takeOut h).dropPkt h.die h1.pkt).raise (evt 0x0604 Loc.module h.pkt.dest)
            else
              match m0.route h.die h1.pkt with
              | none => (m0.takeOut h).dropPkt h.die h1.pkt
              | some n =>
                let m1 := (m0.lookedUp h1 (48 + n)).routed h.die h1.pkt n
                let h2 := { h1 with target := some (48 + n) }
                if m1.keptBack i h2 (some (queueToward h.die (48 + n) h.pkt.tc)) then m1 else m1.enqueueAt h2 (48 + n)

/-- R340: no further byte of the packet a port sends by cut-through has arrived for the underrun limit. -/
def execUnderrunTimeout (p : PortIx) : State → Host.Outcome State Fault Refusal := lift fun m =>
  let hit := (List.range 8).findSome? fun c =>
    ((m.queue (qKey p c)).find? fun e => e.cut && !e.resend && decide (e.held.got < 4 * e.held.pkt.len)).map fun e => (qKey p c, e)
  match hit with
  | some (k, e) => (m.advance (m.objv 0x703200)).lateError k e false true
  | none => m

/-- Heads of a class at a port as R344 sees them: of the class queue, or of the lists of its tenant queues (R365). -/
def Mod.agedHead (m : Mod) (p : Nat) (c : Nat) (t : Tenant) (b : Bool) : Option QEnt :=
  if c ∈ reqClasses then (m.queue (qKey p c)).find? fun e => decide (e.classB = b) && decide (e.held.tenant = t.val)
  else (m.queue (qKey p c)).head?

/-- Heads of the classes of a port that age: of a class queue, or of each list of a tenant queue (R344, R365). -/
def Mod.ageHeads (m : Mod) (p : Nat) : List (Nat × QEnt) :=
  ([6, 7].filterMap fun c => (m.queue (qKey p c)).head?.map fun e => (c, e)) ++
    [false, true].flatMap fun b => (m.activeTenants p b).flatMap fun t => (m.listHeads p b t).filter fun x => decide (x.1 ≠ 0)

/-- The age of an entry exceeds the limit of its class c, which has one (R344). -/
def Mod.overAge (m : Mod) (p c : Nat) (e : QEnt) : Bool :=
  decide (3 ≤ c) && decide (m.objv (mkOid 7 (0x20 + c) 2) * 1000 < tget 0 (qKey p c) m.sw.age - e.stamp)

/-- An entry of port p ages out: discarded, counted, EV-0705 at most once per queue per second; a request is answered (R344). -/
def Mod.ageOut (m : Mod) (p c : Nat) (e : QEnt) : Mod :=
  let k := qKey p c
  let m1 := ((((m.unqueue k e).portObj p 6 1).bump (mkOid 7 (0x20 + c) 4) 1).portCtr p 7 1).raiseOnce (evt 0x0705 (Loc.port p) c) k
  if 3 ≤ c ∧ c ≤ 5 then m1.errorAnswer (dieOfPort p) e.held.pkt 0 3 else m1

/-- Entries that have reached the head since `old` are checked when they reach it, and so are those behind them (R344). -/
def Mod.ageNew (m : Mod) (p : Nat) (old : List (Nat × Nat)) : Nat → Mod
  | 0 => m
  | n + 1 =>
    match (m.ageHeads p).find? fun x => !(old.contains (x.2.held.id, x.2.held.pkt.dest)) && !x.2.cut && m.overAge p x.1 x.2 with
    | some x => (m.ageOut p x.1 x.2).ageNew p old n
    | none => m

/-- What an action on port p leaves at the heads is checked for its age (R344). -/
def Mod.withAges (m : Mod) (p : Nat) (f : Mod → Mod) : Mod :=
  let m1 := f m
  m1.ageNew p ((m.ageHeads p).map fun x => (x.2.held.id, x.2.held.pkt.dest)) ((List.range 8).map fun c => (m1.queue (qKey p c)).length).sum

/-- R344: 1 µs passes and the head of a class (of a tenant's list in data class B when `b`) is checked against the ageing limit. -/
def execAgeCheck (p : PortIx) (c : Tc) (t : Tenant) (b : Bool) : State → Host.Outcome State Fault Refusal := lift fun m0 =>
  let m := m0.advance 1000
  match m.agedHead p c t b with
  | none => m
  | some e => if m.overAge p c e then (m.withAges p fun m => m.ageOut p c e).settle else m

/-- R363: one dequeue decision; `credits` names the classes that hold link credits on an edge port (bit c for TCc). -/
def execDequeueDecision (e : Egress) (credits : Nat) (err : CoreErr) : State → Host.Outcome State Fault Refusal := lift fun m =>
  if m.forwards = false then m
  else
    let d := match e with
      | .port p => dieOfPort p
      | .bridge d => d.val
    let m0 := m.coreErr d err
    if m0.forwards = false ∨ m0.md.dieStopped.contains d = true then m0.settle
    else
      (match e with
        | .port p => m0.withAges p fun m => m.dequeuePort p credits
        | .bridge d => m0.dequeueBridge d).settle

/-- R348: a response with a transaction ID meets the tracker: CODE 0, or an error of R500. -/
def execTrackerResponse (tid code : Nat) (poison : Bool) (words : List Nat) : State → Host.Outcome State Fault Refusal := lift fun m =>
  (m.trkAnswer (tid % 2 ^ 24) code poison words).settle

/-- R349: the completion timer of tracker entry k expires. -/
def execCompletionTimeout (k : Fin 131072) : State → Host.Outcome State Fault Refusal := lift fun m =>
  match (m.trk k).deadline with
  | some t => if (m.trk k).kind = 0 ∨ (m.trk k).orphan = true then m else ((m.advanceTo t).trkExpire k).settle
  | none => m

/-- R352: an orphan has been held for the orphan hold time. -/
def execOrphanHoldTimeout (k : Fin 131072) : State → Host.Outcome State Fault Refusal := lift fun m =>
  let t := m.trk k
  if t.kind = 0 ∨ t.orphan = false then m
  else
    let m1 := m.advanceTo (t.orphanAt + m.objv 0x703100 * sec)
    (m1.releaseOrphan k).raise (evt 0x0709 (Loc.ofDie (k.val / 65536)) (m.tid k) t.addr)

/-- R355: a bridge transfer of die d fails its CRC and is replayed; `words` says a word of it stays uncorrectable after replay, in the
packet that heads class c; `last` that this replay succeeds. -/
def execBridgeCrcFail (d : Die) (c : Tc) (words last : Bool) : State → Host.Outcome State Fault Refusal := lift fun m =>
  let n := tget 0 d.val m.sw.bridgeReplays + 1
  let m1 := (m.dieCtr d 346 1).onSw fun s => { s with bridgeReplays := tset 0 d.val (if last then 0 else n) s.bridgeReplays }
  let m2 := if words then
      let k := bridgeKey d c
      ((match m1.queue k with
        | e :: _ => m1.poisonHeld e.held.id
        | [] => m1).dieCtr d 348 1).raise (evt 0x070B (Loc.ofDie d))
    else m1
  if last = false ∧ 3 ≤ n then (m2.fatalDie d 4).settle else m2

/-- R374: the running gate list of port p moves to its next entry. -/
def execGateEntryChange (p : PortIx) : State → Host.Outcome State Fault Refusal := lift fun m =>
  match m.gatePos p with
  | some (e, pos) => m.advance (((m.gateList p).getD e (0, 0)).2 - pos)
  | none => m

/-- A gate list takes over at meridian time T (R375, R377); `step` when meridian time stepped past T. -/
def Mod.gateTakeover (m : Mod) (p T : Nat) (step : Bool) : Mod :=
  let m1 := (m.setObj (gateObj p 4) T).onSched p fun s => { s with gateRun := true, gateGen := (s.gateGen + 1) % 256 }
  let m2 := m1.raise (evt 0x0801 (Loc.port p))
  if step then m2.raise (evt 0x0802 (Loc.port p)) else m2

/-- R381: a read of a high-water element: a class queue's, or a tenant queue's in data class b; the current head's delay counts. -/
def execHighWaterRead (p : PortIx) (tq : Bool) (q : Fin 256) (b : Bool) : State → Host.Outcome State Fault Refusal := lift fun m =>
  let oid := if tq then tqHw p b q else cqHw p (q.val % 8)
  let at_ := if tq then ((m.offered p b q).map (·.2.tqAt)).getD 0 else ((m.queue (qKey p (q.val % 8))).head?.map (·.headAt)).getD 0
  let m1 := m.highWater oid 0 (m.delayOf at_)
  (m1.emit (.value .mgmtPf (m1.objv oid))).setObj oid 0

/-! The sampler (R378 to R380). -/

/-- The queues the sampler of die d visits, in turn: port, tenant queue, data class, queue. -/
def Mod.sampled (m : Mod) (d : Nat) : List (Nat × Bool × Bool × Nat) :=
  let ctl := m.objv (mkOid 8 (0x900 + d) 1)
  let mask := m.objv (mkOid 8 (0x900 + d) 2)
  ((List.range 64).filter fun p => decide (dieOfPort p = d) && bit mask p).flatMap fun p =>
    (if bit ctl 30 then (List.range 8).map fun c => (p, false, false, c) else []) ++
    (if bit ctl 29 then (List.range 256).map fun t => (p, true, false, t) else []) ++
    (if bit ctl 28 then (List.range 256).map fun t => (p, true, true, t) else [])

/-- The sample record of a queue now (R379). -/
def Mod.sampleRecord (m : Mod) (x : Nat × Bool × Bool × Nat) (lost : Bool) : Nat :=
  let (p, tq, b, q) := x
  let head := if tq then m.offered p b q else ((m.queue (qKey p q)).head?).map fun e => (q, e)
  let depth := if tq then m.tqCells p b q else m.qLen (qKey p q)
  let c := match head with
    | some h => h.1
    | none => if tq then 0 else q
  let delay := match head with
    | some h => min (2 ^ 32 - 1) (m.delayOf (if tq then h.2.tqAt else h.2.headAt))
    | none => 0
  let shaped := match head with
    | some h => reqClasses.contains h.1 && !m.shaped p h.2.classB h.2.held
    | none => tq && !(m.conforms p q && m.conforms p (if b then 257 else 256))
  pack [(m.meridian, 80, 48), (p, 74, 6), (b2n tq, 73, 1), (b2n (tq && b), 72, 1), (q, 64, 8), (depth, 40, 24),
    (b2n !(bit (m.gateMask p) c), 39, 1), (b2n shaped, 38, 1), (b2n !(m.carries (qKey p c)), 37, 1), (b2n lost, 36, 1), (delay, 0, 32)]

/-- R378: the sampler of die d visits its next queue, one visit period after the last; a new pass starts no sooner than 1 µs after the
previous one's start. -/
def execSamplerVisit (d : Die) : State → Host.Outcome State Fault Refusal := lift fun m0 =>
  let obj := fun (el : Nat) => mkOid 8 (0x900 + d.val) el
  if bit (m0.objv (obj 1)) 31 = false then m0
  else
    let st := tget {} d.val m0.sc.samplers
    let l := m0.sampled d
    let restart := decide (l.length ≤ st.pos)
    let m1 := m0.advance (m0.objv (obj 8))
    let m := if restart then m1.advanceTo (st.passStart + 1000) else m1
    let pos := if restart then 0 else st.pos
    let start := if restart ∨ st.pos = 0 then m.now else st.passStart
    match l[pos]? with
    | none => m
    | some x =>
      let (p, tq, b, q) := x
      let empty := if tq then decide (m.tqCells p b q = 0) else (m.queue (qKey p q)).isEmpty
      let next := fun (m : Mod) (lost : Bool) =>
        m.onSc fun s => { s with samplers := tset {} d.val { pos := pos + 1, passStart := start, lost := lost } s.samplers }
      if bit (m.objv (obj 1)) 27 = true ∧ empty = true then next m st.lost
      else
        let size := m.objv (obj 4) / 16
        let prod := m.objv (obj 5)
        if size ≤ (prod + 2 ^ 32 - m.objv (obj 6)) % 2 ^ 32 then
          next ((m.bump (obj 7) 1).raiseOnce (evt 0x0803 (Loc.ofDie d)) d.val) true
        else
          let bytes := leBytes 16 (m.sampleRecord x st.lost)
          let m2 := m.onSv fun s => { s with service := s.service.put (m.objv (obj 3) + 16 * (prod % size)) bytes }
          next (m2.setObj (obj 5) ((prod + 1) % 2 ^ 32)) false

end Sys2Proof.Machine
end

