-- ==== Sys2Proof/Machine/MailOps.lean ====
section
/-! DEFINITION. Operations of the mailboxes: who may call, doorbells and their signals, queues (R532 to R536). An agent is the index of its own
mailbox. -/
namespace Sys2Proof.Machine

/-- A mailbox has an owner: an assigned slot, the management PF, the BMC (R532). -/
def Mod.boxOwned (m : Mod) (k : Nat) : Bool := if k < 256 then m.slotUsed k else decide (k < 258)

/-- Agent c may call mailbox k (R533); in FAULT the ROM monitor serves MM0 and MM1 only (R536). -/
def Mod.callable (m : Mod) (c k : Nat) : Bool :=
  m.boxOwned k && (decide (m.md.mode ≠ .fault) || (decide (256 ≤ k) && decide (256 ≤ c))) &&
  (if c < 256 then m.slotUsed c && (decide (k = 256) || (decide (k < 256) && decide (k ≠ c) && decide (m.vfTenant k = m.vfTenant c)))
   else if c = 256 then true
   else decide (c = 257) && decide (k = 256))

/-- Doorbell bits of a mailbox that are not masked. -/
def Mailbox.rings (s : Mailbox) : Nat := s.db - (s.db &&& s.mask)

/-- The owner of a mailbox is signalled (R535); MM1 by a NOTIFY to the subscribers of B.700.03, which its change brings about. -/
def Mod.signalBox (m : Mod) (k : Nat) : Mod :=
  if k < 256 then m.msi (vfFn k) ((m.fnSt (vfFn k)).ctrl % 256) else if k = 256 then m.msi 0 1 else m

/-- Change doorbells or mask; the owner is signalled when the unmasked bits change from 0 (R535). -/
def Mod.changeBox (m : Mod) (k : Nat) (f : Mailbox → Mailbox) : Mod :=
  let m1 := m.onBox k f
  if (m.box k).rings = 0 ∧ (m1.box k).rings ≠ 0 then m1.signalBox k else m1

/-- Set doorbell bits of a mailbox. -/
def Mod.ring (m : Mod) (k bits : Nat) : Mod := m.changeBox k fun s => { s with db := s.db ||| bits % 2 ^ 32 }

/-- The mailbox an agent has selected (R516). -/
def Mod.selected (m : Mod) (c : Nat) : Nat := (m.callSide c).sel

/-- The agent holds the lock of its selected target. -/
def Mod.holds (m : Mod) (c : Nat) : Bool := decide ((m.box (m.selected c)).holder = c + 1)

/-- An agent is served: a VF that its host PF presents, the management PF while MRDY is high, the BMC while the dictionary is served (R52, R99,
R513). -/
def Mod.agent (m : Mod) (c : Nat) : Bool := if c < 256 then m.vfShown c && m.md.serving else if c = 256 then m.md.mrdy else decide (c = 257) && m.md.serving

/-- OWN_STATUS (R535). -/
def Mod.ownStatus (m : Mod) (k : Nat) : Nat :=
  let s := m.box k
  pack [(b2n s.ovf, 30, 1), (b2n s.empty, 29, 1), (s.holder, 16, 9), (s.inq.length, 5, 5), (s.outq.length, 0, 5)]

/-- CALL_STATUS (R535). -/
def Mod.callStatus (m : Mod) (c : Nat) : Nat :=
  let s := m.callSide c
  let t := m.box s.sel
  pack [(b2n (m.holds c), 31, 1), (b2n s.notHeld, 30, 1), (b2n s.ovf, 29, 1), (b2n s.empty, 28, 1), (b2n (!m.callable c s.sel), 27, 1),
        (b2n s.reset, 26, 1), (t.inq.length, 5, 5), (t.outq.length, 0, 5)]

/-! The registers of the own side and the call side: the state after an access, and the value read. -/

def Mod.ownInPop (m : Mod) (k : Nat) : Mod × Nat :=
  match (m.box k).inq with
  | [] => (m.onBox k fun s => { s with empty := true }, 0)
  | w :: t => (m.onBox k fun s => { s with inq := t }, w)

/-- A word for the holder of the own lock; with none, or onto a full queue, it is discarded (R535, R537). -/
def Mod.ownOutPush (m : Mod) (k w : Nat) : Mod :=
  m.onBox k fun s => if s.holder = 0 ∨ 16 ≤ s.outq.length then { s with ovf := true } else { s with outq := s.outq ++ [w % 2 ^ 32] }

/-- A write of OWN_STATUS: REPLY rings bit 31 of the holder, OVF and EMPTY clear (R535). -/
def Mod.ownStatusWrite (m : Mod) (k v : Nat) : Mod :=
  let h := (m.box k).holder
  let m1 := m.onBox k fun s => { s with ovf := s.ovf && !bit v 30, empty := s.empty && !bit v 29 }
  if bit v 31 = true ∧ h ≠ 0 then m1.ring (h - 1) (2 ^ 31) else m1

/-- Bits of a doorbell cleared by writing 1. -/
def Mod.ownDbClear (m : Mod) (k v : Nat) : Mod := m.onBox k fun s => { s with db := s.db - (s.db &&& v % 2 ^ 32) }

def Mod.ownMaskWrite (m : Mod) (k v : Nat) : Mod := m.changeBox k fun s => { s with mask := v % 2 ^ 32 }

/-- A read of CALL_LOCK (R534). -/
def Mod.callLockRead (m : Mod) (c : Nat) : Mod × Nat :=
  let k := m.selected c
  let h := (m.box k).holder
  if m.callable c k = false then (m, 0xFFFF)
  else if h = 0 then (m.onBox k fun s => { s with holder := c + 1, since := m.now }, 0)
  else if h = c + 1 then (m, 0)
  else (m, h)

/-- A write of CALL_LOCK (R534). -/
def Mod.callLockWrite (m : Mod) (c v : Nat) : Mod := if v % 2 ^ 32 = 0 ∧ m.holds c = true then m.releaseLock (m.selected c) else m

def Mod.callInPush (m : Mod) (c w : Nat) : Mod :=
  let k := m.selected c
  if m.holds c = false then m.onCall c fun s => { s with notHeld := true }
  else if 16 ≤ (m.box k).inq.length then m.onCall c fun s => { s with ovf := true }
  else m.onBox k fun s => { s with inq := s.inq ++ [w % 2 ^ 32] }

def Mod.callOutPop (m : Mod) (c : Nat) : Mod × Nat :=
  let k := m.selected c
  if m.holds c = false then (m.onCall c fun s => { s with notHeld := true }, 0)
  else match (m.box k).outq with
    | [] => (m.onCall c fun s => { s with empty := true }, 0)
    | w :: t => (m.onBox k fun s => { s with outq := t }, w)

/-- A write of CALL_DB: bits 30 to 0, by any caller that may call (R535). -/
def Mod.callDbWrite (m : Mod) (c v : Nat) : Mod :=
  if m.callable c (m.selected c) then m.ring (m.selected c) (v % 2 ^ 31) else m

/-- A read of CALL_STATUS clears its read-clear bits (R535). -/
def Mod.callStatusRead (m : Mod) (c : Nat) : Mod × Nat :=
  (m.onCall c fun s => { s with notHeld := false, ovf := false, empty := false, reset := false }, m.callStatus c)

/-- A register read of agent c: the value it returns leaves the module; all ones from BAR2 while MRDY is low (R100). -/
def Mod.regRead (m : Mod) (c : Nat) (x : Mod × Nat) : Mod :=
  if m.agent c then x.1.emit (.reg c x.2) else if c = 256 then m.emit (.reg 256 (2 ^ 32 - 1)) else m

end Sys2Proof.Machine
end

