-- ==== Sys2Proof/Machine/MoverOps.lean ====
section
/-! DEFINITION. Operations of the data mover: which queue pair is served, the checks of a descriptor, its accesses and their results, one move
of each operation, quiescing (R517 to R531, R542). -/
namespace Sys2Proof.Machine

/-! Descriptors (R520). -/

def Desc.word (d : Desc) (i : Nat) : Nat := d.words.getD i 0 % 2 ^ 64
def Desc.op (d : Desc) : Nat := fld (d.word 0) 56 8
def Desc.irq (d : Desc) : Bool := bit (d.word 0) 55
def Desc.sas (d : Desc) : Nat := fld (d.word 0) 51 3
def Desc.das (d : Desc) : Nat := fld (d.word 0) 48 3
def Desc.ident (d : Desc) : Nat := fld (d.word 0) 0 32
def Desc.len (d : Desc) : Nat := fld (d.word 1) 0 32
def Desc.src (d : Desc) : Nat := d.word 2
def Desc.dst (d : Desc) : Nat := d.word 3

def usesSrc (op : Nat) : Bool := decide (op = 1) || decide (4 ≤ op ∧ op ≤ 7)
def usesDst (op : Nat) : Bool := decide (1 ≤ op ∧ op ≤ 4) || decide (7 ≤ op ∧ op ≤ 9)
def isAtomic (op : Nat) : Bool := decide (op = 8) || decide (op = 9)

/-- Bytes of SRC, and of DST, that a descriptor touches; whether it writes DST. -/
def Desc.dstLen (d : Desc) : Nat := if d.op = 7 then 64 else d.len
def Desc.writesDst (d : Desc) : Bool := decide (d.op ≠ 4)

/-- OP, address space or LENGTH makes the descriptor invalid (R520, R521). -/
def Desc.invalid (d : Desc) : Bool :=
  !decide (1 ≤ d.op ∧ d.op ≤ 12) || (usesSrc d.op && decide (2 < d.sas)) || (usesDst d.op && decide (2 < d.das)) ||
  (decide (d.op ≤ 9) && (decide (d.len = 0) || decide (2 ^ 30 < d.len)))

/-- STATUS of an access's error: its CODE, 256 its own timer, 257 denied, 258 its size (R523). -/
def errStatusOf (err : Nat) : Nat := if err = 256 then 6 else if err = 257 then 4 else if err = 258 then 3 else 5

/-- The operation ends with a status; the first one stands, and a write that fails replaces a success. -/
def Desc.fail (d : Desc) (status code : Nat) (place : Option Nat) : Desc :=
  if d.ran ∧ 2 ≤ d.status then d
  else { d with ran := true, want := none, status := status, code := if status = 5 then code else 0, place := place }

/-- A write of the descriptor is complete, or complete with error. -/
def Desc.absorb (d : Desc) (id err : Nat) : Desc :=
  match d.writes.find? fun w => w.1 = id with
  | none => d
  | some w =>
    let d1 := { d with writes := d.writes.filter fun x => x.1 ≠ id }
    if err = 0 then d1 else d1.fail (errStatusOf err) err (some w.2)

def Mod.desc (m : Mod) (q num : Nat) : Option Desc := (m.qp q).started.find? fun d => d.num = num
def Mod.onDesc (m : Mod) (q num : Nat) (f : Desc → Desc) : Mod :=
  m.onQp q fun s => { s with started := s.started.map fun d => if d.num = num then f d else d }

/-- Results that have come for writes of a queue pair reach their descriptors; abandoned descriptors without writes are gone. -/
def Mod.absorbed (m : Mod) (q : Nat) : Mod :=
  let mine := m.ca.results.filter fun x => x.1 = q
  let wanted := (m.qp q).started.filterMap fun d => d.want.map (·.id)
  let m1 := m.onCa fun b => { b with results := b.results.filter fun x => decide (x.1 ≠ q) || wanted.contains x.2.1 }
  m1.onQp q fun s =>
    let ds := s.started.map fun d => mine.foldl (fun d x => if wanted.contains x.2.1 then d else d.absorb x.2.1 x.2.2.2.2) d
    { s with started := ds.filter fun d => !(d.silent && d.writes.isEmpty) }

/-! Checks before the first byte (R542). -/

/-- Every byte from a DPA on lies in active extents of the VCS, with WR where the descriptor writes; n bounds the extents crossed. -/
def Mod.extentsCover (m : Mod) (v : Nat) (write : Bool) : Nat → Nat → Nat → Bool
  | 0, _, _ => false
  | n + 1, a, len =>
    match m.extentAt v a with
    | none => false
    | some (e, x, off) =>
      let room := 2 ^ ((m.extAux e).size.getD 0) * 2 ^ 28 - off
      decide (extState x = 3) && (!write || bit x 3) && (decide (len ≤ room) || m.extentsCover v write n (a + room) (len - room))

/-- The bytes may be touched: space 0 always, 1 by extents, 2 within one window of a bound device. -/
def Mod.spaceOk (m : Mod) (v space a len : Nat) (write : Bool) : Bool :=
  if space = 0 then true
  else if space = 1 then m.extentsCover v write (m.exts.length + 1) a len
  else match m.window v a, m.window v (a + len - 1) with
    | some (n, b, _), some (n2, b2, _) => decide (n = n2) && decide (b = b2) && (m.boundPort v n).isSome
    | _, _ => false

/-- The bytes lie in a window of type Device. -/
def Mod.deviceWindow (m : Mod) (v space a : Nat) : Bool :=
  decide (space = 2) && (match m.window v a with
    | some (n, b, pf) => !m.windowNormal v n b pf
    | none => false)

/-- A size the target refuses (R491): an atomic of other than 4, 8 or 16 bytes; other than 1, 2, 4 or 8 aligned bytes of a Device window. -/
def Mod.sizeRefused (m : Mod) (v : Nat) (d : Desc) : Bool :=
  (isAtomic d.op && !(decide (d.len = 4) || decide (d.len = 8) || decide (d.len = 16))) ||
  (usesSrc d.op && m.deviceWindow v d.sas d.src && !natural d.src d.len) ||
  (usesDst d.op && !isAtomic d.op && m.deviceWindow v d.das d.dst && !natural d.dst d.dstLen)
where
  natural (a n : Nat) : Bool := (decide (n = 1) || decide (n = 2) || decide (n = 4) || decide (n = 8)) && decide (a % n = 0)

/-- A descriptor of queue pair q starts: its checks end it at once, or it runs (R520, R521, R542). -/
def Mod.checked (m : Mod) (q : Nat) (d : Desc) : Mod × Desc :=
  let v := m.vfVcs (m.qpSlot q)
  let p := m.qpPort q
  let bad := fun (space a len : Nat) (write : Bool) => decide (0 < len) && !m.spaceOk v space a len write
  if d.invalid then (m, d.fail 2 0 none)
  else if m.sizeRefused v d then
    (((m.bump (mkOid 7 (0x400 + p) 0xA) 1).raiseOnce (evt 0x0713 (Loc.port p) 0 d.dst) p), d.fail 3 0 none)
  else if usesSrc d.op && bad d.sas d.src d.len false then (m.deny 3 p (m.vfTenant (m.qpSlot q)) d.src, d.fail 4 0 (some d.src))
  else if usesDst d.op && bad d.das d.dst d.dstLen d.writesDst then (m.deny 3 p (m.vfTenant (m.qpSlot q)) d.dst, d.fail 4 0 (some d.dst))
  else (m, d)

/-! Accesses. -/

def accessKind (io : Io) (device : Bool) : Ak :=
  match io with
  | .atomic => .atomic
  | .write => if device then .deviceWrite else .normalWrite
  | _ => if device then .deviceRead else .normalRead

/-- An access of a queue pair to pooled memory, at a line of a parcel, by its type and policy (R412, R421, R502). -/
def Mod.moverMem (m : Mod) (r : IoReq) (home desc : Nat) : Mod :=
  let line := lineKey home desc r.addr
  let attr := m.lineAttr line
  let uc := decide (attr.1 = 2)
  let r1 := { r with tgt := .parcel home desc, kind := accessKind r.io attr.2.1 }
  if attr.2.1 || (uc && (decide (r.io ≠ .read) || decide ((m.cline line).st = .i))) then m.accept r1
  else
    let kind := if r.io = .read then AccKind.read else .write
    let r2 := { r1 with mem := some (memCode kind, 0) }
    if kind = .write ∧ m.mayCarry r2 m.br.held = false then m.hold r2 else m.cacheAccess r2 kind line

/-- Issue an access of a descriptor: to the host, to pooled memory, to a window (R520). -/
def Mod.moverAccess (m : Mod) (q id space : Nat) (io : Io) (addr len data : Nat) (poison : Bool) (alu : Option (Nat × Nat × Nat)) : Mod :=
  let n := m.qpSlot q
  let v := m.vfVcs n
  let kindByte := match io with
    | .write => 0x60
    | .atomic => 0x6C + (alu.getD (0, 0, 0)).1
    | _ => 0x20
  let r : IoReq := { id := id, stream := qpStream q, maker := .mover q id, tenant := m.vfTenant n, kind := accessKind io false, io := io,
                     tgt := .port m.rt.id (m.qpPort q), addr := addr, len := len, data := data, mask := 2 ^ len - 1, hdr := withKind 0 kindByte,
                     poison := poison, vcs := v, alu := alu }
  if space = 0 then m.accept r
  else if space = 1 then
    match m.extentAt v addr with
    | none => m.moverResult q id 0 true 8
    | some (e, x, off) => m.moverMem { r with addr := off } (m.extParcel e x).1 (m.extParcel e x).2
  else
    match m.window v addr with
    | none => m.moverResult q id 0 true 257
    | some (k, bar, pf) =>
      match m.boundPort v k with
      | none => m.moverResult q id 0 true 4
      | some (sw, p) =>
        let device := !m.windowNormal v k bar pf
        let r1 := { r with tgt := .port sw p, vppb := k, kind := accessKind io device, mask := if io = .read then 0 else r.mask }
        if badSize r1 device then m.moverResult q id 0 true 258 else m.accept r1

/-- Bytes from an address to the next boundary an access may not cross: 64-byte lines; 8-byte pieces of a Device parcel; none in a Device
window (R490). -/
def Mod.spanAt (m : Mod) (v space a : Nat) : Nat :=
  if space = 1 then
    match m.extentAt v a with
    | some (e, x, off) => if (m.lineAttr (lineKey (m.extParcel e x).1 (m.extParcel e x).2 off)).2.1 then 8 - off % 8 else 64 - off % 64
    | none => 64 - a % 64
  else if m.deviceWindow v space a then 8 else 64 - a % 64

/-- Read up to n bytes at an address for a descriptor. -/
def Mod.moverRead (m : Mod) (q num space a n : Nat) : Mod :=
  let k := min n (m.spanAt (m.vfVcs (m.qpSlot q)) space a)
  let (m1, id) := m.newAccess
  (m1.onDesc q num fun d => { d with want := some { id := id, addr := a, len := k, line := decide (space = 1) } }).moverAccess q id space .read a k 0 false
    none

/-- Write bytes at an address for a descriptor, cut at the boundaries; n bounds the pieces. -/
def Mod.moverWrite (m : Mod) (q num space : Nat) (poison : Bool) : Nat → Nat → List Nat → Mod
  | 0, _, _ => m
  | n + 1, a, bytes =>
    match bytes with
    | [] => m
    | _ =>
      let k := min bytes.length (m.spanAt (m.vfVcs (m.qpSlot q)) space a)
      let (m1, id) := m.newAccess
      let m2 := (m1.onDesc q num fun d => { d with writes := d.writes ++ [(id, a)] }).moverAccess q id space .write a k (ofBytesLE (bytes.take k))
        poison none
      m2.moverWrite q num space poison n (a + k) (bytes.drop k)

/-- The bytes a read returned: of its line, or of the words of its completion, the lowest address first. -/
def Want.bytes (w : Want) (data : Nat) : List Nat :=
  let total := 32 * cdiv w.len 32
  (List.range w.len).map fun i => if w.line then lineByte data (w.addr % 64 + i) else data / 256 ^ (total - 1 - i) % 256

/-! One move of each operation (R521, R524). -/

/-- Bytes of the present piece: to the end of SRC's 64-byte block; all of them where a Device window takes part. -/
def Mod.chunk (m : Mod) (q : Nat) (d : Desc) : Nat :=
  let v := m.vfVcs (m.qpSlot q)
  let a := if usesSrc d.op then d.src else d.dst
  let left := d.len - d.pos
  if m.deviceWindow v d.sas d.src || (usesDst d.op && m.deviceWindow v d.das d.dst) then left else min left (64 - (a + d.pos) % 64)

/-- At most 64 writes of a descriptor are outstanding. -/
def Desc.room (d : Desc) : Bool := decide (d.writes.length ≤ 64)

/-- The descriptor has done its operation. -/
def Desc.finish (d : Desc) (r2 r3 : Nat) : Desc := { d with ran := true, bytes := d.len, r2 := r2 % 2 ^ 64, r3 := r3 % 2 ^ 64 }

/-- The address of the running chunk's next byte not yet read. -/
def Mod.readMore (m : Mod) (q : Nat) (d : Desc) (goal : Nat) : Mod :=
  m.moverRead q d.num d.sas (d.src + d.pos + d.buf.length) (goal - d.buf.length)

/-- Write the chunk at DST and go on; the descriptor ends with its last one. -/
def Mod.writeChunk (m : Mod) (q : Nat) (d : Desc) (bytes : List Nat) : Mod :=
  let next := d.pos + bytes.length
  (m.moverWrite q d.num d.das d.bad (bytes.length + 1) (d.dst + d.pos) bytes).onDesc q d.num fun d =>
    let d1 := { d with pos := next, buf := [], bad := false }
    if d1.ran then d1 else if next < d.len then d1 else { d1.finish 0 0 with status := if d.place.isSome then 7 else 0 }

def Mod.copyMove (m : Mod) (q : Nat) (d : Desc) : Option Mod :=
  let goal := m.chunk q d
  if d.buf.length < goal then some (m.readMore q d goal)
  else if d.room then some (m.writeChunk q d d.buf) else none

/-- FILL with its pattern; ZERO is its pattern 0. -/
def Mod.fillMove (m : Mod) (q : Nat) (d : Desc) (pattern : Nat) : Option Mod :=
  if d.room then some (m.writeChunk q d ((List.range (m.chunk q d)).map fun i => pattern / 256 ^ ((d.pos + i) % 8) % 256)) else none

/-- First position at which two byte lists differ. -/
def firstDiff : List Nat → List Nat → Nat → Option Nat
  | a :: s, b :: t, n => if a = b then firstDiff s t (n + 1) else some n
  | _, _, _ => none

def Mod.compareMove (m : Mod) (q : Nat) (d : Desc) : Option Mod :=
  let goal := m.chunk q d
  if d.buf.length < goal then some (m.readMore q d goal)
  else if d.msg.length < goal then
    some ((m.onDesc q d.num fun d => { d with stage := 1 }).moverRead q d.num d.das (d.dst + d.pos + d.msg.length) (goal - d.msg.length))
  else
    some (m.onDesc q d.num fun d =>
      match firstDiff d.buf d.msg 0 with
      | some i => { d.finish (d.pos + i) 0 with status := 1, bytes := d.pos + i + 1 }
      | none =>
        let d1 := { d with pos := d.pos + goal, stage := 0, buf := [], msg := [] }
        if d1.pos < d.len then d1 else d1.finish (2 ^ 64 - 1) (2 ^ 64 - 1))

/-- CRC32C and CRC64 from their initial values. -/
def Mod.crcMove (m : Mod) (q : Nat) (d : Desc) : Option Mod :=
  let goal := m.chunk q d
  if d.buf.length < goal then some (m.readMore q d goal)
  else
    some (m.onDesc q d.num fun d =>
      let c0 := if d.pos = 0 then (if d.op = 5 then d.word 4 % 2 ^ 32 else d.word 4) else d.acc
      let c := if d.op = 5 then crcBytes 0x82F63B78 c0 d.buf else crc64Bytes c0 d.buf
      let d1 := { d with pos := d.pos + goal, buf := [], acc := c }
      if d1.pos < d.len then d1 else d1.finish (if d.op = 5 then c ^^^ (2 ^ 32 - 1) else c ^^^ (2 ^ 64 - 1)) 0)

def Mod.shakeMove (m : Mod) (q : Nat) (d : Desc) : Option Mod :=
  let goal := m.chunk q d
  if d.pos < d.len then
    if d.buf.length < goal then some (m.readMore q d goal)
    else some (m.onDesc q d.num fun d => { d with pos := d.pos + goal, msg := d.msg ++ d.buf, buf := [] })
  else
    let digest := shake256 d.msg 64
    some ((m.moverWrite q d.num d.das false 65 d.dst digest).onDesc q d.num fun d =>
      if d.ran then d else { d.finish (ofBytesLE (digest.take 8)) (ofBytesLE ((digest.drop 8).take 8)) with msg := [] })

/-- FETCH_ADD and CAS: one atomic, whose original value is the result. -/
def Mod.atomicMove (m : Mod) (q : Nat) (d : Desc) : Option Mod :=
  if d.opened then
    if d.buf.length < d.len then none
    else some (m.onDesc q d.num fun d => d.finish (ofBytesLE (d.buf.take 8)) (ofBytesLE (d.buf.drop 8)))
  else
    let (m1, id) := m.newAccess
    let v4 := d.word 4 + 2 ^ 64 * d.word 5
    let alu := if d.op = 8 then (0, v4, 0) else (2, d.word 6 + 2 ^ 64 * d.word 7, v4)
    some ((m1.onDesc q d.num fun d =>
      { d with opened := true, want := some { id := id, addr := d.dst, len := d.len, line := decide (d.das = 1) }, writes := [(id, d.dst)] }).moverAccess
        q id d.das .atomic d.dst d.len 0 false (some alu))

/-- A migration is requested: MSTATE 1, DEST and EVAC in D6; none when R401 refuses it. -/
def Mod.migRequest (m : Mod) (i dest : Nat) (evac : Bool) : Option Mod :=
  let running := decide (1 ≤ m.mState i ∧ m.mState i ≤ 3)
  if running || !m.migDestOk i dest then none
  else some (m.setDesc 6 i (pack [(1, 61, 3), (dest, 45, 16), (b2n evac, 44, 1)]))

/-- A descriptor index names a parcel homed here. -/
def Mod.homedHere (m : Mod) (i : Nat) : Bool := decide (m.dState i ≠ 0) && decide (m.dState i ≠ 6)

def Mod.migrateMove (m : Mod) (q : Nat) (d : Desc) : Option Mod :=
  let n := m.qpSlot q
  let i := fld (d.word 4) 0 16
  let dest := fld (d.word 4) 16 16
  match d.migrate with
  | some i =>
    if m.mState i = 1 ∨ m.po.migs.any (fun x => x.1 = i) = true then none
    else
      let st := m.mState i
      some (m.onDesc q d.num fun d =>
        let d1 := { d with ran := true, migrate := none, r2 := st * 2 ^ 61 }
        if st = 0 then d1 else { d1 with status := 9 })
  | none =>
    if m.objv (vfOid n 7) = 0 ∨ m.homedHere i = false ∨ m.homedHere dest = false ∨ fld (m.d0 i) 33 8 ≠ m.vfTenant n then
      some ((m.deny 3 (m.qpPort q) (m.vfTenant n) 0).onDesc q d.num fun d => d.fail 4 0 none)
    else
      match m.migRequest i dest (bit (d.word 4) 32) with
      | some m1 => some (m1.onDesc q d.num fun d => { d with migrate := some i })
      | none => some (m.onDesc q d.num fun d => { d.fail 9 0 none with r2 := m.mState i * 2 ^ 61 })

/-- FENCE: a completion barrier on the stream of the queue pair (R496). -/
def Mod.fenceMove (m : Mod) (q : Nat) (d : Desc) : Option Mod :=
  if d.opened then none
  else some ((m.onDesc q d.num fun d => { d with opened := true, fence := true }).barAccept (qpStream q) (.mover q d.num) (.qp q d.num))

/-- NOTIFY: doorbell bits under the call rights of the slot's mailbox (R533). -/
def Mod.notifyMove (m : Mod) (q : Nat) (d : Desc) : Option Mod :=
  let n := m.qpSlot q
  let k := fld (d.word 4) 0 9
  if m.callable n k then some ((m.ring k (fld (d.word 5) 0 31)).onDesc q d.num fun d => { d with ran := true })
  else some (m.onDesc q d.num fun d => d.fail 4 0 none)

def Mod.opMove (m : Mod) (q : Nat) (d : Desc) : Option Mod :=
  match d.op with
  | 1 => m.copyMove q d
  | 2 => m.fillMove q d (d.word 4)
  | 3 => m.fillMove q d 0
  | 4 => m.compareMove q d
  | 5 => m.crcMove q d
  | 6 => m.crcMove q d
  | 7 => m.shakeMove q d
  | 8 => m.atomicMove q d
  | 9 => m.atomicMove q d
  | 10 => m.migrateMove q d
  | 11 => m.fenceMove q d
  | 12 => m.notifyMove q d
  | _ => none

/-- The result of the read a descriptor waits for: its bytes, or the end of the descriptor; a COPY goes on with poisoned data. -/
def Mod.takeResult (m : Mod) (q : Nat) (d : Desc) (w : Want) : Option Mod :=
  match m.ca.results.find? fun x => decide (x.1 = q) && decide (x.2.1 = w.id) with
  | none => none
  | some (_, _, data, poison, err) =>
    let m1 := m.onCa fun b => { b with results := b.results.filter fun x => !(decide (x.1 = q) && decide (x.2.1 = w.id)) }
    some (m1.onDesc q d.num fun d0 =>
      let d : Desc := { d0 with want := none, writes := d0.writes.filter fun x => x.1 ≠ w.id }
      if err ≠ 0 then d.fail (errStatusOf err) err (some w.addr)
      else if poison ∧ d.op ≠ 1 then d.fail 7 0 (some w.addr)
      else
        let d1 : Desc := if poison then { d with bad := true, place := d.place.or (some w.addr) } else d
        if d.stage = 1 then { d1 with msg := d1.msg ++ w.bytes data } else { d1 with buf := d1.buf ++ w.bytes data })

/-- A descriptor of the given operation advances until an access of it awaits its answer; n bounds its moves. -/
def Mod.runDesc (q num op : Nat) : Nat → Mod → Mod
  | 0, m => m
  | n + 1, m =>
    let m1 := m.absorbed q
    match m1.desc q num with
    | none => m1
    | some d =>
      if d.ran ∨ d.op ≠ op then m1
      else
        match (match d.want with
          | some w => m1.takeResult q d w
          | none => m1.opMove q d) with
        | none => m1
        | some m2 => m2.settle.runDesc q num op n

/-- Moves a descriptor can make: two for each piece of eight bytes, and a few. -/
def Desc.moves (d : Desc) : Nat := 8 + d.len

/-- Run a descriptor; with a residue error in the ALU it ends with STATUS 8 (R357). -/
def Mod.runOp (m : Mod) (q num op : Nat) (residue : Bool) : Mod :=
  match m.desc q num with
  | none => m
  | some d =>
    if d.ran ∨ d.op ≠ op ∨ m.md.mode.pastBootMode = false then m
    else if residue then (m.residue (dieOfPort (m.qpPort q)) 4 0x0701).onDesc q num fun d => d.fail 8 0 none
    else m.runDesc q num op (2 * d.moves)

/-! Fetching (R519, R531). -/

/-- A queue pair may have its next descriptor fetched. -/
def Mod.mayFetch (m : Mod) (q : Nat) : Bool :=
  let s := m.qp q
  let n := m.qpSlot q
  decide (s.st = .running) && s.enable && decide (s.sqHead ≠ s.sqTail) && decide (s.started.length < 32) &&
    decide (dist s.cqHead s.cqTail (2 ^ s.cqs) < 2 ^ s.cqs - 1) && (s.started.all fun d => !(decide (d.op = 11) && !d.ran)) &&
    m.admits && !(m.fnSt (vfFn n)).flr && decide (m.objv (vfOid n 5) ≠ 0) && bit (m.objv (qpOwnerOid q)) 15 && decide (m.qpPort q < 48)

/-- Queue pairs of a die that may be fetched from. -/
def Mod.fetchable (m : Mod) (d : Nat) : List Nat :=
  if 1024 ≤ ((m.sv.qps.filter fun x => decide (dieOfPort (m.qpPort x.1) = d)).map fun x => x.2.started.length).sum then []
  else (m.sv.qps.map (·.1)).filter fun q => m.mayFetch q && decide (dieOfPort (m.qpPort q) = d) &&
    decide (tget 0 (m.qpSlot q) (tget {} d m.sv.movers).free ≤ m.now)

/-- The slot deficit round robin serves next, and the scheduler's state (R531): the first from the pointer on with a deficit above 0, after
as many rounds as give one. -/
def Mod.serveSlot (m : Mod) (d : Nat) (slots : List Nat) : Option (Nat × MoverSt) :=
  let s : MoverSt := tget {} d m.sv.movers
  let def_ := s.deficit.filter fun x => slots.contains x.1
  let order := (slots.filter fun n => decide (s.ptr ≤ n)) ++ slots.filter fun n => decide (n < s.ptr)
  let at_ := fun (t : Tbl Int) (n : Nat) => tget (0 : Int) n t
  let quantum := fun (n : Nat) => 4096 * m.objv (vfOid n 5)
  let need := order.map fun n => ((1 - at_ def_ n).toNat + quantum n - 1) / quantum n
  let rounds := need.foldl min (need.getD 0 0)
  let def2 := order.foldl (fun t n => tset (0 : Int) n (at_ def_ n + (rounds * quantum n : Nat)) t) def_
  (order.find? fun n => decide (0 < at_ def2 n)).map fun n => (n, { s with deficit := def2 })

/-- Charge a slot for a descriptor: its LENGTH, at least the descriptor's own 64 bytes; its rate cap (R531). -/
def Mod.chargeSlot (m : Mod) (d n cost : Nat) (s : MoverSt) : Mod :=
  let left := tget (0 : Int) n s.deficit - cost
  let rate := max 1 (m.objv (vfOid n 6))
  let s1 := { s with deficit := tset (0 : Int) n left s.deficit, ptr := if 0 < left then n else (n + 1) % 256,
                     free := tset 0 n (max m.now (tget 0 n s.free) + cost * 8000 / rate) s.free }
  m.onSv fun b => { b with movers := tset {} d s1 b.movers }

/-- A queue pair enters ERROR (R525). -/
def Mod.qpError (m : Mod) (q status : Nat) : Mod :=
  ((m.onQp q fun s => { s with st := .error, errCode := status }).hostEvent (m.vfVcs (m.qpSlot q)) 3).raise (evt 0x0B01 Loc.module q status)

/-- Fetch and start the next descriptor of a queue pair, whose words are read from its submission queue (R519). -/
def Mod.startDesc (m : Mod) (q : Nat) (words : List Nat) : Mod :=
  let num := m.sv.nextDesc
  let die := dieOfPort (m.qpPort q)
  let (m1, d) := m.checked q { num := num, words := words.take 8 }
  let m2 := (m1.onSv fun b => { b with nextDesc := num + 1 }).onQp q fun s =>
    { s with sqHead := (s.sqHead + 1) % 2 ^ s.sqs, started := s.started ++ [d] }
  (m2.dieCtr die 360 1).when (decide (d.status = 2)) (·.qpError q 2)

/-! Completion records (R523). -/

/-- Word 1 of a record: the bytes processed, or the first address that failed; with none that failed it is open (free value 13). -/
def Mod.recordWord1 (m : Mod) (d : Desc) : Nat :=
  if d.status ≤ 1 then d.bytes else d.place.getD (Config.openValue 13 m.draws % 2 ^ 64)

/-- Write the record of a descriptor at the tail of the completion queue, and raise its vector. -/
def Mod.writeRecord (m : Mod) (q : Nat) (d : Desc) : Mod :=
  let s := m.qp q
  let n := m.qpSlot q
  let j := fld (m.objv (qpOwnerOid q)) 0 6
  let w0 := pack [(b2n s.phase, 63, 1), (d.status, 56, 7), (d.op, 48, 8), (d.code, 40, 8), (j, 32, 8), (d.ident, 0, 32)]
  let bytes := leBytes 8 w0 ++ leBytes 8 (m.recordWord1 d) ++ leBytes 8 d.r2 ++ leBytes 8 d.r3
  let tail := (s.cqTail + 1) % 2 ^ s.cqs
  let (m1, id) := m.drawn.newAccess
  let m2 := m1.onSv fun b => { b with records := b.records ++ [{ qp := q, id := id, fn := vfFn n, vec := if d.irq then some s.vec else none }] }
  (m2.onQp q fun s => { s with cqTail := tail, phase := if tail = 0 then !s.phase else s.phase }).moverAccess q id 0 .write
    (s.cqBase + 32 * s.cqTail) 32 (ofBytesLE bytes) false none

/-- Counts of a completed descriptor (R538, R583, R586). -/
def Mod.countDesc (m : Mod) (q : Nat) (d : Desc) : Mod :=
  let n := m.qpSlot q
  let die := dieOfPort (m.qpPort q)
  let m1 := ((m.bump (vfOid n 8) 1).dieCtr die 361 1).dieCtr die 363 (cdiv d.bytes 32)
  let m2 := if 1 < d.status then (m1.bump (vfOid n 9) 1).dieCtr die 362 1 else m1
  m2.tally { source := 9, tenant := some (m.vfTenant n) } 1

/-- The completion queue has room for a record (R519). -/
def QpSt.cqRoom (s : QpSt) : Bool := decide (dist s.cqHead s.cqTail (2 ^ s.cqs) < 2 ^ s.cqs - 1)

/-! Quiescing (R529). -/

/-- Value 1: no fetch; a MIGRATE in progress is detached with STATUS 10. -/
def Mod.quiesceStart (m : Mod) (q : Nat) : Mod :=
  if (m.qp q).st ≠ .running then m
  else m.onQp q fun s =>
    { s with st := .quiescing, started := s.started.map fun d => if d.migrate.isSome then { d.fail 10 0 none with migrate := none } else d }

/-- Value 2: the records still owed are abandoned. -/
def Mod.quiesceAbandon (m : Mod) (q : Nat) : Mod := if (m.qp q).st = .quiescing then m.onQp q QpSt.abandon else m

/-- Value 0: a quiesced queue pair runs again. -/
def Mod.quiesceResume (m : Mod) (q : Nat) : Mod := if (m.qp q).st = .quiesced then m.onQp q fun s => { s with st := .running } else m

/-- A new owner record of a queue pair: every register at its reset value (R528). -/
def Mod.qpMove (m : Mod) (q v : Nat) : Mod :=
  let old := m.objv (qpOwnerOid q)
  let m1 := (m.setPers (qpOwnerOid q) v).onQp q fun _ => {}
  if bit old 15 && (bit v 15 && decide (fld v 6 8 ≠ fld old 6 8)) then m1.raise (evt 0x0B03 Loc.module q) else m1

end Sys2Proof.Machine
end

