-- ==== Sys2Proof/Machine/Flags.lean ====
section
/-! DEFINITION. The status words of the module: the value of every read-only object that the module computes from its state, by area of the
dictionary (R75, R104, R135, R178, R214, R247, R286, R323, R360, R383, R417, R453, R479, R510, R537, R580, R600, R608). An object that none of
these functions names is stored, and reads as stored. -/
namespace Sys2Proof.Machine

/-! Area 0. -/

/-- ID of the fixed session of a window (R83). -/
def fixedSession : Source → Option Nat
  | .mgmtPf => some 1
  | .vf n => some (0x100 + n.val)
  | .hostPf v => some (0x200 + v.val)
  | _ => none

/-- TRANSPORT, PRIV and ORIGIN of a session record, by the session's source (R104). -/
def transportOf : Source → Nat
  | .mctpPcie _ => 2
  | .udp _ _ => 3
  | .mctpI3c _ => 4
  | .proxy _ _ _ => 6
  | _ => 0
def privCodeOf : Source → Nat
  | .firmware => 0
  | .proxy _ _ p => p
  | .mctpI3c _ => 3
  | .vf _ => 2
  | .hostPf _ => 2
  | _ => 1
def originOf : Source → Nat
  | .proxy sw _ _ => sw
  | _ => 0

/-- Group slot status (R75). -/
def Mod.groupWord (m : Mod) (g : Group) : Nat :=
  let left := if g.st = .opened then cdiv (g.openedAt + 10 * sec - m.now) (200 * ms) else 0
  pack [(g.num, 32, 32), (match g.st with
    | .opened => 1
    | .applying => 2
    | .armed => 3, 30, 2), (left, 24, 6), (g.shadows.length, 16, 8), (g.session, 0, 16)]

def Mod.subsOf (m : Mod) (id : Nat) : Nat := (m.di.subs.filter fun x => x.session = id).length

/-- A session record (R104). -/
def Mod.sessionWord (m : Mod) (s : Session) : Nat :=
  pack [(s.id, 48, 16), (transportOf s.src, 44, 4), (privCodeOf s.src, 42, 2), (originOf s.src, 28, 12), (m.subsOf s.id, 20, 8), ((m.now - s.lastAt) / sec, 0, 16)]

/-- Allow-list entries in use (R54). -/
def Mod.allowed (m : Mod) : List Nat := ((List.range 16).map fun i => m.objv (mkOid 0 0x30 (1 + i))).filter (· ≠ 0)

def Mod.view0 (m : Mod) (sess ix el : Nat) : Option Nat :=
  match ix with
  | 0x001 => if el = 2 then some serialNumber else if el = 3 then some (Config.factory 1 % 65536) else if el = 4 then some (Config.factory 2 % 65536)
      else if el = 5 then some m.rt.id else none
  | 0x011 => if el = 0 then none else some (match m.di.groups.find? fun g => g.slot = el with
      | some g => m.groupWord g
      | none => 0)
  | 0x013 => some m.di.groups.length
  | 0x020 => if el = 0 then none else some (match m.di.sessions.find? fun s => s.id = el + 1 with
      | some s => m.sessionWord s
      | none => 0)
  | 0x021 => some sess
  | 0x022 => some m.di.sessions.length
  | 0x036 => some m.allowed.length
  | _ => none

/-! Area 1 (R175, R178). -/

def FeedSt.stateCode (p : PowerBlk) (s : FeedSt) : Nat :=
  if s.present = false then 0
  else if s.overvolt then 1
  else if p.heldOff then 6
  else if s.coolEnd.isSome then 4
  else if decide (s.fet = .full) then 3
  else if decide (s.fet = .off) && (s.held || s.latched) then 5
  else 2

def Mod.feedStatus (m : Mod) (f : Feed) : Nat :=
  let s := m.feed f
  pack [(s.stateCode m.pw, 28, 4), (b2n (decide (500 < s.current)), 27, 1), (b2n s.ilim, 26, 1), (b2n s.rev, 25, 1), (b2n s.fetShort, 24, 1), (s.retries, 20, 4)]

def FeedSt.tripWord (s : FeedSt) : Nat := pack [(b2n s.latched, 31, 1), (s.cause, 27, 4), (s.count, 23, 4), (s.seconds, 0, 23)]

/-- A temperature in thousandths of a degree as signed 16.16 fixed point. -/
def fix32 (t : Int) : Nat := (t * 65536 / 1000 % 4294967296).toNat

def Mod.protection (m : Mod) : Nat :=
  let ft := match m.pw.ftStart with
    | some t => min 65535 ((m.now - t) / 1000)
    | none => 0
  pack [(b2n m.pw.pg, 31, 1), (b2n m.pw.sumlim, 30, 1), (b2n m.pw.holdupEnd.isSome, 29, 1), (ft, 0, 16)]

def Mod.view1 (m : Mod) (ix el : Nat) : Option Nat :=
  let f : Feed := if el = 2 then 1 else 0
  let s := m.feed f
  match ix with
  | 0x001 => if el = 0 then none else some (m.feedStatus f)
  | 0x002 => some (min 65535 s.voltage)
  | 0x003 => some (min 65535 s.current)
  | 0x004 => some (min 65535 (s.power / 50))
  | 0x005 => some (s.energy / 10 % 2 ^ 64)
  | 0x006 => some (min 65535 m.pw.vbus)
  | 0x007 => some (min 65535 (m.powerAvg / 50))
  | 0x008 => some (m.pw.energy / 10 % 2 ^ 64)
  | 0x009 => some (fix32 s.fetTemp)
  | 0x00A => some m.pAvail
  | 0x00B => some m.ilim
  | 0x020 => some s.tripWord
  | 0x022 => some (match s.coolEnd with
      | some t => cdiv (t - m.now) ms
      | none => 0)
  | 0x024 => some (min 65535 s.peak)
  | 0x025 => some m.protection
  | _ => none

/-! Area 2 (R133, R135). -/

def Mod.governorWord (m : Mod) : Nat :=
  let g := m.md.gov
  pack [(g.step, 29, 3), (b2n g.volt, 28, 1), (b2n g.therm, 27, 1), (b2n g.cap, 26, 1), (b2n g.floor, 25, 1), (b2n g.emerg, 24, 1), (g.target, 0, 16)]

def Mod.view2 (m : Mod) (ix : Nat) : Option Nat :=
  match ix with
  | 0x002 => some m.md.mode.code
  | 0x021 => some m.governorWord
  | 0x031 => some ((List.range 64).filter fun i => m.objv (fenceOid (i + 1)) ≠ 0).length
  | 0x032 => some (pack [(b2n (!m.fn.overflow.isEmpty), 31, 1), (m.fn.overflow.length, 0, 8)])
  | _ => none

/-! Area 3 (R214). -/

def LaneSt.status (s : LaneSt) (pstate : Nat) : Nat :=
  pack [(s.rate, 28, 4), (b2n (decide (6 ≤ s.rate)), 27, 1), (b2n s.precode, 26, 1), (b2n s.pol, 25, 1), (b2n s.rev, 24, 1), (b2n s.cdr, 23, 1),
        (b2n s.align, 22, 1), (pstate, 19, 3), (s.logical, 8, 8)]

/-- PSTATE of a lane: 7 while its port is fenced or its region gated, 6 in test modes; a DOWN fabric port that can train sends training blocks and
is not in electrical idle (R272). -/
def Mod.laneState (m : Mod) (l : Nat) : Nat :=
  let p := l / 4
  let gone := (if p < 48 then m.edgeFenced p else m.fabFenced (p - 48)) || m.regionGated (regionKey p)
  if gone then 7 else if (m.lane l).testing then 6 else if 48 ≤ p ∧ m.canTrain (p - 48) = true then 0 else (m.lane l).pstate

def LaneSt.control (s : LaneSt) : Nat :=
  s.test % 2 ^ 32 - s.test % 2 ^ 16 - b2n (bit s.test 24) * 2 ^ 24 + pack [(b2n s.done, 15, 1), (b2n s.abort, 14, 1), (b2n (s.lock && !(decide (fld s.test 25 4 = 2) && s.nrz)), 13, 1)]

def Mod.view3 (m : Mod) (ix el : Nat) : Option Nat :=
  if ix < 0x100 then
    let s := m.lane ix
    match el with
    | 1 => some (s.status (m.laneState ix))
    | 3 => some (if 192 ≤ ix ∧ s.taps = 0 then tapsBlob {} else s.taps)
    | 4 => some s.control
    | 5 => some s.errors
    | 6 => some s.symbols
    | 7 => some s.slip
    | _ => none
  else if ix = 0x110 then some (b2n m.ph.refin)
  else none

/-! Area 4 (R247). -/

def EdgeLink.linkCode : EdgeLink → Nat
  | .disabled => 0 | .detect => 1 | .training => 2 | .l0 => 3 | .recovery => 4 | .l0p => 5 | .l1 => 6 | .l2 => 7 | .hotReset => 8

/-- Port status, 4.0pp.05. A merged port's members all show the port's status. -/
def Mod.portStatus (m : Mod) (p0 : Nat) : Nat :=
  let p := m.lead p0
  let s := m.edge p
  let code := if m.edgeFenced p then 10 else if m.regionGated (regionKey p) then 11 else if s.dpc ∧ s.dllUp = false then 9 else s.link.linkCode
  let ide := ((List.range 6).map fun k => (m.ideSt p k).state).foldl max 0
  pack [(code, 28, 4), (m.role p, 26, 2), (s.tr.width, 21, 5), (s.tr.rate, 18, 3), (s.tr.flit, 16, 2), (b2n s.tr.io, 15, 1), (b2n s.tr.cache, 14, 1),
        (b2n s.tr.mem, 13, 1), (b2n (decide (s.hotAdd = .powered ∨ s.hotAdd = .released ∨ s.hotAdd = .up) || (decide (m.role p = 1) && s.prsnt)), 12, 1), (b2n s.perst, 11, 1), (b2n s.clkreq, 10, 1),
        (ide, 8, 2), (b2n s.dpc, 7, 1), (b2n s.viral, 6, 1)]

/-- vPPBs of a VCS with a binding. -/
def Mod.boundCount (m : Mod) (v : Nat) : Nat := ((List.range 32).filter fun n => n ≠ 0 ∧ (m.boundPort v n).isSome).length

def Mod.view4 (m : Mod) (ix el : Nat) : Option Nat :=
  if ix < 0x30 then
    match el with
    | 5 => some (m.portStatus ix)
    | 8 => some (m.ed.filter.filter fun x => x.2.vec.contains (m.lead ix)).length
    | _ => none
  else if 0x100 ≤ ix ∧ ix < 0x130 then
    let v := ix - 0x100
    match el with
    | 2 => some (m.boundCount v)
    | 4 => some (m.exts.filter fun x => decide (extVcs x.2 = v) && decide (extState x.2 = 3)).length
    | 5 => some ((List.range 48).filter fun p => m.vcsOf p = some v ∧ (m.edge p).cacheDevice = true ∧ (m.edge p).cacheHidden = false).length
    | _ => none
  else if 0x200 ≤ ix ∧ ix < 0x380 ∧ el = 6 then some (m.ideSt ((ix - 0x200) / 8) ((ix - 0x200) % 8)).state
  else if ix = 0x3F0 ∧ el = 1 then some m.ed.filter.length
  else none

/-! Area 5 (R279, R286). -/

/-- Packets a link holds: those that end in its replay buffer, those on their way into a flit, those on the port's queues. -/
def Mod.heldPkts (m : Mod) (n : Nat) : List Pkt :=
  (m.link n).replay.flatMap (·.pkts) ++ (m.link n).tx.filterMap (·.pkt) ++ ((List.range 8).flatMap fun c => (m.queue (qKey (48 + n) c)).map fun e => e.held.pkt)

def classMask (l : List Nat) : Nat := ((List.range 8).filter fun c => l.contains c).foldl (fun a c => a + 2 ^ c) 0

def Mod.linkStatus (m : Mod) (n : Nat) : Nat :=
  let s := m.link n
  pack [(s.st.code, 29, 3), (b2n (decide (m.heldPkts n ≠ []) || !s.replay.isEmpty), 28, 1), (b2n s.mismatch, 27, 1), (b2n s.clean, 26, 1),
        (classMask s.openTx, 18, 8), (classMask s.openRx, 10, 8), (s.replayNum, 5, 5), (s.cause, 0, 5)]

def Mod.view5 (m : Mod) (ix el : Nat) : Option Nat :=
  let n := ix % 0x100
  let s := m.link n
  if ix < 0x100 then
    match el with
    | 1 => some s.st.code
    | 3 => some (m.linkStatus n)
    | 9 => some (m.ownIdentity n)
    | 0xA => some s.heldId
    | 0xB => some (m.heldPkts n).length
    | 0xC => some ((m.heldPkts n).map pktBytes).sum
    | _ => none
  else if 0x200 ≤ ix ∧ ix < 0x300 then
    if 1 ≤ el ∧ el ≤ 8 then
      let u := credOf s.used (el - 1)
      let l := credOf s.limit (el - 1)
      some (pack [(u.h, 48, 16), (l.h, 32, 16), (u.d, 16, 16), (l.d, 0, 16)])
    else if 9 ≤ el then some (pack [((s.grantOf (el - 9)).h, 16, 16), ((s.grantOf (el - 9)).d, 0, 16)])
    else none
  else none

/-! Area 6 (R323). -/

def TimeState.num : TimeState → Nat
  | .unlocked => 0 | .grandmaster => 1 | .locked => 2 | .holdover => 3

def Mod.diameter (m : Mod) : Nat := ((m.listedIn 6 0x100 0x11F).map fun x => if bit x.2 63 then fld x.2 56 4 else 0).foldl max 0

def Mod.view6 (m : Mod) (ix : Nat) : Option Nat :=
  match ix with
  | 0x002 => some (pack [(b2n m.rt.dup, 31, 1), (b2n m.rt.full, 30, 1), (b2n m.rt.mismatch, 29, 1), (b2n m.rt.leaving, 28, 1), (m.diameter, 24, 4),
      (m.rt.id, 0, 12)])
  | 0x003 => some m.rt.seq
  | 0x004 => some (m.rt.db.length + b2n m.rt.own.isSome)
  | 0x031 => some (m.meridian % 2 ^ 64)
  | 0x033 => some (pack [(m.ti.st.num, 30, 2), (m.ti.parent.getD 0, 26, 4), (m.ti.hops, 22, 4), (m.ti.gm, 0, 12)])
  | 0x051 =>
    let id := m.objv 0x605000
    let own := match m.rt.own with
      | some r => if r.id = id then [r] else []
      | none => []
    some (match own ++ (m.rt.db.filter fun x => x.lsr.id = id).map (·.lsr) with
      | r :: _ => (recordWords r).foldl (fun a w => a * 2 ^ 64 + w % 2 ^ 64) 0
      | [] => 0)
  | _ => none

/-! Area 7 (R360, R510). -/

/-- The length of a queue exceeds its threshold now (R333). -/
def Mod.overLimit (m : Mod) (k : Nat) : Bool := (m.admitNeed k (1 + (m.qMin (k % 8) - m.qLen k))).isNone

def Mod.queueWord (m : Mod) (p c : Nat) : Nat :=
  let k := qKey p c
  let q := m.queue k
  let waits := m.sw.waiting.any fun h => decide (h.target = some p) && decide (h.pkt.tc = c)
  pack [(b2n (m.carries k && !q.isEmpty), 31, 1), (b2n waits, 30, 1), (b2n (m.overLimit k), 29, 1),
        (b2n (match q with
          | e :: _ => e.cut
          | [] => false), 28, 1), (m.qLen k, 0, 18)]

def Mod.semWord (m : Mod) (p : Nat) : Nat :=
  let s := m.sem p
  let held := match s.holder with
    | some h => pack [(1, 31, 1), (b2n h.locked, 30, 1), (h.key / 256 % 64, 24, 6), (h.key % 256, 16, 8)]
    | none => 0
  held + min 65535 (s.waiting.map (·.key)).eraseDups.length

def Mod.view7 (m : Mod) (ix el : Nat) : Option Nat :=
  if ix = 0x010 ∨ ix = 0x011 then
    let d := ix - 0x010
    match el with
    | 1 => some (m.cellsUsable d)
    | 2 => some (m.cellsInUse d)
    | 3 => some (m.poolS d)
    | 4 => some (m.sharedUsed d)
    | 5 => some (tget 0 d m.sw.sharedHigh)
    | 6 => some (m.trkInUse d)
    | 7 => some (m.orphans d)
    | 8 => some (tget 0 d m.sw.trkHigh)
    | _ => none
  else if 0x130 ≤ ix ∧ ix < 0x140 ∧ el = 2 then some (m.portResv (ix - 0x100))
  else if 0x200 ≤ ix ∧ ix < 0x240 ∧ 1 ≤ el then some (m.queueWord (ix - 0x200) (el - 1))
  else if 0x400 ≤ ix ∧ ix < 0x430 then
    match el with
    | 3 => some (m.br.wc.filter fun e => e.port = ix - 0x400).length
    | 9 => some (m.semWord (ix - 0x400))
    | _ => none
  else none

/-! Area 8 (R374, R379). -/

def Mod.gateArmed (m : Mod) (p : Nat) : Bool := m.di.groups.any fun g => decide (g.num = 6 * 2 ^ 24 + p) && decide (g.st = .armed)

def Mod.gateWord (m : Mod) (p : Nat) : Nat :=
  pack [(m.gateMask p, 24, 8), (match m.gatePos p with
    | some x => x.1
    | none => 0, 16, 8), (b2n (m.gateArmed p), 15, 1), (b2n (!(m.gateList p).isEmpty), 14, 1), ((m.sched p).gateGen, 0, 8)]

/-- The sampler ring of a die is full now (R380). -/
def Mod.samplerFull (m : Mod) (d : Nat) : Bool :=
  let o := fun (el : Nat) => m.objv (mkOid 8 (0x900 + d) el)
  decide (o 4 / 16 ≤ (o 5 + 2 ^ 32 - o 6) % 2 ^ 32)

def Mod.view8 (m : Mod) (ix el : Nat) : Option Nat :=
  if 0x800 ≤ ix ∧ ix < 0x840 ∧ el = 3 then some (m.gateWord (ix - 0x800))
  else if (ix = 0x900 ∨ ix = 0x901) ∧ el = 1 then
    let v := m.objv (mkOid 8 ix 1)
    some (setFld v 26 1 (b2n (m.samplerFull (ix - 0x900))))
  else none

/-! Area 9 (R417). -/

def Mod.view9 (m : Mod) (ix el : Nat) : Option Nat :=
  match ix with
  | 0x001 => some (m.descs.filter fun i => m.dState i ≠ 0).length
  | 0x014 => if el = 0 then none else some (m.descs.filter fun i => m.served i && (m.dPorts i).contains (el - 1)).length
  | _ =>
    let i := (ix - 0xE00) * 128 + (el - 1)
    if 0xE00 ≤ ix ∧ 1 ≤ el ∧ m.po.migs.any (fun x => x.1 = i) = true then some (setFld (m.objv (mkOid 9 ix el)) 0 22 (m.copyPtr i)) else none

/-! Area A (R428, R453, R479). -/

def DSt.num : DSt → Nat
  | .uncached => 0 | .shared => 1 | .exclusive => 2 | .owned => 3 | .broadcast => 4

/-- A directory entry as R428 lays it out. -/
def Mod.entryBits (m : Mod) (d : Nat) : Nat :=
  let e := m.dent d
  if e.st = .uncached then 0
  else
    let ptr := fun (i : Nat) => e.ptrs.getD i 0
    pack [(e.st.num, 125, 3), (b2n (m.txn d).isSome, 124, 1), (e.owner, 112, 12), (ptr 3, 100, 12), (ptr 2, 88, 12), (ptr 1, 76, 12), (ptr 0, 64, 12),
          (d / 2 ^ 48, 44, 16), (d % 2 ^ 48 / 64, 16, 28), (e.age, 0, 8)]

def Mod.viewA (m : Mod) (ix el : Nat) : Option Nat :=
  let die := ix - 0x020
  let sel := let v := m.objv 0xA05000
    fld v 44 16 * 2 ^ 48 + fld v 16 28 * 64
  match ix with
  | 0x001 => match el with
    | 1 => some m.ho.txns.length
    | 2 => some (m.ho.queue.map fun x => x.2.length).sum
    | 4 => some (m.ca.lines.filter fun x => !x.2.st.stable).length
    | _ => none
  | 0x020 | 0x021 => match el with
    | 1 => some (m.ho.dir.filter fun x => x.2.chip && decide (m.homeDie x.1 = die)).length
    | 2 => some (m.ho.dir.filter fun x => !x.2.chip && decide (m.homeDie x.1 = die)).length
    | 5 => some (m.ho.dir.filter fun x => decide (x.2.st = .owned) && decide (m.homeDie x.1 = die)).length
    | 6 => some (m.ho.dir.filter fun x => decide (x.2.st = .broadcast) && decide (m.homeDie x.1 = die)).length
    | _ => none
  | 0x051 => some (m.entryBits sel)
  | 0x052 => some (if (m.dent sel).st = .uncached then 0 else if (m.dent sel).chip then 1 else 2)
  | 0x060 => if el = 7 then some (m.ho.suspectChip.length + m.ho.suspectLedger.length) else none
  | _ => none

/-! Area B (R526, R537, R538). -/

/-- Vectors of the pool of 8,192 that nothing backs (R526): the management PF has 64. -/
def Mod.vectorsFree (m : Mod) : Nat :=
  8192 - 64 - ((List.range 48).map fun v => m.backed (hostFn v)).sum - ((List.range 256).map fun n => m.backed (vfFn n)).sum

def QState.num : QState → Nat
  | .disabled => 1 | .running => 2 | .quiescing => 3 | .quiesced => 4 | .error => 5

/-- The queue pair has an owner. -/
def Mod.qpOwned (m : Mod) (q : Nat) : Bool := bit (m.objv (qpOwnerOid q)) 15

/-- QSTAT (R517). -/
def Mod.qstat (m : Mod) (q : Nat) : Nat :=
  let s := m.qp q
  if m.qpOwned q = false then 0 else pack [(s.st.num, 29, 3), (s.started.length, 23, 6), (s.errCode, 16, 7), (s.sqHead, 0, 16)]

/-- Mailbox status (R538). -/
def Mod.boxWord (m : Mod) (k : Nat) : Nat :=
  let s := m.box k
  pack [(s.holder, 23, 9), (s.inq.length, 18, 5), (s.outq.length, 13, 5), (b2n (m.boxOwned k), 12, 1)]

def Mod.viewB (m : Mod) (ix el : Nat) : Option Nat :=
  if ix = 0x001 then
    match el with
    | 2 => some m.vectorsFree
    | 3 => some (4096 - ((m.listedIn 0xB 0x400 0x41F).filter fun x => bit x.2 15).length)
    | _ => none
  else if 0x100 ≤ ix ∧ ix < 0x130 ∧ el = 1 then some (m.slotsOf (ix - 0x100)).length
  else if 0x200 ≤ ix ∧ ix < 0x300 ∧ el = 2 then some (m.qpsOf (ix - 0x200)).length
  else if 0x480 ≤ ix ∧ ix < 0x4A0 ∧ 1 ≤ el then some (m.qstat (128 * (ix - 0x480) + (el - 1)))
  else if 0x600 ≤ ix ∧ ix < 0x603 ∧ 1 ≤ el then some (m.boxWord (128 * (ix - 0x600) + (el - 1)))
  else if ix = 0x700 then
    let s := m.box 257
    match el with
    | 3 => some s.db
    | 4 => some s.mask
    | 5 => some (m.ownStatus 257)
    | 6 => some (m.callSide 257).sel
    | 10 => some (m.callStatus 257)
    | _ => none
  else none

/-! Area D (R573, R576, R580). -/

/-- Block i, from 0, of 1,024 bytes of a value of len bytes; the last block is padded with zeros where its object is longer. -/
def blobBlock (len i size v : Nat) : Nat :=
  let bytes := ((toBytes len v).drop (1024 * i)).take 1024
  ofBytes (bytes ++ List.replicate (size - bytes.length) 0)

/-- Boot status (R580). -/
def Mod.bootWord (m : Mod) : Nat :=
  let b := m.se.boot
  pack [(b2n b.runFsB, 31, 1), (b2n b.runFwB, 30, 1), (b2n b.trial, 29, 1), (b2n b.trialFail, 28, 1), (b2n b.fallback, 27, 1),
        (if b.ready then m.imageVersion 2 b.runFwB else 0, 0, 16)]

/-- The token a session has presented, not lapsed (R572). -/
def Mod.tokenOf (m : Mod) (sess : Nat) : Option Token := m.se.tokens.find? fun t => decide (t.session = sess) && decide (m.now < t.at_ + 60 * sec)

/-- Token status of a session (R580). -/
def Mod.tokenWord (m : Mod) (sess : Nat) : Nat :=
  match m.tokenOf sess with
  | some t => pack [(1, 30, 2), (t.slot, 24, 3), (t.items.length, 20, 4), (t.op, 0, 8)]
  | none => tget 0 sess m.se.tokenStatus

def Mod.report (m : Mod) (sess : Nat) : Option Report := m.se.reports.find? fun r => r.session = sess

def Mod.viewD (m : Mod) (sess ix el : Nat) : Option Nat :=
  match ix with
  | 0x001 => some m.lifeCode
  | 0x003 => some m.debugLeft
  | 0x004 => some m.bootWord
  | 0x005 => if el = 0 then none else some (if el = 1 then m.se.rollFs else m.se.rollFw)
  | 0x006 => some m.se.revoked
  | 0x010 => if el = 0 then none else some (blobBlock 1952 (el - 1) (if el = 1 then 1024 else 928) m.se.identity)
  | 0x011 => if el = 0 then none else some (blobBlock 5485 (el - 1) 1024 m.se.layerCert)
  | 0x013 => if el = 0 then none else some (blobBlock 5485 (el - 1) 1024 m.se.aliasCert)
  | 0x020 => some (match m.report sess with
      | some r => r.nonce
      | none => 0)
  | 0x021 => if el = 0 then none else some (match m.report sess with
      | some r => blobBlock 3805 (el - 1) 1024 r.bytes
      | none => 0)
  | 0x022 => if el = 0 then none else some (if el = 1 then m.se.m0 else if el = 2 then m.se.m1 else m.se.m2)
  | 0x042 => some (m.tokenWord sess)
  | 0x060 => if el = 5 then some m.se.staged else none
  | _ => none

/-! Area E (R590, R593, R597, R600, R602, R608). -/

/-- SEQ s lies at or before the acknowledgement point (R600). -/
def Mod.ackedSeq (m : Mod) (s : Nat) : Bool := !seqAhead m.ev.ackPoint s

/-- An event record as R600 lays it out. -/
def Mod.recordBits (m : Mod) (r : EventRec) : Nat :=
  pack [(r.time, 192, 64), (r.code, 176, 16), (r.sev, 173, 3), (b2n (m.ackedSeq r.seq), 172, 1), (b2n r.tenant.isSome, 171, 1), (b2n r.tlock, 170, 1),
        (r.seq, 128, 32), (r.switch, 116, 12), (r.loc.pkg, 112, 4), (r.loc.die, 110, 2), (r.loc.region, 108, 2), (r.loc.cluster, 107, 1),
        (r.loc.unit, 105, 2), (r.loc.depth, 102, 3), (r.loc.tag, 98, 4), (r.tenant.getD 0, 88, 8), (r.aux, 64, 24), (r.data, 0, 64)]

def Mod.selectedRecord (m : Mod) : Option EventRec := m.heldRecords.find? fun r => r.seq = m.objv 0xE01000

/-- Log status (R608). -/
def Mod.logStatus (m : Mod) : Nat :=
  pack [(b2n m.alert, 31, 1), (b2n m.ev.lostAlert, 30, 1), (b2n (!m.ev.ringReady), 29, 1), (min 65535 (m.heldRecords.filter m.unacked).length, 0, 16)]

/-- Scrub status: percent of the pass, passes complete (R608). -/
def Mod.scrubWord (m : Mod) : Nat :=
  pack [(((List.range 24).map fun c => tget 0 c m.cn.scrubPos).sum * 100 / (24 * scrubLines), 24, 8), (m.cn.scrubPasses, 0, 24)]

def Mod.viewE (m : Mod) (ix el : Nat) : Option Nat :=
  if ix < 0x100 then
    match ix with
    | 0x011 => some (match m.selectedRecord with
        | some r => m.recordBits r
        | none => 0)
    | 0x012 => some ((m.heldRecords.head?.map (·.seq)).getD 0)
    | 0x013 => some ((m.heldRecords.getLast?.map (·.seq)).getD 0)
    | 0x014 => some ((m.heldRecords.head?.map m.recordBits).getD 0)
    | 0x016 => some m.logStatus
    | 0x017 => some (m.ev.lost % 2 ^ 32)
    | 0x021 => some m.scrubWord
    | _ => none
  else if 0x300 ≤ ix ∧ ix < 0x340 then
    let p := ix - 0x300
    match el with
    | 1 => some (tget 0 p m.cn.lastRx)
    | 2 => some (tget 0 p m.cn.lastTx)
    | 3 => some (tget 0 p m.cn.peakRx)
    | 4 => some (tget 0 p m.cn.peakTx)
    | 5 => some m.cn.winEnd
    | _ => none
  else if 0x400 ≤ ix ∧ ix < 0x418 ∧ 1 ≤ el then some (tget 0 (128 * (ix - 0x400) + (el - 1)) m.cn.ctr)
  else if 0x600 ≤ ix ∧ ix < 0x602 ∧ 1 ≤ el then some (tget 0 (64 * (ix - 0x600) + (el - 1)) m.cn.leak)
  else none

/-! The value of an object. -/

/-- The value that a session reads of an object, its active one for a member of a group: computed where the module computes it, else stored; of
element 00 of an array the count (R46). -/
def Mod.view (m : Mod) (sess oid : Nat) : Nat :=
  let ix := oid / 256 % 4096
  let el := oid % 256
  if (countOf oid).isSome then m.objv oid
  else (match oid / 2 ^ 20 with
    | 0x0 => m.view0 sess ix el
    | 0x1 => m.view1 ix el
    | 0x2 => m.view2 ix
    | 0x3 => m.view3 ix el
    | 0x4 => m.view4 ix el
    | 0x5 => m.view5 ix el
    | 0x6 => m.view6 ix
    | 0x7 => m.view7 ix el
    | 0x8 => m.view8 ix el
    | 0x9 => m.view9 ix el
    | 0xA => m.viewA ix el
    | 0xB => m.viewB ix el
    | 0xD => m.viewD sess ix el
    | 0xE => m.viewE ix el
    | _ => none).getD (m.objv oid)

end Sys2Proof.Machine
end

