-- ==== Sys2Proof/Machine/DictOps.lean ====
section
/-! DEFINITION. Who reaches which object, and when: privileges (R53), the mode table (R52), a tenant's view (R55), the group of a member (R60), and
the checks and effects of a read (R51, R64). -/
namespace Sys2Proof.Machine

/-- Privilege of a session, by its source (R53); a proxy session carries the originating one (R89). -/
def privOf : Source → Priv
  | .firmware => .root
  | .mctpI3c _ => .observer
  | .vf _ => .tenant
  | .hostPf _ => .tenant
  | .proxy _ _ p => if p = 0 then .root else if p = 1 then .manager else if p = 2 then .tenant else .observer
  | .mgmtPf => .manager
  | .udp _ _ => .manager
  | .mctpPcie _ => .manager

/-- The right of a privilege on an object: Root holds every right (R50). -/
def rowAcc (p : Priv) (r : ObjRow) : Acc :=
  match p with
  | .root => .rw
  | .manager => r.m
  | .tenant => r.t
  | .observer => r.o

/-- A source address lies within an allow-list entry: address and length of the network part in bits (R54). -/
def allowMatch (addr entry : Nat) : Bool := decide (addr / 2 ^ (128 - min 128 (entry % 256)) = entry / 256 / 2 ^ (128 - min 128 (entry % 256)))

/-- Requests of a source are served now (R53, R98, R100, R616); over Ethernet while a management port is on (R104). -/
def Mod.served_ (m : Mod) : Source → Bool
  | .mgmtPf => m.md.mrdy
  | .mctpPcie _ => m.md.mrdy
  | .udp a _ => m.md.mrdy && (decide (m.objv 0x003101 ≠ 0) || decide (m.objv 0x003102 ≠ 0)) && (m.allowed.isEmpty || m.allowed.any fun e => allowMatch a e)
  | .mctpI3c _ => decide (m.md.mode ≠ .off) && m.di.strapped
  | .vf n => m.md.mrdy && m.slotUsed n && (m.fnSt (hostFn (m.vfVcs n))).vfEnable
  | .hostPf v => m.md.mrdy && decide (m.objv (mkOid 4 (0x100 + v) 1) ≠ 0xFF)
  | .proxy _ _ _ => m.md.mrdy
  | .firmware => m.md.serving

/-- Requests of a source are executed now: none during a live activation (R577). -/
def Mod.serves (m : Mod) (src : Source) : Bool := m.se.live.isNone && m.served_ src

/-- The mode table (R52); it does not bind Root (R50). -/
def Mod.modeServes (m : Mod) (src : Source) (oid : Nat) (wr : Bool) (cfg : Bool) : Bool :=
  let area := oid / 2 ^ 20
  let drainWrite := decide (area = 1) || [0x200100, 0xE01000, 0xE01500, 0xE01600].contains oid
  if privOf src = .root then true
  else match m.md.mode with
    | .off => false
    | .standby | .boot =>
      (match src with
        | .mctpI3c _ => true
        | _ => false) && (if wr then decide (area = 1) || decide (oid = 0x200100) else decide (area ≤ 2))
    | .configure => true
    | .operate | .capped => !(wr && cfg)
    | .drain => !wr || drainWrite
    | .fault => if wr then drainWrite else decide (area ≤ 2) || decide (area = 0xE)

/-! A tenant's view (R55). -/

/-- Virtual CXL switches and tenants of a Tenant session: a VF's own; for a host PF its switch, with the tenants of that switch's slots and
extents. -/
def Mod.viewOf (m : Mod) : Source → List Nat × List Nat
  | .vf n => ([m.vfVcs n], [m.vfTenant n])
  | .hostPf v => ([v.val], ((m.slotsOf v).map m.vfTenant ++ ((m.exts.filter fun x => extVcs x.2 = v.val ∧ extState x.2 ≠ 0).map fun x => extTenant x.2)).eraseDups)
  | _ => ([], [])

/-- The object belongs to the session's tenant: elements of one tenant or of one VCS only to theirs, every other object whole. -/
def Mod.inView (m : Mod) (src : Source) (oid : Nat) : Bool :=
  let (vs, ts) := m.viewOf src
  let ix := oid / 256
  let el := oid % 256
  let v := m.objv oid
  let slot := fun (n : Nat) => m.slotUsed n && ts.contains (m.vfTenant n)
  if 0x4100 ≤ ix ∧ ix < 0x4130 then vs.contains (ix - 0x4100)
  else if 0x7500 ≤ ix ∧ ix < 0x7530 then vs.contains (ix - 0x7500)
  else if 0xB100 ≤ ix ∧ ix < 0xB130 then vs.contains (ix - 0xB100)
  else if 0xB200 ≤ ix ∧ ix < 0xB300 then slot (ix - 0xB200)
  else if el = 0 then true
  else if (0x8100 ≤ ix ∧ ix < 0x8500) ∨ (0x8600 ≤ ix ∧ ix < 0x8602) then ts.contains (128 * (ix % 2) + (el - 1))
  else if 0x9040 ≤ ix ∧ ix < 0x9060 then decide (extState v ≠ 0) && ts.contains (extTenant v)
  else if 0x9100 ≤ ix ∧ ix < 0x9180 then bit v 7 && ts.contains (fld v 8 8)
  else if 0x9200 ≤ ix ∧ ix < 0xA000 then
    let i := (ix - 0x9200) % 0x200 * 128 + (el - 1)
    decide (m.dState i ≠ 0) && ts.any fun t => (m.rights i t).1
  else if 0xB400 ≤ ix ∧ ix < 0xB420 then bit v 15 && slot (fld v 6 8)
  else if 0xB480 ≤ ix ∧ ix < 0xB4A0 then
    let q := 128 * (ix - 0xB480) + (el - 1)
    m.qpOwned q && slot (m.qpSlot q)
  else if 0xB600 ≤ ix ∧ ix < 0xB603 then
    let k := 128 * (ix - 0xB600) + (el - 1)
    decide (k < 256) && slot k
  else true

/-! Groups (R60). -/

/-- The group number of a member, none for an object of kind 0. -/
def Mod.groupOf (m : Mod) (r : ObjRow) (oid : Nat) : Option Nat :=
  let ix := oid / 256
  let el := oid % 256
  let g := fun (i : Nat) => some (r.grp * 2 ^ 24 + i)
  if r.grp = 0 then none
  else if r.grp = 1 then
    if ix < 0x8100 then g ((ix - 0x8000) * 512 + (if el < 6 then 256 else 257))
    else g ((ix - 0x8100) % 0x100 / 2 * 512 + (ix % 2 * 128 + (el - 1)))
  else if r.grp = 2 then g (ix - 0xC100)
  else if r.grp = 3 then g (ix - 0xE100)
  else if r.grp = 4 then g ((ix - 0x6100) * 128 + (el - 1))
  else if r.grp = 5 then g ((ix - 0x9200) % 0x200 * 128 + (el - 1))
  else if r.grp = 6 then g (ix % 0x100)
  else if r.grp = 7 then
    let k := ix - 0x4200
    g (k / 8 * 256 + m.objv (ideOid (k / 8) (k % 8) 1))
  else g (ix - 0x4400)

def Mod.group (m : Mod) (num : Nat) : Option Group := m.di.groups.find? fun g => g.num = num
def Mod.onGroup (m : Mod) (num : Nat) (f : Group → Group) : Mod := m.onDi fun d => { d with groups := d.groups.map fun g => if g.num = num then f g else g }
def Mod.dropGroup (m : Mod) (num : Nat) : Mod := m.onDi fun d => { d with groups := d.groups.filter fun g => g.num ≠ num }

/-- The shadow of an object: its group and value. -/
def Mod.shadowOf (m : Mod) (oid : Nat) : Option (Group × Nat) :=
  m.di.groups.findSome? fun g => (g.shadows.find? fun x => x.1 = oid).map fun x => (g, x.2)

/-! Reads. -/

/-- A session: its source and ID. -/
structure Caller where
  src : Source
  sess : Nat
  deriving DecidableEq, Repr

/-- The row of an object a session may know of (R55). -/
def Mod.rowFor (m : Mod) (src : Source) (oid : Nat) : Option ObjRow :=
  match objFind oid with
  | none => none
  | some r => if privOf src = .tenant ∧ (r.t = .no ∨ m.inView src oid = false) then none else some r

/-- Status of a read of an object, its type aside. -/
def Mod.readSts (m : Mod) (src : Source) (oid : Nat) : Sts :=
  match m.rowFor src oid with
  | none => .notFound
  | some r =>
    if accReads (rowAcc (privOf src) r) = false then .accessDenied
    else if m.modeServes src oid false r.cfg = false then .mode
    else if oid = 0xE01100 ∧ m.objv 0xE01000 ≠ 0 ∧ m.selectedRecord.isNone = true then .notFound
    else .ok

/-- Bytes that a value carries in an item (R49): a string without leading zeros. -/
def valueLen (r : ObjRow) (v : Nat) : Nat :=
  if r.ty = .string then (toBytes r.size v).dropWhile (· == 0) |>.length else r.size

/-- A high-water element is read: the current head's delay counts (R381). -/
def Mod.hwNow (m : Mod) (oid : Nat) : Mod :=
  let ix := oid / 256
  let el := oid % 256
  let p := if ix < 0x8500 then (ix - 0x8400) / 4 else ix - 0x8500
  let at_ := if ix < 0x8500 then ((m.offered p (decide (2 ≤ ix % 4)) (ix % 2 * 128 + (el - 1))).map (·.2.tqAt)).getD 0
    else ((m.queue (qKey p (el - 1))).head?.map (·.headAt)).getD 0
  m.highWater oid 0 (m.delayOf at_)

/-- A read-clear object restarts (R381, R593 and the objects marked RC). -/
def Mod.readClear (m : Mod) (oid : Nat) : Mod :=
  let ix := oid / 256
  let el := oid % 256
  if ix = 0x7010 ∨ ix = 0x7011 then
    let d := ix - 0x7010
    if el = 5 then m.onSw fun s => { s with sharedHigh := tset 0 d (m.sharedUsed d) s.sharedHigh }
    else m.onSw fun s => { s with trkHigh := tset 0 d (m.trkInUse d) s.trkHigh }
  else if 0xE300 ≤ ix ∧ ix < 0xE340 then
    m.onCn fun b => if el = 3 then { b with peakRx := tset 0 (ix - 0xE300) 0 b.peakRx } else { b with peakTx := tset 0 (ix - 0xE300) 0 b.peakTx }
  else m.setObj oid 0

/-- A read of an object that may be read: what it does, and its value (R51, R64). -/
def Mod.readEffect (m : Mod) (c : Caller) (r : ObjRow) (oid : Nat) : Mod × Nat :=
  if r.writeOnly then (m, 0)
  else if oid = 0xB70001 then m.ownInPop 257
  else if oid = 0xB70007 then m.callLockRead 257
  else if oid = 0xB70008 then m.callOutPop 257
  else if oid = 0xB7000A then m.callStatusRead 257
  else if oid = 0xD03000 then
    let v := m.random
    (m.drawn.onSe fun b => { b with challenges := b.challenges.filter (fun x => x.1 ≠ c.sess) ++ [(c.sess, v, m.now)] }, v % 2 ^ 256)
  else
    let hw := decide (0x840000 ≤ oid) && decide (oid < 0x854000) && decide (oid % 256 ≠ 0)
    let m1 := if hw then m.hwNow oid else m
    let v := m1.view c.sess oid
    if oid = 0x202100 then (m1.onMd fun b => { b with gov := { b.gov with emerg := false } }, v)
    else if r.m = .rc ∧ (privOf c.src = .manager ∨ privOf c.src = .root) then (m1.readClear oid, v)
    else (m1, v)

/-- One item of a READ: the item of its response (R64, R77, R81). -/
def Mod.readItem (m : Mod) (c : Caller) (shadow : Bool) (it : Item) : Mod × RItem :=
  let st := m.readSts c.src it.oid
  let bad := fun (s : Sts) => (m, ({ oid := it.oid, ty := it.ty, status := s } : RItem))
  match m.rowFor c.src it.oid with
  | none => bad .notFound
  | some r =>
    if st ≠ .ok then bad st
    else if it.ty ≠ tyCode r.ty then bad .type
    else
      let sh := m.shadowOf it.oid
      match shadow, sh with
      | true, some (g, v) =>
        if g.session = c.sess then (m, { oid := it.oid, ty := it.ty, len := r.size, val := if r.m = .w then 0 else v, pend := true })
        else
          let x := m.readEffect c r it.oid
          (x.1, { oid := it.oid, ty := it.ty, len := valueLen r x.2, val := x.2, pend := true })
      | _, _ =>
        let x := m.readEffect c r it.oid
        (x.1, { oid := it.oid, ty := it.ty, len := valueLen r x.2, val := x.2, pend := sh.isSome })

/-- Bytes an item's answer takes (R77). -/
def Mod.answerLen (m : Mod) (c : Caller) (it : Item) : Nat :=
  match m.rowFor c.src it.oid with
  | some r => if m.readSts c.src it.oid = .ok ∧ it.ty = tyCode r.ty then 8 + cdiv (valueLen r (m.view c.sess it.oid)) 4 * 4 else 8
  | none => 8

end Sys2Proof.Machine
end

