-- ==== Sys2Proof/Machine/Edge.lean ====
section
/-! DEFINITION. The commands of edge ports, their lanes and clusters (R192 to R193, R203 to R213, R216 to R248, R467). -/
namespace Sys2Proof.Machine

/-- A command about an edge port acts for the lowest-numbered member of a merged port; the others have no life of their own (R36, R234). -/
def onLead (p : EdgePort) (f : Mod → Nat → Mod) : State → Host.Outcome State Fault Refusal :=
  lift fun m => if m.lead p = p then f m p else m

/-- The same for what the firmware does: it pauses while a live activation runs (R577). -/
def onLeadFw (p : EdgePort) (f : Mod → Nat → Mod) : State → Host.Outcome State Fault Refusal :=
  liftFw fun m => if m.lead p = p then f m p else m

/-! References (R203, R205). -/

/-- R203: REFIN is lost or out of range: every cluster that uses it loses PLL lock (R22). -/
def execRefinLoss : State → Host.Outcome State Fault Refusal := lift fun m =>
  if m.ph.refin then
    let m1 := (m.onPh fun b => { b with refin := false }).raise (evt 0x0306)
    (m1.each ((List.range 16).filter fun k => (m.cluster k).locked ∧ (m.cluster k).source = 1) fun k m => m.pllLoss k).settle
  else m

/-- R205: CLKREQ_N of a port is asserted. -/
def execClkreqAssert (p : EdgePort) : State → Host.Outcome State Fault Refusal := onLead p fun m p =>
  let m1 := m.onEdge p fun s => { s with clkreq := true, clkreqUsed := true }
  m1.refoutCheck (clusterOfPort p)

/-- R205: CLKREQ_N of a port is released. -/
def execClkreqRelease (p : EdgePort) : State → Host.Outcome State Fault Refusal := onLead p fun m p =>
  let m1 := m.onEdge p fun s => { s with clkreq := false, clkreqUsed := true }
  m1.refoutCheck (clusterOfPort p)

/-! Link width and power states (R192, R193). -/

/-- Width in effect on a port. -/
def EdgeSt.widthNow (s : EdgeSt) : Nat := if s.l0pWidth = 0 then s.tr.width else s.l0pWidth

/-- L0p can change the width of the port: flit mode, L0, x2 or wider (R192). -/
def EdgeSt.l0p (s : EdgeSt) : Bool := (decide (s.link = .l0) || decide (s.link = .l0p)) && decide (2 ≤ s.tr.flit) && decide (2 ≤ s.tr.width)

/-- The width of a port under L0p becomes w: lanes above it go to electrical idle, and a margin run on one of them ends (R193, R213). -/
def Mod.setWidth (m : Mod) (p w : Nat) : Mod :=
  let full := decide (w = (m.edge p).tr.width)
  let m1 := (if w = (m.edge p).widthNow then m else m.portCtr p 22 1).onEdge p fun s => { s with l0pWidth := if full then 0 else w, link := if full then .l0 else .l0p }
  let off := (m.mergedLanes p).take (m.edge p).tr.width |>.drop w
  ((m1.endMargins off).each off fun l m => m.onLane l fun s => { s with pstate := 2 }).each
    ((m.mergedLanes p).take w) fun l m => m.onLane l fun s => { s with pstate := 0 }

/-- R193: over two windows of 100 µs the transmit use was u1 and u2 percent of the width in effect; policy 2 halves it below 25 %. -/
def execL0pWidthHalve (p : EdgePort) (u1 u2 : Nat) : State → Host.Outcome State Fault Refusal := onLead p fun m p =>
  let s := m.edge p
  if s.l0p ∧ m.objv (mkOid 3 (0x200 + p) 3) = 2 ∧ u1 < 25 ∧ u2 < 25 ∧ 2 ≤ s.widthNow then m.setWidth p (s.widthNow / 2) else m

/-- R193: more than 64 KiB is queued at the egress of a port whose module started the halving: full width returns. -/
def execL0pWidthRestore (p : EdgePort) : State → Host.Outcome State Fault Refusal := onLead p fun m p =>
  let queued := ((List.range 8).map fun c => ((m.queue (qKey p c)).map fun e => pktBytes e.held.pkt).sum).sum
  if (m.edge p).link = .l0p ∧ m.objv (mkOid 3 (0x200 + p) 3) = 2 ∧ 65536 < queued then m.setWidth p (m.edge p).tr.width else m

/-- R193: the partner asks for width w; policies 1 and 2 accept. -/
def execPartnerWidthChange (p : EdgePort) (w : Nat) : State → Host.Outcome State Fault Refusal := onLead p fun m p =>
  let s := m.edge p
  if s.l0p ∧ 1 ≤ m.objv (mkOid 3 (0x200 + p) 3) ∧ w ∈ [1, 2, 4, 8, 16] ∧ w ≤ s.tr.width then m.setWidth p w else m

/-- R192: the partner and the port agree on L1 (0), on L1.1 (1) or L1.2 (2), which need CLKREQ_N connected and the bit of the L1 object, or on L2 under
PME_Turn_Off (3); a request for L0s (4) is refused. An L2 entry is no removal (R238); the link is down for its IDE streams (R232). -/
def execL1Entry (p : EdgePort) (kind : Fin 5) : State → Host.Outcome State Fault Refusal := onLead p fun m p =>
  let s := m.edge p
  let sub := m.objv (mkOid 3 (0x200 + p) 4)
  let allowed := match kind.val with
    | 1 => bit sub 0 && s.clkreqUsed
    | 2 => bit sub 1 && s.clkreqUsed
    | 4 => false
    | _ => true
  let ps := match kind.val with
    | 1 => 3
    | 2 => 4
    | _ => 1
  if !(decide (s.link = .l0) || decide (s.link = .l0p) || decide (s.link = .l1)) || !allowed then m
  else
    let m1 := (m.endMargins (m.mergedLanes p)).each (m.mergedLanes p) fun l m => m.onLane l fun s => { s with pstate := ps }
    if kind.val = 3 then (m1.onEdge p fun s => { s with link := .l2, dllUp := false, l0pWidth := 0 }).ideErase p
    else m1.onEdge p fun s => { s with link := .l1, l0pWidth := 0 }

/-! Training (R180, R208, R218, R225). -/

/-- Rate, width, flit format and protocols a port and its partner agree on (R180, R218, R115). -/
def Mod.negotiate (m : Mod) (p : Nat) (t : Trained) : Trained :=
  let cxl := t.cache || t.mem
  let flit := if t.flit ≤ 1 then 0 else 1
  let cap := min (m.objv (mkOid 3 (0x200 + p) 1)) (if 4 ≤ m.md.gov.step then 5 else 6)
  let rate := min (min t.rate cap) (if flit = 0 then 5 else 6)
  let wide := min t.width (4 * (m.membersOf p).length)
  let width := if 16 ≤ wide then 16 else if 8 ≤ wide then 8 else if 4 ≤ wide then 4 else if 2 ≤ wide then 2 else 1
  { t with
    rate := rate, width := width, io := true, cache := t.cache, mem := t.mem,
    flit := if cxl then (if flit = 0 then 1 else if t.flit = 3 ∧ m.objv (mkOid 4 p 6) = 1 then 3 else 2)
      else if flit = 1 ∧ 3 ≤ rate then 2 else 0 }

/-- The rates at which phases 0 to 3 run on the way to the negotiated rate: all from 8 GT/s, or the last alone, or none (R188). -/
def eqRatesOf (t : Trained) : List Nat :=
  match t.eq with
  | .phases => (List.range (t.rate + 1)).filter fun r => 3 ≤ r
  | .bypass => if 3 ≤ t.rate then [t.rate] else []
  | .notNeeded => []

/-- CXL.cache devices bound to a VCS, port p aside (R225). -/
def Mod.cacheDevices (m : Mod) (v p : Nat) : Nat :=
  ((List.range 48).filter fun q => q ≠ p ∧ (m.edge q).cacheDevice = true ∧ (m.edge q).farVcs = none ∧ m.binding q / 256 = v ∧ m.binding q ≠ 0xFFFF).length

/-- The cache capability of the device on port p is hidden from its host: bound to another module, or the fifth in its VCS (R225). -/
def Mod.hideCheck (m : Mod) (p : Nat) : Mod :=
  let s := m.edge p
  if s.cacheDevice = false then m
  else if s.farVcs.isSome then m.onEdge p fun s => { s with cacheHidden := true }
  else if m.binding p ≠ 0xFFFF ∧ 4 ≤ m.cacheDevices (m.binding p / 256) p ∧ s.cacheHidden = false then
    (m.onEdge p fun s => { s with cacheHidden := true }).raise (evt 0x0409 (Loc.edge p))
  else m

/-- The port may train now: enabled, powered, its partner out of reset and, on a device or pool port, its hot add at its PERST_N release (R235,
R237). -/
def Mod.mayTrainEdge (m : Mod) (p : Nat) : Bool :=
  let s := m.edge p
  decide (m.objv (mkOid 4 p 1) = 1) && m.portPowered p && !s.perst && !((m.membersOf p).any m.portTesting) &&
    (decide (m.role p = 1) || (m.downstream p && (decide (s.hotAdd = .released) || decide (s.hotAdd = .up)))) &&
    !(decide (s.link = .l0) || decide (s.link = .l0p))

/-- R218: the link reaches L0 with a partner of the abilities `t` (its highest rate and width; flit 3 latency-optimised and 2 standard 256-byte
flits, 1 68-byte flits or none); `loop` its Loopback bit (R208); `atomics` the AtomicOp sizes its device completes (R502);
`dvsec` the place of its CXL DVSEC in configuration space. -/
def execEdgeLinkTrained (p : EdgePort) (t : Trained) (loop : Bool) (atomics : List Nat) (dvsec : Option Nat) : State → Host.Outcome State Fault Refusal := onLead p fun m p =>
  if m.mayTrainEdge p = false then m
  else
    let m1 := if loop then m.raise (evt 0x0304 (Loc.edge p)) else m
    let n := m1.negotiate p t
    if (t.cache || t.mem) && decide (n.rate ≤ 2) then
      ((m1.portCtr p 12 1).onEdge p fun s => { s with link := .recovery, dllUp := false }).raise (evt 0x0409 (Loc.edge p))
    else
      let role := m1.role p
      let m2 := m1.onEdge p fun s =>
        { s with link := .l0, tr := n, eqRates := eqRatesOf n, dllUp := true, wasUp := true, l0pWidth := 0, viral := false, cacheDevice := n.cache && decide (role = 2),
                 atomics := if role = 2 then atomics else [], dvsec := if role = 2 then dvsec else none }
      let ls := m2.mergedLanes p
      let m3 := m2.each (ls.take n.width) fun l m => m.onLane l fun s =>
        { s.atRate n.rate with
          cdr := true, pstate := 0, eqKept := true, signal := true,
          precode := decide (n.rate = 6) && decide (m.objv (mkOid 3 l 2) = 1), txPre := decide (n.rate = 6) && t.precode.contains (ls.idxOf l),
          lastTx := 0, lastRx := 0, rev := n.reversed,
          logical := if n.reversed then n.width - 1 - ls.idxOf l else ls.idxOf l,
          pol := n.inverted.contains (ls.idxOf l), taps := n.taps.getD (ls.idxOf l) 0 % 2 ^ 40 }
      (m3.each ((ls.mapIdx fun i l => (i, l)).filter fun x => t.compliance.contains x.1) fun x m => m.emit (.pattern x.2 16 1)).hideCheck p

/-! Hot add (R237, R239). -/

/-- R237: PRSNT_N of a port is asserted; on an enabled device or pool port the 20 ms count starts. A gated region is ungated by REGION_UNGATE
first, and a region being withdrawn is not gated (R28). -/
def execPrsntAssert (p : EdgePort) : State → Host.Outcome State Fault Refusal := onLead p fun m p =>
  if (m.edge p).prsnt then m
  else m.onEdge p fun s =>
    { s with prsnt := true, prsntSince := m.now,
             hotAdd := if m.downstream p && decide (m.objv (mkOid 4 p 1) = 1) then .counting else s.hotAdd }

/-- R237, R239: PRSNT_N has been asserted for 20 ms: presence is accepted, a gated reference output starts, DPC is released, on a device port
once its host has cleared the vPPB's trigger. -/
def execPresenceAccepted (p : EdgePort) : State → Host.Outcome State Fault Refusal := onLeadFw p fun m p =>
  let s := m.edge p
  if s.hotAdd ≠ .counting ∨ s.prsnt = false ∨ m.portPowered p = false then m
  else
    let m1 := m.advanceTo (s.prsntSince + 20 * ms)
    let trig := match m.role p, s.farVcs with
      | 2, none => (m.vppb (m.binding p / 256) (m.binding p % 256)).dpcTriggered && decide (m.binding p ≠ 0xFFFF)
      | 2, some _ => s.farTrig
      | _, _ => false
    let m2 := m1.onEdge p fun s => { s with hotAdd := .powered, acceptedAt := m1.now, dpc := s.dpc && trig, perst := true }
    let m3 := if m.objv (mkOid 3 (0x100 + clusterOfPort p) 3) = 2 then m2.startRefout (clusterOfPort p) else m2
    (m3.raise (evt 0x0401 (Loc.edge p))).bump (mkOid 4 (0x080 + p) 1) 1

/-- R237: 100 ms after presence, once REFOUT has run for 100 ms, PERST_N is released. With the output off (mode 0), the 100 ms of presence alone
count. -/
def execHotAddPerstRelease (p : EdgePort) : State → Host.Outcome State Fault Refusal := onLeadFw p fun m p =>
  let s := m.edge p
  let c := m.cluster (clusterOfPort p)
  if s.hotAdd ≠ .powered ∨ m.portPowered p = false then m
  else
    let m1 := m.advanceTo ((if c.refout then max s.acceptedAt c.refoutSince else s.acceptedAt) + 100 * ms)
    m1.onEdge p fun s => { s with hotAdd := .released, perst := false, link := .training }

/-- R237: the hot-added link is in L0: the bound vPPB shows the device; on a pool port firmware has programmed the expander. -/
def execHotAddLinkUp (p : EdgePort) : State → Host.Outcome State Fault Refusal := onLeadFw p fun m p =>
  let s := m.edge p
  if s.hotAdd = .released ∧ s.dllUp = true then
    let m1 := m.onEdge p fun s => { s with hotAdd := .up }
    if m.role p = 2 ∧ m.binding p ≠ 0xFFFF then m1.showDevice p true else m1
  else m

/-- R238, R240: PRSNT_N deasserted for 10 µs. During the presence count it only restarts the count. -/
def execRemovalPrsnt (p : EdgePort) : State → Host.Outcome State Fault Refusal := onLead p fun m p =>
  let s := m.edge p
  let m1 := m.advance 10000
  if s.prsnt = false then m
  else if s.hotAdd = .counting then m.onEdge p fun s => { s with prsnt := false, hotAdd := .none }
  else if s.hotAdd ≠ .none ∨ s.wasUp = true then (m1.removal p true).settle
  else m1.onEdge p fun s => { s with prsnt := false }

/-- R238: the Data Link Layer goes down outside a requested reset or L2 entry. -/
def execRemovalLinkDown (p : EdgePort) : State → Host.Outcome State Fault Refusal := onLead p fun m p =>
  if (m.edge p).dllUp then (m.removal p false).settle else m

/-- Presence on the port is accepted (R237). -/
def EdgeSt.accepted (s : EdgeSt) : Bool := decide (s.hotAdd = .powered) || decide (s.hotAdd = .released) || decide (s.hotAdd = .up)

/-- The local port bound to vPPB n of VCS v of module sw, or of this one (R223). -/
def Mod.devicePort (m : Mod) (sw : Option Nat) (v n : Nat) : Option Nat :=
  match sw with
  | none => (m.boundPort v n).bind fun x => if x.1 = m.rt.id then some x.2 else none
  | some w => (List.range 48).find? fun p => match (m.edge p).farVcs with
    | some (w2, v2, n2, _) => decide (w2 = w) && decide (v2 = v) && decide (n2 = n)
    | none => false

/-- R239: the host clears the DPC trigger status of vPPB n of VCS v, of module sw where it is another's; with presence accepted again the port's DPC
is released. -/
def execDpcTriggerClear (v : HostVcs) (n : Vppb) : State → Host.Outcome State Fault Refusal := lift fun m =>
  let m1 := if v.sw.isNone then m.onVppb v.v n fun s => { s with dpcTriggered := false } else m
  match m.devicePort (v.sw.map (·.val)) v.v n with
  | some q => m1.onEdge q fun s => { s with farTrig := false, dpc := s.dpc && !s.accepted }
  | none => m1

/-! Unbinding (R224, R241). -/

/-- R224: the host turns slot power off, or disables the link, at vPPB n of VCS v, of module sw where it is another's (log 218): a pending unbind of the
vPPB completes at once. -/
def execHostSlotPowerOff (v : HostVcs) (n : Vppb) : State → Host.Outcome State Fault Refusal := lift fun m =>
  match m.devicePort (v.sw.map (·.val)) v.v n with
  | some q => if (m.edge q).unbind.isSome then m.unbindNow q else m
  | none => m

/-- R224, R241: the grace of a port's unbind expires: a surprise removal at its vPPB. -/
def execUnbindGraceExpiry (p : EdgePort) : State → Host.Outcome State Fault Refusal := onLead p fun m p =>
  match (m.edge p).unbind with
  | none => m
  | some (t, _) => (((((m.advanceTo t).deviceLost p false).unbindNow p).raise (evt 0x0405 (Loc.edge p)))).settle

/-! IDE (R231). -/

/-- R231: an integrity check fails on a secure stream: it is insecure, forwarding stops, and the port's outstanding requests complete as on its
removal. -/
def execIdeIntegrityFailure (p : EdgePort) (s : Fin 6) : State → Host.Outcome State Fault Refusal := onLead p fun m p =>
  if (m.ideSt p s).state ≠ 2 then m
  else
    let m1 := ((m.onIde p s fun x => { x with state := 3 }).onEdge p fun e => { e with stopped := true }).raise (evt 0x0404 (Loc.edge p))
    (if m.role p = 1 then m1.discardReads p else m1).settle

/-! Resets (R125, R130, R235, R236). -/

/-- R125: a hot reset received or issued on a port whose link is up. -/
def execHotReset (p : EdgePort) : State → Host.Outcome State Fault Refusal := onLead p fun m p =>
  if (m.edge p).dllUp then (m.hotReset p).settle else m

/-- R235: PERST_N of a host port is asserted. -/
def execHostPerstAssert (p : EdgePort) : State → Host.Outcome State Fault Refusal := onLead p fun m p =>
  if m.role p ≠ 1 ∨ (m.edge p).perst = true then m
  else
    let m1 := (((m.portDown p).discardReads p).hostLost p).onEdge p fun s => { s with perst := true, wasUp := (m.edge p).wasUp }
    match m.vcsOfPort p with
    | none => m1.settle
    | some v =>
      let m2 := m1.each (List.range 32) fun n m => m.onVppb v n fun s =>
        { s with pdChanged := false, dpcTriggered := false, dpcUr := false, bars := [] }
      let m3 := m2.onEd fun b => { b with vcs := tmod {} v (fun s => { s with biEnabled := false, mediaLog := [], configResets := s.configResets + 1 }) b.vcs }
      ((((m3.abortGroups fun g => m.sessionOfVcs v g.session).hostPfReset v).unbindAll v).propagate v (List.range 32)).settle

/-- R235: PERST_N of a host port is released, and the port trains. -/
def execHostPerstRelease (p : EdgePort) : State → Host.Outcome State Fault Refusal := onLead p fun m p =>
  if m.role p = 1 ∧ (m.edge p).perst = true then
    m.onEdge p fun s => { s with perst := false, link := if m.objv (mkOid 4 p 1) = 1 then .training else .disabled }
  else m

/-- R236: a Secondary Bus Reset on vPPB n reaches the port bound to it alone. -/
def execSecondaryBusReset (v : Vcs) (n : Vppb) : State → Host.Outcome State Fault Refusal := lift fun m => (m.propagate v [n.val]).settle

/-- R236: every request toward a remote port that waits for a reset has completed: the RESET message goes, and what was held follows it. -/
def execResetPropagateRemote (v : Vcs) (n : Vppb) : State → Host.Outcome State Fault Refusal := lift fun m =>
  match (m.vppb v n).resetHold, (m.vppb v n).remote with
  | true, some (sw, q) =>
    let busy := m.sw.trk.any fun x => (decide (x.2.kind = 1) || decide (x.2.kind = 2)) && !x.2.orphan && decide (x.2.dest = sw) && decide (x.2.destPort = q)
    if busy then m
    else (m.originate .hub 0 (tc7Pkt m.rt.id sw 7 q [])).onVppb v n fun s => { s with resetHold := false }
  | _, _ => m

/-- R314, R236: the i-th packet for the module is a RESET for a device port. -/
def execResetMessageReceived (i : Nat) : State → Host.Outcome State Fault Refusal := lift fun m =>
  match m.takeInbox i fun p => decide (p.tc = 7) && decide (fld p.body 56 8 = 7) with
  | (_, none) => m
  | (m1, some p) =>
    let q := fld p.body 0 56
    if q < 48 ∧ m1.role (m1.lead q) = 2 then (m1.resetPort (m1.lead q)).settle else m1

/-! The edge snoop filter (R243 to R246, R467). -/

/-- R243: the filter scan for the i-th lost host ends. -/
def execHostCacheScanDone (i : Nat) : State → Host.Outcome State Fault Refusal := lift fun m =>
  match m.ed.scans[i]? with
  | none => m
  | some (p, n) => (m.onEd fun b => { b with scans := b.scans.take i ++ b.scans.drop (i + 1) }).raise (evt 0x0406 (Loc.edge p) 0 n)

/-- Dirty data of a host goes into its line; an E line becomes M (R245, R446). -/
def Mod.mergeHost (m : Mod) (l mask data : Nat) (poison : Bool) : Mod :=
  m.onLine l fun s =>
    if s.st = .i then s
    else { s with data := writeMask mask data s.data, poison := if mask = fullMask then poison else s.poison || poison,
                  st := if s.st = .e then .m else s.st }

/-- The snoops held back for a port go while fewer than 256 are outstanding (R246). -/
def Mod.nextSnoop (m : Mod) (p : Nat) : Mod :=
  match m.ed.snoops.find? fun s => s.port = p ∧ s.sent = false with
  | none => m
  | some s =>
    let m1 := m.onEd fun b => { b with snoops := b.snoops.map fun x => if x = s then { x with sent := true } else x }
    ((m1.sendSnoop p s.line s.kind).portCtr p 19 1).filtCtr s.line (match s.kind with
      | .data => 3
      | .inv => 4)

/-- Snoops that a host has still to answer. -/
def Mod.outSnoops (m : Mod) (p : Nat) : List Snoop := m.ed.snoops.filter fun s => s.port = p ∧ s.sent = true

/-- R245: a host answers the i-th snoop outstanding to it, with its dirty line or without. -/
def execBisnpResponse (p : EdgePort) (i : Nat) (dirty : Option Nat) (poison : Bool) : State → Host.Outcome State Fault Refusal := onLead p fun m p =>
  match (if (m.edge p).stopped then none else (m.outSnoops p)[i]?) with
  | none => m
  | some s =>
    let m1 := m.onEd fun b => { b with snoops := b.snoops.erase s }
    let m2 := match dirty with
      | some d => ((m1.mergeHost s.line fullMask d poison).bump 0x43F004 1).filtCtr s.line 5
      | none => m1
    let m3 := if s.conflict then m2.emit (.biConflictAck p s.line) else m2
    (m3.nextSnoop p).settle

/-- R467: a host sends BIConflict for the line of the i-th snoop outstanding to it; it is acknowledged after the snoop. The host's request waits
behind the forward, as every access waits behind a line's pending work (R442). -/
def execBiconflict (p : EdgePort) (i : Nat) : State → Host.Outcome State Fault Refusal := onLead p fun m p =>
  match (m.outSnoops p)[i]? with
  | none => m
  | some s => m.onEd fun b => { b with snoops := b.snoops.map fun x => if x = s then { x with conflict := true } else x }

/-- R467: a host's write-back of the line of the i-th snoop outstanding to it: merged at once, and answered; the snoop completes with the host's
response. -/
def execHostWriteback (p : EdgePort) (i tag mask data : Nat) (poison : Bool) : State → Host.Outcome State Fault Refusal := onLead p fun m p =>
  match (if (m.edge p).stopped then none else (m.outSnoops p)[i]?) with
  | none => m
  | some s => ((m.mergeHost s.line (mask % 2 ^ 64) data poison).answerHost p tag 0 false 0 (m.lineTenant s.line)).settle

/-! Lane tests (R210, R212). -/

/-- R212: a margin run ends after its 2^32 symbols, with the errors counted. -/
def execMarginRunDone (l : Lane) (errors : Nat) : State → Host.Outcome State Fault Refusal := lift fun m =>
  let s := m.lane l
  if 5 ≤ fld s.test 29 3 ∧ s.done = false ∧ m.laneLive l = true then
    (m.advanceTo (s.runStart + 10 * 2 ^ 32 / symbolRate s.rate)).onLane l fun s => { s with done := true, abort := false, errors := min errors (2 ^ 32), symbols := 2 ^ 32 }
  else m

/-- The checker of a lane runs: modes 2 and 3, but for PRBS13Q at an NRZ rate (R209, R210). -/
def LaneSt.checking (s : LaneSt) : Bool := (decide (fld s.test 29 3 = 2) || decide (fld s.test 29 3 = 3)) && !(decide (fld s.test 25 4 = 2) && s.nrz)

/-- R210: the checker locks after 64 error-free symbols and counts; a lane that is locked has counted `errors` in `symbols` more. -/
def execCheckerLock (l : Lane) (errors symbols : Nat) : State → Host.Outcome State Fault Refusal := lift fun m =>
  if (m.lane l).checking = false then m
  else m.onLane l fun s =>
    if s.lock then { s with errors := (s.errors + errors) % 2 ^ 64, symbols := (s.symbols + symbols) % 2 ^ 64 } else { s with lock := true }

/-- R210: half or more of 1,024 symbols were in error; what the locked checker had counted last is given. -/
def execCheckerLockLoss (l : Lane) (errors symbols : Nat) : State → Host.Outcome State Fault Refusal := lift fun m =>
  if (m.lane l).lock = false ∨ (m.lane l).checking = false then m
  else
    let m1 := m.onLane l fun s => { s with lock := false, errors := (s.errors + errors) % 2 ^ 64, symbols := (s.symbols + symbols) % 2 ^ 64 }
    (m1.bump (mkOid 3 l 9) 1).raise (evt 0x0305 (Loc.port (l / 4)))

end Sys2Proof.Machine
end

