-- ==== Sys2Proof/Machine/Service.lean ====
section
/-! DEFINITION. The commands of queue pairs, the data mover and virtual functions (R511 to R531). Queue registers are those of block j of VF slot
n; a command of a slot whose VF is not presented changes nothing. -/
namespace Sys2Proof.Machine

/-- The queue pair at local index j of a slot that its VF reaches (R517). -/
def Mod.localQp (m : Mod) (n j : Nat) : Option Nat :=
  if m.vfShown n then (m.qpsOf n).find? fun q => fld (m.objv (qpOwnerOid q)) 0 6 = j else none

/-- Change the queue pair of a slot's block. -/
def Mod.onBlock (m : Mod) (n j : Nat) (f : Nat → Mod → Mod) : Mod :=
  match m.localQp n j with
  | some q => f q m
  | none => m

/-- R519: a write of SQ_TAIL. -/
def execSqTailWrite (n : VfSlot) (j : Fin 64) (v : Nat) : State → Host.Outcome State Fault Refusal := lift fun m =>
  m.onBlock n j fun q m => m.onQp q fun s => { s with sqTail := v % 2 ^ s.sqs }

/-- R519: a write of CQ_HEAD. -/
def execCqHeadWrite (n : VfSlot) (j : Fin 64) (v : Nat) : State → Host.Outcome State Fault Refusal := lift fun m =>
  m.onBlock n j fun q m => m.onQp q fun s => { s with cqHead := v % 2 ^ s.cqs }

/-- S and C of a QCFG value: a value outside 4 to 16 leaves the field. -/
def QpSt.sizes (s : QpSt) (v : Nat) : QpSt :=
  let ok := fun (x : Nat) => decide (4 ≤ x ∧ x ≤ 16)
  { s with sqs := if ok (fld v 24 5) then fld v 24 5 else s.sqs, cqs := if ok (fld v 19 5) then fld v 19 5 else s.cqs }

/-- The queue pair starts anew (R518). -/
def QpSt.restart (s : QpSt) : QpSt :=
  { s with st := .running, closing := false, errCode := 0, sqHead := 0, sqTail := 0, cqHead := 0, cqTail := 0, phase := true }

/-- ENABLE is cleared: quiesced, then disabled (R518, R529). -/
def QpSt.close (s : QpSt) : QpSt :=
  if s.st = .quiesced then { s with enable := false, st := .disabled, closing := false }
  else
    { s with enable := false, closing := true, st := .quiescing,
             started := s.started.map fun d => if d.migrate.isSome then { d.fail 10 0 none with migrate := none } else d }

/-- A write of QCFG (R517, R518): while ENABLE is 1 sizes do not change, and an attempt is counted. -/
def Mod.qcfgWrite (m : Mod) (n q v : Nat) : Mod :=
  let s := m.qp q
  let on := bit v 31
  let vec := fun (s : QpSt) => { s with vec := fld v 8 8 }
  if s.enable then
    let same := decide (fld v 24 5 = s.sqs) && decide (fld v 19 5 = s.cqs)
    let m1 := if same then m else m.bump (vfOid n 9) 1
    m1.onQp q fun s => if on then vec s else (vec s).close
  else
    m.onQp q fun s =>
      let s1 := if s.closing then vec s else (vec s).sizes v
      if on then (if s.closing then { s1 with enable := true } else { s1 with enable := true }.restart) else s1

/-- R518: a write of QCFG with ENABLE set. -/
def execQcfgEnable (n : VfSlot) (j : Fin 64) (v : Nat) : State → Host.Outcome State Fault Refusal := lift fun m =>
  m.onBlock n j fun q m => m.qcfgWrite n q (v % 2 ^ 31 + 2 ^ 31)

/-- R518: a write of QCFG with ENABLE clear. -/
def execQcfgDisable (n : VfSlot) (j : Fin 64) (v : Nat) : State → Host.Outcome State Fault Refusal := lift fun m =>
  (m.onBlock n j fun q m => m.qcfgWrite n q (v % 2 ^ 31)).settle

/-- R519, R531: the data mover of die d fetches the next descriptor, by deficit round robin; `words` are the eight words that the submission
queue holds there. Among a slot's queue pairs the one with the fewest started descriptors is served. -/
def execDescriptorFetch (d : Die) (words : List Nat) : State → Host.Outcome State Fault Refusal := liftFw fun m =>
  let qs := m.fetchable d
  match m.serveSlot d ((List.range 256).filter fun n => qs.any fun q => m.qpSlot q == n) with
  | none => m
  | some (n, s) =>
    let mine := qs.filter fun q => m.qpSlot q = n
    let q := mine.foldl (fun a b => if (m.qp b).started.length < (m.qp a).started.length then b else a) (mine.headD 0)
    let cost := max 64 (fld (words.getD 1 0) 0 32)
    (m.chargeSlot d n cost s).startDesc q words

/-! Operations: descriptor `num` of queue pair q advances until one of its accesses awaits an answer. -/

/-- R521: COPY. -/
def execOpCopy (q : Qp) (num : Nat) (residue : Bool) : State → Host.Outcome State Fault Refusal := lift fun m => m.runOp q num 1 residue

/-- R521: FILL. -/
def execOpFill (q : Qp) (num : Nat) (residue : Bool) : State → Host.Outcome State Fault Refusal := lift fun m => m.runOp q num 2 residue

/-- R521: ZERO. -/
def execOpZero (q : Qp) (num : Nat) (residue : Bool) : State → Host.Outcome State Fault Refusal := lift fun m => m.runOp q num 3 residue

/-- R521: COMPARE. -/
def execOpCompare (q : Qp) (num : Nat) (residue : Bool) : State → Host.Outcome State Fault Refusal := lift fun m => m.runOp q num 4 residue

/-- R521: CRC32C. -/
def execOpCrc32c (q : Qp) (num : Nat) (residue : Bool) : State → Host.Outcome State Fault Refusal := lift fun m => m.runOp q num 5 residue

/-- R521: CRC64. -/
def execOpCrc64 (q : Qp) (num : Nat) (residue : Bool) : State → Host.Outcome State Fault Refusal := lift fun m => m.runOp q num 6 residue

/-- R521: SHAKE256. -/
def execOpShake256 (q : Qp) (num : Nat) (residue : Bool) : State → Host.Outcome State Fault Refusal := lift fun m => m.runOp q num 7 residue

/-- R521: FETCH_ADD. -/
def execOpFetchAdd (q : Qp) (num : Nat) (residue : Bool) : State → Host.Outcome State Fault Refusal := lift fun m => m.runOp q num 8 residue

/-- R521: CAS. -/
def execOpCas (q : Qp) (num : Nat) (residue : Bool) : State → Host.Outcome State Fault Refusal := lift fun m => m.runOp q num 9 residue

/-- R522: MIGRATE. -/
def execOpMigrate (q : Qp) (num : Nat) : State → Host.Outcome State Fault Refusal := lift fun m => m.runOp q num 10 false

/-- R522: FENCE. -/
def execOpFence (q : Qp) (num : Nat) : State → Host.Outcome State Fault Refusal := lift fun m => m.runOp q num 11 false

/-- R522: NOTIFY. -/
def execOpNotify (q : Qp) (num : Nat) : State → Host.Outcome State Fault Refusal := lift fun m => m.runOp q num 12 false

/-- R522, R523: descriptor `num` of queue pair q has run and its writes are complete: its record is written while the completion queue has
room. -/
def execDescriptorComplete (q : Qp) (num : Nat) : State → Host.Outcome State Fault Refusal := lift fun m =>
  let m1 := m.absorbed q
  match m1.desc q num with
  | none => m1
  | some d =>
    if m.md.mode.pastBootMode = true ∧ d.ran ∧ d.writes = [] ∧ d.silent = false ∧ (m1.qp q).cqRoom = true ∧ (m1.fnSt (vfFn (m1.qpSlot q))).flr = false then
      (((m1.onQp q fun s => { s with started := s.started.filter fun x => x.num ≠ num }).countDesc q d).writeRecord q d).settle
    else m1

/-- R529: a quiescing queue pair has no descriptor left: STATE 4, or disabled when ENABLE was cleared. -/
def execQuiesceDone (q : Qp) : State → Host.Outcome State Fault Refusal := lift fun m =>
  let m1 := m.absorbed q
  let s := m1.qp q
  if s.st = .quiescing ∧ s.started = [] then
    (m1.onQp q fun s =>
      if s.closing then (if s.enable then s.restart else { s with st := .disabled, closing := false }) else { s with st := .quiesced }).raise
      (evt 0x0B02 Loc.module q)
  else m1

/-! Functions (R513, R530). -/

/-- R530: a Function Level Reset of VF slot n, steps 1 and 2. -/
def execFunctionLevelReset (n : VfSlot) : State → Host.Outcome State Fault Refusal := lift fun m => if m.vfShown n then m.flrStart n else m

/-- R530: the writes of the slot's queue pairs are complete; steps 3 and 4. -/
def execFlrComplete (n : VfSlot) : State → Host.Outcome State Fault Refusal := lift fun m =>
  let m1 := m.each (m.qpsOf n) fun q m => m.absorbed q
  if m1.flrReady n then m1.flrEnd n else m1

/-- R513: the host of VCS v clears VF Enable. -/
def execVfEnableClear (v : Vcs) : State → Host.Outcome State Fault Refusal := lift fun m =>
  if (m.fnSt (hostFn v)).vfEnable then
    (m.each (m.slotsOf v) fun n m => m.flrStart n).onFn_ (hostFn v) fun s => { s with vfEnable := false }
  else m

/-- R513: the host of VCS v sets VF Enable. -/
def execVfEnableSet (v : Vcs) : State → Host.Outcome State Fault Refusal := lift fun m => m.onFn_ (hostFn v) fun s => { s with vfEnable := true }

/-- R515: a write to BAR4 is discarded; the first failure is kept in WIN_ERR with ACCESS_DENIED. -/
def execBar4Write (off v : Nat) : State → Host.Outcome State Fault Refusal := lift fun m =>
  let _ := (off, v)
  m.onDi fun d => { d with windows := tmod {} 0 (fun w => if w.errStatus = 0 then { w with errStatus := 3, errOid := 0 } else w) d.windows }

end Sys2Proof.Machine
end

