-- ==== Sys2Proof/Machine/RefuseOps.lean ====
section
/-! DEFINITION. The refusals that the chapters state for writes of single objects (R61), by area, and the writable fields of laid-out words. -/
namespace Sys2Proof.Machine

/-- RANGE when c holds. -/
def rangeIf (c : Bool) : Sts := if c then .range else .ok

/-- Writable bits of a laid-out word, none for an object without read-only fields. -/
def fieldMask (oid : Nat) : Option Nat :=
  let ix := oid / 256
  let el := oid % 256
  if el = 0 then (if oid = 0xA05000 then some 0x0FFFFFFFFFFF0000 else none)
  else if 0x6100 ≤ ix ∧ ix < 0x6120 then some 0xC000F0FF0FF0FF0F
  else if 0x6200 ≤ ix ∧ ix < 0x6220 then some 0xDFC00FFF
  else if 0x8700 ≤ ix ∧ ix < 0x8740 then some 0xFF000000FFFFFFFF
  else if (ix = 0x8900 ∨ ix = 0x8901) ∧ el = 1 then some 0xF8000000
  else if 0x9100 ≤ ix ∧ ix < 0x9180 then some 0xFFFFFF83
  else if 0x9200 ≤ ix ∧ ix < 0x9400 then some 0xFFFFFFFFFFE00000
  else if 0x9400 ≤ ix ∧ ix < 0x9600 then some 0xFFFFFFFFFF00FFFF
  else if 0x9600 ≤ ix ∧ ix < 0x9E00 then some 0xFFE0FFE0FFE0FFE0
  else if 0x9E00 ≤ ix ∧ ix < 0xA000 then some 0xFFFFF00000000000
  else if 0xB200 ≤ ix ∧ ix < 0xB300 ∧ el = 1 then some 0xBF0000FF
  else if 0xB400 ≤ ix ∧ ix < 0xB420 then some 0xBFFF
  else if 0xC100 ≤ ix ∧ ix < 0xC120 ∧ el = 2 then some 0xFF000FFF
  else if ix = 0xC020 then some 0x80000FFF
  else if 0xD100 ≤ ix ∧ ix < 0xD108 ∧ el = 3 then some 0xC00000FF
  else if 0xE100 ≤ ix ∧ ix < 0xE140 ∧ el = 2 then some 0xFFFFFFFC00000000
  else none

/-- The value an object takes from a write: read-only fields keep theirs, but for the firmware's own writes. -/
def Mod.written (m : Mod) (p : Priv) (oid v : Nat) : Nat :=
  match fieldMask oid with
  | some k => if p = .root then v else m.objv oid - (m.objv oid &&& k) + (v &&& k)
  | none => v

/-! Areas 0 to 5. -/

/-- Elements of a port record that only the lead member of a merged port writes (R221). -/
def leadElements : List Nat := [1, 2, 3, 4, 6, 7, 0xA]

/-- A binding write is refused (R219, R222, R223): a port already bound, a role that does not fit, a place that is taken or does not exist. -/
def Mod.bindingBad (m : Mod) (p v : Nat) : Bool :=
  if v = 0xFFFF then false
  else
    let vcs := v / 256
    let n := v % 256
    decide (m.binding p ≠ 0xFFFF) || decide (48 ≤ vcs) ||
      (if n = 0xFF then decide (m.role p ≠ 1) || decide (m.objv (mkOid 4 (0x100 + vcs) 1) ≠ 0xFF)
       else decide (n = 0) || decide (32 ≤ n) || decide (m.role p ≠ 2) || ((m.edge p).farVcs.isNone && (m.boundPort vcs n).isSome))

/-- Areas 0 to 5. The feed limits and the fault timer have steps of 100 mA and 100 µs (R148, R150): a value between two steps is RANGE (DEDUCED, log entry
211). -/
def Mod.refuseLow (m : Mod) (oid v : Nat) : Sts :=
  let ix := oid / 256
  let el := oid % 256
  if oid = 0x001400 then rangeIf (decide (v ≠ 0xA5A5))
  else if ix = 0x1010 ∨ oid = 0x101200 then rangeIf (decide (v % 100 ≠ 0))
  else if oid = 0x200100 then rangeIf (m.modeRequest v).isNone
  else if ix = 0x2030 then
    rangeIf (decide (fld v 56 8 ≠ 0) && match unitOf v with
      | some u => m.unitListed u
      | none => true)
  else if 0x3000 ≤ ix ∧ ix < 0x3100 ∧ el = 4 then rangeIf (!m.testOk (ix - 0x3000) v)
  else if 0x3100 ≤ ix ∧ ix < 0x3110 ∧ el ≤ 2 then rangeIf (decide (v = 1) && decide (ix % 2 = 1))
  else if 0x3230 ≤ ix ∧ ix < 0x3240 then .range
  else if 0x4000 ≤ ix ∧ ix < 0x4030 then
    let p := ix - 0x4000
    if leadElements.contains el = true ∧ m.lead p ≠ p then .range
    else if el = 1 then rangeIf (decide (v = 1) && (decide (m.role p = 0) || (m.membersOf p).any m.portTesting || m.tp.scanning))
    else if el = 2 then rangeIf (decide (3 < v) || decide (m.objv (mkOid 4 p 1) = 1))
    else if el = 3 then rangeIf (m.bindingBad p v)
    else if el = 4 then rangeIf (decide (0xFFF < v))
    else .ok
  else if 0x4100 ≤ ix ∧ ix < 0x4130 ∧ el = 6 then rangeIf (decide (0xFFF < v))
  else if 0x4400 ≤ ix ∧ ix < 0x4410 then rangeIf (decide (v = 2) && decide (ix % 2 = 1))
  else if 0x5000 ≤ ix ∧ ix < 0x5010 then
    let n := ix - 0x5000
    if el = 2 then rangeIf (decide (v = 0) && (m.fabFenced n || (decide ((m.link n).st = .retired) && (m.portTesting (48 + n) || m.tp.scanning))))
    else if el = 8 then rangeIf (decide ((m.link n).st ≠ .active))
    else .ok
  else if 0x5100 ≤ ix ∧ ix < 0x5110 then rangeIf (decide (fld v 16 16 = 0) || decide (4095 < fld v 16 16) || decide (8191 < fld v 0 16))
  else .ok

/-! Areas 6 to 9. -/

/-- A parcel that a sharing set or a grant names has extents bound (R390). -/
def Mod.setInUse (m : Mod) (s : Nat) : Bool := m.descs.any fun i => decide (fld (m.d0 i) 41 10 = s) && decide (m.dBinds i ≠ 0) && decide (m.dState i ≠ 0)

/-- A write lowers a grant of a bound parcel (R390). -/
def Mod.grantLowered (m : Mod) (old new : Nat) : Bool :=
  let same := decide (fld old 8 24 = fld new 8 24) && bit new 7
  let kept := same && (bit new 1 || !bit old 1) && (bit new 0 || bit new 1 || !bit old 0)
  bit old 7 && (bit old 0 || bit old 1) && decide (m.dBinds (fld old 16 16) ≠ 0) && decide (m.dState (fld old 16 16) ≠ 0) && !kept

/-- A write of an extent entry that R392 permits. -/
def extWriteOk (old new : Nat) : Bool :=
  let s := extState old
  let t := extState new
  let fields := decide (fld old 4 57 = fld new 4 57)
  if s = 0 then decide (t = 1) && decide (extVcs new < 48)
  else fields && ((decide (s = 3) && decide (t = 4)) || (decide (3 ≤ s ∧ s ≤ 5) && decide (t = 6)) || (decide (s = 7) && decide (t = 0)))

/-- A manager's write of D6 (R387, R401, R403). -/
def Mod.migWriteOk (m : Mod) (i v : Nat) : Bool :=
  let cur := m.mState i
  let runs := decide (1 ≤ cur ∧ cur ≤ 3)
  let same := decide (fld v 44 17 = fld (m.objv (descOid 6 i)) 44 17)
  match fld v 61 3 with
  | 0 => !runs
  | 1 => (decide (cur = 1) && same) || (!runs && m.migDestOk i (fld v 45 16))
  | 2 | 3 => decide (fld v 61 3 = cur) && same
  | 5 => same || !runs
  | _ => false

/-- The rings of service memory: base object, size object, whether a change is open to them (R381, R515). -/
def Mod.ringBad (m : Mod) (oid v : Nat) : Bool :=
  let samp := decide (oid / 256 = 0x8900) || decide (oid / 256 = 0x8901)
  let isBase := decide (oid % 256 = 3) || decide (oid = 0xE04100)
  let base := if isBase then v else m.objv (if samp then oid - 1 else 0xE04100)
  let size := if isBase then m.objv (if samp then oid + 1 else 0xE04200) else v
  (samp && bit (m.objv (oid / 256 * 256 + 1)) 31) || decide (base % 4096 ≠ 0) || decide (base < 0x70000000) || decide (0x80000000 < base + size) ||
    !((List.range 15).any fun k => size = 4096 * 2 ^ k)

def Mod.refuseMid (m : Mod) (p : Priv) (oid v : Nat) : Sts :=
  let ix := oid / 256
  let el := oid % 256
  if oid = 0x600100 then rangeIf (decide (0xFFE < v))
  else if oid = 0x603200 then if m.ti.st ≠ .grandmaster then .mode else rangeIf (decide (v < m.meridian))
  else if 0x6100 ≤ ix ∧ ix < 0x6120 ∧ el ≠ 0 then
    let d := (ix - 0x6100) * 128 + (el - 1)
    rangeIf (decide (d = m.rt.id) || decide (d = 0) || decide (d = 0xFFF) || (decide (p ≠ .root) && decide (m.objv 0x601000 = 0)))
  else if 0x6200 ≤ ix ∧ ix < 0x6220 then rangeIf (decide (48 ≤ fld v 22 6))
  else if 0x7020 ≤ ix ∧ ix < 0x7023 ∧ el = 2 then .range
  else if 0x7100 ≤ ix ∧ ix < 0x7140 ∧ el = 2 then rangeIf (decide (0x7130 ≤ ix))
  else if (ix = 0x8900 ∨ ix = 0x8901) ∧ (el = 3 ∨ el = 4) then rangeIf (m.ringBad oid v)
  else if oid = 0x901100 then rangeIf (bit (m.objv (bearingOid v)) 63 || decide (4095 < v))
  else if oid = 0x901200 then
    let i := fld v 0 16
    rangeIf (decide (m.dState i ≠ 5) || decide (2 ≤ fld v 30 2) || (decide (fld v 30 2 = 0) && !m.targetsUp i))
  else if oid = 0x901300 then rangeIf (decide (m.dState v ≠ 7))
  else if 0x9040 ≤ ix ∧ ix < 0x9060 then rangeIf (!extWriteOk (m.objv oid) v)
  else if 0x9080 ≤ ix ∧ ix < 0x9088 then rangeIf (decide (v ≠ m.objv oid) && m.setInUse ((ix - 0x9080) * 128 + (el - 1)))
  else if 0x9100 ≤ ix ∧ ix < 0x9180 then rangeIf ((bit v 1 && !bit v 0) || m.grantLowered (m.objv oid) v)
  else if 0x9200 ≤ ix ∧ ix < 0x9400 then rangeIf (decide (fld v 58 3 = 7) || decide (4 < fld v 55 3) || decide (fld v 52 2 = 3))
  else if 0x9600 ≤ ix ∧ ix < 0x9E00 then rangeIf ((List.range 4).any fun j => bit v (16 * j + 15) && decide (48 ≤ fld v (16 * j + 9) 6))
  else if 0x9E00 ≤ ix ∧ ix < 0xA000 ∧ p ≠ .root then rangeIf (!m.migWriteOk ((ix - 0x9E00) * 128 + (el - 1)) v)
  else .ok

/-! Areas A to C, E. -/

/-- VF Enable of a VCS's host PF is set. -/
def Mod.vfOn (m : Mod) (v : Nat) : Bool := (m.fnSt (hostFn v)).vfEnable

/-- A slot's assignment may not change now (R512). -/
def Mod.assignBad (m : Mod) (n v : Nat) : Bool :=
  decide (48 ≤ fld v 24 6) || (m.slotUsed n && m.vfOn (m.vfVcs n)) || (bit v 31 && m.vfOn (fld v 24 6))

/-- Filters of a filtered counter's control that its SOURCE permits (R586). -/
def filterOk (v : Nat) : Bool :=
  let s := fld v 58 5
  let k := fld v 52 2
  let kinds := if s ≤ 5 then [0, 1, 2] else if s = 6 then [0, 1] else if s ≤ 9 then [0, 2] else [0, 3]
  decide (s ≤ 11) && kinds.contains k && (decide (s ≤ 3) || decide (fld v 36 8 = 0xFF)) && !(decide (s = 9) && bit v 35)

def Mod.refuseHigh (m : Mod) (p : Priv) (oid v : Nat) : Sts :=
  let ix := oid / 256
  let el := oid % 256
  if oid = 0xA06100 then rangeIf (decide (v = m.rt.id))
  else if 0xB100 ≤ ix ∧ ix < 0xB130 ∧ el = 2 then rangeIf (decide (m.vectorsFree + m.objv oid < v))
  else if 0xB200 ≤ ix ∧ ix < 0xB300 then
    let n := ix - 0xB200
    if el = 1 then rangeIf (m.assignBad n v)
    else if el = 3 then rangeIf (decide (m.objv (vfOid n 4) < v) || decide (m.vectorsFree + m.objv oid < v))
    else if el = 4 then rangeIf ((m.slotUsed n && m.vfOn (m.vfVcs n)) || decide (v < m.objv (vfOid n 3)))
    else .ok
  else if 0xB400 ≤ ix ∧ ix < 0xB420 ∧ el ≠ 0 then
    let q := 128 * (ix - 0xB400) + (el - 1)
    let taken := bit v 15 && (m.qpsOf (fld v 6 8)).any fun x => decide (x ≠ q) && decide (fld (m.objv (qpOwnerOid x)) 0 6 = fld v 0 6)
    rangeIf (taken || (m.qpOwned q && !((m.qp q).st = .quiesced ∨ (m.qp q).st = .disabled)))
  else if 0xC100 ≤ ix ∧ ix < 0xC120 ∧ el ≠ 0 then
    if m.entryLocked (ix - 0xC100) then .accessDenied
    else if el = 1 then rangeIf (decide (v % 4096 ≠ 0))
    else rangeIf (!(decide (12 ≤ fld v 24 6) && decide (fld v 24 6 ≤ 36)) || (decide (p ≠ .root) && decide (ix < 0xC110)))
  else if ix = 0xC020 ∧ el ≠ 0 then if m.entryLocked (0x20 + (el - 1)) then .accessDenied else rangeIf (slotXBits v)
  else if oid = 0xE01500 then rangeIf (!m.ackOk v)
  else if oid = 0xE04100 ∨ oid = 0xE04200 then rangeIf (m.ringBad oid v)
  else if 0xE100 ≤ ix ∧ ix < 0xE140 ∧ el = 2 then rangeIf (!filterOk v)
  else if 0xE200 ≤ ix ∧ ix < 0xE21E ∧ el ≠ 0 then
    let code := (ix - 0xE200) / 2 * 256 + (ix - 0xE200) % 2 * 128 + (el - 1)
    rangeIf (decide (4 < v) || (decide (code ∈ [0x0217, 0x0E01, 0x0E02]) && decide (v ≠ 4)))
  else .ok

end Sys2Proof.Machine
end

