-- ==== Sys2Proof/Machine/WriteOps.lean ====
section
/-! DEFINITION. What an accepted write of a single object does, by area, beyond storing its value (R56, R57 and the rule of each object). -/
namespace Sys2Proof.Machine

/-- What a write has come to: the state, the item's status, the items of the answer beside it, the holder of a lock. -/
structure WRes where
  mod : Mod
  sts : Sts := .ok
  items : List RItem := []
  holder : Nat := 0
  /-- what follows once the response is sent -/
  after : Mod → Mod := id
  /-- the answer comes with a later command -/
  deferred : Bool := false

/-- A write of the object goes to module flash now: it persists, and is not one of area 1 in STANDBY or BOOT, which goes there in the next BOOT (R57, R138). -/
def Mod.flashNow (m : Mod) (r : ObjRow) (oid : Nat) : Bool :=
  r.pers && !(decide (oid / 2 ^ 20 = 1) && (decide (m.md.mode = .standby) || decide (m.md.mode = .boot)))

/-- Store a value: in flash too when it persists; area 1 also in the power-entry controller (R57, R138). -/
def Mod.store (m : Mod) (r : ObjRow) (oid v : Nat) : Mod :=
  let m1 := if m.flashNow r oid then m.setPers oid v else m.setObj oid v
  if oid / 2 ^ 20 = 1 ∧ r.pers = true then m1.onDi fun d => { d with p13 := tset (objDefault oid) oid v d.p13 } else m1

/-! Areas 2 to 5. -/

/-- An entry of the fence list is written: a unit is fenced for the manager's cause 0, or the entry is freed and its unit stays fenced until the
next BOOT (R18, R131). -/
def Mod.fenceWrite (m : Mod) (el v : Nat) : Mod :=
  if fld v 56 8 = 0 then m.setPers (fenceOid el) 0
  else match unitOf v with
    | none => m
    | some u =>
      let m1 := ((m.setPers (fenceOid el) (m.fenceWord u 0)).raise (evt 0x0220 (Loc.ofUnit u) el)).onFn fun b => { b with overflow := without u b.overflow }
      if m.unitFenced u then m1 else m1.fenceEffect u

/-- A port is enabled or disabled (R220, R237, R240). A disabled port whose link is up loses it as by a removal. -/
def Mod.portEnable (m : Mod) (r : ObjRow) (p v : Nat) : Mod :=
  let oid := mkOid 4 p 1
  let k := clusterOfPort p
  if v = 1 then
    let m1 := m.store r oid 1
    if m.objv oid = 1 then m1
    else
      (m1.onEdge p fun s =>
        { s with link := if m.role p = 1 ∧ s.perst = false then .training else .detect,
                 hotAdd := if m.downstream p && s.prsnt && decide (s.hotAdd = .none) then .counting else s.hotAdd }).refoutCheck k
  else
    let m1 := m.store r oid 0
    let m2 := if (m.edge p).dllUp then m1.removal p false else m1.edgeIdle p
    (m2.onEdge p fun s => { s with link := .disabled, hotAdd := .none }).refoutCheck k

/-- A role is written to a disabled port; a downstream port's PERST_N is the module's to assert (R219, R220). -/
def Mod.portRole (m : Mod) (r : ObjRow) (p v : Nat) : Mod :=
  (m.store r (mkOid 4 p 2) v).onEdge p fun s => { s with perst := decide (v = 2) || decide (v = 3), hotAdd := .none }

/-- A device that stands bound shows itself through its vPPB's slot, at once or by the hot add it still goes through (R223). -/
def Mod.showBound (m : Mod) (p : Nat) : Mod :=
  let s := m.edge p
  if s.hotAdd = .up then (m.showDevice p true).hideCheck p
  else if s.prsnt ∧ s.hotAdd = .none ∧ m.objv (mkOid 4 p 1) = 1 then m.onEdge p fun s => { s with hotAdd := .counting }
  else m

/-- A binding is written (R222 to R224): 256 v + n, element FF naming the upstream port; 0xFFFF unbinds. -/
def Mod.bindWrite (m : Mod) (r : ObjRow) (p v : Nat) : Mod :=
  let oid := mkOid 4 p 3
  let old := m.binding p
  let upOf := fun (b : Nat) => mkOid 4 (0x100 + b / 256) 1
  if v ≠ 0xFFFF then
    if v % 256 = 0xFF then (m.store r oid v).setPers (upOf v) p else (m.store r oid v).showBound p
  else if old = 0xFFFF then m
  else if old % 256 = 0xFF then (m.store r oid v).setPers (upOf old) 0xFF
  else if (m.edge p).hotAdd ≠ .up then (m.unbindNow p).onEdge p fun s => { s with hotAdd := .none, perst := true }
  else
    let host := m.objv (upOf old)
    let hostDown := (m.edge p).farVcs.isNone && (decide (host = 0xFF) || !(m.edge host).dllUp)
    if hostDown then m.unbindNow p
    else (m.tellVppb p 1 fun s => { s with pdChanged := true }).onEdge p fun s => { s with unbind := some (m.now + m.objv (mkOid 4 p 7) * ms, old) }

/-- Retire of a fabric port, 5.0pp.02: written false, a retired one enters DOWN, for which R273 gives no cause code: 0 (R273, R274). -/
def Mod.retireWrite (m : Mod) (n v : Nat) : Mod :=
  if v = 1 then m.linkRetire n 13
  else if (m.link n).st = .retired then
    ((m.onLink n fun s => { s with st := .down, cause := 0 }).linkObj n 0xB 1).raise (evt 0x0504 (Loc.fab n) 0)
  else m

def Mod.effectLow (m : Mod) (r : ObjRow) (oid v : Nat) : WRes :=
  let ix := oid / 256
  let el := oid % 256
  let st := m.store r oid v
  if oid = 0x001400 then { mod := m.onMd fun b => { b with restoreDefaults := true } }
  else if ix = 0x1010 then { mod := st.limitWritten (el - 1) v }
  else if oid = 0x101100 then { mod := st.limitWritten 2 v }
  else if oid = 0x102100 then { mod := m.clearTrips v }
  else if oid = 0x102300 then { mod := m.clearEnergy v }
  else if oid = 0x200100 then { mod := st, after := (m.modeRequest v).getD id }
  else if ix = 0x2030 ∧ el ≠ 0 then { mod := (m.fenceWrite el v).settle }
  else if 0x3000 ≤ ix ∧ ix < 0x3100 ∧ el = 4 then { mod := m.testWrite (ix - 0x3000) v }
  else if 0x3100 ≤ ix ∧ ix < 0x3110 ∧ el = 3 then { mod := st.refoutCheck (ix - 0x3100) }
  else if 0x3200 ≤ ix ∧ ix < 0x3230 ∧ el = 4 then { mod := st.refoutCheck (clusterOfPort (ix - 0x3200)) }
  else if 0x4000 ≤ ix ∧ ix < 0x4030 then
    let p := ix - 0x4000
    if el = 1 then { mod := (m.portEnable r p v).settle }
    else if el = 2 then { mod := m.portRole r p v }
    else if el = 3 then { mod := m.bindWrite r p v |>.settle }
    else if el = 4 then { mod := st.recordDirty }
    else { mod := st }
  else if 0x4100 ≤ ix ∧ ix < 0x4130 ∧ el = 6 then { mod := st.recordDirty }
  else if 0x5000 ≤ ix ∧ ix < 0x5010 ∧ el = 2 then { mod := (st.retireWrite (ix - 0x5000) v).settle }
  else if 0x5000 ≤ ix ∧ ix < 0x5010 ∧ el = 8 then
    let n := ix - 0x5000
    { mod := if v = 1 then m.linkRetrain n 16 else m }
  else { mod := st }

/-! Areas 6 to 9. -/

/-- An extent entry is written by the manager (R392 to R395). -/
def Mod.extWrite (m : Mod) (e v : Nat) : Mod :=
  match extState (m.objv (extOid e)), extState v with
  | 0, _ => (m.extAdd e v).settle
  | _, 4 => m.extRelease e
  | _, 6 => m.extForce e
  | _, _ => (m.setExt e 0).onPo fun b => { b with ext := tdel e b.ext }

/-- D6 is written by the manager: a migration is asked for, or ended, and the reserve copy follows (R387, R396, R401, R403). -/
def Mod.migWrite (m : Mod) (i v : Nat) : Mod :=
  let cur := m.mState i
  let m1 := match fld v 61 3 with
    | 5 => if cur = 1 ∨ cur = 2 ∨ cur = 3 then (m.migAbort i).settle else m.setDesc 6 i v
    | _ => m.setDesc 6 i v
  m1.copyToPartner i

/-- The answer items of a bind or unbind (R393): the bind result, and D0 when a bind is done. -/
def Mod.bindItems (m : Mod) (v res : Nat) : List RItem :=
  let i := fld v 34 16
  let one : RItem := { oid := 0x901000, ty := 5, len := 8, val := res, status := rangeIf (decide (fld res 61 3 ≠ 0)) }
  if fld v 62 2 = 1 ∧ fld res 61 3 = 0 then [one, { oid := descOid 0 i, ty := 5, len := 8, val := m.d0 i }] else [one]

def Mod.effectMid (m : Mod) (c : Caller) (r : ObjRow) (oid v : Nat) : WRes :=
  let ix := oid / 256
  let el := oid % 256
  let st := m.store r oid v
  let root := decide (privOf c.src = .root)
  if oid = 0x602000 then { mod := st.recordDirty.carriageCheck }
  else if oid = 0x603000 ∨ ix = 0x6040 then { mod := st.recordDirty }
  else if oid = 0x603200 then { mod := m.stepTime ((v * 65536 : Int) - m.ti.count) }
  else if oid = 0x901000 then
    let x := m.bindOp v
    { mod := x.1.settle, sts := rangeIf (decide (fld x.2 61 3 ≠ 0)), items := x.1.bindItems v x.2 }
  else if oid = 0x901100 then { mod := (m.takeOver v).settle }
  else if oid = 0x901200 then
    let i := fld v 0 16
    { mod := if fld v 30 2 = 0 then (m.reinitDone i).settle else m.onPo fun b => { b with zeroing := addOnce i b.zeroing } }
  else if oid = 0x901300 then { mod := (m.serveAlone v).settle }
  else if 0x9040 ≤ ix ∧ ix < 0x9060 ∧ el ≠ 0 ∧ root = false then { mod := m.extWrite ((ix - 0x9040) * 128 + (el - 1)) v }
  else if 0x9E00 ≤ ix ∧ ix < 0xA000 ∧ el ≠ 0 ∧ root = false then { mod := m.migWrite ((ix - 0x9E00) * 128 + (el - 1)) v }
  else { mod := st }

/-! Areas A to C and E. -/

/-- Firmware's mailbox MM1 through the dictionary (R532 to R536): elements of B.700. -/
def Mod.boxWrite (m : Mod) (el v : Nat) : Mod :=
  match el with
  | 2 => m.ownOutPush 257 v
  | 3 => m.ownDbClear 257 v
  | 4 => m.ownMaskWrite 257 v
  | 5 => m.ownStatusWrite 257 v
  | 6 => m.onCall 257 fun s => { s with sel := v % 512 }
  | 7 => m.callLockWrite 257 v
  | 8 => m.callInPush 257 v
  | 9 => m.callDbWrite 257 v
  | _ => m

/-- The quiesce control of a queue pair (R529). -/
def Mod.quiesceWrite (m : Mod) (q v : Nat) : Mod :=
  if v = 1 then m.quiesceStart q else if v = 2 then m.quiesceAbandon q else m.quiesceResume q

def Mod.effectHigh (m : Mod) (c : Caller) (seq : Nat) (r : ObjRow) (oid v : Nat) : WRes :=
  let ix := oid / 256
  let el := oid % 256
  let st := m.store r oid v
  if oid = 0xA06100 then { mod := (m.confirmLost v).settle }
  else if oid = 0xA06200 then { mod := m.memberFlush v c.src c.sess seq, deferred := true }
  else if oid = 0xA06300 then { mod := m.lostReport v }
  else if 0xB100 ≤ ix ∧ ix < 0xB130 ∧ el = 2 then { mod := st.msiRelease (hostFn (ix - 0xB100)) }
  else if 0xB200 ≤ ix ∧ ix < 0xB300 ∧ el = 1 then
    let n := ix - 0xB200
    let changed := decide (fld (m.objv oid) 24 8 ≠ fld v 24 8) || decide (fld (m.objv oid) 0 8 ≠ fld v 0 8)
    { mod := if changed then st.agentReset n else st }
  else if 0xB200 ≤ ix ∧ ix < 0xB300 ∧ el = 3 then { mod := st.msiRelease (vfFn (ix - 0xB200)) }
  else if 0xB400 ≤ ix ∧ ix < 0xB420 ∧ el ≠ 0 then { mod := m.qpMove (128 * (ix - 0xB400) + (el - 1)) v }
  else if 0xB440 ≤ ix ∧ ix < 0xB460 ∧ el ≠ 0 then { mod := m.quiesceWrite (128 * (ix - 0xB440) + (el - 1)) v }
  else if ix = 0xB700 ∧ el ≠ 0 then { mod := m.boxWrite el v }
  else if oid = 0xC01002 then { mod := if bit v 31 then (m.setObj 0xC01001 0).setObj 0xC01002 0 else m }
  else if ix = 0xC020 ∧ el ≠ 0 then { mod := m.slotWrite (el - 1) v }
  else if oid = 0xE01500 then { mod := m.onEv fun b => { b with ackPoint := v } }
  else if oid = 0xE01600 then { mod := if bit v 30 then m.onEv fun b => { b with lostAlert := false } else m }
  else if ix = 0xE030 ∧ el ≠ 0 then { mod := st.chainChange (el - 1) (m.objv oid) v }
  else if oid = 0xE04000 then { mod := st.onCn fun b => { b with winRx := [], winTx := [], winSkip := true } }
  else { mod := st }

end Sys2Proof.Machine
end

