-- ==== Sys2Proof/Machine/SecWrite.lean ====
section
/-! DEFINITION. Writes of area D: tokens, key slots, lifecycle, attestation, staging and activation (R565 to R580). -/
namespace Sys2Proof.Machine

/-! Tokens (R571, R572). -/

def keyOid (slot el : Nat) : Nat := mkOid 0xD (0x100 + slot) el
def Mod.slotState (m : Mod) (k : Nat) : Nat := fld (m.objv (keyOid k 3)) 30 2
def Mod.slotRights (m : Mod) (k : Nat) : Nat := fld (m.objv (keyOid k 3)) 0 8
/-- Public key of a slot. -/
def Mod.slotKey (m : Mod) (k : Nat) : Nat := m.objv (keyOid k 1) * 256 ^ 928 + m.objv (keyOid k 2)

/-- OP of the tokens that permit a write of an object. -/
def opOf (oid : Nat) : Nat :=
  if oid = 0x001400 then 6
  else if oid / 2 ^ 20 = 4 then 5
  else if oid = 0xD00200 then 3
  else if oid = 0xD05000 then 4
  else if oid = 0xD06100 then 1
  else if oid = 0xD06200 then 7
  else 2

/-- The write needs no token (R572 to R574): Root's; every one in BLANK; lifecycle changes whose Token column reads none. -/
def Mod.tokenFree (m : Mod) (c : Caller) (r : ObjRow) (oid v : Nat) : Bool :=
  !r.tok || decide (privOf c.src = .root) || decide (m.lifeCode = 0) || (decide (oid = 0xD00200) && decide (v = 2) && decide (m.lifeCode = 3))

/-- Take the token item that matches a write: its object and the digest of its value bytes (R572). A token without items left lapses. -/
def Mod.consumeToken (m : Mod) (c : Caller) (oid : Nat) (bytes : List Nat) : Option (Mod × Token) :=
  let dig := shakeNum bytes 64
  (m.tokenOf c.sess).bind fun t =>
    if t.op = opOf oid ∧ (oid, dig) ∈ t.items then
      let left := t.items.erase (oid, dig)
      let rest := m.se.tokens.filter fun x => x.session ≠ c.sess
      some (m.onSe fun b => { b with tokens := if left = [] then rest else rest ++ [{ t with items := left }] }, t)
    else none

/-- The tokens of a slot lapse. -/
def Mod.lapseSlot (m : Mod) (k : Nat) : Mod := m.onSe fun b => { b with tokens := b.tokens.filter fun t => t.slot ≠ k }

/-- First failing check of a token of n bytes that the session presents, 0 when it is valid (R571). -/
def Mod.tokenReason (m : Mod) (c : Caller) (body : List Nat) (n : Nat) : Nat :=
  let at_ := fun (i len : Nat) => ofBytes ((body.drop i).take len)
  let items := at_ 7 1
  let slot := at_ 6 1
  let blen := 64 + 68 * items
  let fresh := m.se.challenges.any fun x => decide (x.1 = c.sess) && decide (x.2.1 % 2 ^ 256 = at_ 24 32) && decide (m.now ≤ x.2.2 + 60 * sec)
  if at_ 0 4 ≠ 0x57544B4E ∨ at_ 4 1 ≠ 1 ∨ items = 0 ∨ 8 < items ∨ n ≠ blen + 3309 then 1
  else if at_ 8 16 ≠ serialNumber then 2
  else if fresh = false then 3
  else if 8 ≤ slot ∨ m.slotState slot ≠ 1 ∨ at_ 5 1 = 0 ∨ bit (m.slotRights slot) (at_ 5 1 - 1) = false then 4
  else if Config.mlDsaVerify (m.slotKey slot) sToken (body.take blen) (at_ blen 3309) = false then 5
  else 0

/-- The items of a token: object and digest. -/
def tokenItems (body : List Nat) (n : Nat) : List (Nat × Nat) :=
  (List.range n).map fun i =>
    let b := body.drop (64 + 68 * i)
    (ofBytes (b.take 3), ofBytes ((b.drop 4).take 64))

/-- The length of a token is written: it is checked, the challenge is consumed, and an earlier token of the session lapses (R571). -/
def Mod.presentToken (m : Mod) (c : Caller) (n : Nat) : WRes :=
  let buf := (List.range 4).flatMap fun i => toBytes 1024 (m.objv (mkOid 0xD 0x40 (1 + i)))
  let body := buf.take n
  let f := fun (i len : Nat) => ofBytes ((body.drop i).take len)
  let why := m.tokenReason c body n
  let m1 := m.onSe fun b =>
    { b with challenges := b.challenges.filter fun x => x.1 ≠ c.sess, tokens := b.tokens.filter (fun t => t.session ≠ c.sess), tokenStatus := tdel c.sess b.tokenStatus }
  if why = 0 then
    let t : Token := { session := c.sess, slot := f 6 1, op := f 5 1, param := f 56 8, items := tokenItems body (f 7 1), at_ := m.now }
    { mod := m1.onSe fun b => { b with tokens := b.tokens ++ [t] } }
  else
    let w := pack [(2, 30, 2), (why, 27, 3), (f 6 1, 24, 3), (f 5 1, 0, 8)]
    { mod := (m1.onSe fun b => { b with tokenStatus := tset 0 c.sess w b.tokenStatus }).raise (evt 0x0D02), sts := .token }

/-! Key slots (R570). -/

/-- An enrolled slot that permits OP 2 is left when slot k is given control word v. -/
def Mod.enrolLeft (m : Mod) (k v : Nat) : Bool :=
  (List.range 8).any fun j =>
    let w := if j = k then v else m.objv (keyOid j 3)
    decide (fld w 30 2 = 1) && bit w 1

/-- The control word of slot k may become v. -/
def Mod.slotOk (m : Mod) (k v : Nat) : Bool :=
  let keyed := decide (m.objv (keyOid k 1) ≠ 0) && decide (m.objv (keyOid k 2) ≠ 0)
  (match m.slotState k, fld v 30 2 with
    | 0, 1 => keyed
    | 1, 1 => true
    | 1, 2 => true
    | 2, 2 => true
    | 2, 0 => true
    | _, _ => false) && m.enrolLeft k v

/-- The control word of slot k becomes v: enrolled with the digest of its key, revoked, or cleared. -/
def Mod.slotControl (m : Mod) (k v : Nat) : Mod :=
  let was := m.slotState k
  let now := fld v 30 2
  let m1 := m.setPers (keyOid k 3) v
  if now = 1 ∧ was ≠ 1 then (m1.setPers (keyOid k 4) (shakeNum (toBytes 1952 (m.slotKey k)) 64)).raise (evt 0x0D07 Loc.module k)
  else if now = 2 ∧ was = 1 then (m1.lapseSlot k).raise (evt 0x0D07 Loc.module k)
  else if now = 0 then (m1.each [1, 2, 3, 4] fun el m => m.setPers (keyOid k el) 0).raise (evt 0x0D07 Loc.module k)
  else m1

/-! Lifecycle (R573 to R575). -/

/-- The authorisation record is erased (R574): EV-0D04 when it held. -/
def Mod.eraseDebug (m : Mod) : Mod :=
  if m.se.debug then ((m.setPers 0xD00300 0).onSe fun b => { b with debug := false }).raise (evt 0x0D04) else m

/-- A lifecycle request (R574): MODE or RANGE where it is refused. -/
def Mod.lifeRefuse (m : Mod) (v : Nat) : Sts :=
  match m.lifeCode, v with
  | 0, 1 => if m.md.mode ≠ .configure then .mode else rangeIf (!(decide (m.slotState 0 = 1) && bit (m.slotRights 0) 1 && bit (m.slotRights 0) 2))
  | 1, 2 => .ok
  | 3, 2 => .ok
  | 1, 4 => .ok
  | 2, 4 => .ok
  | 3, 4 => .ok
  | l, 5 => rangeIf (decide (l = 5))
  | _, _ => .range

/-- A lifecycle fuse is blown: no fuse can return the module to an earlier state (R573). -/
def Mod.blowLife (m : Mod) (n : Nat) : Mod := m.onSe fun b => { b with life := max b.life n }

/-- The unique device secret is blown into its fuses, once (R566). -/
def Mod.blowUds (m : Mod) (u : Nat) : Mod := m.onSe fun b => { b with uds := some (b.uds.getD u) }

/-- A state without identity and reports: its keys, certificates and reports are gone (R573). -/
def Mod.dropIdentity (m : Mod) : Mod :=
  m.onSe fun b => { b with identity := 0, layerCert := 0, aliasCert := 0, aliasSeed := 0, reports := [] }

/-- An accepted lifecycle request. -/
def Mod.lifeWrite (m : Mod) (v : Nat) : Mod :=
  let m1 := match v with
    | 1 => (m.drawn.blowUds (m.random % 2 ^ 256)).blowLife 1
    | 2 => m.eraseDebug.blowLife 2
    | 4 => ((m.each (List.range 48) fun p m => m.ideErase p).eraseDebug.dropIdentity).blowLife 4
    | _ => m.eraseDebug.dropIdentity.blowLife 5
  m1.raise (evt 0x0D03)

/-- DEBUG-AUTHORISED is entered for n minutes (R575). -/
def Mod.debugEnter (m : Mod) (n : Nat) : Mod :=
  (((m.setPers 0xD00300 n).onSe fun b => { b with debug := true, debugMinute := m.now }).raise (evt 0x0D03)).raise (evt 0x0D04)

/-! Attestation (R568, R569). -/

/-- Objects that M3 covers, in ascending order. -/
def m3Objects : List Nat :=
  let run := fun (ix e0 n : Nat) => (List.range n).map fun e => ix * 256 + e0 + e
  run 0x0030 0 17 ++ ((List.range 48).flatMap fun p => [mkOid 4 p 2, mkOid 4 p 3]) ++
    ((List.range 48).flatMap fun p => (List.range 6).map fun s => ideOid p s 6) ++ [0x600100] ++
    ((List.range 8).flatMap fun i => run (0x9080 + i) 1 128) ++ ((List.range 128).flatMap fun i => run (0x9100 + i) 1 128) ++
    run 0xC020 1 64 ++ ((List.range 32).flatMap fun i => run (0xC100 + i) 1 2) ++ [0xD00100] ++
    ((List.range 8).flatMap fun s => run (0xD100 + s) 3 2)

/-- M3 of R569. -/
def Mod.m3 (m : Mod) : List Nat :=
  shake256 (m3Objects.flatMap fun o =>
    match objFind o with
    | some r => itemBytes { oid := o, ty := tyCode r.ty, len := r.size, val := m.view 0 o }
    | none => []) 64

/-- The report on a nonce (R568). -/
def Mod.buildReport (m : Mod) (nonce : Nat) : Nat :=
  let b := m.se.boot
  let body := [0, 1, m.lifeCode, 4 * b2n b.trial + 2 * b2n b.runFsB + b2n b.runFwB] ++ toBytes 2 m.rt.id ++ [0, 0] ++ toBytes 8 m.meridian ++
    toBytes 16 serialNumber ++ toBytes 32 nonce ++ toBytes 64 m.se.m0 ++ toBytes 64 m.se.m1 ++ toBytes 64 m.se.m2 ++ m.m3 ++
    m.imageBytes 1 b.runFsB 8 4 ++ m.imageBytes 2 b.runFwB 8 4 ++ List.replicate 168 0
  ofBytes body * 256 ^ 3309 + Config.mlDsaSign m.se.aliasSeed sReport body % 256 ^ 3309

/-- A nonce is written: the session's report is built. -/
def Mod.nonceWrite (m : Mod) (c : Caller) (v : Nat) : Mod :=
  let rep : Report := { session := c.sess, nonce := v, bytes := m.buildReport v }
  m.onSe fun b => { b with reports := b.reports.filter (fun x => x.session ≠ c.sess) ++ [rep] }

/-! Staging and activation (R576 to R578). -/

def Mod.stageKind (m : Mod) : Nat := m.objv 0xD06001
/-- Slot that staging writes to: the one of the KIND that does not run. -/
def Mod.stageSlot (m : Mod) (kind : Nat) : Bool := if kind = 1 then !m.se.boot.runFsB else !m.se.boot.runFwB

/-- A staging write clears VALID, and a check under way. -/
def Mod.unstage (m : Mod) : Mod := m.onSe fun b => { b with staged := 0, checkEnd := none }

/-- Program bytes of module flash from an offset on. -/
def programFlash (t : Tbl Nat) (a : Nat) : List Nat → Tbl Nat
  | [] => t
  | b :: l => programFlash (tset 0 a (b + 1) t) (a + 1) l

/-- Data is staged at the offset, which advances. -/
def Mod.stageData (m : Mod) (r : ObjRow) (v : Nat) : Mod :=
  let k := m.stageKind
  let off := m.objv 0xD06002
  let base := slotBase k (m.stageSlot k) + off
  (m.unstage.onSe fun b => { b with flash := programFlash b.flash base (toBytes r.size v) }).setObj 0xD06002 (off + r.size)

/-- Time a check takes: 10 ns a byte of the image, and one signature check of 300 us (R576). -/
def Mod.checkTime (m : Mod) : Nat :=
  let k := m.stageKind
  10 * (8192 + m.imageField k (m.stageSlot k) 32 4) + 300000

/-- D.060.05 of the staged image (R576, R577). -/
def Mod.stagedWord (m : Mod) : Nat :=
  let k := m.stageKind
  let s := m.stageSlot k
  let why := m.imageReason k s
  let live := decide (k = 2) && decide (why = 0) && bit (m.imageByte k s 7) 1 && decide (m.imageField k s 14 2 ≤ m.imageVersion 2 m.se.boot.runFwB)
  pack [(b2n (decide (why = 0)), 31, 1), (why, 28, 3), (b2n live, 27, 1), (m.imageByte k s 12, 16, 8), (m.imageVersion k s, 0, 16)]

/-- The staged slot is preferred, under TRIAL. -/
def Mod.preferStaged (m : Mod) : Mod :=
  let k := m.stageKind
  let s := m.stageSlot k
  m.onSe fun b => { b with boot := if k = 1 then { b.boot with fsB := s, trial := true } else { b.boot with fwB := s, trial := true } }

/-- A live activation starts: MRDY falls, sessions close, the dictionary and what firmware does pause (R577, R99, R72). -/
def Mod.startLive (m : Mod) : Mod :=
  (m.answerRest.closeAll.onMd fun b => { b with mrdy := false, serving := false }).onSe fun b => { b with live := some m.now, liveRetry := false }

/-- Activation by reset acts as mode request 2, with MRDY low from its start (R99, R577). -/
def Mod.startReset (m : Mod) : Mod :=
  let m1 := m.answerRest.closeAll
  ((m1.modeRequest 2).getD id m1).setMrdy false

/-- Release keys that the running images name for revocation, and their ROLLBACK (R560). -/
def Mod.revokes (m : Mod) : Nat := (m.imageByte 1 m.se.boot.runFsB 13 ||| m.imageByte 2 m.se.boot.runFwB 13) % 16

/-- A commit would revoke the release key of a running image (R578). -/
def Mod.revokesRunning (m : Mod) : Bool :=
  let gone := fun (k : Option Nat) => k.any fun r => bit (m.revokes ||| m.se.revoked) r
  gone (m.imageKey 1 m.se.boot.runFsB) || gone (m.imageKey 2 m.se.boot.runFwB)

/-- The running images are committed (R578). -/
def Mod.commitImages (m : Mod) : Mod :=
  (m.onSe fun b =>
    { b with rollFs := max b.rollFs (m.imageByte 1 b.boot.runFsB 12 % 64), rollFw := max b.rollFw (m.imageByte 2 b.boot.runFwB 12 % 64),
             revoked := b.revoked ||| m.revokes, boot := { b.boot with trial := false, trialFail := false } }).raise (evt 0x0D06)

/-! Refusals and effects of area D. `tok` is the token whose item the write consumed. -/

def Mod.refuseSec (m : Mod) (tok : Option Token) (oid v : Nat) : Sts :=
  let ix := oid / 256
  let el := oid % 256
  if oid = 0xD00200 then m.lifeRefuse v
  else if ix = 0xD012 then if m.lifeCode = 1 then .ok else .accessDenied
  else if oid = 0xD02000 then if m.lifeCode = 0 ∨ m.lifeCode = 4 ∨ m.lifeCode = 5 then .accessDenied else .ok
  else if oid = 0xD05000 then rangeIf (decide (m.lifeCode ≠ 2) || tok.any fun t => decide (t.param ≠ v))
  else if oid = 0xD06002 then rangeIf (decide (v % 1024 ≠ 0))
  else if oid = 0xD06003 then rangeIf (decide (slotSize m.stageKind < m.objv 0xD06002 + 1024))
  else if oid = 0xD06004 then rangeIf (decide (v ≠ 1))
  else if oid = 0xD06100 then
    if bit m.se.staged 31 = false then .range
    else rangeIf (if v = 1 then !bit m.se.staged 27 else (m.modeRequest 2).isNone)
  else if oid = 0xD06200 then rangeIf m.revokesRunning
  else if 0xD100 ≤ ix ∧ ix < 0xD108 then
    let k := ix - 0xD100
    rangeIf (if el ≤ 2 then decide (m.slotState k ≠ 0) else if el = 3 then !m.slotOk k v else false)
  else .ok

def Mod.effectSec (m : Mod) (c : Caller) (r : ObjRow) (oid v : Nat) : WRes :=
  let ix := oid / 256
  let el := oid % 256
  let st := m.store r oid v
  if oid = 0xD00200 then { mod := m.lifeWrite v }
  else if oid = 0xD02000 then { mod := m.nonceWrite c v }
  else if oid = 0xD04100 then m.presentToken c v
  else if oid = 0xD05000 then { mod := m.debugEnter v }
  else if oid = 0xD06001 ∨ oid = 0xD06002 then { mod := st.unstage }
  else if oid = 0xD06003 then { mod := m.stageData r v }
  else if oid = 0xD06004 then { mod := m.onSe fun b => { b with checkEnd := some (m.now + m.checkTime) } }
  else if oid = 0xD06100 then
    let m1 := m.preferStaged
    { mod := m1, after := fun m => if v = 1 then m.startLive else m.startReset }
  else if oid = 0xD06200 then { mod := m.commitImages }
  else if 0xD100 ≤ ix ∧ ix < 0xD108 ∧ el = 3 then { mod := m.slotControl (ix - 0xD100) v }
  else { mod := st }

end Sys2Proof.Machine
end

