-- ==== Sys2Proof/Machine/GroupOps.lean ====
section
/-! DEFINITION. Consistency groups: shadows, the joint checks of COMMIT, handing off and applying, ABORT (R60 to R75, R375, R388, R548, R587). -/
namespace Sys2Proof.Machine

/-! Values of a group with its shadows in place. -/

def Mod.withShadow (m : Mod) (g : Group) (oid : Nat) : Nat :=
  match g.shadows.find? fun x => x.1 = oid with
  | some x => x.2
  | none => m.objv oid

def Group.kind (g : Group) : Nat := g.num / 2 ^ 24
def Group.inst (g : Group) : Nat := g.num % 2 ^ 24

/-! Joint checks (R66). -/

/-- D0 to D5 may become active together (R388). The firmware of another module writes a reserve copy (`copy`, R396): its STATE, and the fields a state
fixes, follow the home's descriptor; every other check binds. -/
def Mod.parcelJoint (m : Mod) (g : Group) (copy : Bool) : Bool :=
  let i := g.inst
  let w := fun (k : Nat) => m.withShadow g (descOid k i)
  let d0 := w 0
  let old0 := m.d0 i
  let way := fun (j : Nat) => fld (w (2 + j / 4)) (16 * (j % 4)) 16
  let used := (List.range 16).filter fun j => bit (way j) 15
  let ways := 2 ^ fld d0 55 3
  let tgt := fun (j : Nat) => fld (way j) 5 10
  let share := 2 ^ fld d0 58 3 * 2 ^ 28 / ways
  let base := fld (w 1) 24 40 * 2 ^ 24
  let dev := bit d0 54
  let st := fld d0 61 3
  let was := fld old0 61 3
  let same := decide (fld d0 52 6 = fld old0 52 6) && decide (fld d0 58 3 = fld old0 58 3) && decide (fld d0 51 1 = fld old0 51 1) &&
    decide (fld d0 33 8 = fld old0 33 8) && decide (fld (w 1) 24 40 = fld (m.objv (descOid 1 i)) 24 40) &&
    [2, 3, 4, 5].all fun k => decide (w k = m.objv (descOid k i))
  decide (used.length = ways) && used.all (fun j => decide (j < ways)) && decide ((used.map tgt).eraseDups.length = used.length) &&
    used.all (fun j => decide (m.role (fld (way j) 9 6) = 3)) && decide (base % share = 0) &&
    used.all (fun j => decide (base + share ≤ (m.edge (fld (way j) 9 6)).tr.capacity.getD (fld (way j) 5 4) 0)) &&
    !(dev && (decide (fld d0 52 2 ≠ 2) || bit d0 51)) &&
    (copy || ((decide (was ≤ 1) || same) &&
      (decide (st = was) || (decide (was = 0) && decide (st = 1)) || (decide (was = 1) && decide (st = 0))) &&
      !(decide (st = 0) && decide (was ≠ 0) && decide (m.dBinds i ≠ 0))))

/-- A gate list may become active (R375), and its take-over time lies far enough ahead (R69). -/
def Mod.gateJoint (m : Mod) (g : Group) : Sts :=
  let p := g.inst
  let n := m.withShadow g (gateObj p 2)
  let l := (List.range n).map fun e => m.withShadow g (gateOid p e)
  let ok := l.all (fun v => decide (32 ≤ fld v 0 32 ∧ fld v 0 32 ≤ 10 ^ 9)) && decide ((l.map fun v => fld v 0 32).sum ≤ 10 ^ 9) &&
    (decide (n = 0) || [0, 1, 2, 7].all fun c => l.any fun v => bit v (56 + c))
  if ok = false then .range
  else if m.withShadow g (gateObj p 1) < m.meridian + 10000 then .timePast
  else .ok

/-- A Root proxy session of another module's firmware (R89, R396). -/
def isCopy : Source → Bool
  | .proxy _ _ 0 => true
  | _ => false

/-- The checks that join a group's members (R66). -/
def Mod.joint (m : Mod) (c : Caller) (g : Group) : Sts :=
  let i := g.inst
  match g.kind with
  | 2 => rangeIf (!regionOk (m.withShadow g (mkOid 0xC (0x100 + i) 1)) (m.withShadow g (mkOid 0xC (0x100 + i) 2)))
  | 3 => rangeIf (decide (m.withShadow g (fctrOid i 4) = 0))
  | 5 => rangeIf !(m.parcelJoint g (isCopy c.src))
  | 6 => m.gateJoint g
  | _ => .ok

/-! Applying (R67). -/

/-- Every shadow becomes the active value. -/
def Mod.shadowsActive (m : Mod) (g : Group) : Mod := m.each g.shadows fun x m => m.setObj x.1 x.2

/-- The owning block makes the group active (R67): what follows from it, by kind. -/
def Mod.activate (m : Mod) (g : Group) : Mod :=
  let i := g.inst
  let m1 := m.shadowsActive g
  match g.kind with
  | 1 => m1.setTokens (i / 512) (i % 512) (min (m.tokens (i / 512) (i % 512)) (m1.objv (burstOid (i / 512) (i % 512)) * 65536 : Nat))
  | 2 =>
    let ctl := mkOid 0xC (0x100 + i) 2
    if bit (m1.objv ctl) 30 && !bit (m.objv ctl) 30 then m1.raise (evt 0x0C04 Loc.hub i) else m1
  | 4 =>
    let x := m.applyEntry i (m.withShadow g (bearingOid i))
    if x.2 then x.1.raise (evt 0x0601) else x.1
  | 5 =>
    let m2 := if m.dState i = 0 ∧ m1.dState i = 1 then (m1.onPo fun b => { b with keys := tset 0 i m1.draws b.keys }).drawn else m1
    (m2.copyToPartner i).settle
  | 7 => m1.onIde (ideOf g).1 (ideOf g).2 fun s => { s with state := if s.state = 0 then 1 else s.state, committed := true }
  | _ => m1

/-- The group's owning block is in a gated region: it applies the group when the region is ungated (R67). -/
def Mod.groupGated (m : Mod) (g : Group) : Bool :=
  match g.kind with
  | 1 => m.regionGated (regionKey (g.inst / 512))
  | 6 => m.regionGated (regionKey g.inst)
  | 7 => m.regionGated (regionKey (ideOf g).1)
  | 8 => m.regionGated (g.inst / 2)
  | _ => false

/-- A link of the group's owner runs, so that the group waits for its apply point: a gated region, the take-over time for kind 6, the key-change point for kind 7, the joint
reset for kind 8 (R60, R67). -/
def Mod.groupWaits (m : Mod) (g : Group) : Bool :=
  let up := fun (p : Nat) => (m.edge (m.lead p)).dllUp
  m.groupGated g ||
  match g.kind with
  | 6 => true
  | 7 => up (ideOf g).1
  | 8 => (edgesOfCluster g.inst).any up
  | _ => false

/-- The group is applied: its slot is free, and the COMMIT answered if it has not been (R68). -/
def Mod.applyGroup (m : Mod) (g : Group) : Mod :=
  let m1 := (m.dropGroup g.num).activate g
  if g.answered then m1 else m1.answer g.src (g.resp .ok)

/-! COMMIT and ABORT (R66 to R71). -/

/-- The persistent members of a group go to flash in one record. -/
def Mod.flashGroup (m : Mod) (g : Group) : Mod :=
  m.each g.shadows fun x m => if ((objFind x.1).map (·.pers)).getD false then m.setFlash x.1 x.2 else m

def Group.persists (g : Group) : Bool := g.shadows.any fun x => ((objFind x.1).map (·.pers)).getD false

/-- What a request is: its session, the opcode and SEQ of its answer, the object it wrote, whether flash stores take. -/
structure Req where
  c : Caller
  opcode : Nat
  seq : Nat := 0
  stored : Bool := true

/-- COMMIT of a group, by its message or by a write of 0.010.00 (R66, R68, R70, R79). -/
def Mod.commit (m : Mod) (q : Req) (num : Nat) : WRes :=
  if privOf q.c.src = .tenant then { mod := m, sts := .noGroup }
  else match m.group num with
    | none => { mod := m, sts := .noGroup }
    | some g =>
      if g.st ≠ .opened then { mod := m, sts := .busy }
      else if g.session ≠ q.c.sess then { mod := m, sts := .locked, holder := g.session }
      else if m.joint q.c g ≠ .ok then { mod := m, sts := m.joint q.c g }
      else if g.persists = true ∧ q.stored = false then { mod := m, sts := .flash }
      else
        let m1 := m.flashGroup g
        if m1.groupWaits g then
          { mod := m1.onGroup num fun x =>
              { x with st := if x.kind = 6 then .armed else .applying, handedAt := m.now, src := q.c.src, opcode := q.opcode, seq := q.seq, oid := 0x001000 },
            deferred := true }
        else { mod := (m1.dropGroup num).activate g }

/-- ABORT of a group (R70, R71, R79). -/
def Mod.abort (m : Mod) (c : Caller) (num : Nat) : WRes :=
  if privOf c.src = .tenant then { mod := m, sts := .noGroup }
  else match m.group num with
    | none => { mod := m, sts := .noGroup }
    | some g =>
      if g.st ≠ .opened then { mod := m, sts := .busy }
      else if g.session = c.sess then { mod := m.dropGroup num }
      else if privOf c.src = .manager ∨ privOf c.src = .root then { mod := (m.dropGroup num).raise (evt 0x0002 Loc.module 0 num) }
      else { mod := m, sts := .locked, holder := g.session }

/-! Shadows (R61 to R63, R74, R556). -/

/-- Open a group with its first shadow: BUSY when 64 are in use. -/
def Mod.openGroup (m : Mod) (c : Caller) (num oid v : Nat) : WRes :=
  let used := m.di.groups.map (·.slot)
  match (List.range 64).find? fun s => s + 1 ∉ used with
  | none => { mod := m, sts := .busy }
  | some s =>
    { mod := m.onDi fun d => { d with groups := d.groups ++ [{ num := num, slot := s + 1, session := c.sess, openedAt := m.now, shadows := [(oid, v)] }] } }

/-- Root locks an MPU region by its own write: another session's open group of it is aborted, and its holder is told LOCKED later (R71, R556). -/
def rootLocks (c : Caller) (num oid v : Nat) : Bool :=
  decide (privOf c.src = .root) && decide (num / 2 ^ 24 = 2) && decide (oid % 256 = 2) && bit v 30

/-- Whether the group would take a shadow from this session now: OK, BUSY, or LOCKED with the holder (R61 to R63, R68, R74). -/
def Mod.shadowSts (m : Mod) (c : Caller) (num oid v : Nat) : Sts × Nat :=
  match m.group num with
  | none => if 64 ≤ m.di.groups.length then (.busy, 0) else (.ok, 0)
  | some g => if g.st ≠ .opened then (.busy, 0) else if g.session = c.sess ∨ rootLocks c num oid v = true then (.ok, 0) else (.locked, g.session)

/-- A shadow of a member is created or replaced. -/
def Mod.writeShadow (m : Mod) (c : Caller) (num oid v : Nat) : WRes :=
  match m.group num with
  | none => m.openGroup c num oid v
  | some g =>
    if g.st ≠ .opened then { mod := m, sts := .busy }
    else if g.session = c.sess then
      { mod := m.onGroup num fun x => { x with shadows := x.shadows.filter (fun y => y.1 ≠ oid) ++ [(oid, v)] } }
    else if rootLocks c num oid v then
      let m1 := (m.dropGroup num).raise (evt 0x0002 Loc.module 0 num)
      (m1.onDi fun d => { d with lockedOut := d.lockedOut ++ [(g.session, num)] }).openGroup c num oid v
    else { mod := m, sts := .locked, holder := g.session }

end Sys2Proof.Machine
end

