-- ==== Sys2Proof/Machine/DictEngine.lean ====
section
/-! DEFINITION. The dictionary engine: checking and executing reads and writes, sessions and repeated requests, proxying, subscriptions, the windows
of BAR0 (R53, R61, R72 to R96). -/
namespace Sys2Proof.Machine

/-! Writes. -/

/-- The value has the object's type: its code and its length, a string up to its longest (R49, R81). -/
def typeOk (r : ObjRow) (it : Item) : Bool :=
  decide (it.ty = tyCode r.ty) && (if r.ty = .string then decide (it.len ≤ r.size) else decide (it.len = r.size))

/-- The value lies in the object's range (R49, R50). -/
def rangeOk (r : ObjRow) (v : Nat) : Bool :=
  (decide (r.ty ≠ .bool) || decide (v ≤ 1)) && (r.lims.isEmpty || r.lims.any fun x => decide (x.1 ≤ v) && decide (v ≤ x.2))

/-- The checks of a write of one object, in order (R61, R572): existence, token, access, mode, type, range, the refusals of the governing chapter. The
state holds the token as the check leaves it; the row and the token come with an accepted write. -/
def Mod.checkWrite (m : Mod) (c : Caller) (it : Item) : Mod × Sts × Option ObjRow :=
  match m.rowFor c.src it.oid with
  | none => (m, .notFound, none)
  | some r =>
    let v := it.val % 256 ^ it.len
    let free := m.tokenFree c r it.oid v
    let took := if free then none else m.consumeToken c it.oid (toBytes it.len v)
    if free = false ∧ took.isNone = true then (m, .token, none)
    else
      let m1 := (took.map (·.1)).getD m
      let bad := fun (s : Sts) => (m1, s, (none : Option ObjRow))
      let area := it.oid / 2 ^ 20
      let p := privOf c.src
      let num := (m1.groupOf r it.oid).getD 0
      if accWrites (rowAcc p r) = false then bad .accessDenied
      else if m1.modeServes c.src it.oid true r.cfg = false then bad .mode
      else if typeOk r it = false then bad .type
      else if rangeOk r v = false then bad .range
      else if (c.sess, num) ∈ m1.di.lockedOut then (m1.onDi fun d => { d with lockedOut := without (c.sess, num) d.lockedOut }, .locked, none)
      else
        let s := if area ≤ 5 then m1.refuseLow it.oid v
          else if area ≤ 9 then m1.refuseMid p it.oid v
          else if area = 0xD then m1.refuseSec (took.map (·.2)) it.oid v
          else m1.refuseHigh p it.oid v
        if s = .ok then (m1, .ok, some r) else bad s

/-- What an accepted write of an object outside every group does (R56, R57). -/
def Mod.writeEffect (m : Mod) (q : Req) (r : ObjRow) (oid v : Nat) : WRes :=
  let area := oid / 2 ^ 20
  if m.flashNow r oid = true ∧ q.stored = false then { mod := m, sts := .flash }
  else if oid = 0x001000 then m.commit q v
  else if oid = 0x001200 then m.abort q.c v
  else if area ≤ 5 then m.effectLow r oid v
  else if area ≤ 9 then m.effectMid q.c r oid v
  else if area = 0xD then m.effectSec q.c r oid v
  else m.effectHigh q.c q.seq r oid v

/-- A write of one object (R56, R61). -/
def Mod.writeOne (m : Mod) (q : Req) (it : Item) : WRes :=
  let k := m.checkWrite q.c it
  match k.2.2 with
  | none => { mod := k.1, sts := k.2.1 }
  | some r =>
    let v := k.1.written (privOf q.c.src) it.oid (it.val % 256 ^ it.len)
    match k.1.groupOf r it.oid with
    | some num => k.1.writeShadow q.c num it.oid v
    | none => k.1.writeEffect q r it.oid v

/-- Check the items of a WRITE_GROUP in order: each for itself, then whether its group takes it; the first failure with the holder of a lock, and the
shadows to write (R80). -/
def Mod.checkGroup (m : Mod) (q : Req) (num : Nat) : List Item → List (Nat × Nat) → Mod × (Sts × Nat) × List (Nat × Nat)
  | [], acc => (m, (.ok, 0), acc)
  | it :: t, acc =>
    let k := m.checkWrite q.c it
    match k.2.2 with
    | none => (k.1, (k.2.1, 0), [])
    | some r =>
      let v := k.1.written (privOf q.c.src) it.oid (it.val % 256 ^ it.len)
      if k.1.groupOf r it.oid ≠ some num then (k.1, (.noGroup, 0), [])
      else if (k.1.shadowSts q.c num it.oid v).1 ≠ .ok then (k.1, k.1.shadowSts q.c num it.oid v, [])
      else k.1.checkGroup q num t (acc ++ [(it.oid, v)])

/-- WRITE_GROUP (R80): every item a shadow, then the commit; nothing when an item fails. -/
def Mod.writeGroup (m : Mod) (q : Req) (num : Nat) (its : List Item) : WRes :=
  let k := m.checkGroup q num its []
  if k.2.1.1 ≠ .ok then { mod := k.1, sts := k.2.1.1, holder := k.2.1.2 }
  else
    let w := k.2.2.foldl (fun (x : WRes) s => if x.sts = .ok then x.mod.writeShadow q.c num s.1 s.2 else x) { mod := k.1 }
    if w.sts ≠ .ok then w else w.mod.commit q num

/-- A COMMIT or ABORT message has the effect of a write of its object, and meets the checks of that write (R79). -/
def Mod.groupMessage (m : Mod) (q : Req) (oid num : Nat) : WRes :=
  let k := m.checkWrite q.c { oid := oid, ty := 4, len := 4, val := num % 2 ^ 32 }
  if k.2.1 ≠ .ok then { mod := k.1, sts := k.2.1 } else if oid = 0x001000 then k.1.commit q num else k.1.abort q.c num

/-! Sessions (R82 to R85). -/

def Mod.sessionBySrc (m : Mod) (src : Source) : Option Session := m.di.sessions.find? fun s => s.src = src

/-- Open a session of a source: its earlier one closes first; BUSY when all 32 are in use. -/
def Mod.openSession (m : Mod) (src : Source) : Mod × Option Nat :=
  let m1 := match m.sessionBySrc src with
    | some s => m.closeSession s.id
    | none => m
  match (List.range 32).find? fun i => (m1.di.sessions.all fun s => s.id ≠ i + 2) with
  | none => (m1, none)
  | some i => (m1.onDi fun d => { d with sessions := d.sessions ++ [{ id := i + 2, src := src, lastAt := m1.now }] }, some (i + 2))

/-- The session a request belongs to, or the status that refuses it. Firmware has none. -/
def Mod.sessionFor (m : Mod) (h : ReqHdr) : Mod × Sts × Nat :=
  let opened := fun (_ : Unit) => match m.openSession h.src with
    | (m1, some i) => (m1, Sts.ok, i)
    | (m1, none) => (m1, .busy, 0)
  match h.src with
  | .firmware => (m, .ok, 0)
  | _ =>
    if h.session = 0 then opened ()
    else match m.sessionBySrc h.src with
      | some s => if s.id = h.session then (m, .ok, s.id) else (m, .header, 0)
      | none => (m, .header, 0)

/-! Requests (R76 to R80). -/

def bodyOpcode : Body → Nat
  | .read _ => 1 | .write _ => 2 | .multi _ => 3 | .group _ _ => 4 | .commit _ => 5 | .abort _ => 6 | .subscribe _ _ => 7 | .bad n => n

def itemLen (it : Item) : Nat := 8 + cdiv it.len 4 * 4

/-- Payload bytes of a request. -/
def bodyLen : Body → Nat
  | .read it => itemLen it
  | .write it => itemLen it
  | .multi l => (l.map itemLen).sum
  | .group _ l => 4 + (l.map itemLen).sum
  | .commit _ => 4
  | .abort _ => 4
  | .subscribe it _ => itemLen it + 4
  | .bad _ => 0

/-- The payload has the form of its opcode (R78): items without a value where the opcode carries none. -/
def bodyFormed : Body → Bool
  | .read it => decide (it.len = 0)
  | .multi l => decide (1 ≤ l.length ∧ l.length ≤ 64) && l.all fun it => decide (it.len = 0)
  | .group _ l => decide (1 ≤ l.length ∧ l.length ≤ 64)
  | .subscribe it _ => decide (it.len = 0)
  | .bad _ => false
  | _ => true

def bodyBytes : Body → List Nat
  | .read it => itemBytes { oid := it.oid, ty := it.ty, len := it.len, val := it.val }
  | .write it => itemBytes { oid := it.oid, ty := it.ty, len := it.len, val := it.val }
  | .multi l => l.flatMap fun it => itemBytes { oid := it.oid, ty := it.ty, len := it.len, val := it.val }
  | .group n l => toBytes 4 n ++ l.flatMap fun it => itemBytes { oid := it.oid, ty := it.ty, len := it.len, val := it.val }
  | .commit n => toBytes 4 n
  | .abort n => toBytes 4 n
  | .subscribe it n => itemBytes { oid := it.oid, ty := it.ty, len := it.len, val := it.val } ++ toBytes 4 n
  | .bad _ => []

/-- The request is malformed (R76, R78, R81). -/
def hdrBad (h : ReqHdr) (b : Body) : Bool :=
  decide (h.ver ≠ 1) || h.resp || decide (1456 < h.length) || decide (h.length ≠ h.wire) || decide (h.target % 4096 = 0xFFF) || !bodyFormed b ||
    decide ((bodyLen b) ≠ h.length)

/-- The ID under which another module keeps the proxy session of an own session; 0 before the first response from there (R76, R82). -/
def Mod.farSession (m : Mod) (sess sw : Nat) : Nat :=
  ((m.di.far.find? fun x => decide (x.1 = sess) && decide (x.2.1 = sw)).map (·.2.2)).getD 0

/-- Send a request on to the module that executes it, with the proxy response timer (R89 to R91): SESSION is the ID that module has assigned. -/
def Mod.proxyOn (m : Mod) (h : ReqHdr) (b : Body) (sess target : Nat) : Mod × Sts :=
  if privOf h.src = .tenant then (m, .accessDenied)
  else if 8 ≤ h.hops ∨ bit (m.objv (bearingOid target)) 63 = false then (m, .unreachable)
  else
    let p : Proxied := { session := sess, seq := h.seq, opcode := (bodyOpcode b), target := target, tag := m.di.nextTag,
                         deadline := m.now + m.objv 0x003400 * ms, src := h.src }
    ((m.onDi fun d => { d with proxied := d.proxied ++ [p] }).sendProxy target
      (parvorBytes (4 * b2n h.shadow) (bodyOpcode b) (m.farSession sess target) h.seq 0 ((h.hops + 1) * 4096 + target) 0 (bodyBytes b)), .ok)

/-! Subscriptions (R86). -/

/-- Objects a subscription of a source covers: one, or every element of an array that the source may read (R51, R86). -/
def Mod.subObjects (m : Mod) (src : Source) (s : Sub) : List Nat :=
  if s.all then ((List.range 255).map fun e => s.oid + 1 + e).filter fun o => (m.rowFor src o).any fun r => accReads (rowAcc (privOf src) r) else [s.oid]

/-- What a session reads of an object without side effects: 0 of a write-only one (R51). -/
def Mod.shown (m : Mod) (sess oid : Nat) : Nat :=
  match objFind oid with
  | some r => if r.writeOnly then 0 else m.view sess oid
  | none => 0

/-- Register a subscription: its ID, or the status that refuses it. DESIGN CHOICE (log entry 203): TYPE for an item whose type code does not match, RANGE
for a mode above 60,000. -/
def Mod.subscribe (m : Mod) (c : Caller) (it : Item) (mode : Nat) : Mod × Sts × Nat :=
  let st := m.readSts c.src it.oid
  let all := decide (it.oid % 256 = 0) && (objFind (it.oid + 1)).isSome
  let ok := (objFind it.oid).any fun r => decide (tyCode r.ty = it.ty)
  if c.sess < 2 ∨ 0x100 ≤ c.sess then (m, .busy, 0)
  else if st ≠ .ok then (m, st, 0)
  else if ok = false then (m, .type, 0)
  else if 60000 < mode then (m, .range, 0)
  else if 16 ≤ m.subsOf c.sess ∨ 256 ≤ m.di.subs.length then (m, .busy, 0)
  else
    let id := m.di.nextSub
    let s : Sub := { id := id, session := c.sess, oid := it.oid, all := all, mode := mode, lastAt := m.now, lastSeq := (m.heldRecords.head?.map (·.seq)).getD 0 }
    let s1 := { s with last := (m.subObjects c.src s).map fun o => (o, m.shown c.sess o) }
    (m.onDi fun d => { d with subs := d.subs ++ [s1], nextSub := d.nextSub % 65535 + 1 }, .ok, id)

/-! Execution (R73, R78 to R80). -/

/-- Items of a READ_MULTI, one after the other. -/
def Mod.readItems (m : Mod) (c : Caller) (shadow : Bool) : List Item → List RItem → Mod × List RItem
  | [], acc => (m, acc)
  | it :: t, acc =>
    let x := m.readItem c shadow it
    x.1.readItems c shadow t (acc ++ [x.2])

/-- Execute a request in its session, and answer it. DEDUCED: the message status of a READ or
WRITE is that of its item. -/
def Mod.execute (m : Mod) (h : ReqHdr) (b : Body) (sess : Nat) (stored : Bool) : Mod :=
  let c : Caller := { src := h.src, sess := sess }
  let q : Req := { c := c, opcode := (bodyOpcode b), seq := h.seq, stored := stored }
  let base : Resp := { opcode := (bodyOpcode b), session := sess, seq := h.seq }
  let done := fun (w : WRes) (r : Resp) => w.after (if w.deferred then w.mod else w.mod.answer h.src r)
  match b with
  | .read it =>
    let x := m.readItem c h.shadow it
    x.1.answer h.src { base with status := x.2.status, items := [x.2] }
  | .multi its =>
    if 1456 < (its.map (m.answerLen c)).sum then m.answer h.src { base with status := .tooLong }
    else
      let x := m.readItems c h.shadow its []
      x.1.answer h.src { base with items := x.2 }
  | .write it =>
    let w := m.writeOne q it
    if w.items = [] then done w { base with status := w.sts, holder := w.holder, items := [{ oid := it.oid, ty := it.ty, status := w.sts, pend := decide (w.sts = .ok) && (w.mod.shadowOf it.oid).isSome }] }
    else done w { base with status := w.sts, items := w.items }
  | .group num its =>
    let w := m.writeGroup q num its
    done w { base with status := w.sts, holder := w.holder }
  | .commit num =>
    let w := m.groupMessage q 0x001000 num
    done w { base with status := w.sts, holder := w.holder }
  | .abort num =>
    let w := m.groupMessage q 0x001200 num
    done w { base with status := w.sts, holder := w.holder }
  | .subscribe it mode =>
    let x := m.subscribe c it mode
    x.1.answer h.src { base with status := x.2.1, subid := x.2.2 }
  | .bad _ => m.answer h.src { base with status := .header }

/-- The request comes in an MCTP message of the Parvor kind, or by another transport (R97, R98). -/
def framed (h : ReqHdr) : Bool :=
  match h.src, h.frame with
  | .mctpPcie _, some f => decide (f = mctpFrame)
  | .mctpI3c _, some f => decide (f = mctpFrame)
  | _, _ => true

/-- What a window's fixed session may not ask for: a subscription, and of a Tenant a proxied request (R86, R90). Nothing else is a message of a window. -/
def Mod.windowRequest (m : Mod) (h : ReqHdr) (b : Body) : Mod :=
  let t := h.target % 4096
  let base : Resp := { opcode := bodyOpcode b, session := (fixedSession h.src).getD 0, seq := h.seq }
  if privOf h.src = .tenant ∧ t ≠ 0 ∧ t ≠ m.rt.id then m.respond h.src { base with status := .accessDenied }
  else match b with
    | .subscribe _ _ => m.respond h.src { base with status := .busy }
    | _ => m

/-- The session has sent a request (R84, R104). -/
def Mod.touch (m : Mod) (sess : Nat) : Mod :=
  m.onDi fun d => { d with sessions := d.sessions.map fun s => if s.id = sess then { s with lastAt := m.now } else s }

/-- A request arrives (R53, R76, R82, R85, R89, R97). A repeated SEQ brings its response again; one older than every kept response is discarded and
counted. DESIGN CHOICE (log entry 202): the form of a request is checked before its SEQ, and the HEADER answer to a malformed one is none of the kept responses. -/
def Mod.request (m : Mod) (h : ReqHdr) (b : Body) (stored : Bool) : Mod :=
  let base : Resp := { opcode := (bodyOpcode b), session := h.session, seq := h.seq }
  if m.serves h.src = false ∨ framed h = false then m
  else if (winKey h.src).isSome then m.windowRequest h b
  else if hdrBad h b then m.respond h.src { base with status := .header }
  else
    match m.sessionFor h with
    | (m0, .ok, sess) =>
      let m1 := (m0.touch sess).transportCtr h.src 0
      let kept := ((m1.di.sessions.find? fun (s : Session) => s.id = sess).map (·.kept)).getD []
      match kept.find? fun (r : Resp) => r.seq = h.seq with
      | some r => m1.respond h.src r
      | none =>
        let stale := kept.getLast?.any fun (o : Resp) => let d := (o.seq + 2 ^ 32 - h.seq % 2 ^ 32) % 2 ^ 32; decide (1 ≤ d ∧ d ≤ 2 ^ 31)
        if stale then m1.onDi fun d => { d with staleSeq := d.staleSeq + 1 }
        else
          let t := h.target % 4096
          if t = 0 ∨ t = m.rt.id then (m1.hubCtr 272 1).execute h b sess stored
          else match m1.proxyOn h b sess t with
            | (m3, .ok) => m3
            | (m3, s) => m3.answer h.src { base with session := sess, status := s }
    | (m1, s, _) => m1.respond h.src { base with status := s }

/-! Windows (R92 to R96, R100). -/

/-- Session of a window's accesses. -/
def callerOf (src : Source) : Caller := { src := src, sess := (fixedSession src).getD 0 }

/-- First failure of a direct access (R94). -/
def Mod.winFail (m : Mod) (k oid : Nat) (s : Sts) : Mod :=
  m.onDictWindow k fun w => if w.errStatus = 0 then { w with errStatus := s.code, errOid := oid } else w

/-- Object of a slot. -/
def slotOidOf (off : Nat) : Nat := mkOid (off / 2 ^ 23 % 16) (off / 2 ^ 11 % 4096) (off / 8 % 256)

/-- A direct access of size bytes at an offset names an object that a slot serves (R93, R94). DESIGN CHOICE (log entry 206): a 4-byte access of the upper
half of a small object's slot has the wrong alignment. -/
def Mod.slotSts (m : Mod) (src : Source) (off size : Nat) : Sts :=
  match m.rowFor src (slotOidOf off) with
  | none => .notFound
  | some r =>
    if r.ty = .blob ∨ r.ty = .string ∨ 8 < r.size ∨ off % 8 ≠ 0 ∨ size ≠ (if r.size ≤ 4 then 4 else 8) then .type else .ok

/-- A write of one object through a window, in its fixed session. -/
def Mod.winWriteOne (m : Mod) (src : Source) (opcode oid v len : Nat) (stored : Bool) : WRes :=
  match m.rowFor src oid with
  | none => { mod := m, sts := .notFound }
  | some r => m.writeOne { c := callerOf src, opcode := opcode, stored := stored } { oid := oid, ty := tyCode r.ty, len := len, val := v % 256 ^ len }

/-- A 4-byte write of a value that a smaller object cannot hold: what a protocol write meets before the range check, then RANGE. DESIGN CHOICE (log entry
205): the upper bytes are not ignored. -/
def Mod.winWriteWide (m : Mod) (src : Source) (oid v len : Nat) : WRes :=
  let k := m.checkWrite (callerOf src) { oid := oid, ty := ((objFind oid).map fun r => tyCode r.ty).getD 0, len := len, val := v % 256 ^ len }
  { mod := k.1, sts := if k.2.1 = .ok then .range else k.2.1 }

/-- An operation of the window is in progress: a COMMIT of it awaits its apply point. -/
def Mod.winBusy (m : Mod) (src : Source) : Bool :=
  m.di.groups.any fun g => decide (g.src = src) && decide (g.opcode = 0) && decide (g.st ≠ .opened) && !g.answered

/-- The control register of a window is written; GO starts the operation (R95). DESIGN CHOICE (log entry 207): a WRITE of a length that is not 1 to 1,024 is
refused with TYPE; WIN_DATA beyond the value read is zero, and a READ that fails leaves it. -/
def Mod.winCtrl (m : Mod) (src : Source) (k v : Nat) (stored : Bool) : Mod :=
  let m1 := m.onDictWindow k fun w => { w with op := fld v 29 2, shadow := bit v 28, length := v % 2048 }
  let w := m1.dictWindow k
  if bit v 31 = false ∨ m.winBusy src = true then m1
  else if w.op = 0 then
    let ty := ((m1.rowFor src w.oid).map fun r => tyCode r.ty).getD 0
    let x := m1.readItem (callerOf src) w.shadow { oid := w.oid, ty := ty }
    x.1.onDictWindow k fun w =>
      { w with status := x.2.status.code, pend := x.2.pend, length := if x.2.status = .ok then x.2.len else w.length,
               data := if x.2.status = .ok then x.2.val * 256 ^ (1024 - x.2.len) else w.data }
  else if w.op = 1 then
    if w.length = 0 ∨ 1024 < w.length then m1.onDictWindow k fun w => { w with status := Sts.type.code }
    else
      let r := m1.winWriteOne src 0 w.oid (w.data / 256 ^ (1024 - w.length)) w.length stored
      let m2 := r.mod.onDictWindow k fun x => { x with status := if r.deferred then x.status else r.sts.code, pend := (r.mod.shadowOf w.oid).isSome }
      r.after m2
  else m1.onDictWindow k fun w => { w with status := Sts.header.code }

/-- Bytes of WIN_DATA from offset o, the lowest address first. -/
def Window.bytes (w : Window) (o n : Nat) : Nat := ofBytesLE ((List.range n).map fun i => w.data / 256 ^ (1023 - (o + i)) % 256)

/-- A write of WIN_DATA. -/
def Window.put (w : Window) (o n v : Nat) : Window :=
  { w with data := ((List.range n).filter fun i => o + i < 1024).foldl (fun d i => setFld d (8 * (1023 - (o + i))) 8 (v / 256 ^ i % 256)) w.data }

/-- A read in the space of area F: the state and the value (R94, R95); each RC field of WIN_ERR is cleared by the access that reads it. DESIGN CHOICE
(log entry 208): an 8-byte access at one of the three 4-byte registers reaches that register alone. -/
def Mod.winRegRead (m : Mod) (src : Source) (k o size : Nat) : Mod × Nat :=
  let w := m.dictWindow k
  if o = 0 then (m, w.oid)
  else if o = 4 then (m, pack [(w.op, 29, 2), (b2n w.shadow, 28, 1), (w.length, 0, 11)])
  else if o = 8 then (m, pack [(b2n (m.winBusy src), 31, 1), (b2n w.pend, 30, 1), (w.status, 0, 16)])
  else if o = 0x10 then
    if size = 8 then (m.onDictWindow k fun w => { w with errStatus := 0, errOid := 0 }, pack [(w.errStatus, 48, 16), (w.errOid, 0, 24)])
    else (m.onDictWindow k fun w => { w with errOid := 0 }, w.errOid)
  else if o = 0x14 then (m.onDictWindow k fun w => { w with errStatus := 0 }, pack [(w.errStatus, 16, 16)])
  else if 0x400 ≤ o ∧ o < 0x800 then (m, w.bytes (o - 0x400) size)
  else (m, 0)

/-- A write in the space of area F. -/
def Mod.winRegWrite (m : Mod) (src : Source) (k o size v : Nat) (stored : Bool) : Mod :=
  if o = 0 then m.onDictWindow k fun w => { w with oid := v % 2 ^ 24 }
  else if o = 4 then m.winCtrl src k v stored
  else if 0x400 ≤ o ∧ o < 0x800 then m.onDictWindow k fun w => w.put (o - 0x400) size v
  else m

/-- A read of a slot, or of a register of the window (R93, R94). -/
def Mod.slotRead (m : Mod) (src : Source) (off size : Nat) : Mod × Nat :=
  match winKey src with
  | none => (m, 0)
  | some k =>
    if m.serves src = false then (m, 256 ^ size - 1)
    else if 0x7800000 ≤ off then m.winRegRead src k (off - 0x7800000) size
    else
      let oid := slotOidOf off
      let ty := ((m.rowFor src oid).map fun r => tyCode r.ty).getD 0
      let s := m.slotSts src off size
      if s ≠ .ok then (m.winFail k oid s, 256 ^ size - 1)
      else
        let x := m.readItem (callerOf src) false { oid := oid, ty := ty }
        if x.2.status = .ok then (x.1.onDictWindow k fun w => { w with pend := x.2.pend }, x.2.val) else (x.1.winFail k oid x.2.status, 256 ^ size - 1)

/-- A write of a slot, or of a register of the window (R93, R94); PEND of the window follows (R95). -/
def Mod.slotWriteAt (m : Mod) (src : Source) (off size v : Nat) (stored : Bool) : Mod :=
  match winKey src with
  | none => m
  | some k =>
    if m.serves src = false then m
    else if 0x7800000 ≤ off then m.winRegWrite src k (off - 0x7800000) size (v % 256 ^ size) stored
    else
      let oid := slotOidOf off
      let s := m.slotSts src off size
      if s ≠ .ok then m.winFail k oid s
      else
        let len := ((objFind oid).map (·.size)).getD 8
        let r := if v % 256 ^ size < 256 ^ len then m.winWriteOne src 255 oid v len stored else m.winWriteWide src oid v len
        r.after (if r.sts = .ok then r.mod.onDictWindow k fun w => { w with pend := (r.mod.shadowOf oid).isSome } else r.mod.winFail k oid r.sts)

/-! Writes that other commands name. -/

/-- The next SEQ a source uses. -/
def Mod.nextSeq (m : Mod) (src : Source) : Nat :=
  match m.sessionBySrc src with
  | some s => ((s.kept.head?.map fun r => (r.seq + 1) % 2 ^ 32)).getD 1
  | none => 1

/-- The header of a request of n payload bytes that a source sends for itself, in the session it has or with SESSION 0. -/
def Mod.rowHdr (m : Mod) (src : Source) (n : Nat) : ReqHdr :=
  { src := src, session := ((m.sessionBySrc src).map fun (s : Session) => s.id).getD 0, seq := m.nextSeq src, length := n, wire := n }

/-- A source writes v to an object: through its window where it has one, by a WRITE in its session, or as firmware. -/
def Mod.writeRow (m : Mod) (src : Source) (oid v : Nat) (stored : Bool) : Mod :=
  match objFind oid with
  | none => m
  | some r =>
    match winKey src with
    | some k =>
      if m.serves src = false then m
      else
        let w := m.winWriteOne src 255 oid v r.size stored
        w.after (if w.sts = .ok then w.mod.onDictWindow k fun x => { x with pend := (w.mod.shadowOf oid).isSome } else w.mod.winFail k oid w.sts)
    | none =>
      let it : Item := { oid := oid, ty := tyCode r.ty, len := r.size, val := v % 256 ^ r.size }
      m.request (m.rowHdr src (itemLen it)) (.write it) stored

/-- A source reads an object. -/
def Mod.readRow (m : Mod) (src : Source) (oid : Nat) : Mod :=
  match objFind oid with
  | none => m
  | some r =>
    let it : Item := { oid := oid, ty := tyCode r.ty }
    if (winKey src).isSome then
      if m.serves src then
        let x := m.readItem (callerOf src) false it
        x.1.emit (.value src x.2.val)
      else m
    else m.request (m.rowHdr src 8) (.read it) true

end Sys2Proof.Machine
end

