-- ==== Sys2Proof/Machine/ProxyEngine.lean ====
section
/-! DEFINITION. Proxied messages at both ends: the bytes of a message read back, the segments that carry it joined, answers delivered, and what the
firmware does with the answers to its own requests (R76 to R78, R89 to R91, R314, R393, R396, R400, R472, R474); notifications (R87, R88). -/
namespace Sys2Proof.Machine

/-! Messages from bytes. -/

/-- Items of a payload; none when the bytes are no sequence of items (R77). A request's items carry status 0. -/
def parseItems : Nat → List Nat → Option (List (Item × Nat))
  | _, [] => some []
  | 0, _ => none
  | n + 1, l =>
    let f := fun (i k : Nat) => ofBytes ((l.drop i).take k)
    let len := f 4 2
    let all := 8 + cdiv len 4 * 4
    if l.length < all then none
    else (parseItems n (l.drop all)).map fun t => ({ oid := f 0 3, ty := f 3 1, len := len, val := f 8 len }, f 6 2) :: t

/-- The body of a request, by its opcode (R78). -/
def parseBody (opcode : Nat) (l : List Nat) : Body :=
  let items := fun (l : List Nat) => (parseItems l.length l).map fun x => x.map (·.1)
  let n := l.length
  match opcode with
  | 1 => (match items l with
      | some [it] => .read it
      | _ => .bad 1)
  | 2 => (match items l with
      | some [it] => .write it
      | _ => .bad 2)
  | 3 => (match items l with
      | some its => .multi its
      | none => .bad 3)
  | 4 => (match items (l.drop 4) with
      | some its => if n < 4 then .bad 4 else .group (ofBytes (l.take 4)) its
      | none => .bad 4)
  | 5 => if n = 4 then .commit (ofBytes l) else .bad 5
  | 6 => if n = 4 then .abort (ofBytes l) else .bad 6
  | 7 => (match items (l.take (n - 4)) with
      | some [it] => if n < 4 then .bad 7 else .subscribe it (ofBytes (l.drop (n - 4)))
      | _ => .bad 7)
  | _ => .bad opcode

/-- The status of a code (R81). -/
def stsOf (n : Nat) : Sts :=
  ([.ok, .pending, .notFound, .accessDenied, .type, .range, .locked, .mode, .busy, .noGroup, .token, .unreachable, .timeout, .header, .tooLong, .timePast,
    .flash] : List Sts).getD n .header

/-- Items of an answer, with PEND and status. -/
def answerItems (l : List (Item × Nat)) : List RItem :=
  l.map fun x => { oid := x.1.oid, ty := x.1.ty, len := x.1.len, val := x.1.val, status := stsOf (x.2 % 2 ^ 15), pend := bit x.2 15 }

/-! Answers to the firmware's own requests. -/

/-- The extent that waits for the home's answer to a bind, or to an unbind. -/
def Mod.extWaiting (m : Mod) (home v : Nat) (bind : Bool) : Option Nat :=
  (m.exts.find? fun x => (decide (m.extParcel x.1 x.2 = (home, fld v 34 16)) || decide ((extHome x.2, extDesc x.2) = (home, fld v 34 16))) &&
    (if bind then decide (extState x.2 = 2) && decide (extTenant x.2 = fld v 26 8) && (m.extAux x.1).size.isNone else (m.extAux x.1).unbinding)).map (·.1)

/-- The served descriptor whose reserve copy is descriptor x of a partner. -/
def Mod.ofPartner (m : Mod) (sw x : Nat) : Option Nat :=
  m.descs.find? fun i => decide (m.dPartner i = sw) && decide (fld (m.objv (descOid 1 i)) 0 16 = x)

/-- Descriptor a descriptor object belongs to. -/
def descOf (oid : Nat) : Nat := (oid / 256 - 0x9200) % 0x200 * 128 + (oid % 256 - 1)

/-- The reserve copy of descriptor i could not be written (R396). -/
def Mod.copyStale (m : Mod) (i : Nat) : Mod :=
  (m.setDesc 0 i (setFld (m.d0 i) 20 1 1)).onPo fun b =>
    { b with stale := tset (0, 0) i ((if (tget (0, 0) i b.stale).1 = 0 then m.now + 1 else (tget (0, 0) i b.stale).1), m.now + 1) b.stale }

/-- Whether the answer to a message or to its first item is OK. -/
def answeredOk (s : Sts) (items : List RItem) : Bool := decide (s = .ok) && items.all fun i => decide (i.status = .ok)

/-- The firmware takes the answer to a request of its own, or its timeout. -/
def Mod.firmwareAnswer (m : Mod) (p : Proxied) (s : Sts) (items : List RItem) : Mod :=
  let ok := answeredOk s items
  let v := fun (i : Nat) => ((items[i]?).map (·.val)).getD 0
  if p.oid = 0x901000 ∧ fld p.val 62 2 = 1 then
    match m.extWaiting p.target p.val true with
    | some e => if items = [] ∨ (ok = false ∧ fld (v 0) 61 3 = 0) then (m.extFail e 5).settle else (m.bindAnswer e (v 0) (v 1)).settle
    | none => m
  else if p.oid = 0x901000 then
    match m.extWaiting p.target p.val false with
    | some e => if items = [] then m else (m.unbound e).settle
    | none => m
  else if p.oid = 0xA06200 then if ok then m.flushAnswered (fld p.val 16 16) p.target else m
  else if p.oid = 0xA06300 then if ok then m.onCa fun b => { b with reports := b.reports.filter fun r => r.hdr ≠ p.val } else m
  else
    match m.ofPartner p.target (descOf p.oid) with
    | none => m
    | some i =>
      if p.opcode = 1 then
        if ok = false ∨ i ∉ m.po.await then m
        else if fld (v 0) 61 3 = 6 then (m.serveAlone i).settle
        else (m.setDState i 6).onPo fun b => { b with await := without i b.await }
      else if ok then (m.setDesc 0 i (setFld (m.d0 i) 20 1 0)).onPo fun b => { b with stale := tdel i b.stale }
      else m.copyStale i

/-! Answers at the origin (R89, R91). -/

/-- The response a module has sent, from its items: beside LOCKED the last item holds the holder's session ID (R63, R70; log entry 201). -/
def lockedItems (s : Sts) (items : List RItem) : List RItem × Nat :=
  match s, items.getLast? with
  | .locked, some i => if i.oid = 0x002100 then (items.dropLast, i.val) else (items, 0)
  | _, _ => (items, 0)

/-- The answer to a proxied message ends its wait: delivered to its session, or taken by the firmware. -/
def Mod.proxyEnds (m : Mod) (p : Proxied) (s : Sts) (subid : Nat) (items : List RItem) : Mod :=
  let m1 := m.onDi fun d => { d with proxied := d.proxied.filter fun x => x ≠ p }
  let x := lockedItems s items
  if p.src = .firmware then m1.firmwareAnswer p s x.1
  else m1.answer p.src { opcode := p.opcode, session := p.session, seq := p.seq, status := s, holder := x.2, subid := subid, items := x.1 }

/-- The session ID that the other module has assigned is used from now on (R76, R82). -/
def Mod.learnFar (m : Mod) (p : Proxied) (id : Nat) : Mod :=
  if p.src = .firmware ∨ id = 0 ∨ m.farSession p.session p.target ≠ 0 then m
  else m.onDi fun d => { d with far := d.far ++ [(p.session, p.target, id)] }

/-- A response from another module meets the message it answers; a late one is discarded and counted (R91). -/
def Mod.proxyAnswer (m : Mod) (which : Proxied → Bool) (far : Nat) (s : Sts) (subid : Nat) (items : List RItem) : Mod :=
  match m.di.proxied.find? which with
  | some p => (m.learnFar p far).proxyEnds p s subid items
  | none => m.onDi fun d => { d with lateProxy := d.lateProxy + 1 }

/-- A response that module sw sends under a session ID of its own answers the message of that SEQ, of the session it keeps under this ID or of one it has just
opened a session for. -/
def Mod.answersMsg (m : Mod) (sw id seq : Nat) (p : Proxied) : Bool :=
  decide (p.target = sw) && decide (p.seq = seq) && (decide (p.src = .firmware) || decide (m.farSession p.session sw = 0) || decide (m.farSession p.session sw = id))

/-! Segments (R314). -/

/-- The packet carries a segment of a Parvor message. -/
def isProxy (p : Pkt) : Bool := decide (p.tc = 7) && decide (fld p.body 56 8 = 6)

/-- A complete message from module sw: a NOTIFY and a response go to their session, a request is executed in a proxy session with the privilege of its
originating session. DESIGN CHOICE (log entry 204): SEQ and SUBID of a NOTIFY that comes by proxy are the executing module's. -/
def Mod.proxyMessage (m : Mod) (sw priv orig : Nat) (stored : Bool) (l : List Nat) : Mod :=
  let f := fun (i k : Nat) => ofBytes ((l.drop i).take k)
  let payload := l.drop 16
  let op := f 1 1
  let items := answerItems ((parseItems payload.length payload).getD [])
  if bit (f 0 1) 3 then
    if op = 8 then
      match m.di.far.find? fun x => decide (x.2.1 = sw) && decide (x.2.2 = f 2 2) with
      | some x => (match m.di.sessions.find? fun s => s.id = x.1 with
        | some s => m.emit (.notify s.src s.id (f 14 2) (f 4 4) items)
        | none => m)
      | none => m
    else m.proxyAnswer (m.answersMsg sw (f 2 2) (f 4 4)) (f 2 2) (stsOf (f 10 2)) (f 14 2) items
  else
    m.request { src := .proxy sw orig priv, ver := f 0 1 / 16, shadow := bit (f 0 1) 2, session := f 2 2, seq := f 4 4, length := f 8 2, wire := payload.length,
                hops := f 12 2 / 4096, target := f 12 2 % 4096 } (parseBody op payload) stored

/-- A segment is joined with its siblings; the last one to arrive completes the message. -/
def Mod.proxySegment (m : Mod) (p : Pkt) (priv orig : Nat) (stored : Bool) : Mod :=
  let n := fld p.body 52 2
  let tag := fld p.body 32 16
  let len := fld p.body 16 16
  let part := (fld p.body 54 2, p.data)
  let key := fun (b : SegBuf) => decide (b.src = p.src) && decide (b.tag = tag)
  let buf : SegBuf := (m.di.segs.find? key).getD { src := p.src, tag := tag, total := n, len := len, firstAt := m.now }
  let b1 := { buf with parts := buf.parts.filter (fun x => x.1 ≠ part.1) ++ [part] }
  let rest := m.di.segs.filter fun b => !key b
  if (List.range b1.total).all fun i => b1.parts.any fun x => x.1 = i then
    let words := (List.range b1.total).flatMap fun i => ((b1.parts.find? fun x => x.1 = i).map (·.2)).getD []
    (m.onDi fun d => { d with segs := rest }).proxyMessage p.src priv orig stored ((words.flatMap fun w => toBytes 8 w).take b1.len)
  else m.onDi fun d => { d with segs := rest ++ [b1] }

/-! Notifications (R86 to R88, R605). -/

/-- Cut a list into pieces of n. -/
def pieces {α : Type} (n : Nat) : Nat → List α → List (List α)
  | 0, _ => []
  | k + 1, l => if l.isEmpty then [] else l.take n :: pieces n k (l.drop n)

/-- Send one NOTIFY of a session, with the next SEQ. DESIGN CHOICE (log entry 204): the first of a session has SEQ 1. -/
def Mod.notify (m : Mod) (s : Session) (subid : Nat) (items : List RItem) : Mod :=
  let seq := (((m.di.sessions.find? fun x => x.id = s.id).map (·.notifySeq)).getD 0 + 1) % 2 ^ 32
  let m1 := m.onDi fun d => { d with sessions := d.sessions.map fun x => if x.id = s.id then { x with notifySeq := seq } else x }
  match s.src with
  | .proxy sw _ _ =>
    m1.sendProxy sw (parvorBytes 8 8 s.id seq 0 0 subid (items.flatMap fun i =>
      itemBytes { oid := i.oid, ty := i.ty, len := i.len, status := i.status.code + 32768 * b2n i.pend, val := i.val }))
  | _ => m1.emit (.notify s.src s.id subid seq items)

/-- Event records newer than a SEQ, oldest first. -/
def Mod.recordsAfter (m : Mod) (seq : Nat) : List EventRec := (m.heldRecords.filter fun r => decide (seq = 0) || seqAhead seq r.seq).reverse

/-- The latest values a subscription has to send: the changed ones, or with a period every one. -/
def Mod.subItems (m : Mod) (src : Source) (s : Sub) : List RItem :=
  let item := fun (o v : Nat) =>
    let r := objFind o
    ({ oid := o, ty := (r.map fun r => tyCode r.ty).getD 0, len := (r.map fun r => valueLen r v).getD 0, val := v, pend := (m.shadowOf o).isSome } : RItem)
  if s.oid = 0xE01400 ∧ s.mode = 0 then (m.recordsAfter s.lastSeq).map fun r => item 0xE01400 (m.recordBits r)
  else
    let now := (m.subObjects src s).map fun o => (o, m.shown s.session o)
    (now.filter fun x => decide (s.mode ≠ 0) || x ∉ s.last).map fun x => item x.1 x.2

/-- A period of a subscription ends: its items go in NOTIFYs of at most 1,456 bytes, and of at most 36 event records. -/
def Mod.notifySub (m : Mod) (x : Sub) : Mod :=
  match m.di.sessions.find? fun s => s.id = x.session with
  | none => m
  | some s =>
    if m.serves s.src = false then m
    else
      let m1 := m.advanceTo (x.lastAt + (if x.mode = 0 then ms else x.mode * ms))
      let items := m1.subItems s.src x
      let most := items.foldl (fun a i => max a (8 + cdiv i.len 4 * 4)) 9
      let m2 := m1.each (pieces (1456 / most) items.length items) fun l m => m.notify s x.id l
      let x1 := { x with lastAt := m1.now, last := (m1.subObjects s.src x).map fun o => (o, m1.shown x.session o), lastSeq := (m1.heldRecords.head?.map (·.seq)).getD x.lastSeq }
      m2.onDi fun d => { d with subs := d.subs.map fun y => if y.id = x.id then x1 else y }

end Sys2Proof.Machine
end

