-- ==== Sys2Proof/Machine/Dictionary.lean ====
section
/-! DEFINITION. The commands of the object dictionary and its transports (R45 to R104): requests, groups, sessions, notifications, proxied messages,
windows; and the commands that apply committed groups. `stored` tells that stores in module flash take (R57). -/
namespace Sys2Proof.Machine

/-- R78: a READ of one item. -/
def execDictRead (h : ReqHdr) (it : Item) : State → Host.Outcome State Fault Refusal := lift fun m => m.request h (.read it) true

/-- R78, R61: a WRITE of one item. -/
def execDictWrite (h : ReqHdr) (it : Item) (stored : Bool) : State → Host.Outcome State Fault Refusal := lift fun m => m.request h (.write it) stored

/-- R78: a READ_MULTI. -/
def execDictReadMulti (h : ReqHdr) (its : List Item) : State → Host.Outcome State Fault Refusal := lift fun m => m.request h (.multi its) true

/-- R80: a WRITE_GROUP. -/
def execDictWriteGroup (h : ReqHdr) (num : Nat) (its : List Item) (stored : Bool) : State → Host.Outcome State Fault Refusal := lift fun m =>
  m.request h (.group num its) stored

/-- R66: a COMMIT. -/
def execDictCommit (h : ReqHdr) (num : Nat) (stored : Bool) : State → Host.Outcome State Fault Refusal := lift fun m => m.request h (.commit num) stored

/-- R71: an ABORT. -/
def execDictAbort (h : ReqHdr) (num : Nat) : State → Host.Outcome State Fault Refusal := lift fun m => m.request h (.abort num) true

/-- R86: a SUBSCRIBE. -/
def execDictSubscribe (h : ReqHdr) (it : Item) (mode : Nat) : State → Host.Outcome State Fault Refusal := lift fun m => m.request h (.subscribe it mode) true

/-! Groups (R65 to R68). -/

/-- A stream takes its committed keys and is secure; the port forwards again once no stream of it is insecure (R230, R231). -/
def Mod.keyChange (m : Mod) (p s : Nat) : Mod :=
  let m1 := m.onIde p s fun _ => { state := 2, committed := false }
  if (List.range 6).any fun i => decide ((m1.ideSt p i).state = 3) then m1 else m1.onEdge (m1.lead p) fun e => { e with stopped := false }

/-- R67: the owning block of a committed group reaches its apply point. A key set of a stream whose link runs applies at a key-change point, which makes
the stream secure (R230). -/
def execGroupApply (num : Nat) : State → Host.Outcome State Fault Refusal := lift fun m =>
  match m.group num with
  | none => m
  | some g =>
    if g.st ≠ .applying then m
    else if m.groupGated g then m
    else if g.kind = 7 then
      let x := ideOf g
      let m1 := m.applyGroup g
      if (m.edge (m.lead x.1)).dllUp ∧ (m.ideSt x.1 x.2).state ≠ 3 then m1.keyChange x.1 x.2 else m1
    else if m.groupWaits g then m
    else m.applyGroup g

/-- R68: a committed group has not applied 1 ms after its hand-off. -/
def execCommitPendingAnswer (num : Nat) : State → Host.Outcome State Fault Refusal := lift fun m =>
  match m.group num with
  | none => m
  | some g =>
    if g.st = .opened ∨ g.answered = true then m
    else ((m.advanceTo (g.handedAt + ms)).onGroup num fun x => { x with answered := true }).answer g.src (g.resp .pending)

/-- R65: a group's lock is 10 s old. -/
def execGroupLockExpiry (num : Nat) : State → Host.Outcome State Fault Refusal := lift fun m =>
  match m.group num with
  | none => m
  | some g => if g.st = .opened then ((m.advanceTo (g.openedAt + 10 * sec)).dropGroup num).raise (evt 0x0001 Loc.module 0 num) else m

/-- R375, R377: the take-over time of port p's armed gate list comes, or meridian time has stepped past it. A list stored before the last reset takes
over in the same way (R374). -/
def execGateTakeover (p : PortIx) : State → Host.Outcome State Fault Refusal := lift fun m =>
  let go := fun (m : Mod) (T : Nat) => if T < m.meridian then (m, true) else (m.advanceMeridian T, false)
  match m.group (6 * 2 ^ 24 + p) with
  | some g =>
    if g.st ≠ .armed ∨ m.groupGated g = true then m
    else
      let T := m.withShadow g (gateObj p 1)
      let x := go m T
      (x.1.applyGroup g).gateTakeover p T x.2
  | none =>
    let T := m.objv (gateObj p 1)
    if m.objv (gateObj p 2) ≠ 0 ∧ (m.sched p).gateRun = false ∧ m.ti.locked = true then
      let x := go m T
      x.1.gateTakeover p T x.2
    else m

/-- R230, R231: stream s of a port reaches its key-change point: keys committed take effect, and the stream is secure. -/
def execIdeKeyChangePoint (p : EdgePort) (s : Fin 6) : State → Host.Outcome State Fault Refusal := lift fun m =>
  let q := m.lead p
  let m0 := match m.di.groups.find? fun g => decide (g.kind = 7) && decide (g.st = .applying) && decide (ideOf g = (q, s.val)) with
    | some g => m.applyGroup g
    | none => m
  let x := m0.ideSt q s
  if x.committed = true ∧ (m0.edge q).dllUp = true ∧ x.state ≠ 3 then
    m0.keyChange q s
  else m0

/-- R28, R67: a gated region has its power back after avg 2 ms; groups held for it apply. -/
def execRegionUngate (r : Region) : State → Host.Outcome State Fault Refusal := lift fun m =>
  if (m.region r).gated then
    let m1 := (m.advance (2 * ms)).ungateRegion r
    let gs := m.di.groups.filter fun g => m.groupGated g && !m1.groupGated g
    m1.each gs fun g m =>
      if g.st = .applying then m.applyGroup g
      else if g.st = .armed ∧ m.withShadow g (gateObj g.inst 1) ≤ m.meridian then (m.applyGroup g).gateTakeover g.inst (m.withShadow g (gateObj g.inst 1)) false
      else m
  else m

/-! Sessions, notifications (R84, R87). -/

/-- R84: a dynamic session has been idle for the session timeout. -/
def execSessionIdleTimeout (id : Nat) : State → Host.Outcome State Fault Refusal := lift fun m =>
  match m.di.sessions.find? fun s => s.id = id with
  | none => m
  | some s => (m.advanceTo (s.lastAt + m.objv 0x003500 * sec)).closeSession id

/-- R87: the 1 ms period, or the period, of a subscription ends. -/
def execNotifySend (id : Nat) : State → Host.Outcome State Fault Refusal := lift fun m =>
  match m.di.subs.find? fun s => s.id = id with
  | some s =>
    let src := ((m.di.sessions.find? fun x => x.id = s.session).map (·.src)).getD .firmware
    if s.mode = 0 ∧ m.subItems src s = [] then m else m.notifySub s
  | none => m

/-! Proxied messages (R89 to R91, R314). -/

/-- R89: a response returns from another module to an own session: its SEQ, the session ID it carries, status, SUBID and items, each with its item
status. -/
def execProxyResponse (sess : SessPair) (seq status subid : Nat) (items : List (Item × Nat)) : State → Host.Outcome State Fault Refusal := lift fun m =>
  m.proxyAnswer (fun p => decide (p.session = sess.own) && decide (p.seq = seq)) sess.far (stsOf status) subid (answerItems items)

/-- R91: the proxy response timer of the i-th proxied message expires. -/
def execProxyTimeout (i : Nat) : State → Host.Outcome State Fault Refusal := lift fun m =>
  match m.di.proxied[i]? with
  | none => m
  | some p => (m.advanceTo p.deadline).proxyEnds p .timeout 0 []

/-- R314: the i-th packet for the module is a PROXY segment; `req` says whose session asks, with what privilege (R82, R89). -/
def execProxySegmentReceived (i : Nat) (req : ProxyOf) : State → Host.Outcome State Fault Refusal := lift fun m =>
  match m.takeInbox i isProxy with
  | (m1, some p) => m1.proxySegment p req.priv req.orig req.stored
  | (_, none) => m

/-- R314: the i-th message whose segments have not all arrived is discarded 1 s after its first. -/
def execProxyReassemblyTimeout (i : Nat) : State → Host.Outcome State Fault Refusal := lift fun m =>
  match m.di.segs[i]? with
  | none => m
  | some b => ((m.advanceTo (b.firstAt + sec)).onDi fun d => { d with segs := d.segs.eraseIdx i }).bump 0x600600 1

/-! Windows (R92 to R96). -/

/-- R93: a read of `size` bytes at an offset of a dictionary window. -/
def execSlotRead (src : Source) (off : Nat) (wide : Bool) : State → Host.Outcome State Fault Refusal := lift fun m =>
  let x := m.slotRead src (off % 2 ^ 27) (if wide then 8 else 4)
  if (winKey src).isSome then x.1.emit (.value src x.2) else m

/-- R93: a write of 4 or 8 bytes at an offset of a dictionary window. -/
def execSlotWrite (src : Source) (off : Nat) (wide : Bool) (v : Nat) (stored : Bool) : State → Host.Outcome State Fault Refusal := lift fun m =>
  m.slotWriteAt src (off % 2 ^ 27) (if wide then 8 else 4) v stored

/-- R95: GO with OP 0: the object named in WIN_OID is read into WIN_DATA, its shadow when the holder asks for it. -/
def execWinRead (src : Source) (shadow : Bool) : State → Host.Outcome State Fault Refusal := lift fun m =>
  match winKey src with
  | some k => if m.serves src then m.winCtrl src k (2 ^ 31 + b2n shadow * 2 ^ 28) true else m
  | none => m

/-- R95: GO with OP 1: the object named in WIN_OID is written with `len` bytes of WIN_DATA. -/
def execWinWrite (src : Source) (len : Fin 2048) (stored : Bool) : State → Host.Outcome State Fault Refusal := lift fun m =>
  match winKey src with
  | some k => if m.serves src then m.winCtrl src k (2 ^ 31 + 2 ^ 29 + len) stored else m
  | none => m

/-- R94: a read of WIN_ERR returns the first failed direct access and clears it. -/
def execWinErrRead (src : Source) : State → Host.Outcome State Fault Refusal := lift fun m =>
  let x := m.slotRead src 0x7800010 8
  if (winKey src).isSome then x.1.emit (.value src x.2) else m

/-- R103: the SMBus Alert Response Address is answered with the island's own target address while ALERT_N is asserted. -/
def execAlertResponseAddress : State → Host.Outcome State Fault Refusal := lift fun m =>
  if m.md.mode ≠ .off ∧ m.di.strapped = true ∧ m.alert = true then m.emit (.smbus (0x20 + m.di.slotId)) else m

/-! Registers without a command of their own (R93, R516, R526). -/

/-- A write of SQ_BASE or CQ_BASE: refused and counted while ENABLE is 1 (R518). -/
def Mod.baseWrite (m : Mod) (n j : Nat) (f : QpSt → QpSt) : Mod :=
  m.onBlock n j fun q m => if (m.qp q).enable then m.bump (vfOid n 9) 1 else m.onQp q f

/-! The fast-path map (R516): of a VF's BAR0; agent 256 is the management PF's BAR2, which has its own side, its call side and its MSI-X table. -/

/-- Function whose BAR an agent's map is. -/
def agentFn (a : Nat) : Nat := if a < 256 then vfFn a else 0

/-- What the map states at an offset: the sizes it takes, whether it is read, whether it is written. -/
def Mod.fastMap (m : Mod) (a off : Nat) : List Nat × Bool × Bool :=
  let entries := m.msixSize (agentFn a)
  if a < 256 ∧ off < 0x800 then
    if off % 32 ≤ 8 ∧ off % 8 = 0 then ([8], true, true)
    else if off % 4 = 0 ∧ 16 ≤ off % 32 then ([4], true, decide (off % 32 ≠ 28)) else ([], false, false)
  else if a < 256 ∧ off = 0x800 then ([4], true, false)
  else if a < 256 ∧ off = 0x804 then ([4], true, true)
  else if a < 256 ∧ off = 0x810 then ([4], false, true)
  else if a < 256 ∧ (off = 0x818 ∨ off = 0x820) then ([8], true, false)
  else if off = 0x1008 ∨ off = 0x100C ∨ off = 0x1010 ∨ off = 0x1100 ∨ off = 0x1104 then ([4], true, true)
  else if off = 0x1000 ∨ off = 0x110C ∨ off = 0x1114 then ([4], true, false)
  else if off = 0x1004 ∨ off = 0x1108 ∨ off = 0x1110 then ([4], false, true)
  else if 0x8000 ≤ off ∧ off < 0x8000 + 16 * entries then ([4, 8], true, true)
  else if 0x9000 ≤ off ∧ off < 0x9000 + 8 * cdiv entries 64 then ([4, 8], true, false)
  else ([], false, false)

/-- The access is one that the map states, naturally aligned. -/
def Mod.fastOk (m : Mod) (a off size : Nat) (write : Bool) : Bool :=
  let x := m.fastMap a off
  x.1.contains size && decide (off % size = 0) && (if write then x.2.2 else x.2.1)

/-- VF_CAPS. -/
def Mod.vfCaps (m : Mod) (n : Nat) : Nat :=
  let k := m.backed (vfFn n)
  pack [(n, 24, 8), (m.vfTenant n, 16, 8), (k % 256, 8, 8), (b2n (decide (256 ≤ k)), 7, 1), ((m.qpsOf n).length, 0, 7)]

/-- QCFG (R517). -/
def QpSt.config (s : QpSt) : Nat := pack [(b2n s.enable, 31, 1), (s.sqs, 24, 5), (s.cqs, 19, 5), (s.vec, 8, 8)]

/-- An MSI-X entry as 16 bytes, the first the least significant. -/
def MsixEnt.image (e : MsixEnt) : Nat := e.addr % 2 ^ 64 + 2 ^ 64 * (e.data % 2 ^ 32) + 2 ^ 96 * b2n e.masked

/-- Write size bytes of an entry at an offset within it. -/
def MsixEnt.put (e : MsixEnt) (off size v : Nat) : MsixEnt :=
  let old := e.image
  let x := old - old / 256 ^ off % 256 ^ size * 256 ^ off + v % 256 ^ size * 256 ^ off
  { addr := fld x 0 64, data := fld x 64 32, masked := bit x 96 }

/-- A register of queue block j of a slot; a block without a queue pair reads 0. -/
def Mod.blockReg (m : Mod) (n j off : Nat) : Nat :=
  match m.localQp n j with
  | none => 0
  | some q =>
    let s := m.qp q
    match off with
    | 0 => s.sqBase
    | 8 => s.cqBase
    | 16 => s.config
    | 20 => s.sqTail
    | 24 => s.cqHead
    | _ => m.qstat q

/-- A read of the map that changes nothing: its value. -/
def Mod.fastValue (m : Mod) (a off size : Nat) : Nat :=
  let s := m.fnSt (agentFn a)
  if off < 0x800 then m.blockReg a (off / 32) (off % 32)
  else if off = 0x800 then m.vfCaps a
  else if off = 0x804 then s.ctrl
  else if off = 0x818 then s.bar0
  else if off = 0x820 then s.bar1
  else if off = 0x1008 then m.ownStatus a
  else if off = 0x100C then (m.box a).db
  else if off = 0x1010 then (m.box a).mask
  else if off = 0x1100 then m.selected a
  else if 0x9000 ≤ off then
    (ofBits ((List.range 64).map fun i => decide (64 * ((off - 0x9000) / 8) + i ∈ s.pending))) / 256 ^ (off % 8) % 256 ^ size
  else (tget {} ((off - 0x8000) / 16) s.table).image / 256 ^ (off % 16) % 256 ^ size
where
  ofBits : List Bool → Nat
    | [] => 0
    | b :: t => b2n b + 2 * ofBits t

/-- A read of the map: the state after it, and its value. -/
def Mod.fastReadAt (m : Mod) (a off size : Nat) : Mod × Nat :=
  if off = 0x1000 then m.ownInPop a
  else if off = 0x1104 then m.callLockRead a
  else if off = 0x110C then m.callOutPop a
  else if off = 0x1114 then m.callStatusRead a
  else (m, m.fastValue a off size)

/-- A write of a register of queue block j of a slot (R517 to R519). -/
def Mod.blockWrite (m : Mod) (n j off v : Nat) : Mod :=
  match off with
  | 0 => m.baseWrite n j fun s => { s with sqBase := v % 2 ^ 64 }
  | 8 => m.baseWrite n j fun s => { s with cqBase := v % 2 ^ 64 }
  | 16 => m.onBlock n j fun q m => m.qcfgWrite n q (v % 2 ^ 32)
  | 20 => m.onBlock n j fun q m => m.onQp q fun s => { s with sqTail := v % 2 ^ s.sqs }
  | _ => m.onBlock n j fun q m => m.onQp q fun s => { s with cqHead := v % 2 ^ s.cqs }

/-- A write of the map. -/
def Mod.fastWriteAt (m : Mod) (a off size v : Nat) : Mod :=
  let f := agentFn a
  if off < 0x800 then m.blockWrite a (off / 32) (off % 32) v
  else if off = 0x804 then m.onFn_ f fun s => { s with ctrl := v % 256 }
  else if off = 0x810 then
    let p := m.lead (m.objv (mkOid 4 (0x100 + m.vfVcs a) 1))
    m.barAccept (portStream p (m.vfTenant a)) (.port p) (.vf a)
  else if off = 0x1004 then m.ownOutPush a v
  else if off = 0x1008 then m.ownStatusWrite a v
  else if off = 0x100C then m.ownDbClear a v
  else if off = 0x1010 then m.ownMaskWrite a v
  else if off = 0x1100 then m.onCall a fun s => { s with sel := v % 512 }
  else if off = 0x1104 then m.callLockWrite a v
  else if off = 0x1108 then m.callInPush a v
  else if off = 0x1110 then m.callDbWrite a v
  else
    (m.onFn_ f fun s => { s with table := tmod {} ((off - 0x8000) / 16) (fun e => e.put (off % 16) size v) s.table }).msiRelease f

/-- An access that the map does not state is refused under R491: code 5 to the host of the VF, its port's count, EV-0713. -/
def Mod.fastRefuse (m : Mod) (a off : Nat) (tag : Option Nat) : Mod :=
  if 256 ≤ a then m
  else
    let p := m.lead (m.objv (mkOid 4 (0x100 + m.vfVcs a) 1))
    let m1 := match tag with
      | some g => m.completeTo p g (m.vfTenant a) 5 false []
      | none => m.postedError (some (m.vfVcs a)) p (m.vfTenant a) off 5
    (m1.bump (mkOid 7 (0x400 + p) 0xA) 1).raiseOnce (evt 0x0713 (Loc.port p) 0 off) p

/-- A read of BAR4 of the management PF: the ring area of service memory, 4 or 8 aligned bytes; other reads return all ones (R515). -/
def Mod.bar4Read (m : Mod) (off size : Nat) : Nat :=
  if (size = 4 ∨ size = 8) ∧ off % size = 0 then ofBytesLE (m.sv.service.bytes (0x70000000 + off % 2 ^ 28) size) else 256 ^ size - 1

/-- R93: a write of a register or object without behaviour of its own stores its value. -/
def execRegisterWrite (r : Reg) : State → Host.Outcome State Fault Refusal := lift fun m =>
  match r with
  | .object src oid v stored => m.writeRow src oid v stored
  | .sqBase n j v => m.baseWrite n j fun s => { s with sqBase := v % 2 ^ 64 }
  | .cqBase n j v => m.baseWrite n j fun s => { s with cqBase := v % 2 ^ 64 }
  | .vfCtrl n v => if m.vfShown n then m.onFn_ (vfFn n) fun s => { s with ctrl := v % 256 } else m
  | .callSel a v => if m.agent a then m.onCall a fun s => { s with sel := v % 512 } else m
  | .msix f e addr data masked =>
    if f < 560 ∧ e < m.msixSize f then
      (m.onFn_ f fun s => { s with table := tset {} e { addr := addr % 2 ^ 64, data := data % 2 ^ 32, masked := masked } s.table }).msiRelease f
    else m
  | .biEnable v on => if (m.edge (m.objv (mkOid 4 (0x100 + v) 1))).dllUp then m.onEd fun b => { b with vcs := tmod {} v (fun s => { s with biEnabled := on }) b.vcs } else m
  | .dpcControl v n ur => if (m.edge (m.objv (mkOid 4 (0x100 + v) 1))).dllUp then m.onVppb v n fun s => { s with dpcUr := ur } else m
  | .fastRead a off size tag =>
    if m.agent a = false then (if a.val = 256 then m.emit (.reg 256 (256 ^ size - 1)) else m)
    else if m.fastOk a off size false then m.regRead a (m.fastReadAt a off size) else m.fastRefuse a off (some tag)
  | .fastWrite a off size v =>
    if m.agent a = false then m
    else if m.fastOk a off size true then (m.fastWriteAt a off size v).settle else m.fastRefuse a off none
  | .bar4Read off size => if m.md.mode.pastBootMode then m.emit (.value .mgmtPf (m.bar4Read off size)) else m
  | .msixEnable f on => if f < 560 then (m.onFn_ f fun s => { s with msixOn := on }).msiRelease f else m

end Sys2Proof.Machine
end

