-- ==== Sys2Proof/Machine/Hierarchy.lean ====
section
/-! DEFINITION. The commands of the hierarchy's levels: clusters, regions, dies, the hub, rails, leak thresholds (R20 to R32, R593 to R595). -/
namespace Sys2Proof.Machine

/-- R22, R23: a cluster PLL loses lock. -/
def execClusterPllLockLoss (k : Cluster) : State → Host.Outcome State Fault Refusal := lift fun m =>
  if (m.cluster k).locked then (m.pllLoss k).settle else m

/-- R22: the PLL relocks, avg 200 µs later, and the cluster's links train again. A cluster that uses REFIN relocks when REFIN has returned
(R203). -/
def execClusterPllRelock (k : Cluster) : State → Host.Outcome State Fault Refusal := lift fun m =>
  let c := m.cluster k
  if c.locked = true ∨ m.regionGated (k.val / 2) = true ∨ .vsera ∉ m.md.rails then m
  else ((m.advance 200000).onPh fun b => { b with refin := b.refin || decide (c.source = 1) }).pllLocked k

/-- R26: the governor's choice to gate a withdrawn region is checked once more and carried out, or given up. -/
def execRegionGate (r : Region) : State → Host.Outcome State Fault Refusal := lift fun m =>
  if (m.region r).withdrawn = false ∨ (m.region r).gated = true then m
  else if m.regionUnbound r then m.gateRegion r
  else m.onRegion r fun s => { s with withdrawn := false }

/-- R30, R594: a fatal error of a fabric die. -/
def execFatalDieError (d : Die) (cause : Fin 6) : State → Host.Outcome State Fault Refusal := lift fun m => (m.fatalDie d cause).settle

/-- R31, R595: a fatal error of the hub. -/
def execFatalHubError (cause : Fin 6) : State → Host.Outcome State Fault Refusal := lift fun m => (m.fatalHub cause).settle

/-- R32, R111: a main rail leaves its window: power-on reset is asserted, and from BOOT to DRAIN the module enters FAULT. In FAULT the ROM
monitor stops when a rail of the hub has gone, until R173 raises the rails again. -/
def execMainRailLoss (rail : Rail) : State → Host.Outcome State Fault Refusal := lift fun m =>
  if rail ∉ m.md.rails then m
  else
    let m0 := m.onMd fun b => { b with rails := without rail b.rails, railReset := true, raising := false }
    let m1 := if rail = .vmem then (m0.onEv fun b => { b with ringReady := false }).onSv fun b => { b with service := [] } else m0
    match m.md.mode with
    | .boot | .configure | .operate | .capped | .drain => (m1.enterFault 0).settle
    | .fault => if m1.hubRuns then m1 else m1.onMd fun b => { b with serving := false, mrdy := false }
    | .off | .standby => m1

/-- R593: the leak count of unit u of a die (banks 0 to 31, slices 32 to 48, tracker slices 49 to 52) stands at its threshold. -/
def execLeakThresholdReached (d : Die) (u : Fin 53) : State → Host.Outcome State Fault Refusal := lift fun m =>
  let key := 64 * d.val + u.val
  if tget 0 key m.cn.leak < m.leakLimit u ∨ key ∈ m.cn.leakStopped then m
  else
    let m1 := (m.onCn fun b => { b with leakStopped := b.leakStopped ++ [key] }).raise (evt 0x0E05 (Loc.ofUnit (leakUnit d u)))
    (m1.fenceUnit (leakUnit d u) 2).settle

end Sys2Proof.Machine
end

