-- ==== Sys2Proof/Machine/Link.lean ====
section
/-! DEFINITION. The commands of the Axsen Link: flit slots, received flits, timers, handshakes, retire, leave, Dormant
(R249 to R287). -/
namespace Sys2Proof.Machine

/-- Words that a new flit can take: 29, or what there is up to the end of the last whole packet; a packet is never broken by pad words (R256). -/
def txReady (tx : List TxWord) : List TxWord :=
  if 29 ≤ tx.length then tx.take 29 else (tx.reverse.dropWhile fun x => !x.fin).reverse

/-- The 29 payload words of a new flit and the packets that end in it (R249, R256): short payloads end in pad words. -/
def nextFlit (seq : Nat) (t : List TxWord) : Flit :=
  { seq := seq, words := t.map (·.w) ++ List.replicate (29 - t.length) 0, pkts := t.filterMap (·.pkt) }

/-- CTYPE a pending handshake asks for, with what sending it does (R282, R283). While LEAVE or LEAVE_ACK rides every CONTROL flit, no Dormant message
goes out. -/
def Mod.handshakeSlot (m : Mod) (n : Nat) : Option (Mod) :=
  let s := m.link n
  if s.ctypeNow ≠ 0 then (if s.nakOwed || s.leaveOwed then some ((m.sendControl n s.ctypeNow).onLink n fun s => { s with dormantHs := .none }) else none)
  else
    match s.dormantHs with
    | .reqOwed =>
      if m.holdsNothing n then some ((m.sendControl n 2).onLink n fun s => { s with dormantHs := .reqSent })
      else some ((m.sendControl n 0).onLink n fun s => { s with dormantHs := .none, dormantAskAt := m.now })
    | .ackOwed =>
      if m.holdsNothing n then some ((m.sendControl n 3).enterDormant n)
      else some ((m.sendControl n 4).onLink n fun s => { s with dormantHs := .none })
    | .nakOwed => some ((m.sendControl n 4).onLink n fun s => { s with dormantHs := .none })
    | .none | .reqSent => if s.nakOwed || s.leaveOwed then some (m.sendControl n 0) else none

/-- A PAYLOAD flit goes out: an entry of the replay buffer again, or a new one (R250, R262). -/
def Mod.sendPayload (m : Mod) (n : Nat) (replay : Bool) (f : Flit) : Mod :=
  ((m.emit (.payload n replay f.seq f.words)).sendFlit n (.payload replay f.seq f.words)).linkObj n (if replay then 2 else 1) 1

/-- The next entry of a running replay is sent again; the timer restarts when it was the last and something met the replay (R265). -/
def Mod.resendNext (m : Mod) (n : Nat) (f : Flit) (rest : List Flit) : Mod :=
  (m.sendPayload n true f).onLink n fun s =>
    { s with resend := rest, replayFrom := if rest = [] then none else s.replayFrom, lastPayload := m.now, timerHold := s.timerHold && !rest.isEmpty,
             replayDeadline := if rest = [] ∧ s.timerHold = true then some (m.now + m.replayTime n) else s.replayDeadline }

/-- Words in which each SYNC whose header is among the first k carries the time t: nanoseconds, then the fraction (R314, R318). -/
def stampSync (t : Nat) : Nat → List TxWord → List TxWord
  | k + 1, a :: b :: c :: d :: l =>
    let hit := a.head.any (fun x => decide (x.1 = 7)) && decide (b.w / 2 ^ 56 = 3)
    a :: stampSync t k (if hit then b :: { c with w := t / 65536 % 2 ^ 64 } :: { d with w := t % 65536 * 2 ^ 48 } :: l else b :: c :: d :: l)
  | _, l => l

/-- A DELAY_REQ has its header among the first k words. -/
def asksDelay : Nat → List TxWord → Bool
  | k + 1, a :: b :: l => (a.head.any (fun x => decide (x.1 = 7)) && decide (b.w / 2 ^ 56 = 4)) || asksDelay k (b :: l)
  | _, _ => false

/-- The time t3 of the exchange on port n is taken as its DELAY_REQ is sent (R314, R318). -/
def Mod.stampReq (m : Mod) (n : Nat) (sent : Bool) : Mod :=
  if sent then m.onTi fun t => { t with ex := tmod {} n (fun x => { x with t3 := t.count }) t.ex } else m

/-- A new PAYLOAD flit takes words of the link's stream, and consumes the credits of the packet headers among them (R262, R268). A SYNC and a DELAY_REQ
take their time as the flit with their header is sent (R314). -/
def Mod.sendNew (m : Mod) (n : Nat) (tx ws : List TxWord) : Mod :=
  let f := nextFlit (m.link n).nextTx ws
  ((m.sendPayload n false f).onLink n fun s =>
    { s with nextTx := (s.nextTx + 1) % 4096, replay := s.replay ++ [f], tx := tx.drop ws.length, used := chargeHeads ws s.used, lastPayload := m.now,
             replayDeadline := if s.replayDeadline.isSome then s.replayDeadline else some (m.now + m.replayTime n) }).stampReq n (asksDelay ws.length tx)

/-- R255: one flit slot of port n. Slot 31 carries CONTROL; otherwise a pending NAK or handshake, a PAYLOAD flit (a
retransmission first), a changed acknowledgement or grant, or NULL. In TRAIN and RETRAIN an aligned port sends LINKUP; until then, as in DOWN while
the port can train and in DORMANT once its clean-up PLL has locked for the exit, the slot carries training blocks (R194, R200, R272). -/
def execFlitSlot (n : FabPort) : State → Host.Outcome State Fault Refusal := lift fun m =>
  Mod.adjCheck (n := n) <|
  let s := m.link n
  match s.st with
  | .train | .retrain =>
    if (m.searchOf n).aligned = false then m.sendTraining n
    else (m.sendControl n 1).onLink n fun s => { s with peerSlot := s.peerSlot || s.peer.isSome }
  | .active =>
    let m0 := m.onLink n fun s => { s with slot := (s.slot + 1) % 32 }
    match m0.handshakeSlot n with
    | some m1 => m1
    | none =>
      if s.slot = 31 then m0.sendControl n s.ctypeNow
      else
        match s.resend with
        | f :: rest => m0.resendNext n f rest
        | [] =>
          let tx := stampSync m.ti.count 29 s.tx
          let ws := txReady tx
          if ws ≠ [] ∧ s.replay.length < 512 ∧ s.dormantHs ≠ .reqSent then m0.sendNew n tx ws
          else if s.ctlOwed ∨ m0.opensDue n ≠ [] then m0.sendControl n s.ctypeNow
          else (m0.emit (.null n)).sendFlit n .null
  | .down => if m.canTrain n then m.sendTraining n else m
  | .dormant =>
    match s.exitAt with
    | some t => if t + 25000 ≤ m.now then m.sendTraining n else m
    | none => m
  | .retired => m

/-! Received flits. -/

/-- The levels of a physical lane as the receiver makes bytes of them: polarity corrected, and precoding taken off (R182, R183, R186). -/
def LaneSt.received (s : LaneSt) (raw : List Nat) : List Nat :=
  let x := raw.map fun v => if s.pol then flipLevel v else v % 4
  levelBytes (if s.precode then unprecode s.lastRx x else x)

/-- The levels of a lane whose bytes the receiver makes of them: precoding goes on from the symbol received last, and an inverted lane inverts it. The
partner's transmitter, and the wires, are this lane's inverse (DEDUCED, log 70). -/
def LaneSt.arriving (s : LaneSt) (bytes : List Nat) : List Nat :=
  let x := bytes.flatMap byteLevels
  (if s.precode then Machine.precode s.lastRx x else x).map fun v => if s.pol then flipLevel v else v

/-- Levels read with a channel's disturbance in place of those sent. -/
def disturb : List (Option Nat) → List Nat → List Nat
  | [], l => l
  | _, [] => []
  | d :: t, x :: l => (d.getD x) % 4 :: disturb t l

/-- The levels at the receiver's four physical lanes of a flit its partner sends, as the channel leaves them (R251). -/
def Mod.arriving (m : Mod) (n : Nat) (f : FlitForm) (noise : Noise) : List (List Nat) :=
  let b := flitBytes f
  (List.range 4).map fun i =>
    let l := m.lane (fabLane n i)
    disturb (noise.getD i []) (l.arriving (laneBytes b (if l.rev then 3 - i else i)))

/-- Four physical lanes' levels become a flit, the lanes put in order where they arrive reversed, and it is decoded (R187, R251, R254). -/
def Mod.rxSymbols (m : Mod) (n : Nat) (raw : List (List Nat)) : Mod × FlitRx :=
  let at_ := fun (j : Nat) =>
    let l := m.lane (fabLane n j)
    let i := if l.rev then 3 - j else j
    (m.lane (fabLane n i)).received (raw.getD i [])
  let m1 := m.each (List.range 4) fun i m =>
    m.onLane (fabLane n i) fun l => { l with lastRx := let v := (raw.getD i []).getLastD 0; if l.pol then flipLevel v else v % 4 }
  (m1, flitDecode (joinLanes (at_ 0) (at_ 1) (at_ 2) (at_ 3)))

/-- R263: a good PAYLOAD flit with its SEQ and 29 words in ACTIVE: accepted in order, discarded as a duplicate, or a gap, which is counted as a flit
discarded (log 216). -/
def Mod.rxPayload (m0 : Mod) (n seq : Nat) (words : List Nat) : Mod :=
  let s := m0.link n
  if s.st ≠ .active then m0
  else
    let m := m0.onLink n fun s => { s with lastPayload := m0.now }
    if seq = s.nextRx then
      let m1 := (m.onLink n fun s =>
        { s with nextRx := (s.nextRx + 1) % 4096, nakPending := false, nakOwed := false, ctlOwed := true }).linkObj n 4 1
      m1.each (words.take 29) fun w m => m.rxWord n (w % 2 ^ 64)
    else if 1 ≤ (s.nextRx + 4096 - seq) % 4096 ∧ (s.nextRx + 4096 - seq) % 4096 ≤ 2047 then m.linkObj n 8 1
    else (m.linkObj n 7 1).badFlit n

/-- The handshakes of an ACTIVE link on a received CTYPE (R277, R282, R283). A leave ends a Dormant request of this side's that awaits its answer, as
none will come. -/
def Mod.rxCtype (m : Mod) (n : Nat) (c : Control) : Mod :=
  let s := m.link n
  match c.ctype with
  | 2 =>
    if s.dormantHs = .reqSent then
      let busy := !m.holdsNothing n
      (m.enterDormant n).onLink n fun s => { s with exitAsked := busy }
    else if m.holdsNothing n then m.onLink n fun s => { s with dormantHs := .ackOwed }
    else m.onLink n fun s => { s with dormantHs := .nakOwed }
  | 3 => if s.dormantHs = .reqSent then
      let busy := !m.holdsNothing n
      (m.enterDormant n).onLink n fun s => { s with exitAsked := busy }
    else m
  | 4 => if s.dormantHs = .reqSent then m.onLink n fun s => { s with dormantHs := .none, dormantAskAt := m.now } else m
  | 5 => if s.peerLeave ≠ .none then m
    else m.onLink n fun s =>
      { s with peerLeave := if s.leave = .none then .asked else .ackDue, leaveOwed := s.leaveOwed || decide (s.leave ≠ .none), dormantHs := .none }
  | 6 => if s.leave = .leaving then m.onLink n fun s => { s with leave := .acked } else m
  | _ => m

/-- The LIMIT counts a CONTROL flit's grants give (R269). -/
def limitsOf (c : Control) (old : Tbl Cred) : Tbl Cred :=
  (List.range 8).foldl (fun t k => tset {} k { h := c.grant.getD (2 * k) 0 % 65536, d := c.grant.getD (2 * k + 1) 0 % 65536 } t) old

/-- R260, R264, R265, R269, R285: a CONTROL flit: grants and OPEN first, then its ACK, its NAK, its CTYPE. In TRAIN and
RETRAIN a LINKUP flit is kept for the handshake. -/
def Mod.rxControl (m : Mod) (n : Nat) (c : Control) : Mod :=
  let s := m.link n
  match s.st with
  | .train | .retrain => if c.ctype = 1 then m.onLink n fun s => { s with peer := some c } else m
  | .active =>
    if c.ctype = 1 ∧ c.ownId ≠ s.heldId then m.linkRetrain n 18
    else
      let m1 := m.onLink n fun s => { s with limit := limitsOf c s.limit, openTx := (List.range 8).filter fun k => bit c.opens k }
      let m2 := m1.ackFrees n (c.ack % 4096)
      let m3 := if c.nak then m2.startReplay n else m2
      let m4 := m3.adjCheck n
      if (m4.link n).st = .active then m4.rxCtype n c else m4
  | _ => m

/-- A flit that the partner sent arrives on the four lanes of an aligned port, disturbed by the channel: FEC first, the CRC second, then what it carries (R254, R263). Symbols that FEC corrected are
counted, also in a flit whose other code word failed; KIND 3 counts with the flits that fail their CRC (log 216). -/
def Mod.flitIn (m : Mod) (n : Nat) (sent : FlitForm) (noise : Noise) : Mod :=
  let st := (m.link n).st
  if st ≠ .active ∧ ((st ≠ .train ∧ st ≠ .retrain) ∨ (m.searchOf n).aligned = false) then m
  else
    let (m1, got) := m.rxSymbols n (m.arriving n sent noise)
    match got with
    | .uncorrectable k => ((m1.linkObj n 6 1).fecFixed n k).badFlit n
    | .crcFailed k => (((m1.linkObj n 7 1).portCtr (48 + n) 14 1).fecFixed n k).badFlit n
    | .reserved k => ((m1.linkObj n 7 1).fecFixed n k).badFlit n
    | .good .null k => m1.fecFixed n k
    | .good (.payload _ seq ws) k => (m1.fecFixed n k).rxPayload n seq ws
    | .good (.control c) k => (m1.fecFixed n k).rxControl n c

/-- R263: a flit arrives that is a PAYLOAD flit; its levels on the port's four lanes, in the order sent. -/
def execFlitRxPayload (n : FabPort) (head : FlitHead) (words : List Nat) (noise : Noise) : State → Host.Outcome State Fault Refusal := lift fun m => m.flitIn n (.payload head.replay head.seq words) noise

/-- R260, R263: a flit arrives that is a CONTROL flit. -/
def execFlitRxControl (n : FabPort) (c : Control) (noise : Noise) : State → Host.Outcome State Fault Refusal := lift fun m => m.flitIn n (.control c) noise

/-- R263: a flit arrives that is a NULL flit: it is discarded after decoding. -/
def execFlitRxNull (n : FabPort) (noise : Noise) : State → Host.Outcome State Fault Refusal := lift fun m => m.flitIn n .null noise

/-- R254, R263: a flit arrives that FEC cannot correct, that fails its CRC, or that is of KIND 3. -/
def execFlitRxBad (n : FabPort) (sent : FlitForm) (noise : Noise) : State → Host.Outcome State Fault Refusal := lift fun m => m.flitIn n sent noise

/-- R265: the replay timer expires with the buffer not empty. -/
def execReplayTimeout (n : FabPort) : State → Host.Outcome State Fault Refusal := lift fun m =>
  match (m.link n).st, (m.link n).replayDeadline with
  | .active, some t =>
    if (m.link n).replay = [] then m
    else
      let m1 := m.advanceTo t
      let s := m1.link n
      if s.resend ≠ [] ∧ s.replayFrom = s.replay.head?.map (·.seq) then m1.onLink n fun s => { s with replayDeadline := none, timerHold := true }
      else (m1.onLink n fun s => { s with replayDeadline := some (m1.now + m1.replayTime n) }).startReplay n
  | _, _ => m

/-- R273: signal lost on all four lanes for 1 µs; on a link whose partner has left it is the leave's signal loss (R282). -/
def execLinkSignalLoss (n : FabPort) : State → Host.Outcome State Fault Refusal := lift fun m =>
  let s := m.link n
  if s.st = .active ∨ s.st = .retrain then
    let m1 := (m.advance 1000).onLanes (48 + n) fun l => { l with signal := false, cdr := false }
    if s.peerLeave = .ackSent ∧ s.replay = [] then (m1.linkDown n 11).onLink n fun s => { s with heldId := 0 }
    else m1.linkDown n 6
  else m

/-- R273: RETRAIN not back in ACTIVE after 1 ms. -/
def execRetrainTimeout (n : FabPort) : State → Host.Outcome State Fault Refusal := lift fun m =>
  if (m.link n).st = .retrain then (m.advanceTo ((m.link n).retrainStart + ms)).linkDown n 9 else m

/-- R273: the TRAIN timeout 5.0pp.06. -/
def execTrainTimeout (n : FabPort) : State → Host.Outcome State Fault Refusal := lift fun m =>
  if (m.link n).st = .train then
    (m.advanceTo ((m.link n).trainStart + m.objv (mkOid 5 n 6) * 1000)).linkDown n 7
  else m

/-- R273: the partner's training blocks are detected on all four lanes: DOWN to TRAIN, 10 ms after the last failure. `asks` holds the lanes whose far
receiver asks for precoding; the own receiver's request is 3.0LL.02, and a lane keeps both until its next training (R185). -/
def execTrainStart (t : TrainPort) : State → Host.Outcome State Fault Refusal := lift fun m =>
  let n := t.port.val
  let s := m.link n
  let due := match s.lastFail with
    | some x => x + 10 * ms
    | none => m.now
  if m.canTrain n then
    let m1 := m.advanceTo due
    let m2 := m1.onLink n fun s => { s with st := .train, trainStart := m1.now, peer := none, peerSlot := false, fromDown := true }
    (m2.each [0, 1, 2, 3] fun i m => m.onLane (fabLane n i) fun l =>
      { l with signal := true, cdr := true, rate := 7, pstate := 0, precode := decide (m.objv (mkOid 3 (fabLane n i) 2) = 1),
               txPre := t.asks.any fun x => decide (x.val = i), lastTx := 0, lastRx := 0 }).startSearch n
  else m

/-- Enter ACTIVE at the end of the handshake. -/
def Mod.linkActive (m : Mod) (n : Nat) : Mod :=
  (m.onLink n fun s => { s with st := .active, trained := true, slot := 0, peer := none, peerSlot := false, mismatch := false,
                                 lastPayload := m.now, clean := false, sinceMark := 0 }).onLanes (48 + n) fun l =>
    { l with pstate := 0, cdr := true, align := true, kept := some l.slip, eqKept := true }

/-- At a fresh start the packets the link still holds return whole to the head of their egress queues, their cells long released; a packet in
cut-through is sent again from its header; a packet of which only a part has arrived is discarded. -/
def Mod.requeueHeld (m : Mod) (n : Nat) : Mod :=
  let s := m.link n
  let m1 := match s.rx with
    | .body id _ => m.removeHeld id
    | _ => m
  let m2 := m1.each (List.range 8) fun c m => m.setQueue (qKey (48 + n) c) ((m.queue (qKey (48 + n) c)).map fun e => { e with cut := false, sent := 0 })
  m2.each s.heldPkts.reverse fun p m =>
    let k := qKey (48 + n) p.tc
    let h : Held := { id := m.sw.nextId, die := dieOfPort (48 + n), pkt := p, got := 4 * p.len }
    (m.onSw fun b => { b with nextId := b.nextId + 1 }).setQueue k ({ held := h, cells := 0 } :: m.queue k)

/-- R278: the LINKUP handshake ends: resume, fresh start, or mismatch. -/
def execLinkupComplete (n : FabPort) : State → Host.Outcome State Fault Refusal := lift fun m =>
  let s := m.link n
  match s.peer with
  | none => m
  | some c =>
    if (s.st ≠ .train ∧ s.st ≠ .retrain) ∨ s.peerSlot = false then m
    else
      let own := m.ownIdentity n
      let lim := limitsOf c s.limit
      if s.heldId = c.ownId ∧ c.heldId = own then
        let m1 := m.ackFrees n (c.ack % 4096)
        let m2 := m1.onLink n fun s =>
          { s with limit := lim, resend := s.replay, replayFrom := s.replay.head?.map (·.seq), replayNum := if s.fromDown then 0 else s.replayNum,
                   replayDeadline := if s.replay = [] then none else some (m.now + m.replayTime n) }
        let m3 := m2.linkActive n
        if s.fromDown then m3.raise (evt 0x0502 (Loc.fab n)) else m3
      else if (s.heldId = 0 ∨ s.heldId = c.ownId) ∧ (c.heldId = 0 ∨ c.heldId = own) then
        let m1 := (m.requeueHeld n).onLink n fun s => { s.cleared with tx := [], heldId := c.ownId, fresh := true }
        (m1.linkActive n).raise (evt 0x0501 (Loc.fab n))
      else if s.heldId ≠ 0 ∧ s.heldId ≠ c.ownId then
        if m.holdsNothing n then m.onLink n fun s => { s.cleared with tx := s.tx, peer := none, peerSlot := false }
        else
          let m1 := if s.mismatchIds.contains c.ownId then m
            else (m.onLink n fun s => { s with mismatchIds := c.ownId :: s.mismatchIds }).raise (evt 0x0505 (Loc.fab n))
          (if s.st = .train then m1.linkDown n 10 else m1).onLink n fun s => { s with mismatch := true, peer := none, peerSlot := false }
      else m.onLink n fun s => { s with peer := none, peerSlot := false }

/-- R273: a Dormant exit not complete 1 ms after the wake request. -/
def execDormantExitTimeout (n : FabPort) : State → Host.Outcome State Fault Refusal := lift fun m =>
  match (m.link n).st, (m.link n).exitAt with
  | .dormant, some t => (m.advanceTo (t + ms)).linkDown n 15
  | _, _ => m

/-- R282, R315: the neighbour's side has drained its queues and replay buffer, and applied the entries the departure
changed; it sends LEAVE_ACK. -/
def execLeaveDrained (n : FabPort) : State → Host.Outcome State Fault Refusal := lift fun m =>
  if (m.link n).peerLeave = .asked ∧ m.holdsNothing n = true ∧ m.rt.changedAt = none ∧ m.rt.computing = none then
    m.onLink n fun s => { s with peerLeave := .ackDue, leaveOwed := true }
  else m

/-- R282: with LEAVE_ACK exchanged and the replay buffer empty, the side enters DOWN with CLEAN set and HELD_ID 0; the neighbour of a leaving
module once it has lost signal for 1 µs too. -/
def execLeaveDown (n : FabPort) : State → Host.Outcome State Fault Refusal := lift fun m =>
  let s := m.link n
  if s.replay ≠ [] ∨ s.st = .down ∨ s.st = .retired then m
  else
    match s.leave, s.peerLeave with
    | .acked, .none | .acked, .ackSent => (m.linkDown n 11).onLink n fun s => { s with heldId := 0 }
    | .none, .ackSent | .leaving, .ackSent =>
      let m1 := (m.advance 1000).onLanes (48 + n) fun l => { l with signal := false, cdr := false }
      (m1.linkDown n 11).onLink n fun s => { s with heldId := 0 }
    | _, _ => m

/-- R283: no PAYLOAD flit for the Dormant idle time 5.0pp.07. -/
def execDormantIdleTimeout (n : FabPort) : State → Host.Outcome State Fault Refusal := lift fun m =>
  let s := m.link n
  let t := m.objv (mkOid 5 n 7)
  if s.st = .active ∧ t ≠ 0 ∧ s.dormantHs = .none ∧ m.holdsNothing n = true then
    (m.advanceTo (s.lastPayload + t * 1000)).onLink n fun s => { s with dormantHs := .reqOwed }
  else m

/-- R283: 10 µs after a DORMANT_NAK the side asks again while the reason persists. -/
def execDormantRetry (n : FabPort) : State → Host.Outcome State Fault Refusal := lift fun m =>
  let s := m.link n
  let t := m.objv (mkOid 5 n 7)
  let at_ := max m.now (s.dormantAskAt + 10000)
  if s.st = .active ∧ s.dormantHs = .none ∧ s.dormantAskAt ≠ 0 ∧ m.holdsNothing n = true
      ∧ (s.redundant = true ∨ (t ≠ 0 ∧ s.lastPayload + t * 1000 ≤ at_)) then
    (m.advanceTo at_).onLink n fun s => { s with dormantHs := .reqOwed }
  else m

/-! Lanes of fabric ports (R195 to R201, R273). -/

/-- A search has failed on its fourth attempt: the next one starts from position 0. A link in TRAIN goes DOWN; RETRAIN and a Dormant exit end by
their own limits of 1 ms (R197, R273). -/
def Mod.searchFailed (m : Mod) (n : Nat) : Mod :=
  let m1 := (m.onSearch n fun s => { s with running := false }).onLanes (48 + n) fun l => { l with slip := 0, kept := none, align := false }
  let m2 := (m1.bump (mkOid 3 (0x230 + n) 7) 1).raise (evt 0x0302 (Loc.fab n))
  if (m.link n).st = .train then m2.linkDown n 8 else m2

/-- R195, R197: one round of the bit-slip search: `hits` gives how many of 64 markers matched on each lane 0 to 3. A lane
still open aligns at 60 matches or slips by one symbol; one without CDR lock stays at its position (R198). After round 32 the attempt fails; the fourth failure ends the
search. -/
def execAlignSearchRound (n : FabPort) (hits : List Nat) : State → Host.Outcome State Fault Refusal := liftFw fun m =>
  let q := m.searchOf n
  if q.running = false ∨ q.relock = true then m
  else
    let slips := q.open_.filter fun i => hits.getD i 0 < 60
    let good := q.open_.filter fun i => 60 ≤ hits.getD i 0
    let m1 := m.each good fun i m => m.onLane (fabLane n i) fun l => { l with align := true, kept := some l.slip, cdr := true, signal := true }
    let m2 := m1.each slips fun i m => m.onLane (fabLane n i) fun l => if l.cdr then { l with slip := (l.slip + 1) % 32 } else l
    let m3 := if slips ≠ [] ∧ q.full = false then m2.bump (mkOid 3 (0x230 + n) 6) 1 else m2
    let m4 := m3.onSearch n fun s => { s with open_ := slips, round := s.round + 1, full := s.full || decide (slips ≠ []) }
    if slips = [] ∨ q.round + 1 < 32 then m4
    else if q.attempt + 1 < 4 then m4.onSearch n fun s => { s with attempt := s.attempt + 1, round := 0, relock := true }
    else
      m4.searchFailed n

/-- R195: the CDRs relock after a failed attempt, and the next attempt starts: lanes that have aligned stay so, the others start from their kept
positions, or 0. A lane that lost its signal during a search has its lock back with it, and goes on from where it was (R198). -/
def execCdrRelockDone (n : FabPort) : State → Host.Outcome State Fault Refusal := lift fun m =>
  let q := m.searchOf n
  if q.running then
    ((m.onLanes (48 + n) fun l => { l with cdr := true, signal := true }).each (if q.relock then q.open_ else []) fun i m =>
      m.onLane (fabLane n i) fun l => { l with slip := l.kept.getD 0 }).onSearch n fun s => { s with relock := false }
  else m

/-- The exit from DORMANT completes, and the link is ACTIVE without a LINKUP handshake, SEQ and NEXT_RX at 0, precoding from P = 0 (R183, R200,
R284). -/
def Mod.exitDone (m : Mod) (n : Nat) : Mod :=
  let m1 := m.onLink n fun s =>
    { s with st := .active, nextTx := 0, nextRx := 0, slot := 0, sinceMark := 0, exitAt := none, woken := false, lastPayload := m.now, dormantAskAt := 0 }
  (m1.onLanes (48 + n) fun l => { l with cdr := true, align := true, pstate := 0, kept := some l.slip, lastTx := 0, lastRx := 0 }).bump
    (mkOid 3 (0x230 + n) 5) 1 |>.when (m.link n).redundant (·.recordDirty)

/-- R196: deskew of the four aligned lanes, within 64 symbols; more fails the search as though no position had matched. `inverted` holds the lanes
whose polarity the markers show inverted (R186); `taps` the taps the far receiver has asked of each lane in TRAIN (R189). In DORMANT it ends the
search of an exit, and with it the exit (R201). -/
def execDeskewDone (n : FabPort) (skew : Nat) (reversed : Bool) (inverted : List (Fin 4)) (taps : List Taps) : State → Host.Outcome State Fault Refusal := lift fun m =>
  let q := m.searchOf n
  if q.running = false ∨ q.open_ ≠ [] then m
  else if skew ≤ 64 then
    let m1 := (m.onSearch n fun s => { s with running := false, aligned := true }).each [0, 1, 2, 3] fun i m =>
      let pol := inverted.any fun x => decide (x.val = i)
      m.onLane (fabLane n i) fun l =>
        let w := match taps[i]? with
          | some t => tapsBlob t
          | none => l.taps
        { l with rev := reversed, logical := if reversed then 3 - i else i, pol := pol, taps := w, lastTx := 0, lastRx := 0 }
    if (m.link n).st = .dormant then m1.exitDone n else m1
  else if q.attempt + 1 < 4 then
    (m.onLanes (48 + n) fun l => { l with align := false, kept := none }).onSearch n fun s =>
      { s with attempt := s.attempt + 1, round := 0, relock := true, full := true, open_ := [0, 1, 2, 3] }
  else m.searchFailed n

/-- R198: a lane loses signal during a search: its progress is discarded, its current position kept for its return. -/
def execLaneSignalLost (l : Lane) : State → Host.Outcome State Fault Refusal := lift fun m =>
  let n := l.val / 4 - 48
  if l.val < 192 ∨ (m.searchOf n).running = false then m
  else (m.onLane l fun s => { s with signal := false, cdr := false, align := false }).onSearch n fun s =>
    { s with open_ := addOnce (l.val % 4) s.open_ }

/-- R195, R273: four consecutive markers mismatch in ACTIVE: the lane loses alignment, the link enters RETRAIN, cause 3. -/
def execLaneAlignmentLost (l : Lane) : State → Host.Outcome State Fault Refusal := lift fun m =>
  let n := l.val / 4 - 48
  if l.val < 192 ∨ (m.link n).st ≠ .active then m
  else (m.onLane l fun s => { s with align := false, kept := none }).linkRetrain n 3

/-- R273: a fabric lane loses CDR lock in ACTIVE; RETRAIN with cause 4. -/
def execLaneCdrLockLoss (l : Lane) : State → Host.Outcome State Fault Refusal := lift fun m =>
  let n := l.val / 4 - 48
  let m1 := m.bump (mkOid 3 l.val 8) 1
  if l.val < 192 then m1.onLane l fun s => { s with cdr := false }
  else if (m.link n).st ≠ .active then m1.onLane l fun s => { s with cdr := false }
  else (m1.onLane l fun s => { s with cdr := false, align := false }).linkRetrain n 4

/-- R273: training blocks from the partner on an ACTIVE link; RETRAIN with cause 18. -/
def execTrainingBlocksInActive (n : FabPort) : State → Host.Outcome State Fault Refusal := lift fun m =>
  if (m.link n).st = .active then m.linkRetrain n 18 else m

/-- R199: Dormant entry completes: serialisers, clean-up PLL and CDRs are off; an exit asked for meanwhile starts. -/
def execDormantEntryDone (n : FabPort) : State → Host.Outcome State Fault Refusal := lift fun m =>
  let s := m.link n
  if s.st = .dormant ∧ s.entering = true then
    let m1 := (m.onLink n fun s => { s with entering := false, exitAsked := false }).onLanes (48 + n) fun l => { l with cdr := false, pstate := 5 }
    if s.exitAsked then m1.beginExit n (!s.woken) else m1
  else m

/-- R200, R284: the partner's wake pattern is recognised: the exit starts, at the end of the entry where that still runs (R213); this side sends no
wake pattern of its own. -/
def execWakePatternDetected (n : FabPort) : State → Host.Outcome State Fault Refusal := lift fun m =>
  let s := m.link n
  if s.st ≠ .dormant ∨ s.exitAt.isSome = true ∨ s.exitAsked = true then m
  else if s.entering then m.onLink n fun s => { s with exitAsked := true, woken := true }
  else m.beginExit n false

/-- R200, R201: the markers of a Dormant exit have been verified at the kept positions. The exit completes; or lanes in `failed` did not verify, and
the port runs the search of R195 for them, which DESKEW_DONE ends. -/
def execDormantExitDone (n : FabPort) (failed : List (Fin 4)) : State → Host.Outcome State Fault Refusal := lift fun m =>
  let s := m.link n
  if s.st ≠ .dormant ∨ s.exitAt = none ∨ (m.searchOf n).running = true then m
  else if failed = [] then m.exitDone n
  else
    let ls := (List.range 4).filter fun i => failed.any fun x => decide (x.val = i)
    let full := ls.any fun i => (m.lane (fabLane n i)).kept.isNone
    let m1 := (m.onLanes (48 + n) fun l => { l with cdr := true, signal := true, align := true }).each ls fun i m =>
      m.onLane (fabLane n i) fun l => { l with align := false, slip := l.kept.getD 0 }
    let m2 := m1.onSearch n fun s => { s with running := true, attempt := 0, round := 0, full := full, relock := false, aligned := false, open_ := ls }
    (m2.when full (·.bump (mkOid 3 (0x230 + n) 6) 1)).raise (evt 0x0303 (Loc.fab n))

end Sys2Proof.Machine
end

