-- ==== Sys2Proof/Machine/Mailbox.lean ====
section
/-! DEFINITION. The commands of the mailboxes (R532 to R536). The operand k is the index of the acting agent's own mailbox: 0 to 255 the VF
slots, 256 the management PF, 257 the BMC. -/
namespace Sys2Proof.Machine

/-- R535: a read of OWN_IN. -/
def execOwnInPop (k : Mbox) : State → Host.Outcome State Fault Refusal := lift fun m =>
  m.regRead k (m.ownInPop k)

/-- R535: a write of OWN_OUT. -/
def execOwnOutPush (k : Mbox) (w : Nat) : State → Host.Outcome State Fault Refusal := lift fun m =>
  if m.agent k then m.ownOutPush k w else m

/-- R535: a write of OWN_STATUS. -/
def execOwnReply (k : Mbox) (v : Nat) : State → Host.Outcome State Fault Refusal := lift fun m =>
  if m.agent k then m.ownStatusWrite k v else m

/-- R535: a write of OWN_DB. -/
def execOwnDbClear (k : Mbox) (v : Nat) : State → Host.Outcome State Fault Refusal := lift fun m =>
  if m.agent k then m.ownDbClear k v else m

/-- R535: a write of OWN_MASK. -/
def execOwnMaskWrite (k : Mbox) (v : Nat) : State → Host.Outcome State Fault Refusal := lift fun m =>
  if m.agent k then m.ownMaskWrite k v else m

/-- R534: a read of CALL_LOCK. -/
def execCallLockRead (k : Mbox) : State → Host.Outcome State Fault Refusal := lift fun m =>
  m.regRead k (m.callLockRead k)

/-- R534: a write of CALL_LOCK. -/
def execCallLockRelease (k : Mbox) (v : Nat) : State → Host.Outcome State Fault Refusal := lift fun m =>
  if m.agent k then m.callLockWrite k v else m

/-- R535: a write of CALL_IN. -/
def execCallInPush (k : Mbox) (w : Nat) : State → Host.Outcome State Fault Refusal := lift fun m =>
  if m.agent k then m.callInPush k w else m

/-- R535: a read of CALL_OUT. -/
def execCallOutPop (k : Mbox) : State → Host.Outcome State Fault Refusal := lift fun m =>
  m.regRead k (m.callOutPop k)

/-- R535: a write of CALL_DB. -/
def execCallDbWrite (k : Mbox) (v : Nat) : State → Host.Outcome State Fault Refusal := lift fun m =>
  if m.agent k then m.callDbWrite k v else m

/-- R535: a read of CALL_STATUS. -/
def execCallStatusRead (k : Mbox) : State → Host.Outcome State Fault Refusal := lift fun m =>
  m.regRead k (m.callStatusRead k)

/-- R536: the lock of mailbox k has been held for the hold limit. -/
def execMailboxLockTimeout (k : Mbox) : State → Host.Outcome State Fault Refusal := lift fun m =>
  if (m.box k).holder = 0 then m else (m.advanceTo ((m.box k).since + m.objv 0xB00101 * ms)).breakLock k

/-- R514: a host clears bits of EVT_CAUSE of host PF v. -/
def execEvtCauseClear (v : Vcs) (bits : Nat) : State → Host.Outcome State Fault Refusal := lift fun m =>
  m.onFn_ (hostFn v) fun s => { s with cause := s.cause - (s.cause &&& bits % 2 ^ 32) }

end Sys2Proof.Machine
end

