-- ==== Sys2Proof/Machine/Modes.lean ====
section
/-! DEFINITION. The commands of modes, start-up, governor and DRAIN (R99, R105 to R130, R163 to R174). -/
namespace Sys2Proof.Machine

/-! Input and start-up. -/

/-- R163, R106, R112, R173: the conditions of PWR_GOOD have held for 2 ms. From OFF the module enters STANDBY, and auto-boot asks for BOOT; in
FAULT with a main rail fallen for want of input the rails are raised again, after a thermal trip those that it keeps (DEDUCED, log entry 212). -/
def execPwrGoodRise : State → Host.Outcome State Fault Refusal := lift fun m =>
  if m.pw.good = false ∨ m.pw.unregulated = false ∨ m.pw.pg = true ∨ m.pw.ftStart.isSome = true then m
  else
    let m1 := (m.advance (2 * ms)).onPw fun p => { p with pg := true }
    match m1.md.mode with
    | .off =>
      let m2 := m1.enterMode .standby 0
      if m2.objv 0x201000 = 1 then
        let m3 := m2.onMd fun b => { b with bootHeld := true }
        if 115 ≤ m3.pAvail then m3 else m3.powerEvent 0x010C
      else m2
    | .fault =>
      if (m1.md.wantedRails.all fun r => m1.md.rails.contains r) || m1.md.raising then m1
      else m1.onMd fun b => { b with raising := true, railStep := 0, bootAt := m1.now, serving := false, mrdy := false }
    | _ => m1

/-- R112, R125: with a request pending, P_avail has been at least 115 W for 10 ms: BOOT is entered. -/
def execBootStart : State → Host.Outcome State Fault Refusal := lift fun m =>
  match m.pw.okSince with
  | none => m
  | some t => if m.md.mode = .standby ∧ m.md.bootHeld = true ∧ m.pw.vao = true then (m.advanceTo (t + 10 * ms)).enterBoot false else m

/-- R110, R111, R173: the rails of the running step are in window. -/
def execRailStepDone : State → Host.Outcome State Fault Refusal := lift fun m =>
  if m.md.raising = true ∧ m.md.railStep < 6 then m.railStepDone else m

/-- R106, R112: the boot sequence is complete; `fails` names the units that failed self-test (R18). -/
def execBootComplete (fails : List UnitId) : State → Host.Outcome State Fault Refusal := lift fun m =>
  if m.md.mode = .boot ∧ m.md.railStep = 6 ∧ m.railsUp = true ∧ m.se.boot.ready = true ∧ m.now < m.md.bootAt + 5 * sec then (m.bootDone fails).settle else m

/-- R106: the 50 ms in CONFIGURE of a BOOT toward OPERATE end. -/
def execBootConfigurePassEnd : State → Host.Outcome State Fault Refusal := lift fun m =>
  match m.md.mode, m.md.passEnd with
  | .configure, some t => ((m.advanceTo t).enterOperate).settle
  | _, _ => m

/-- R127: a BOOT has not reached CONFIGURE 5 s after its entry. -/
def execBootWatchdog : State → Host.Outcome State Fault Refusal := lift fun m =>
  if m.md.mode = .boot then ((m.advanceTo (m.md.bootAt + 5 * sec)).enterFault 0).settle else m

/-- R99, R173: 5 ms after FAULT entry, or after the rails are back in window, the ROM monitor serves. -/
def execRomMonitorServes : State → Host.Outcome State Fault Refusal := lift fun m =>
  if m.md.mode = .fault ∧ m.md.serving = false ∧ m.md.raising = false ∧ ([.vib, .vhub, .vio].all fun r => m.md.rails.contains r) then
    ((m.advanceTo (m.md.faultAt + 5 * ms)).onMd fun b => { b with serving := true }).setMrdy true
  else m

/-- R169, R172: no feed for 60 ms: counts and waiting events are stored, VAO is switched off, and the module is OFF. -/
def execVaoHoldupExpiry : State → Host.Outcome State Fault Refusal := lift fun m =>
  match m.pw.holdupEnd with
  | none => m
  | some t =>
    let off := fun (s : FeedSt) =>
      { s with fet := .off, rampTimeout := none, absentAt := none, lastFull := none, retries := 0, held := false, clearSeen := false, coolEnd := none,
               hotTrip := false, latched := false, carrying := false, ilim := false, current := 0 }
    let m1 := (m.advanceTo t).storeDebug.onPw fun p =>
      { p with a := off p.a, b := off p.b, storeA := p.a.energy, storeB := p.b.energy, storeM := p.energy, vao := false, heldOff := false,
               holdupEnd := none, pg := false, okSince := none, samples := [], ftStart := none, sumlim := false }
    let m2 := m1.onMd fun b => { b with rails := [], railStep := 0, railReset := true, raising := false, cold := true, mrdy := false, serving := false }
    let m3 := if m2.md.mode = .off then m2 else m2.enterMode .off 0
    let m4 := m3.reboot .down
    let base := m4.di.flash.foldl (fun t x => tset (objDefault x.1) x.1 x.2 t) []
    let objs := (m4.di.obj.filter fun x => decide (x.1 / 2 ^ 20 = 1)).foldl (fun t x => tset (objDefault x.1) x.1 x.2 t) base
    m4.onDi fun d => { d with strapped := false, obj := objs }

/-! The governor (R114 to R118). -/

/-- The governor runs. -/
def Mode.governed : Mode → Bool
  | .configure | .operate | .capped | .drain => true
  | .off | .standby | .boot | .fault => false

/-- R114: an evaluation, with the junction temperatures of FD0, FD1 and HUB in thousandths of a degree. In other modes the temperatures are
only measured (R116). -/
def execGovernorEvaluate (t0 t1 th : Int) : State → Host.Outcome State Fault Refusal := lift fun m =>
  let m0 := m.onMd fun b => { b with temps := [t0, t1, th] }
  if m.md.mode.governed = false then m0
  else
    let m1 := m0.advanceTo m.md.gov.nextAt
    let p := m1.powerAvg
    let t := max t0 (max t1 th)
    let tgov : Int := (m1.objv 0x202200 : Int) * 1000
    let cap := m1.objv 0x202000
    let target := if cap = 0 then m1.pAvail else min m1.pAvail cap
    let past := decide (target * 1000 < p) || decide (tgov ≤ t)
    let under := decide (p < (target - 10) * 1000) && decide (t < tgov - 5000)
    let g := m1.md.gov
    let m2 := m1.onMd fun b =>
      { b with gov := { b.gov with isOver := past, volt := decide (m1.pAvail < 220), therm := decide (tgov ≤ t),
                                   cap := decide (cap ≠ 0) && decide (cap * 1000 < p), target := target, nextAt := m1.now + 10 * ms } }
    let m3 := if g.floor then m2
      else if past = true ∧ g.step < 5 then m2.govStep (g.step + 1)
      else if under = true ∧ 0 < g.step then
        if 100 ≤ g.hold + 10 then m2.govStep (g.step - 1) else m2.onMd fun b => { b with gov := { b.gov with hold := g.hold + 10 } }
      else m2.onMd fun b => { b with gov := { b.gov with hold := 0 } }
    m3.holdMeasures.settle

/-- Channel pair i of each die: one channel of R404, its two pseudo-channels (R15, R39). -/
def channelPair (i : Nat) : List Nat := [i, 12 + i]

/-- R115: the next channel pair of each die, paused for 50 µs, is stepped to the reduced data rate, or back once step 2 is released. -/
def execGddr6RateStep : State → Host.Outcome State Fault Refusal := lift fun m =>
  let down := decide (2 ≤ m.md.gov.step)
  match (List.range 12).find? fun i => m.md.slowCh.contains i != down with
  | none => m
  | some i =>
    if m.md.mode.governed = false then m
    else (m.advance 50000).onMd fun b =>
      { b with slowCh := if down then b.slowCh ++ channelPair i else b.slowCh.filter fun c => !(channelPair i).contains c }

/-- R117: step 5 for 100 ms and `over` still holds: DRAIN with end state STANDBY. -/
def execGovernorFloor : State → Host.Outcome State Fault Refusal := lift fun m =>
  match m.md.gov.floorSince with
  | none => m
  | some t =>
    if (m.md.mode = .configure ∨ m.md.mode = .operate ∨ m.md.mode = .capped) ∧ m.md.gov.step = 5 ∧ m.md.gov.isOver = true then
      let m1 := (m.advanceTo (t + 100 * ms)).onMd fun b => { b with gov := { b.gov with floor := true } }
      (m1.startDrain .standby (m1.objv 0x200400)).settle
    else m

/-- R118: the input current has been at 95 % of the module limit for 50 µs: straight to step 2. -/
def execInputCurrentEmergency : State → Host.Outcome State Fault Refusal := lift fun m =>
  if m.md.mode.governed = true ∧ m.md.gov.step < 2 then
    (((m.advance 50000).govStep 2).onMd fun b => { b with gov := { b.gov with emerg := true } }).settle
  else m

/-- R116, R111: the junction of a die (0 FD0, 1 FD1, 2 HUB) reaches 115 °C: the core, SerDes and memory rails are removed, power-on reset is
asserted, a raise of R173 that runs ends, and the module enters FAULT. -/
def execThermalTrip (d : Fin 3) : State → Host.Outcome State Fault Refusal := lift fun m =>
  if m.md.rails = [] then m
  else
    let hot := m.md.temps.mapIdx fun i t => if i = d.val then max t 115000 else t
    let m1 := if m.md.mode = .fault then m else m.enterFault 0
    let m2 := m1.onMd fun b => { b with rails := b.rails.filter fun r => [.vib, .vhub, .vio].contains r, temps := hot, thermalTrip := true,
                                         railReset := true, raising := false }
    let m3 := (m2.onEv fun b => { b with ringReady := false }).onSv fun b => { b with service := [] }
    (m3.each (List.range 16) fun k m => m.refoutCheck k).settle

/-! DRAIN (R120 to R124). -/

/-- A DRAIN stands at this step. -/
def Mod.drainAt (m : Mod) (step : Nat) : Bool := decide (m.md.mode = .drain) && decide (m.md.drain.step = step)

/-- R120: step 2 ends when no write-combining entry and no started descriptor is left and the tracker holds only entries of recall; the recall
starts. -/
def execDrainTrackerDone : State → Host.Outcome State Fault Refusal := lift fun m =>
  if m.drainAt 2 && m.br.wc.isEmpty && m.br.held.isEmpty && (m.sv.qps.all fun x => x.2.started.isEmpty) && m.sw.trk.all fun x => decide (x.2.kind = 0) || decide (x.2.kind = 5) || x.2.orphan then
    ((m.onMd fun b => { b with drain := { b.drain with step := 3 } }).recallAll).settle
  else m

/-- R120: step 3 ends when no line is left and the edge snoop filter is empty; a line that came meanwhile is recalled too. -/
def execDrainRecallDone : State → Host.Outcome State Fault Refusal := lift fun m =>
  if m.drainAt 3 = false then m
  else if m.recalled then m.startHandoff.settle
  else m.recallAll.settle

/-- R123: a homed parcel with a partner, none of its transactions in progress, is handed off. -/
def execParcelHandoff (i : Fin 65536) : State → Host.Outcome State Fault Refusal := lift fun m =>
  if m.drainAt 4 = true ∧ i.val ∈ m.homedParcels ∧ m.dPartner i ≠ 0 ∧ m.parcelBusy i = false then (m.handOff i).settle else m

/-- R124: the recall of a parcel without partner is complete; the module unhomes it. -/
def execParcelUnhome (i : Fin 65536) : State → Host.Outcome State Fault Refusal := lift fun m =>
  if m.drainAt 4 = true ∧ i.val ∈ m.po.recalling ∧ m.parcelBusy i = false ∧ m.parcelLines i = [] then
    m.onPo fun b => { b with recalling := without i.val b.recalling, unhomed := addOnce i.val b.unhomed }
  else m

/-- R120: step 4 ends when every homed parcel is handed off or unhomed; the leave starts. -/
def execDrainHandoffDone : State → Host.Outcome State Fault Refusal := lift fun m =>
  if m.drainAt 4 && m.homedParcels.all fun i => m.po.unhomed.contains i then m.startLeave.settle else m

/-- R120: step 5 ends when all fabric links are DOWN. -/
def execDrainLeaveDone : State → Host.Outcome State Fault Refusal := lift fun m =>
  if m.drainAt 5 && (List.range 16).all fun n => decide ((m.link n).st = .down) || decide ((m.link n).st = .retired) then m.startEnd.settle else m

/-- R120, R122: step 6 ends in STANDBY, OFF or BOOT. -/
def execDrainEnd : State → Host.Outcome State Fault Refusal := lift fun m => if m.drainAt 6 then m.drainEnds else m

/-- R121: the DRAIN bound expires in steps 1 to 5. -/
def execDrainBoundExpiry : State → Host.Outcome State Fault Refusal := lift fun m =>
  if m.md.mode = .drain ∧ m.md.drain.step ≤ 5 then ((m.advanceTo m.md.drain.bound).drainBound).settle else m

end Sys2Proof.Machine
end

