-- ==== Sys2Proof/Machine/Mpu.lean ====
section
/-! DEFINITION. The commands of the hub's bus (R545 to R554). -/
namespace Sys2Proof.Machine

/-- R550: a transaction of 1 to 64 bytes by a master (0 to 15 service cores, 16 crypto engine, 17 debug port) at a privilege, data the lowest
address first. The debug port carries Debug and fetches nothing, and is disabled in DECOMMISSIONED (R553, R573). -/
def execHubBusTransaction (master : Fin 18) (priv : Fin 4) (k : BusKind) (addr size data : Nat) : State → Host.Outcome State Fault Refusal := lift fun m =>
  let p := if master = 17 then 3 else priv.val
  let addr := addr % 2 ^ 48
  if m.md.mode.code < 2 ∨ size = 0 ∨ 64 < size ∨ (master = 17 ∧ (k = .fetch ∨ m.lifeCode = 5)) then m
  else
    let o : FilterOp := { source := 10, addr := some addr, master := some master, priv := p }
    let m1 := (m.tally o 1).tally { o with source := 11 } size
    match m1.forbidden p k addr size with
    | some a => (m1.violation master p k addr size a).faultTo master
    | none =>
      if k = .write then (m1.hubWrite addr (leBytes size data)).emit (.bus master true 0)
      else m1.emit (.bus master true (ofBytesLE ((List.range size).map fun i => m1.hubByte (addr + i))))

end Sys2Proof.Machine
end

