-- ==== Sys2Proof/Machine/Power.lean ====
section
/-! DEFINITION. The commands of the power-entry stage: feeds, ORing, inrush, limits, trips, metering (R139 to R176). -/
namespace Sys2Proof.Machine

/-- R145, R168: a feed rises above 2.7 V. Within 1 ms of its loss it carries again at once; otherwise, unless held, its
pass FET starts a ramp. The first feed to return ends a VAO hold-up; with VAO down, VAO rises. -/
def execFeedPresent (f : Feed) (mv : Nat) : State → Host.Outcome State Fault Refusal := lift fun m =>
  if mv < 2700 ∨ (m.feed f).present = true then m
  else
    let back := (m.feed f).absentAt.isSome
    let m1 := if m.pw.vao || m.pw.heldOff then m.onPw fun p => { p with holdupEnd := none } else m.vaoRise
    let m2 := m1.onFeed f fun s => { s with present := true, voltage := mv, absentAt := none, oring := true, rev := false }
    let m3 := m2.powerEvent 0x0108 1
    let m4 := if !back && m3.mayRamp f then m3.startRamp f else m3
    m4.notePAvail

/-- R168, R169: a feed falls below 2.5 V. Its ORing FET blocks, its pass FET stays commanded on for 1 ms; with no feed
left the 60 ms VAO hold-up starts. -/
def execFeedAbsent (f : Feed) (mv : Nat) : State → Host.Outcome State Fault Refusal := lift fun m =>
  if 2500 ≤ mv ∨ (m.feed f).present = false then m
  else
    let m1 := m.onFeed f fun s =>
      { s with present := false, voltage := mv, absentAt := if s.fet = .off then none else some m.now, oring := false,
               carrying := false, ilim := false, current := 0, overvolt := false }
    let m2 := m1.powerEvent 0x0108
    let m3 := if m2.pw.a.present || m2.pw.b.present then m2
      else m2.onPw fun p => { p with holdupEnd := some (m.now + 60 * ms) }
    m3.pgCheck.notePAvail

/-- R168: a feed absent for 1 ms has its pass FET turned off. -/
def execFeedAbsentTimeout (f : Feed) : State → Host.Outcome State Fault Refusal := lift fun m =>
  match (m.feed f).absentAt with
  | none => m
  | some t => (m.advanceTo (t + ms)).onFeed f fun s => { s with fet := .off, rampTimeout := none, absentAt := none }

/-- R139, R140: 62 V turns the pass FET off without a trip. -/
def execFeedOvervoltage (f : Feed) (mv : Nat) : State → Host.Outcome State Fault Refusal := lift fun m =>
  if mv < 62000 ∨ (m.feed f).present = false ∨ (m.feed f).overvolt = true then m
  else
    let m1 := m.onFeed f fun s =>
      { s with overvolt := true, voltage := mv, fet := .off, rampTimeout := none, carrying := false, ilim := false, current := 0 }
    (m1.powerEvent 0x0107 1).pgCheck.notePAvail

/-- R139, R145: at 61 V the pass FET is turned on again through a ramp. -/
def execFeedOvervoltageRelease (f : Feed) (mv : Nat) : State → Host.Outcome State Fault Refusal := lift fun m =>
  if 61000 < mv ∨ (m.feed f).overvolt = false then m
  else
    let m1 := (m.onFeed f fun s => { s with overvolt := false, voltage := mv }).powerEvent 0x0107
    (if m1.mayRamp f then m1.startRamp f else m1).notePAvail

/-- R142, R144, R166: VBUS exceeds the feed by 20 mV and its ORing FET turns off. -/
def execOringReverseOff (f : Feed) (vbus : Nat) : State → Host.Outcome State Fault Refusal := lift fun m =>
  let s := m.feed f
  if s.oring = false ∨ vbus < s.voltage + 20 then m
  else
    let m1 := (m.onPw fun p => { p with vbus := vbus }).onFeed f fun s =>
      { s with oring := false, rev := true, carrying := false, current := 0 }
    (if s.carrying then m1.powerEvent 0x0109 else m1).pgCheck.notePAvail

/-- R142, R166: the feed exceeds VBUS by 20 mV and its ORing FET conducts. -/
def execOringConduct (f : Feed) (mv : Nat) : State → Host.Outcome State Fault Refusal := lift fun m =>
  if (m.feed f).present = false ∨ mv < m.pw.vbus + 20 then m
  else (m.onFeed f fun s => { s with oring := true, rev := false, voltage := mv }).pgCheck

/-- R146: VBUS comes within 0.5 V of the feed; full enhancement is commanded. -/
def execInrushRampEnd (f : Feed) (vbus : Nat) : State → Host.Outcome State Fault Refusal := lift fun m =>
  let m1 := m.onPw fun p => { p with vbus := vbus }
  if (m.feed f).fet = .ramp ∧ m1.pw.near f = true then (m1.fullEnhance f).pgCheck.notePAvail else m

/-- R146: a ramp not ended by its timeout trips the feed. -/
def execInrushTimeout (f : Feed) : State → Host.Outcome State Fault Refusal := lift fun m =>
  match (m.feed f).fet, (m.feed f).rampTimeout with
  | .ramp, some t => ((m.advanceTo t).trip f 5 false 0x0103).notePAvail
  | _, _ => m

/-- R149, R150: a limit enters regulation (0 feed A, 1 feed B, 2 the module limit); the fault timer starts with the
length then set. -/
def execLimitRegulationStart (l : Fin 3) : State → Host.Outcome State Fault Refusal := lift fun m =>
  let m1 := if l = 0 then m.onFeed 0 fun s => { s with ilim := true }
    else if l = 1 then m.onFeed 1 fun s => { s with ilim := true }
    else m.onPw fun p => { p with sumlim := true }
  m1.onPw fun p => if p.ftStart.isSome then p else { p with ftStart := some m.now, ftLength := m.objv 0x101200 * 1000 }

/-- R150: 100 µs in which no limit is in regulation return the fault timer to zero. -/
def execFaultTimerReset : State → Host.Outcome State Fault Refusal := lift fun m =>
  if m.pw.ftStart.isNone then m
  else (m.advance 100000).onPw fun p =>
    { p with ftStart := none, sumlim := false, a := { p.a with ilim := false }, b := { p.b with ilim := false } }

/-- R150, R165: the fault timer expires; feeds whose limit is in regulation, or all carrying feeds for the module limit,
are tripped, and PWR_GOOD falls. -/
def execSlowTrip : State → Host.Outcome State Fault Refusal := lift fun m =>
  match m.pw.ftStart with
  | none => m
  | some t =>
    let m1 := m.advanceTo (t + m.pw.ftLength)
    let one := fun (f : Feed) (x : Mod) =>
      if (m1.feed f).ilim then x.trip f 1 false 0x0101
      else if m1.pw.sumlim = true ∧ (m1.feed f).fet ≠ .off ∧ (m1.feed f).present = true ∧ (m1.feed f).rev = false then x.trip f 2 false 0x0101
      else x
    let m2 := (m1.onPw fun p => { p with ftStart := none, sumlim := false })
    let m3 := if m2.pw.pg then (m2.onPw fun p => { p with pg := false }).powerEvent 0x010B else m2
    (one 1 (one 0 m3)).notePAvail

/-- R151: twice a limit (0 feed A, 1 feed B, 2 the module) trips without waiting for the timer. -/
def execFastTrip (l : Fin 3) : State → Host.Outcome State Fault Refusal := lift fun m =>
  let one := fun (f : Feed) (cause : Nat) (x : Mod) =>
    if (m.feed f).fet ≠ .off ∧ (m.feed f).present = true ∧ (m.feed f).rev = false then x.trip f cause false 0x0102 else x
  let m1 := if l = 0 then one 0 3 m else if l = 1 then one 1 3 m
    else (one 1 4 (one 0 4 m)).onPw fun p => { p with sumlim := false }
  m1.notePAvail

/-- R152: 150 °C trips the feed. -/
def execFetOvertempTrip (f : Feed) : State → Host.Outcome State Fault Refusal := lift fun m =>
  if (m.feed f).fet = .off then m
  else ((m.onFeed f fun s => { s with fetTemp := 150000 }).trip f 8 false 0x0106).notePAvail

/-- R159, R161: the gate has not risen 5 ms after full enhancement; the feed trips and is held as under latch-off. -/
def execGateCheckFail (f : Feed) : State → Host.Outcome State Fault Refusal := lift fun m =>
  match (m.feed f).fet, (m.feed f).lastFull with
  | .full, some t => ((m.advanceTo (t + 5 * ms)).trip f 6 true 0x0104).notePAvail
  | _, _ => m

/-- R160, R161: VDS above 0.5 V for 1 ms without regulation; the feed trips and is held as under latch-off. -/
def execVdsHighTrip (f : Feed) : State → Host.Outcome State Fault Refusal := lift fun m =>
  if (m.feed f).fet = .full ∧ (m.feed f).ilim = false then ((m.advance ms).trip f 7 true 0x0104).notePAvail else m

/-- R162: a pass FET commanded off still holds VBUS within 0.5 V of its feed for 1 ms. -/
def execFetShortDetect (f : Feed) : State → Host.Outcome State Fault Refusal := lift fun m =>
  let s := m.feed f
  let o := m.feed (otherFeed f)
  if s.fet = .off ∧ s.present = true ∧ (o.fet = .off ∨ o.present = false) ∧ m.pw.near f = true ∧ s.fetShort = false then
    ((m.advance ms).onFeed f fun s => { s with fetShort := true }).powerEvent 0x0105
  else m

/-- R153: a lowered limit (0 feed A, 1 feed B, 2 the module) takes effect 20 ms after its write. -/
def execLimitLowerApply (l : Fin 3) : State → Host.Outcome State Fault Refusal := lift fun m =>
  let due := if l = 0 then m.pw.a.limitDue else if l = 1 then m.pw.b.limitDue else m.pw.limitDue
  match due with
  | none => m
  | some (v, t) =>
    let m1 := m.advanceTo t
    if l = 0 then m1.onFeed 0 fun s => { s with limit := v, limitDue := none }
    else if l = 1 then m1.onFeed 1 fun s => { s with limit := v, limitDue := none }
    else m1.onPw fun p => { p with limit := v, limitDue := none }

/-- R152, R157: a cool-down ends. Under auto-retry, or after a clear, the feed starts a ramp unless it is held; a feed
tripped by temperature waits until its FET is below 125 °C (temp in thousandths of a degree). Under latch-off it is held from then on. -/
def execCooldownEnd (f : Feed) (temp : Int) : State → Host.Outcome State Fault Refusal := lift fun m =>
  let s := m.feed f
  match s.coolEnd with
  | none => m
  | some t =>
    let m1 := m.advanceTo t
    if s.hotTrip = true ∧ 125000 ≤ temp then m1.onFeed f fun s => { s with fetTemp := temp }
    else
      let retry := decide (m.objv 0x101400 = 1) || s.clearSeen
      let m2 := m1.onFeed f fun s =>
        { s with coolEnd := none, clearSeen := false, hotTrip := false, fetTemp := temp, held := s.held || !retry }
      if retry && m2.mayRamp f then (m2.startRamp f).notePAvail else m2.notePAvail

/-- R175: one 10 kHz sample of voltages (mV), currents (mA), FET temperatures and VBUS; energy counts and peaks. A limit is in regulation while the current
stands at it (R149), so one whose current is below it in a sample is in regulation no longer (DEDUCED, log entry 210). -/
def execTelemetrySample (va ia vb ib vbus : Nat) (ta tb : Int) : State → Host.Outcome State Fault Refusal := lift fun m =>
  if m.pw.vao = false then m
  else
    let up := fun (v i : Nat) (t : Int) (s : FeedSt) =>
      { s with voltage := v, current := i, power := v * i / 1000, fetTemp := t, carrying := decide (0 < i),
               ilim := s.ilim && decide (s.limit ≤ i), energy := s.energy + v * i / 1000, peak := max s.peak i }
    let m1 := (m.advance 100000).onPw fun p =>
      { p with a := up va ia ta p.a, b := up vb ib tb p.b, vbus := vbus, sumlim := p.sumlim && decide (p.limit ≤ ia + ib),
               samples := ((vbus, va * ia / 1000 + vb * ib / 1000) :: p.samples).take 100,
               energy := p.energy + va * ia / 1000 + vb * ib / 1000 }
    m1.pgCheck.notePAvail

end Sys2Proof.Machine
end

