-- ==== Sys2Proof/Machine/Security.lean ====
section
/-! DEFINITION. The commands of security (R561 to R578): challenges and tokens, reports, key slots, lifecycle, staging, activation. -/
namespace Sys2Proof.Machine

/-- R571: a read of D.030.00 issues a challenge. -/
def execChallengeRead (src : Source) : State → Host.Outcome State Fault Refusal := lift fun m => m.readRow src 0xD03000
/-- R571: the length of the token in the buffer is written. -/
def execTokenPresent (src : Source) (len : Fin 65536) : State → Host.Outcome State Fault Refusal := lift fun m => m.writeRow src 0xD04100 len true

/-- R572: the token of a session lapses 60 s after its presentation. -/
def execTokenLapse (sess : Nat) : State → Host.Outcome State Fault Refusal := lift fun m =>
  match m.se.tokens.find? fun t => t.session = sess with
  | some t => (m.advanceTo (t.at_ + 60 * sec)).onSe fun b => { b with tokens := b.tokens.filter fun x => x.session ≠ sess }
  | none => m

/-- R568: a nonce of 32 bytes is written. -/
def execAttestationNonce (src : Source) (nonce : Nat) : State → Host.Outcome State Fault Refusal := lift fun m => m.writeRow src 0xD02000 (nonce % 2 ^ 256) true

/-- R570: key slot k is enrolled with RIGHTS. -/
def execKeySlotEnrol (src : Source) (k : Fin 8) (rights : Fin 256) (stored : Bool) : State → Host.Outcome State Fault Refusal := lift fun m =>
  m.writeRow src (keyOid k 3) (2 ^ 30 + rights) stored
/-- R570: key slot k is revoked. -/
def execKeySlotRevoke (src : Source) (k : Fin 8) (stored : Bool) : State → Host.Outcome State Fault Refusal := lift fun m =>
  m.writeRow src (keyOid k 3) (2 ^ 31 + m.slotRights k) stored
/-- R570: key slot k, revoked, is cleared. -/
def execKeySlotClear (src : Source) (k : Fin 8) (stored : Bool) : State → Host.Outcome State Fault Refusal := lift fun m => m.writeRow src (keyOid k 3) 0 stored

/-- R574: D.002.00 = 1. -/
def execLifecycleProvision (src : Source) : State → Host.Outcome State Fault Refusal := lift fun m => m.writeRow src 0xD00200 1 true
/-- R574: D.002.00 = 2. -/
def execLifecycleProduction (src : Source) : State → Host.Outcome State Fault Refusal := lift fun m => m.writeRow src 0xD00200 2 true
/-- R574: D.002.00 = 4. -/
def execLifecycleRma (src : Source) : State → Host.Outcome State Fault Refusal := lift fun m => m.writeRow src 0xD00200 4 true
/-- R574: D.002.00 = 5. -/
def execLifecycleDecommission (src : Source) : State → Host.Outcome State Fault Refusal := lift fun m => m.writeRow src 0xD00200 5 true

/-- R575: D.050.00 = minutes. -/
def execDebugUnlock (src : Source) (minutes : Fin 65536) : State → Host.Outcome State Fault Refusal := lift fun m => m.writeRow src 0xD05000 minutes true

/-- R575: the minutes of DEBUG-AUTHORISED are used up. -/
def execDebugExpiry : State → Host.Outcome State Fault Refusal := lift fun m =>
  if m.lifeCode = 3 then (((m.advanceTo (m.se.debugMinute + m.objv 0xD00300 * 60 * sec)).eraseDebug)).raise (evt 0x0D03) else m

/-- R576: 1,024 bytes are staged. -/
def execStagingDataWrite (src : Source) (data : Nat) : State → Host.Outcome State Fault Refusal := lift fun m => m.writeRow src 0xD06003 (data % 256 ^ 1024) true
/-- R576: the staged image is to be checked. -/
def execStagingCheck (src : Source) : State → Host.Outcome State Fault Refusal := lift fun m => m.writeRow src 0xD06004 1 true

/-- R576: the check of the staged image ends. -/
def execStagingCheckDone : State → Host.Outcome State Fault Refusal := lift fun m =>
  match m.se.checkEnd with
  | none => m
  | some t =>
    let m1 := m.advanceTo t
    m1.onSe fun b => { b with staged := m1.stagedWord, checkEnd := none }

/-- R577: D.061.00 = 1. -/
def execActivateLive (src : Source) : State → Host.Outcome State Fault Refusal := lift fun m => m.writeRow src 0xD06100 1 true
/-- R577: D.061.00 = 2. -/
def execActivateReset (src : Source) : State → Host.Outcome State Fault Refusal := lift fun m => m.writeRow src 0xD06100 2 true

/-- R577, R99: the firmware being started live serves: MRDY rises. A new image is measured; the previous one, started after a failure, is no activation. -/
def execLiveActivationDone : State → Host.Outcome State Fault Refusal := lift fun m =>
  if m.se.live.isNone then m
  else
    let again := m.se.liveRetry
    let m1 := m.onSe fun b => { b with live := none, liveRetry := false, staged := 0, boot := { b.boot with runFwB := b.boot.fwB } }
    let m2 := ((m1.onSe fun b => { b with m1 := m1.measure 2 b.boot.runFwB }).onMd fun b => { b with serving := true }).setMrdy true
    if again then m2 else m2.raise (evt 0x0D05)

/-- R577: the firmware does not serve within 5 s: the previous image is started, once; then it is a fatal hub error of the watchdog. -/
def execLiveActivationTimeout : State → Host.Outcome State Fault Refusal := lift fun m =>
  match m.se.live with
  | none => m
  | some t =>
    let m1 := m.advanceTo (t + 5 * sec)
    if m.se.liveRetry then (m1.onSe fun b => { b with live := none, liveRetry := false }).fatalHub 4 |>.settle
    else
      (m1.onSe fun b => { b with live := some m1.now, liveRetry := true, boot := { b.boot with fwB := b.boot.runFwB, trial := false, trialFail := true } }).raise
        (evt 0x0D08)

/-- R578: D.062.00 is written. -/
def execCommitImages (src : Source) : State → Host.Outcome State Fault Refusal := lift fun m => m.writeRow src 0xD06200 1 true

end Sys2Proof.Machine
end

