-- ==== Sys2Proof/Machine/Tap.lean ====
section
/-! DEFINITION. The slot straps and the test access port (R616, R623 to R625). A TAP command loads an instruction and makes one pass through the data register
it selects, whose captured value leaves at TDO. -/
namespace Sys2Proof.Machine

/-- R616: 50 ms after VAO entered its window the island samples the straps, once. -/
def execStrapSample (slot : Fin 32) : State → Host.Outcome State Fault Refusal := lift fun m =>
  if m.pw.vao = false ∨ m.di.strapped = true then m
  else (m.advanceTo (m.pw.vaoSince + 50 * ms)).onDi fun d => { d with strapped := true, slotId := slot }

/-- The TAP is served: VHUB is up in BOOT to DRAIN and in FAULT (R623). -/
def Mod.tapServed (m : Mod) : Bool := decide (m.md.mode ≠ .off) && decide (m.md.mode ≠ .standby)

/-- An instruction that drives pins may take effect (R625). -/
def Mod.tapMayDrive (m : Mod) : Bool :=
  decide (m.se.life ≠ 5) &&
  (decide (m.md.mode = .fault) ||
    (decide (m.md.mode = .configure) && ((List.range 48).all fun p => decide (m.objv (mkOid 4 p 1) = 0)) &&
      (List.range 16).all fun n => decide ((m.link n).st = .retired) || !(m.link n).trained))

/-- IDCODE (R623). -/
def idcode : Nat := pack [(Config.factory 2 % 16, 28, 4), (0x2564, 12, 16), (0x3A5, 1, 11), (1, 0, 1)]
/-- Cells of the boundary register (R624). -/
def boundaryCells : Nat := 1157

/-- BYPASS is loaded: its one bit captures 0. -/
def Mod.tapBypass (m : Mod) : Mod := (m.onTp fun t => { t with ir := .bypass, scanning := false }).emit (.tap .bypass 0)

/-- An instruction that drives pins is loaded: in effect, or BYPASS in its place (R625). With the boundary register selected, the pins are captured and the cells
loaded. -/
def Mod.tapDrive (m : Mod) (i : TapInstr) (cells : Option (Nat × Nat)) : Mod :=
  if m.tapServed = false then m
  else if m.tapMayDrive = false then m.tapBypass
  else
    let m1 := m.onTp fun t => { t with ir := i, scanning := true }
    match cells with
    | some (pins, data) => (m1.onTp fun t => { t with boundary := data % 2 ^ boundaryCells }).emit (.tap i (pins % 2 ^ boundaryCells))
    | none => m1.emit (.tap i 0)

/-- R625: EXTEST; `pins` what the cells capture, `data` what is shifted in. -/
def execTapExtest (pins data : Nat) : State → Host.Outcome State Fault Refusal := lift fun m => m.tapDrive .extest (some (pins, data))
/-- R625: EXTEST_PULSE. -/
def execTapExtestPulse (pins data : Nat) : State → Host.Outcome State Fault Refusal := lift fun m => m.tapDrive .extestPulse (some (pins, data))
/-- R625: EXTEST_TRAIN. -/
def execTapExtestTrain (pins data : Nat) : State → Host.Outcome State Fault Refusal := lift fun m => m.tapDrive .extestTrain (some (pins, data))
/-- R625: CLAMP. -/
def execTapClamp : State → Host.Outcome State Fault Refusal := lift fun m => m.tapDrive .clamp none
/-- R625: HIGHZ. -/
def execTapHighz : State → Host.Outcome State Fault Refusal := lift fun m => m.tapDrive .highz none

/-- R623: IDCODE, also in DECOMMISSIONED. -/
def execTapIdcode : State → Host.Outcome State Fault Refusal := lift fun m =>
  if m.tapServed then (m.onTp fun t => { t with ir := .idcode, scanning := false }).emit (.tap .idcode idcode) else m

/-- R623, R625: SAMPLE/PRELOAD captures the pins and loads the cells; nothing is driven. -/
def execTapSamplePreload (pins data : Nat) : State → Host.Outcome State Fault Refusal := lift fun m =>
  if m.tapServed = false then m
  else if m.se.life = 5 then m.tapBypass
  else (m.onTp fun _ => { ir := .samplePreload, scanning := false, boundary := data % 2 ^ boundaryCells }).emit (.tap .samplePreload (pins % 2 ^ boundaryCells))

/-- R625, R573: DEBUG selects the debug transport in every lifecycle state but DECOMMISSIONED. -/
def execTapDebug : State → Host.Outcome State Fault Refusal := lift fun m =>
  if m.tapServed = false then m
  else if m.se.life = 5 then m.tapBypass
  else m.onTp fun t => { t with ir := .debug, scanning := false }

/-- R623: BYPASS. -/
def execTapBypass : State → Host.Outcome State Fault Refusal := lift fun m => if m.tapServed then m.tapBypass else m

/-- R623: Test-Logic-Reset, by TRST_N or TMS. -/
def execTapReset : State → Host.Outcome State Fault Refusal := lift fun m => m.onTp fun t => { t with ir := .idcode, scanning := false }

end Sys2Proof.Machine
end

