-- ==== Sys2Proof/Machine/WriteRows.lean ====
section
/-! DEFINITION. The commands that are writes of one object by a source: a window's session, a transport's, or firmware. Each is the dictionary's write of
that object (R56, R61), whose effect is the object's own; `stored` tells that a store in module flash takes (R57). -/
namespace Sys2Proof.Machine

/-! Modes, fences, feeds (R106, R107, R131, R132, R157, R176). -/

/-- R106: mode request 0. -/
def execModeRequestOff (src : Source) : State → Host.Outcome State Fault Refusal := lift fun m => m.writeRow src 0x200100 0 true
/-- R106: mode request 1. -/
def execModeRequestStandby (src : Source) : State → Host.Outcome State Fault Refusal := lift fun m => m.writeRow src 0x200100 1 true
/-- R106: mode request 2. -/
def execModeRequestBoot (src : Source) : State → Host.Outcome State Fault Refusal := lift fun m => m.writeRow src 0x200100 2 true
/-- R107: mode request 3. -/
def execModeRequestConfigure (src : Source) : State → Host.Outcome State Fault Refusal := lift fun m => m.writeRow src 0x200100 3 true
/-- R106: mode request 4. -/
def execModeRequestOperate (src : Source) : State → Host.Outcome State Fault Refusal := lift fun m => m.writeRow src 0x200100 4 true
/-- R107: mode request 5. -/
def execModeRequestCapped (src : Source) : State → Host.Outcome State Fault Refusal := lift fun m => m.writeRow src 0x200100 5 true

/-- R132: fence entry e (0 to 63) names a unit. -/
def execFenceEntrySet (src : Source) (e : Fin 64) (u : UnitId) (stored : Bool) : State → Host.Outcome State Fault Refusal := lift fun m =>
  m.writeRow src (fenceOid (e + 1)) (unitFields u) stored
/-- R132: fence entry e is written 0. -/
def execFenceEntryClear (src : Source) (e : Fin 64) (stored : Bool) : State → Host.Outcome State Fault Refusal := lift fun m => m.writeRow src (fenceOid (e + 1)) 0 stored

/-- R157: 1.021.00, [0] feed A, [1] feed B. -/
def execClearTrip (src : Source) (v : Fin 256) : State → Host.Outcome State Fault Refusal := lift fun m => m.writeRow src 0x102100 v true
/-- R176: 1.023.00. -/
def execClearEnergy (src : Source) (v : Fin 256) : State → Host.Outcome State Fault Refusal := lift fun m => m.writeRow src 0x102300 v true

/-! Lane tests (R208 to R214): `v` holds bits [28:0] of the test control. -/

/-- A write of the test control of lane l with a MODE. -/
def Mod.testRow (m : Mod) (src : Source) (l mode v : Nat) : Mod := m.writeRow src (mkOid 3 l 4) (mode * 2 ^ 29 + v % 2 ^ 29) true

/-- R211: MODE 0. -/
def execTestOff (src : Source) (l : Lane) (v : Nat) : State → Host.Outcome State Fault Refusal := lift fun m => m.testRow src l 0 v
/-- R211: MODE 1. -/
def execTestGenerate (src : Source) (l : Lane) (v : Nat) : State → Host.Outcome State Fault Refusal := lift fun m => m.testRow src l 1 v
/-- R211: MODE 2. -/
def execTestCheck (src : Source) (l : Lane) (v : Nat) : State → Host.Outcome State Fault Refusal := lift fun m => m.testRow src l 2 v
/-- R211: MODE 3. -/
def execTestGenerateCheck (src : Source) (l : Lane) (v : Nat) : State → Host.Outcome State Fault Refusal := lift fun m => m.testRow src l 3 v
/-- R209: MODE 4. -/
def execTestCompliance (src : Source) (l : Lane) (v : Nat) : State → Host.Outcome State Fault Refusal := lift fun m => m.testRow src l 4 v
/-- R212: MODE 5. -/
def execTimingMargin (src : Source) (l : Lane) (v : Nat) : State → Host.Outcome State Fault Refusal := lift fun m => m.testRow src l 5 v
/-- R212: MODE 6. -/
def execVoltageMargin (src : Source) (l : Lane) (v : Nat) : State → Host.Outcome State Fault Refusal := lift fun m => m.testRow src l 6 v
/-- R214: CLEAR, with the mode and settings as they stand. -/
def execTestCountClear (src : Source) (l : Lane) : State → Host.Outcome State Fault Refusal := lift fun m =>
  m.writeRow src (mkOid 3 l 4) (setFld ((m.lane l).test / 2 ^ 16 * 2 ^ 16 % 2 ^ 32) 24 1 1) true

/-! Edge and fabric ports (R219 to R224, R255, R256, R274). -/

/-- R220: the role of port p. -/
def execPortRoleWrite (src : Source) (p : EdgePort) (v : Fin 256) (stored : Bool) : State → Host.Outcome State Fault Refusal := lift fun m => m.writeRow src (mkOid 4 p 2) v stored
/-- R220: port p is enabled or disabled. -/
def execPortEnableWrite (src : Source) (p : EdgePort) (on stored : Bool) : State → Host.Outcome State Fault Refusal := lift fun m =>
  m.writeRow src (mkOid 4 p 1) (b2n on) stored

/-- R223, R225: port p is bound, here or across modules; on the virtual switch's module a port of another module is put in the place of vPPB v. -/
def execBindingWrite (src : Source) (p : EdgePort) (v : Fin 65536) (far : Far) (stored : Bool) : State → Host.Outcome State Fault Refusal := lift fun m =>
  match far with
  | .here => m.writeRow src (mkOid 4 p 3) v stored
  | .vcs sw up =>
    let old := (m.edge p).farVcs
    let m1 := (m.onEdge p fun s => { s with farVcs := some (sw, v / 256, v % 256, up) }).writeRow src (mkOid 4 p 3) v stored
    if m.binding p ≠ m1.binding p then m1 else m1.onEdge p fun s => { s with farVcs := old }
  | .port sw q flit =>
    if v.val % 256 = 0 ∨ 32 ≤ v.val % 256 ∨ 48 ≤ v.val / 256 ∨ (m.boundPort (v / 256) (v % 256)).isSome then m
    else m.onVppb (v / 256) (v % 256) fun s => { s with remote := some (sw, q), flit := flit }

/-- R224: port p is unbound; on the virtual switch's module a port of another module leaves the vPPB it was bound to. -/
def execUnbindWrite (src : Source) (p : EdgePort) (far : Far) (stored : Bool) : State → Host.Outcome State Fault Refusal := lift fun m =>
  match far with
  | .port sw q _ =>
    let ks := (m.ed.vppb.filter fun x => decide (x.2.remote = some (sw, q))).map (·.1)
    m.each ks fun k m => m.onVppb (k / 32) (k % 32) fun s => { s with remote := none, present := false, linkActive := false, flit := 2 }
  | _ => m.writeRow src (mkOid 4 p 3) 0xFFFF stored

/-- R281: Retire of fabric port n, 5.0pp.02, is written true. -/
def execLinkRetire (src : Source) (n : FabPort) (stored : Bool) : State → Host.Outcome State Fault Refusal := lift fun m => m.writeRow src (mkOid 5 n 2) 1 stored
/-- R273: Retire of fabric port n is written false. -/
def execLinkUnretire (src : Source) (n : FabPort) (stored : Bool) : State → Host.Outcome State Fault Refusal := lift fun m => m.writeRow src (mkOid 5 n 2) 0 stored
/-- R273: the manager asks for a retrain of fabric port n. -/
def execLinkRetrainRequest (src : Source) (n : FabPort) : State → Host.Outcome State Fault Refusal := lift fun m => m.writeRow src (mkOid 5 n 8) 1 true

/-- R322: the grandmaster's time is set, in nanoseconds. -/
def execTimeSet (src : Source) (v : Nat) : State → Host.Outcome State Fault Refusal := lift fun m => m.writeRow src 0x603200 (v % 2 ^ 64) true

/-! Pooling (R392 to R416). -/

/-- R393: extent entry e, empty, is written with STATE 1. -/
def execExtentAddRequest (src : Source) (e : Fin 4096) (v : Nat) (stored : Bool) : State → Host.Outcome State Fault Refusal := lift fun m =>
  m.writeRow src (extOid e) (setFld (v % 2 ^ 64) 61 3 1) stored
/-- R394: STATE 4 of an active extent. -/
def execExtentReleaseRequest (src : Source) (e : Fin 4096) (stored : Bool) : State → Host.Outcome State Fault Refusal := lift fun m =>
  m.writeRow src (extOid e) (setFld (m.objv (extOid e)) 61 3 4) stored
/-- R395: STATE 6. -/
def execExtentForce (src : Source) (e : Fin 4096) (stored : Bool) : State → Host.Outcome State Fault Refusal := lift fun m =>
  m.writeRow src (extOid e) (setFld (m.objv (extOid e)) 61 3 6) stored
/-- R392: a failed entry goes from 7 to 0. -/
def execExtentClear (src : Source) (e : Fin 4096) (stored : Bool) : State → Host.Outcome State Fault Refusal := lift fun m =>
  m.writeRow src (extOid e) (setFld (m.objv (extOid e)) 61 3 0) stored

/-- R393: the home's bind operation: requesting module, descriptor, tenant. -/
def execBindOperation (src : Source) (sw : Fin 4096) (desc : Fin 65536) (t : Tenant) : State → Host.Outcome State Fault Refusal := lift fun m =>
  m.writeRow src 0x901000 (pack [(1, 62, 2), (sw, 50, 12), (desc, 34, 16), (t, 26, 8)]) true
/-- R394: the home's unbind operation. -/
def execUnbindOperation (src : Source) (sw : Fin 4096) (desc : Fin 65536) (t : Tenant) : State → Host.Outcome State Fault Refusal := lift fun m =>
  m.writeRow src 0x901000 (pack [(2, 62, 2), (sw, 50, 12), (desc, 34, 16), (t, 26, 8)]) true

/-- R398: the partner takes over from a lost home. -/
def execTakeover (src : Source) (lost : Fin 65536) : State → Host.Outcome State Fault Refusal := lift fun m => m.writeRow src 0x901100 lost true
/-- R400: a recovering parcel is served without its partner. -/
def execServeWithoutPartner (src : Source) (i : Fin 65536) : State → Host.Outcome State Fault Refusal := lift fun m => m.writeRow src 0x901300 i true
/-- R401: MSTATE 1 with DEST and EVAC in D6. -/
def execMigrationRequest (src : Source) (i dest : Fin 65536) (evac stored : Bool) : State → Host.Outcome State Fault Refusal := lift fun m =>
  m.writeRow src (descOid 6 i) (pack [(1, 61, 3), (dest, 45, 16), (b2n evac, 44, 1)]) stored
/-- R416: mode 0 accepts the contents of a poisoned parcel's backing. -/
def execReinitAccept (src : Source) (i : Fin 65536) : State → Host.Outcome State Fault Refusal := lift fun m => m.writeRow src 0x901200 i true
/-- R416: mode 1 starts the zero fill. -/
def execReinitZero (src : Source) (i : Fin 65536) : State → Host.Outcome State Fault Refusal := lift fun m => m.writeRow src 0x901200 (2 ^ 30 + i) true

/-! Coherence (R471, R473, R474). -/

/-- R471: a flush request reaches the member, for a parcel or every parcel (65535) of a home. -/
def execFlushRequest (src : Source) (desc : Fin 65536) (discard : Bool) (home : Fin 4096) : State → Host.Outcome State Fault Refusal := lift fun m =>
  m.writeRow src 0xA06200 (flushWord desc home discard) true
/-- R473: the manager confirms a caching module lost. -/
def execConfirmLostModule (src : Source) (id : Fin 4096) : State → Host.Outcome State Fault Refusal := lift fun m => m.writeRow src 0xA06100 id true
/-- R474: the report of a discarded message, its 16-byte header. -/
def execLostMessageReport (src : Source) (v : Nat) : State → Host.Outcome State Fault Refusal := lift fun m => m.writeRow src 0xA06300 (v % 2 ^ 128) true

/-! Service function (R512, R526, R528, R529). -/

/-- R526: the backed vectors of VF slot n, or of the host PF of a VCS. -/
def execBackedVectorsWrite (src : Source) (host : Bool) (n : VfSlot) (v : Fin 65536) (stored : Bool) : State → Host.Outcome State Fault Refusal := lift fun m =>
  m.writeRow src (if host then mkOid 0xB (0x100 + n.val % 48) 2 else vfOid n 3) v stored
/-- R528: the owner of queue pair q. -/
def execQpOwnerWrite (src : Source) (q : Qp) (v : Fin 65536) (stored : Bool) : State → Host.Outcome State Fault Refusal := lift fun m => m.writeRow src (qpOwnerOid q) v stored

/-- The quiesce control of queue pair q. -/
def qpQuiesceOid (q : Nat) : Nat := mkOid 0xB (0x440 + q / 128) (1 + q % 128)
/-- R529: value 1. -/
def execQuiesceStart (src : Source) (q : Qp) : State → Host.Outcome State Fault Refusal := lift fun m => m.writeRow src (qpQuiesceOid q) 1 true
/-- R529: value 2. -/
def execQuiesceAbandon (src : Source) (q : Qp) : State → Host.Outcome State Fault Refusal := lift fun m => m.writeRow src (qpQuiesceOid q) 2 true
/-- R529: value 0. -/
def execQuiesceResume (src : Source) (q : Qp) : State → Host.Outcome State Fault Refusal := lift fun m => m.writeRow src (qpQuiesceOid q) 0 true
/-- R512: the assignment of VF slot n: to VCS v and tenant t, or to none. -/
def execVfAssignmentWrite (src : Source) (n : VfSlot) (on : Bool) (v : Fin 64) (t : Tenant) (stored : Bool) : State → Host.Outcome State Fault Refusal := lift fun m =>
  m.writeRow src (vfOid n 1) (pack [(b2n on, 31, 1), (v, 24, 6), (t, 0, 8)]) stored

/-! Access control, counters, events (R552, R554, R584, R590, R602, R603). -/

/-- R554: VALID of the violation record is written 1. -/
def execMpuRecordClear (src : Source) : State → Host.Outcome State Fault Refusal := lift fun m => m.writeRow src 0xC01002 (2 ^ 31) true
/-- R552: the entry of peripheral slot s. -/
def execSlotEntryWrite (src : Source) (slot : Fin 64) (v : Nat) : State → Host.Outcome State Fault Refusal := lift fun m => m.writeRow src (slotOid slot) (v % 2 ^ 32) true
/-- R584: word w of the chain mask. -/
def execChainMaskWrite (src : Source) (w : Fin 24) (v : Nat) (stored : Bool) : State → Host.Outcome State Fault Refusal := lift fun m =>
  m.writeRow src (mkOid 0xE 0x30 (1 + w)) (v % 2 ^ 64) stored
/-- R590: the window length, in nanoseconds. -/
def execWindowLengthWrite (src : Source) (v : Nat) (stored : Bool) : State → Host.Outcome State Fault Refusal := lift fun m => m.writeRow src 0xE04000 (v % 2 ^ 32) stored
/-- R602: the acknowledgement point. -/
def execEventAcknowledge (src : Source) (seq : Nat) : State → Host.Outcome State Fault Refusal := lift fun m => m.writeRow src 0xE01500 (seq % 2 ^ 32) true
/-- R603: LOSTALERT is written 1. -/
def execLostalertClear (src : Source) : State → Host.Outcome State Fault Refusal := lift fun m => m.writeRow src 0xE01600 (2 ^ 30) true

end Sys2Proof.Machine
end

