-- ==== Sys2Proof/Machine/Dispatch.lean ====
section
/-! DEFINITION. exec: one arm per command. -/
namespace Sys2Proof.Machine

def exec (i : Instr) (s : State) : Host.Outcome State Fault Refusal :=
  match i with
  | .clusterPllLockLoss k => Sys2Proof.Machine.execClusterPllLockLoss k s
  | .clusterPllRelock k => Sys2Proof.Machine.execClusterPllRelock k s
  | .regionGate r => Sys2Proof.Machine.execRegionGate r s
  | .regionUngate r => Sys2Proof.Machine.execRegionUngate r s
  | .fatalDieError d cause => Sys2Proof.Machine.execFatalDieError d cause s
  | .fatalHubError cause => Sys2Proof.Machine.execFatalHubError cause s
  | .mainRailLoss rail => Sys2Proof.Machine.execMainRailLoss rail s
  | .dictRead h it => Sys2Proof.Machine.execDictRead h it s
  | .dictWrite h it stored => Sys2Proof.Machine.execDictWrite h it stored s
  | .dictReadMulti h its => Sys2Proof.Machine.execDictReadMulti h its s
  | .dictWriteGroup h num its stored => Sys2Proof.Machine.execDictWriteGroup h num its stored s
  | .dictCommit h num stored => Sys2Proof.Machine.execDictCommit h num stored s
  | .dictAbort h num => Sys2Proof.Machine.execDictAbort h num s
  | .dictSubscribe h it mode => Sys2Proof.Machine.execDictSubscribe h it mode s
  | .groupApply num => Sys2Proof.Machine.execGroupApply num s
  | .commitPendingAnswer num => Sys2Proof.Machine.execCommitPendingAnswer num s
  | .groupLockExpiry num => Sys2Proof.Machine.execGroupLockExpiry num s
  | .sessionIdleTimeout id => Sys2Proof.Machine.execSessionIdleTimeout id s
  | .notifySend id => Sys2Proof.Machine.execNotifySend id s
  | .proxyResponse sess seq status subid items => Sys2Proof.Machine.execProxyResponse sess seq status subid items s
  | .proxyTimeout ix => Sys2Proof.Machine.execProxyTimeout ix s
  | .slotRead src off wide => Sys2Proof.Machine.execSlotRead src off wide s
  | .slotWrite src off wide v stored => Sys2Proof.Machine.execSlotWrite src off wide v stored s
  | .winRead src shadow => Sys2Proof.Machine.execWinRead src shadow s
  | .winWrite src len stored => Sys2Proof.Machine.execWinWrite src len stored s
  | .winErrRead src => Sys2Proof.Machine.execWinErrRead src s
  | .alertResponseAddress => Sys2Proof.Machine.execAlertResponseAddress s
  | .registerWrite r => Sys2Proof.Machine.execRegisterWrite r s
  | .modeRequestOff src => Sys2Proof.Machine.execModeRequestOff src s
  | .modeRequestStandby src => Sys2Proof.Machine.execModeRequestStandby src s
  | .modeRequestBoot src => Sys2Proof.Machine.execModeRequestBoot src s
  | .modeRequestConfigure src => Sys2Proof.Machine.execModeRequestConfigure src s
  | .modeRequestOperate src => Sys2Proof.Machine.execModeRequestOperate src s
  | .modeRequestCapped src => Sys2Proof.Machine.execModeRequestCapped src s
  | .bootStart => Sys2Proof.Machine.execBootStart s
  | .railStepDone => Sys2Proof.Machine.execRailStepDone s
  | .bootComplete fails => Sys2Proof.Machine.execBootComplete fails s
  | .bootConfigurePassEnd => Sys2Proof.Machine.execBootConfigurePassEnd s
  | .bootWatchdog => Sys2Proof.Machine.execBootWatchdog s
  | .governorEvaluate t0 t1 th => Sys2Proof.Machine.execGovernorEvaluate t0 t1 th s
  | .gddr6RateStep => Sys2Proof.Machine.execGddr6RateStep s
  | .governorFloor => Sys2Proof.Machine.execGovernorFloor s
  | .inputCurrentEmergency => Sys2Proof.Machine.execInputCurrentEmergency s
  | .thermalTrip d => Sys2Proof.Machine.execThermalTrip d s
  | .drainTrackerDone => Sys2Proof.Machine.execDrainTrackerDone s
  | .drainRecallDone => Sys2Proof.Machine.execDrainRecallDone s
  | .parcelHandoff ix => Sys2Proof.Machine.execParcelHandoff ix s
  | .parcelUnhome ix => Sys2Proof.Machine.execParcelUnhome ix s
  | .drainHandoffDone => Sys2Proof.Machine.execDrainHandoffDone s
  | .drainLeaveDone => Sys2Proof.Machine.execDrainLeaveDone s
  | .drainEnd => Sys2Proof.Machine.execDrainEnd s
  | .drainBoundExpiry => Sys2Proof.Machine.execDrainBoundExpiry s
  | .hotReset p => Sys2Proof.Machine.execHotReset p s
  | .fenceEntrySet src e u stored => Sys2Proof.Machine.execFenceEntrySet src e u stored s
  | .fenceEntryClear src e stored => Sys2Proof.Machine.execFenceEntryClear src e stored s
  | .feedPresent f mv => Sys2Proof.Machine.execFeedPresent f mv s
  | .feedAbsent f mv => Sys2Proof.Machine.execFeedAbsent f mv s
  | .feedAbsentTimeout f => Sys2Proof.Machine.execFeedAbsentTimeout f s
  | .feedOvervoltage f mv => Sys2Proof.Machine.execFeedOvervoltage f mv s
  | .feedOvervoltageRelease f mv => Sys2Proof.Machine.execFeedOvervoltageRelease f mv s
  | .oringReverseOff f vbus => Sys2Proof.Machine.execOringReverseOff f vbus s
  | .oringConduct f mv => Sys2Proof.Machine.execOringConduct f mv s
  | .inrushRampEnd f vbus => Sys2Proof.Machine.execInrushRampEnd f vbus s
  | .inrushTimeout f => Sys2Proof.Machine.execInrushTimeout f s
  | .limitRegulationStart l => Sys2Proof.Machine.execLimitRegulationStart l s
  | .faultTimerReset => Sys2Proof.Machine.execFaultTimerReset s
  | .slowTrip => Sys2Proof.Machine.execSlowTrip s
  | .fastTrip l => Sys2Proof.Machine.execFastTrip l s
  | .fetOvertempTrip f => Sys2Proof.Machine.execFetOvertempTrip f s
  | .gateCheckFail f => Sys2Proof.Machine.execGateCheckFail f s
  | .vdsHighTrip f => Sys2Proof.Machine.execVdsHighTrip f s
  | .fetShortDetect f => Sys2Proof.Machine.execFetShortDetect f s
  | .limitLowerApply l => Sys2Proof.Machine.execLimitLowerApply l s
  | .cooldownEnd f temp => Sys2Proof.Machine.execCooldownEnd f temp s
  | .clearTrip src v => Sys2Proof.Machine.execClearTrip src v s
  | .pwrGoodRise => Sys2Proof.Machine.execPwrGoodRise s
  | .vaoHoldupExpiry => Sys2Proof.Machine.execVaoHoldupExpiry s
  | .telemetrySample va ia vb ib vbus ta tb => Sys2Proof.Machine.execTelemetrySample va ia vb ib vbus ta tb s
  | .clearEnergy src v => Sys2Proof.Machine.execClearEnergy src v s
  | .alignSearchRound n hits => Sys2Proof.Machine.execAlignSearchRound n hits s
  | .cdrRelockDone n => Sys2Proof.Machine.execCdrRelockDone n s
  | .deskewDone n skew reversed inverted taps => Sys2Proof.Machine.execDeskewDone n skew reversed inverted taps s
  | .laneSignalLost l => Sys2Proof.Machine.execLaneSignalLost l s
  | .laneAlignmentLost l => Sys2Proof.Machine.execLaneAlignmentLost l s
  | .dormantEntryDone n => Sys2Proof.Machine.execDormantEntryDone n s
  | .wakePatternDetected n => Sys2Proof.Machine.execWakePatternDetected n s
  | .dormantExitDone n failed => Sys2Proof.Machine.execDormantExitDone n failed s
  | .refinLoss => Sys2Proof.Machine.execRefinLoss s
  | .clkreqAssert p => Sys2Proof.Machine.execClkreqAssert p s
  | .clkreqRelease p => Sys2Proof.Machine.execClkreqRelease p s
  | .l0pWidthHalve p u1 u2 => Sys2Proof.Machine.execL0pWidthHalve p u1 u2 s
  | .l0pWidthRestore p => Sys2Proof.Machine.execL0pWidthRestore p s
  | .edgeLinkTrained p t loop atomics dvsec => Sys2Proof.Machine.execEdgeLinkTrained p t loop atomics dvsec s
  | .testOff src l v => Sys2Proof.Machine.execTestOff src l v s
  | .testGenerate src l v => Sys2Proof.Machine.execTestGenerate src l v s
  | .testCheck src l v => Sys2Proof.Machine.execTestCheck src l v s
  | .testGenerateCheck src l v => Sys2Proof.Machine.execTestGenerateCheck src l v s
  | .testCompliance src l v => Sys2Proof.Machine.execTestCompliance src l v s
  | .timingMargin src l v => Sys2Proof.Machine.execTimingMargin src l v s
  | .voltageMargin src l v => Sys2Proof.Machine.execVoltageMargin src l v s
  | .testCountClear src l => Sys2Proof.Machine.execTestCountClear src l s
  | .marginRunDone l errors => Sys2Proof.Machine.execMarginRunDone l errors s
  | .checkerLock l errors symbols => Sys2Proof.Machine.execCheckerLock l errors symbols s
  | .checkerLockLoss l errors symbols => Sys2Proof.Machine.execCheckerLockLoss l errors symbols s
  | .portRoleWrite src p v stored => Sys2Proof.Machine.execPortRoleWrite src p v stored s
  | .portEnableWrite src p on stored => Sys2Proof.Machine.execPortEnableWrite src p on stored s
  | .bindingWrite src p v far stored => Sys2Proof.Machine.execBindingWrite src p v far stored s
  | .unbindWrite src p far stored => Sys2Proof.Machine.execUnbindWrite src p far stored s
  | .hostSlotPowerOff v n => Sys2Proof.Machine.execHostSlotPowerOff v n s
  | .unbindGraceExpiry p => Sys2Proof.Machine.execUnbindGraceExpiry p s
  | .ideKeyChangePoint p k => Sys2Proof.Machine.execIdeKeyChangePoint p k s
  | .ideIntegrityFailure p k => Sys2Proof.Machine.execIdeIntegrityFailure p k s
  | .hostPerstAssert p => Sys2Proof.Machine.execHostPerstAssert p s
  | .hostPerstRelease p => Sys2Proof.Machine.execHostPerstRelease p s
  | .secondaryBusReset v n => Sys2Proof.Machine.execSecondaryBusReset v n s
  | .resetPropagateRemote v n => Sys2Proof.Machine.execResetPropagateRemote v n s
  | .resetMessageReceived ix => Sys2Proof.Machine.execResetMessageReceived ix s
  | .prsntAssert p => Sys2Proof.Machine.execPrsntAssert p s
  | .presenceAccepted p => Sys2Proof.Machine.execPresenceAccepted p s
  | .hotAddPerstRelease p => Sys2Proof.Machine.execHotAddPerstRelease p s
  | .hotAddLinkUp p => Sys2Proof.Machine.execHotAddLinkUp p s
  | .removalPrsnt p => Sys2Proof.Machine.execRemovalPrsnt p s
  | .removalLinkDown p => Sys2Proof.Machine.execRemovalLinkDown p s
  | .hostCacheScanDone ix => Sys2Proof.Machine.execHostCacheScanDone ix s
  | .bisnpResponse p ix dirty poison => Sys2Proof.Machine.execBisnpResponse p ix dirty poison s
  | .biconflict p ix => Sys2Proof.Machine.execBiconflict p ix s
  | .hostWriteback p ix tag mask data poison => Sys2Proof.Machine.execHostWriteback p ix tag mask data poison s
  | .hostMemrdNocache p t n tag addr => Sys2Proof.Machine.execHostMemrdNocache p t n tag addr s
  | .hostMemrdShared p t n tag addr => Sys2Proof.Machine.execHostMemrdShared p t n tag addr s
  | .hostMemrdAny p t n tag addr => Sys2Proof.Machine.execHostMemrdAny p t n tag addr s
  | .hostMemwr p t n tag addr data mask => Sys2Proof.Machine.execHostMemwr p t n tag addr data mask s
  | .flitSlot n => Sys2Proof.Machine.execFlitSlot n s
  | .flitRxPayload n head words noise => Sys2Proof.Machine.execFlitRxPayload n head words noise s
  | .flitRxControl n c noise => Sys2Proof.Machine.execFlitRxControl n c noise s
  | .flitRxNull n noise => Sys2Proof.Machine.execFlitRxNull n noise s
  | .flitRxBad n sent noise => Sys2Proof.Machine.execFlitRxBad n sent noise s
  | .replayTimeout n => Sys2Proof.Machine.execReplayTimeout n s
  | .linkSignalLoss n => Sys2Proof.Machine.execLinkSignalLoss n s
  | .retrainTimeout n => Sys2Proof.Machine.execRetrainTimeout n s
  | .trainTimeout n => Sys2Proof.Machine.execTrainTimeout n s
  | .trainStart n => Sys2Proof.Machine.execTrainStart n s
  | .linkupComplete n => Sys2Proof.Machine.execLinkupComplete n s
  | .dormantExitTimeout n => Sys2Proof.Machine.execDormantExitTimeout n s
  | .linkRetire src n stored => Sys2Proof.Machine.execLinkRetire src n stored s
  | .linkUnretire src n stored => Sys2Proof.Machine.execLinkUnretire src n stored s
  | .linkRetrainRequest src n => Sys2Proof.Machine.execLinkRetrainRequest src n s
  | .leaveDrained n => Sys2Proof.Machine.execLeaveDrained n s
  | .leaveDown n => Sys2Proof.Machine.execLeaveDown n s
  | .dormantIdleTimeout n => Sys2Proof.Machine.execDormantIdleTimeout n s
  | .dormantRetry n => Sys2Proof.Machine.execDormantRetry n s
  | .recordReceived n r => Sys2Proof.Machine.execRecordReceived n r s
  | .recordOriginate => Sys2Proof.Machine.execRecordOriginate s
  | .recordPurge id epoch => Sys2Proof.Machine.execRecordPurge id epoch s
  | .routeComputeStart => Sys2Proof.Machine.execRouteComputeStart s
  | .routeComputeDone => Sys2Proof.Machine.execRouteComputeDone s
  | .homeMoveReceived n seq old oldDesc new newDesc cause => Sys2Proof.Machine.execHomeMoveReceived n seq old oldDesc new newDesc cause s
  | .proxySegmentReceived ix req => Sys2Proof.Machine.execProxySegmentReceived ix req s
  | .proxyReassemblyTimeout ix => Sys2Proof.Machine.execProxyReassemblyTimeout ix s
  | .syncSend n => Sys2Proof.Machine.execSyncSend n s
  | .syncReceived n t1 => Sys2Proof.Machine.execSyncReceived n t1 s
  | .delayReqReceived n => Sys2Proof.Machine.execDelayReqReceived n s
  | .delayRespReceived n t4 => Sys2Proof.Machine.execDelayRespReceived n t4 s
  | .timeHoldover => Sys2Proof.Machine.execTimeHoldover s
  | .timeSet src v => Sys2Proof.Machine.execTimeSet src v s
  | .packetAdmit ix err => Sys2Proof.Machine.execPacketAdmit ix err s
  | .dequeueDecision e credits err => Sys2Proof.Machine.execDequeueDecision e credits err s
  | .underrunTimeout p => Sys2Proof.Machine.execUnderrunTimeout p s
  | .ageCheck p c t b => Sys2Proof.Machine.execAgeCheck p c t b s
  | .trackerResponse tid code poison words => Sys2Proof.Machine.execTrackerResponse tid code poison words s
  | .completionTimeout k => Sys2Proof.Machine.execCompletionTimeout k s
  | .orphanHoldTimeout k => Sys2Proof.Machine.execOrphanHoldTimeout k s
  | .bridgeCrcFail d c words last => Sys2Proof.Machine.execBridgeCrcFail d c words last s
  | .gateEntryChange p => Sys2Proof.Machine.execGateEntryChange p s
  | .gateTakeover p => Sys2Proof.Machine.execGateTakeover p s
  | .samplerVisit d => Sys2Proof.Machine.execSamplerVisit d s
  | .highWaterRead p tq q b => Sys2Proof.Machine.execHighWaterRead p tq q b s
  | .extentAddRequest src e v stored => Sys2Proof.Machine.execExtentAddRequest src e v stored s
  | .bindOperation src sw desc t => Sys2Proof.Machine.execBindOperation src sw desc t s
  | .unbindOperation src sw desc t => Sys2Proof.Machine.execUnbindOperation src sw desc t s
  | .bindResponse e res d0 => Sys2Proof.Machine.execBindResponse e res d0 s
  | .addCapacityResponse e accept => Sys2Proof.Machine.execAddCapacityResponse e accept s
  | .extentReleaseRequest src e stored => Sys2Proof.Machine.execExtentReleaseRequest src e stored s
  | .hostReleaseCapacity e => Sys2Proof.Machine.execHostReleaseCapacity e s
  | .unbindResponse e => Sys2Proof.Machine.execUnbindResponse e s
  | .extentForce src e stored => Sys2Proof.Machine.execExtentForce src e stored s
  | .releaseGraceTimeout e => Sys2Proof.Machine.execReleaseGraceTimeout e s
  | .extentClear src e stored => Sys2Proof.Machine.execExtentClear src e stored s
  | .partnerCopyRetry ix ok => Sys2Proof.Machine.execPartnerCopyRetry ix ok s
  | .takeover src lost => Sys2Proof.Machine.execTakeover src lost s
  | .serveWithoutPartner src ix => Sys2Proof.Machine.execServeWithoutPartner src ix s
  | .migrationRequest src ix dest evac stored => Sys2Proof.Machine.execMigrationRequest src ix dest evac stored s
  | .migrationStart ix => Sys2Proof.Machine.execMigrationStart ix s
  | .migrationPassEnd ix => Sys2Proof.Machine.execMigrationPassEnd ix s
  | .migrationSwitch ix => Sys2Proof.Machine.execMigrationSwitch ix s
  | .migrationAbort ix => Sys2Proof.Machine.execMigrationAbort ix s
  | .hotUnitWindow => Sys2Proof.Machine.execHotUnitWindow s
  | .reinitAccept src ix => Sys2Proof.Machine.execReinitAccept src ix s
  | .reinitZero src ix => Sys2Proof.Machine.execReinitZero src ix s
  | .reinitZeroDone ix => Sys2Proof.Machine.execReinitZeroDone ix s
  | .homeTransactionStart desc off => Sys2Proof.Machine.execHomeTransactionStart desc off s
  | .homeRdshared ix => Sys2Proof.Machine.execHomeRdshared ix s
  | .homeRdown ix => Sys2Proof.Machine.execHomeRdown ix s
  | .homeUpgrade ix => Sys2Proof.Machine.execHomeUpgrade ix s
  | .homeWbdirty ix => Sys2Proof.Machine.execHomeWbdirty ix s
  | .homeWbdirtyKeep ix => Sys2Proof.Machine.execHomeWbdirtyKeep ix s
  | .homeEvictexcl ix => Sys2Proof.Machine.execHomeEvictexcl ix s
  | .homeFlushowned ix => Sys2Proof.Machine.execHomeFlushowned ix s
  | .homeCmp ix => Sys2Proof.Machine.execHomeCmp ix s
  | .homeInvack ix => Sys2Proof.Machine.execHomeInvack ix s
  | .homeDataowned ix => Sys2Proof.Machine.execHomeDataowned ix s
  | .backingReadDone desc off data poison => Sys2Proof.Machine.execBackingReadDone desc off data poison s
  | .backingWriteDone desc off => Sys2Proof.Machine.execBackingWriteDone desc off s
  | .directoryEntryReady desc off => Sys2Proof.Machine.execDirectoryEntryReady desc off s
  | .broadcastTokenGrant d => Sys2Proof.Machine.execBroadcastTokenGrant d s
  | .cacheFwdshared ix => Sys2Proof.Machine.execCacheFwdshared ix s
  | .cacheFwdown ix => Sys2Proof.Machine.execCacheFwdown ix s
  | .cacheInv ix => Sys2Proof.Machine.execCacheInv ix s
  | .cacheData ix => Sys2Proof.Machine.execCacheData ix s
  | .cacheDataowned ix => Sys2Proof.Machine.execCacheDataowned ix s
  | .cacheAckGrant ix => Sys2Proof.Machine.execCacheAckGrant ix s
  | .cacheAckError ix => Sys2Proof.Machine.execCacheAckError ix s
  | .cacheInvack ix => Sys2Proof.Machine.execCacheInvack ix s
  | .flushRequest src desc discard home => Sys2Proof.Machine.execFlushRequest src desc discard home s
  | .flushScanDone ix => Sys2Proof.Machine.execFlushScanDone ix s
  | .flushAnswer desc member => Sys2Proof.Machine.execFlushAnswer desc member s
  | .flushRetry desc => Sys2Proof.Machine.execFlushRetry desc s
  | .flushComplete desc => Sys2Proof.Machine.execFlushComplete desc s
  | .confirmLostModule src id => Sys2Proof.Machine.execConfirmLostModule src id s
  | .lostModuleScanDone id => Sys2Proof.Machine.execLostModuleScanDone id s
  | .lostMessageReport src v => Sys2Proof.Machine.execLostMessageReport src v s
  | .lostReportRetry ix => Sys2Proof.Machine.execLostReportRetry ix s
  | .ioPostedWrite p t kind n addr len data mask hdr poison secure => Sys2Proof.Machine.execIoPostedWrite p t kind n addr len data mask hdr poison secure s
  | .ioReadRequest p t kind n addr len data mask hdr tag secure => Sys2Proof.Machine.execIoReadRequest p t kind n addr len data mask hdr tag secure s
  | .atomicopRequest p t pooled op addr size a cmp hdr tag => Sys2Proof.Machine.execAtomicopRequest p t pooled op addr size a cmp hdr tag s
  | .lockedRead p t addr len hdr tag => Sys2Proof.Machine.execLockedRead p t addr len hdr tag s
  | .unlockMessage p t hdr => Sys2Proof.Machine.execUnlockMessage p t hdr s
  | .semaphoreAcquire p => Sys2Proof.Machine.execSemaphoreAcquire p s
  | .semaphoreHoldTimeout p => Sys2Proof.Machine.execSemaphoreHoldTimeout p s
  | .wcHoldTimeout p => Sys2Proof.Machine.execWcHoldTimeout p s
  | .heldAccessRelease ix => Sys2Proof.Machine.execHeldAccessRelease ix s
  | .bridgeReqReceived ix => Sys2Proof.Machine.execBridgeReqReceived ix s
  | .bridgeCplReceived ix => Sys2Proof.Machine.execBridgeCplReceived ix s
  | .postedWriteComplete p => Sys2Proof.Machine.execPostedWriteComplete p s
  | .bcmpFlowTimer sw flow => Sys2Proof.Machine.execBcmpFlowTimer sw flow s
  | .bcmpReceived ix => Sys2Proof.Machine.execBcmpReceived ix s
  | .berrReceived ix => Sys2Proof.Machine.execBerrReceived ix s
  | .sideReceived ix => Sys2Proof.Machine.execSideReceived ix s
  | .barrierWrite b => Sys2Proof.Machine.execBarrierWrite b s
  | .barrierComplete ix => Sys2Proof.Machine.execBarrierComplete ix s
  | .sqTailWrite n j v => Sys2Proof.Machine.execSqTailWrite n j v s
  | .cqHeadWrite n j v => Sys2Proof.Machine.execCqHeadWrite n j v s
  | .qcfgEnable n j v => Sys2Proof.Machine.execQcfgEnable n j v s
  | .qcfgDisable n j v => Sys2Proof.Machine.execQcfgDisable n j v s
  | .descriptorFetch d words => Sys2Proof.Machine.execDescriptorFetch d words s
  | .opCopy q num residue => Sys2Proof.Machine.execOpCopy q num residue s
  | .opFill q num residue => Sys2Proof.Machine.execOpFill q num residue s
  | .opZero q num residue => Sys2Proof.Machine.execOpZero q num residue s
  | .opCompare q num residue => Sys2Proof.Machine.execOpCompare q num residue s
  | .opCrc32c q num residue => Sys2Proof.Machine.execOpCrc32c q num residue s
  | .opCrc64 q num residue => Sys2Proof.Machine.execOpCrc64 q num residue s
  | .opShake256 q num residue => Sys2Proof.Machine.execOpShake256 q num residue s
  | .opFetchAdd q num residue => Sys2Proof.Machine.execOpFetchAdd q num residue s
  | .opCas q num residue => Sys2Proof.Machine.execOpCas q num residue s
  | .opMigrate q num => Sys2Proof.Machine.execOpMigrate q num s
  | .opFence q num => Sys2Proof.Machine.execOpFence q num s
  | .opNotify q num => Sys2Proof.Machine.execOpNotify q num s
  | .descriptorComplete q num => Sys2Proof.Machine.execDescriptorComplete q num s
  | .backedVectorsWrite src host n v stored => Sys2Proof.Machine.execBackedVectorsWrite src host n v stored s
  | .qpOwnerWrite src q v stored => Sys2Proof.Machine.execQpOwnerWrite src q v stored s
  | .quiesceStart src q => Sys2Proof.Machine.execQuiesceStart src q s
  | .quiesceAbandon src q => Sys2Proof.Machine.execQuiesceAbandon src q s
  | .quiesceResume src q => Sys2Proof.Machine.execQuiesceResume src q s
  | .quiesceDone q => Sys2Proof.Machine.execQuiesceDone q s
  | .functionLevelReset n => Sys2Proof.Machine.execFunctionLevelReset n s
  | .flrComplete n => Sys2Proof.Machine.execFlrComplete n s
  | .vfEnableClear v => Sys2Proof.Machine.execVfEnableClear v s
  | .vfAssignmentWrite src n on v t stored => Sys2Proof.Machine.execVfAssignmentWrite src n on v t stored s
  | .ownInPop k => Sys2Proof.Machine.execOwnInPop k s
  | .ownOutPush k w => Sys2Proof.Machine.execOwnOutPush k w s
  | .ownReply k v => Sys2Proof.Machine.execOwnReply k v s
  | .ownDbClear k v => Sys2Proof.Machine.execOwnDbClear k v s
  | .ownMaskWrite k v => Sys2Proof.Machine.execOwnMaskWrite k v s
  | .callLockRead k => Sys2Proof.Machine.execCallLockRead k s
  | .callLockRelease k v => Sys2Proof.Machine.execCallLockRelease k v s
  | .callInPush k w => Sys2Proof.Machine.execCallInPush k w s
  | .callOutPop k => Sys2Proof.Machine.execCallOutPop k s
  | .callDbWrite k v => Sys2Proof.Machine.execCallDbWrite k v s
  | .callStatusRead k => Sys2Proof.Machine.execCallStatusRead k s
  | .mailboxLockTimeout k => Sys2Proof.Machine.execMailboxLockTimeout k s
  | .evtCauseClear v bits => Sys2Proof.Machine.execEvtCauseClear v bits s
  | .bar4Write off v => Sys2Proof.Machine.execBar4Write off v s
  | .hubBusTransaction master priv k addr size data => Sys2Proof.Machine.execHubBusTransaction master priv k addr size data s
  | .mpuRecordClear src => Sys2Proof.Machine.execMpuRecordClear src s
  | .slotEntryWrite src slot v => Sys2Proof.Machine.execSlotEntryWrite src slot v s
  | .challengeRead src => Sys2Proof.Machine.execChallengeRead src s
  | .tokenPresent src len => Sys2Proof.Machine.execTokenPresent src len s
  | .tokenLapse sess => Sys2Proof.Machine.execTokenLapse sess s
  | .attestationNonce src nonce => Sys2Proof.Machine.execAttestationNonce src nonce s
  | .keySlotEnrol src k rights stored => Sys2Proof.Machine.execKeySlotEnrol src k rights stored s
  | .keySlotRevoke src k stored => Sys2Proof.Machine.execKeySlotRevoke src k stored s
  | .keySlotClear src k stored => Sys2Proof.Machine.execKeySlotClear src k stored s
  | .lifecycleProvision src => Sys2Proof.Machine.execLifecycleProvision src s
  | .lifecycleProduction src => Sys2Proof.Machine.execLifecycleProduction src s
  | .lifecycleRma src => Sys2Proof.Machine.execLifecycleRma src s
  | .lifecycleDecommission src => Sys2Proof.Machine.execLifecycleDecommission src s
  | .debugUnlock src minutes => Sys2Proof.Machine.execDebugUnlock src minutes s
  | .debugExpiry => Sys2Proof.Machine.execDebugExpiry s
  | .stagingDataWrite src data => Sys2Proof.Machine.execStagingDataWrite src data s
  | .stagingCheck src => Sys2Proof.Machine.execStagingCheck src s
  | .stagingCheckDone => Sys2Proof.Machine.execStagingCheckDone s
  | .activateLive src => Sys2Proof.Machine.execActivateLive src s
  | .activateReset src => Sys2Proof.Machine.execActivateReset src s
  | .liveActivationDone => Sys2Proof.Machine.execLiveActivationDone s
  | .liveActivationTimeout => Sys2Proof.Machine.execLiveActivationTimeout s
  | .commitImages src => Sys2Proof.Machine.execCommitImages src s
  | .chainMaskWrite src w v stored => Sys2Proof.Machine.execChainMaskWrite src w v stored s
  | .filteredCounterOverflow k o => Sys2Proof.Machine.execFilteredCounterOverflow k o s
  | .bandwidthWindowEnd => Sys2Proof.Machine.execBandwidthWindowEnd s
  | .windowLengthWrite src v stored => Sys2Proof.Machine.execWindowLengthWrite src v stored s
  | .leakTick => Sys2Proof.Machine.execLeakTick s
  | .leakThresholdReached d u => Sys2Proof.Machine.execLeakThresholdReached d u s
  | .scrubRead c f => Sys2Proof.Machine.execScrubRead c f s
  | .walkerPassStep w f => Sys2Proof.Machine.execWalkerPassStep w f s
  | .gddr6Refresh c => Sys2Proof.Machine.execGddr6Refresh c s
  | .gddr6CaseTemp c temp => Sys2Proof.Machine.execGddr6CaseTemp c temp s
  | .eventAcknowledge src seq => Sys2Proof.Machine.execEventAcknowledge src seq s
  | .lostalertClear src => Sys2Proof.Machine.execLostalertClear src s
  | .msiCoalesceEnd => Sys2Proof.Machine.execMsiCoalesceEnd s
  | .strapSample slot => Sys2Proof.Machine.execStrapSample slot s
  | .tapExtest pins data => Sys2Proof.Machine.execTapExtest pins data s
  | .tapIdcode => Sys2Proof.Machine.execTapIdcode s
  | .tapSamplePreload pins data => Sys2Proof.Machine.execTapSamplePreload pins data s
  | .tapExtestPulse pins data => Sys2Proof.Machine.execTapExtestPulse pins data s
  | .tapExtestTrain pins data => Sys2Proof.Machine.execTapExtestTrain pins data s
  | .tapClamp => Sys2Proof.Machine.execTapClamp s
  | .tapHighz => Sys2Proof.Machine.execTapHighz s
  | .tapDebug => Sys2Proof.Machine.execTapDebug s
  | .tapBypass => Sys2Proof.Machine.execTapBypass s
  | .romMonitorServes => Sys2Proof.Machine.execRomMonitorServes s
  | .laneCdrLockLoss l => Sys2Proof.Machine.execLaneCdrLockLoss l s
  | .trainingBlocksInActive n => Sys2Proof.Machine.execTrainingBlocksInActive n s
  | .l1Entry p kind => Sys2Proof.Machine.execL1Entry p kind s
  | .partnerWidthChange p w => Sys2Proof.Machine.execPartnerWidthChange p w s
  | .cxlIoCompletion p k status len data rest poison secure => Sys2Proof.Machine.execCxlIoCompletion p k status len data rest poison secure s
  | .barRegisterWrite v n bar base size pf => Sys2Proof.Machine.execBarRegisterWrite v n bar base size pf s
  | .vfEnableSet v => Sys2Proof.Machine.execVfEnableSet v s
  | .dpcTriggerClear v n => Sys2Proof.Machine.execDpcTriggerClear v n s
  | .tapReset => Sys2Proof.Machine.execTapReset s

end Sys2Proof.Machine
end

