-- ==== Sys2Proof/Safety.lean ====
section
/-! DEFINITION. The terms claims about the machine are stated in: a command that is answered, the parts a command leaves alone, what no step undoes, and the
invariant every step keeps. -/
namespace Sys2Proof
open Sys2Proof.Machine

/-- The command c, given in the state s, is answered by a next state: the queue is as it was, and the module is one with P. -/
def Answers (c : Instr) (s : State) (P : Mod → Prop) : Prop := ∃ m, Sys2Proof.Machine.exec c s = .next { s with mod := m } ∧ P m

/-- The parts of the module, as State holds them: one for every block, and the clock, the free values drawn and the list of what was sent. -/
inductive Part where
  | time | draws | sent | events | counts | power | mode | regions | lanes | edge | links | switching | routing | meridian | dictionary | tap | cache | homes
  | pools | scheduling | bridge | service | security
  deriving DecidableEq, Repr

/-- The part stands the same in b as in a. -/
def Part.same : Part → Mod → Mod → Prop
  | .time, a, b => b.now = a.now
  | .draws, a, b => b.draws = a.draws
  | .sent, a, b => b.out = a.out
  | .events, a, b => b.ev = a.ev
  | .counts, a, b => b.cn = a.cn
  | .power, a, b => b.pw = a.pw
  | .mode, a, b => b.md = a.md
  | .regions, a, b => b.fn = a.fn
  | .lanes, a, b => b.ph = a.ph
  | .edge, a, b => b.ed = a.ed
  | .links, a, b => b.lk = a.lk
  | .switching, a, b => b.sw = a.sw
  | .routing, a, b => b.rt = a.rt
  | .meridian, a, b => b.ti = a.ti
  | .dictionary, a, b => b.di = a.di
  | .tap, a, b => b.tp = a.tp
  | .cache, a, b => b.ca = a.ca
  | .homes, a, b => b.ho = a.ho
  | .pools, a, b => b.po = a.po
  | .scheduling, a, b => b.sc = a.sc
  | .bridge, a, b => b.br = a.br
  | .service, a, b => b.sv = a.sv
  | .security, a, b => b.se = a.se

/-- Whenever c is answered by a next state, the queue is as it was and every part but the listed ones stands unchanged. -/
def ChangesOnly (c : Instr) (parts : List Part) : Prop :=
  ∀ s t, Sys2Proof.Machine.exec c s = .next t → t.pending = s.pending ∧ ∀ p, p ∉ parts → p.same s.mod t.mod

/-- Every part. -/
def everything : List Part :=
  [.time, .draws, .sent, .events, .counts, .power, .mode, .regions, .lanes, .edge, .links, .switching, .routing, .meridian, .dictionary, .tap, .cache, .homes, .pools, .scheduling, .bridge, .service, .security]

/-- What may change when the pending coherence work is carried on (R405 to R476): messages, lines, transactions, the snoops and packets they wait for, and the
events and counts of all that. -/
def settled : List Part := [.sent, .events, .counts, .edge, .switching, .routing, .dictionary, .cache, .homes, .pools, .bridge, .service]

/-- The parts a command may change. -/
def mayChange : Instr → List Part
  | .gddr6Refresh .. | .gddr6CaseTemp .. => [.counts]
  | .bar4Write .. => [.dictionary]
  | .hostPerstRelease .. | .prsntAssert .. | .biconflict .. | .dpcTriggerClear .. => [.edge]
  | .flushAnswer .. => [.homes]
  | .cdrRelockDone .. | .laneSignalLost .. | .checkerLock .. => [.lanes]
  | .leaveDrained .. => [.links]
  | .parcelUnhome .. => [.pools]
  | .limitRegulationStart .. => [.power]
  | .alertResponseAddress => [.sent]
  | .sqTailWrite .. | .cqHeadWrite .. | .functionLevelReset .. | .vfEnableClear .. | .ownOutPush .. | .ownDbClear .. | .callLockRelease .. |
    .callInPush .. | .evtCauseClear .. | .vfEnableSet .. => [.service]
  | .tapReset => [.tap]
  | .migrationPassEnd .. => [.dictionary, .pools]
  | .qcfgEnable .. => [.dictionary, .service]
  | .resetPropagateRemote .. | .hotAddLinkUp .. | .sideReceived .. => [.edge, .switching]
  | .clkreqAssert .. | .clkreqRelease .. => [.lanes, .edge]
  | .highWaterRead .. => [.sent, .dictionary]
  | .wakePatternDetected .. => [.sent, .links]
  | .ownInPop .. | .callLockRead .. | .callOutPop .. | .callStatusRead .. => [.sent, .service]
  | .tapExtest .. | .tapIdcode | .tapSamplePreload .. | .tapExtestPulse .. | .tapExtestTrain .. | .tapClamp | .tapHighz | .tapDebug | .tapBypass =>
    [.sent, .tap]
  | .l0pWidthHalve .. | .l0pWidthRestore .. | .partnerWidthChange .. => [.counts, .lanes, .edge]
  | .hostSlotPowerOff .. => [.edge, .switching, .dictionary]
  | .dormantEntryDone .. => [.sent, .lanes, .links]
  | .gateEntryChange .. => [.time, .switching, .meridian]
  | .oringConduct .. | .inrushRampEnd .. | .feedAbsent .. | .feedOvervoltage .. | .feedOvervoltageRelease .. | .oringReverseOff .. =>
    [.sent, .events, .power, .service]
  | .semaphoreAcquire .. => [.counts, .switching, .dictionary, .bridge]
  | .syncSend .. | .delayReqReceived .. => [.sent, .counts, .links, .switching]
  | .quiesceDone .. | .flrComplete .. => [.sent, .events, .cache, .service]
  | .ownReply .. | .ownMaskWrite .. | .callDbWrite .. => [.sent, .events, .dictionary, .service]
  | .hostCacheScanDone .. => [.sent, .events, .edge, .service]
  | .bandwidthWindowEnd | .leakTick => [.time, .counts, .switching, .meridian]
  | .hotAddPerstRelease .. => [.time, .edge, .switching, .meridian]
  | .marginRunDone .. => [.time, .lanes, .switching, .meridian]
  | .dormantIdleTimeout .. | .dormantRetry .. => [.time, .links, .switching, .meridian]
  | .gddr6RateStep => [.time, .mode, .switching, .meridian]
  | .feedAbsentTimeout .. | .faultTimerReset | .limitLowerApply .. | .cooldownEnd .. => [.time, .power, .switching, .meridian]
  | .proxyReassemblyTimeout .. | .strapSample .. => [.time, .switching, .meridian, .dictionary]
  | .tokenLapse .. | .stagingCheckDone => [.time, .switching, .meridian, .security]
  | .routeComputeStart => [.time, .switching, .routing, .meridian]
  | .syncReceived .. => [.sent, .counts, .links, .switching, .meridian]
  | .descriptorFetch .. | .hubBusTransaction .. | .filteredCounterOverflow .. => [.sent, .events, .counts, .dictionary, .service]
  | .fastTrip .. | .fetOvertempTrip .. => [.sent, .events, .counts, .power, .service]
  | .unbindResponse .. | .migrationStart .. => [.sent, .events, .dictionary, .pools, .service]
  | .checkerLockLoss .. => [.sent, .events, .lanes, .dictionary, .service]
  | .feedPresent .. => [.sent, .events, .power, .dictionary, .service]
  | .routeComputeDone => [.sent, .events, .routing, .dictionary, .service]
  | .bcmpFlowTimer .. => [.time, .counts, .switching, .meridian, .bridge]
  | .clusterPllRelock .. => [.time, .lanes, .edge, .switching, .meridian]
  | .notifySend .. => [.time, .sent, .switching, .meridian, .dictionary]
  | .lostReportRetry .. => [.time, .switching, .meridian, .dictionary, .cache]
  | .flushRetry .. => [.time, .switching, .meridian, .dictionary, .homes]
  | .edgeLinkTrained .. => [.sent, .events, .counts, .lanes, .edge, .service]
  | .l1Entry .. => [.sent, .counts, .lanes, .edge, .switching, .dictionary]
  | .delayRespReceived .. => [.sent, .events, .counts, .meridian, .dictionary, .service]
  | .laneAlignmentLost .. | .laneCdrLockLoss .. | .trainingBlocksInActive .. => [.sent, .events, .lanes, .links, .dictionary, .service]
  | .liveActivationDone => [.sent, .events, .mode, .dictionary, .service, .security]
  | .bindResponse .. => [.sent, .events, .switching, .dictionary, .pools, .service]
  | .trainStart .. => [.time, .lanes, .links, .switching, .meridian, .dictionary]
  | .commitPendingAnswer .. => [.time, .sent, .counts, .switching, .meridian, .dictionary]
  | .timeHoldover | .orphanHoldTimeout .. | .mailboxLockTimeout .. => [.time, .sent, .events, .switching, .meridian, .service]
  | .dormantExitDone .. | .alignSearchRound .. | .deskewDone .. => [.sent, .events, .lanes, .links, .routing, .dictionary, .service]
  | .fetShortDetect .. | .telemetrySample .. => [.time, .sent, .events, .power, .switching, .meridian, .service]
  | .groupLockExpiry .. | .msiCoalesceEnd => [.time, .sent, .events, .switching, .meridian, .dictionary, .service]
  | .hotUnitWindow => [.time, .sent, .events, .switching, .meridian, .pools, .service]
  | .flitSlot .. => [.sent, .counts, .lanes, .links, .switching, .routing, .meridian, .dictionary]
  | .slotRead .. | .winErrRead .. => [.draws, .sent, .counts, .mode, .switching, .dictionary, .service, .security]
  | .recordReceived .. => [.sent, .events, .links, .switching, .routing, .meridian, .dictionary, .service]
  | .inrushTimeout .. | .slowTrip | .gateCheckFail .. | .vdsHighTrip .. => [.time, .sent, .events, .counts, .power, .switching, .meridian, .service]
  | .romMonitorServes => [.time, .sent, .events, .mode, .switching, .meridian, .dictionary, .service]
  | .partnerCopyRetry .. => [.time, .sent, .events, .switching, .meridian, .dictionary, .pools, .service]
  | .samplerVisit .. => [.time, .sent, .events, .switching, .meridian, .dictionary, .scheduling, .service]
  | .sessionIdleTimeout .. | .debugExpiry => [.time, .sent, .events, .switching, .meridian, .dictionary, .service, .security]
  | .recordPurge .. => [.time, .sent, .events, .switching, .routing, .meridian, .dictionary, .service]
  | .homeMoveReceived .. => [.sent, .edge, .links, .switching, .routing, .dictionary, .cache, .pools, .bridge]
  | .linkupComplete .. => [.sent, .events, .regions, .lanes, .links, .switching, .routing, .dictionary, .service]
  | .presenceAccepted .. => [.time, .sent, .events, .lanes, .edge, .switching, .meridian, .dictionary, .service]
  | .recordOriginate => [.time, .sent, .events, .links, .switching, .routing, .meridian, .dictionary, .service]
  | .pwrGoodRise => [.time, .sent, .events, .power, .mode, .switching, .meridian, .dictionary, .service]
  | .flitRxNull .. | .flitRxBad .. | .flitRxPayload .. | .flitRxControl .. =>
    [.sent, .events, .counts, .regions, .lanes, .links, .switching, .routing, .dictionary, .service]
  | .addCapacityResponse .. => [.sent, .events, .counts, .switching, .dictionary, .cache, .homes, .pools, .bridge, .service]
  | .linkSignalLoss .. | .retrainTimeout .. | .trainTimeout .. | .dormantExitTimeout .. | .leaveDown .. =>
    [.time, .sent, .events, .lanes, .links, .switching, .routing, .meridian, .dictionary, .service]
  | .flushScanDone .. => [.sent, .events, .counts, .edge, .switching, .dictionary, .cache, .homes, .pools, .bridge, .service]
  | .regionGate .. => [.sent, .events, .counts, .regions, .lanes, .edge, .links, .switching, .routing, .dictionary, .service]
  | .replayTimeout .. => [.time, .sent, .events, .counts, .lanes, .links, .switching, .routing, .meridian, .dictionary, .service]
  | .underrunTimeout .. => [.time, .sent, .events, .counts, .regions, .links, .switching, .routing, .meridian, .dictionary, .service]
  | .railStepDone => [.time, .sent, .events, .counts, .power, .mode, .lanes, .edge, .switching, .meridian, .dictionary, .service]
  | .proxyResponse .. | .ideIntegrityFailure .. | .bisnpResponse .. | .hostWriteback .. | .hostMemrdNocache .. | .hostMemrdShared .. |
    .hostMemrdAny .. | .hostMemwr .. | .trackerResponse .. | .hostReleaseCapacity .. | .migrationSwitch .. | .migrationAbort .. | .reinitZeroDone .. |
    .homeTransactionStart .. | .homeRdshared .. | .homeRdown .. | .homeUpgrade .. | .homeWbdirty .. | .homeWbdirtyKeep .. | .homeEvictexcl .. |
    .homeFlushowned .. | .homeCmp .. | .homeInvack .. | .homeDataowned .. | .backingReadDone .. | .backingWriteDone .. | .directoryEntryReady .. |
    .cacheFwdshared .. | .cacheFwdown .. | .cacheInv .. | .cacheData .. | .cacheDataowned .. | .cacheAckGrant .. | .cacheAckError .. | .cacheInvack .. |
    .flushComplete .. | .lostModuleScanDone .. | .unlockMessage .. | .heldAccessRelease .. | .bridgeReqReceived .. | .postedWriteComplete .. |
    .bcmpReceived .. | .barrierWrite .. | .barrierComplete .. | .qcfgDisable .. | .opCopy .. | .opFill .. | .opZero .. | .opCompare .. | .opCrc32c .. |
    .opCrc64 .. | .opShake256 .. | .opFetchAdd .. | .opCas .. | .opMigrate .. | .opFence .. | .opNotify .. | .cxlIoCompletion .. |
    .barRegisterWrite .. => settled
  | .ioPostedWrite .. | .ioReadRequest .. | .atomicopRequest .. | .lockedRead .. | .bridgeCplReceived .. | .descriptorComplete .. => settled ++ [.draws]
  | .parcelHandoff .. => settled ++ [.links]
  | .hotReset .. | .hostPerstAssert .. | .secondaryBusReset .. | .resetMessageReceived .. => settled ++ [.lanes]
  | .drainTrackerDone | .drainRecallDone => settled ++ [.mode]
  | .groupApply .. | .ideKeyChangePoint .. => settled ++ [.draws, .scheduling]
  | .drainLeaveDone => settled ++ [.mode, .lanes]
  | .berrReceived .. => settled ++ [.regions, .links]
  | .proxyTimeout .. | .completionTimeout .. | .releaseGraceTimeout .. | .broadcastTokenGrant .. | .wcHoldTimeout .. => settled ++ [.time, .meridian]
  | .drainHandoffDone => settled ++ [.mode, .links]
  | .clusterPllLockLoss .. | .refinLoss | .removalLinkDown .. | .leakThresholdReached .. => settled ++ [.regions, .lanes, .links]
  | .ageCheck .. => settled ++ [.time, .regions, .meridian]
  | .gateTakeover .. => settled ++ [.time, .draws, .meridian, .scheduling]
  | .bootConfigurePassEnd => settled ++ [.time, .mode, .links, .meridian]
  | .governorFloor => settled ++ [.time, .mode, .meridian, .security]
  | .unbindGraceExpiry .. | .semaphoreHoldTimeout .. => settled ++ [.time, .regions, .links, .meridian]
  | .fatalHubError .. | .mainRailLoss .. | .thermalTrip .. | .walkerPassStep .. => settled ++ [.power, .mode, .lanes, .links, .security]
  | .drainBoundExpiry => settled ++ [.time, .mode, .lanes, .links, .meridian]
  | .removalPrsnt .. => settled ++ [.time, .regions, .lanes, .links, .meridian]
  | .regionUngate .. => settled ++ [.time, .draws, .regions, .lanes, .meridian, .scheduling]
  | .governorEvaluate .. | .inputCurrentEmergency => settled ++ [.time, .mode, .regions, .lanes, .links, .meridian]
  | .scrubRead .. | .fatalDieError .. | .bridgeCrcFail .. => settled ++ [.power, .mode, .regions, .lanes, .links, .scheduling, .security]
  | .bootWatchdog | .liveActivationTimeout => settled ++ [.time, .power, .mode, .lanes, .links, .meridian, .security]
  | .bootComplete .. => settled ++ [.time, .power, .mode, .regions, .lanes, .links, .meridian]
  | .packetAdmit .. | .dequeueDecision .. => settled ++ [.draws, .power, .mode, .regions, .lanes, .links, .scheduling, .security]
  | .dictRead .. | .dictWrite .. | .dictReadMulti .. | .dictWriteGroup .. | .dictCommit .. | .dictAbort .. | .dictSubscribe .. | .slotWrite .. |
    .winRead .. | .winWrite .. | .registerWrite .. | .modeRequestOff .. | .modeRequestStandby .. | .modeRequestBoot .. | .modeRequestConfigure .. |
    .modeRequestOperate .. | .modeRequestCapped .. | .bootStart | .drainEnd | .fenceEntrySet .. | .fenceEntryClear .. | .clearTrip .. |
    .vaoHoldupExpiry | .clearEnergy .. | .testOff .. | .testGenerate .. | .testCheck .. | .testGenerateCheck .. | .testCompliance .. |
    .timingMargin .. | .voltageMargin .. | .testCountClear .. | .portRoleWrite .. | .portEnableWrite .. | .bindingWrite .. | .unbindWrite .. |
    .linkRetire .. | .linkUnretire .. | .linkRetrainRequest .. | .proxySegmentReceived .. | .timeSet .. | .extentAddRequest .. | .bindOperation .. |
    .unbindOperation .. | .extentReleaseRequest .. | .extentForce .. | .extentClear .. | .takeover .. | .serveWithoutPartner .. | .migrationRequest .. |
    .reinitAccept .. | .reinitZero .. | .flushRequest .. | .confirmLostModule .. | .lostMessageReport .. | .backedVectorsWrite .. | .qpOwnerWrite .. |
    .quiesceStart .. | .quiesceAbandon .. | .quiesceResume .. | .vfAssignmentWrite .. | .mpuRecordClear .. | .slotEntryWrite .. | .challengeRead .. |
    .tokenPresent .. | .attestationNonce .. | .keySlotEnrol .. | .keySlotRevoke .. | .keySlotClear .. | .lifecycleProvision .. |
    .lifecycleProduction .. | .lifecycleRma .. | .lifecycleDecommission .. | .debugUnlock .. | .stagingDataWrite .. | .stagingCheck .. |
    .activateLive .. | .activateReset .. | .commitImages .. | .chainMaskWrite .. | .windowLengthWrite .. | .eventAcknowledge .. | .lostalertClear .. =>
    everything

/-- Commands that may store into the service memory or the hub SRAM, or lose it. -/
def storesMemory : Instr → Bool
  | .mainRailLoss .. | .dictRead .. | .dictWrite .. | .dictReadMulti .. | .dictWriteGroup .. | .dictCommit .. | .dictAbort .. | .dictSubscribe .. |
    .slotWrite .. | .winRead .. | .winWrite .. | .registerWrite .. | .modeRequestOff .. | .modeRequestStandby .. | .modeRequestBoot .. |
    .modeRequestConfigure .. | .modeRequestOperate .. | .modeRequestCapped .. | .bootStart | .thermalTrip .. | .drainEnd | .fenceEntrySet .. |
    .fenceEntryClear .. | .clearTrip .. | .vaoHoldupExpiry | .clearEnergy .. | .testOff .. | .testGenerate .. | .testCheck .. | .testGenerateCheck .. |
    .testCompliance .. | .timingMargin .. | .voltageMargin .. | .testCountClear .. | .portRoleWrite .. | .portEnableWrite .. | .bindingWrite .. |
    .unbindWrite .. | .linkRetire .. | .linkUnretire .. | .linkRetrainRequest .. | .proxySegmentReceived .. | .timeSet .. | .samplerVisit .. |
    .extentAddRequest .. | .bindOperation .. | .unbindOperation .. | .extentReleaseRequest .. | .extentForce .. | .extentClear .. | .takeover .. |
    .serveWithoutPartner .. | .migrationRequest .. | .reinitAccept .. | .reinitZero .. | .flushRequest .. | .confirmLostModule .. | .lostMessageReport .. |
    .backedVectorsWrite .. | .qpOwnerWrite .. | .quiesceStart .. | .quiesceAbandon .. | .quiesceResume .. | .vfAssignmentWrite .. | .hubBusTransaction .. |
    .mpuRecordClear .. | .slotEntryWrite .. | .challengeRead .. | .tokenPresent .. | .attestationNonce .. | .keySlotEnrol .. | .keySlotRevoke .. |
    .keySlotClear .. | .lifecycleProvision .. | .lifecycleProduction .. | .lifecycleRma .. | .lifecycleDecommission .. | .debugUnlock .. |
    .stagingDataWrite .. | .stagingCheck .. | .activateLive .. | .activateReset .. | .commitImages .. | .chainMaskWrite .. | .filteredCounterOverflow .. |
    .windowLengthWrite .. | .eventAcknowledge .. | .lostalertClear .. => true
  | .clusterPllLockLoss .. | .clusterPllRelock .. | .regionGate .. | .regionUngate .. | .fatalDieError .. | .fatalHubError .. | .groupApply .. |
    .commitPendingAnswer .. | .groupLockExpiry .. | .sessionIdleTimeout .. | .notifySend .. | .proxyResponse .. | .proxyTimeout .. | .slotRead .. |
    .winErrRead .. | .alertResponseAddress | .railStepDone | .bootComplete .. | .bootConfigurePassEnd | .bootWatchdog | .governorEvaluate .. | .gddr6RateStep |
    .governorFloor | .inputCurrentEmergency | .drainTrackerDone | .drainRecallDone | .parcelHandoff .. | .parcelUnhome .. | .drainHandoffDone |
    .drainLeaveDone | .drainBoundExpiry | .hotReset .. | .feedPresent .. | .feedAbsent .. | .feedAbsentTimeout .. | .feedOvervoltage .. |
    .feedOvervoltageRelease .. | .oringReverseOff .. | .oringConduct .. | .inrushRampEnd .. | .inrushTimeout .. | .limitRegulationStart .. | .faultTimerReset |
    .slowTrip | .fastTrip .. | .fetOvertempTrip .. | .gateCheckFail .. | .vdsHighTrip .. | .fetShortDetect .. | .limitLowerApply .. | .cooldownEnd .. |
    .pwrGoodRise | .telemetrySample .. | .alignSearchRound .. | .cdrRelockDone .. | .deskewDone .. | .laneSignalLost .. | .laneAlignmentLost .. |
    .dormantEntryDone .. | .wakePatternDetected .. | .dormantExitDone .. | .refinLoss | .clkreqAssert .. | .clkreqRelease .. | .l0pWidthHalve .. |
    .l0pWidthRestore .. | .edgeLinkTrained .. | .marginRunDone .. | .checkerLock .. | .checkerLockLoss .. | .hostSlotPowerOff .. | .unbindGraceExpiry .. |
    .ideKeyChangePoint .. | .ideIntegrityFailure .. | .hostPerstAssert .. | .hostPerstRelease .. | .secondaryBusReset .. | .resetPropagateRemote .. |
    .resetMessageReceived .. | .prsntAssert .. | .presenceAccepted .. | .hotAddPerstRelease .. | .hotAddLinkUp .. | .removalPrsnt .. | .removalLinkDown .. |
    .hostCacheScanDone .. | .bisnpResponse .. | .biconflict .. | .hostWriteback .. | .hostMemrdNocache .. | .hostMemrdShared .. | .hostMemrdAny .. |
    .hostMemwr .. | .flitSlot .. | .flitRxPayload .. | .flitRxControl .. | .flitRxNull .. | .flitRxBad .. | .replayTimeout .. | .linkSignalLoss .. |
    .retrainTimeout .. | .trainTimeout .. | .trainStart .. | .linkupComplete .. | .dormantExitTimeout .. | .leaveDrained .. | .leaveDown .. |
    .dormantIdleTimeout .. | .dormantRetry .. | .recordReceived .. | .recordOriginate | .recordPurge .. | .routeComputeStart | .routeComputeDone |
    .homeMoveReceived .. | .proxyReassemblyTimeout .. | .syncSend .. | .syncReceived .. | .delayReqReceived .. | .delayRespReceived .. | .timeHoldover |
    .packetAdmit .. | .dequeueDecision .. | .underrunTimeout .. | .ageCheck .. | .trackerResponse .. | .completionTimeout .. | .orphanHoldTimeout .. |
    .bridgeCrcFail .. | .gateEntryChange .. | .gateTakeover .. | .highWaterRead .. | .bindResponse .. | .addCapacityResponse .. | .hostReleaseCapacity .. |
    .unbindResponse .. | .releaseGraceTimeout .. | .partnerCopyRetry .. | .migrationStart .. | .migrationPassEnd .. | .migrationSwitch .. | .migrationAbort .. |
    .hotUnitWindow | .reinitZeroDone .. | .homeTransactionStart .. | .homeRdshared .. | .homeRdown .. | .homeUpgrade .. | .homeWbdirty .. |
    .homeWbdirtyKeep .. | .homeEvictexcl .. | .homeFlushowned .. | .homeCmp .. | .homeInvack .. | .homeDataowned .. | .backingReadDone .. |
    .backingWriteDone .. | .directoryEntryReady .. | .broadcastTokenGrant .. | .cacheFwdshared .. | .cacheFwdown .. | .cacheInv .. | .cacheData .. |
    .cacheDataowned .. | .cacheAckGrant .. | .cacheAckError .. | .cacheInvack .. | .flushScanDone .. | .flushAnswer .. | .flushRetry .. | .flushComplete .. |
    .lostModuleScanDone .. | .lostReportRetry .. | .ioPostedWrite .. | .ioReadRequest .. | .atomicopRequest .. | .lockedRead .. | .unlockMessage .. |
    .semaphoreAcquire .. | .semaphoreHoldTimeout .. | .wcHoldTimeout .. | .heldAccessRelease .. | .bridgeReqReceived .. | .bridgeCplReceived .. |
    .postedWriteComplete .. | .bcmpFlowTimer .. | .bcmpReceived .. | .berrReceived .. | .sideReceived .. | .barrierWrite .. | .barrierComplete .. |
    .sqTailWrite .. | .cqHeadWrite .. | .qcfgEnable .. | .qcfgDisable .. | .descriptorFetch .. | .opCopy .. | .opFill .. | .opZero .. | .opCompare .. |
    .opCrc32c .. | .opCrc64 .. | .opShake256 .. | .opFetchAdd .. | .opCas .. | .opMigrate .. | .opFence .. | .opNotify .. | .descriptorComplete .. |
    .quiesceDone .. | .functionLevelReset .. | .flrComplete .. | .vfEnableClear .. | .ownInPop .. | .ownOutPush .. | .ownReply .. | .ownDbClear .. |
    .ownMaskWrite .. | .callLockRead .. | .callLockRelease .. | .callInPush .. | .callOutPop .. | .callDbWrite .. | .callStatusRead .. |
    .mailboxLockTimeout .. | .evtCauseClear .. | .bar4Write .. | .tokenLapse .. | .debugExpiry | .stagingCheckDone | .liveActivationDone |
    .liveActivationTimeout | .bandwidthWindowEnd | .leakTick | .leakThresholdReached .. | .scrubRead .. | .walkerPassStep .. | .gddr6Refresh .. |
    .gddr6CaseTemp .. | .msiCoalesceEnd | .strapSample .. | .tapExtest .. | .tapIdcode | .tapSamplePreload .. | .tapExtestPulse .. | .tapExtestTrain .. |
    .tapClamp | .tapHighz | .tapDebug | .tapBypass | .romMonitorServes | .laneCdrLockLoss .. | .trainingBlocksInActive .. | .l1Entry .. |
    .partnerWidthChange .. | .cxlIoCompletion .. | .barRegisterWrite .. | .vfEnableSet .. | .dpcTriggerClear .. | .tapReset => false

/-- Every byte of the service memory and of the hub's SRAM reads after c as it read before. -/
def LeavesMemory (c : Instr) : Prop :=
  ∀ s t, Sys2Proof.Machine.exec c s = .next t → ∀ a, t.mod.sv.service.read a = s.mod.sv.service.read a ∧ t.mod.sv.sram.read a = s.mod.sv.sram.read a

/-- Feed f of b is as a trip for the given cause leaves it when it comes at time t on the feed as it stands in a (R155, R158): pass FET off, LATCHED set, the trip
record written, the cool-down started, RETRIES counted, and nothing carried; with hold, it then behaves as under latch-off. -/
structure Tripped (a b : Mod) (t : Nat) (f : Feed) (cause : Nat) (hold : Bool) : Prop where
  fet : (b.feed f).fet = .off
  latched : (b.feed f).latched = true
  cause : (b.feed f).cause = cause
  count : (b.feed f).count = min 15 ((a.feed f).count + 1)
  seconds : (b.feed f).seconds = (t - a.pw.vaoSince) / sec % 2 ^ 23
  coolEnd : (b.feed f).coolEnd = some (t + a.objv 0x101500 * ms)
  retries : (b.feed f).retries = if (a.feed f).lastFull.any (fun l => decide (t ≤ l + 10 * sec)) then (a.feed f).retries + 1 else 1
  held : hold = true → (b.feed f).held = true
  nothing : (b.feed f).carrying = false ∧ (b.feed f).current = 0 ∧ (b.feed f).ilim = false ∧ (b.feed f).rampTimeout = none
  present : (b.feed f).present = (a.feed f).present ∧ (b.feed f).voltage = (a.feed f).voltage

/-- The i-th packet for the module itself is a well-formed coherence message of kind k (R431 to R435). -/
abbrev Arrives (m : Mod) (i : Nat) (k : MsgKind) (b : Inbox) : Prop :=
  m.sw.inbox[i]? = some b ∧ b.pkt.tc ≤ 2 ∧ (b.pkt.tc = 2 → fld b.pkt.body 50 14 ≠ 0) ∧ m.malformed b.pkt = false ∧ kindOf b.pkt = some k

/-- The i-th packet for the module itself is an FMT 1 bridge packet with an OP (R492), and none of its module, class and flow is before it. -/
abbrev Received (m : Mod) (i op : Nat) (b : Inbox) : Prop :=
  m.sw.inbox[i]? = some b ∧ b.pkt.fmt = 1 ∧ isBridge b.pkt op = true ∧
  ∀ y ∈ m.sw.inbox.take i, y.pkt.src = b.pkt.src → y.pkt.tc = b.pkt.tc → fld y.pkt.body 52 12 ≠ fld b.pkt.body 52 12

/-- Nothing of a stream is outstanding: no access carried or held, no barrier pending; and no write-combining entry is open. -/
abbrev Quiet (m : Mod) (stream : Nat) : Prop :=
  m.br.wc = [] ∧ m.barred stream = false ∧ ∀ x ∈ m.br.live ++ m.br.held, x.stream ≠ stream

/-- The transaction tracker has room for a request of edge port p (R346). -/
abbrev Room (m : Mod) (p : Nat) : Prop := (m.allocTrk (some p) (dieOfPort p) {}).isSome = true

/-- Requests to the edge port q of this module are let through: it is neither contained nor stopped (R231, R239). -/
abbrev Open (m : Mod) (q : Nat) : Prop := (m.edge q).dpc = false ∧ (m.edge q).stopped = false

/-- Descriptor num of queue pair q is d, of operation op; it has not run, awaits no answer, and no result has come for the queue pair since. -/
abbrev Runs (m : Mod) (q num op : Nat) (d : Desc) : Prop :=
  m.md.mode.pastBootMode = true ∧ m.absorbed q = m ∧ m.desc q num = some d ∧ d.op = op ∧ d.ran = false ∧ d.want = none

/-! The dictionary. -/

/-- The module a request is executed in, and its caller: its session found or opened and stamped with the time (R84), the request counted. -/
def entered (m : Mod) (h : ReqHdr) : Mod × Caller :=
  let x := m.sessionFor h
  (((x.1.touch x.2.2).transportCtr h.src 0).hubCtr 272 1,
    { src := h.src, sess := x.2.2 })

/-- The request a command brings over a transport (R78). -/
def asked : Instr → Option (ReqHdr × Body)
  | .dictRead h it => some (h, .read it)
  | .dictWrite h it _ => some (h, .write it)
  | .dictReadMulti h its => some (h, .multi its)
  | .dictWriteGroup h num its _ => some (h, .group num its)
  | .dictCommit h num _ => some (h, .commit num)
  | .dictAbort h num => some (h, .abort num)
  | .dictSubscribe h it mode => some (h, .subscribe it mode)
  | _ => none

/-- The session keeps no response of this SEQ, and none that all kept ones are newer than it (R85). -/
def seqNew (m : Mod) (h : ReqHdr) : Bool :=
  let x := m.sessionFor h
  let kept := ((x.1.di.sessions.find? fun (s : Session) => s.id = x.2.2).map (·.kept)).getD []
  (kept.all fun r => decide (r.seq ≠ h.seq)) &&
    !kept.getLast?.any fun (o : Resp) => let d := (o.seq + 2 ^ 32 - h.seq % 2 ^ 32) % 2 ^ 32; decide (1 ≤ d ∧ d ≤ 2 ^ 31)

/-- The request is executed here: its source is served and no window, its frame is that of its transport (R97, R98), its form is that of its opcode (R76, R78), it
has or gets a session (R82 to R84), its SEQ is new, and it names this module (R89). -/
abbrev LetIn (m : Mod) (h : ReqHdr) (b : Body) : Prop :=
  m.serves h.src = true ∧ winKey h.src = none ∧ framed h = true ∧ hdrBad h b = false ∧ (m.sessionFor h).2.1 = .ok ∧ seqNew m h = true ∧ h.target % 4096 ∈ [0, m.rt.id]

/-- The request is executed here, as caller c in the module m0. -/
abbrev Enters (m : Mod) (h : ReqHdr) (b : Body) (m0 : Mod) (c : Caller) : Prop := LetIn m h b ∧ entered m h = (m0, c)

/-- The response to a request of the caller: status, items and, with LOCKED, the holder (R76, R80, R81). -/
abbrev respTo (opcode : Nat) (c : Caller) (h : ReqHdr) (status : Sts) (items : List RItem := []) (holder : Nat := 0) : Resp :=
  { opcode := opcode, session := c.sess, seq := h.seq, status := status, items := items, holder := holder }

/-- Reading the object does nothing: it is no mailbox register, no challenge, no high-water mark and not cleared by a read (R51, R64). -/
abbrev PlainRead (oid : Nat) : Prop :=
  oid ∉ [0xB70001, 0xB70007, 0xB70008, 0xB7000A, 0xD03000, 0x202100] ∧ (oid < 0x840000 ∨ 0x854000 ≤ oid) ∧
  (objFind oid).all (fun r => decide (r.m ≠ .rc)) = true

/-- A write of the index's objects outside every group stores the value and does nothing else (R56, R93). -/
def plainIndex (ix : Nat) : Bool :=
  ix ∈ [0x30, 0x31, 0x32, 0x33, 0x34, 0x35, 0x1012, 0x1013, 0x1014, 0x1015, 0x1016, 0x2004, 0x2010, 0x2011, 0x2020, 0x2022, 0x6010, 0x6011, 0x6014, 0x6036, 0x6042,
    0x7030, 0x7031, 0x7032, 0x7300, 0x8600, 0x8601, 0x8900, 0x8901, 0x9003, 0x9004, 0x9005, 0x9006, 0x9007, 0x9008, 0x9009, 0xA010, 0xA030, 0xB001, 0xE001, 0xE002,
    0xE003, 0xE010, 0xE020, 0xE022, 0xE023, 0xE041, 0xE042, 0xE044] ||
  [(0x5100, 0x510F), (0x6200, 0x621F), (0x7020, 0x7027), (0x7100, 0x713F), (0x7400, 0x742F), (0x8000, 0x803F), (0x8300, 0x837F), (0x9080, 0x9087), (0x9100, 0x917F),
    (0xE200, 0xE21D)].any fun x => decide (x.1 ≤ ix ∧ ix ≤ x.2)

/-- The item of a write of v to an object, of the object's type and size (R49, R77). -/
def itemOf (oid v : Nat) : Item :=
  match objFind oid with
  | some r => { oid := oid, ty := tyCode r.ty, len := r.size, val := v % 256 ^ r.size }
  | none => { oid := oid }

/-- The module in which source src's own access of an object is checked, and its caller: a window's fixed session, or the session it has or opens. -/
def writerOf (m : Mod) (src : Source) (it : Item) : Mod × Caller :=
  if (winKey src).isSome then (m, callerOf src) else entered m (m.rowHdr src (itemLen it))

/-- Source src is served, and its write of v to an object passes every check of a write (R61, R572). -/
abbrev Accepted (m : Mod) (src : Source) (oid v : Nat) : Prop :=
  m.serves src = true ∧ (winKey src = none → LetIn m (m.rowHdr src (itemLen (itemOf oid v))) (.write (itemOf oid v))) ∧
  ((writerOf m src (itemOf oid v)).1.checkWrite (writerOf m src (itemOf oid v)).2 (itemOf oid v)).2.1 = .ok

/-- The write of source src in m1 is answered OK: a window gets no answer, a session gets a response (R80, R85). -/
abbrev Told (m1 : Mod) (src : Source) (m : Mod) : Prop := ∃ r : Resp, r.opcode ≠ 0 ∧ r.status = .ok ∧ m = m1.answer src r

/-- The fuses of b have come of those of a: life-cycle state, rollback counters and revoked keys never go back, and the device secret once blown stays
(R565, R566, R573). -/
structure FusesKept (a b : SecBlk) : Prop where
  life : a.life ≤ b.life
  rollFs : a.rollFs ≤ b.rollFs
  rollFw : a.rollFw ≤ b.rollFw
  revoked : ∀ i, a.revoked.testBit i = true → b.revoked.testBit i = true
  uds : ∀ u, a.uds = some u → b.uds = some u

/-- What holds of every module that comes of the module after reset: the memories are in canonical form, the life-cycle state is one of the five that exist, the
rollback counters stay within their 64 fuses and four keys at most are revoked. -/
structure Inv (m : Mod) : Prop where
  service : m.sv.service.wf = true
  sram : m.sv.sram.wf = true
  life : m.se.life ∈ [0, 1, 2, 4, 5]
  rollFs : m.se.rollFs ≤ 63
  rollFw : m.se.rollFw ≤ 63
  revoked : m.se.revoked < 16

end Sys2Proof
end

