-- ==== Sys2Proof/WellFormed.lean ====
section
/-! DEFINITION. Well-formed operands: numbers within the fields that carry them (R76, R77, R186, R189, R257, R260, R293). -/
namespace Sys2Proof

/-- n fits w bits. -/
def fits (w n : Nat) : Bool := decide (n < 2 ^ w)

/-- A packet header's fields (R257): LEN at most 16 units of 32 bytes, with its data words. -/
def Pkt.wf (p : Pkt) : Bool :=
  fits 4 p.fmt && fits 3 p.tc && decide (p.len ≤ 16) && fits 12 p.dest && fits 12 p.src && fits 4 p.hops && fits 64 p.body && decide (p.data.length = 4 * p.len) &&
    p.data.all (fits 64)

/-- A source's addresses (R82, R83). -/
def Source.wf : Source → Bool
  | .udp addr port => fits 128 addr && fits 16 port
  | .mctpPcie eid => fits 8 eid
  | .mctpI3c eid => fits 8 eid
  | .proxy sw sess priv => fits 12 sw && fits 16 sess && fits 2 priv
  | .mgmtPf | .vf _ | .hostPf _ | .firmware => true

/-- An item (R77): a value within its length. -/
def Item.wf (i : Item) : Bool := fits 24 i.oid && fits 8 i.ty && fits 16 i.len && decide (i.val < 256 ^ i.len)

/-- A request header (R76). -/
def ReqHdr.wf (h : ReqHdr) : Bool :=
  h.src.wf && fits 4 h.ver && fits 16 h.session && fits 32 h.seq && fits 16 h.length && fits 4 h.hops && fits 12 h.target

/-- A request body (R78) that has the form of its opcode. -/
def Body.wf : Body → Bool
  | .read it => it.wf
  | .write it => it.wf
  | .multi its => its.all Item.wf
  | .group num its => fits 32 num && its.all Item.wf
  | .commit num => fits 32 num
  | .abort num => fits 32 num
  | .subscribe it mode => it.wf && fits 32 mode
  | .bad _ => false

/-- CONTROL fields (R260): sixteen grants of 16 bits. -/
def Control.wf (c : Control) : Bool :=
  fits 8 c.ctype && fits 12 c.ack && decide (c.grant.length = 16) && c.grant.all (fits 16) && fits 8 c.opens && fits 64 c.ownId && fits 64 c.heldId

def LinkEntry.wf (e : LinkEntry) : Bool := fits 12 e.nbr && fits 4 e.port && fits 4 e.far && decide (e.state ≤ 2) && decide (1 ≤ e.cost ∧ e.cost ≤ 15)
def PidEntry.wf (e : PidEntry) : Bool := fits 12 e.pid && decide (e.port < 48)

/-- A link-state record (R293): 16 link entries and 96 PID entries at most. -/
def LinkRecord.wf (r : LinkRecord) : Bool :=
  fits 12 r.id && fits 32 r.epoch && fits 32 r.seq && fits 8 r.tprio && decide (r.links.length ≤ 16) && r.links.all LinkEntry.wf && decide (r.pids.length ≤ 96) && r.pids.all PidEntry.wf

/-- Transmit taps (R189). -/
def Taps.wf (t : Taps) : Bool := decide (t.pre2 ≤ 8) && decide (t.pre1 ≤ 20) && decide (t.post1 ≤ 20) && decide (t.post2 ≤ 8)

/-- A negotiated edge link (R218): rates 1 to 6, widths of 1, 2, 4, 8 and 16 lanes. -/
def Trained.wf (t : Trained) : Bool :=
  decide (1 ≤ t.rate ∧ t.rate ≤ 6) && decide (t.width ∈ [1, 2, 4, 8, 16]) && fits 2 t.flit && t.inverted.all (fun i => decide (i < t.width)) &&
    decide (t.taps.length ≤ t.width) && t.precode.all (fun i => decide (i < t.width)) && t.compliance.all (fun i => decide (i < t.width))

/-- A flit's contents (R249, R250). -/
def FlitForm.wf : FlitForm → Bool
  | .null => true
  | .payload _ seq words => fits 12 seq && decide (words.length = 29) && words.all (fits 64)
  | .control c => c.wf

/-- Levels read in place of those sent: 256 PAM4 symbols on each of four lanes (R182, R251). -/
def noiseOk (x : Noise) : Bool := decide (x.length ≤ 4) && x.all fun l => decide (l.length ≤ 256) && l.all fun v => v.all fun y => decide (y < 4)

/-- A sampled operation (R588). -/
def Sampled.wf (o : Sampled) : Bool := decide (o.port < 64) && o.tenant.all (fits 8) && fits 3 o.cls && fits 24 o.tid && fits 64 o.addr

/-- The far end of a binding (R223, R224). -/
def Far.wf : Far → Bool
  | .here => true
  | .vcs sw up => fits 12 sw && decide (up < 48)
  | .port sw q flit => fits 12 sw && decide (q < 48) && fits 2 flit

/-- A register's number and value. -/
def Reg.wf : Reg → Bool
  | .object src oid _ _ => src.wf && fits 24 oid
  | .sqBase _ _ v | .cqBase _ _ v => fits 64 v
  | .vfCtrl _ v => fits 32 v
  | .callSel _ v => fits 32 v
  | .msix fn entry addr data _ => decide (fn < 560) && decide (entry < 2048) && fits 64 addr && fits 32 data
  | .msixEnable fn _ => decide (fn < 560)
  | .biEnable _ _ | .dpcControl _ _ _ => true
  | .fastRead _ off size tag => fits 28 off && fits 4 size && fits 10 tag
  | .fastWrite _ off size v => fits 28 off && fits 4 size && fits 64 v
  | .bar4Read off size => fits 28 off && fits 4 size

/-- The operands of a command fit the fields that carry them. A command whose operands have types of their own has nothing to check. -/
def Instr.wf : Instr → Bool
  | .dictRead h it | .dictWrite h it _ => h.wf && it.wf
  | .dictReadMulti h its => h.wf && its.all Item.wf
  | .dictWriteGroup h num its _ => h.wf && fits 32 num && its.all Item.wf
  | .dictCommit h num _ | .dictAbort h num => h.wf && fits 32 num
  | .dictSubscribe h it mode => h.wf && it.wf && fits 32 mode
  | .groupApply num | .commitPendingAnswer num | .groupLockExpiry num | .opCopy _ num _ | .opFill _ num _ | .opZero _ num _ | .opCompare _ num _ |
    .opCrc32c _ num _ | .opCrc64 _ num _ | .opShake256 _ num _ | .opFetchAdd _ num _ | .opCas _ num _ | .opMigrate _ num | .opFence _ num | .opNotify _ num |
    .descriptorComplete _ num => fits 32 num
  | .sessionIdleTimeout id | .notifySend id => fits 16 id
  | .proxySegmentReceived _ req => fits 16 req.orig
  | .proxyResponse sess seq status subid items => fits 16 sess.own && fits 32 seq && fits 16 sess.far && fits 16 status && fits 16 subid && items.all fun x => x.1.wf && fits 16 x.2
  | .slotRead src off _ => src.wf && fits 28 off
  | .slotWrite src off _ v _ => src.wf && fits 28 off && fits 64 v
  | .winRead src _ | .winWrite src _ _ | .winErrRead src | .modeRequestOff src | .modeRequestStandby src | .modeRequestBoot src | .modeRequestConfigure src |
    .modeRequestOperate src | .modeRequestCapped src | .fenceEntrySet src _ _ _ | .fenceEntryClear src _ _ | .clearTrip src _ | .clearEnergy src _ |
    .testCountClear src _ | .portRoleWrite src _ _ _ | .portEnableWrite src _ _ _ | .linkRetire src _ _ | .linkUnretire src _ _ | .linkRetrainRequest src _ |
    .bindOperation src _ _ _ | .unbindOperation src _ _ _ | .extentReleaseRequest src _ _ | .extentForce src _ _ | .extentClear src _ _ | .takeover src _ |
    .serveWithoutPartner src _ | .migrationRequest src _ _ _ _ | .reinitAccept src _ | .reinitZero src _ | .flushRequest src _ _ _ | .confirmLostModule src _ |
    .backedVectorsWrite src _ _ _ _ | .qpOwnerWrite src _ _ _ | .quiesceStart src _ | .quiesceAbandon src _ | .quiesceResume src _ |
    .vfAssignmentWrite src _ _ _ _ _ | .mpuRecordClear src | .challengeRead src | .tokenPresent src _ | .keySlotEnrol src _ _ _ | .keySlotRevoke src _ _ |
    .keySlotClear src _ _ | .lifecycleProvision src | .lifecycleProduction src | .lifecycleRma src | .lifecycleDecommission src | .debugUnlock src _ |
    .stagingCheck src | .activateLive src | .activateReset src | .commitImages src | .lostalertClear src => src.wf
  | .registerWrite r | .recordReceived _ r => r.wf
  | .deskewDone _ skew _ _ taps => fits 8 skew && taps.all Taps.wf
  | .edgeLinkTrained _ t _ atomics _ => t.wf && atomics.all (fits 6)
  | .testOff src _ v | .testGenerate src _ v | .testCheck src _ v | .testGenerateCheck src _ v | .testCompliance src _ v | .timingMargin src _ v |
    .voltageMargin src _ v | .timeSet src v | .extentAddRequest src _ v _ | .lostMessageReport src v | .slotEntryWrite src _ v | .chainMaskWrite src _ v _ |
    .windowLengthWrite src v _ => src.wf && fits 64 v
  | .marginRunDone _ errors => fits 64 errors
  | .bindingWrite src _ _ far _ | .unbindWrite src _ far _ => src.wf && far.wf
  | .bisnpResponse _ _ dirty _ => dirty.all (fits 512)
  | .hostWriteback _ _ tag mask data _ => fits 16 tag && fits 64 mask && fits 512 data
  | .hostMemrdNocache _ _ _ tag addr | .hostMemrdShared _ _ _ tag addr | .hostMemrdAny _ _ _ tag addr => fits 16 tag && fits 64 addr
  | .hostMemwr _ _ _ tag addr data mask => fits 16 tag && fits 64 addr && fits 512 data && fits 64 mask
  | .descriptorFetch _ words => words.all (fits 64)
  | .flitRxPayload _ head words noise => (FlitForm.payload head.replay head.seq words).wf && noiseOk noise
  | .flitRxControl _ c noise => c.wf && noiseOk noise
  | .flitRxNull _ noise => noiseOk noise
  | .flitRxBad _ sent noise => sent.wf && noiseOk noise
  | .recordPurge id epoch => fits 12 id && fits 32 epoch
  | .homeMoveReceived _ seq old oldDesc new newDesc cause => fits 32 seq && fits 12 old && fits 16 oldDesc && fits 12 new && fits 16 newDesc && fits 8 cause
  | .syncReceived _ t1 => fits 80 t1
  | .delayRespReceived _ t4 => fits 80 t4
  | .trackerResponse tid code _ words => fits 24 tid && fits 8 code && words.all (fits 64)
  | .bindResponse _ res d0 => fits 8 res && fits 64 d0
  | .homeTransactionStart desc off | .backingWriteDone desc off | .directoryEntryReady desc off => fits 16 desc && fits 48 off
  | .backingReadDone desc off data _ => fits 16 desc && fits 48 off && fits 512 data
  | .flushAnswer desc member => fits 16 desc && fits 12 member
  | .flushRetry desc | .flushComplete desc => fits 16 desc
  | .lostModuleScanDone id => fits 12 id
  | .ioPostedWrite _ _ _ _ addr len data _ hdr _ _ => fits 64 addr && fits 13 len && fits 2048 data && fits 160 hdr
  | .ioReadRequest _ _ _ _ addr len data mask hdr tag _ => fits 64 addr && fits 13 len && fits 32 data && fits 8 mask && fits 160 hdr && fits 16 tag
  | .atomicopRequest _ _ _ _ addr _ a cmp hdr tag => fits 64 addr && fits 128 a && fits 128 cmp && fits 160 hdr && fits 16 tag
  | .lockedRead _ _ addr len hdr tag => fits 64 addr && fits 13 len && fits 160 hdr && fits 16 tag
  | .unlockMessage _ _ hdr => fits 160 hdr
  | .bcmpFlowTimer sw flow => fits 12 sw && fits 12 flow
  | .sqTailWrite _ _ v | .cqHeadWrite _ _ v | .qcfgEnable _ _ v | .qcfgDisable _ _ v | .ownReply _ v | .ownDbClear _ v | .ownMaskWrite _ v |
    .callLockRelease _ v | .callDbWrite _ v => fits 64 v
  | .ownOutPush _ w | .callInPush _ w => fits 64 w
  | .evtCauseClear _ bits => fits 64 bits
  | .bar4Write off v => fits 28 off && fits 64 v
  | .hubBusTransaction _ _ _ addr _ data => fits 64 addr && fits 64 data
  | .tokenLapse sess => fits 16 sess
  | .attestationNonce src nonce => src.wf && fits 256 nonce
  | .stagingDataWrite src data => src.wf && fits 8192 data
  | .filteredCounterOverflow _ o => o.wf
  | .eventAcknowledge src seq => src.wf && fits 32 seq
  | .partnerWidthChange _ w => fits 5 w
  | .cxlIoCompletion _ _ status len data rest _ _ => fits 16 status && fits 13 len && fits 32768 data && fits 32 rest
  | .barRegisterWrite _ _ _ base size _ => fits 64 base && fits 64 size
  | .clusterPllLockLoss .. | .clusterPllRelock .. | .regionGate .. | .regionUngate .. | .fatalDieError .. | .fatalHubError .. | .mainRailLoss .. |
    .proxyTimeout .. | .alertResponseAddress | .bootStart | .railStepDone | .bootComplete .. | .bootConfigurePassEnd | .bootWatchdog | .governorEvaluate .. |
    .gddr6RateStep | .governorFloor | .inputCurrentEmergency | .thermalTrip .. | .drainTrackerDone | .drainRecallDone | .parcelHandoff .. | .parcelUnhome .. |
    .drainHandoffDone | .drainLeaveDone | .drainEnd | .drainBoundExpiry | .hotReset .. | .feedPresent .. | .feedAbsent .. | .feedAbsentTimeout .. |
    .feedOvervoltage .. | .feedOvervoltageRelease .. | .oringReverseOff .. | .oringConduct .. | .inrushRampEnd .. | .inrushTimeout .. |
    .limitRegulationStart .. | .faultTimerReset | .slowTrip | .fastTrip .. | .fetOvertempTrip .. | .gateCheckFail .. | .vdsHighTrip .. | .fetShortDetect .. |
    .limitLowerApply .. | .cooldownEnd .. | .pwrGoodRise | .vaoHoldupExpiry | .telemetrySample .. | .alignSearchRound .. | .cdrRelockDone .. |
    .laneSignalLost .. | .laneAlignmentLost .. | .dormantEntryDone .. | .wakePatternDetected .. | .dormantExitDone .. | .refinLoss | .clkreqAssert .. |
    .clkreqRelease .. | .l0pWidthHalve .. | .l0pWidthRestore .. | .checkerLock .. | .checkerLockLoss .. | .hostSlotPowerOff .. | .unbindGraceExpiry .. |
    .ideKeyChangePoint .. | .ideIntegrityFailure .. | .hostPerstAssert .. | .hostPerstRelease .. | .secondaryBusReset .. | .resetPropagateRemote .. |
    .resetMessageReceived .. | .prsntAssert .. | .presenceAccepted .. | .hotAddPerstRelease .. | .hotAddLinkUp .. | .removalPrsnt .. | .removalLinkDown .. |
    .hostCacheScanDone .. | .biconflict .. | .flitSlot .. | .replayTimeout .. | .linkSignalLoss .. | .retrainTimeout .. |
    .trainTimeout .. | .trainStart .. | .linkupComplete .. | .dormantExitTimeout .. | .leaveDrained .. | .leaveDown .. | .dormantIdleTimeout .. |
    .dormantRetry .. | .recordOriginate | .routeComputeStart | .routeComputeDone | .proxyReassemblyTimeout .. | .syncSend .. |
    .delayReqReceived .. | .timeHoldover | .packetAdmit .. | .dequeueDecision .. | .underrunTimeout .. | .ageCheck .. | .completionTimeout .. |
    .orphanHoldTimeout .. | .bridgeCrcFail .. | .gateEntryChange .. | .gateTakeover .. | .samplerVisit .. | .highWaterRead .. | .addCapacityResponse .. |
    .hostReleaseCapacity .. | .unbindResponse .. | .releaseGraceTimeout .. | .partnerCopyRetry .. | .migrationStart .. | .migrationPassEnd .. |
    .migrationSwitch .. | .migrationAbort .. | .hotUnitWindow | .reinitZeroDone .. | .homeRdshared .. | .homeRdown .. | .homeUpgrade .. | .homeWbdirty .. |
    .homeWbdirtyKeep .. | .homeEvictexcl .. | .homeFlushowned .. | .homeCmp .. | .homeInvack .. | .homeDataowned .. | .broadcastTokenGrant .. |
    .cacheFwdshared .. | .cacheFwdown .. | .cacheInv .. | .cacheData .. | .cacheDataowned .. | .cacheAckGrant .. | .cacheAckError .. | .cacheInvack .. |
    .flushScanDone .. | .lostReportRetry .. | .semaphoreAcquire .. | .semaphoreHoldTimeout .. | .wcHoldTimeout .. | .heldAccessRelease .. |
    .bridgeReqReceived .. | .bridgeCplReceived .. | .postedWriteComplete .. | .bcmpReceived .. | .berrReceived .. | .sideReceived .. | .barrierWrite .. |
    .barrierComplete .. | .quiesceDone .. | .functionLevelReset .. | .flrComplete .. | .vfEnableClear .. | .ownInPop .. | .callLockRead .. | .callOutPop .. |
    .callStatusRead .. | .mailboxLockTimeout .. | .debugExpiry | .stagingCheckDone | .liveActivationDone | .liveActivationTimeout | .bandwidthWindowEnd |
    .leakTick | .leakThresholdReached .. | .scrubRead .. | .walkerPassStep .. | .gddr6Refresh .. | .gddr6CaseTemp .. | .msiCoalesceEnd | .strapSample .. |
    .tapExtest .. | .tapIdcode | .tapSamplePreload .. | .tapExtestPulse .. | .tapExtestTrain .. | .tapClamp | .tapHighz | .tapDebug | .tapBypass |
    .romMonitorServes | .laneCdrLockLoss .. | .trainingBlocksInActive .. | .l1Entry .. | .vfEnableSet .. | .dpcTriggerClear .. | .tapReset => true

end Sys2Proof
end

