-- ==== Sys2Proof/Certificates/Slice0/Obligations.lean ====
section
/-! DEFINITION. The statements for the provers. -/
section
open Sys2Proof Sys2Proof.Machine

/-- A step takes the command at the front of the queue and runs it with the queue's rest; with no command waiting, one nanosecond of the fabric time counter
passes and nothing but the clock, meridian time and the ages of queue heads moves (DESIGN CHOICE: what an empty queue does is the model's; log entry 2). -/
def Obligations.StepRunsTheFrontCommand : Prop :=
  (∀ (c : Instr) (rest : List Instr) (s : State), s.pending = c :: rest → step s = exec c { s with pending := rest }) ∧
  (∀ (s : State), s.pending = [] → ∃ m, step s = .next { s with mod := m } ∧ m.now = s.mod.now + 1 ∧ s.mod.ti.count ≤ m.ti.count ∧
    m.sw = { s.mod.sw with age := m.sw.age } ∧ m.ti = { s.mod.ti with count := m.ti.count } ∧
    ∀ p, p ∉ [Part.time, .meridian, .switching] → p.same s.mod m)

/-- After reset the invariant holds and no command waits. -/
def Obligations.ResetMeetsTheInvariant : Prop :=
  Inv State.reset.mod ∧ State.reset.pending = []

/-- No command stops the module: every command in every state is answered by a next state with the same queue. -/
def Obligations.EveryCommandIsAnswered : Prop :=
  ∀ (c : Instr) (s : State), Answers c s fun _ => True

/-- Every step keeps the invariant: canonical memories, an existing life-cycle state, counters and keys within their fuses (R565, R566, R573). -/
def Obligations.EveryStepKeepsTheInvariant : Prop :=
  ∀ s t : State, Inv s.mod → step s = .next t → Inv t.mod

/-- No step undoes: time runs forward, free values are drawn one after the other, what was sent stays sent, and the fuses only go forward (R40, R565, R566, R573,
R578); the queue loses at most its front. -/
def Obligations.NoStepUndoes : Prop :=
  ∀ s t : State, step s = .next t →
    s.mod.now ≤ t.mod.now ∧ s.mod.draws ≤ t.mod.draws ∧ s.mod.out <+: t.mod.out ∧ FusesKept s.mod.se t.mod.se ∧ t.pending = s.pending.tail

/-- Every command changes only the parts listed for it. -/
def Obligations.CommandsChangeOnlyTheirParts : Prop :=
  ∀ c : Instr, ChangesOnly c (mayChange c)

/-- All commands but the listed ones leave every byte of the service memory and of the hub SRAM as it was. -/
def Obligations.MostCommandsLeaveMemory : Prop :=
  ∀ c : Instr, storesMemory c = false → LeavesMemory c

/-- The bytes of a request's payload, read back by its opcode, are the request: no field of an item is dropped (R76 to R78). -/
def Obligations.RequestPayloadsReadBack : Prop :=
  ∀ b : Body, b.wf = true → parseBody (bodyOpcode b) (bodyBytes b) = b

/-- Packet headers and coherence messages read back: the header's fields (R257), the line a message names and its kind (R432 to R434), with what else its BODY
carries. So do flits: their header, payload or control fields, with the CRC where R249 puts it (R249, R250, R252, R260), and what the lanes carry: bytes in
turn on four lanes, four levels to a byte, precoding and polarity taken off again (R182, R183, R186, R251). -/
def Obligations.MessagesReadBack : Prop :=
  (∀ (p : Pkt), p.wf = true → pktOf (hdrWord p) p.body = { p with data := [] } ∧ hdrWord p < 2 ^ 64 ∧ pktWords p = hdrWord p :: p.body :: p.data) ∧
  (∀ (self home desc off : Nat) (op : Tc0) (pref keep poison : Bool) (data : Nat), home < 4096 → desc < 65536 → off < 2 ^ 34 → off % 64 = 0 → data < 2 ^ 512 →
    let p := tc0Pkt self op (lineKey home desc off) pref keep data poison
    p.dest = home ∧ pktLine p = lineKey home desc off ∧ bit p.body 60 = pref ∧ bit p.body 59 = keep ∧
    kindOf p = some (match op with | .rdShared => .rdShared | .rdOwn => .rdOwn | .upgrade => .upgrade | .wbDirty => .wbDirty | .evictExcl => .evictExcl | .flushOwned => .flushOwned) ∧
    (op = .wbDirty ∨ op = .flushOwned → wordsLine p.data = data ∧ p.len = 2 ∧ p.poison = poison)) ∧
  (∀ (home dest op req desc off acks : Nat), home < 4096 → req < 4096 → desc < 65536 → off < 2 ^ 34 → off % 64 = 0 → acks < 64 → op < 3 →
    let p := tc1Pkt home dest op req (lineKey home desc off) acks
    pktLine p = lineKey home desc off ∧ kindOf p = [MsgKind.fwdShared, .fwdOwn, .inv][op]? ∧ fld p.body 50 12 = req ∧ fld p.body 0 6 = acks) ∧
  (∀ (self dest home desc off op low data : Nat) (poison : Bool), home < 4096 → desc < 65536 → off < 2 ^ 34 → off % 64 = 0 → low < 64 → op < 4 → data < 2 ^ 512 →
    let p := tc2Pkt self dest op (lineKey home desc off) low data poison
    pktLine p = lineKey home desc off ∧ fld p.body 62 2 = op ∧ fld p.body 0 6 = low ∧ (op ≤ 1 → wordsLine p.data = data ∧ p.poison = poison) ∧
    (op < 3 → kindOf p = [MsgKind.data, .dataOwned, .ack][op]?) ∧ (op = 3 → kindOf p = [MsgKind.invAck, .cmp, .ackErr][low / 16]?)) ∧
  (∀ (replay : Bool) (seq : Nat) (ws : List Nat), seq < 4096 → ws.length = 29 → (∀ w ∈ ws, w < 2 ^ 64) →
    let b := flitBytes (.payload replay seq ws)
    formOfBytes b = some (.payload replay seq ws) ∧ b.length = 256 ∧ fld (ofBytes (b.take 2)) 12 1 = 0 ∧ ofBytes ((b.drop 234).take 8) = crc64 (b.take 234)) ∧
  (∀ (c : Control), c.wf = true → let b := flitBytes (.control c)
    formOfBytes b = some (.control c) ∧ b.length = 256 ∧ fld (ofBytes (b.take 2)) 0 14 = 0 ∧ (∀ x ∈ (b.drop 56).take 178, x = 0) ∧
    ofBytes ((b.drop 234).take 8) = crc64 (b.take 234)) ∧
  (∀ (b : List Nat), b.length = 256 → (∀ x ∈ b, x < 256) →
    joinLanes (laneBytes b 0) (laneBytes b 1) (laneBytes b 2) (laneBytes b 3) = b ∧ levelBytes (b.flatMap byteLevels) = b) ∧
  (∀ (p : Nat) (l : List Nat), p < 4 → (∀ x ∈ l, x < 4) → unprecode p (precode p l) = l ∧ precode p (unprecode p l) = l ∧ (l.map flipLevel).map flipLevel = l)

/-- R77: how items are laid out in a payload. -/
def Obligations.ItemsAreLaidOut : Prop :=
  (∀ (i : WireItem), i.oid < 2 ^ 24 → i.ty < 2 ^ 8 → i.len < 2 ^ 16 → i.status < 2 ^ 16 → i.val < 256 ^ i.len →
    let b := itemBytes i
    (∀ x ∈ b, x < 256) ∧ ofBytes (b.take 3) = i.oid ∧ (b.drop 3).take 1 = [i.ty] ∧ ofBytes ((b.drop 4).take 2) = i.len ∧
    ofBytes ((b.drop 6).take 2) = i.status ∧ ofBytes ((b.drop 8).take i.len) = i.val ∧ (∀ x ∈ b.drop (8 + i.len), x = 0) ∧
    b.length = 8 + 4 * ((i.len + 3) / 4)) ∧
  (∀ (r : Resp) (x : RItem), r.items = [x] → r.holder = 0 → (respBytes r).drop 16 = itemBytes { oid := x.oid, ty := x.ty, len := x.len, status := x.status.code + 32768 * b2n x.pend, val := x.val }) ∧
  (∀ (it : Item), bodyBytes (.write it) = itemBytes { oid := it.oid, ty := it.ty, len := it.len, status := 0, val := it.val }) ∧
  (∀ (it : Item), bodyBytes (.read it) = itemBytes { oid := it.oid, ty := it.ty, len := it.len, status := 0, val := it.val }) ∧
  (∀ (its : List Item), bodyBytes (.multi its) = its.flatMap fun it => itemBytes { oid := it.oid, ty := it.ty, len := it.len, status := 0, val := it.val }) ∧
  (∀ (num : Nat) (its : List Item),
    (bodyBytes (.group num its)).drop 4 = its.flatMap fun it => itemBytes { oid := it.oid, ty := it.ty, len := it.len, status := 0, val := it.val }) ∧
  (∀ (it : Item) (mode : Nat), (bodyBytes (.subscribe it mode)).dropLast.dropLast.dropLast.dropLast = itemBytes { oid := it.oid, ty := it.ty, len := it.len, status := 0, val := it.val }) ∧
  (∀ (h : ReqHdr) (it : Item), it.len ≠ 0 → hdrBad h (.read it) = true) ∧
  (∀ (h : ReqHdr) (it : Item) (mode : Nat), it.len ≠ 0 → hdrBad h (.subscribe it mode) = true) ∧
  (∀ (h : ReqHdr) (its : List Item), (∃ it ∈ its, it.len ≠ 0) → hdrBad h (.multi its) = true)

/-- R83: the fixed sessions of the windows, and that they never expire. -/
def Obligations.FixedSessionsNeverExpire : Prop :=
  (fixedSession .mgmtPf = some 0x0001 ∧ (∀ n : VfSlot, fixedSession (.vf n) = some (0x0100 + n.val)) ∧ ∀ v : Vcs, fixedSession (.hostPf v) = some (0x0200 + v.val)) ∧
  (∀ (src : Source) (id : Nat), fixedSession src = some id → (winKey src).isSome = true ∧ (callerOf src).sess = id) ∧
  (∀ (m : Mod) (src : Source) (i : Nat), (m.openSession src).2 = some i → ∀ w, fixedSession w ≠ some i) ∧
  (∀ (w : Source) (id : Nat) (s : State), fixedSession w = some id → (∀ x ∈ s.mod.di.sessions, x.id ≠ id) → Answers (.sessionIdleTimeout id) s fun m => m = s.mod) ∧
  (∀ (w src : Source) (id : Nat) (s : State), fixedSession w = some id → (∀ x ∈ s.mod.di.sessions, x.id ≠ id) → ∀ x ∈ (s.mod.openSession src).1.di.sessions, x.id ≠ id)

/-- R90: a request of a Tenant session for another module is answered with ACCESS_DENIED and sent nowhere; here for every request a transport brings, of a session
a request opens and of a window's fixed session alike. -/
def Obligations.TenantRequestsAreNotProxied : Prop :=
  (∀ (h : ReqHdr) (b : Body) (c : Instr) (s : State), asked c = some (h, b) → privOf h.src = .tenant → s.mod.serves h.src = true → winKey h.src = none →
    framed h = true → hdrBad h b = false → (s.mod.sessionFor h).2.1 = .ok → seqNew s.mod h = true → h.target % 4096 ∉ [0, s.mod.rt.id] →
    Answers c s fun m => ∃ m1 : Mod,
      m = m1.answer h.src { opcode := bodyOpcode b, session := (s.mod.sessionFor h).2.2, seq := h.seq, status := .accessDenied } ∧
      m1.di.proxied = s.mod.di.proxied ∧ m1.sw.waiting = s.mod.sw.waiting ∧ m1.di.obj = s.mod.di.obj) ∧
  (∀ (h : ReqHdr) (b : Body) (c : Instr) (id : Nat) (s : State), asked c = some (h, b) → privOf h.src = .tenant → s.mod.serves h.src = true →
    fixedSession h.src = some id → framed h = true → h.target % 4096 ∉ [0, s.mod.rt.id] →
    Answers c s fun m => m = s.mod.emit (.resp h.src { opcode := bodyOpcode b, session := id, seq := h.seq, status := .accessDenied }))

/-- R220: naming the role of an enabled port, or enabling a port whose role is 0, is refused with RANGE. The hypotheses are the earlier checks of a write (R61). -/
def Obligations.RoleOfAnEnabledPortIsRefused : Prop :=
  (∀ (src : Source) (p : EdgePort) (v : Fin 256) (stored : Bool) (r : ObjRow) (x : Mod × Caller) (s : State), s.mod.serves src = true →
    x = writerOf s.mod src (itemOf (mkOid 4 p 2) v) → (winKey src = none → LetIn s.mod (s.mod.rowHdr src (itemLen (itemOf (mkOid 4 p 2) v))) (.write (itemOf (mkOid 4 p 2) v))) →
    x.1.rowFor src (mkOid 4 p 2) = some r → accWrites (rowAcc (privOf src) r) = true → x.1.modeServes src (mkOid 4 p 2) true r.cfg = true →
    x.1.tokenFree x.2 r (mkOid 4 p 2) v = true → x.1.di.lockedOut = [] → s.mod.objv (mkOid 4 p 1) = 1 →
    Answers (.portRoleWrite src p v stored) s fun m =>
      (∀ k ∈ winKey src, m = x.1.winFail k (mkOid 4 p 2) .range) ∧
      (winKey src = none → ∃ y : Resp, m = x.1.answer src y ∧ y.opcode = 2 ∧ y.status = .range)) ∧
  (∀ (src : Source) (p : EdgePort) (stored : Bool) (r : ObjRow) (x : Mod × Caller) (s : State), s.mod.serves src = true →
    x = writerOf s.mod src (itemOf (mkOid 4 p 1) 1) → (winKey src = none → LetIn s.mod (s.mod.rowHdr src (itemLen (itemOf (mkOid 4 p 1) 1))) (.write (itemOf (mkOid 4 p 1) 1))) →
    x.1.rowFor src (mkOid 4 p 1) = some r → accWrites (rowAcc (privOf src) r) = true → x.1.modeServes src (mkOid 4 p 1) true r.cfg = true →
    x.1.tokenFree x.2 r (mkOid 4 p 1) 1 = true → x.1.di.lockedOut = [] → s.mod.role p = 0 →
    Answers (.portEnableWrite src p true stored) s fun m =>
      (∀ k ∈ winKey src, m = x.1.winFail k (mkOid 4 p 1) .range) ∧
      (winKey src = none → ∃ y : Resp, m = x.1.answer src y ∧ y.opcode = 2 ∧ y.status = .range))

/-- R266: with 512 flits in the replay buffer no new PAYLOAD flit is sent: the sequence number of the next one, the buffer and the words waiting for one stand, and
only retransmissions leave. FLIT_SLOT is the one command that sends flits. -/
def Obligations.FullReplayBufferHoldsPayloads : Prop :=
  ∀ (n : FabPort) (s : State), 512 ≤ (s.mod.link n).replay.length →
    Answers (.flitSlot n) s fun m =>
      ((m.link n).nextTx = (s.mod.link n).nextTx ∧ (m.link n).replay = (s.mod.link n).replay ∧ (m.link n).tx = (s.mod.link n).tx ∧
      (∀ seq words, Out.payload n.val false seq words ∈ m.out → Out.payload n.val false seq words ∈ s.mod.out) ∧
      (∀ k, k ≠ n.val → m.link k = s.mod.link k))

/-- Feeds coming and going (FEED_PRESENT, FEED_ABSENT, FEED_ABSENT_TIMEOUT, FEED_OVERVOLTAGE, FEED_OVERVOLTAGE_RELEASE, ORING_REVERSE_OFF, ORING_CONDUCT). -/
def Obligations.FeedCommandsSetPresenceAndFets : Prop :=
  (∀ (f : Feed) (mv : Nat) (s : State), 2700 ≤ mv → (s.mod.feed f).present = false →
    Answers (.feedPresent f mv) s fun m =>
      (m.feed f).present = true ∧ (m.feed f).voltage = mv ∧ (m.feed f).absentAt = none ∧ (m.feed f).oring = true ∧ (m.feed f).rev = false ∧
      m.pw.vbus = s.mod.pw.vbus ∧ m.pw.holdupEnd = none ∧ (s.mod.pw.heldOff = false → m.pw.vao = true) ∧
      ((s.mod.feed f).absentAt.isSome = true → (m.feed f).fet = (s.mod.feed f).fet) ∧
      ((s.mod.feed f).absentAt = none → (s.mod.feed f).overvolt = false → (s.mod.feed f).held = false → (s.mod.feed f).coolEnd = none →
        (s.mod.feed f).fet = .off → s.mod.pw.heldOff = false →
        (m.feed f).fet = if mv ≤ s.mod.pw.vbus + 500 ∧ s.mod.pw.vbus ≤ mv + 500 then .full else .ramp)) ∧
  (∀ (f : Feed) (mv : Nat) (s : State), mv < 2500 → (s.mod.feed f).present = true →
    Answers (.feedAbsent f mv) s fun m =>
      (m.feed f).present = false ∧ (m.feed f).voltage = mv ∧ (m.feed f).oring = false ∧ (m.feed f).carrying = false ∧ (m.feed f).current = 0 ∧
      (m.feed f).fet = (s.mod.feed f).fet ∧ (m.feed f).absentAt = (if (s.mod.feed f).fet = .off then none else some s.mod.now) ∧
      m.feed (otherFeed f) = s.mod.feed (otherFeed f) ∧ (m.pw.good = false → m.pw.pg = false) ∧
      m.pw.holdupEnd = (if (s.mod.feed (otherFeed f)).present then s.mod.pw.holdupEnd else some (s.mod.now + 60 * ms))) ∧
  (∀ (f : Feed) (t : Nat) (s : State), (s.mod.feed f).absentAt = some t →
    Answers (.feedAbsentTimeout f) s fun m =>
      m = (s.mod.advanceTo (t + ms)).onFeed f fun x => { x with fet := .off, rampTimeout := none, absentAt := none }) ∧
  (∀ (f : Feed) (mv : Nat) (s : State), 62000 ≤ mv → (s.mod.feed f).present = true → (s.mod.feed f).overvolt = false →
    Answers (.feedOvervoltage f mv) s fun m =>
      m.feed f = { s.mod.feed f with overvolt := true, voltage := mv, fet := .off, rampTimeout := none, carrying := false, ilim := false, current := 0 } ∧
      m.feed (otherFeed f) = s.mod.feed (otherFeed f) ∧ (m.pw.good = false → m.pw.pg = false)) ∧
  (∀ (f : Feed) (mv : Nat) (s : State), mv ≤ 61000 → (s.mod.feed f).overvolt = true →
    Answers (.feedOvervoltageRelease f mv) s fun m =>
      (m.feed f).overvolt = false ∧ (m.feed f).voltage = mv ∧ (m.feed f).latched = (s.mod.feed f).latched ∧
      ((s.mod.feed f).present = true → (s.mod.feed f).held = false → (s.mod.feed f).coolEnd = none → (s.mod.feed f).fet = .off → s.mod.pw.heldOff = false →
        s.mod.pw.vao = true → (m.feed f).fet = if mv ≤ s.mod.pw.vbus + 500 ∧ s.mod.pw.vbus ≤ mv + 500 then .full else .ramp)) ∧
  (∀ (f : Feed) (vbus : Nat) (s : State), (s.mod.feed f).oring = true → (s.mod.feed f).voltage + 20 ≤ vbus →
    Answers (.oringReverseOff f vbus) s fun m =>
      m.feed f = { s.mod.feed f with oring := false, rev := true, carrying := false, current := 0 } ∧
      m.feed (otherFeed f) = s.mod.feed (otherFeed f) ∧ m.pw.vbus = vbus ∧ (m.pw.good = false → m.pw.pg = false)) ∧
  (∀ (f : Feed) (mv : Nat) (s : State), (s.mod.feed f).present = true → s.mod.pw.vbus + 20 ≤ mv →
    Answers (.oringConduct f mv) s fun m =>
      m.feed f = { s.mod.feed f with oring := true, rev := false, voltage := mv } ∧ m.feed (otherFeed f) = s.mod.feed (otherFeed f) ∧
      m.pw.vbus = s.mod.pw.vbus ∧ (m.pw.good = false → m.pw.pg = false))

/-- Inrush, regulation and trips (INRUSH_RAMP_END, INRUSH_TIMEOUT, LIMIT_REGULATION_START, FAULT_TIMER_RESET, SLOW_TRIP, FAST_TRIP, FET_OVERTEMP_TRIP). -/
def Obligations.InrushRegulationAndTrips : Prop :=
  (∀ (f : Feed) (vbus : Nat) (s : State), (s.mod.feed f).fet = .ramp → (s.mod.feed f).voltage ≤ vbus + 500 → vbus ≤ (s.mod.feed f).voltage + 500 →
    Answers (.inrushRampEnd f vbus) s fun m =>
      m.feed f = { s.mod.feed f with fet := .full, rampTimeout := none, lastFull := some s.mod.now } ∧ m.pw.vbus = vbus) ∧
  (∀ (f : Feed) (t : Nat) (s : State), (s.mod.feed f).fet = .ramp → (s.mod.feed f).rampTimeout = some t →
    Answers (.inrushTimeout f) s fun m => m.now = max s.mod.now t ∧ Tripped s.mod m (max s.mod.now t) f 5 false) ∧
  (∀ (l : Fin 3) (s : State),
    Answers (.limitRegulationStart l) s fun m =>
      m.pw = { s.mod.pw with a := { s.mod.pw.a with ilim := s.mod.pw.a.ilim || decide (l = 0) }, b := { s.mod.pw.b with ilim := s.mod.pw.b.ilim || decide (l = 1) }, sumlim := s.mod.pw.sumlim || decide (l = 2), ftStart := some (s.mod.pw.ftStart.getD s.mod.now), ftLength := if s.mod.pw.ftStart.isSome then s.mod.pw.ftLength else s.mod.objv 0x101200 * 1000 }) ∧
  (∀ (s : State), s.mod.pw.ftStart.isSome = true →
    Answers .faultTimerReset s fun m =>
      m.now = s.mod.now + 100000 ∧ m.pw.ftStart = none ∧ m.pw.unregulated = true) ∧
  (∀ (t : Nat) (s : State), s.mod.pw.ftStart = some t →
    Answers .slowTrip s fun m =>
      m.now = max s.mod.now (t + s.mod.pw.ftLength) ∧ m.pw.ftStart = none ∧ m.pw.sumlim = false ∧ m.pw.pg = false ∧
      ∀ f : Feed, ((s.mod.feed f).ilim = true → Tripped s.mod m m.now f 1 false) ∧
        ((s.mod.feed f).ilim = false → s.mod.pw.sumlim = true → (s.mod.feed f).fet ≠ .off → (s.mod.feed f).present = true → (s.mod.feed f).rev = false →
          Tripped s.mod m m.now f 2 false) ∧
        ((s.mod.feed f).ilim = false → s.mod.pw.sumlim = false → m.feed f = s.mod.feed f)) ∧
  (∀ (f : Feed) (s : State), (s.mod.feed f).fet ≠ .off → (s.mod.feed f).present = true → (s.mod.feed f).rev = false →
    Answers (.fastTrip (if f = 0 then 0 else 1)) s fun m => Tripped s.mod m s.mod.now f 3 false ∧ m.feed (otherFeed f) = s.mod.feed (otherFeed f)) ∧
  (∀ (f : Feed) (s : State), (s.mod.feed f).fet ≠ .off → (s.mod.feed f).present = true → (s.mod.feed f).rev = false →
    Answers (.fastTrip 2) s fun m => Tripped s.mod m s.mod.now f 4 false) ∧
  (∀ (f : Feed) (s : State), (s.mod.feed f).fet ≠ .off →
    Answers (.fetOvertempTrip f) s fun m => Tripped s.mod m s.mod.now f 8 false ∧ (m.feed f).hotTrip = true ∧ (m.feed f).fetTemp = 150000)

/-- Gate checks, limits, cool-down and metering (GATE_CHECK_FAIL, VDS_HIGH_TRIP, FET_SHORT_DETECT, LIMIT_LOWER_APPLY, COOLDOWN_END, TELEMETRY_SAMPLE). -/
def Obligations.GateChecksLimitsCooldownMetering : Prop :=
  (∀ (f : Feed) (t : Nat) (s : State), (s.mod.feed f).fet = .full → (s.mod.feed f).lastFull = some t →
    Answers (.gateCheckFail f) s fun m => m.now = max s.mod.now (t + 5 * ms) ∧ Tripped s.mod m m.now f 6 true) ∧
  (∀ (f : Feed) (s : State), (s.mod.feed f).fet = .full → (s.mod.feed f).ilim = false →
    Answers (.vdsHighTrip f) s fun m => m.now = s.mod.now + ms ∧ Tripped s.mod m m.now f 7 true) ∧
  (∀ (f : Feed) (s : State), (s.mod.feed f).fet = .off → (s.mod.feed f).present = true → (s.mod.feed f).fetShort = false → s.mod.pw.near f = true →
    (s.mod.feed (otherFeed f)).fet = .off ∨ (s.mod.feed (otherFeed f)).present = false →
    Answers (.fetShortDetect f) s fun m => m.now = s.mod.now + ms ∧ m.feed f = { s.mod.feed f with fetShort := true }) ∧
  (∀ (l : Fin 3) (v t : Nat) (s : State), (if l = 0 then s.mod.pw.a.limitDue else if l = 1 then s.mod.pw.b.limitDue else s.mod.pw.limitDue) = some (v, t) →
    Answers (.limitLowerApply l) s fun m =>
      m.now = max s.mod.now t ∧ (l = 0 → m.pw.a = { s.mod.pw.a with limit := v, limitDue := none }) ∧
      (l = 1 → m.pw.b = { s.mod.pw.b with limit := v, limitDue := none }) ∧ (l = 2 → m.pw = { s.mod.pw with limit := v, limitDue := none })) ∧
  (∀ (f : Feed) (temp : Int) (t : Nat) (s : State), (s.mod.feed f).coolEnd = some t → ((s.mod.feed f).hotTrip = true → temp < 125000) →
    Answers (.cooldownEnd f temp) s fun m =>
      m.now = max s.mod.now t ∧ (m.feed f).coolEnd = none ∧ (m.feed f).fetTemp = temp ∧ (m.feed f).hotTrip = false ∧
      (m.feed f).held = ((s.mod.feed f).held || !(decide (s.mod.objv 0x101400 = 1) || (s.mod.feed f).clearSeen)) ∧
      (s.mod.objv 0x101400 = 1 → (s.mod.feed f).held = false → (s.mod.feed f).present = true → (s.mod.feed f).overvolt = false → (s.mod.feed f).fet = .off →
        s.mod.pw.heldOff = false → s.mod.pw.vao = true → (m.feed f).fet ≠ .off)) ∧
  (∀ (va ia vb ib vbus : Nat) (ta tb : Int) (s : State), s.mod.pw.vao = true →
    Answers (.telemetrySample va ia vb ib vbus ta tb) s fun m =>
      m.now = s.mod.now + 100000 ∧ m.pw.vbus = vbus ∧ m.pw.energy = s.mod.pw.energy + va * ia / 1000 + vb * ib / 1000 ∧
      m.feed 0 = { s.mod.pw.a with voltage := va, current := ia, power := va * ia / 1000, fetTemp := ta, carrying := decide (0 < ia), ilim := s.mod.pw.a.ilim && decide (s.mod.pw.a.limit ≤ ia), energy := s.mod.pw.a.energy + va * ia / 1000, peak := max s.mod.pw.a.peak ia } ∧
      m.feed 1 = { s.mod.pw.b with voltage := vb, current := ib, power := vb * ib / 1000, fetTemp := tb, carrying := decide (0 < ib), ilim := s.mod.pw.b.ilim && decide (s.mod.pw.b.limit ≤ ib), energy := s.mod.pw.b.energy + vb * ib / 1000, peak := max s.mod.pw.b.peak ib } ∧
      m.pw.samples = ((vbus, va * ia / 1000 + vb * ib / 1000) :: s.mod.pw.samples).take 100 ∧
      m.pw.sumlim = (s.mod.pw.sumlim && decide (s.mod.pw.limit ≤ ia + ib)))

/-- Start-up and the loss of power (PWR_GOOD_RISE, BOOT_START, RAIL_STEP_DONE, BOOT_COMPLETE, BOOT_CONFIGURE_PASS_END, BOOT_WATCHDOG, ROM_MONITOR_SERVES,
VAO_HOLDUP_EXPIRY). -/
def Obligations.StartUpReachesItsModes : Prop :=
  (∀ (s : State), s.mod.pw.good = true → s.mod.pw.unregulated = true → s.mod.pw.pg = false → s.mod.pw.ftStart = none →
    Answers .pwrGoodRise s fun m =>
      m.now = s.mod.now + 2 * ms ∧ m.pw.pg = true ∧
      (s.mod.md.mode = .off → m.md.mode = .standby ∧ m.objv 0x200300 = 0x0211 ∧ (s.mod.objv 0x201000 = 1 → m.md.bootHeld = true)) ∧
      (s.mod.md.mode = .fault → s.mod.railsUp = false → s.mod.md.thermalTrip = false → s.mod.md.raising = false → m.md.raising = true ∧ m.md.railStep = 0) ∧
      (s.mod.md.mode ≠ .off → s.mod.md.mode ≠ .fault → m.md = s.mod.md)) ∧
  (∀ (t : Nat) (s : State), s.mod.pw.okSince = some t → s.mod.md.mode = .standby → s.mod.md.bootHeld = true → s.mod.pw.vao = true →
    Answers .bootStart s fun m =>
      m.now = max s.mod.now (t + 10 * ms) ∧ m.md.mode = .boot ∧ m.md.bootAt = m.now ∧ m.md.cold = true ∧ m.md.raising = true ∧ m.md.railStep = 0 ∧
      m.md.railReset = true ∧ m.md.bootHeld = false) ∧
  (∀ (s : State), s.mod.md.raising = true → s.mod.md.railStep < 6 →
    Answers .railStepDone s fun m =>
      m.now = max s.mod.now (s.mod.md.bootAt + railStepMs (s.mod.md.railStep + 1) * ms) ∧ m.md.railStep = s.mod.md.railStep + 1 ∧
      (∀ r, r ∈ m.md.rails ↔ r ∈ s.mod.md.rails ∨ (r ∈ railStepRails (s.mod.md.railStep + 1) ∧ r ∈ s.mod.md.wantedRails)) ∧
      m.md.raising = decide (s.mod.md.railStep < 5) ∧
      m.md.railReset = (if s.mod.md.railStep < 5 then s.mod.md.railReset else decide (s.mod.md.mode = .fault) && s.mod.md.thermalTrip) ∧ m.md.mode = s.mod.md.mode) ∧
  (∀ (fails : List UnitId) (s : State), s.mod.md.mode = .boot → s.mod.md.railStep = 6 → s.mod.railsUp = true → s.mod.se.boot.ready = true →
    s.mod.now < s.mod.md.bootAt + 5 * sec →
    Answers (.bootComplete fails) s fun m =>
      m.md.mode = .configure ∧ m.md.serving = true ∧ m.md.mrdy = true ∧ m.pw.events = [] ∧
      m.md.passEnd.isSome = decide (s.mod.objv 0x201100 = 4)) ∧
  (∀ (t : Nat) (s : State), s.mod.md.mode = .configure → s.mod.md.passEnd = some t →
    Answers .bootConfigurePassEnd s fun m =>
      m.now = max s.mod.now t ∧ m.md.mode = (if s.mod.md.gov.step = 0 then .operate else .capped) ∧ m.md.passEnd = none) ∧
  (∀ (s : State), s.mod.md.mode = .boot →
    Answers .bootWatchdog s fun m =>
      m.now = max s.mod.now (s.mod.md.bootAt + 5 * sec) ∧ m.md.mode = .fault ∧ m.md.mrdy = false ∧ m.md.serving = false ∧ m.md.faultAt = m.now ∧
      m.pw.events = []) ∧
  (∀ (s : State), s.mod.md.mode = .fault → s.mod.md.serving = false → s.mod.md.raising = false → ([.vib, .vhub, .vio].all fun r => s.mod.md.rails.contains r) = true →
    Answers .romMonitorServes s fun m => m.now = max s.mod.now (s.mod.md.faultAt + 5 * ms) ∧ m.md.serving = true ∧ m.md.mrdy = true ∧ m.md.mode = .fault) ∧
  (∀ (t : Nat) (s : State), s.mod.pw.holdupEnd = some t →
    Answers .vaoHoldupExpiry s fun m =>
      m.now = max s.mod.now t ∧ m.md.mode = .off ∧ m.md.rails = [] ∧ m.pw.vao = false ∧ m.pw.pg = false ∧ m.pw.holdupEnd = none ∧
      m.pw.storeA = s.mod.pw.a.energy ∧ m.pw.storeB = s.mod.pw.b.energy ∧ m.pw.storeM = s.mod.pw.energy ∧
      (∀ f, (m.feed f).fet = .off ∧ (m.feed f).latched = false ∧ (m.feed f).held = false ∧ (m.feed f).retries = 0))

/-- The governor, and what stops the module (GOVERNOR_EVALUATE, GDDR6_RATE_STEP, GOVERNOR_FLOOR, INPUT_CURRENT_EMERGENCY, THERMAL_TRIP, FATAL_DIE_ERROR,
FATAL_HUB_ERROR, MAIN_RAIL_LOSS). The target of an evaluation is P_avail, or the cap 2.020.00 where that is lower. -/
def Obligations.GovernorStepsAndFatalEvents : Prop :=
  (∀ (t0 t1 th : Int) (s : State), s.mod.md.mode.governed = true → s.mod.md.gov.floor = false →
    Answers (.governorEvaluate t0 t1 th) s fun m =>
      let target := if s.mod.objv 0x202000 = 0 then s.mod.pAvail else min s.mod.pAvail (s.mod.objv 0x202000)
      let tgov : Int := (s.mod.objv 0x202200 : Int) * 1000
      let t := max t0 (max t1 th)
      let old := s.mod.md.gov
      m.now = max s.mod.now old.nextAt ∧ m.md.temps = [t0, t1, th] ∧ m.md.gov.nextAt = m.now + 10 * ms ∧ m.md.gov.target = target ∧
      (target * 1000 < s.mod.powerAvg ∨ tgov ≤ t → old.step < 5 → m.md.gov.step = old.step + 1 ∧ (s.mod.md.mode = .operate → m.md.mode = .capped)) ∧
      (s.mod.powerAvg < (target - 10) * 1000 → t < tgov - 5000 → 0 < old.step → 90 ≤ old.hold →
        m.md.gov.step = old.step - 1 ∧ (s.mod.md.mode = .capped → old.step = 1 → m.md.mode = .operate)) ∧
      (s.mod.powerAvg < (target - 10) * 1000 → t < tgov - 5000 → 0 < old.step → old.hold < 90 → m.md.gov.step = old.step ∧ m.md.gov.hold = old.hold + 10)) ∧
  (∀ (i : Nat) (s : State), s.mod.md.mode.governed = true →
    ((List.range 12).find? fun i => s.mod.md.slowCh.contains i != decide (2 ≤ s.mod.md.gov.step)) = some i →
    Answers .gddr6RateStep s fun m =>
      m = (s.mod.advance 50000).onMd fun b =>
        { b with slowCh := if 2 ≤ s.mod.md.gov.step then b.slowCh ++ channelPair i else b.slowCh.filter fun c => !(channelPair i).contains c }) ∧
  (∀ (t : Nat) (s : State), s.mod.md.gov.floorSince = some t → s.mod.md.mode = .configure ∨ s.mod.md.mode = .operate ∨ s.mod.md.mode = .capped →
    s.mod.md.gov.step = 5 → s.mod.md.gov.isOver = true →
    Answers .governorFloor s fun m =>
      m.now = max s.mod.now (t + 100 * ms) ∧ m.md.mode = .drain ∧ m.md.drain.endState = .standby ∧ m.md.drain.step = 2 ∧
      m.md.drain.bound = m.now + s.mod.objv 0x200400 * ms ∧ m.md.gov.floor = true) ∧
  (∀ (s : State), s.mod.md.mode.governed = true → s.mod.md.gov.step < 2 →
    Answers .inputCurrentEmergency s fun m => m.now = s.mod.now + 50000 ∧ m.md.gov.step = 2 ∧ m.md.gov.emerg = true ∧ (s.mod.md.mode = .operate → m.md.mode = .capped)) ∧
  (∀ (d : Fin 3) (s : State), s.mod.md.rails ≠ [] →
    Answers (.thermalTrip d) s fun m =>
      m.md.mode = .fault ∧ m.md.thermalTrip = true ∧ m.md.railReset = true ∧ m.md.raising = false ∧ (∀ r ∈ m.md.rails, r = .vib ∨ r = .vhub ∨ r = .vio) ∧ m.sv.service = []) ∧
  (∀ (d : Die) (cause : Fin 6) (s : State), 2 ≤ s.mod.md.mode.code → s.mod.md.mode ≠ .fault →
    Answers (.fatalDieError d cause) s fun m =>
      m.md.mode = .fault ∧ d.val ∈ m.md.dieStopped ∧ m.md.faultAt = s.mod.now ∧ m.md.mrdy = false ∧ m.md.serving = false) ∧
  (∀ (cause : Fin 6) (s : State), 2 ≤ s.mod.md.mode.code → s.mod.md.mode ≠ .fault →
    Answers (.fatalHubError cause) s fun m => m.md.mode = .fault ∧ m.md.faultAt = s.mod.now ∧ m.md.mrdy = false ∧ m.md.serving = false) ∧
  (∀ (r : Rail) (s : State), r ∈ s.mod.md.rails →
    Answers (.mainRailLoss r) s fun m =>
      r ∉ m.md.rails ∧ m.md.railReset = true ∧ (r = .vmem → m.sv.service = []) ∧
      m.md.mode = if 2 ≤ s.mod.md.mode.code then .fault else s.mod.md.mode)

/-- DRAIN and its six steps (DRAIN_TRACKER_DONE, DRAIN_RECALL_DONE, PARCEL_HANDOFF, PARCEL_UNHOME, DRAIN_HANDOFF_DONE, DRAIN_LEAVE_DONE, DRAIN_END,
DRAIN_BOUND_EXPIRY). -/
def Obligations.DrainGoesThroughItsSteps : Prop :=
  (∀ (s : State), s.mod.drainAt 2 = true → s.mod.br.wc = [] → s.mod.br.held = [] → (∀ x ∈ s.mod.sv.qps, x.2.started = []) →
    (∀ x ∈ s.mod.sw.trk, x.2.kind = 0 ∨ x.2.kind = 5 ∨ x.2.orphan = true) →
    Answers .drainTrackerDone s fun m => m.md = { s.mod.md with drain := { s.mod.md.drain with step := 3 } }) ∧
  (∀ (s : State), s.mod.drainAt 3 = true → (∀ x ∈ s.mod.ca.lines, x.2.st = .i) → s.mod.ed.filter = [] →
    Answers .drainRecallDone s fun m =>
      m.md = { s.mod.md with drain := { s.mod.md.drain with step := 4 } } ∧ m.po.recalling = s.mod.homedParcels.filter fun i => decide (s.mod.dPartner i = 0)) ∧
  (∀ (i : Fin 65536) (s : State), s.mod.drainAt 4 = true → i.val ∈ s.mod.homedParcels → s.mod.dPartner i ≠ 0 → s.mod.parcelBusy i = false →
    Answers (.parcelHandoff i) s fun m =>
      i.val ∈ m.po.handed ∧ .handoff (s.mod.dPartner i) (fld (s.mod.objv (descOid 1 i)) 0 16) (s.mod.ho.dir.filter fun x => decide (x.1 / 2 ^ 48 = i.val)) ∈ m.out ∧
      m.md = s.mod.md) ∧
  (∀ (i : Fin 65536) (s : State), s.mod.drainAt 4 = true → i.val ∈ s.mod.po.recalling → s.mod.parcelBusy i = false → s.mod.parcelLines i = [] →
    Answers (.parcelUnhome i) s fun m =>
      m = s.mod.onPo fun b => { b with recalling := without i.val b.recalling, unhomed := addOnce i.val b.unhomed }) ∧
  (∀ (s : State), s.mod.drainAt 4 = true → (∀ i ∈ s.mod.homedParcels, i ∈ s.mod.po.unhomed) →
    Answers .drainHandoffDone s fun m => m.md = { s.mod.md with drain := { s.mod.md.drain with step := 5 } } ∧ m.rt.leaving = true) ∧
  (∀ (s : State), s.mod.drainAt 5 = true → (∀ n, n < 16 → (s.mod.link n).st = .down ∨ (s.mod.link n).st = .retired) →
    Answers .drainLeaveDone s fun m => m.md = { s.mod.md with drain := { s.mod.md.drain with step := 6 } }) ∧
  (∀ (s : State), s.mod.drainAt 6 = true →
    Answers .drainEnd s fun m =>
      (s.mod.md.drain.endState = .standby → m.md.mode = .standby ∧ m.md.rails = [] ∧ m.objv 0x200300 = 0x0211) ∧
      (s.mod.md.drain.endState = .off → m.md.mode = .off ∧ m.md.rails = [] ∧ m.pw.vao = false ∧ m.pw.heldOff = true ∧ ∀ f, (m.feed f).fet = .off) ∧
      (s.mod.md.drain.endState = .boot → m.md.mode = .boot ∧ m.md.bootAt = s.mod.now ∧ m.md.cold = !(s.mod.railsUp && !s.mod.md.railReset))) ∧
  (∀ (s : State), s.mod.md.mode = .drain → s.mod.md.drain.step ≤ 5 →
    Answers .drainBoundExpiry s fun m =>
      m.now = max s.mod.now s.mod.md.drain.bound ∧ m.md = { s.mod.md with drain := { s.mod.md.drain with step := 6, expired := true } })

/-- Clusters, regions, leak thresholds (CLUSTER_PLL_LOCK_LOSS, CLUSTER_PLL_RELOCK, REGION_GATE, REGION_UNGATE, LEAK_THRESHOLD_REACHED). -/
def Obligations.ClustersRegionsAndLeaks : Prop :=
  (∀ (k : Cluster) (s : State), (s.mod.cluster k).locked = true →
    Answers (.clusterPllLockLoss k) s fun m =>
      (m.cluster k).locked = false ∧ (m.cluster k).reset = true ∧ (m.cluster k).losses = s.mod.now :: (s.mod.cluster k).losses.filter fun t => s.mod.now < t + sec) ∧
  (∀ (k : Cluster) (s : State), (s.mod.cluster k).locked = false → s.mod.regionGated (k.val / 2) = false → .vsera ∈ s.mod.md.rails →
    Answers (.clusterPllRelock k) s fun m => m.now = s.mod.now + 200000 ∧ (m.cluster k).locked = true ∧ (m.cluster k).reset = false) ∧
  (∀ (r : Region) (s : State), (s.mod.region r).withdrawn = true → (s.mod.region r).gated = false →
    Answers (.regionGate r) s fun m =>
      (s.mod.regionUnbound r = true → (m.region r).gated = true ∧ ∀ k ∈ clustersOfRegion r, (m.cluster k).locked = false ∧ (m.cluster k).reset = true) ∧
      (s.mod.regionUnbound r = false → m = s.mod.onRegion r fun x => { x with withdrawn := false })) ∧
  (∀ (r : Region) (s : State), (s.mod.region r).gated = true →
    Answers (.regionUngate r) s fun m =>
      (m.region r).gated = false ∧ (m.region r).withdrawn = false ∧ ∀ k ∈ clustersOfRegion r, (m.cluster k).locked = true ∧ (m.cluster k).reset = false) ∧
  (∀ (d : Die) (u : Fin 53) (s : State), s.mod.leakLimit u ≤ tget 0 (64 * d.val + u.val) s.mod.cn.leak → 64 * d.val + u.val ∉ s.mod.cn.leakStopped →
    Answers (.leakThresholdReached d u) s fun m =>
      m = ((((s.mod.onCn fun b => { b with leakStopped := b.leakStopped ++ [64 * d.val + u.val] }).raise (evt 0x0E05 (Loc.ofUnit (leakUnit d u)))).fenceUnit
        (leakUnit d u) 2).settle) ∧ m.md = s.mod.md ∧ m.pw = s.mod.pw ∧ m.now = s.mod.now)

/-- Flits (FLIT_SLOT, FLIT_RX_PAYLOAD, FLIT_RX_CONTROL, FLIT_RX_NULL, FLIT_RX_BAD, REPLAY_TIMEOUT). The keep test of an acknowledgement a is
(a - SEQ) mod 4,096 at or above 2,048. A SYNC, and a DELAY_REQ, takes its time as the flit with its header is first sent (R314). A received flit is the levels on the port's four lanes; what the codec makes of them is a hypothesis (R251 to R254). -/
def Obligations.FlitsGoBackN : Prop :=
  (∀ (n : FabPort) (f : Flit) (rest : List Flit) (s : State), (s.mod.link n).st = .active → (s.mod.link n).slot ≠ 31 → (s.mod.link n).dormantHs = .none →
    (s.mod.link n).nakOwed = false → (s.mod.link n).leaveOwed = false → (s.mod.link n).resend = f :: rest →
    Answers (.flitSlot n) s fun m =>
      (∃ lv, s.mod.out ++ [.payload n true f.seq f.words, .symbols n lv] <+: m.out) ∧ (m.link n).resend = rest ∧ (m.link n).replay = (s.mod.link n).replay ∧
      (m.link n).nextTx = (s.mod.link n).nextTx ∧ (m.link n).slot = ((s.mod.link n).slot + 1) % 32) ∧
  (∀ (n : FabPort) (ws : List TxWord) (s : State), (s.mod.link n).st = .active → (s.mod.link n).slot ≠ 31 → (s.mod.link n).dormantHs = .none →
    (s.mod.link n).nakOwed = false → (s.mod.link n).leaveOwed = false → (s.mod.link n).resend = [] →
    ws = txReady (stampSync s.mod.ti.count 29 (s.mod.link n).tx) → ws ≠ [] →
    (s.mod.link n).replay.length < 512 →
    Answers (.flitSlot n) s fun m => ∃ f : Flit,
      f.seq = (s.mod.link n).nextTx ∧ f.words = ws.map (·.w) ++ List.replicate (29 - ws.length) 0 ∧ f.words.length = 29 ∧
      (ws.length < 29 → ∃ l x, ws = l ++ [x] ∧ x.fin = true) ∧ stampSync s.mod.ti.count 29 (s.mod.link n).tx = ws ++ (m.link n).tx ∧
      (∃ lv, s.mod.out ++ [.payload n false f.seq f.words, .symbols n lv] <+: m.out) ∧ (m.link n).nextTx = ((s.mod.link n).nextTx + 1) % 4096 ∧
      (asksDelay ws.length (stampSync s.mod.ti.count 29 (s.mod.link n).tx) = true → (tget {} n.val m.ti.ex).t3 = s.mod.ti.count) ∧
      (m.link n).replay = (s.mod.link n).replay ++ [f] ∧ (m.link n).used = chargeHeads ws (s.mod.link n).used ∧ (m.link n).replayDeadline.isSome = true) ∧
  (∀ (n : FabPort) (s : State), (s.mod.link n).st = .active → (s.mod.link n).slot = 31 → (s.mod.link n).dormantHs = .none → (s.mod.link n).leave = .none →
    (s.mod.link n).peerLeave = .none →
    Answers (.flitSlot n) s fun m => ∃ c : Control,
      c.ctype = 0 ∧ c.nak = (s.mod.link n).nakOwed ∧ c.ack = ((s.mod.link n).nextRx + 4095) % 4096 ∧ c.ownId = s.mod.ownIdentity n ∧
      c.heldId = (s.mod.link n).heldId ∧ (∃ lv, s.mod.out ++ [.control n c, .symbols n lv] <+: m.out) ∧ (m.link n).slot = 0 ∧ (m.link n).nakOwed = false ∧ (m.link n).ctlOwed = false) ∧
  (∀ (n : FabPort) (head : FlitHead) (sent : List Nat) (noise : Noise) (again : Bool) (seq : Nat) (words : List Nat) (fixed : Nat) (s : State),
    (s.mod.link n).st = .active →
    (s.mod.rxSymbols n (s.mod.arriving n (.payload head.replay head.seq sent) noise)).2 = .good (.payload again seq words) fixed →
    Answers (.flitRxPayload n head sent noise) s fun m =>
      (seq = (s.mod.link n).nextRx → (m.link n).nextRx = ((s.mod.link n).nextRx + 1) % 4096 ∧ (m.link n).nakPending = false ∧ (m.link n).ctlOwed = true) ∧
      (seq ≠ (s.mod.link n).nextRx → 1 ≤ ((s.mod.link n).nextRx + 4096 - seq) % 4096 → ((s.mod.link n).nextRx + 4096 - seq) % 4096 ≤ 2047 →
        m.link n = { s.mod.link n with lastPayload := s.mod.now } ∧ m.sw = s.mod.sw) ∧
      (seq ≠ (s.mod.link n).nextRx → 2048 ≤ ((s.mod.link n).nextRx + 4096 - seq) % 4096 →
        m.link n = { s.mod.link n with lastPayload := s.mod.now, nakPending := true, nakOwed := (s.mod.link n).nakOwed || !(s.mod.link n).nakPending } ∧ m.sw = s.mod.sw)) ∧
  (∀ (n : FabPort) (sent : Control) (noise : Noise) (c : Control) (fixed : Nat) (s : State), (s.mod.link n).st = .active →
    (s.mod.rxSymbols n (s.mod.arriving n (.control sent) noise)).2 = .good (.control c) fixed → c.ctype = 0 → c.nak = false →
    Answers (.flitRxControl n sent noise) s fun m =>
      (m.link n).st = .active ∧ (m.link n).openTx = ((List.range 8).filter fun k => bit c.opens k) ∧
      (∀ k, k < 8 → credOf (m.link n).limit k = { h := c.grant.getD (2 * k) 0 % 65536, d := c.grant.getD (2 * k + 1) 0 % 65536 }) ∧
      (m.link n).replay = (s.mod.link n).replay.filter fun f => decide (2048 ≤ (c.ack % 4096 + 4096 - f.seq % 4096) % 4096)) ∧
  (∀ (n : FabPort) (sent : Control) (noise : Noise) (c : Control) (fixed : Nat) (s : State), (s.mod.link n).st = .train ∨ (s.mod.link n).st = .retrain →
    (s.mod.searchOf n).aligned = true → (s.mod.rxSymbols n (s.mod.arriving n (.control sent) noise)).2 = .good (.control c) fixed → c.ctype = 1 →
    Answers (.flitRxControl n sent noise) s fun m => m.link n = { s.mod.link n with peer := some c }) ∧
  (∀ (n : FabPort) (noise : Noise) (fixed : Nat) (s : State), (s.mod.link n).st = .active →
    (s.mod.rxSymbols n (s.mod.arriving n .null noise)).2 = .good .null fixed →
    Answers (.flitRxNull n noise) s fun m =>
      m.lk = s.mod.lk ∧ m.sw = s.mod.sw ∧ m.out = s.mod.out ∧ (fixed = 0 → m.di = s.mod.di) ∧
      (m.objv (mkOid 5 (0x300 + n.val) 5)) % 2 ^ 64 = (s.mod.objv (mkOid 5 (0x300 + n.val) 5) + fixed) % 2 ^ 64) ∧
  (∀ (n : FabPort) (sent : FlitForm) (noise : Noise) (got : FlitRx) (fixed : Nat) (s : State), (s.mod.link n).st = .active →
    (s.mod.rxSymbols n (s.mod.arriving n sent noise)).2 = got →
    got = .uncorrectable fixed ∨ got = .crcFailed fixed ∨ got = .reserved fixed →
    Answers (.flitRxBad n sent noise) s fun m =>
      m.link n = { s.mod.link n with nakPending := true, nakOwed := (s.mod.link n).nakOwed || !(s.mod.link n).nakPending } ∧ m.sw = s.mod.sw ∧ m.out = s.mod.out ∧
      (got = .uncorrectable fixed → (m.objv (mkOid 5 (0x300 + n.val) 6)) % 2 ^ 64 = (s.mod.objv (mkOid 5 (0x300 + n.val) 6) + 1) % 2 ^ 64) ∧
      (got ≠ .uncorrectable fixed → (m.objv (mkOid 5 (0x300 + n.val) 7)) % 2 ^ 64 = (s.mod.objv (mkOid 5 (0x300 + n.val) 7) + 1) % 2 ^ 64)) ∧
  (∀ (n : FabPort) (f : Flit) (rest : List Flit) (t : Nat) (s : State), (s.mod.link n).st = .active → (s.mod.link n).replay = f :: rest →
    (s.mod.link n).replayDeadline = some t → (s.mod.link n).resend = [] →
    Answers (.replayTimeout n) s fun m =>
      let k := (s.mod.link n).replayNum + 1
      let big := s.mod.objv (mkOid 5 n.val 4)
      m.now = max s.mod.now t ∧ (m.link n).replayNum = k ∧ (m.link n).replay = f :: rest ∧
      (m.link n).st = (if 2 * big ≤ k then .down else if k = big then .retrain else .active) ∧
      ((m.link n).st = .active → (m.link n).resend = f :: rest ∧ (m.link n).replayFrom = some f.seq) ∧
      ((m.link n).st ≠ .active → (m.link n).resend = [] ∧ (m.link n).cause = if 2 * big ≤ k then 2 else 1))

/-- Entering and leaving link states (TRAIN_START, LINKUP_COMPLETE, LINK_SIGNAL_LOSS, RETRAIN_TIMEOUT, TRAIN_TIMEOUT, DORMANT_EXIT_TIMEOUT,
LEAVE_DRAINED, LEAVE_DOWN). -/
def Obligations.LinkStatesAndHandshake : Prop :=
  (∀ (n : FabPort) (asks : List (Fin 4)) (s : State), (s.mod.link n).st = .down → s.mod.mayTrain = true → s.mod.portTesting (48 + n.val) = false →
    (s.mod.cluster (clusterOfPort (48 + n.val))).locked = true → (s.mod.region (clusterOfPort (48 + n.val) / 2)).gated = false → s.mod.tp.scanning = false →
    Answers (.trainStart ⟨n, asks⟩) s fun m =>
      m.now = max s.mod.now (match (s.mod.link n).lastFail with | some t => t + 10 * ms | none => s.mod.now) ∧
      m.link n = { s.mod.link n with st := .train, trainStart := m.now, peer := none, peerSlot := false, fromDown := true } ∧
      (m.searchOf n).running = true ∧ (m.searchOf n).open_ = [0, 1, 2, 3] ∧ (m.searchOf n).attempt = 0 ∧
      ∀ i, i < 4 → (m.lane (4 * (48 + n.val) + i)).rate = 7 ∧ (m.lane (4 * (48 + n.val) + i)).cdr = true ∧ (m.lane (4 * (48 + n.val) + i)).align = false ∧
        (m.lane (4 * (48 + n.val) + i)).precode = decide (s.mod.objv (mkOid 3 (4 * (48 + n.val) + i) 2) = 1) ∧
        (m.lane (4 * (48 + n.val) + i)).txPre = asks.any (fun x => decide (x.val = i)) ∧
        (m.lane (4 * (48 + n.val) + i)).lastTx = 0 ∧ (m.lane (4 * (48 + n.val) + i)).lastRx = 0) ∧
  (∀ (n : FabPort) (c : Control) (s : State), (s.mod.link n).peer = some c → (s.mod.link n).peerSlot = true →
    (s.mod.link n).st = .train ∨ (s.mod.link n).st = .retrain → (s.mod.link n).heldId = c.ownId → c.heldId = s.mod.ownIdentity n →
    Answers (.linkupComplete n) s fun m =>
      (m.link n).st = .active ∧ (m.link n).nextTx = (s.mod.link n).nextTx ∧ (m.link n).nextRx = (s.mod.link n).nextRx ∧ (m.link n).heldId = c.ownId ∧
      (m.link n).replay = (s.mod.link n).replay.filter (fun f => decide (2048 ≤ (c.ack % 4096 + 4096 - f.seq % 4096) % 4096)) ∧
      (m.link n).resend = (m.link n).replay ∧ (m.link n).tx = (s.mod.link n).tx ∧ (m.link n).peer = none) ∧
  (∀ (n : FabPort) (c : Control) (s : State), (s.mod.link n).peer = some c → (s.mod.link n).peerSlot = true →
    (s.mod.link n).st = .train ∨ (s.mod.link n).st = .retrain → (s.mod.link n).heldId = 0 ∨ (s.mod.link n).heldId = c.ownId →
    c.heldId = 0 ∨ c.heldId = s.mod.ownIdentity n → ¬((s.mod.link n).heldId = c.ownId ∧ c.heldId = s.mod.ownIdentity n) →
    Answers (.linkupComplete n) s fun m =>
      (m.link n).st = .active ∧ (m.link n).nextTx = 0 ∧ (m.link n).nextRx = 0 ∧ (m.link n).replay = [] ∧ (m.link n).tx = [] ∧ (m.link n).heldId = c.ownId ∧
      (m.link n).openTx = [] ∧ (m.link n).openRx = [] ∧ (m.link n).fresh = true) ∧
  (∀ (n : FabPort) (c : Control) (s : State), (s.mod.link n).peer = some c → (s.mod.link n).peerSlot = true →
    (s.mod.link n).st = .train ∨ (s.mod.link n).st = .retrain → (s.mod.link n).heldId ≠ 0 → (s.mod.link n).heldId ≠ c.ownId → s.mod.holdsNothing n = false →
    Answers (.linkupComplete n) s fun m =>
      ((s.mod.link n).st = .train → (m.link n).st = .down ∧ (m.link n).cause = 10 ∧ (m.link n).lastFail = some s.mod.now) ∧
      ((s.mod.link n).st = .retrain → (m.link n).st = .retrain ∧ (m.link n).cause = (s.mod.link n).cause) ∧
      c.ownId ∈ (m.link n).mismatchIds ∧ (m.link n).peer = none ∧ (m.link n).mismatch = true ∧ (m.link n).replay = (s.mod.link n).replay ∧
      (m.link n).heldId = (s.mod.link n).heldId) ∧
  (∀ (n : FabPort) (s : State), (s.mod.link n).st = .active ∨ (s.mod.link n).st = .retrain →
    Answers (.linkSignalLoss n) s fun m =>
      m.now = s.mod.now + 1000 ∧ (m.link n).st = .down ∧ (m.link n).replay = (s.mod.link n).replay ∧
      (m.link n).cause = (if (s.mod.link n).peerLeave = .ackSent ∧ (s.mod.link n).replay = [] then 11 else 6) ∧
      ∀ i, i < 4 → (m.lane (4 * (48 + n.val) + i)).signal = false ∧ (m.lane (4 * (48 + n.val) + i)).cdr = false) ∧
  (∀ (n : FabPort) (s : State), (s.mod.link n).st = .retrain →
    Answers (.retrainTimeout n) s fun m => m.now = max s.mod.now ((s.mod.link n).retrainStart + ms) ∧ (m.link n).st = .down ∧ (m.link n).cause = 9) ∧
  (∀ (n : FabPort) (s : State), (s.mod.link n).st = .train →
    Answers (.trainTimeout n) s fun m =>
      m.now = max s.mod.now ((s.mod.link n).trainStart + s.mod.objv (mkOid 5 n.val 6) * 1000) ∧ (m.link n).st = .down ∧ (m.link n).cause = 7 ∧
      (m.link n).lastFail = some m.now) ∧
  (∀ (n : FabPort) (t : Nat) (s : State), (s.mod.link n).st = .dormant → (s.mod.link n).exitAt = some t →
    Answers (.dormantExitTimeout n) s fun m => m.now = max s.mod.now (t + ms) ∧ (m.link n).st = .down ∧ (m.link n).cause = 15 ∧ (m.link n).exitAt = none) ∧
  (∀ (n : FabPort) (s : State), (s.mod.link n).peerLeave = .asked → s.mod.holdsNothing n = true → s.mod.rt.changedAt = none → s.mod.rt.computing = none →
    Answers (.leaveDrained n) s fun m => m.link n = { s.mod.link n with peerLeave := .ackDue, leaveOwed := true }) ∧
  (∀ (n : FabPort) (s : State), (s.mod.link n).replay = [] → (s.mod.link n).st ≠ .down → (s.mod.link n).st ≠ .retired →
    ((s.mod.link n).leave = .acked ∧ ((s.mod.link n).peerLeave = .none ∨ (s.mod.link n).peerLeave = .ackSent)) ∨
      ((s.mod.link n).leave ≠ .acked ∧ (s.mod.link n).peerLeave = .ackSent) →
    Answers (.leaveDown n) s fun m => (m.link n).st = .down ∧ (m.link n).cause = 11 ∧ (m.link n).clean = true ∧ (m.link n).heldId = 0 ∧ n.val ∉ m.rt.adj)

/-- DORMANT (DORMANT_IDLE_TIMEOUT, DORMANT_RETRY, DORMANT_ENTRY_DONE, WAKE_PATTERN_DETECTED, DORMANT_EXIT_DONE). -/
def Obligations.DormantEntryAndExit : Prop :=
  (∀ (n : FabPort) (s : State), (s.mod.link n).st = .active → s.mod.objv (mkOid 5 n.val 7) ≠ 0 → (s.mod.link n).dormantHs = .none → s.mod.holdsNothing n = true →
    Answers (.dormantIdleTimeout n) s fun m =>
      m.now = max s.mod.now ((s.mod.link n).lastPayload + s.mod.objv (mkOid 5 n.val 7) * 1000) ∧ m.link n = { s.mod.link n with dormantHs := .reqOwed }) ∧
  (∀ (n : FabPort) (s : State), (s.mod.link n).st = .active → (s.mod.link n).dormantHs = .none → (s.mod.link n).dormantAskAt ≠ 0 → s.mod.holdsNothing n = true →
    (s.mod.link n).redundant = true ∨ (s.mod.objv (mkOid 5 n.val 7) ≠ 0 ∧
      (s.mod.link n).lastPayload + s.mod.objv (mkOid 5 n.val 7) * 1000 ≤ max s.mod.now ((s.mod.link n).dormantAskAt + 10000)) →
    Answers (.dormantRetry n) s fun m =>
      m.now = max s.mod.now ((s.mod.link n).dormantAskAt + 10000) ∧ m.link n = { s.mod.link n with dormantHs := .reqOwed }) ∧
  (∀ (n : FabPort) (s : State), (s.mod.link n).st = .active → (s.mod.link n).leave = .none → (s.mod.link n).peerLeave = .none → (s.mod.link n).dormantHs = .reqOwed →
    s.mod.holdsNothing n = true →
    Answers (.flitSlot n) s fun m =>
      (∃ (c : Control) (lv : List (List Nat)), c.ctype = 2 ∧ s.mod.out ++ [.control n c, .symbols n lv] <+: m.out) ∧ (m.link n).dormantHs = .reqSent ∧ (m.link n).st = .active) ∧
  (∀ (n : FabPort) (s : State), (s.mod.link n).st = .dormant → (s.mod.link n).entering = true →
    Answers (.dormantEntryDone n) s fun m =>
      (m.link n).entering = false ∧ (m.link n).st = .dormant ∧
      ((s.mod.link n).exitAsked = false → m.out = s.mod.out ∧ m.link n = { s.mod.link n with entering := false }) ∧
      ((s.mod.link n).exitAsked = true → m.out = s.mod.out ++ (if (s.mod.link n).woken then [] else [.wake n]) ∧ (m.link n).exitAt = some s.mod.now) ∧
      ∀ i, i < 4 → (m.lane (4 * (48 + n.val) + i)).cdr = false ∧ (m.lane (4 * (48 + n.val) + i)).pstate = 5) ∧
  (∀ (n : FabPort) (s : State), (s.mod.link n).st = .dormant → (s.mod.link n).exitAt = none → (s.mod.link n).exitAsked = false →
    Answers (.wakePatternDetected n) s fun m =>
      m.link n = (if (s.mod.link n).entering then { s.mod.link n with exitAsked := true, woken := true } else { s.mod.link n with exitAt := some s.mod.now }) ∧
      m.out = s.mod.out) ∧
  (∀ (n : FabPort) (failed : List (Fin 4)) (s : State), (s.mod.link n).st = .dormant → (s.mod.link n).exitAt.isSome = true → (s.mod.searchOf n).running = false →
    Answers (.dormantExitDone n failed) s fun m =>
      (failed = [] →
        m.link n = { s.mod.link n with st := .active, nextTx := 0, nextRx := 0, slot := 0, sinceMark := 0, exitAt := none, woken := false, lastPayload := s.mod.now, dormantAskAt := 0 } ∧
        ∀ i, i < 4 → (m.lane (4 * (48 + n.val) + i)).align = true ∧ (m.lane (4 * (48 + n.val) + i)).cdr = true) ∧
      (failed ≠ [] →
        m.lk = s.mod.lk ∧ (m.searchOf n).running = true ∧ (∀ i, i ∈ (m.searchOf n).open_ ↔ ∃ x ∈ failed, x.val = i) ∧
        ∀ i : Fin 4, (i ∈ failed → (m.lane (4 * (48 + n.val) + i.val)).align = false ∧
          (m.lane (4 * (48 + n.val) + i.val)).slip = (s.mod.lane (4 * (48 + n.val) + i.val)).kept.getD 0) ∧
          (i ∉ failed → (m.lane (4 * (48 + n.val) + i.val)).align = true)))

/-- Alignment of fabric lanes (ALIGN_SEARCH_ROUND, CDR_RELOCK_DONE, DESKEW_DONE, LANE_SIGNAL_LOST, LANE_ALIGNMENT_LOST, LANE_CDR_LOCK_LOSS,
TRAINING_BLOCKS_IN_ACTIVE). -/
def Obligations.LanesAlignAndLoseAlignment : Prop :=
  (∀ (n : FabPort) (hits : List Nat) (s : State), (s.mod.searchOf n).running = true → (s.mod.searchOf n).relock = false → s.mod.se.live = none →
    Answers (.alignSearchRound n hits) s fun m =>
      (m.searchOf n).open_ = ((s.mod.searchOf n).open_.filter fun i => decide (hits.getD i 0 < 60)) ∧
      ((m.searchOf n).running = true → ∀ i ∈ (s.mod.searchOf n).open_, 60 ≤ hits.getD i 0 → (m.lane (4 * (48 + n.val) + i)).align = true) ∧
      ((m.searchOf n).open_ = [] → (m.searchOf n).running = true ∧ (m.searchOf n).relock = false) ∧
      ((m.searchOf n).open_ ≠ [] → 32 ≤ (s.mod.searchOf n).round + 1 → (s.mod.searchOf n).attempt < 3 →
        (m.searchOf n).attempt = (s.mod.searchOf n).attempt + 1 ∧ (m.searchOf n).round = 0 ∧ (m.searchOf n).relock = true) ∧
      ((m.searchOf n).open_ ≠ [] → 32 ≤ (s.mod.searchOf n).round + 1 → 3 ≤ (s.mod.searchOf n).attempt → (s.mod.link n).st = .train →
        (m.searchOf n).running = false ∧ (m.link n).st = .down ∧ (m.link n).cause = 8 ∧ (m.link n).lastFail = some s.mod.now)) ∧
  (∀ (n : FabPort) (s : State), (s.mod.searchOf n).running = true →
    Answers (.cdrRelockDone n) s fun m =>
      m.searchOf n = { s.mod.searchOf n with relock := false } ∧ m.lk = s.mod.lk ∧
      ∀ i, i < 4 → m.lane (4 * (48 + n.val) + i) = { s.mod.lane (4 * (48 + n.val) + i) with
        cdr := true, signal := true
        slip := if (s.mod.searchOf n).relock = true ∧ i ∈ (s.mod.searchOf n).open_ then (s.mod.lane (4 * (48 + n.val) + i)).kept.getD 0 else (s.mod.lane (4 * (48 + n.val) + i)).slip }) ∧
  (∀ (n : FabPort) (skew : Nat) (reversed : Bool) (inverted : List (Fin 4)) (taps : List Taps) (s : State), (s.mod.searchOf n).running = true →
    (s.mod.searchOf n).open_ = [] →
    Answers (.deskewDone n skew reversed inverted taps) s fun m =>
      (skew ≤ 64 → m.searchOf n = { s.mod.searchOf n with running := false, aligned := true } ∧
        ((s.mod.link n).st ≠ .dormant → m.lk = s.mod.lk) ∧
        ((s.mod.link n).st = .dormant → (m.link n).st = .active ∧ (m.link n).nextTx = 0 ∧ (m.link n).nextRx = 0 ∧ (m.link n).exitAt = none) ∧
        ∀ i, i < 4 → (m.lane (4 * (48 + n.val) + i)).rev = reversed ∧ (m.lane (4 * (48 + n.val) + i)).logical = (if reversed then 3 - i else i) ∧
          (m.lane (4 * (48 + n.val) + i)).pol = inverted.any fun x => decide (x.val = i)) ∧
      (64 < skew → (s.mod.searchOf n).attempt < 3 →
        m.searchOf n = { s.mod.searchOf n with attempt := (s.mod.searchOf n).attempt + 1, round := 0, relock := true, full := true, open_ := [0, 1, 2, 3] } ∧
        ∀ i, i < 4 → (m.lane (4 * (48 + n.val) + i)).align = false) ∧
      (64 < skew → 3 ≤ (s.mod.searchOf n).attempt → (s.mod.link n).st = .train → (m.link n).st = .down ∧ (m.link n).cause = 8)) ∧
  (∀ (l : Lane) (s : State), 192 ≤ l.val → (s.mod.searchOf (l.val / 4 - 48)).running = true →
    Answers (.laneSignalLost l) s fun m =>
      m.lane l = { s.mod.lane l with signal := false, cdr := false, align := false } ∧ l.val % 4 ∈ (m.searchOf (l.val / 4 - 48)).open_ ∧ m.lk = s.mod.lk) ∧
  (∀ (l : Lane) (s : State), 192 ≤ l.val → (s.mod.link (l.val / 4 - 48)).st = .active →
    Answers (.laneAlignmentLost l) s fun m =>
      (m.link (l.val / 4 - 48)).st = .retrain ∧ (m.link (l.val / 4 - 48)).cause = 3 ∧ (m.link (l.val / 4 - 48)).retrainStart = s.mod.now ∧
      (m.lane l).align = false ∧ (m.lane l).slip = 0 ∧ (m.searchOf (l.val / 4 - 48)).running = true) ∧
  (∀ (l : Lane) (s : State),
    Answers (.laneCdrLockLoss l) s fun m =>
      (m.lane l).cdr = false ∧ (l.val < 192 → m.lk = s.mod.lk) ∧
      (192 ≤ l.val → (s.mod.link (l.val / 4 - 48)).st = .active →
        (m.link (l.val / 4 - 48)).st = .retrain ∧ (m.link (l.val / 4 - 48)).cause = 4 ∧ (m.searchOf (l.val / 4 - 48)).running = true ∧ (m.lane l).align = false)) ∧
  (∀ (n : FabPort) (s : State), (s.mod.link n).st = .active →
    Answers (.trainingBlocksInActive n) s fun m =>
      (m.link n).st = .retrain ∧ (m.link n).cause = 18 ∧ (m.link n).replay = (s.mod.link n).replay ∧ (m.searchOf n).running = true ∧
      (m.searchOf n).open_ = [0, 1, 2, 3])

/-- References, link width and training of edge ports (REFIN_LOSS, CLKREQ_ASSERT, CLKREQ_RELEASE, L0P_WIDTH_HALVE, L0P_WIDTH_RESTORE,
PARTNER_WIDTH_CHANGE, L1_ENTRY, EDGE_LINK_TRAINED). -/
def Obligations.ReferencesWidthAndEdgeTraining : Prop :=
  (∀ (s : State), s.mod.ph.refin = true →
    Answers .refinLoss s fun m =>
      m.ph.refin = false ∧ ∀ k : Cluster,
        ((s.mod.cluster k).locked = true → (s.mod.cluster k).source = 1 → (m.cluster k).locked = false ∧ (m.cluster k).reset = true) ∧
        ((s.mod.cluster k).source ≠ 1 → m.cluster k = s.mod.cluster k)) ∧
  (∀ (p : EdgePort) (s : State), s.mod.lead p = p →
    Answers (.clkreqAssert p) s fun m =>
      m.edge p = { s.mod.edge p with clkreq := true, clkreqUsed := true } ∧
      (s.mod.refoutMode = true → s.mod.objv (mkOid 3 (0x100 + clusterOfPort p) 3) = 2 → s.mod.objv (mkOid 4 p.val 1) = 1 →
        (m.cluster (clusterOfPort p)).refout = true)) ∧
  (∀ (p : EdgePort) (s : State), s.mod.lead p = p →
    Answers (.clkreqRelease p) s fun m =>
      m.edge p = { s.mod.edge p with clkreq := false, clkreqUsed := true } ∧
      (s.mod.objv (mkOid 3 (0x100 + clusterOfPort p) 3) = 2 →
        (∀ q, q < 48 → clusterOfPort q = clusterOfPort p → bit (s.mod.objv (mkOid 3 (0x200 + q) 4)) 1 = true ∧ (q ≠ p.val → (s.mod.edge q).clkreq = false)) →
        (m.cluster (clusterOfPort p)).refout = false)) ∧
  (∀ (p : EdgePort) (u1 u2 : Nat) (s : State), s.mod.lead p = p → (s.mod.edge p).l0p = true → s.mod.objv (mkOid 3 (0x200 + p.val) 3) = 2 → u1 < 25 → u2 < 25 →
    2 ≤ (s.mod.edge p).widthNow → (s.mod.edge p).widthNow ≤ (s.mod.edge p).tr.width →
    Answers (.l0pWidthHalve p u1 u2) s fun m =>
      m.edge p = { s.mod.edge p with l0pWidth := (s.mod.edge p).widthNow / 2, link := .l0p } ∧
      ∀ l ∈ (s.mod.mergedLanes p).take ((s.mod.edge p).widthNow / 2), (m.lane l).pstate = 0) ∧
  (∀ (p : EdgePort) (s : State), s.mod.lead p = p → (s.mod.edge p).link = .l0p → s.mod.objv (mkOid 3 (0x200 + p.val) 3) = 2 →
    65536 < ((List.range 8).map fun c => ((s.mod.queue (qKey p c)).map fun e => pktBytes e.held.pkt).sum).sum →
    Answers (.l0pWidthRestore p) s fun m =>
      m.edge p = { s.mod.edge p with l0pWidth := 0, link := .l0 } ∧
      ∀ l ∈ (s.mod.mergedLanes p).take (s.mod.edge p).tr.width, (m.lane l).pstate = 0) ∧
  (∀ (p : EdgePort) (w : Nat) (s : State), s.mod.lead p = p → (s.mod.edge p).l0p = true → 1 ≤ s.mod.objv (mkOid 3 (0x200 + p.val) 3) → w ∈ [1, 2, 4, 8, 16] →
    w ≤ (s.mod.edge p).tr.width →
    Answers (.partnerWidthChange p w) s fun m =>
      m.edge p = (if w = (s.mod.edge p).tr.width then { s.mod.edge p with l0pWidth := 0, link := .l0 }
        else { s.mod.edge p with l0pWidth := w, link := .l0p }) ∧ m.sw = s.mod.sw) ∧
  (∀ (p : EdgePort) (kind : Fin 5) (s : State), s.mod.lead p = p →
    Answers (.l1Entry p kind) s fun m =>
      let sub := s.mod.objv (mkOid 3 (0x200 + p.val) 4)
      kind.val = 4 ∨ (kind.val = 1 ∧ (bit sub 0 = false ∨ (s.mod.edge p).clkreqUsed = false)) ∨
        (kind.val = 2 ∧ (bit sub 1 = false ∨ (s.mod.edge p).clkreqUsed = false)) → m = s.mod) ∧
  (∀ (p : EdgePort) (kind : Fin 5) (s : State), s.mod.lead p = p → kind.val ≠ 4 →
    (s.mod.edge p).link = .l0 ∨ (s.mod.edge p).link = .l0p ∨ (s.mod.edge p).link = .l1 →
    (kind.val = 1 → bit (s.mod.objv (mkOid 3 (0x200 + p.val) 4)) 0 = true ∧ (s.mod.edge p).clkreqUsed = true) →
    (kind.val = 2 → bit (s.mod.objv (mkOid 3 (0x200 + p.val) 4)) 1 = true ∧ (s.mod.edge p).clkreqUsed = true) →
    Answers (.l1Entry p kind) s fun m =>
      (kind.val ≠ 3 → m.edge p = { s.mod.edge p with link := .l1, l0pWidth := 0 }) ∧
      (kind.val = 3 → m.edge p = { s.mod.edge p with link := .l2, dllUp := false, l0pWidth := 0 } ∧ ∀ i, i < 6 → m.ideSt p i = {}) ∧
      ∀ l ∈ s.mod.mergedLanes p, (m.lane l).pstate = if kind.val = 1 then 3 else if kind.val = 2 then 4 else 1) ∧
  (∀ (p : EdgePort) (t : Trained) (loop : Bool) (atomics : List Nat) (dvsec : Option Nat) (s : State), s.mod.lead p = p → s.mod.mayTrainEdge p = true →
    Answers (.edgeLinkTrained p t loop atomics dvsec) s fun m =>
      let n := s.mod.negotiate p t
      n.rate ≤ t.rate ∧ n.rate ≤ s.mod.objv (mkOid 3 (0x200 + p.val) 1) ∧ n.width ∈ [1, 2, 4, 8, 16] ∧ (n.flit = 0 → n.rate ≤ 5) ∧
      (4 ≤ s.mod.md.gov.step → n.rate ≤ 5) ∧
      ((t.cache || t.mem) = true → n.rate ≤ 2 → (m.edge p).link = .recovery ∧ (m.edge p).dllUp = false) ∧
      ((t.cache || t.mem) = false ∨ 3 ≤ n.rate →
        (m.edge p).link = .l0 ∧ (m.edge p).tr = n ∧ (m.edge p).dllUp = true ∧ (m.edge p).wasUp = true ∧ (m.edge p).l0pWidth = 0 ∧
        ∀ l ∈ (s.mod.mergedLanes p).take n.width,
          (m.lane l).rate = n.rate ∧ (m.lane l).pstate = 0 ∧ (m.lane l).lastTx = 0 ∧ (m.lane l).lastRx = 0 ∧
          (m.lane l).precode = (decide (n.rate = 6) && decide (s.mod.objv (mkOid 3 l 2) = 1)) ∧
          (m.lane l).txPre = (decide (n.rate = 6) && t.precode.contains ((s.mod.mergedLanes p).idxOf l)) ∧
          (m.lane l).pol = n.inverted.contains ((s.mod.mergedLanes p).idxOf l)))

/-- Hot add, removal and unbinding (PRSNT_ASSERT, PRESENCE_ACCEPTED, HOT_ADD_PERST_RELEASE, HOT_ADD_LINK_UP, REMOVAL_PRSNT, REMOVAL_LINK_DOWN,
DPC_TRIGGER_CLEAR, HOST_SLOT_POWER_OFF, UNBIND_GRACE_EXPIRY). -/
def Obligations.HotAddRemovalAndUnbinding : Prop :=
  (∀ (p : EdgePort) (s : State), s.mod.lead p = p → (s.mod.edge p).prsnt = false →
    Answers (.prsntAssert p) s fun m =>
      m = s.mod.onEdge p fun x => { x with prsnt := true, prsntSince := s.mod.now, hotAdd := if s.mod.downstream p && decide (s.mod.objv (mkOid 4 p.val 1) = 1) then .counting else x.hotAdd }) ∧
  (∀ (p : EdgePort) (s : State), s.mod.lead p = p → s.mod.se.live = none → (s.mod.edge p).hotAdd = .counting → (s.mod.edge p).prsnt = true →
    s.mod.portPowered p = true →
    Answers (.presenceAccepted p) s fun m =>
      m.now = max s.mod.now ((s.mod.edge p).prsntSince + 20 * ms) ∧ (m.edge p).hotAdd = .powered ∧ (m.edge p).acceptedAt = m.now ∧ (m.edge p).perst = true ∧
      (s.mod.role p ≠ 2 → (m.edge p).dpc = false) ∧
      (s.mod.role p = 2 → (s.mod.edge p).farVcs = none → s.mod.binding p ≠ 0xFFFF →
        (m.edge p).dpc = ((s.mod.edge p).dpc && (s.mod.vppb (s.mod.binding p / 256) (s.mod.binding p % 256)).dpcTriggered)) ∧
      (s.mod.role p = 2 → (s.mod.edge p).farVcs.isSome = true → (m.edge p).dpc = ((s.mod.edge p).dpc && (s.mod.edge p).farTrig)) ∧
      (s.mod.objv (mkOid 3 (0x100 + clusterOfPort p) 3) = 2 → (m.cluster (clusterOfPort p)).refout = true)) ∧
  (∀ (p : EdgePort) (s : State), s.mod.lead p = p → s.mod.se.live = none → (s.mod.edge p).hotAdd = .powered → s.mod.portPowered p = true →
    Answers (.hotAddPerstRelease p) s fun m =>
      m.now = max s.mod.now ((if (s.mod.cluster (clusterOfPort p)).refout then max (s.mod.edge p).acceptedAt (s.mod.cluster (clusterOfPort p)).refoutSince
        else (s.mod.edge p).acceptedAt) + 100 * ms) ∧
      m.edge p = { s.mod.edge p with hotAdd := .released, perst := false, link := .training }) ∧
  (∀ (p : EdgePort) (s : State), s.mod.lead p = p → s.mod.se.live = none → (s.mod.edge p).hotAdd = .released → (s.mod.edge p).dllUp = true →
    Answers (.hotAddLinkUp p) s fun m =>
      m.edge p = { s.mod.edge p with hotAdd := .up } ∧
      (s.mod.role p = 2 → s.mod.binding p ≠ 0xFFFF → s.mod.binding p % 256 ≠ 0xFF → (s.mod.edge p).farVcs = none →
        (m.vppb (s.mod.binding p / 256) (s.mod.binding p % 256)).present = true ∧ (m.vppb (s.mod.binding p / 256) (s.mod.binding p % 256)).pdChanged = true ∧
        (m.vppb (s.mod.binding p / 256) (s.mod.binding p % 256)).linkActive = true)) ∧
  (∀ (p : EdgePort) (s : State), s.mod.lead p = p → (s.mod.edge p).prsnt = true →
    Answers (.removalPrsnt p) s fun m =>
      (m.edge p).prsnt = false ∧
      ((s.mod.edge p).hotAdd = .counting → m = s.mod.onEdge p fun x => { x with prsnt := false, hotAdd := .none }) ∧
      ((s.mod.edge p).hotAdd ≠ .counting → m.now = s.mod.now + 10000) ∧
      ((s.mod.edge p).hotAdd = .up → (m.edge p).dllUp = false ∧ (s.mod.role p ≠ 1 → (m.edge p).hotAdd = .none)) ∧
      ((s.mod.edge p).hotAdd = .up → s.mod.role p = 2 → s.mod.objv (mkOid 4 p.val 10) = 1 → (m.edge p).dpc = true)) ∧
  (∀ (p : EdgePort) (s : State), s.mod.lead p = p → (s.mod.edge p).dllUp = true →
    Answers (.removalLinkDown p) s fun m =>
      (m.edge p).dllUp = false ∧ (m.edge p).wasUp = false ∧ ((m.edge p).link = .detect ∨ (m.edge p).link = .disabled) ∧
      (m.edge p).prsnt = (s.mod.edge p).prsnt ∧ m.now = s.mod.now ∧
      (s.mod.role p = 2 → s.mod.objv (mkOid 4 p.val 10) = 1 → (m.edge p).dpc = true) ∧
      (s.mod.role p ≠ 1 → (m.edge p).hotAdd = if (s.mod.edge p).prsnt && decide (s.mod.objv (mkOid 4 p.val 1) = 1) then .counting else .none)) ∧
  (∀ (sw : Option SwitchId) (v : Vcs) (n : Vppb) (s : State),
    Answers (.dpcTriggerClear ⟨sw, v⟩ n) s fun m =>
      m.vppb v n = (if sw = none then { s.mod.vppb v n with dpcTriggered := false } else s.mod.vppb v n) ∧ m.sw = s.mod.sw ∧ m.di = s.mod.di ∧
      ∀ q, s.mod.devicePort (sw.map (·.val)) v n = some q →
        m.edge q = { s.mod.edge q with farTrig := false, dpc := (s.mod.edge q).dpc && !decide ((s.mod.edge q).hotAdd ∈ [.powered, .released, .up]) }) ∧
  (∀ (sw : Option SwitchId) (v : Vcs) (n : Vppb) (q : Nat) (s : State), s.mod.devicePort (sw.map (·.val)) v n = some q → (s.mod.edge q).unbind.isSome = true →
    Answers (.hostSlotPowerOff ⟨sw, v⟩ n) s fun m =>
      m.binding q = 0xFFFF ∧ (m.edge q).unbind = none ∧ (m.edge q).farVcs = none ∧ m.now = s.mod.now ∧ m.md = s.mod.md) ∧
  (∀ (p : EdgePort) (t b : Nat) (s : State), s.mod.lead p = p → (s.mod.edge p).unbind = some (t, b) →
    Answers (.unbindGraceExpiry p) s fun m => m.now = max s.mod.now t ∧ (m.edge p).unbind = none ∧ (m.edge p).farVcs = none ∧ m.md = s.mod.md)

/-- IDE failure and resets (IDE_INTEGRITY_FAILURE, HOT_RESET, HOST_PERST_ASSERT, HOST_PERST_RELEASE, SECONDARY_BUS_RESET, RESET_PROPAGATE_REMOTE,
RESET_MESSAGE_RECEIVED). -/
def Obligations.IdeFailureAndResets : Prop :=
  (∀ (p : EdgePort) (i : Fin 6) (s : State), s.mod.lead p = p → (s.mod.ideSt p i).state = 2 →
    Answers (.ideIntegrityFailure p i) s fun m =>
      m.ideSt p i = { s.mod.ideSt p i with state := 3 } ∧ m.edge p = { s.mod.edge p with stopped := true } ∧ m.now = s.mod.now ∧ m.lk = s.mod.lk) ∧
  (∀ (p : EdgePort) (s : State), s.mod.lead p = p → (s.mod.edge p).dllUp = true →
    Answers (.hotReset p) s fun m =>
      (m.edge p).dllUp = false ∧ ((m.edge p).link = .hotReset ∨ (m.edge p).link = .disabled) ∧ (m.edge p).viral = false ∧ (∀ i, i < 6 → m.ideSt p i = {}) ∧
      m.now = s.mod.now) ∧
  (∀ (p : EdgePort) (s : State), s.mod.lead p = p → s.mod.role p = 1 → (s.mod.edge p).perst = false →
    Answers (.hostPerstAssert p) s fun m =>
      (m.edge p).perst = true ∧ (m.edge p).dllUp = false ∧ (m.edge p).wasUp = (s.mod.edge p).wasUp ∧ (∀ i, i < 6 → m.ideSt p i = {}) ∧ m.now = s.mod.now) ∧
  (∀ (p : EdgePort) (s : State), s.mod.lead p = p → s.mod.role p = 1 → (s.mod.edge p).perst = true →
    Answers (.hostPerstRelease p) s fun m =>
      m = s.mod.onEdge p fun x => { x with perst := false, link := if s.mod.objv (mkOid 4 p.val 1) = 1 then .training else .disabled }) ∧
  (∀ (v : Vcs) (n : Vppb) (sw q : Nat) (s : State), s.mod.boundPort v n = some (sw, q) →
    Answers (.secondaryBusReset v n) s fun m =>
      (sw = s.mod.rt.id → (m.edge q).dllUp = false ∧ ((m.edge q).link = .hotReset ∨ (m.edge q).link = .disabled)) ∧
      (sw ≠ s.mod.rt.id → m.vppb v n = { s.mod.vppb v n with resetHold := true } ∧ m.edge q = s.mod.edge q)) ∧
  (∀ (v : Vcs) (n : Vppb) (sw q : Nat) (s : State), (s.mod.vppb v n).resetHold = true → (s.mod.vppb v n).remote = some (sw, q) → sw ≠ s.mod.rt.id →
    (∀ x ∈ s.mod.sw.trk, x.2.kind = 1 ∨ x.2.kind = 2 → x.2.orphan = false → x.2.dest = sw → x.2.destPort ≠ q) →
    Answers (.resetPropagateRemote v n) s fun m =>
      m.vppb v n = { s.mod.vppb v n with resetHold := false } ∧
      ∃ h : Held, h.pkt = tc7Pkt s.mod.rt.id sw 7 q [] ∧ m.sw = { s.mod.sw with nextId := s.mod.sw.nextId + 1, waiting := s.mod.sw.waiting ++ [h] }) ∧
  (∀ (i : Nat) (m1 : Mod) (x : Pkt) (s : State), s.mod.takeInbox i (fun p => decide (p.tc = 7) && decide (fld p.body 56 8 = 7)) = (m1, some x) →
    fld x.body 0 56 < 48 → s.mod.role (s.mod.lead (fld x.body 0 56)) = 2 →
    Answers (.resetMessageReceived i) s fun m =>
      (m.edge (s.mod.lead (fld x.body 0 56))).dllUp = false ∧ (m.edge (s.mod.lead (fld x.body 0 56))).viral = false ∧
      ((m.edge (s.mod.lead (fld x.body 0 56))).link = .hotReset ∨ (m.edge (s.mod.lead (fld x.body 0 56))).link = .disabled) ∧ m.now = s.mod.now)

/-- The edge snoop filter's hosts, and lane tests (HOST_CACHE_SCAN_DONE, BISNP_RESPONSE, BICONFLICT, HOST_WRITEBACK, MARGIN_RUN_DONE, CHECKER_LOCK,
CHECKER_LOCK_LOSS). Work that an answer sets free is done within the same command: that is settle. -/
def Obligations.HostAnswersAndLaneTests : Prop :=
  (∀ (i p n : Nat) (s : State), s.mod.ed.scans[i]? = some (p, n) →
    Answers (.hostCacheScanDone i) s fun m =>
      m.ed = { s.mod.ed with scans := s.mod.ed.scans.take i ++ s.mod.ed.scans.drop (i + 1) } ∧ m.di = s.mod.di ∧ m.ca = s.mod.ca) ∧
  (∀ (p : EdgePort) (i : Nat) (dirty : Option Nat) (poison : Bool) (x : Snoop) (s : State), s.mod.lead p = p → (s.mod.edge p).stopped = false →
    (s.mod.outSnoops p)[i]? = some x →
    Answers (.bisnpResponse p i dirty poison) s fun m => ∃ m1 : Mod,
      m = m1.settle ∧ m1.ed.snoops.length + 1 = s.mod.ed.snoops.length ∧ (x.conflict = true → m1.out = s.mod.out ++ [.biConflictAck p.val x.line]) ∧
      (x.conflict = false → m1.out = s.mod.out) ∧ (dirty = none → m1.ca = s.mod.ca) ∧
      (∀ d, dirty = some d → (s.mod.cline x.line).st ≠ .i →
        m1.cline x.line = { s.mod.cline x.line with data := writeMask fullMask d (s.mod.cline x.line).data, poison := poison, st := if (s.mod.cline x.line).st = .e then .m else (s.mod.cline x.line).st })) ∧
  (∀ (p : EdgePort) (i : Nat) (x : Snoop) (s : State), s.mod.lead p = p → (s.mod.outSnoops p)[i]? = some x →
    Answers (.biconflict p i) s fun m =>
      m.ed.snoops = (s.mod.ed.snoops.map fun y => if y = x then { y with conflict := true } else y) ∧ m.ed.ports = s.mod.ed.ports ∧ m.ca = s.mod.ca ∧
      m.sw = s.mod.sw ∧ m.out = s.mod.out) ∧
  (∀ (p : EdgePort) (i tag mask data : Nat) (poison : Bool) (x : Snoop) (s : State), s.mod.lead p = p → (s.mod.edge p).stopped = false →
    (s.mod.outSnoops p)[i]? = some x →
    (s.mod.cline x.line).st ≠ .i →
    Answers (.hostWriteback p i tag mask data poison) s fun m => ∃ m1 : Mod,
      m = m1.settle ∧ m1.ed = s.mod.ed ∧ (m1.cline x.line).data = writeMask (mask % 2 ^ 64) data (s.mod.cline x.line).data ∧
      (m1.cline x.line).st = (if (s.mod.cline x.line).st = .e then .m else (s.mod.cline x.line).st) ∧
      (m1.cline x.line).poison = if mask % 2 ^ 64 = fullMask then poison else (s.mod.cline x.line).poison || poison) ∧
  (∀ (p : EdgePort) (i tag mask data : Nat) (dirty : Option Nat) (poison : Bool) (s : State), s.mod.lead p = p → (s.mod.edge p).stopped = true →
    Answers (.bisnpResponse p i dirty poison) s (fun m => m = s.mod) ∧ Answers (.hostWriteback p i tag mask data poison) s fun m => m = s.mod) ∧
  (∀ (l : Lane) (errors : Nat) (s : State), 5 ≤ fld (s.mod.lane l).test 29 3 → (s.mod.lane l).done = false → s.mod.laneLive l = true →
    Answers (.marginRunDone l errors) s fun m =>
      m.now = max s.mod.now ((s.mod.lane l).runStart + 10 * 2 ^ 32 / symbolRate (s.mod.lane l).rate) ∧
      m.lane l = { s.mod.lane l with done := true, abort := false, errors := min errors (2 ^ 32), symbols := 2 ^ 32 }) ∧
  (∀ (l : Lane) (errors symbols : Nat) (s : State), (s.mod.lane l).checking = true →
    Answers (.checkerLock l errors symbols) s fun m =>
      m.lane l = if (s.mod.lane l).lock
        then { s.mod.lane l with errors := ((s.mod.lane l).errors + errors) % 2 ^ 64, symbols := ((s.mod.lane l).symbols + symbols) % 2 ^ 64 }
        else { s.mod.lane l with lock := true }) ∧
  (∀ (l : Lane) (errors symbols : Nat) (s : State), (s.mod.lane l).checking = true → (s.mod.lane l).lock = true →
    Answers (.checkerLockLoss l errors symbols) s fun m =>
      m.lane l = { s.mod.lane l with lock := false, errors := ((s.mod.lane l).errors + errors) % 2 ^ 64, symbols := ((s.mod.lane l).symbols + symbols) % 2 ^ 64 } ∧
      m.objv (mkOid 3 l.val 9) = (s.mod.objv (mkOid 3 l.val 9) + 1) % 2 ^ 32)

/-- Records and routes (RECORD_RECEIVED, RECORD_ORIGINATE, RECORD_PURGE, ROUTE_COMPUTE_START, ROUTE_COMPUTE_DONE). In automatic mode a computation
leaves every destination of its records with the entry computed for it. -/
def Obligations.RecordsAndRoutes : Prop :=
  (∀ (n : FabPort) (r : LinkRecord) (s : State), s.mod.se.live = none → r.id ≠ s.mod.rt.id → r.id ≠ 0 →
    (∀ x ∈ s.mod.rt.db, x.lsr.id = r.id → x.lsr.epoch = r.epoch → recAhead r.seq x.lsr.seq = true) →
    (s.mod.rt.db.filter fun x => decide (x.lsr.id = 0) == decide (r.id = 0)).length < 4094 →
    Answers (.recordReceived n r) s fun m =>
      { lsr := r, at_ := s.mod.now } ∈ m.rt.db ∧ (∀ x ∈ m.rt.db, x.lsr.id = r.id → x.lsr = r) ∧ m.rt.changedAt = some (s.mod.rt.changedAt.getD s.mod.now)) ∧
  (∀ (n : FabPort) (r : LinkRecord) (x : StoredRec) (s : State), s.mod.se.live = none → r.id ≠ s.mod.rt.id → r.id ≠ 0 →
    s.mod.rt.db.find? (fun x => decide (x.lsr.id = r.id)) = some x → x.lsr.epoch = r.epoch → recAhead r.seq x.lsr.seq = false →
    Answers (.recordReceived n r) s fun m => m = s.mod) ∧
  (∀ (n : FabPort) (r : LinkRecord) (k last : Nat) (s : State), s.mod.se.live = none → r.id = s.mod.rt.id → r.id ≠ 0 → r.epoch < s.mod.lk.epoch →
    s.mod.rt.foreign.find? (fun x => decide (x.1 = r.epoch)) = some (k, last) → recAhead r.seq last = true →
    Answers (.recordReceived n r) s fun m => m.rt.dup = true ∧ m.rt.db = s.mod.rt.db ∧ m.rt.id = s.mod.rt.id) ∧
  (∀ (s : State), s.mod.se.live = none → s.mod.md.mode.pastBootMode = true →
    Answers .recordOriginate s fun m =>
      m.now = max s.mod.now (match s.mod.rt.lastOrig with | some t => if s.mod.rt.dirty then t + ms else t + 30 * sec | none => s.mod.now) ∧
      m.rt.seq = (s.mod.rt.seq + 1) % 2 ^ 32 ∧ m.rt.dirty = false ∧ m.rt.lastOrig = some m.now ∧
      ∃ r : LinkRecord, m.rt.own = some r ∧ r.id = s.mod.rt.id ∧ r.epoch = s.mod.lk.epoch ∧ r.seq = m.rt.seq ∧ r.leaving = s.mod.rt.leaving) ∧
  (∀ (id epoch : Nat) (x : StoredRec) (s : State), s.mod.rt.db.find? (fun x => decide (x.lsr.id = id ∧ x.lsr.epoch = epoch)) = some x →
    Answers (.recordPurge id epoch) s fun m =>
      m.now = max s.mod.now (x.at_ + 120 * sec) ∧ (∀ y ∈ m.rt.db, ¬(y.lsr.id = id ∧ y.lsr.epoch = epoch)) ∧
      (∀ y ∈ s.mod.rt.db, ¬(y.lsr.id = id ∧ y.lsr.epoch = epoch) → y ∈ m.rt.db) ∧ m.rt.changedAt = some (s.mod.rt.changedAt.getD m.now)) ∧
  (∀ (t : Nat) (s : State), s.mod.se.live = none → s.mod.rt.changedAt = some t → s.mod.rt.computing = none →
    Answers .routeComputeStart s fun m =>
      m.now = max s.mod.now (t + s.mod.objv 0x601400 * 1000) ∧ m.rt = { s.mod.rt with changedAt := none, computing := some s.mod.allRecords }) ∧
  (∀ (rs : List LinkRecord) (s : State), s.mod.se.live = none → s.mod.rt.computing = some rs → s.mod.objv 0x601000 = 0 →
    Answers .routeComputeDone s fun m =>
      m.rt.computing = none ∧ m.rt.db = s.mod.rt.db ∧
      ∀ r ∈ rs, r.id ≠ s.mod.rt.id → r.id ≠ 0 → m.objv (bearingOid r.id) = (computeEntry rs s.mod.rt.id (s.mod.objv 0x601100) r.id).1.getD 0)

/-- Meridian time between modules (SYNC_SEND, SYNC_RECEIVED, DELAY_REQ_RECEIVED, DELAY_RESP_RECEIVED, TIME_HOLDOVER). -/
def Obligations.TimeExchangeAndHoldover : Prop :=
  (∀ (n : FabPort) (a b : Nat) (s : State), s.mod.se.live = none → (s.mod.link n).st = .active → s.mod.hopsToGm s.mod.rt.id = some a →
    s.mod.hopsToGm (s.mod.nbrOf n) = some b → a < b ∨ (a = b ∧ s.mod.rt.id < s.mod.nbrOf n) →
    Answers (.syncSend n) s fun m => ∃ h : Held,
      h.pkt = tc7Pkt s.mod.rt.id (s.mod.nbrOf n) 3 0 (timeWords s.mod.ti.count) ∧ h.target = some (48 + n.val) ∧
      m.sw = { s.mod.sw with nextId := s.mod.sw.nextId + 1, waiting := s.mod.sw.waiting ++ [h] } ∧ m.ti = s.mod.ti) ∧
  (∀ (n : FabPort) (t1 : Nat) (s : State), s.mod.se.live = none → (s.mod.link n).st = .active →
    Answers (.syncReceived n t1) s fun m =>
      (tget {} n.val m.ti.ex).t1 = t1 ∧ (tget {} n.val m.ti.ex).t2 = s.mod.ti.count ∧ (tget {} n.val m.ti.ex).t3 = s.mod.ti.count ∧
      (tget {} n.val m.ti.ex).open_ = true ∧ m.ti.lastSync = (if s.mod.ti.parent = some n.val then s.mod.now else s.mod.ti.lastSync) ∧ m.ti.count = s.mod.ti.count ∧
      ∃ h : Held, h.pkt = tc7Pkt s.mod.rt.id (s.mod.nbrOf n) 4 0 [] ∧ h.target = some (48 + n.val) ∧
        m.sw = { s.mod.sw with nextId := s.mod.sw.nextId + 1, waiting := s.mod.sw.waiting ++ [h] }) ∧
  (∀ (n : FabPort) (s : State), s.mod.se.live = none → (s.mod.link n).st = .active →
    Answers (.delayReqReceived n) s fun m => ∃ h : Held,
      h.pkt = tc7Pkt s.mod.rt.id (s.mod.nbrOf n) 5 0 (timeWords s.mod.ti.count) ∧ h.target = some (48 + n.val) ∧
      m.sw = { s.mod.sw with nextId := s.mod.sw.nextId + 1, waiting := s.mod.sw.waiting ++ [h] } ∧ m.ti = s.mod.ti) ∧
  (∀ (n : FabPort) (t4 : Nat) (s : State), s.mod.se.live = none → (tget {} n.val s.mod.ti.ex).open_ = true →
    Answers (.delayRespReceived n t4) s fun m =>
      let x := tget {} n.val s.mod.ti.ex
      let there : Int := (x.t2 : Int) - x.t1
      let back : Int := (t4 : Int) - x.t3
      let off : Int := (there - back) / 2 - ofS32 (s.mod.objv (mkOid 6 0x42 (1 + n.val))) * 65536 / 1000
      (tget {} n.val m.ti.ex).open_ = false ∧ m.objv (mkOid 6 0x41 (1 + n.val)) = toS32 ((there + back) / 2 * 1000 / 65536) ∧
      (s.mod.ti.parent ≠ some n.val → m.ti.count = s.mod.ti.count ∧ m.ti.trim = s.mod.ti.trim ∧ m.ti.st = s.mod.ti.st) ∧
      (s.mod.ti.parent = some n.val →
        m.ti.st = .locked ∧ m.ti.locked = true ∧ m.ti.firstLock = false ∧ -500000 ≤ m.ti.trim ∧ m.ti.trim ≤ 500000 ∧
        m.objv 0x603400 = toS32 (off * 1000 / 65536) ∧
        (s.mod.ti.firstLock = true → m.ti.count = ((s.mod.ti.count : Int) - off).toNat) ∧
        (s.mod.ti.firstLock = false → 0 ≤ off → m.ti.count = s.mod.ti.count) ∧
        (s.mod.ti.firstLock = false → off < -((s.mod.objv 0x603600 : Int) * 65536) → m.ti.count = ((s.mod.ti.count : Int) - off).toNat))) ∧
  (∀ (p : Nat) (s : State), s.mod.ti.st = .locked → s.mod.ti.parent = some p →
    Answers .timeHoldover s fun m =>
      m.now = max s.mod.now (s.mod.ti.lastSync + 3 * ms) ∧ m.ti.st = .holdover ∧ m.ti.locked = false ∧ m.ti.trim = s.mod.ti.trim ∧ m.ti.gm = s.mod.ti.gm)

/-- Packets through the switch core (PACKET_ADMIT, DEQUEUE_DECISION, UNDERRUN_TIMEOUT, AGE_CHECK, HIGH_WATER_READ, GATE_ENTRY_CHANGE). -/
def Obligations.PacketsThroughTheSwitchCore : Prop :=
  (∀ (i : Nat) (h : Held) (s : State), s.mod.forwards = true → s.mod.sw.waiting[i]? = some h → s.mod.sw.waiting.find? (fun x => decide (x.id = h.id)) = some h →
    h.die ∉ s.mod.md.dieStopped → h.refs = [] → h.target = none → h.pkt.dest = s.mod.rt.id → 4 * h.pkt.len ≤ h.got →
    s.mod.pruneKept.keptBack i h none = false → h.pkt.tc ≠ 7 ∨ (h.pkt.fmt = 1 ∧ 6 ≤ fld h.pkt.body 56 8 ∧ fld h.pkt.body 56 8 ≤ 7) →
    Answers (.packetAdmit i .none) s fun m => ∃ m1 : Mod,
      m = m1.settle ∧ m1.sw.inbox = s.mod.sw.inbox ++ [{ id := h.id, port := h.port, pkt := (hopped h).pkt }] ∧
      m1.sw.waiting = (s.mod.sw.waiting.filter fun x => decide (x.id ≠ h.id)) ∧ m1.sw.queues = s.mod.sw.queues) ∧
  (∀ (i : Nat) (h : Held) (s : State), s.mod.forwards = true → s.mod.sw.waiting[i]? = some h → s.mod.sw.waiting.find? (fun x => decide (x.id = h.id)) = some h →
    h.die ∉ s.mod.md.dieStopped → h.refs = [] → h.target = none → h.pkt.dest = s.mod.rt.id → 4 * h.pkt.len ≤ h.got →
    s.mod.pruneKept.keptBack i h none = false → h.pkt.tc = 7 → h.pkt.fmt ≠ 1 ∨ fld h.pkt.body 56 8 = 0 ∨ 7 < fld h.pkt.body 56 8 →
    Answers (.packetAdmit i .none) s fun m => ∃ m1 : Mod,
      m = m1.settle ∧ m1.sw.inbox = s.mod.sw.inbox ∧ m1.sw.waiting = (s.mod.sw.waiting.filter fun x => decide (x.id ≠ h.id)) ∧
      m1.objv 0x600600 = (s.mod.objv 0x600600 + 1) % 2 ^ 64) ∧
  (∀ (i : Nat) (h : Held) (t need : Nat) (s : State), s.mod.forwards = true → s.mod.sw.waiting[i]? = some h →
    s.mod.sw.waiting.find? (fun x => decide (x.id = h.id)) = some h → h.die ∉ s.mod.md.dieStopped → h.refs = [] → h.target = some t → t < 64 →
    s.mod.pruneKept.keptBack i h (some (queueToward h.die t h.pkt.tc)) = false → (48 ≤ t → (s.mod.link (t - 48)).st ≠ .retired) →
    s.mod.pruneKept.admitNeed (queueToward h.die t h.pkt.tc) (pktCells h.pkt) = some need →
    Answers (.packetAdmit i .none) s fun m => ∃ m1 : Mod,
      m = m1.settle ∧ (∀ x ∈ m1.sw.waiting, x.id ≠ h.id) ∧
      (∃ e ∈ m.queue (queueToward h.die t h.pkt.tc), e.held.id = h.id ∧ e.held.pkt = h.pkt ∧ e.cells = pktCells h.pkt ∧ e.shared = need) ∧
      m1.sharedUsed h.die = s.mod.sharedUsed h.die + need) ∧
  (∀ (p : EdgePort) (credits : Nat) (e : QEnt) (s : State), s.mod.forwards = true → dieOfPort p ∉ s.mod.md.dieStopped → s.mod.midPacket p = false →
    (s.mod.sched p).rrControl = false → s.mod.headOf p credits 1 = some e → 4 * e.held.pkt.len ≤ e.held.got → e.held.pkt.tc = 1 →
    Answers (.dequeueDecision (.port (Fin.ofNat 64 p)) credits .none) s fun m =>
      s.mod.out ++ [edgeOut p e.held e.held.pkt] <+: m.out ∧ (m.sched p).rrControl = true ∧
      ∀ x ∈ m.queue (qKey p 1), x.held.id ≠ e.held.id ∨ x.held.pkt.dest ≠ e.held.pkt.dest) ∧
  (∀ (n : FabPort) (credits : Nat) (e : QEnt) (s : State), s.mod.forwards = true → dieOfPort (48 + n.val) ∉ s.mod.md.dieStopped →
    s.mod.midPacket (48 + n.val) = false → (s.mod.sched (48 + n.val)).rrControl = true → s.mod.headOf (48 + n.val) credits 7 = some e →
    4 * e.held.pkt.len ≤ e.held.got →
    Answers (.dequeueDecision (.port (Fin.ofNat 64 (48 + n.val))) credits .none) s fun m =>
      ((m.link n).tx.map (·.w)) = ((s.mod.link n).tx.map (·.w)) ++ pktWords e.held.pkt ∧ (m.sched (48 + n.val)).rrControl = false ∧
      (m.link n).used = (s.mod.link n).used ∧
      ∃ ws : List TxWord, (m.link n).tx = (s.mod.link n).tx ++ ws ∧ (ws.map (·.head)).head? = some (some (e.held.pkt.tc, e.held.pkt.len)) ∧
        ∀ x ∈ (ws.map (·.head)).tail, x = none) ∧
  (∀ (p : PortIx) (k : Nat) (e : QEnt) (s : State),
    (List.range 8).findSome? (fun c =>
      ((s.mod.queue (qKey p c)).find? fun e => e.cut && !e.resend && decide (e.held.got < 4 * e.held.pkt.len)).map fun e => (qKey p c, e)) = some (k, e) →
    Answers (.underrunTimeout p) s fun m =>
      m.now = s.mod.now + s.mod.objv 0x703200 ∧
      (48 ≤ p.val → (∃ rest : List TxWord,
          (m.link (p.val - 48)).tx = (s.mod.link (p.val - 48)).tx ++ rest ++ [{ w := hdrWord { e.held.pkt with fmt := 3, len := 0 } }, { w := 0, fin := true }] ∧
          rest.length = 4 * e.held.pkt.len - e.sent ∧ ∀ x ∈ rest, x.w = 0) ∧
        ∀ x ∈ m.queue k, x.held.id = e.held.id → x.resend = true ∧ x.cut = false ∧ x.sent = 0) ∧
      (p.val < 48 → m.out.getLast? = some (edgeOut p e.held { e.held.pkt with data := e.held.pkt.data ++ List.replicate (4 * e.held.pkt.len - e.held.pkt.data.length) 0, poison := true }) ∧
        tget none e.held.id m.sw.remnants = some p.val)) ∧
  (∀ (p : PortIx) (c : Tc) (t : Tenant) (b : Bool) (e : QEnt) (s : State), s.mod.agedHead p c t b = some e →
    Answers (.ageCheck p c t b) s fun m =>
      m.now = s.mod.now + 1000 ∧
      (c.val ≤ 2 → m = s.mod.advance 1000) ∧
      (3 ≤ c.val → s.mod.objv (mkOid 7 (0x20 + c.val) 2) * 1000 < tget 0 (qKey p c) (s.mod.advance 1000).sw.age - e.stamp →
        ∀ x ∈ m.queue (qKey p c), x.held.id ≠ e.held.id ∨ x.held.pkt.dest ≠ e.held.pkt.dest)) ∧
  (∀ (p : PortIx) (tq : Bool) (q : Fin 256) (b : Bool) (s : State),
    Answers (.highWaterRead p tq q b) s fun m =>
      let oid := if tq then tqHw p b q else cqHw p (q.val % 8)
      m.objv oid = 0 ∧ ∃ v, m.out = s.mod.out ++ [.value .mgmtPf v] ∧ v % 2 ^ 32 = fld (s.mod.objv oid) 0 18 ∧ fld (s.mod.objv oid) 32 32 ≤ v / 2 ^ 32) ∧
  (∀ (p : PortIx) (e pos : Nat) (s : State), s.mod.gatePos p = some (e, pos) →
    Answers (.gateEntryChange p) s fun m => m = s.mod.advance (((s.mod.gateList p).getD e (0, 0)).2 - pos))

/-- The tracker, the bridge's CRC and the sampler (TRACKER_RESPONSE, COMPLETION_TIMEOUT, ORPHAN_HOLD_TIMEOUT, BRIDGE_CRC_FAIL, SAMPLER_VISIT). A sample
lands in the die's ring at its producer index, and nowhere else. -/
def Obligations.TrackerBridgeCrcAndSampler : Prop :=
  (∀ (tid code k : Nat) (poison : Bool) (words : List Nat) (s : State), s.mod.trkOfTid (tid % 2 ^ 24) = some k →
    (s.mod.trk k).orphan = true ∨ code ≠ 0 ∨ (s.mod.trk k).kind = 1 ∨ (s.mod.trk k).kind = 2 →
    Answers (.trackerResponse tid code poison words) s fun m => ∃ m1 : Mod,
      m = m1.settle ∧ (m1.trk k).kind = 0 ∧ ((s.mod.trk k).orphan = true → m1.trk k = { gen := ((s.mod.trk k).gen + 1) % 128 }) ∧ m1.now = s.mod.now) ∧
  (∀ (tid code : Nat) (poison : Bool) (words : List Nat) (s : State), s.mod.trkOfTid (tid % 2 ^ 24) = none →
    Answers (.trackerResponse tid code poison words) s fun m => ∃ m1 : Mod,
      m = m1.settle ∧ m1.sw = s.mod.sw ∧ m1.out = s.mod.out ∧
      m1.objv (mkOid 7 (0x10 + tid % 2 ^ 24 / 65536 % 2) 12) = (s.mod.objv (mkOid 7 (0x10 + tid % 2 ^ 24 / 65536 % 2) 12) + 1) % 2 ^ 64) ∧
  (∀ (k : Fin 131072) (t : Nat) (s : State), (s.mod.trk k).deadline = some t → (s.mod.trk k).kind ≠ 0 → (s.mod.trk k).orphan = false →
    Answers (.completionTimeout k) s fun m => ∃ m1 : Mod,
      m = m1.settle ∧ m1.now = max s.mod.now t ∧ m1.trk k = { s.mod.trk k with orphan := true, orphanAt := m1.now, deadline := none }) ∧
  (∀ (k : Fin 131072) (s : State), (s.mod.trk k).kind ≠ 0 → (s.mod.trk k).orphan = true →
    Answers (.orphanHoldTimeout k) s fun m =>
      m.now = max s.mod.now ((s.mod.trk k).orphanAt + s.mod.objv 0x703100 * sec) ∧ m.trk k = { gen := ((s.mod.trk k).gen + 1) % 128 } ∧
      ∀ j, j ≠ k.val → m.trk j = s.mod.trk j) ∧
  (∀ (d : Die) (c : Tc) (words last : Bool) (s : State),
    Answers (.bridgeCrcFail d c words last) s fun m =>
      let n := tget 0 d.val s.mod.sw.bridgeReplays + 1
      (last = true ∨ n < 3 → words = false → m.sw = { s.mod.sw with bridgeReplays := tset 0 d.val (if last then 0 else n) s.mod.sw.bridgeReplays } ∧ m.md = s.mod.md) ∧
      (last = false → 3 ≤ n → 2 ≤ s.mod.md.mode.code → s.mod.md.mode ≠ .fault → m.md.mode = .fault ∧ d.val ∈ m.md.dieStopped)) ∧
  (∀ (d : Die) (x : Nat × Bool × Bool × Nat) (s : State), bit (s.mod.objv (mkOid 8 (0x900 + d.val) 1)) 31 = true →
    bit (s.mod.objv (mkOid 8 (0x900 + d.val) 1)) 27 = false → (s.mod.sampled d)[(tget {} d.val s.mod.sc.samplers).pos]? = some x →
    Answers (.samplerVisit d) s fun m =>
      let el := fun (k : Nat) => s.mod.objv (mkOid 8 (0x900 + d.val) k)
      let lost := (tget {} d.val s.mod.sc.samplers).lost
      m.now = s.mod.now + el 8 ∧ (tget {} d.val m.sc.samplers).pos = (tget {} d.val s.mod.sc.samplers).pos + 1 ∧
      ((el 5 + 2 ^ 32 - el 6) % 2 ^ 32 < el 4 / 16 →
        m.objv (mkOid 8 (0x900 + d.val) 5) = (el 5 + 1) % 2 ^ 32 ∧
        m.sv.service = s.mod.sv.service.put (el 3 + 16 * (el 5 % (el 4 / 16))) (leBytes 16 ((s.mod.advance (el 8)).sampleRecord x lost)) ∧
        ∀ a, a < el 3 + 16 * (el 5 % (el 4 / 16)) ∨ el 3 + 16 * (el 5 % (el 4 / 16)) + 16 ≤ a → m.sv.service.read a = s.mod.sv.service.read a) ∧
      (el 4 / 16 ≤ (el 5 + 2 ^ 32 - el 6) % 2 ^ 32 →
        m.sv.service = s.mod.sv.service ∧ m.objv (mkOid 8 (0x900 + d.val) 5) = el 5 ∧ (tget {} d.val m.sc.samplers).lost = true))

/-- Extents: binding, release and unbinding (BIND_RESPONSE, ADD_CAPACITY_RESPONSE, HOST_RELEASE_CAPACITY, UNBIND_RESPONSE, RELEASE_GRACE_TIMEOUT), and
the hot-unit monitor (HOT_UNIT_WINDOW). -/
def Obligations.ExtentsBindAndRelease : Prop :=
  (∀ (e : Fin 4096) (res d0 : Nat) (s : State), extState (s.mod.objv (extOid e)) = 2 → (s.mod.extAux e).size = none →
    Answers (.bindResponse e res d0) s fun m =>
      let v := s.mod.objv (extOid e)
      (fld res 61 3 ≠ 0 → m.objv (extOid e) = setFld (setFld v 61 3 7) 0 3 (fld res 61 3)) ∧
      (fld res 61 3 = 0 → s.mod.spanFree e (extVcs v) (extRegion v) (extBlock v) (2 ^ fld d0 58 3) = true →
        extHome v = s.mod.rt.id ∨ (s.mod.remoteIx (extHome v) (extDesc v)).isSome = true ∨ s.mod.freeRemote.isSome = true →
        (m.extAux e).size = some (fld d0 58 3) ∧ (m.extAux e).policy = fld d0 52 2 ∧ m.objv (extOid e) = setFld v 3 1 (fld res 60 1) ∧
        m.out = s.mod.out ++ [.capacity (extVcs v) 1 e.val (dpaOf (extRegion v) (extBlock v))])) ∧
  (∀ (e : Fin 4096) (accept : Bool) (s : State), extState (s.mod.objv (extOid e)) = 2 → (s.mod.extAux e).size.isSome = true →
    Answers (.addCapacityResponse e accept) s fun m =>
      (accept = true → m.objv (extOid e) = setFld (s.mod.objv (extOid e)) 61 3 3) ∧
      (accept = false → m.objv (extOid e) = setFld (setFld (s.mod.objv (extOid e)) 61 3 7) 0 3 4)) ∧
  (∀ (e : Fin 4096) (s : State), extState (s.mod.objv (extOid e)) = 6 → (s.mod.extAux e).flushing = false →
    Answers (.hostReleaseCapacity e) s fun m => m.objv (extOid e) = 0 ∧ m.extAux e = {} ∧ m.ca = s.mod.ca ∧ m.sw = s.mod.sw) ∧
  (∀ (e : Fin 4096) (s : State), 3 ≤ extState (s.mod.objv (extOid e)) → extState (s.mod.objv (extOid e)) ≤ 5 → (s.mod.extAux e).unbinding = false →
    (s.mod.extAux e).flushing = false →
    Answers (.hostReleaseCapacity e) s fun m => ∃ m1 : Mod,
      m = m1.settle ∧ m1.objv (extOid e) = setFld (s.mod.objv (extOid e)) 61 3 5 ∧ (m1.extAux e).freed = true ∧ (m1.extAux e).flushing = true ∧
      m1.sw = s.mod.sw) ∧
  (∀ (e : Fin 4096) (s : State), (s.mod.extAux e).unbinding = true →
    Answers (.unbindResponse e) s fun m =>
      let st := extState (s.mod.objv (extOid e))
      (st = 7 ∨ (st = 6 ∧ (s.mod.extAux e).freed = false) →
        m.extAux e = { s.mod.extAux e with unbinding := false, flushing := false, askedAt := none } ∧ m.objv (extOid e) = s.mod.objv (extOid e)) ∧
      (st ≠ 7 → ¬(st = 6 ∧ (s.mod.extAux e).freed = false) → m.extAux e = {} ∧ m.objv (extOid e) = 0)) ∧
  (∀ (e : Fin 4096) (t : Nat) (s : State), extState (s.mod.objv (extOid e)) = 5 → (s.mod.extAux e).askedAt = some t → (s.mod.extAux e).flushing = false →
    (s.mod.extAux e).unbinding = false →
    Answers (.releaseGraceTimeout e) s fun m => ∃ m1 : Mod,
      m = m1.settle ∧ m1.now = max s.mod.now (t + s.mod.objv 0x900900 * ms) ∧ m1.objv (extOid e) = setFld (s.mod.objv (extOid e)) 61 3 6 ∧
      (m1.extAux e).askedAt = none ∧ (m1.extAux e).flushing = true) ∧
  (∀ (s : State),
    Answers .hotUnitWindow s fun m =>
      m.now = max s.mod.now s.mod.po.windowEnd ∧ m.po.hits = [] ∧ m.po.windowEnd = m.now + s.mod.objv 0x900800 * 1000 ∧ m.po.migs = s.mod.po.migs)

/-- Partner copies, moved homes, migration and re-initialisation (PARTNER_COPY_RETRY, HOME_MOVE_RECEIVED, MIGRATION_START, MIGRATION_PASS_END,
MIGRATION_SWITCH, MIGRATION_ABORT, REINIT_ZERO_DONE). -/
def Obligations.ParcelsMoveAndMigrate : Prop :=
  (∀ (i : Fin 65536) (ok : Bool) (s : State), bit (s.mod.d0 i) 20 = true →
    Answers (.partnerCopyRetry i ok) s fun m =>
      m.now = max s.mod.now ((tget (0, 0) i.val s.mod.po.stale).2 - 1 + sec) ∧
      (ok = true → bit (m.d0 i) 20 = false ∧ tget (0, 0) i.val m.po.stale = (0, 0)) ∧
      (ok = false → (tget (0, 0) i.val m.po.stale).2 = m.now + 1 ∧
        ((tget (0, 0) i.val s.mod.po.stale).1 ≠ 0 → (tget (0, 0) i.val m.po.stale).1 = (tget (0, 0) i.val s.mod.po.stale).1))) ∧
  (∀ (n : FabPort) (seq old oldDesc new newDesc cause : Nat) (s : State),
    (∀ x, s.mod.rt.moves.find? (fun x => decide (x.1 = old)) = some x → recAhead seq x.2 = true) →
    Answers (.homeMoveReceived n seq old oldDesc new newDesc cause) s fun m =>
      (old, seq % 2 ^ 32) ∈ m.rt.moves ∧
      ∀ x ∈ s.mod.exts, 2 ≤ extState x.2 → s.mod.extParcel x.1 x.2 = (old, oldDesc) → (m.extAux x.1).moved = some (new, newDesc)) ∧
  (∀ (n : FabPort) (seq old oldDesc new newDesc cause : Nat) (x : Nat × Nat) (s : State), s.mod.rt.moves.find? (fun x => decide (x.1 = old)) = some x →
    recAhead seq x.2 = false →
    Answers (.homeMoveReceived n seq old oldDesc new newDesc cause) s fun m => m = s.mod) ∧
  (∀ (i : Fin 65536) (s : State), s.mod.mState i = 1 → s.mod.po.migs.length < s.mod.objv 0x900500 → s.mod.migDestOk i (s.mod.mDest i) = true →
    Answers (.migrationStart i) s fun m =>
      m.mState i = 2 ∧ fld (m.objv (descOid 6 i)) 40 4 = 1 ∧ m.dState i = (if bit (s.mod.objv (descOid 6 i)) 44 then 4 else 3) ∧
      ∃ g : Mig, (i.val, g) ∈ m.po.migs ∧ g.was = s.mod.dState i ∧ g.pass = 1 ∧ g.final = false) ∧
  (∀ (i : Fin 65536) (g : Mig) (s : State), tget none i.val (s.mod.po.migs.map fun x => (x.1, some x.2)) = some g → g.final = false →
    Answers (.migrationPassEnd i) s fun m =>
      let fin := decide (g.bits.length ≤ s.mod.objv 0x900400) || decide (8 ≤ g.pass)
      m.mState i = (if fin then 3 else 2) ∧
      tget none i.val (m.po.migs.map fun x => (x.1, some x.2)) = some { pass := g.pass + 1, final := fin, was := g.was, bits := [] }) ∧
  (∀ (i : Fin 65536) (g : Mig) (s : State), tget none i.val (s.mod.po.migs.map fun x => (x.1, some x.2)) = some g → g.final = true → s.mod.mDest i ≠ i.val →
    Answers (.migrationSwitch i) s fun m => ∃ m1 : Mod,
      m = m1.settle ∧ (∀ w ∈ [1, 2, 3, 4, 5], m1.objv (descOid w i) = s.mod.objv (descOid w (s.mod.mDest i))) ∧ m1.dState (s.mod.mDest i) = 0 ∧
      m1.mState i = 0 ∧ tget 0 i.val m1.po.keys = tget 0 (s.mod.mDest i) s.mod.po.keys) ∧
  (∀ (i : Fin 65536) (s : State), s.mod.mState i = 1 ∨ (tget none i.val (s.mod.po.migs.map fun x => (x.1, some x.2))).isSome = true →
    Answers (.migrationAbort i) s fun m => ∃ m1 : Mod,
      m = m1.settle ∧ m1.mState i = 5 ∧ tget none i.val (m1.po.migs.map fun x => (x.1, some x.2)) = none ∧
      (∀ w ∈ [1, 2, 3, 4, 5], m1.objv (descOid w i) = s.mod.objv (descOid w i))) ∧
  (∀ (i : Fin 65536) (s : State), i.val ∈ s.mod.po.zeroing → s.mod.dState i = 5 →
    Answers (.reinitZeroDone i) s fun m => ∃ m1 : Mod,
      m = m1.settle ∧ m1.dState i = s.mod.restState i ∧ i.val ∉ m1.po.zeroing ∧ m1.ca = s.mod.ca ∧ m1.ho = s.mod.ho)

/-- Requests at the home (HOME_RDSHARED, HOME_RDOWN, HOME_UPGRADE, HOME_WBDIRTY, HOME_WBDIRTY_KEEP, HOME_EVICTEXCL, HOME_FLUSHOWNED) join their line's
wait queue in the order of their arrival, and HOME_TRANSACTION_START takes its head. -/
def Obligations.HomeRequestsQueueInOrder : Prop :=
  (∀ (i : Nat) (b : Inbox) (c : Instr) (k : MsgKind) (op : Nat) (keep : Bool) (s : State),
    (c, k, op, keep) ∈ [(Instr.homeRdshared i, MsgKind.rdShared, 0, false), (.homeRdown i, .rdOwn, 1, false), (.homeUpgrade i, .upgrade, 2, false),
      (.homeWbdirty i, .wbDirty, 3, false), (.homeWbdirtyKeep i, .wbDirty, 3, true), (.homeEvictexcl i, .evictExcl, 4, false),
      (.homeFlushowned i, .flushOwned, 5, false)] →
    Arrives s.mod i k b → (op = 3 → bit b.pkt.body 59 = keep) → (∀ d : Die, (s.mod.kind5 b.port d.val).isSome = true) →
    (s.mod.txn (dirKey (pktLine b.pkt))).isSome = true ∨ s.mod.homeQueue (dirKey (pktLine b.pkt)) ≠ [] →
    Answers c s fun m => ∃ (m1 : Mod) (r : HReq),
      m = m1.settle ∧ r.op = op ∧ r.from_ = b.pkt.src ∧ r.keep = bit b.pkt.body 59 ∧ r.data = wordsLine b.pkt.data ∧
      m1.homeQueue (dirKey (pktLine b.pkt)) = s.mod.homeQueue (dirKey (pktLine b.pkt)) ++ [r] ∧ m1.sw.inbox = s.mod.sw.inbox.eraseIdx i ∧
      m1.ho.txns = s.mod.ho.txns) ∧
  (∀ (desc off : Nat) (r : HReq) (rest : List HReq) (s : State), s.mod.txn (lineOf desc off) = none → s.mod.homeQueue (lineOf desc off) = r :: rest →
    r.op ≤ 2 → s.mod.served (lineOf desc off / 2 ^ 48) = true → s.mod.handedOff (lineOf desc off / 2 ^ 48) = false →
    r.from_ ∈ s.mod.members (lineOf desc off / 2 ^ 48) → s.mod.ho.lost = [] → (s.mod.dent (lineOf desc off)).st = .uncached →
    Answers (.homeTransactionStart desc off) s fun m => ∃ m1 : Mod,
      m = m1.settle ∧ m1.homeQueue (lineOf desc off) = rest ∧ m1.txn (lineOf desc off) = some { req := some r } ∧ m1.out = s.mod.out)

/-- A home transaction goes on (HOME_CMP, HOME_INVACK, HOME_DATAOWNED, BACKING_READ_DONE, BACKING_WRITE_DONE, DIRECTORY_ENTRY_READY,
BROADCAST_TOKEN_GRANT). -/
def Obligations.HomeTransactionsProceed : Prop :=
  (∀ (i : Nat) (b : Inbox) (t : Txn) (s : State), Arrives s.mod i .cmp b → s.mod.txn (dirKey (pktLine b.pkt)) = some t → t.busy = .c →
    lineHome (pktLine b.pkt) = s.mod.rt.id → t.req.map (·.from_) = some b.pkt.src →
    Answers (.homeCmp i) s fun m => ∃ m1 : Mod,
      let e := match t.nextDrop with | some x => (if bit b.pkt.body 0 then t.next else x) | none => t.next
      m = m1.settle ∧ m1.txn (dirKey (pktLine b.pkt)) = none ∧ (m1.dent (dirKey (pktLine b.pkt))).st = e.st ∧
      (e.st ≠ .uncached → (m1.dent (dirKey (pktLine b.pkt))).owner = e.owner ∧ (m1.dent (dirKey (pktLine b.pkt))).ptrs = e.ptrs)) ∧
  (∀ (i : Nat) (b : Inbox) (t : Txn) (s : State), Arrives s.mod i .invAck b → s.mod.inRecall (pktLine b.pkt) = true →
    s.mod.txn (dirKey (pktLine b.pkt)) = some t →
    Answers (.homeInvack i) s fun m => ∃ m1 : Mod,
      m = m1.settle ∧
      (2 ≤ t.due → m1.txn (dirKey (pktLine b.pkt)) = some { t with due := t.due - 1 }) ∧
      (t.due ≤ 1 → (m1.dent (dirKey (pktLine b.pkt))).st = .uncached ∧
        m1.txn (dirKey (pktLine b.pkt)) = t.req.map fun r => { req := some r, recalled := true, busy := .s })) ∧
  (∀ (i : Nat) (b : Inbox) (t : Txn) (s : State), Arrives s.mod i .dataOwned b → s.mod.inRecall (pktLine b.pkt) = true →
    s.mod.txn (dirKey (pktLine b.pkt)) = some t → t.discard = false → 2 ≤ t.due →
    Answers (.homeDataowned i) s fun m => ∃ m1 : Mod,
      let x := s.mod.target (dirKey (pktLine b.pkt) / 2 ^ 48) (dirKey (pktLine b.pkt) % 2 ^ 48)
      m = m1.settle ∧ m1.txn (dirKey (pktLine b.pkt)) = some { t with due := t.due - 1 } ∧
      ((tget none (dirKey (pktLine b.pkt) / 2 ^ 48) (s.mod.po.migs.map fun y => (y.1, some y.2))).any (·.final) = false →
        m1.out = s.mod.out ++ [.back x.1 x.2.1 x.2.2 true (wordsLine b.pkt.data) b.pkt.poison]) ∧
      (∀ g, tget none (dirKey (pktLine b.pkt) / 2 ^ 48) (s.mod.po.migs.map fun y => (y.1, some y.2)) = some g → g.final = true →
        m1.out = s.mod.out ∧ (dirKey (pktLine b.pkt) / 2 ^ 48,
          { g with held := g.held ++ [(dirKey (pktLine b.pkt) % 2 ^ 48, wordsLine b.pkt.data, b.pkt.poison)] }) ∈ m1.po.migs)) ∧
  (∀ (desc off data : Nat) (poison : Bool) (t : Txn) (r : HReq) (s : State), s.mod.txn (lineOf desc off) = some t → t.req = some r → t.busy = .d → r.op ≤ 2 →
    t.grant = .data → r.from_ ≠ s.mod.rt.id →
    Answers (.backingReadDone desc off data poison) s fun m => ∃ (m1 : Mod) (h : Held),
      m = m1.settle ∧ h.pkt = tc2Pkt s.mod.rt.id r.from_ 0 (homeLine s.mod (lineOf desc off)) 0 (data % 2 ^ 512) poison ∧
      m1.sw.waiting = s.mod.sw.waiting ++ [h] ∧
      (t.acks ≠ 0 → m1.txn (lineOf desc off) = some { t with busy := .c }) ∧ (t.acks = 0 → m1.txn (lineOf desc off) = none)) ∧
  (∀ (desc off : Nat) (t : Txn) (r : HReq) (s : State), s.mod.txn (lineOf desc off) = some t → t.req = some r → t.busy = .w → 3 ≤ r.op → r.op ≤ 5 →
    r.from_ ≠ s.mod.rt.id → t.nextDrop = none →
    Answers (.backingWriteDone desc off) s fun m => ∃ (m1 : Mod) (h : Held),
      m = m1.settle ∧ h.pkt = tc2Pkt s.mod.rt.id r.from_ 2 (homeLine s.mod (lineOf desc off)) 0 0 false ∧ m1.sw.waiting = s.mod.sw.waiting ++ [h] ∧
      m1.txn (lineOf desc off) = none ∧ (m1.dent (lineOf desc off)).st = t.next.st) ∧
  (∀ (desc off w : Nat) (t : Txn) (r : HReq) (s : State), s.mod.txn (lineOf desc off) = some t → t.req = some r → t.busy = .s →
    (s.mod.dent (lineOf desc off)).st = .uncached → s.mod.chipSet (lineOf desc off) ∉ s.mod.ho.suspectChip →
    s.mod.ledgerSet (lineOf desc off) ∉ s.mod.ho.suspectLedger → r.op = 1 ∨ (r.op = 0 ∧ r.pref = true) →
    s.mod.freeSlot (s.mod.chipOpen (lineOf desc off)) (lineOf desc off) = some w →
    Answers (.directoryEntryReady desc off) s fun m => ∃ (m1 : Mod) (t1 : Txn),
      let x := s.mod.target (lineOf desc off / 2 ^ 48) (lineOf desc off % 2 ^ 48)
      m = m1.settle ∧ m1.txn (lineOf desc off) = some t1 ∧ t1.busy = .d ∧ t1.slot = some (s.mod.chipOpen (lineOf desc off), w) ∧ t1.req = some r ∧ t1.acks = 0 ∧
      (r.op = 1 → t1.grant = .owned ∧ t1.next = { st := .exclusive, owner := r.from_ }) ∧
      (r.op = 0 → t1.grant = .data ∧ t1.next = { st := .shared, ptrs := [r.from_] }) ∧ m1.out = s.mod.out ++ [.back x.1 x.2.1 x.2.2 false 0 false]) ∧
  (∀ (d : Die) (k y : Nat) (t : Txn) (s : State), s.mod.ho.tokenWait.find? (fun x => decide (x.1 = d.val)) = some (y, k) → s.mod.txn k = some t → t.mcast ≠ [] →
    Answers (.broadcastTokenGrant d) s fun m => ∃ m1 : Mod,
      m = m1.settle ∧ m1.ho.tokenWait = s.mod.ho.tokenWait.erase (d.val, k) ∧
      m1.now = s.mod.now + (if s.mod.objv 0xA03001 = 0 then 0
        else cdiv (s.mod.tokensSpent d + sec - s.mod.objv 0xA03002 * sec) (s.mod.objv 0xA03001)) ∧
      ∃ h ∈ m1.sw.waiting, h.refs = t.mcast ∧ h.pkt.tc = 1 ∧ fld h.pkt.body 62 2 = 2)

/-- Coherence messages at the cache (CACHE_FWDSHARED, CACHE_FWDOWN, CACHE_INV, CACHE_DATA, CACHE_DATAOWNED, CACHE_ACK_GRANT, CACHE_ACK_ERROR,
CACHE_INVACK), in the states of R456 and R458 that take them. -/
def Obligations.CacheTakesItsMessages : Prop :=
  (∀ (i : Nat) (b : Inbox) (c : Instr) (k : MsgKind) (op : Nat) (s : State),
    (c, k, op) ∈ [(Instr.cacheFwdshared i, MsgKind.fwdShared, 0), (.cacheFwdown i, .fwdOwn, 1), (.cacheInv i, .inv, 2)] → Arrives s.mod i k b →
    Answers c s fun m => ∃ m1 : Mod,
      m = m1.settle ∧ m1.sw.inbox = s.mod.sw.inbox.eraseIdx i ∧
      m1.cline (pktLine b.pkt) = { s.mod.cline (pktLine b.pkt) with pend := (s.mod.cline (pktLine b.pkt)).pend ++ [.msg op (fld b.pkt.body 50 12) (fld b.pkt.body 0 6)] }) ∧
  (∀ (i : Nat) (b : Inbox) (s : State), Arrives s.mod i .data b → s.mod.cacheRole (pktLine b.pkt) = true → (s.mod.cline (pktLine b.pkt)).st = .isD →
    Answers (.cacheData i) s fun m => ∃ m1 : Mod,
      m = m1.settle ∧ (m1.cline (pktLine b.pkt)).st = .s ∧ (m1.cline (pktLine b.pkt)).data = wordsLine b.pkt.data ∧
      (m1.cline (pktLine b.pkt)).poison = b.pkt.poison ∧ (m1.cline (pktLine b.pkt)).trk = none ∧ (m1.cline (pktLine b.pkt)).fwd = none) ∧
  (∀ (i : Nat) (b : Inbox) (s : State), Arrives s.mod i .dataOwned b → s.mod.cacheRole (pktLine b.pkt) = true → s.mod.ownUpgrade (pktLine b.pkt) = false →
    Answers (.cacheDataowned i) s fun m => ∃ m1 : Mod,
      let l := pktLine b.pkt
      let old := s.mod.cline l
      m = m1.settle ∧
      (old.st = .isD → (m1.cline l).st = .e ∧ (m1.cline l).data = wordsLine b.pkt.data ∧ (m1.cline l).poison = b.pkt.poison) ∧
      (old.st = .imAD ∨ old.st = .smAD → fld b.pkt.body 0 6 ≠ old.acks →
        (m1.cline l).st = .imA ∧ (m1.cline l).data = wordsLine b.pkt.data ∧ (m1.cline l).need = some (fld b.pkt.body 0 6)) ∧
      (old.st = .imAD ∨ old.st = .smAD → fld b.pkt.body 0 6 = old.acks → b.pkt.src = lineHome l →
        (m1.cline l).st = .m ∧ (m1.cline l).data = wordsLine b.pkt.data)) ∧
  (∀ (i : Nat) (b : Inbox) (s : State), Arrives s.mod i .ack b → s.mod.cacheRole (pktLine b.pkt) = true →
    Answers (.cacheAckGrant i) s fun m => ∃ m1 : Mod,
      let l := pktLine b.pkt
      let old := s.mod.cline l
      m = m1.settle ∧
      (old.st = .smAD → (m1.cline l).st = if fld b.pkt.body 0 6 = old.acks then .m else .smA) ∧
      (old.st = .omAD → (m1.cline l).st = if fld b.pkt.body 0 6 = old.acks then .m else .omA) ∧
      (old.st = .miA ∨ old.st = .eiA ∨ old.st = .oiA → (m1.cline l).st = .i) ∧
      (old.st = .meA → old.through = [] → old.owed ≤ 1 → (m1.cline l).st = .e ∧ (m1.cline l).data = old.data)) ∧
  (∀ (i : Nat) (b : Inbox) (s : State), Arrives s.mod i .ackErr b → s.mod.cacheRole (pktLine b.pkt) = true →
    Answers (.cacheAckError i) s fun m => ∃ m1 : Mod,
      let l := pktLine b.pkt
      let old := s.mod.cline l
      m = m1.settle ∧ (old.st = .miA → (m1.cline l).st = .m ∧ (m1.cline l).data = old.data) ∧
      (old.st = .eiA → (m1.cline l).st = .e ∧ (m1.cline l).data = old.data) ∧ (old.st = .oiA → (m1.cline l).st = .o ∧ (m1.cline l).data = old.data) ∧
      (old.st = .isD ∨ old.st = .isDI ∨ old.st = .imAD ∨ old.st = .smAD → (m1.cline l).st = .i)) ∧
  (∀ (i : Nat) (b : Inbox) (s : State), Arrives s.mod i .invAck b → s.mod.cacheRole (pktLine b.pkt) = true →
    Answers (.cacheInvack i) s fun m => ∃ m1 : Mod,
      let l := pktLine b.pkt
      let old := s.mod.cline l
      m = m1.settle ∧ (old.st = .imAD ∨ old.st = .smAD ∨ old.st = .omAD → m1.cline l = { old with acks := old.acks + 1 }) ∧
      (old.st = .imA ∨ old.st = .omA ∨ old.st = .smA → old.need ≠ some (old.acks + 1) → (m1.cline l).st = old.st ∧ (m1.cline l).acks = old.acks + 1) ∧
      (old.st = .smA → old.need = some (old.acks + 1) → (m1.cline l).st = .m))

/-- Flushes and lost modules (FLUSH_SCAN_DONE, FLUSH_ANSWER, FLUSH_RETRY, FLUSH_COMPLETE, LOST_MODULE_SCAN_DONE, LOST_REPORT_RETRY). -/
def Obligations.FlushesAndLostModules : Prop :=
  (∀ (i : Nat) (f : MemberFlush) (s : State), s.mod.ca.flushes[i]? = some f →
    (∀ x ∈ s.mod.ca.lines, x.2.flushFor = true → lineHome x.1 = f.home → f.desc ≠ 65535 ∧ lineDesc x.1 ≠ f.desc) →
    Answers (.flushScanDone i) s fun m =>
      m.ca = { s.mod.ca with flushes := s.mod.ca.flushes.eraseIdx i } ∧
      (f.src = .mgmtPf → m.out = s.mod.out ++ [.resp .mgmtPf { opcode := 2, session := f.session, seq := f.seq, items := [{ oid := 0xA06200 }] }])) ∧
  (∀ (desc member : Nat) (s : State),
    Answers (.flushAnswer desc member) s fun m =>
      m.ho.flushes.map (·.desc) = s.mod.ho.flushes.map (·.desc) ∧ (∀ f ∈ m.ho.flushes, f.desc = desc → member ∉ f.due ∧ (f.due = [] → f.scanning = true)) ∧
      (∀ f ∈ s.mod.ho.flushes, f.desc ≠ desc → f ∈ m.ho.flushes) ∧ m.ho.dir = s.mod.ho.dir) ∧
  (∀ (desc : Nat) (f : HomeFlush) (s : State), s.mod.ho.flushes.find? (fun f => decide (f.desc = desc)) = some f → f.due ≠ [] →
    Answers (.flushRetry desc) s fun m =>
      m.now = max s.mod.now (f.lastAt + sec) ∧ (∀ g ∈ m.ho.flushes, g.desc = desc → g.lastAt = m.now) ∧ m.ho.dir = s.mod.ho.dir ∧ m.ca = s.mod.ca) ∧
  (∀ (desc : Nat) (f : HomeFlush) (s : State), s.mod.ho.flushes.find? (fun f => decide (f.desc = desc)) = some f → f.scanning = true → desc < 65535 →
    Answers (.flushComplete desc) s fun m => ∃ m1 : Mod,
      m = m1.settle ∧ (∀ g ∈ m1.ho.flushes, g.desc ≠ desc) ∧
      (s.mod.served desc = false → ∀ x ∈ m1.ho.dir, x.1 / 2 ^ 48 = desc → (s.mod.txn x.1).isSome = true) ∧
      (∀ x ∈ s.mod.ho.dir, x.1 / 2 ^ 48 ≠ desc → x ∈ m1.ho.dir) ∧
      (s.mod.dState desc = 7 → desc ∉ s.mod.po.await → m1.dState desc = s.mod.restState desc)) ∧
  (∀ (id : Nat) (s : State), id ∈ s.mod.ho.lost →
    Answers (.lostModuleScanDone id) s fun m => id ∉ m.ho.lost ∧ (∀ j ∈ s.mod.ho.lost, j ≠ id → j ∈ m.ho.lost) ∧ m.now = s.mod.now ∧ m.md = s.mod.md) ∧
  (∀ (i : Nat) (r : LostReport) (s : State), s.mod.ca.reports[i]? = some r →
    Answers (.lostReportRetry i) s fun m =>
      m.now = max s.mod.now (r.lastAt + sec) ∧ m.ca.reports[i]? = some { r with lastAt := m.now } ∧ m.ca.lines = s.mod.ca.lines ∧ m.ho = s.mod.ho)

/-- CXL.io requests that are carried to an edge port of this module (IO_POSTED_WRITE, IO_READ_REQUEST, ATOMICOP_REQUEST, LOCKED_READ,
UNLOCK_MESSAGE), the answer of one (CXL_IO_COMPLETION), and the write of a BAR (BAR_REGISTER_WRITE). -/
def Obligations.IoRequestsAreCarried : Prop :=
  (∀ (p : EdgePort) (t : Tenant) (n : Vppb) (addr len data mask hdr tag : Nat) (poison secure : Bool) (c : Instr) (io : Io) (kind : Ak) (tc q v k : Nat) (s : State),
    (c, io, kind, tc) ∈ [(Instr.ioPostedWrite p t .write n addr len data mask hdr poison secure, Io.write, Ak.deviceWrite, 4),
      (.ioReadRequest p t .memRead n addr len data mask hdr tag secure, .read, .deviceRead, 5)] →
    s.mod.takesFrom p = true → s.mod.admits = true → s.mod.decodeIo (s.mod.lead p) addr = some (s.mod.rt.id, q, v, k, 0) →
    len ∈ [1, 2, 4, 8] → addr % len = 0 → (maskRuns (mask % 2 ^ len) len).length ≤ 1 → Quiet s.mod (portStream (s.mod.lead p) t.val) → Open s.mod q →
    Room s.mod (s.mod.lead p) →
    Answers c s fun m => ∃ (m1 : Mod) (r : IoReq) (h : Held),
      m = m1.settle ∧ m1.br.live = s.mod.br.live ++ [r] ∧ r.io = io ∧ r.kind = kind ∧ r.tgt = .port s.mod.rt.id q ∧ r.addr = addr ∧ r.len = len ∧
      r.data = data % 256 ^ len ∧ r.tenant = t.val ∧ m1.sw.waiting = s.mod.sw.waiting ++ [h] ∧ h.target = some q ∧ h.port = some (s.mod.lead p) ∧
      h.pkt.tc = tc ∧ h.pkt.data = ioWords r q) ∧
  (∀ (p : EdgePort) (t : Tenant) (op : Fin 3) (addr size a cmp hdr tag q v k ty : Nat) (s : State),
    s.mod.takesFrom p = true → s.mod.admits = true → s.mod.decodeIo (s.mod.lead p) addr = some (s.mod.rt.id, q, v, k, ty) →
    size ∈ [4, 8, 16] → size ∈ (s.mod.edge q).atomics → Quiet s.mod (portStream (s.mod.lead p) t.val) → Open s.mod q → Room s.mod (s.mod.lead p) →
    Answers (.atomicopRequest p t false op addr size a cmp hdr tag) s fun m => ∃ (m1 : Mod) (r : IoReq) (h : Held),
      m = m1.settle ∧ m1.br.live = s.mod.br.live ++ [r] ∧ r.io = .atomic ∧ r.alu = some (op.val, a, cmp) ∧ r.addr = addr ∧
      m1.sw.waiting = s.mod.sw.waiting ++ [h] ∧ h.target = some q ∧ h.pkt.tc = 5 ∧ h.pkt.data = ioWords r q) ∧
  (∀ (p : EdgePort) (t : Tenant) (addr len hdr tag q v k : Nat) (s : State),
    s.mod.takesFrom p = true → s.mod.admits = true → s.mod.decodeIo (s.mod.lead p) addr = some (s.mod.rt.id, q, v, k, 0) →
    Quiet s.mod (portStream (s.mod.lead p) t.val) → Open s.mod q → Room s.mod (s.mod.lead p) →
    (∀ x ∈ s.mod.br.locks, x.1 ≠ v) → (∀ x ∈ s.mod.br.held, x.io ≠ .locked) →
    Answers (.lockedRead p t addr len hdr tag) s fun m => ∃ (m1 : Mod) (r : IoReq) (h : Held),
      m = m1.settle ∧ m1.br.locks = s.mod.br.locks ++ [(v, r)] ∧ r.io = .locked ∧ r.stream = portStream (s.mod.lead p) t.val ∧ r.addr = addr ∧
      m1.sw.waiting = s.mod.sw.waiting ++ [h] ∧ h.target = none ∧ h.pkt.dest = s.mod.rt.id ∧ h.pkt.tc = 5) ∧
  (∀ (p : EdgePort) (t : Tenant) (hdr v q : Nat) (l : IoReq) (s : State),
    s.mod.takesFrom p = true → s.mod.br.locks.find? (fun x => decide (x.2.stream = portStream (s.mod.lead p) t.val)) = some (v, l) → l.tgt = .port s.mod.rt.id q →
    Quiet s.mod (portStream (s.mod.lead p) t.val) → Open s.mod q →
    Answers (.unlockMessage p t hdr) s fun m => ∃ (m1 : Mod) (h : Held),
      m = m1.settle ∧ m1.br.locks = s.mod.br.locks.filter (fun x => decide (x.1 ≠ l.vcs)) ∧ m1.sw.waiting = s.mod.sw.waiting ++ [h] ∧ h.target = none ∧
      h.pkt.tc = 4 ∧ h.pkt.dest = s.mod.rt.id) ∧
  (∀ (p : EdgePort) (k status len data : Nat) (poison secure : Bool) (d : Deliv) (s : State),
    (s.mod.br.delivered.filter fun (d : Deliv) => decide (d.port = p.val) && decide (d.tc ≠ 4))[k]? = some d → d.tc = 5 → d.sw = s.mod.rt.id →
    len ≤ 256 → (∀ x ∈ s.mod.br.live ++ s.mod.br.held, x.stream ≠ portStream p.val d.tenant) →
    Answers (.cxlIoCompletion p k status len data 0 poison secure) s fun m => ∃ (m1 : Mod) (h : Held),
      m = m1.settle ∧ m1.br.delivered = s.mod.br.delivered.erase d ∧ m1.sw.waiting = s.mod.sw.waiting ++ [h] ∧ h.target = none ∧ h.pkt.tc = 6 ∧
      h.pkt.dest = d.sw ∧ h.pkt.poison = poison ∧ fld h.pkt.body 24 24 = d.tid % 2 ^ 24 ∧ fld h.pkt.body 48 4 = 1) ∧
  (∀ (v : Vcs) (n : Vppb) (bar : Fin 6) (base size : Nat) (pf : Bool) (s : State), s.mod.br.wc = [] →
    Answers (.barRegisterWrite v n bar base size pf) s fun m => ∃ m1 : Mod,
      m = m1.settle ∧ tget (0, 0, false) bar.val (m1.vppb v n).bars = (base, size, pf) ∧ m1.br = s.mod.br ∧
      ∀ w k, vppbKey w k ≠ vppbKey v n → m1.vppb w k = s.mod.vppb w k)

/-- Semaphores, write-combining, held accesses and barriers (SEMAPHORE_ACQUIRE, SEMAPHORE_HOLD_TIMEOUT, WC_HOLD_TIMEOUT, HELD_ACCESS_RELEASE,
BARRIER_WRITE, BARRIER_COMPLETE, POSTED_WRITE_COMPLETE, BCMP_FLOW_TIMER). -/
def Obligations.OrderIsKeptByTheBridge : Prop :=
  (∀ (p : EdgePort) (r : SemReq) (rest : List SemReq) (s : State), (s.mod.sem p).holder = none → (s.mod.sem p).waiting = r :: rest → r.locked = true →
    Answers (.semaphoreAcquire p) s fun m => ∃ (m1 : Mod) (h : Held),
      m = m1.settle ∧ m1.sem p = { s.mod.sem p with holder := some r, since := s.mod.now, waiting := rest } ∧
      m1.sw.waiting = s.mod.sw.waiting ++ [h] ∧ h.target = some p.val ∧ h.pkt = r.pkt) ∧
  (∀ (p : EdgePort) (r : SemReq) (s : State), (s.mod.sem p).holder = some r →
    Answers (.semaphoreHoldTimeout p) s fun m => ∃ m1 : Mod,
      m = m1.settle ∧ m1.now = max s.mod.now ((s.mod.sem p).since + s.mod.objv (if r.locked then 0x730003 else 0x730002) * 1000) ∧
      (m1.sem p).holder = none ∧ (r.locked = true → (r.key, p.val) ∈ m1.br.unlocked)) ∧
  (∀ (p : EdgePort) (e : WcEnt) (s : State), s.mod.br.wc.find? (fun (e : WcEnt) => decide (e.port = p.val)) = some e →
    Answers (.wcHoldTimeout p) s fun m => ∃ m1 : Mod,
      m = m1.settle ∧ m1.now = max s.mod.now (e.first + s.mod.objv 0x730001) ∧ m1.br.wc = without e s.mod.br.wc) ∧
  (∀ (i p q : Nat) (r : IoReq) (s : State), s.mod.br.held[i]? = some r → r.io = .completion → r.kind ≠ .barrier → r.hdm = false → r.maker = .port p →
    r.tgt = .port s.mod.rt.id q → s.mod.mayCarry r (s.mod.br.held.take i) = true →
    Answers (.heldAccessRelease i) s fun m => ∃ (m1 : Mod) (h : Held),
      m = m1.settle ∧ m1.br.held = s.mod.br.held.filter (fun x => decide (x.id ≠ r.id)) ∧ m1.sw.waiting = s.mod.sw.waiting ++ [h] ∧ h.target = none ∧
      h.pkt.tc = 6 ∧ h.pkt.dest = s.mod.rt.id ∧ h.pkt.data = ioWords r q) ∧
  (∀ (p : EdgePort) (t : Tenant) (s : State), s.mod.br.wc = [] → s.mod.barred (portStream (s.mod.lead p) t) = false →
    (∀ x ∈ s.mod.br.held, x.stream = portStream (s.mod.lead p) t → x.kind ≠ .barrier) →
    Answers (.barrierWrite (.firmware p t)) s fun m => ∃ m1 : Mod,
      m = m1.settle ∧ m1.br.barriers = s.mod.br.barriers ++ [{ stream := portStream (s.mod.lead p) t, seq := s.mod.barNumber (portStream (s.mod.lead p) t), who := .firmware, covered := ((s.mod.br.live ++ s.mod.br.held).filter fun r => decide (r.stream = portStream (s.mod.lead p) t) && r.writes).map (·.id) }] ∧
      m1.br.live = s.mod.br.live ∧ m1.br.held = s.mod.br.held) ∧
  (∀ (i : Nat) (b : Barrier) (s : State), s.mod.br.barriers[i]? = some b → b.covered = [] → b.who = .firmware →
    Answers (.barrierComplete i) s fun m => ∃ m1 : Mod,
      m = m1.settle ∧ m1.br.barriers = without b s.mod.br.barriers ∧ tget (0, 0) 256 m1.br.results = barWords b) ∧
  (∀ (p : EdgePort) (d : Deliv) (s : State), s.mod.br.delivered.find? (fun (d : Deliv) => decide (d.port = p.val) && decide (d.tc = 4)) = some d →
    d.sw ≠ s.mod.rt.id → d.tunnel = false →
    Answers (.postedWriteComplete p) s fun m => ∃ (m1 : Mod) (h : Held),
      m = m1.settle ∧ m1.br.delivered = s.mod.br.delivered.erase d ∧ m1.sw.waiting = s.mod.sw.waiting ++ [h] ∧ h.pkt.tc = 6 ∧ h.pkt.dest = d.sw ∧
      h.pkt.body = bridgeBody (d.flow % 64 * 64 + d.flow / 64) 2 d.tid d.tenant 0) ∧
  (∀ (sw flow count last : Nat) (s : State), tget (0, 0) (sw % 4096 * 4096 + flow % 4096) s.mod.br.bcmp = (count, last) → count ≠ 0 → sw % 4096 ≠ s.mod.rt.id →
    Answers (.bcmpFlowTimer sw flow) s fun m => ∃ h : Held,
      m.now = (if last = 0 then s.mod.now else max s.mod.now (last - 1 + 1000)) ∧
      tget (0, 0) (sw % 4096 * 4096 + flow % 4096) m.br.bcmp = (count - min count 65535, m.now + 1) ∧
      m.sw.waiting = s.mod.sw.waiting ++ [h] ∧ h.pkt.tc = 6 ∧ h.pkt.dest = sw % 4096 ∧ fld h.pkt.body 32 16 = min count 65535 ∧ fld h.pkt.body 48 4 = 2)

/-- Bridge packets for the module (BRIDGE_REQ_RECEIVED, BRIDGE_CPL_RECEIVED, BCMP_RECEIVED, BERR_RECEIVED, SIDE_RECEIVED), and CXL.mem requests of a
host to pooled memory (HOST_MEMRD_NOCACHE, HOST_MEMRD_SHARED, HOST_MEMRD_ANY, HOST_MEMWR). -/
def Obligations.BridgePacketsAndHostMemory : Prop :=
  (∀ (i : Nat) (b : Inbox) (s : State), Received s.mod i 0 b →
    let q := s.mod.lead (fld (b.pkt.data.getD 1 0) 32 8)
    fld (b.pkt.data.getD 1 0) 32 8 < 48 → fld (b.pkt.data.getD 1 0) 24 8 ∉ [0x33, 0x21, 0x6C, 0x6D, 0x6E] → Open s.mod q →
    Answers (.bridgeReqReceived i) s fun m => ∃ (m1 : Mod) (h : Held),
      m = m1.settle ∧ m1.sw.inbox = s.mod.sw.inbox.take i ++ s.mod.sw.inbox.drop (i + 1) ∧ m1.sw.waiting = s.mod.sw.waiting ++ [h] ∧
      h.target = some q ∧ h.pkt = b.pkt) ∧
  (∀ (i k p : Nat) (b : Inbox) (s : State), Received s.mod i 1 b → s.mod.semOfTid (fld b.pkt.body 24 24) = none →
    s.mod.trkOfTid (fld b.pkt.body 24 24) = some k → (s.mod.trk k).kind = 1 → (s.mod.trk k).port = some p → (s.mod.trk k).orphan = false →
    (s.mod.trk k).discard = false → byteCount b.pkt.data ≤ fld (b.pkt.data.getD 1 0) 48 16 → b.pkt.data ≠ [] →
    Answers (.bridgeCplReceived i) s fun m => ∃ (m1 : Mod) (h : Held),
      m = m1.settle ∧ m1.trk k = { gen := ((s.mod.trk k).gen + 1) % 128 } ∧ m1.sw.waiting = s.mod.sw.waiting ++ [h] ∧ h.target = some p ∧ h.pkt.tc = 6 ∧
      fld h.pkt.body 24 24 = (s.mod.trk k).tag % 2 ^ 24 ∧ h.pkt.poison = b.pkt.poison ∧ h.pkt.data.take b.pkt.data.length = b.pkt.data) ∧
  (∀ (i k : Nat) (b : Inbox) (s : State), Received s.mod i 2 b → s.mod.objv 0x602000 ≠ 0 → s.mod.trkOfTid (fld b.pkt.body 24 24) = some k →
    (s.mod.trk k).kind = 2 → (s.mod.trk k).orphan = false →
    Answers (.bcmpReceived i) s fun m => ∃ m1 : Mod,
      m = m1.settle ∧ m1.trk k = { gen := ((s.mod.trk k).gen + 1) % 128 } ∧ m1.sw.inbox = s.mod.sw.inbox.take i ++ s.mod.sw.inbox.drop (i + 1)) ∧
  (∀ (i k p : Nat) (b : Inbox) (s : State), Received s.mod i 3 b → s.mod.semOfTid (fld b.pkt.body 24 24) = none →
    s.mod.trkOfTid (fld b.pkt.body 24 24) = some k → (s.mod.trk k).kind = 1 → (s.mod.trk k).port = some p → (s.mod.trk k).orphan = false →
    (s.mod.trk k).discard = false → fld b.pkt.body 8 8 ≠ 4 →
    Answers (.berrReceived i) s fun m => ∃ (m1 : Mod) (h : Held),
      m = m1.settle ∧ m1.trk k = { gen := ((s.mod.trk k).gen + 1) % 128 } ∧ m1.sw.waiting = s.mod.sw.waiting ++ [h] ∧ h.target = some p ∧ h.pkt.tc = 6 ∧
      fld h.pkt.body 24 24 = (s.mod.trk k).tag % 2 ^ 24 ∧ fld h.pkt.body 8 8 = max 1 (fld b.pkt.body 8 8)) ∧
  (∀ (i k : Nat) (b : Inbox) (s : State), Received s.mod i 4 b → b.pkt.tc = 4 → fld b.pkt.body 8 8 = 2 →
    (s.mod.ed.vppb.filter fun x => decide (x.2.remote = some (b.pkt.src, fld b.pkt.body 58 6))).map (·.1) = [k] →
    Answers (.sideReceived i) s fun m =>
      m.vppb (k / 32) (k % 32) = { s.mod.vppb (k / 32) (k % 32) with linkActive := !(s.mod.vppb (k / 32) (k % 32)).linkActive } ∧
      m.sw.inbox = s.mod.sw.inbox.take i ++ s.mod.sw.inbox.drop (i + 1) ∧ m.sw.waiting = s.mod.sw.waiting ∧ m.br = s.mod.br) ∧
  (∀ (p : EdgePort) (t : Tenant) (tag addr data mask : Nat) (c : Instr) (kind : AccKind) (v e x off : Nat) (s : State),
    (c, kind) ∈ [(Instr.hostMemrdNocache p t 0 tag addr, AccKind.read), (.hostMemrdShared p t 0 tag addr, .readShared), (.hostMemrdAny p t 0 tag addr, .readAny),
      (.hostMemwr p t 0 tag addr data mask, .write)] →
    s.mod.takesFrom p = true → s.mod.admits = true → s.mod.vcsOf (s.mod.lead p) = some v → s.mod.extentAt v addr = some (e, x, off) → extState x = 3 →
    (kind = .write → bit x 3 = true ∧ off % 64 = 0 ∧ Quiet s.mod (portStream (s.mod.lead p) (extTenant x))) →
    (s.mod.lineAttr (lineKey (s.mod.extParcel e x).1 (s.mod.extParcel e x).2 off)).1 ≠ 2 →
    (s.mod.lineAttr (lineKey (s.mod.extParcel e x).1 (s.mod.extParcel e x).2 off)).2.1 = false → Room s.mod (s.mod.lead p) →
    Answers c s fun m => ∃ (m1 : Mod) (a : Access),
      let l := lineKey (s.mod.extParcel e x).1 (s.mod.extParcel e x).2 off
      m = m1.settle ∧ m1.cline l = { s.mod.cline l with wait := (s.mod.cline l).wait ++ [a] } ∧ a.kind = kind ∧ a.tenant = extTenant x ∧
      a.port = some (s.mod.lead p) ∧ (kind = .write → a.edit = .bytes (mask % 2 ^ 64) (data % 2 ^ 512)) ∧
      ∃ k, (m1.trk k).kind = 3 ∧ (m1.trk k).tag = tag ∧ a.who = .host (s.mod.lead p) tag k)

/-- The owner's side of a mailbox (OWN_IN_POP, OWN_OUT_PUSH, OWN_REPLY, OWN_DB_CLEAR, OWN_MASK_WRITE), the end of a lock held too long
(MAILBOX_LOCK_TIMEOUT), and a host PF's EVT_CAUSE (EVT_CAUSE_CLEAR). -/
def Obligations.OwnSideOfAMailbox : Prop :=
  (∀ (k : Mbox) (s : State), s.mod.agent k = true →
    Answers (.ownInPop k) s fun m =>
      m.box k = { s.mod.box k with inq := (s.mod.box k).inq.tail, empty := (s.mod.box k).empty || (s.mod.box k).inq.isEmpty } ∧
      m.out = s.mod.out ++ [.reg k ((s.mod.box k).inq.headD 0)] ∧ ∀ j, j ≠ k.val → m.box j = s.mod.box j) ∧
  (∀ (k : Mbox) (w : Nat) (s : State), s.mod.agent k = true →
    Answers (.ownOutPush k w) s fun m =>
      (m.box k = if (s.mod.box k).holder ≠ 0 ∧ (s.mod.box k).outq.length < 16 then { s.mod.box k with outq := (s.mod.box k).outq ++ [w % 2 ^ 32] } else { s.mod.box k with ovf := true }) ∧
      ∀ j, j ≠ k.val → m.box j = s.mod.box j) ∧
  (∀ (k : Mbox) (v : Nat) (s : State), s.mod.agent k = true →
    Answers (.ownReply k v) s fun m =>
      (m.box k).ovf = ((s.mod.box k).ovf && !bit v 30) ∧ (m.box k).empty = ((s.mod.box k).empty && !bit v 29) ∧
      (m.box k).inq = (s.mod.box k).inq ∧ (m.box k).outq = (s.mod.box k).outq ∧ (m.box k).holder = (s.mod.box k).holder ∧
      (bit v 31 = true → (s.mod.box k).holder ≠ 0 → (m.box ((s.mod.box k).holder - 1)).db = (s.mod.box ((s.mod.box k).holder - 1)).db ||| 2 ^ 31) ∧
      (bit v 31 = false ∨ (s.mod.box k).holder = 0 → ∀ j, (m.box j).db = (s.mod.box j).db)) ∧
  (∀ (k : Mbox) (v : Nat) (s : State), s.mod.agent k = true →
    Answers (.ownDbClear k v) s fun m =>
      m.box k = { s.mod.box k with db := (s.mod.box k).db - ((s.mod.box k).db &&& v % 2 ^ 32) } ∧ m.out = s.mod.out ∧
      ∀ j, j ≠ k.val → m.box j = s.mod.box j) ∧
  (∀ (k : Mbox) (v : Nat) (s : State), s.mod.agent k = true →
    Answers (.ownMaskWrite k v) s fun m =>
      m.box k = { s.mod.box k with mask := v % 2 ^ 32 } ∧ (∀ j, j ≠ k.val → m.box j = s.mod.box j) ∧
      ((s.mod.box k).rings ≠ 0 ∨ (m.box k).rings = 0 → m.out = s.mod.out)) ∧
  (∀ (k : Mbox) (s : State), (s.mod.box k).holder ≠ 0 →
    Answers (.mailboxLockTimeout k) s fun m =>
      m.now = max s.mod.now ((s.mod.box k).since + s.mod.objv 0xB00101 * ms) ∧
      m.box k = { s.mod.box k with holder := 0, since := 0, inq := [], outq := [] } ∧ ∀ j, j ≠ k.val → m.box j = s.mod.box j) ∧
  (∀ (v : Vcs) (bits : Nat) (s : State),
    Answers (.evtCauseClear v bits) s fun m =>
      m.fnSt (hostFn v) = { s.mod.fnSt (hostFn v) with cause := (s.mod.fnSt (hostFn v)).cause - ((s.mod.fnSt (hostFn v)).cause &&& bits % 2 ^ 32) } ∧
      m.out = s.mod.out ∧ ∀ f, f ≠ hostFn v → m.fnSt f = s.mod.fnSt f)

/-- The caller's side of a mailbox (CALL_LOCK_READ, CALL_LOCK_RELEASE, CALL_IN_PUSH, CALL_OUT_POP, CALL_DB_WRITE, CALL_STATUS_READ). -/
def Obligations.CallSideOfAMailbox : Prop :=
  (∀ (c : Mbox) (s : State), s.mod.agent c = true →
    let k := s.mod.selected c
    Answers (.callLockRead c) s fun m =>
      (s.mod.callable c k = true → (s.mod.box k).holder = 0 →
        m.box k = { s.mod.box k with holder := c.val + 1, since := s.mod.now } ∧ m.out = s.mod.out ++ [.reg c 0]) ∧
      (s.mod.callable c k = true → (s.mod.box k).holder ≠ 0 →
        m.box k = s.mod.box k ∧ m.out = s.mod.out ++ [.reg c (if (s.mod.box k).holder = c.val + 1 then 0 else (s.mod.box k).holder)]) ∧
      (s.mod.callable c k = false → m.box k = s.mod.box k ∧ m.out = s.mod.out ++ [.reg c 0xFFFF]) ∧
      ∀ j, j ≠ k → m.box j = s.mod.box j) ∧
  (∀ (c : Mbox) (v : Nat) (s : State), s.mod.agent c = true → v % 2 ^ 32 = 0 → s.mod.holds c = true →
    let k := s.mod.selected c
    Answers (.callLockRelease c v) s fun m =>
      m.box k = { s.mod.box k with holder := 0, since := 0, inq := [], outq := [] } ∧ ∀ j, j ≠ k → m.box j = s.mod.box j) ∧
  (∀ (c : Mbox) (w : Nat) (s : State), s.mod.agent c = true →
    let k := s.mod.selected c
    Answers (.callInPush c w) s fun m =>
      (s.mod.holds c = true → (s.mod.box k).inq.length < 16 →
        m.box k = { s.mod.box k with inq := (s.mod.box k).inq ++ [w % 2 ^ 32] } ∧ m.callSide c = s.mod.callSide c) ∧
      (s.mod.holds c = true → 16 ≤ (s.mod.box k).inq.length → m.box k = s.mod.box k ∧ m.callSide c = { s.mod.callSide c with ovf := true }) ∧
      (s.mod.holds c = false → m.box k = s.mod.box k ∧ m.callSide c = { s.mod.callSide c with notHeld := true })) ∧
  (∀ (c : Mbox) (s : State), s.mod.agent c = true →
    let k := s.mod.selected c
    Answers (.callOutPop c) s fun m =>
      (s.mod.holds c = true →
        m.box k = { s.mod.box k with outq := (s.mod.box k).outq.tail } ∧ m.out = s.mod.out ++ [.reg c ((s.mod.box k).outq.headD 0)] ∧
        m.callSide c = { s.mod.callSide c with empty := (s.mod.callSide c).empty || (s.mod.box k).outq.isEmpty }) ∧
      (s.mod.holds c = false → m.callSide c = { s.mod.callSide c with notHeld := true } ∧ m.box k = s.mod.box k ∧ m.out = s.mod.out ++ [.reg c 0])) ∧
  (∀ (c : Mbox) (v : Nat) (s : State), s.mod.agent c = true → s.mod.callable c (s.mod.selected c) = true →
    let k := s.mod.selected c
    Answers (.callDbWrite c v) s fun m =>
      m.box k = { s.mod.box k with db := (s.mod.box k).db ||| v % 2 ^ 31 } ∧ (∀ j, j ≠ k → m.box j = s.mod.box j) ∧
      ((s.mod.box k).rings = 0 → (m.box k).rings ≠ 0 → k = 256 → (s.mod.fnSt 0).msixOn = true →
        (tget {} 1 (s.mod.fnSt 0).table).masked = false → m.out = s.mod.out ++ [.msi 0 1])) ∧
  (∀ (c : Mbox) (s : State), s.mod.agent c = true →
    Answers (.callStatusRead c) s fun m =>
      m.callSide c = { s.mod.callSide c with notHeld := false, ovf := false, empty := false, reset := false } ∧
      m.out = s.mod.out ++ [.reg c (s.mod.callStatus c)] ∧ ∀ j, m.box j = s.mod.box j)

/-- Queue pairs and virtual functions (SQ_TAIL_WRITE, CQ_HEAD_WRITE, QCFG_ENABLE, QCFG_DISABLE, QUIESCE_DONE, FUNCTION_LEVEL_RESET, FLR_COMPLETE,
VF_ENABLE_CLEAR, VF_ENABLE_SET, BAR4_WRITE). -/
def Obligations.QueuePairsAndFunctions : Prop :=
  (∀ (n : VfSlot) (j : Fin 64) (v q : Nat) (s : State), s.mod.localQp n j = some q →
    Answers (.sqTailWrite n j v) s fun m => m.qp q = { s.mod.qp q with sqTail := v % 2 ^ (s.mod.qp q).sqs } ∧ ∀ f, f ≠ q → m.qp f = s.mod.qp f) ∧
  (∀ (n : VfSlot) (j : Fin 64) (v q : Nat) (s : State), s.mod.localQp n j = some q →
    Answers (.cqHeadWrite n j v) s fun m => m.qp q = { s.mod.qp q with cqHead := v % 2 ^ (s.mod.qp q).cqs } ∧ ∀ f, f ≠ q → m.qp f = s.mod.qp f) ∧
  (∀ (n : VfSlot) (j : Fin 64) (v q : Nat) (s : State), s.mod.localQp n j = some q → (s.mod.qp q).enable = false → (s.mod.qp q).closing = false →
    Answers (.qcfgEnable n j v) s fun m =>
      (m.qp q).st = .running ∧ (m.qp q).enable = true ∧ (m.qp q).sqHead = 0 ∧ (m.qp q).sqTail = 0 ∧ (m.qp q).cqHead = 0 ∧ (m.qp q).cqTail = 0 ∧
      (m.qp q).phase = true ∧ (m.qp q).errCode = 0 ∧ (m.qp q).vec = fld v 8 8 ∧
      (m.qp q).sqs = (if 4 ≤ fld v 24 5 ∧ fld v 24 5 ≤ 16 then fld v 24 5 else (s.mod.qp q).sqs) ∧
      (m.qp q).cqs = (if 4 ≤ fld v 19 5 ∧ fld v 19 5 ≤ 16 then fld v 19 5 else (s.mod.qp q).cqs) ∧
      (m.qp q).sqBase = (s.mod.qp q).sqBase ∧ (m.qp q).cqBase = (s.mod.qp q).cqBase) ∧
  (∀ (n : VfSlot) (j : Fin 64) (v q : Nat) (s : State), s.mod.localQp n j = some q → (s.mod.qp q).enable = true →
    Answers (.qcfgDisable n j v) s fun m =>
      (m.qp q).enable = false ∧ (m.qp q).st = (if (s.mod.qp q).st = .quiesced then .disabled else .quiescing) ∧
      (m.qp q).sqs = (s.mod.qp q).sqs ∧ (m.qp q).cqs = (s.mod.qp q).cqs ∧
      ((s.mod.qp q).st ≠ .quiesced → ∀ d ∈ (m.qp q).started, d.migrate = none)) ∧
  (∀ (q : Qp) (s : State), (s.mod.qp q).st = .quiescing → (s.mod.qp q).started = [] →
    Answers (.quiesceDone q) s fun m =>
      (m.qp q).st = if (s.mod.qp q).closing then (if (s.mod.qp q).enable then .running else .disabled) else .quiesced) ∧
  (∀ (n : VfSlot) (s : State), s.mod.vfShown n = true →
    Answers (.functionLevelReset n) s fun m =>
      (m.fnSt (vfFn n)).flr = true ∧ (∀ q ∈ s.mod.qpsOf n, m.qp q = (s.mod.qp q).abandon) ∧ m.ca = s.mod.ca ∧ m.br = s.mod.br) ∧
  (∀ (n : VfSlot) (s : State), (s.mod.fnSt (vfFn n)).flr = true →
    (∀ q ∈ s.mod.qpsOf n, (s.mod.qp q).started = [] ∧ ∀ r ∈ s.mod.sv.records, r.qp ≠ q) →
    Answers (.flrComplete n) s fun m =>
      (∀ q ∈ s.mod.qpsOf n, m.qp q = {}) ∧ m.fnSt (vfFn n) = {} ∧ (m.box n).inq = [] ∧ (m.box n).outq = [] ∧ (m.box n).db = 0 ∧ (m.box n).mask = 0 ∧
      ∀ x ∈ s.mod.sv.boxes, x.2.holder = n.val + 1 → (m.box x.1).holder = 0) ∧
  (∀ (v : Vcs) (s : State), (s.mod.fnSt (hostFn v)).vfEnable = true →
    Answers (.vfEnableClear v) s fun m =>
      m.fnSt (hostFn v) = { s.mod.fnSt (hostFn v) with vfEnable := false } ∧ ∀ n ∈ s.mod.slotsOf v, (m.fnSt (vfFn n)).flr = true) ∧
  (∀ (v : Vcs) (s : State),
    Answers (.vfEnableSet v) s fun m => m.fnSt (hostFn v) = { s.mod.fnSt (hostFn v) with vfEnable := true } ∧ m.out = s.mod.out ∧ ∀ f, f ≠ hostFn v → m.fnSt f = s.mod.fnSt f) ∧
  (∀ (off v : Nat) (s : State),
    Answers (.bar4Write off v) s fun m =>
      m.sv = s.mod.sv ∧ m.di.obj = s.mod.di.obj ∧ m.out = s.mod.out ∧
      tget {} 0 m.di.windows = if (tget {} 0 s.mod.di.windows).errStatus = 0 then { tget {} 0 s.mod.di.windows with errStatus := 3, errOid := 0 } else tget {} 0 s.mod.di.windows)

/-- A descriptor is fetched, moves data and is recorded (DESCRIPTOR_FETCH, OP_COPY, OP_FILL, OP_ZERO, OP_SHAKE256, DESCRIPTOR_COMPLETE): the writes it
issues to host memory, as its piece of the data calls for. -/
def Obligations.TheMoverCopiesFillsAndRecords : Prop :=
  (∀ (d : Die) (q : Nat) (words : List Nat) (s : State), s.mod.se.live = none → s.mod.fetchable d = [q] →
    Answers (.descriptorFetch d words) s fun m => ∃ x : Desc,
      x.num = s.mod.sv.nextDesc ∧ x.words = words.take 8 ∧ (m.qp q).started = (s.mod.qp q).started ++ [x] ∧
      (m.qp q).sqHead = ((s.mod.qp q).sqHead + 1) % 2 ^ (s.mod.qp q).sqs ∧ m.sv.nextDesc = s.mod.sv.nextDesc + 1 ∧
      (x.invalid = true → x.ran = true ∧ x.status = 2 ∧ (m.qp q).st = .error ∧ (m.qp q).errCode = 2)) ∧
  (∀ (q : Qp) (num op : Nat) (c : Instr) (d : Desc) (s : State),
    (c, op) ∈ [(Instr.opCopy q num false, 1), (.opFill q num false, 2), (.opZero q num false, 3)] →
    Runs s.mod q num op d → d.sas = 0 → d.das = 0 → d.src % 64 = d.dst % 64 → d.pos < d.len → d.writes.length ≤ 64 →
    (op = 1 → d.buf.length = s.mod.chunk q d) → Quiet s.mod (qpStream q) → Room s.mod (s.mod.qpPort q) → Open s.mod (s.mod.qpPort q) →
    Answers c s fun m => ∃ (m1 : Mod) (r : IoReq) (x : Desc),
      let bytes := if op = 1 then d.buf else (List.range (s.mod.chunk q d)).map fun i => (if op = 2 then d.word 4 else 0) / 256 ^ ((d.pos + i) % 8) % 256
      m = m1.settle.runDesc q num op (2 * d.moves - 1) ∧ r ∈ m1.br.live ∧ r.io = .write ∧ r.tgt = .port s.mod.rt.id (s.mod.qpPort q) ∧
      r.addr = d.dst + d.pos ∧ r.len = s.mod.chunk q d ∧ r.data = ofBytesLE bytes ∧ r.poison = d.bad ∧ m1.desc q num = some x ∧
      x.pos = d.pos + s.mod.chunk q d ∧ x.writes = d.writes ++ [(r.id, d.dst + d.pos)] ∧ x.buf = [] ∧ (x.ran = true ↔ d.len ≤ x.pos) ∧
      (x.ran = true → x.bytes = d.len ∧ x.status = if d.place.isSome then 7 else 0)) ∧
  (∀ (q : Qp) (num : Nat) (d : Desc) (s : State), Runs s.mod q num 7 d → d.das = 0 → d.dst % 64 = 0 → d.pos = d.len →
    Quiet s.mod (qpStream q) → Room s.mod (s.mod.qpPort q) → Open s.mod (s.mod.qpPort q) →
    Answers (.opShake256 q num false) s fun m => ∃ (m1 : Mod) (r : IoReq) (x : Desc),
      m = m1.settle.runDesc q num 7 (2 * d.moves - 1) ∧ r ∈ m1.br.live ∧ r.io = .write ∧ r.addr = d.dst ∧ r.len = 64 ∧
      r.data = ofBytesLE (shake256 d.msg 64) ∧ m1.desc q num = some x ∧ x.ran = true ∧ x.bytes = d.len ∧
      x.r2 = ofBytesLE ((shake256 d.msg 64).take 8) % 2 ^ 64 ∧ x.r3 = ofBytesLE (((shake256 d.msg 64).drop 8).take 8) % 2 ^ 64) ∧
  (∀ (q : Qp) (num : Nat) (d : Desc) (s : State), s.mod.md.mode.pastBootMode = true → s.mod.absorbed q = s.mod → s.mod.desc q num = some d → d.ran = true →
    d.writes = [] → d.silent = false → (s.mod.qp q).cqRoom = true → (s.mod.fnSt (vfFn (s.mod.qpSlot q))).flr = false →
    Quiet s.mod (qpStream q) → Room s.mod (s.mod.qpPort q) → Open s.mod (s.mod.qpPort q) →
    Answers (.descriptorComplete q num) s fun m => ∃ (m1 : Mod) (r : IoReq),
      let k := s.mod.qp q
      m = m1.settle ∧ (m1.qp q).started = k.started.filter (fun x => decide (x.num ≠ num)) ∧ (m1.qp q).cqTail = (k.cqTail + 1) % 2 ^ k.cqs ∧
      (m1.qp q).phase = (if (k.cqTail + 1) % 2 ^ k.cqs = 0 then !k.phase else k.phase) ∧
      r ∈ m1.br.live ∧ r.io = .write ∧ r.tgt = .port s.mod.rt.id (s.mod.qpPort q) ∧ r.addr = k.cqBase + 32 * k.cqTail ∧ r.len = 32 ∧
      r.data % 2 ^ 64 = pack [(b2n k.phase, 63, 1), (d.status, 56, 7), (d.op, 48, 8), (d.code, 40, 8), (fld (s.mod.objv (qpOwnerOid q)) 0 6, 32, 8), (d.ident, 0, 32)])

/-- Descriptors end with their results (OP_COMPARE, OP_CRC32C, OP_CRC64, OP_FETCH_ADD, OP_CAS, OP_MIGRATE, OP_FENCE, OP_NOTIFY). -/
def Obligations.DescriptorsEndWithTheirResults : Prop :=
  (∀ (q : Qp) (num : Nat) (d : Desc) (s : State), Runs s.mod q num 4 d → d.writes = [] → d.silent = false → d.buf.length = s.mod.chunk q d →
    d.msg.length = s.mod.chunk q d → d.pos < d.len → d.len ≤ d.pos + s.mod.chunk q d →
    Answers (.opCompare q num false) s fun m => ∃ x : Desc,
      m.desc q num = some x ∧ x.ran = true ∧
      (∀ i, firstDiff d.buf d.msg 0 = some i → x.status = 1 ∧ x.r2 = (d.pos + i) % 2 ^ 64 ∧ x.bytes = d.pos + i + 1) ∧
      (firstDiff d.buf d.msg 0 = none → x.status = d.status ∧ x.r2 = 2 ^ 64 - 1 ∧ x.bytes = d.len)) ∧
  (∀ (q : Qp) (num op : Nat) (c : Instr) (d : Desc) (s : State), (c, op) ∈ [(Instr.opCrc32c q num false, 5), (.opCrc64 q num false, 6)] →
    Runs s.mod q num op d → d.writes = [] → d.silent = false → d.buf.length = s.mod.chunk q d → d.pos < d.len → d.len ≤ d.pos + s.mod.chunk q d →
    Answers c s fun m => ∃ x : Desc,
      let first := if d.pos = 0 then d.word 4 else d.acc
      m.desc q num = some x ∧ x.ran = true ∧ x.bytes = d.len ∧ x.status = d.status ∧
      (op = 5 → x.r2 = (crcBytes 0x82F63B78 (if d.pos = 0 then d.word 4 % 2 ^ 32 else d.acc) d.buf ^^^ (2 ^ 32 - 1)) % 2 ^ 64) ∧
      (op = 6 → x.r2 = (crc64Bytes first d.buf ^^^ (2 ^ 64 - 1)) % 2 ^ 64)) ∧
  (∀ (q : Qp) (num op : Nat) (c : Instr) (d : Desc) (s : State), (c, op) ∈ [(Instr.opFetchAdd q num false, 8), (.opCas q num false, 9)] →
    Runs s.mod q num op d → d.writes = [] → d.silent = false → d.opened = true → d.buf.length = d.len →
    Answers c s fun m => ∃ x : Desc,
      m.desc q num = some x ∧ x.ran = true ∧ x.bytes = d.len ∧ x.status = d.status ∧ x.r2 = ofBytesLE (d.buf.take 8) % 2 ^ 64 ∧
      x.r3 = ofBytesLE (d.buf.drop 8) % 2 ^ 64) ∧
  (∀ (q : Qp) (num : Nat) (d : Desc) (s : State), Runs s.mod q num 10 d → d.migrate = none → s.mod.objv (vfOid (s.mod.qpSlot q) 7) ≠ 0 →
    s.mod.homedHere (fld (d.word 4) 0 16) = true → s.mod.homedHere (fld (d.word 4) 16 16) = true →
    fld (s.mod.d0 (fld (d.word 4) 0 16)) 33 8 = s.mod.vfTenant (s.mod.qpSlot q) →
    s.mod.mState (fld (d.word 4) 0 16) ∉ [1, 2, 3] → s.mod.migDestOk (fld (d.word 4) 0 16) (fld (d.word 4) 16 16) = true →
    Answers (.opMigrate q num) s fun m => ∃ (m1 : Mod) (x : Desc),
      m = m1.settle.runDesc q num 10 (2 * d.moves - 1) ∧ m1.mState (fld (d.word 4) 0 16) = 1 ∧ m1.mDest (fld (d.word 4) 0 16) = fld (d.word 4) 16 16 ∧
      m1.desc q num = some x ∧ x.migrate = some (fld (d.word 4) 0 16) ∧ x.ran = false) ∧
  (∀ (q : Qp) (num : Nat) (d : Desc) (s : State), Runs s.mod q num 11 d → d.opened = false → Quiet s.mod (qpStream q) →
    Answers (.opFence q num) s fun m => ∃ (m1 : Mod) (x : Desc),
      m = m1.settle.runDesc q num 11 (2 * d.moves - 1) ∧
      m1.br.barriers = s.mod.br.barriers ++ [{ stream := qpStream q, seq := s.mod.barNumber (qpStream q), who := .qp q num, covered := [] }] ∧
      m1.desc q num = some x ∧ x.opened = true ∧ x.fence = true ∧ x.ran = false) ∧
  (∀ (q : Qp) (num : Nat) (d : Desc) (s : State), Runs s.mod q num 12 d → s.mod.callable (s.mod.qpSlot q) (fld (d.word 4) 0 9) = true →
    Answers (.opNotify q num) s fun m => ∃ (m1 : Mod) (x : Desc),
      m = m1.settle.runDesc q num 12 (2 * d.moves - 1) ∧
      m1.box (fld (d.word 4) 0 9) = { s.mod.box (fld (d.word 4) 0 9) with db := (s.mod.box (fld (d.word 4) 0 9)).db ||| fld (d.word 5) 0 31 } ∧
      m1.desc q num = some x ∧ x.ran = true ∧ x.status = d.status)

/-- The hub's bus (HUB_BUS_TRANSACTION), the counters and the error scrub (FILTERED_COUNTER_OVERFLOW, BANDWIDTH_WINDOW_END, LEAK_TICK, SCRUB_READ,
WALKER_PASS_STEP, GDDR6_REFRESH, GDDR6_CASE_TEMP), and the event log's message (MSI_COALESCE_END). -/
def Obligations.HubBusCountersAndScrub : Prop :=
  (∀ (master : Fin 18) (priv : Fin 4) (k : BusKind) (addr size data : Nat) (s : State),
    2 ≤ s.mod.md.mode.code → 1 ≤ size → size ≤ 64 → addr < 2 ^ 48 → master ≠ 17 ∨ (priv = 3 ∧ k ≠ .fetch ∧ s.mod.lifeCode ≠ 5) →
    Answers (.hubBusTransaction master priv k addr size data) s fun m =>
      (s.mod.forbidden priv.val k addr size = none → k = .write → 0x100000000 ≤ addr → addr < 0x180000000 →
        m.out = s.mod.out ++ [.bus master true 0] ∧ m.sv.sram = s.mod.sv.sram ∧
        ∀ a, m.sv.service.read a = if addr ≤ a + 0x100000000 ∧ a + 0x100000000 < addr + size then data / 256 ^ (a + 0x100000000 - addr) % 256 else s.mod.sv.service.read a) ∧
      (s.mod.forbidden priv.val k addr size = none → k = .write → 0x10000000 ≤ addr → addr < 0x11000000 →
        m.out = s.mod.out ++ [.bus master true 0] ∧ m.sv.service = s.mod.sv.service ∧
        ∀ a, m.sv.sram.read a = if addr ≤ a + 0x10000000 ∧ a + 0x10000000 < addr + size then data / 256 ^ (a + 0x10000000 - addr) % 256 else s.mod.sv.sram.read a) ∧
      (s.mod.forbidden priv.val k addr size = none → k ≠ .write →
        m.out = s.mod.out ++ [.bus master true (ofBytesLE ((List.range size).map fun i => s.mod.hubByte (addr + i)))] ∧ m.sv = s.mod.sv) ∧
      (∀ a, s.mod.forbidden priv.val k addr size = some a → m.out.getLast? = some (.bus master false 0) ∧ m.sv.service = s.mod.sv.service ∧
        m.sv.sram = s.mod.sv.sram ∧ (bit (s.mod.objv 0xC01002) 31 = false → m.objv 0xC01001 = addr ∧ bit (m.objv 0xC01002) 31 = true))) ∧
  (∀ (k : Fin 64) (o : Sampled) (s : State), k.val ∈ s.mod.cn.arms →
    Answers (.filteredCounterOverflow k o) s fun m =>
      let n := s.mod.objv 0xE04300
      let at_ := s.mod.objv 0xE04100 + 32 * (n % (s.mod.objv 0xE04200 / 32))
      m.cn.arms = s.mod.cn.arms.erase k.val ∧
      ((n + 2 ^ 32 - s.mod.objv 0xE04400) % 2 ^ 32 < s.mod.objv 0xE04200 / 32 →
        m.objv 0xE04300 = (n + 1) % 2 ^ 32 ∧
        ∀ a, m.sv.service.read a = if at_ ≤ a ∧ a < at_ + 32 then s.mod.opRecord k.val o / 256 ^ (a - at_) % 256 else s.mod.sv.service.read a) ∧
      (s.mod.objv 0xE04200 / 32 ≤ (n + 2 ^ 32 - s.mod.objv 0xE04400) % 2 ^ 32 → m.objv 0xE04300 = n ∧ ∀ a, m.sv.service.read a = s.mod.sv.service.read a)) ∧
  (∀ (s : State), s.mod.cn.winSkip = false →
    Answers .bandwidthWindowEnd s fun m =>
      let t := (s.mod.meridian / s.mod.objv 0xE04000 + 1) * s.mod.objv 0xE04000
      m.cn.lastRx = s.mod.cn.winRx ∧ m.cn.lastTx = s.mod.cn.winTx ∧ m.cn.winRx = [] ∧ m.cn.winTx = [] ∧ m.cn.winEnd = t ∧
      (0 ≤ s.mod.ti.trim → t ≤ m.meridian) ∧
      (∀ p, max (tget 0 p s.mod.cn.peakRx) (tget 0 p s.mod.cn.winRx) ≤ tget 0 p m.cn.peakRx) ∧
      (∀ p, max (tget 0 p s.mod.cn.peakTx) (tget 0 p s.mod.cn.winTx) ≤ tget 0 p m.cn.peakTx)) ∧
  (∀ (s : State),
    Answers .leakTick s fun m =>
      let p := s.mod.objv 0xE02200 * 60 * sec
      m.now = max s.mod.now (s.mod.md.bootAt + ((s.mod.now - s.mod.md.bootAt) / p + 1) * p) ∧
      (∀ x ∈ s.mod.cn.leak, x.1 ∈ s.mod.cn.leakStopped → x ∈ m.cn.leak) ∧
      (∀ x ∈ s.mod.cn.leak, x.1 ∉ s.mod.cn.leakStopped → 2 ≤ x.2 → (x.1, x.2 - 1) ∈ m.cn.leak) ∧
      m.cn.leak.length = (s.mod.cn.leak.filter fun x => decide (x.1 ∈ s.mod.cn.leakStopped) || decide (2 ≤ x.2)).length) ∧
  (∀ (c : Fin 24) (f : ScrubFind) (s : State), .vmem ∈ s.mod.md.rails → tget 0 c.val s.mod.cn.scrubPos + 1 < scrubLines → f ∈ [.clean, .corrected] →
    Answers (.scrubRead c f) s fun m => ∃ m1 : Mod,
      let key := c.val * 2 ^ 20 + rowOf (tget 0 c.val s.mod.cn.scrubPos)
      m = m1.settle ∧ tget 0 c.val m1.cn.scrubPos = tget 0 c.val s.mod.cn.scrubPos + 1 ∧
      (f = .corrected → tget 0 key m1.cn.rowFix = tget 0 key s.mod.cn.rowFix + 1) ∧
      (f = .corrected → tget 0 key s.mod.cn.rowFix = 3 → tget 0 c.val s.mod.cn.sparesUsed < spareRows c →
        key ∈ m1.cn.remapped ∧ tget 0 c.val m1.cn.sparesUsed = tget 0 c.val s.mod.cn.sparesUsed + 1) ∧
      (f = .clean ∨ tget 0 key s.mod.cn.rowFix ≠ 3 → m1.cn.remapped = s.mod.cn.remapped)) ∧
  (∀ (w : Walked) (s : State),
    Answers (.walkerPassStep w .clean) s fun m =>
      m = { s.mod with cn := { s.mod.cn with walker := tset 0 (walkIndex w) (tget 0 (walkIndex w) s.mod.cn.walker + 1) s.mod.cn.walker } }) ∧
  (∀ (c : Fin 24) (s : State), .vmem ∈ s.mod.md.rails → s.mod.chained (1152 + 8 * c + 1) = false →
    Answers (.gddr6Refresh c) s fun m =>
      tget 0 (2304 + 16 * c.val + 3) m.cn.ctr = (tget 0 (2304 + 16 * c.val + 3) s.mod.cn.ctr + 1) % 2 ^ 48 ∧
      ∀ j, j ≠ 2304 + 16 * c.val + 3 → tget 0 j m.cn.ctr = tget 0 j s.mod.cn.ctr) ∧
  (∀ (c : Fin 24) (temp : Int) (s : State),
    Answers (.gddr6CaseTemp c temp) s fun m =>
      (85000 < temp → c.val ∈ m.cn.hot) ∧ (temp < 83000 → c.val ∉ m.cn.hot) ∧ (83000 ≤ temp → temp ≤ 85000 → m = s.mod) ∧
      ∀ x, x ≠ c.val → (x ∈ m.cn.hot ↔ x ∈ s.mod.cn.hot)) ∧
  (∀ (t : Nat) (s : State), s.mod.ev.msiQuiet = some t →
    Answers .msiCoalesceEnd s fun m =>
      m.now = max s.mod.now t ∧ m.ev.msiOwed = false ∧
      (s.mod.ev.msiOwed = false → m.ev.msiQuiet = none ∧ m.out = s.mod.out) ∧
      (s.mod.ev.msiOwed = true → s.mod.md.mrdy = true → (s.mod.fnSt 0).msixOn = true → (tget {} 0 (s.mod.fnSt 0).table).masked = false →
        Out.msi 0 0 ∈ m.out ∧ m.ev.msiQuiet = some (m.now + s.mod.objv 0xE00300 * 1000)))

/-- Requests that read and write objects (DICT_READ, DICT_READ_MULTI, DICT_WRITE, DICT_WRITE_GROUP, DICT_SUBSCRIBE): m0 is the module the request is executed in,
c its caller (R61, R64, R77 to R81, R86). -/
def Obligations.RequestsReadAndWriteObjects : Prop :=
  (∀ (h : ReqHdr) (it : Item) (m0 : Mod) (c : Caller) (s : State), Enters s.mod h (.read it) m0 c → m0.readSts h.src it.oid ≠ .ok →
    Answers (.dictRead h it) s fun m =>
      m = m0.answer h.src (respTo 1 c h (m0.readSts h.src it.oid) [{ oid := it.oid, ty := it.ty, status := m0.readSts h.src it.oid }])) ∧
  (∀ (h : ReqHdr) (it : Item) (r : ObjRow) (m0 : Mod) (c : Caller) (s : State), Enters s.mod h (.read it) m0 c → m0.rowFor h.src it.oid = some r →
    m0.readSts h.src it.oid = .ok → it.ty = tyCode r.ty → r.m ∈ [.r, .rw] → PlainRead it.oid →
    Answers (.dictRead h it) s fun m =>
      (h.shadow = false → m = m0.answer h.src (respTo 1 c h .ok [{ oid := it.oid, ty := it.ty, len := valueLen r (m0.view c.sess it.oid), val := m0.view c.sess it.oid, pend := (m0.shadowOf it.oid).isSome }])) ∧
      ∀ x ∈ m0.shadowOf it.oid, h.shadow = true → x.1.session = c.sess → m = m0.answer h.src
        (respTo 1 c h .ok [{ oid := it.oid, ty := it.ty, len := r.size, val := x.2, pend := true }])) ∧
  (∀ (h : ReqHdr) (its : List Item) (m0 : Mod) (c : Caller) (s : State), Enters s.mod h (.multi its) m0 c →
    Answers (.dictReadMulti h its) s fun m =>
      (1456 < (its.map (m0.answerLen c)).sum → m = m0.answer h.src (respTo 3 c h .tooLong)) ∧
      ((its.map (m0.answerLen c)).sum ≤ 1456 →
        let x := m0.readItems c h.shadow its []
        m = x.1.answer h.src (respTo 3 c h .ok x.2) ∧ x.2.map (·.oid) = its.map (·.oid) ∧
        ((∀ it ∈ its, PlainRead it.oid) → x.1 = m0 ∧ x.2 = its.map fun it => (m0.readItem c h.shadow it).2))) ∧
  (∀ (h : ReqHdr) (it : Item) (stored : Bool) (m0 : Mod) (c : Caller) (s : State), Enters s.mod h (.write it) m0 c → (m0.checkWrite c it).2.1 ≠ .ok →
    Answers (.dictWrite h it stored) s fun m =>
      m = (m0.checkWrite c it).1.answer h.src (respTo 2 c h (m0.checkWrite c it).2.1 [{ oid := it.oid, ty := it.ty, status := (m0.checkWrite c it).2.1 }])) ∧
  (∀ (h : ReqHdr) (it : Item) (stored : Bool) (m0 k : Mod) (c : Caller) (r : ObjRow) (num : Nat) (s : State), Enters s.mod h (.write it) m0 c →
    m0.checkWrite c it = (k, .ok, some r) → k.groupOf r it.oid = some num →
    (∀ g ∈ k.group num, g.st = .opened ∧ (g.session = c.sess ∨ privOf h.src ≠ .root)) → (∃ i < 64, i + 1 ∉ k.di.groups.map (·.slot)) →
    let v := k.written (privOf h.src) it.oid (it.val % 256 ^ it.len)
    Answers (.dictWrite h it stored) s fun m =>
      m.objv it.oid = s.mod.objv it.oid ∧
      (k.group num = none → (m.group num).isSome = true ∧ ∀ g ∈ m.group num, g.shadows = [(it.oid, v)] ∧ g.session = c.sess ∧ g.st = .opened ∧ g.openedAt = s.mod.now) ∧
      (∀ g ∈ k.group num, g.session = c.sess →
        m.group num = some { g with shadows := g.shadows.filter (fun y => y.1 ≠ it.oid) ++ [(it.oid, v)] }) ∧
      (∀ g ∈ k.group num, g.session ≠ c.sess → m = k.answer h.src
        (respTo 2 c h .locked [{ oid := it.oid, ty := it.ty, status := .locked }] g.session))) ∧
  (∀ (h : ReqHdr) (num : Nat) (its : List Item) (stored : Bool) (m0 : Mod) (c : Caller) (s : State), Enters s.mod h (.group num its) m0 c →
    let k := m0.checkGroup { c := c, opcode := 4, seq := h.seq, stored := stored } num its []
    Answers (.dictWriteGroup h num its stored) s fun m =>
      (k.2.1.1 ≠ .ok → m = k.1.answer h.src (respTo 4 c h k.2.1.1 [] k.2.1.2)) ∧
      (k.2.1.1 = .ok → privOf h.src ≠ .tenant → k.1.group num = none → (∃ i < 64, i + 1 ∉ k.1.di.groups.map (·.slot)) → (k.2.2.map (·.1)).Nodup → k.2.2 ≠ [] →
        num / 2 ^ 24 = 3 → k.1.withShadow { num := num, shadows := k.2.2 } (fctrOid (num % 2 ^ 24) 4) ≠ 0 → stored = true →
        (∃ m1 : Mod, m = m1.answer h.src (respTo 4 c h .ok)) ∧ m.group num = none ∧ ∀ x ∈ k.2.2, m.objv x.1 = x.2)) ∧
  (∀ (h : ReqHdr) (it : Item) (mode : Nat) (m0 : Mod) (c : Caller) (s : State), Enters s.mod h (.subscribe it mode) m0 c →
    m0.readSts h.src it.oid = .ok → ((objFind it.oid).any (fun r => decide (tyCode r.ty = it.ty)) = true) → 2 ≤ c.sess → c.sess < 0x100 →
    Answers (.dictSubscribe h it mode) s fun m =>
      (mode ≤ 60000 → m0.subsOf c.sess < 16 → m0.di.subs.length < 256 → 
        m.di.subs.dropLast = m0.di.subs ∧ m.di.subs.length = m0.di.subs.length + 1 ∧ ∀ x ∈ m.di.subs.getLast?, x.id = m0.di.nextSub ∧ x.session = c.sess ∧ x.oid = it.oid ∧ x.mode = mode ∧ x.lastAt = s.mod.now ∧
        m.di.nextSub = m0.di.nextSub % 65535 + 1 ∧ x.last = (m0.subObjects h.src x).map fun o => (o, m0.shown c.sess o)) ∧
      (mode ≤ 60000 → 16 ≤ m0.subsOf c.sess ∨ 256 ≤ m0.di.subs.length → m = m0.answer h.src (respTo 7 c h .busy)))

/-- Groups are committed, aborted and applied (DICT_COMMIT, DICT_ABORT, GROUP_APPLY, COMMIT_PENDING_ANSWER, GROUP_LOCK_EXPIRY, IDE_KEY_CHANGE_POINT,
GATE_TAKEOVER; R65 to R71, R79, R230, R375, R377). -/
def Obligations.GroupsCommitAndApply : Prop :=
  (∀ (h : ReqHdr) (num : Nat) (stored : Bool) (m0 : Mod) (c : Caller) (s : State), Enters s.mod h (.commit num) m0 c →
    (m0.checkWrite c (itemOf 0x001000 num)).2.1 ≠ .ok → Answers (.dictCommit h num stored) s fun m =>
      m = (m0.checkWrite c (itemOf 0x001000 num)).1.answer h.src (respTo 5 c h (m0.checkWrite c (itemOf 0x001000 num)).2.1)) ∧
  (∀ (h : ReqHdr) (num : Nat) (m0 : Mod) (c : Caller) (s : State), Enters s.mod h (.abort num) m0 c →
    (m0.checkWrite c (itemOf 0x001200 num)).2.1 ≠ .ok → Answers (.dictAbort h num) s fun m =>
      m = (m0.checkWrite c (itemOf 0x001200 num)).1.answer h.src (respTo 6 c h (m0.checkWrite c (itemOf 0x001200 num)).2.1)) ∧
  (∀ (h : ReqHdr) (num : Nat) (stored : Bool) (m1 m0 : Mod) (c : Caller) (r : ObjRow) (s : State), Enters s.mod h (.commit num) m1 c →
    m1.checkWrite c (itemOf 0x001000 num) = (m0, .ok, some r) →
    Answers (.dictCommit h num stored) s fun m =>
      (privOf h.src = .tenant ∨ m0.group num = none → m = m0.answer h.src (respTo 5 c h .noGroup)) ∧
      ∀ g ∈ m0.group num, privOf h.src ≠ .tenant →
        (g.st ≠ .opened → m = m0.answer h.src (respTo 5 c h .busy)) ∧
        (g.st = .opened → g.session ≠ c.sess →
          m = m0.answer h.src (respTo 5 c h .locked [] g.session)) ∧
        (g.st = .opened → g.session = c.sess → m0.joint c g ≠ .ok →
          m = m0.answer h.src (respTo 5 c h (m0.joint c g))) ∧
        (g.st = .opened → g.session = c.sess → m0.joint c g = .ok → g.persists = true → stored = false →
          m = m0.answer h.src (respTo 5 c h .flash)) ∧
        (g.st = .opened → g.session = c.sess → m0.joint c g = .ok → g.persists = false ∨ stored = true → m0.groupWaits g = true →
          m.out = m0.out ∧ m.di.obj = m0.di.obj ∧
          m.group num = some { g with st := if g.kind = 6 then .armed else .applying, handedAt := s.mod.now, src := h.src, opcode := 5, seq := h.seq, oid := 0x001000 }) ∧
        (g.st = .opened → g.session = c.sess → m0.joint c g = .ok → g.persists = false ∨ stored = true → m0.groupWaits g = false →
          g.kind ∈ [1, 2, 3, 7, 8] → (g.shadows.map (·.1)).Nodup →
          m.group num = none ∧ (∀ x ∈ g.shadows, m.objv x.1 = x.2) ∧ ∃ m1 : Mod, m = m1.answer h.src (respTo 5 c h .ok))) ∧
  (∀ (h : ReqHdr) (num : Nat) (m1 m0 : Mod) (c : Caller) (r : ObjRow) (s : State), Enters s.mod h (.abort num) m1 c →
    m1.checkWrite c (itemOf 0x001200 num) = (m0, .ok, some r) →
    Answers (.dictAbort h num) s fun m =>
      (privOf h.src = .tenant ∨ m0.group num = none → m = m0.answer h.src (respTo 6 c h .noGroup)) ∧
      ∀ g ∈ m0.group num, privOf h.src ≠ .tenant →
        (g.st ≠ .opened → m = m0.answer h.src (respTo 6 c h .busy)) ∧
        (g.st = .opened → g.session = c.sess → m = (m0.dropGroup num).answer h.src (respTo 6 c h .ok)) ∧
        (g.st = .opened → g.session ≠ c.sess → privOf h.src ∈ [.manager, .root] →
          m = ((m0.dropGroup num).raise (evt 0x0002 Loc.module 0 num)).answer h.src (respTo 6 c h .ok) ∧
          m.group num = none ∧ m.di.obj = s.mod.di.obj)) ∧
  (∀ (num : Nat) (g : Group) (s : State), s.mod.group num = some g → g.st = .applying → (g.shadows.map (·.1)).Nodup → g.num = num →
    g.kind ∈ [1, 2, 3, 8] → s.mod.groupWaits g = false →
    Answers (.groupApply num) s fun m =>
      m.group num = none ∧ (∀ x ∈ g.shadows, m.objv x.1 = x.2) ∧ (g.answered = false → ∃ m1 : Mod, m = m1.answer g.src (g.resp .ok)) ∧
      (g.answered = true → m.out = s.mod.out ∨ g.kind = 2)) ∧
  (∀ (num : Nat) (g : Group) (s : State), s.mod.group num = some g → g.st = .applying → (g.shadows.map (·.1)).Nodup → g.num = num → g.kind = 7 →
    s.mod.groupGated g = false →
    Answers (.groupApply num) s fun m =>
      m.group num = none ∧ (∀ x ∈ g.shadows, m.objv x.1 = x.2) ∧
      ((s.mod.edge (s.mod.lead (ideOf g).1)).dllUp = true → (s.mod.ideSt (ideOf g).1 (ideOf g).2).state ≠ 3 →
        m.ideSt (ideOf g).1 (ideOf g).2 = { state := 2, committed := false }) ∧
      ((s.mod.edge (s.mod.lead (ideOf g).1)).dllUp = false → (m.ideSt (ideOf g).1 (ideOf g).2).committed = true)) ∧
  (∀ (num : Nat) (g : Group) (s : State), s.mod.group num = some g → g.num = num → g.st ≠ .opened → g.answered = false →
    Answers (.commitPendingAnswer num) s fun m => ∃ m1 : Mod,
      m = m1.answer g.src (g.resp .pending) ∧ m1.now = max s.mod.now (g.handedAt + ms) ∧ m1.group num = some { g with answered := true }) ∧
  (∀ (num : Nat) (g : Group) (s : State), s.mod.group num = some g → g.num = num → g.st = .opened →
    Answers (.groupLockExpiry num) s fun m => ∃ m1 : Mod,
      m = m1.raise (evt 0x0001 Loc.module 0 num) ∧ m1.now = max s.mod.now (g.openedAt + 10 * sec) ∧ m1.group num = none ∧ m1.di.obj = s.mod.di.obj) ∧
  (∀ (p : EdgePort) (i : Fin 6) (s : State), s.mod.lead p = p → (s.mod.ideSt p i).committed = true → (s.mod.ideSt p i).state ≠ 3 → (s.mod.edge p).dllUp = true →
    (∀ g ∈ s.mod.di.groups, g.kind = 7 → g.st = .applying → ideOf g ≠ (p.val, i.val)) →
    Answers (.ideKeyChangePoint p i) s fun m =>
      m.ideSt p i = { state := 2, committed := false } ∧ m.di = s.mod.di ∧
      ((∀ j ∈ List.range 6, j ≠ i.val → (s.mod.ideSt p j).state ≠ 3) → (m.edge p).stopped = false)) ∧
  (∀ (p : PortIx) (g : Group) (T : Nat) (s : State), s.mod.group (6 * 2 ^ 24 + p) = some g → g.st = .armed → (g.shadows.map (·.1)).Nodup →
    s.mod.groupGated g = false → T = s.mod.withShadow g (gateObj p 1) →
    Answers (.gateTakeover p) s fun m =>
      m.group (6 * 2 ^ 24 + p) = none ∧ (∀ x ∈ g.shadows, x.1 ≠ gateObj p 4 → m.objv x.1 = x.2) ∧ m.objv (gateObj p 4) = T ∧ (m.sched p).gateRun = true ∧
      (m.sched p).gateGen = ((s.mod.sched p).gateGen + 1) % 256 ∧ (T < s.mod.meridian → m.now = s.mod.now) ∧
      (s.mod.meridian ≤ T → 0 ≤ s.mod.ti.trim → T ≤ m.meridian)) ∧
  (∀ (p : PortIx) (s : State), s.mod.group (6 * 2 ^ 24 + p) = none → s.mod.objv (gateObj p 2) ≠ 0 → (s.mod.sched p).gateRun = false → s.mod.ti.locked = true →
    Answers (.gateTakeover p) s fun m =>
      m.objv (gateObj p 4) = s.mod.objv (gateObj p 1) ∧ (m.sched p).gateRun = true ∧ (m.sched p).gateGen = ((s.mod.sched p).gateGen + 1) % 256 ∧
      (∀ x, x ≠ gateObj p 4 → m.objv x = s.mod.objv x) ∧ ∀ x, x ≠ p.val → m.sched x = s.mod.sched x)

/-- Sessions, subscriptions and messages of other modules (SESSION_IDLE_TIMEOUT, NOTIFY_SEND, PROXY_RESPONSE, PROXY_TIMEOUT, PROXY_SEGMENT_RECEIVED,
PROXY_REASSEMBLY_TIMEOUT, ALERT_RESPONSE_ADDRESS; R84, R87, R89 to R91, R103, R314). -/
def Obligations.SessionsNotificationsAndProxies : Prop :=
  (∀ (id : Nat) (x : Session) (s : State), s.mod.di.sessions.find? (fun s => s.id = id) = some x →
    Answers (.sessionIdleTimeout id) s fun m =>
      m.now = max s.mod.now (x.lastAt + s.mod.objv 0x003500 * sec) ∧ (∀ y ∈ m.di.sessions, y.id ≠ id) ∧ (∀ y ∈ s.mod.di.sessions, y.id ≠ id → y ∈ m.di.sessions) ∧
      (∀ y ∈ m.di.subs, y.session ≠ id) ∧ (∀ t ∈ m.se.tokens, t.session ≠ id) ∧ (∀ g ∈ m.di.groups, g.st = .opened → g.session ≠ id) ∧
      m.di.obj = s.mod.di.obj) ∧
  (∀ (id : Nat) (x : Sub) (y : Session) (it : RItem) (s : State), s.mod.di.subs.find? (fun s => s.id = id) = some x →
    s.mod.di.sessions.find? (fun s => s.id = x.session) = some y → s.mod.serves y.src = true → transportOf y.src ≠ 6 →
    (s.mod.advanceTo (x.lastAt + (if x.mode = 0 then ms else x.mode * ms))).subItems y.src x = [it] → s.mod.subItems y.src x ≠ [] → it.len ≤ 1024 →
    Answers (.notifySend id) s fun m =>
      m.out = s.mod.out ++ [.notify y.src y.id x.id ((y.notifySeq + 1) % 2 ^ 32) [it]] ∧
      m.now = max s.mod.now (x.lastAt + (if x.mode = 0 then ms else x.mode * ms)) ∧
      ∃ z, m.di.subs.find? (fun s => s.id = id) = some z ∧ z.lastAt = m.now ∧ z.oid = x.oid ∧ z.mode = x.mode) ∧
  (∀ (sess seq far status subid : Nat) (items : List (Item × Nat)) (s : State),
    Answers (.proxyResponse ⟨sess, far⟩ seq status subid items) s fun m =>
      (∀ p ∈ s.mod.di.proxied.find? (fun (x : Proxied) => decide (x.session = sess) && decide (x.seq = seq)), p.src ≠ .firmware →
        let x := lockedItems (stsOf status) (answerItems items)
        (∃ m1 : Mod, m1.di = { (s.mod.learnFar p far).di with proxied := s.mod.di.proxied.filter fun (x : Proxied) => x ≠ p } ∧ m1.out = s.mod.out ∧
          m = m1.answer p.src { opcode := p.opcode, session := p.session, seq := p.seq, status := stsOf status, holder := x.2, subid := subid, items := x.1 }) ∧
        (far ≠ 0 → (∀ y ∈ s.mod.di.far, y.1 = p.session → y.2.1 ≠ p.target) → m.farSession p.session p.target = far)) ∧
      ((∀ p ∈ s.mod.di.proxied, p.session = sess → p.seq ≠ seq) →
        m = { s.mod with di := { s.mod.di with lateProxy := s.mod.di.lateProxy + 1 } })) ∧
  (∀ (i : Nat) (p : Proxied) (s : State), s.mod.di.proxied[i]? = some p → p.src ≠ .firmware →
    Answers (.proxyTimeout i) s fun m => ∃ m1 : Mod,
      m1.now = max s.mod.now p.deadline ∧ p ∉ m1.di.proxied ∧ m1.out = s.mod.out ∧
      m = m1.answer p.src { opcode := p.opcode, session := p.session, seq := p.seq, status := .timeout }) ∧
  (∀ (i : Nat) (priv : Fin 4) (orig : Nat) (stored : Bool) (b : Inbox) (s : State), s.mod.sw.inbox[i]? = some b → isProxy b.pkt = true → fld b.pkt.body 52 2 = 2 → fld b.pkt.body 54 2 = 0 →
    (∀ y ∈ s.mod.sw.inbox.take i, y.pkt.src = b.pkt.src → y.pkt.tc = 7 → fld y.pkt.body 52 12 ≠ fld b.pkt.body 52 12) →
    (∀ x ∈ s.mod.di.segs, x.src = b.pkt.src → x.tag ≠ fld b.pkt.body 32 16) →
    Answers (.proxySegmentReceived i ⟨priv, orig, stored⟩) s fun m =>
      m.di.segs = s.mod.di.segs ++ [{ src := b.pkt.src, tag := fld b.pkt.body 32 16, total := 2, len := fld b.pkt.body 16 16, parts := [(0, b.pkt.data)], firstAt := s.mod.now }] ∧
      m.sw.inbox = s.mod.sw.inbox.eraseIdx i ∧ m.out = s.mod.out) ∧
  (∀ (i : Nat) (priv : Fin 4) (orig : Nat) (stored : Bool) (b : Inbox) (s : State), s.mod.sw.inbox[i]? = some b → isProxy b.pkt = true → fld b.pkt.body 52 2 = 1 → fld b.pkt.body 54 2 = 0 →
    (∀ y ∈ s.mod.sw.inbox.take i, y.pkt.src = b.pkt.src → y.pkt.tc = 7 → fld y.pkt.body 52 12 ≠ fld b.pkt.body 52 12) →
    (∀ x ∈ s.mod.di.segs, x.src = b.pkt.src → x.tag ≠ fld b.pkt.body 32 16) →
    Answers (.proxySegmentReceived i ⟨priv, orig, stored⟩) s fun m => ∃ m1 : Mod,
      m = m1.proxyMessage b.pkt.src priv orig stored ((b.pkt.data.flatMap fun w => toBytes 8 w).take (fld b.pkt.body 16 16)) ∧ m1.di = s.mod.di ∧
      m1.sw.inbox = s.mod.sw.inbox.eraseIdx i) ∧
  (∀ (i : Nat) (b : SegBuf) (s : State), s.mod.di.segs[i]? = some b →
    Answers (.proxyReassemblyTimeout i) s fun m =>
      m.di.segs = s.mod.di.segs.eraseIdx i ∧ m.now = max s.mod.now (b.firstAt + sec) ∧ m.objv 0x600600 = (s.mod.objv 0x600600 + 1) % 2 ^ 64) ∧
  (∀ (s : State), s.mod.md.mode ≠ .off → s.mod.di.strapped = true →
    Answers .alertResponseAddress s fun m =>
      (s.mod.alert = true → m = { s.mod with out := s.mod.out ++ [.smbus (0x20 + s.mod.di.slotId)] }) ∧ (s.mod.alert = false → m = s.mod))

/-- The windows of a function, and registers without a command of their own (SLOT_READ, SLOT_WRITE, WIN_READ, WIN_WRITE, WIN_ERR_READ, REGISTER_WRITE; R93 to R95,
R515, R516). That REGISTER_WRITE carries the accesses of the fast-path maps and the reads of BAR4 is the model's choice (log entry 228). -/
def Obligations.WindowsAndRegisters : Prop :=
  (∀ (src : Source) (off : Nat) (wide : Bool) (k : Nat) (s : State), winKey src = some k →
    let o := off % 2 ^ 27
    let size := if wide then 8 else 4
    Answers (.slotRead src off wide) s fun m =>
      (s.mod.serves src = false → m = s.mod.emit (.value src (256 ^ size - 1))) ∧
      (s.mod.serves src = true → o < 0x7800000 → s.mod.slotSts src o size ≠ .ok →
        m = (s.mod.winFail k (slotOidOf o) (s.mod.slotSts src o size)).emit (.value src (256 ^ size - 1))) ∧
      (s.mod.serves src = true → o < 0x7800000 → s.mod.slotSts src o size = .ok → s.mod.readSts src (slotOidOf o) ≠ .ok →
        m = (s.mod.winFail k (slotOidOf o) (s.mod.readSts src (slotOidOf o))).emit (.value src (256 ^ size - 1))) ∧
      (∀ r ∈ objFind (slotOidOf o), s.mod.serves src = true → o < 0x7800000 → s.mod.slotSts src o size = .ok → s.mod.readSts src (slotOidOf o) = .ok →
        r.m ∈ [.r, .rw] → PlainRead (slotOidOf o) →
        m = (s.mod.onDictWindow k fun w => { w with pend := (s.mod.shadowOf (slotOidOf o)).isSome }).emit (.value src (s.mod.view (callerOf src).sess (slotOidOf o)))) ∧
      (s.mod.serves src = true → o = 0x7800000 → m = s.mod.emit (.value src (s.mod.dictWindow k).oid)) ∧
      (s.mod.serves src = true → o = 0x7800010 → wide = false →
        m = (s.mod.onDictWindow k fun w => { w with errOid := 0 }).emit (.value src (s.mod.dictWindow k).errOid)) ∧
      (s.mod.serves src = true → o = 0x7800014 → wide = false →
        m = (s.mod.onDictWindow k fun w => { w with errStatus := 0 }).emit (.value src (pack [((s.mod.dictWindow k).errStatus, 16, 16)]))) ∧
      (s.mod.serves src = true → 0x7800400 ≤ o → o < 0x7800800 → m = s.mod.emit (.value src ((s.mod.dictWindow k).bytes (o - 0x7800400) size)))) ∧
  (∀ (src : Source) (off : Nat) (wide : Bool) (v : Nat) (stored : Bool) (k : Nat) (s : State), winKey src = some k → s.mod.serves src = true →
    let o := off % 2 ^ 27
    let size := if wide then 8 else 4
    Answers (.slotWrite src off wide v stored) s fun m =>
      (o < 0x7800000 → s.mod.slotSts src o size ≠ .ok → m = s.mod.winFail k (slotOidOf o) (s.mod.slotSts src o size)) ∧
      (∀ r ∈ objFind (slotOidOf o), o < 0x7800000 → s.mod.slotSts src o size = .ok → v % 256 ^ size < 256 ^ r.size → plainIndex (slotOidOf o / 256) = true →
        r.grp = 0 → stored = true ∨ r.pers = false → Accepted s.mod src (slotOidOf o) (v % 256 ^ size) →
        m.objv (slotOidOf o) = s.mod.written (privOf src) (slotOidOf o) (v % 256 ^ size) ∧ (∀ x, x ≠ slotOidOf o → m.objv x = s.mod.objv x) ∧ m.out = s.mod.out) ∧
      (∀ r ∈ objFind (slotOidOf o), o < 0x7800000 → s.mod.slotSts src o size = .ok → 256 ^ r.size ≤ v % 256 ^ size →
        let k1 := s.mod.checkWrite (callerOf src) (itemOf (slotOidOf o) v)
        m = k1.1.winFail k (slotOidOf o) (if k1.2.1 = .ok then .range else k1.2.1)) ∧
      (o = 0x7800000 → m = s.mod.onDictWindow k fun w => { w with oid := v % 256 ^ size % 2 ^ 24 }) ∧
      (0x7800400 ≤ o → o < 0x7800800 → m = s.mod.onDictWindow k fun w => w.put (o - 0x7800400) size (v % 256 ^ size))) ∧
  (∀ (src : Source) (shadow : Bool) (k : Nat) (w : Window) (s : State), winKey src = some k → s.mod.serves src = true → s.mod.winBusy src = false →
    w = s.mod.dictWindow k → PlainRead w.oid →
    Answers (.winRead src shadow) s fun m =>
      m.di.obj = s.mod.di.obj ∧ m.di.groups = s.mod.di.groups ∧ (m.dictWindow k).oid = w.oid ∧ (m.dictWindow k).errOid = w.errOid ∧
      (m.dictWindow k).status = (s.mod.readSts src w.oid).code ∧
      (∀ r ∈ objFind w.oid, r.m ∈ [.r, .rw] → s.mod.readSts src w.oid = .ok → shadow = false →
        (m.dictWindow k).length = valueLen r (s.mod.view (callerOf src).sess w.oid) ∧
        (m.dictWindow k).data = s.mod.view (callerOf src).sess w.oid * 256 ^ (1024 - valueLen r (s.mod.view (callerOf src).sess w.oid)) ∧
        (m.dictWindow k).pend = (s.mod.shadowOf w.oid).isSome)) ∧
  (∀ (src : Source) (len : Fin 2048) (stored : Bool) (k : Nat) (m1 : Mod) (w : Window) (s : State), winKey src = some k → s.mod.serves src = true → s.mod.winBusy src = false →
    m1 = s.mod.onDictWindow k (fun w => { w with op := 1, shadow := false, length := len }) → w = m1.dictWindow k →
    Answers (.winWrite src len stored) s fun m =>
      (len.val = 0 ∨ 1024 < len.val → m = m1.onDictWindow k fun w => { w with status := Sts.type.code }) ∧
      ∀ r ∈ m1.rowFor src w.oid, 1 ≤ len.val → len.val ≤ 1024 →
        let it : Item := { oid := w.oid, ty := tyCode r.ty, len := len, val := w.data / 256 ^ (1024 - len.val) % 256 ^ len.val }
        ((m1.checkWrite (callerOf src) it).2.1 ≠ .ok → (m.dictWindow k).status = ((m1.checkWrite (callerOf src) it).2.1).code ∧ m.di.obj = s.mod.di.obj) ∧
        ((m1.checkWrite (callerOf src) it).2.1 = .ok → plainIndex (w.oid / 256) = true → r.grp = 0 → stored = true ∨ r.pers = false →
          (m.dictWindow k).status = 0 ∧ m.objv w.oid = s.mod.written (privOf src) w.oid it.val ∧ ∀ x, x ≠ w.oid → m.objv x = s.mod.objv x)) ∧
  (∀ (src : Source) (k : Nat) (w : Window) (s : State), winKey src = some k → s.mod.serves src = true → w = s.mod.dictWindow k →
    Answers (.winErrRead src) s fun m =>
      m = (s.mod.onDictWindow k fun w => { w with errStatus := 0, errOid := 0 }).emit (.value src (pack [(w.errStatus, 48, 16), (w.errOid, 0, 24)]))) ∧
  (∀ (src : Source) (oid v : Nat) (stored : Bool) (r : ObjRow) (s : State), objFind oid = some r → plainIndex (oid / 256) = true → r.grp = 0 →
    stored = true ∨ r.pers = false → Accepted s.mod src oid v →
    Answers (.registerWrite (.object src oid v stored)) s fun m =>
      m.objv oid = s.mod.written (privOf src) oid (v % 256 ^ r.size) ∧ (∀ x, x ≠ oid → m.objv x = s.mod.objv x) ∧ ∃ m1 : Mod, Told m1 src m) ∧
  (∀ (n : VfSlot) (j : Fin 64) (v q : Nat) (s : State), s.mod.localQp n j = some q → (s.mod.qp q).enable = false →
    Answers (.registerWrite (.sqBase n j v)) s fun m =>
      m.qp q = { s.mod.qp q with sqBase := v % 2 ^ 64 } ∧ (∀ x, x ≠ q → m.qp x = s.mod.qp x) ∧ m.out = s.mod.out) ∧
  (∀ (n : VfSlot) (j : Fin 64) (v q : Nat) (s : State), s.mod.localQp n j = some q → (s.mod.qp q).enable = false →
    Answers (.registerWrite (.cqBase n j v)) s fun m =>
      m.qp q = { s.mod.qp q with cqBase := v % 2 ^ 64 } ∧ (∀ x, x ≠ q → m.qp x = s.mod.qp x) ∧ m.out = s.mod.out) ∧
  (∀ (r : Reg) (n : VfSlot) (j : Fin 64) (v q : Nat) (s : State), r ∈ [.sqBase n j v, .cqBase n j v] → s.mod.localQp n j = some q → (s.mod.qp q).enable = true →
    Answers (.registerWrite r) s fun m => (∀ x, m.qp x = s.mod.qp x) ∧ m.objv (vfOid n 9) = (s.mod.objv (vfOid n 9) + 1) % 2 ^ 64) ∧
  (∀ (n : VfSlot) (v : Nat) (s : State), s.mod.vfShown n = true →
    Answers (.registerWrite (.vfCtrl n v)) s fun m => m.fnSt (vfFn n) = { s.mod.fnSt (vfFn n) with ctrl := v % 256 } ∧ ∀ f, f ≠ vfFn n → m.fnSt f = s.mod.fnSt f) ∧
  (∀ (a : Fin 258) (v : Nat) (s : State), s.mod.agent a = true →
    Answers (.registerWrite (.callSel a v)) s fun m => m.selected a = v % 512 ∧ ∀ x, x ≠ a.val → m.selected x = s.mod.selected x) ∧
  (∀ (f e addr data : Nat) (masked : Bool) (s : State), f < 560 → e < s.mod.msixSize f →
    Answers (.registerWrite (.msix f e addr data masked)) s fun m =>
      tget {} e (m.fnSt f).table = { addr := addr % 2 ^ 64, data := data % 2 ^ 32, masked := masked } ∧
      (∀ x, x ≠ e → tget {} x (m.fnSt f).table = tget {} x (s.mod.fnSt f).table) ∧ (masked = true → e ∈ (s.mod.fnSt f).pending → e ∈ (m.fnSt f).pending)) ∧
  (∀ (a : Fin 257) (off size tag : Nat) (s : State), s.mod.agent a = true → s.mod.fastOk a off size false = true →
    Answers (.registerWrite (.fastRead a off size tag)) s fun m =>
      (off ∉ [0x1000, 0x1104, 0x110C, 0x1114] → m = s.mod.emit (.reg a (s.mod.fastValue a off size))) ∧
      (off ∈ [0x1000, 0x1104, 0x110C, 0x1114] → m = s.mod.regRead a (s.mod.fastReadAt a off size) ∧ m.out.length = s.mod.out.length + 1)) ∧
  (∀ (n : VfSlot) (a : Fin 257) (v : Nat) (s : State), a.val = n.val → s.mod.agent a = true →
    Answers (.registerWrite (.fastWrite a 0x804 4 v)) s fun m => ∃ m1 : Mod,
      m = m1.settle ∧ m1.fnSt (vfFn n) = { s.mod.fnSt (vfFn n) with ctrl := v % 256 } ∧ m1.sv = s.mod.sv ∧ m1.br = s.mod.br) ∧
  (∀ (a : Fin 257) (off size v : Nat) (s : State), s.mod.agent a = true → s.mod.fastOk a off size true = false → a.val < 256 →
    Answers (.registerWrite (.fastWrite a off size v)) s fun m =>
      let p := s.mod.lead (s.mod.objv (mkOid 4 (0x100 + s.mod.vfVcs a) 1))
      m.objv (mkOid 7 (0x400 + p) 0xA) = (s.mod.objv (mkOid 7 (0x400 + p) 0xA) + 1) % 2 ^ 64 ∧ m.fn = s.mod.fn) ∧
  (∀ (off size : Nat) (s : State), s.mod.md.mode.pastBootMode = true →
    Answers (.registerWrite (.bar4Read off size)) s fun m =>
      ((size = 4 ∨ size = 8) → off % size = 0 → m = s.mod.emit (.value .mgmtPf (ofBytesLE (s.mod.sv.service.bytes (0x70000000 + off % 2 ^ 28) size)))) ∧
      (size ≠ 4 → size ≠ 8 → m = s.mod.emit (.value .mgmtPf (256 ^ size - 1)))) ∧
  (∀ (f : Nat) (on : Bool) (s : State), f < 560 →
    Answers (.registerWrite (.msixEnable f on)) s fun m =>
      (m.fnSt f).msixOn = on ∧ (m.fnSt f).table = (s.mod.fnSt f).table ∧ (on = false → m.out = s.mod.out ∧ (m.fnSt f).pending = (s.mod.fnSt f).pending)) ∧
  (∀ (v : Vcs) (on : Bool) (s : State), (s.mod.edge (s.mod.objv (mkOid 4 (0x100 + v) 1))).dllUp = true →
    Answers (.registerWrite (.biEnable v on)) s fun m => (tget {} v.val m.ed.vcs).biEnabled = on ∧ ∀ x, x ≠ v.val → tget {} x m.ed.vcs = tget {} x s.mod.ed.vcs) ∧
  (∀ (v : Vcs) (n : Vppb) (ur : Bool) (s : State), (s.mod.edge (s.mod.objv (mkOid 4 (0x100 + v) 1))).dllUp = true →
    Answers (.registerWrite (.dpcControl v n ur)) s fun m => m.vppb v n = { s.mod.vppb v n with dpcUr := ur })

/-- Writes of the mode request, the fence list and the feed controls (MODE_REQUEST_OFF, MODE_REQUEST_STANDBY, MODE_REQUEST_BOOT, MODE_REQUEST_CONFIGURE,
MODE_REQUEST_OPERATE, MODE_REQUEST_CAPPED, FENCE_ENTRY_SET, FENCE_ENTRY_CLEAR, CLEAR_TRIP, CLEAR_ENERGY; R106, R107, R131, R132, R157, R176). -/
def Obligations.WritesOfModesFencesAndFeeds : Prop :=
  (∀ (c : Instr) (src : Source) (v : Nat) (e : Mode) (s : State), (c, v, e) ∈ [(Instr.modeRequestOff src, 0, Mode.off), (.modeRequestStandby src, 1, .standby)] →
    Accepted s.mod src 0x200100 v → s.mod.md.mode ∈ [.configure, .operate, .capped, .drain] →
    Answers c s fun m =>
      m.md.mode = .drain ∧
      (s.mod.md.mode ≠ .drain → m.md.drain = { step := 2, endState := e, start := s.mod.now, bound := s.mod.now + s.mod.objv 0x200400 * ms } ∧
        m.md.passEnd = none ∧ m.di.sessions = []) ∧
      (s.mod.md.mode = .drain → m.md.drain = { s.mod.md.drain with endState := e })) ∧
  (∀ (src : Source) (s : State), Accepted s.mod src 0x200100 1 → s.mod.md.mode ∈ [.standby, .fault] →
    Answers (.modeRequestStandby src) s fun m => m.md.mode = .standby ∧ (s.mod.md.mode = .standby → m.md = s.mod.md) ∧
      (s.mod.md.mode = .fault → m.md.rails = [] ∧ m.di.sessions = [])) ∧
  (∀ (src : Source) (s : State), Accepted s.mod src 0x200100 2 →
    Answers (.modeRequestBoot src) s fun m =>
      (s.mod.md.mode = .standby → m.md = { s.mod.md with bootHeld := true }) ∧
      (s.mod.md.mode ∈ [.configure, .operate, .capped] →
        m.md.mode = .drain ∧ m.md.drain = { step := 2, endState := .boot, start := s.mod.now, bound := s.mod.now + 10 * ms } ∧ m.di.sessions = []) ∧
      (s.mod.md.mode = .drain → m.md.drain = { s.mod.md.drain with endState := .boot, bound := min s.mod.md.drain.bound (s.mod.now + 10 * ms) }) ∧
      (s.mod.md.mode = .fault → m.md.mode = .boot ∧ m.md.bootAt = s.mod.now ∧ m.di.sessions = [])) ∧
  (∀ (src : Source) (s : State), Accepted s.mod src 0x200100 3 →
    Answers (.modeRequestConfigure src) s fun m => s.mod.md.mode = .configure ∧ m.md = s.mod.md ∧ ∃ m1 : Mod, Told m1 src m) ∧
  (∀ (src : Source) (s : State), Accepted s.mod src 0x200100 4 →
    Answers (.modeRequestOperate src) s fun m =>
      (s.mod.md.mode = .configure → m.md.mode = if s.mod.md.gov.step = 0 then .operate else .capped) ∧
      (s.mod.md.mode ≠ .configure → m.md = s.mod.md ∧ s.mod.md.mode ∈ [.operate, .capped])) ∧
  (∀ (src : Source) (s : State), s.mod.di.lockedOut = [] →
    Answers (.modeRequestCapped src) s fun m =>
      m.md = s.mod.md ∧ m.di.obj = s.mod.di.obj ∧
      ∀ k ∈ winKey src, s.mod.serves src = true → privOf src = .manager → s.mod.modeServes src 0x200100 true false = true →
        m = s.mod.winFail k 0x200100 .range) ∧
  (∀ (src : Source) (s : State), s.mod.di.lockedOut = [] → winKey src = none → s.mod.modeServes src 0x200100 true false = true → privOf src ≠ .tenant →
    LetIn s.mod (s.mod.rowHdr src (itemLen (itemOf 0x200100 5))) (.write (itemOf 0x200100 5)) →
    let e := entered s.mod (s.mod.rowHdr src (itemLen (itemOf 0x200100 5)))
    Answers (.modeRequestCapped src) s fun m =>
      m = e.1.answer src (respTo 2 e.2 (s.mod.rowHdr src (itemLen (itemOf 0x200100 5))) .range [{ oid := 0x200100, ty := 2, status := .range }])) ∧
  (∀ (src : Source) (e : Fin 64) (u : UnitId) (s : State), Accepted s.mod src (fenceOid (e + 1)) (unitFields u) →
    Answers (.fenceEntrySet src e u true) s fun m => ∃ m0 m1 : Mod,
      m0.objv (fenceOid (e + 1)) = s.mod.fenceWord u 0 ∧ m0.fn.fenced = s.mod.fn.fenced ∧ m1 = (if s.mod.unitFenced u then m0 else m0.fenceEffect u) ∧
      Told m1.settle src m ∧ m.unitFenced u = true) ∧
  (∀ (src : Source) (e : Fin 64) (s : State), Accepted s.mod src (fenceOid (e + 1)) 0 →
    Answers (.fenceEntryClear src e true) s fun m => ∃ m1 : Mod,
      Told m1.settle src m ∧ m1.objv (fenceOid (e + 1)) = 0 ∧ m1.fn = s.mod.fn ∧ ∀ x, x ≠ fenceOid (e + 1) → m1.objv x = s.mod.objv x) ∧
  (∀ (src : Source) (v : Fin 256) (s : State), Accepted s.mod src 0x102100 v →
    Answers (.clearTrip src v) s fun m => ∀ f : Feed,
      (bit v f.val = false → (m.feed f).latched = (s.mod.feed f).latched ∧ (m.feed f).held = (s.mod.feed f).held ∧ (m.feed f).count = (s.mod.feed f).count) ∧
      (bit v f.val = true → (m.feed f).latched = false ∧ (m.feed f).count = 0 ∧ (m.feed f).retries = 0 ∧ (m.feed f).held = false ∧
        ((s.mod.feed f).held = true ∨ s.mod.objv 0x101400 = 0 → (s.mod.feed f).coolEnd.isSome = true → (m.feed f).clearSeen = true ∧ (m.feed f).fet = (s.mod.feed f).fet))) ∧
  (∀ (src : Source) (v : Fin 256) (s : State), Accepted s.mod src 0x102300 v →
    Answers (.clearEnergy src v) s fun m =>
      (m.feed 0).energy = (if bit v 0 then 0 else (s.mod.feed 0).energy) ∧ (m.feed 1).energy = (if bit v 1 then 0 else (s.mod.feed 1).energy) ∧
      m.pw.energy = (if bit v 2 then 0 else s.mod.pw.energy) ∧ (m.feed 0).peak = (if bit v 3 then 0 else (s.mod.feed 0).peak) ∧
      (m.feed 1).peak = (if bit v 4 then 0 else (s.mod.feed 1).peak) ∧ ∃ m1 : Mod, Told m1 src m)

/-- Writes of the lane tests, of ports and links, and of the time (TEST_OFF, TEST_GENERATE, TEST_CHECK, TEST_GENERATE_CHECK, TEST_COMPLIANCE, TIMING_MARGIN,
VOLTAGE_MARGIN, TEST_COUNT_CLEAR, PORT_ROLE_WRITE, PORT_ENABLE_WRITE, BINDING_WRITE, UNBIND_WRITE, LINK_RETIRE, LINK_UNRETIRE, LINK_RETRAIN_REQUEST, TIME_SET;
R208 to R214, R219 to R224, R255, R256, R274, R322). -/
def Obligations.WritesOfTestsPortsAndTime : Prop :=
  (∀ (c : Instr) (src : Source) (l : Lane) (mode v w : Nat) (s : State),
    (c, mode) ∈ [(Instr.testOff src l v, 0), (.testGenerate src l v, 1), (.testCheck src l v, 2), (.testGenerateCheck src l v, 3), (.testCompliance src l v, 4),
      (.timingMargin src l v, 5), (.voltageMargin src l v, 6)] →
    w = mode * 2 ^ 29 + v % 2 ^ 29 → Accepted s.mod src (mkOid 3 l 4) w →
    Answers c s fun m =>
      let running := decide (5 ≤ fld (s.mod.lane l).test 29 3) && !(s.mod.lane l).done
      (m.lane l).done = false ∧ (m.lane l).lock = ((s.mod.lane l).lock && decide (fld (s.mod.lane l).test 25 7 = fld w 25 7) && decide (mode ≤ 4)) ∧ fld (m.lane l).test 25 4 = fld w 25 4 ∧ fld (m.lane l).test 16 8 = fld w 16 8 ∧ bit (m.lane l).test 24 = false ∧
      (m.lane l).pstate = (if 1 ≤ mode ∧ mode ≤ 4 then 6 else if (s.mod.lane l).pstate = 6 then 1 else (s.mod.lane l).pstate) ∧
      (bit w 24 = true ∨ 5 ≤ mode → (m.lane l).errors = 0 ∧ (m.lane l).symbols = 0) ∧
      (bit w 24 = false → mode ≤ 4 → running = false → (m.lane l).errors = (s.mod.lane l).errors ∧ (m.lane l).symbols = (s.mod.lane l).symbols) ∧
      (bit w 24 = false → mode ≤ 4 → running = true → fld (s.mod.lane l).test 29 3 ≤ 6 →
        (m.lane l).symbols = min (symbolRate (s.mod.lane l).rate * (s.mod.now - (s.mod.lane l).runStart) / 10) (2 ^ 32) ∧ (m.lane l).errors ≤ (m.lane l).symbols) ∧
      (mode = 1 ∨ mode = 3 → Out.pattern l (fld w 25 4) (s.mod.lane l).rate ∈ m.out) ∧ (mode = 4 → Out.pattern l 16 (s.mod.lane l).rate ∈ m.out) ∧
      (mode ≤ 4 ∨ s.mod.laneLive l = true → fld (m.lane l).test 29 3 = mode ∧ (m.lane l).abort = running) ∧
      (5 ≤ mode → s.mod.laneLive l = false → fld (m.lane l).test 29 3 = 0 ∧ (m.lane l).abort = true) ∧
      ∀ x, x ≠ l.val → m.lane x = s.mod.lane x) ∧
  (∀ (src : Source) (l : Lane) (s : State), Accepted s.mod src (mkOid 3 l 4) (setFld ((s.mod.lane l).test / 2 ^ 16 * 2 ^ 16 % 2 ^ 32) 24 1 1) →
    Answers (.testCountClear src l) s fun m =>
      (m.lane l).errors = 0 ∧ (m.lane l).symbols = 0 ∧
      (m.lane l).lock = ((s.mod.lane l).lock && !decide (fld (s.mod.lane l).test 29 3 ∈ [5, 6])) ∧ bit (m.lane l).test 24 = false ∧ fld (m.lane l).test 25 4 = fld (s.mod.lane l).test 25 4 ∧
      (fld (s.mod.lane l).test 29 3 ≤ 4 ∨ s.mod.laneLive l = true → fld (m.lane l).test 29 3 = fld (s.mod.lane l).test 29 3) ∧
      ∀ x, x ≠ l.val → m.lane x = s.mod.lane x) ∧
  (∀ (src : Source) (p : EdgePort) (v : Fin 256) (s : State), Accepted s.mod src (mkOid 4 p 2) v →
    Answers (.portRoleWrite src p v true) s fun m =>
      m.objv (mkOid 4 p 2) = v.val ∧ m.edge p = { s.mod.edge p with perst := decide (v.val = 2) || decide (v.val = 3), hotAdd := .none } ∧
      (∀ x, x ≠ mkOid 4 p 2 → m.objv x = s.mod.objv x) ∧ ∀ x, x ≠ p.val → m.edge x = s.mod.edge x) ∧
  (∀ (src : Source) (p : EdgePort) (s : State), Accepted s.mod src (mkOid 4 p 1) 1 →
    Answers (.portEnableWrite src p true true) s fun m => ∃ m1 : Mod,
      Told m1.settle src m ∧ m1.objv (mkOid 4 p 1) = 1 ∧
      (s.mod.objv (mkOid 4 p 1) = 1 → m1.edge p = s.mod.edge p) ∧
      (s.mod.objv (mkOid 4 p 1) ≠ 1 → (m1.edge p).link = (if s.mod.role p = 1 ∧ (s.mod.edge p).perst = false then .training else .detect) ∧
        (m1.edge p).dllUp = (s.mod.edge p).dllUp)) ∧
  (∀ (src : Source) (p : EdgePort) (s : State), Accepted s.mod src (mkOid 4 p 1) 0 →
    Answers (.portEnableWrite src p false true) s fun m => ∃ m0 m1 : Mod,
      m0.objv (mkOid 4 p 1) = 0 ∧ m0.ed = s.mod.ed ∧
      m1 = ((if (s.mod.edge p).dllUp then m0.removal p false else m0.edgeIdle p).onEdge p fun s => { s with link := .disabled, hotAdd := .none }).refoutCheck (clusterOfPort p) ∧
      Told m1.settle src m ∧ (m.edge p).link = .disabled ∧ (m.edge p).hotAdd = .none) ∧
  (∀ (src : Source) (p : EdgePort) (v : Fin 65536) (s : State), Accepted s.mod src (mkOid 4 p 3) v → v.val ≠ 0xFFFF →
    Answers (.bindingWrite src p v .here true) s fun m => ∃ m1 : Mod,
      Told m1.settle src m ∧ ((s.mod.edge p).hotAdd ≠ .up → m1.binding p = v.val) ∧
      (v.val % 256 = 0xFF → m1.binding p = v.val ∧ m1.objv (mkOid 4 (0x100 + v.val / 256) 1) = p.val) ∧
      (v.val % 256 ≠ 0xFF → (s.mod.edge p).prsnt = true → (s.mod.edge p).hotAdd = .none → s.mod.objv (mkOid 4 p 1) = 1 → (m1.edge p).hotAdd = .counting)) ∧
  (∀ (src : Source) (p : EdgePort) (v : Fin 65536) (sw up : Nat) (s : State),
    Accepted (s.mod.onEdge p fun x => { x with farVcs := some (sw, v / 256, v % 256, up) }) src (mkOid 4 p 3) v → v.val % 256 ≠ 0xFF → (s.mod.edge p).hotAdd ≠ .up →
    Answers (.bindingWrite src p v (.vcs sw up) true) s fun m => ∃ m1 m2 : Mod,
      Told m1.settle src m2 ∧ (m2.binding p ≠ 0xFFFF → m = m2) ∧ m1.binding p = v.val ∧ (m1.edge p).farVcs = some (sw, v.val / 256, v.val % 256, up)) ∧
  (∀ (src : Source) (p : EdgePort) (v : Fin 65536) (sw q flit : Nat) (stored : Bool) (s : State), 1 ≤ v.val % 256 → v.val % 256 < 32 → v.val / 256 < 48 →
    s.mod.boundPort (v.val / 256) (v.val % 256) = none →
    Answers (.bindingWrite src p v (.port sw q flit) stored) s fun m =>
      m.vppb (v.val / 256) (v.val % 256) = { s.mod.vppb (v.val / 256) (v.val % 256) with remote := some (sw, q), flit := flit } ∧ m.di = s.mod.di ∧ m.out = s.mod.out) ∧
  (∀ (src : Source) (p : EdgePort) (far : Far) (sw up : Nat) (s : State), far ∈ [.here, .vcs sw up] → Accepted s.mod src (mkOid 4 p 3) 0xFFFF →
    Answers (.unbindWrite src p far true) s fun m => ∃ m1 : Mod,
      Told m1.settle src m ∧
      (s.mod.binding p % 256 = 0xFF → s.mod.binding p ≠ 0xFFFF → m1.binding p = 0xFFFF ∧ m1.objv (mkOid 4 (0x100 + s.mod.binding p / 256) 1) = 0xFF) ∧
      (s.mod.binding p % 256 ≠ 0xFF → (s.mod.edge p).hotAdd ≠ .up → m1.binding p = 0xFFFF ∧ (m1.edge p).hotAdd = .none ∧ (m1.edge p).perst = true ∧ (m1.edge p).farVcs = none) ∧
      (s.mod.binding p % 256 ≠ 0xFF → (s.mod.edge p).hotAdd = .up → s.mod.objv (mkOid 4 (0x100 + s.mod.binding p / 256) 1) ≠ 0xFF →
        (s.mod.edge (s.mod.objv (mkOid 4 (0x100 + s.mod.binding p / 256) 1))).dllUp = true →
        m1.binding p = s.mod.binding p ∧ (m1.edge p).unbind = some (s.mod.now + s.mod.objv (mkOid 4 p 7) * ms, s.mod.binding p))) ∧
  (∀ (src : Source) (p : EdgePort) (sw q flit : Nat) (stored : Bool) (s : State),
    Answers (.unbindWrite src p (.port sw q flit) stored) s fun m =>
      (∀ v n, n < 32 → (s.mod.vppb v n).remote = some (sw, q) →
        m.vppb v n = { s.mod.vppb v n with remote := none, present := false, linkActive := false, flit := 2 }) ∧
      (∀ v n, n < 32 → (s.mod.vppb v n).remote ≠ some (sw, q) → (∀ x ∈ s.mod.ed.vppb, x.1 = vppbKey v n → x.2 = s.mod.vppb v n) → m.vppb v n = s.mod.vppb v n) ∧
      m.di = s.mod.di ∧ m.out = s.mod.out) ∧
  (∀ (src : Source) (n : FabPort) (s : State), Accepted s.mod src (mkOid 5 n 2) 1 → (s.mod.link n).st ≠ .retired →
    Answers (.linkRetire src n true) s fun m => ∃ m0 : Mod,
      m0.objv (mkOid 5 n 2) = 1 ∧ m0.lk = s.mod.lk ∧ Told (m0.linkRetire n 13).settle src m ∧ (m.link n).st = .retired ∧ (m.link n).cause = 13) ∧
  (∀ (src : Source) (n : FabPort) (s : State), Accepted s.mod src (mkOid 5 n 2) 0 → (s.mod.link n).st = .retired →
    Answers (.linkUnretire src n true) s fun m => ∃ m1 : Mod,
      Told m1.settle src m ∧ m1.objv (mkOid 5 n 2) = 0 ∧ m.link n = { s.mod.link n with st := .down, cause := 0 } ∧ m1.objv (mkOid 5 (0x300 + n) 0xB) = (s.mod.objv (mkOid 5 (0x300 + n) 0xB) + 1) % 2 ^ 64 ∧ ∀ x, x ≠ n.val → m.link x = s.mod.link x) ∧
  (∀ (src : Source) (n : FabPort) (s : State), Accepted s.mod src (mkOid 5 n 8) 1 →
    Answers (.linkRetrainRequest src n) s fun m =>
      (s.mod.link n).st = .active ∧ (m.link n).st = .retrain ∧ (m.link n).cause = 16 ∧ (m.link n).retrainStart = s.mod.now ∧ ∀ x, x ≠ n.val → m.link x = s.mod.link x) ∧
  (∀ (src : Source) (v : Nat) (s : State), Accepted s.mod src 0x603200 (v % 2 ^ 64) →
    Answers (.timeSet src v) s fun m =>
      s.mod.ti.st = .grandmaster ∧ m.ti = { s.mod.ti with count := v % 2 ^ 64 * 65536 } ∧ m.meridian = v % 2 ^ 64)

/-- Writes of extents and parcels, and of the coherence operations (EXTENT_ADD_REQUEST, EXTENT_RELEASE_REQUEST, EXTENT_FORCE, EXTENT_CLEAR, BIND_OPERATION,
UNBIND_OPERATION, TAKEOVER, SERVE_WITHOUT_PARTNER, MIGRATION_REQUEST, REINIT_ACCEPT, REINIT_ZERO, FLUSH_REQUEST, CONFIRM_LOST_MODULE, LOST_MESSAGE_REPORT;
R392 to R416, R471, R473, R474). -/
def Obligations.WritesOfExtentsAndParcels : Prop :=
  (∀ (src : Source) (e : Fin 4096) (v w : Nat) (s : State), w = setFld (v % 2 ^ 64) 61 3 1 → Accepted s.mod src (extOid e) w → privOf src ≠ .root →
    Answers (.extentAddRequest src e v true) s fun m => ∃ m1 : Mod,
      Told m1.settle src m ∧ extState (s.mod.objv (extOid e)) = 0 ∧
      (s.mod.objv (mkOid 4 (0x100 + extVcs w) 1) = 0xFF ∨ (tget {} (extVcs w) s.mod.ed.vcs).biEnabled = false →
        extState (m1.objv (extOid e)) = 7 ∧ fld (m1.objv (extOid e)) 0 3 = 7) ∧
      (s.mod.objv (mkOid 4 (0x100 + extVcs w) 1) ≠ 0xFF → (tget {} (extVcs w) s.mod.ed.vcs).biEnabled = true →
        s.mod.spanFree e (extVcs w) (extRegion w) (extBlock w) 1 = true → extHome w ≠ s.mod.rt.id →
        (s.mod.remoteIx (extHome w) (extDesc w)).isSome = true ∨ s.mod.freeRemote.isSome = true →
        extState (m1.objv (extOid e)) = 2 ∧ ∃ p ∈ m1.di.proxied, p.target = extHome w ∧ p.oid = 0x901000 ∧ p.opcode = 2 ∧
          p.val = pack [(1, 62, 2), (s.mod.rt.id, 50, 12), (extDesc w, 34, 16), (extTenant w, 26, 8)]) ∧
      (s.mod.objv (mkOid 4 (0x100 + extVcs w) 1) ≠ 0xFF → (tget {} (extVcs w) s.mod.ed.vcs).biEnabled = true → extHome w = s.mod.rt.id →
        s.mod.spanFree e (extVcs w) (extRegion w) (extBlock w) (2 ^ s.mod.dSize (extDesc w)) = true →
        (s.mod.bindCheck s.mod.rt.id (extDesc w) (extTenant w)).1 ≠ 0 →
        extState (m1.objv (extOid e)) = 7 ∧ fld (m1.objv (extOid e)) 0 3 = (s.mod.bindCheck s.mod.rt.id (extDesc w) (extTenant w)).1) ∧
      (s.mod.objv (mkOid 4 (0x100 + extVcs w) 1) ≠ 0xFF → (tget {} (extVcs w) s.mod.ed.vcs).biEnabled = true → extHome w = s.mod.rt.id →
        s.mod.spanFree e (extVcs w) (extRegion w) (extBlock w) (2 ^ s.mod.dSize (extDesc w)) = true →
        (s.mod.bindCheck s.mod.rt.id (extDesc w) (extTenant w)).1 = 0 →
        extState (m1.objv (extOid e)) = 2 ∧ (m1.extAux e).size = some (s.mod.dSize (extDesc w)) ∧
        m1.dBinds (extDesc w) = (s.mod.dBinds (extDesc w) + 1) % 2 ^ 16)) ∧
  (∀ (c : Instr) (src : Source) (e : Fin 4096) (v oid w : Nat) (i dest : Fin 65536) (evac : Bool) (s : State),
    (c, oid, w) ∈ [(Instr.extentAddRequest src e v true, extOid e, setFld (v % 2 ^ 64) 61 3 1),
      (.extentReleaseRequest src e true, extOid e, setFld (s.mod.objv (extOid e)) 61 3 4), (.extentForce src e true, extOid e, setFld (s.mod.objv (extOid e)) 61 3 6),
      (.extentClear src e true, extOid e, setFld (s.mod.objv (extOid e)) 61 3 0),
      (.migrationRequest src i dest evac true, descOid 6 i, pack [(1, 61, 3), (dest, 45, 16), (b2n evac, 44, 1)])] →
    Accepted s.mod src oid w → privOf src = .root →
    Answers c s fun m => m.objv oid = w % 2 ^ 64 ∧ (∀ x, x ≠ oid → m.objv x = s.mod.objv x) ∧ m.po = s.mod.po ∧ m.ho = s.mod.ho ∧ ∃ m1 : Mod, Told m1 src m) ∧
  (∀ (src : Source) (e : Fin 4096) (s : State), Accepted s.mod src (extOid e) (setFld (s.mod.objv (extOid e)) 61 3 4) → privOf src ≠ .root →
    s.mod.objv (extOid e) < 2 ^ 64 → extState (s.mod.objv (extOid e)) ≠ 0 →
    Answers (.extentReleaseRequest src e true) s fun m => ∃ m1 : Mod,
      Told m1 src m ∧ m.objv (extOid e) = setFld (s.mod.objv (extOid e)) 61 3 5 ∧ (m.extAux e).askedAt = some s.mod.now ∧
      m1.out = s.mod.out ++ [.capacity (extVcs (s.mod.objv (extOid e))) 2 e (dpaOf (extRegion (s.mod.objv (extOid e))) (extBlock (s.mod.objv (extOid e))))]) ∧
  (∀ (src : Source) (e : Fin 4096) (s : State), Accepted s.mod src (extOid e) (setFld (s.mod.objv (extOid e)) 61 3 6) → privOf src ≠ .root →
    s.mod.objv (extOid e) < 2 ^ 64 → extState (s.mod.objv (extOid e)) ≠ 0 →
    Answers (.extentForce src e true) s fun m => ∃ m0 : Mod,
      m0.objv (extOid e) = setFld (s.mod.objv (extOid e)) 61 3 6 ∧ m0.extAux e = { s.mod.extAux e with askedAt := none } ∧
      ((s.mod.extAux e).flushing = true ∨ (s.mod.extAux e).unbinding = true → Told m0 src m) ∧
      ((s.mod.extAux e).flushing = false → (s.mod.extAux e).unbinding = false → Told (m0.takeBack e).settle src m)) ∧
  (∀ (src : Source) (e : Fin 4096) (s : State), Accepted s.mod src (extOid e) (setFld (s.mod.objv (extOid e)) 61 3 0) → privOf src ≠ .root →
    s.mod.objv (extOid e) < 2 ^ 64 → extState (s.mod.objv (extOid e)) = 7 →
    Answers (.extentClear src e true) s fun m => m.objv (extOid e) = 0 ∧ m.extAux e = {} ∧ (∀ x, x ≠ extOid e → m.objv x = s.mod.objv x) ∧ ∃ m1 : Mod, Told m1 src m) ∧
  (∀ (src : Source) (sw : Fin 4096) (desc : Fin 65536) (t : Tenant) (s : State),
    Accepted s.mod src 0x901000 (pack [(1, 62, 2), (sw, 50, 12), (desc, 34, 16), (t, 26, 8)]) →
    Answers (.bindOperation src sw desc t) s fun m => ∃ (m0 m1 : Mod) (r : Resp),
      let k := s.mod.bindCheck sw desc t
      m = m1.settle.answer src r ∧ r.opcode ≠ 0 ∧
      (k.1 = 0 → m1 = m0.copyToPartner desc ∧ m0.dBinds desc = (s.mod.dBinds desc + 1) % 2 ^ 16 ∧
        (s.mod.dState desc = 1 → s.mod.dBinds desc = 0 → m0.dState desc = 2) ∧
        r.status = .ok ∧ (r.items.map fun x => (x.oid, x.val)).head? = some (0x901000, b2n k.2 * 2 ^ 60)) ∧
      (k.1 ≠ 0 → m1.di.obj = s.mod.di.obj ∧ r.status = .range ∧ (r.items.map fun x => (x.oid, x.val)) = [(0x901000, k.1 * 2 ^ 61)])) ∧
  (∀ (src : Source) (sw : Fin 4096) (desc : Fin 65536) (t : Tenant) (s : State),
    Accepted s.mod src 0x901000 (pack [(2, 62, 2), (sw, 50, 12), (desc, 34, 16), (t, 26, 8)]) →
    Answers (.unbindOperation src sw desc t) s fun m => ∃ (m0 m1 : Mod) (r : Resp),
      m = m1.settle.answer src r ∧ r.opcode ≠ 0 ∧
      (s.mod.dBinds desc ≠ 0 → m1 = m0.copyToPartner desc ∧ m0.dBinds desc = s.mod.dBinds desc - 1 ∧
        (s.mod.dState desc = 2 → s.mod.dBinds desc = 1 → m0.dState desc = 1) ∧ r.status = .ok ∧ (r.items.map fun x => (x.oid, x.val)) = [(0x901000, 0)]) ∧
      (s.mod.dBinds desc = 0 → m1.di.obj = s.mod.di.obj ∧ r.status = .range ∧ (r.items.map fun x => (x.oid, x.val)) = [(0x901000, 2 * 2 ^ 61)])) ∧
  (∀ (src : Source) (lost : Fin 65536) (i : Nat) (s : State), Accepted s.mod src 0x901100 lost →
    s.mod.descs.filter (fun i => decide (s.mod.dState i = 6) && decide (s.mod.dPartner i = lost.val)) = [i] → i < 65536 →
    Answers (.takeover src lost) s fun m => ∃ m1 : Mod,
      Told m1.settle src m ∧ (tget (0, 0) i m1.po.stale) = (s.mod.now + 1, s.mod.now + 1) ∧ bit (m1.d0 i) 20 = true ∧
      (s.mod.dPolicy i = 0 → m1.dState i = 5) ∧ (s.mod.dPolicy i ≠ 0 → m1.dState i = 7)) ∧
  (∀ (src : Source) (lost : Fin 65536) (s : State), Accepted s.mod src 0x901100 lost →
    s.mod.descs.filter (fun i => decide (s.mod.dState i = 6) && decide (s.mod.dPartner i = lost.val)) = [] →
    Answers (.takeover src lost) s fun m => ∃ m0 : Mod, m0.di.obj = s.mod.di.obj ∧ m0.po = s.mod.po ∧ Told (m0.raise (evt 0x090A Loc.module lost)).settle src m) ∧
  (∀ (src : Source) (i : Fin 65536) (s : State), Accepted s.mod src 0x901300 i →
    Answers (.serveWithoutPartner src i) s fun m => ∃ m1 : Mod,
      Told m1.settle src m ∧ i.val ∉ m1.po.await ∧ s.mod.dState i = 7 ∧
      ((∀ f ∈ s.mod.ho.flushes, f.desc ≠ i.val ∧ f.desc ≠ 65535) → m1.dState i = s.mod.restState i) ∧
      ((∃ f ∈ s.mod.ho.flushes, f.desc = i.val ∨ f.desc = 65535) → m1.dState i = 7)) ∧
  (∀ (src : Source) (i dest : Fin 65536) (evac : Bool) (s : State), Accepted s.mod src (descOid 6 i) (pack [(1, 61, 3), (dest, 45, 16), (b2n evac, 44, 1)]) →
    privOf src ≠ .root →
    Answers (.migrationRequest src i dest evac true) s fun m => ∃ m0 : Mod,
      Told (m0.copyToPartner i) src m ∧ m0.mState i = 1 ∧ m0.mDest i = dest.val ∧ bit (m0.objv (descOid 6 i)) 44 = evac) ∧
  (∀ (src : Source) (i : Fin 65536) (s : State), Accepted s.mod src 0x901200 i →
    Answers (.reinitAccept src i) s fun m => ∃ m1 : Mod,
      Told m1.settle src m ∧ s.mod.dState i = 5 ∧ m1.dState i = s.mod.restState i ∧ i.val ∉ m1.po.zeroing) ∧
  (∀ (src : Source) (i : Fin 65536) (s : State), Accepted s.mod src 0x901200 (2 ^ 30 + i) →
    Answers (.reinitZero src i) s fun m => i.val ∈ m.po.zeroing ∧ s.mod.dState i = 5 ∧ m.di.obj = s.mod.di.obj ∧ ∃ m1 : Mod, Told m1 src m) ∧
  (∀ (src : Source) (desc : Fin 65536) (discard : Bool) (home : Fin 4096) (s : State), Accepted s.mod src 0xA06200 (flushWord desc home discard) →
    Answers (.flushRequest src desc discard home) s fun m => ∃ (m0 : Mod) (x : MemberFlush),
      m = (m0.flushLines home desc discard true).settle ∧ m0.ca.flushes = s.mod.ca.flushes ++ [x] ∧
      x.home = home.val ∧ x.desc = desc.val ∧ x.discard = discard ∧ x.src = src ∧ m0.ca.lines = s.mod.ca.lines) ∧
  (∀ (src : Source) (id : Fin 4096) (s : State), Accepted s.mod src 0xA06100 id →
    Answers (.confirmLostModule src id) s fun m => ∃ m1 : Mod,
      Told m1.settle src m ∧ id.val ∈ m.ho.lost ∧ ∀ f ∈ m1.ho.flushes, id.val ∉ f.due) ∧
  (∀ (src : Source) (v : Nat) (s : State), Accepted s.mod src 0xA06300 (v % 2 ^ 128) →
    Answers (.lostMessageReport src v) s fun m => ∃ m0 : Mod,
      let p : Pkt := { pktOf (v % 2 ^ 128 / 2 ^ 64 % 2 ^ 64) (v % 2 ^ 128 % 2 ^ 64) with data := [] }
      m0.ho = s.mod.ho ∧ m0.di.obj = s.mod.di.obj ∧
      (s.mod.dState (lineDesc (pktLine p)) = 7 ∨ lineHome (pktLine p) ≠ s.mod.rt.id → Told (m0.bump 0xA06008 1) src m) ∧
      (s.mod.dState (lineDesc (pktLine p)) ≠ 7 → lineHome (pktLine p) = s.mod.rt.id → Told (m0.replaceLost p).settle src m))

/-- Writes of the service function, of access control, of counters and of the event log (BACKED_VECTORS_WRITE, QP_OWNER_WRITE, QUIESCE_START, QUIESCE_ABANDON,
QUIESCE_RESUME, VF_ASSIGNMENT_WRITE, MPU_RECORD_CLEAR, SLOT_ENTRY_WRITE, CHAIN_MASK_WRITE, WINDOW_LENGTH_WRITE, EVENT_ACKNOWLEDGE, LOSTALERT_CLEAR; R512, R526,
R528, R529, R552, R554, R584, R590, R602, R603). -/
def Obligations.WritesOfServiceCountersAndLog : Prop :=
  (∀ (src : Source) (host : Bool) (n : VfSlot) (v : Fin 65536) (oid : Nat) (s : State), oid = (if host then mkOid 0xB (0x100 + n.val % 48) 2 else vfOid n 3) →
    Accepted s.mod src oid v →
    Answers (.backedVectorsWrite src host n v true) s fun m =>
      m.objv oid = (if host then v.val % 256 else v.val) ∧ (∀ x, x ≠ oid → m.objv x = s.mod.objv x) ∧ ∀ f, f ≠ (if host then hostFn (n.val % 48) else vfFn n) → m.fnSt f = s.mod.fnSt f) ∧
  (∀ (src : Source) (q : Qp) (v : Fin 65536) (s : State), Accepted s.mod src (qpOwnerOid q) v →
    Answers (.qpOwnerWrite src q v true) s fun m =>
      m.objv (qpOwnerOid q) = s.mod.written (privOf src) (qpOwnerOid q) v ∧ m.qp q = {} ∧ (∀ x, x ≠ q.val → m.qp x = s.mod.qp x) ∧ ∀ x, x ≠ qpOwnerOid q → m.objv x = s.mod.objv x) ∧
  (∀ (src : Source) (q : Qp) (s : State), Accepted s.mod src (qpQuiesceOid q) 1 →
    Answers (.quiesceStart src q) s fun m =>
      (m.qp q).st = (if (s.mod.qp q).st = .running then .quiescing else (s.mod.qp q).st) ∧ (m.qp q).sqTail = (s.mod.qp q).sqTail ∧
      ((s.mod.qp q).st = .running → ∀ d ∈ (m.qp q).started, d.migrate = none) ∧ ∀ x, x ≠ q.val → m.qp x = s.mod.qp x) ∧
  (∀ (src : Source) (q : Qp) (s : State), Accepted s.mod src (qpQuiesceOid q) 2 →
    Answers (.quiesceAbandon src q) s fun m =>
      m.qp q = (if (s.mod.qp q).st = .quiescing then (s.mod.qp q).abandon else s.mod.qp q) ∧ ∀ x, x ≠ q.val → m.qp x = s.mod.qp x) ∧
  (∀ (src : Source) (q : Qp) (s : State), Accepted s.mod src (qpQuiesceOid q) 0 →
    Answers (.quiesceResume src q) s fun m =>
      m.qp q = (if (s.mod.qp q).st = .quiesced then { s.mod.qp q with st := .running } else s.mod.qp q) ∧ ∀ x, x ≠ q.val → m.qp x = s.mod.qp x) ∧
  (∀ (src : Source) (n : VfSlot) (on : Bool) (v : Fin 64) (t : Tenant) (s : State), Accepted s.mod src (vfOid n 1) (pack [(b2n on, 31, 1), (v, 24, 6), (t, 0, 8)]) →
    Answers (.vfAssignmentWrite src n on v t true) s fun m =>
      bit (m.objv (vfOid n 1)) 31 = on ∧ fld (m.objv (vfOid n 1)) 24 6 = v.val ∧ fld (m.objv (vfOid n 1)) 0 8 = t.val ∧
      (∀ x, x ≠ vfOid n 1 → m.objv x = s.mod.objv x) ∧
      (fld (s.mod.objv (vfOid n 1)) 24 8 ≠ fld (m.objv (vfOid n 1)) 24 8 ∨ fld (s.mod.objv (vfOid n 1)) 0 8 ≠ t.val → (m.box n).inq = [] ∧ (m.box n).outq = [] ∧ (m.box n).db = 0)) ∧
  (∀ (src : Source) (s : State), Accepted s.mod src 0xC01002 (2 ^ 31) →
    Answers (.mpuRecordClear src) s fun m =>
      m.objv 0xC01001 = 0 ∧ m.objv 0xC01002 = 0 ∧ ∀ x, x ≠ 0xC01001 → x ≠ 0xC01002 → m.objv x = s.mod.objv x) ∧
  (∀ (src : Source) (slot : Fin 64) (v : Nat) (s : State), Accepted s.mod src (slotOid slot) (v % 2 ^ 32) →
    Answers (.slotEntryWrite src slot v) s fun m =>
      (slot.val < 22 → m.objv (slotOid slot) = pack [(fld v 31 1, 31, 1), (v % 2 ^ 12, 0, 12)]) ∧ (22 ≤ slot.val → m.objv (slotOid slot) = s.mod.objv (slotOid slot)) ∧
      ∀ x, x ≠ slotOid slot → m.objv x = s.mod.objv x) ∧
  (∀ (src : Source) (w : Fin 24) (v : Nat) (s : State), Accepted s.mod src (mkOid 0xE 0x30 (1 + w)) (v % 2 ^ 64) →
    Answers (.chainMaskWrite src w v true) s fun m => ∃ m1 : Mod,
      Told m1 src m ∧ m.objv (mkOid 0xE 0x30 (1 + w)) = v % 2 ^ 64 ∧ (∀ x, x ≠ mkOid 0xE 0x30 (1 + w) → m.objv x = s.mod.objv x) ∧
      ∀ i ∈ List.range 64, bit (s.mod.objv (mkOid 0xE 0x30 (1 + w))) i ≠ bit v i → tget 0 (2 * (64 * w.val + i) + 1) m1.cn.ctr = 0) ∧
  (∀ (src : Source) (v : Nat) (s : State), Accepted s.mod src 0xE04000 (v % 2 ^ 32) →
    Answers (.windowLengthWrite src v true) s fun m =>
      m.objv 0xE04000 = v % 2 ^ 32 ∧ m.cn.winRx = [] ∧ m.cn.winTx = [] ∧ m.cn.winSkip = true ∧ ∀ x, x ≠ 0xE04000 → m.objv x = s.mod.objv x) ∧
  (∀ (src : Source) (seq : Nat) (s : State), Accepted s.mod src 0xE01500 (seq % 2 ^ 32) →
    Answers (.eventAcknowledge src seq) s fun m => m.ev.ackPoint = seq % 2 ^ 32 ∧ m.ev.lostAlert = s.mod.ev.lostAlert ∧ m.di.obj = s.mod.di.obj) ∧
  (∀ (src : Source) (s : State), Accepted s.mod src 0xE01600 (2 ^ 30) →
    Answers (.lostalertClear src) s fun m => m.ev.lostAlert = false ∧ m.ev.ackPoint = s.mod.ev.ackPoint ∧ m.di.obj = s.mod.di.obj) ∧
  (∀ (c : Instr) (src : Source) (e : Fin 64) (u : UnitId) (p : EdgePort) (n : FabPort) (r : Fin 256) (on evac : Bool) (b i dest : Fin 65536) (x : Fin 4096) (a oid w : Nat) (f : VfSlot)
    (q : Qp) (v : Fin 64) (tt : Tenant) (k : Fin 24) (s : State),
    (c, oid, w) ∈ [(Instr.fenceEntrySet src e u false, fenceOid (e + 1), unitFields u), (.fenceEntryClear src e false, fenceOid (e + 1), 0),
      (.portRoleWrite src p r false, mkOid 4 p 2, r.val), (.portEnableWrite src p on false, mkOid 4 p 1, b2n on), (.bindingWrite src p b .here false, mkOid 4 p 3, b.val),
      (.unbindWrite src p .here false, mkOid 4 p 3, 0xFFFF), (.linkRetire src n false, mkOid 5 n 2, 1), (.linkUnretire src n false, mkOid 5 n 2, 0),
      (.extentAddRequest src x a false, extOid x, setFld (a % 2 ^ 64) 61 3 1), (.extentReleaseRequest src x false, extOid x, setFld (s.mod.objv (extOid x)) 61 3 4),
      (.extentForce src x false, extOid x, setFld (s.mod.objv (extOid x)) 61 3 6), (.extentClear src x false, extOid x, setFld (s.mod.objv (extOid x)) 61 3 0),
      (.migrationRequest src i dest evac false, descOid 6 i, pack [(1, 61, 3), (dest, 45, 16), (b2n evac, 44, 1)]),
      (.backedVectorsWrite src false f b false, vfOid f 3, b.val), (.qpOwnerWrite src q b false, qpOwnerOid q, b.val),
      (.vfAssignmentWrite src f on v tt false, vfOid f 1, pack [(b2n on, 31, 1), (v, 24, 6), (tt, 0, 8)]),
      (.chainMaskWrite src k a false, mkOid 0xE 0x30 (1 + k), a % 2 ^ 64), (.windowLengthWrite src a false, 0xE04000, a % 2 ^ 32)] →
    Accepted s.mod src oid w →
    Answers c s fun m =>
      m.di.obj = s.mod.di.obj ∧ m.di.flash = s.mod.di.flash ∧ m.fn = s.mod.fn ∧ m.ed = s.mod.ed ∧ m.lk = s.mod.lk ∧ m.po = s.mod.po ∧ m.sv = s.mod.sv ∧
      (∀ k ∈ winKey src, m = s.mod.winFail k oid .flash) ∧
      (winKey src = none → ∃ (m1 : Mod) (y : Resp), m = m1.answer src y ∧ y.opcode = 2 ∧ y.status = .flash))

/-- Challenges, tokens, reports and key slots (CHALLENGE_READ, TOKEN_PRESENT, TOKEN_LAPSE, ATTESTATION_NONCE, KEY_SLOT_ENROL, KEY_SLOT_REVOKE, KEY_SLOT_CLEAR;
R568 to R572). -/
def Obligations.TokensReportsAndKeySlots : Prop :=
  (∀ (src : Source) (it : Item) (e : Mod × Caller) (s : State), it = { oid := 0xD03000, ty := tyCode .blob } → e = writerOf s.mod src it → s.mod.serves src = true →
    (winKey src = none → LetIn s.mod (s.mod.rowHdr src 8) (.read it)) → e.1.readSts src 0xD03000 = .ok →
    Answers (.challengeRead src) s fun m =>
      m.se.challenges = e.1.se.challenges.filter (fun x => x.1 ≠ e.2.sess) ++ [(e.2.sess, s.mod.random, s.mod.now)] ∧ m.draws = s.mod.draws + 1 ∧
      m.di.obj = s.mod.di.obj ∧ (winKey src ≠ none → m.out = s.mod.out ++ [.value src (s.mod.random % 2 ^ 256)])) ∧
  (∀ (src : Source) (len : Fin 65536) (e : Mod × Caller) (body : List Nat) (s : State), Accepted s.mod src 0xD04100 len → e = writerOf s.mod src (itemOf 0xD04100 len) →
    body = ((List.range 4).flatMap fun i => toBytes 1024 (s.mod.objv (mkOid 0xD 0x40 (1 + i)))).take len →
    Answers (.tokenPresent src len) s fun m =>
      (∀ x ∈ m.se.challenges, x.1 ≠ e.2.sess) ∧
      (e.1.tokenReason e.2 body len = 0 → m.se.tokenStatus = tdel e.2.sess e.1.se.tokenStatus ∧
        m.se.tokens = e.1.se.tokens.filter (fun t => t.session ≠ e.2.sess) ++
          [{ session := e.2.sess, slot := ofBytes ((body.drop 6).take 1), op := ofBytes ((body.drop 5).take 1), param := ofBytes ((body.drop 56).take 8),
             items := tokenItems body (ofBytes ((body.drop 7).take 1)), at_ := s.mod.now }]) ∧
      (e.1.tokenReason e.2 body len ≠ 0 → m.se.tokens = e.1.se.tokens.filter (fun t => t.session ≠ e.2.sess) ∧
        fld (tget 0 e.2.sess m.se.tokenStatus) 30 2 = 2 ∧ fld (tget 0 e.2.sess m.se.tokenStatus) 27 3 = e.1.tokenReason e.2 body len)) ∧
  (∀ (sess : Nat) (t : Token) (s : State), s.mod.se.tokens.find? (fun t => t.session = sess) = some t →
    Answers (.tokenLapse sess) s fun m =>
      m.now = max s.mod.now (t.at_ + 60 * sec) ∧ m.se = { s.mod.se with tokens := s.mod.se.tokens.filter fun x => x.session ≠ sess } ∧ m.di = s.mod.di) ∧
  (∀ (src : Source) (nonce : Nat) (e : Mod × Caller) (s : State), Accepted s.mod src 0xD02000 (nonce % 2 ^ 256) → e = writerOf s.mod src (itemOf 0xD02000 (nonce % 2 ^ 256)) →
    Answers (.attestationNonce src nonce) s fun m =>
      m.se.reports = e.1.se.reports.filter (fun x => x.session ≠ e.2.sess) ++
        [{ session := e.2.sess, nonce := nonce % 2 ^ 256, bytes := e.1.buildReport (nonce % 2 ^ 256) }] ∧ m.di.obj = s.mod.di.obj ∧ ∃ m1 : Mod, Told m1 src m) ∧
  (∀ (src : Source) (k : Fin 8) (rights : Fin 256) (s : State), Accepted s.mod src (keyOid k 3) (2 ^ 30 + rights) →
    Answers (.keySlotEnrol src k rights true) s fun m =>
      m.slotState k = 1 ∧ m.slotRights k = rights.val ∧ s.mod.slotState k ∈ [0, 1] ∧
      (s.mod.slotState k = 0 → m.objv (keyOid k 4) = shakeNum (toBytes 1952 (s.mod.slotKey k)) 64) ∧
      (s.mod.slotState k = 1 → m.objv (keyOid k 4) = s.mod.objv (keyOid k 4)) ∧
      ∀ x, x ≠ keyOid k 3 → x ≠ keyOid k 4 → m.objv x = s.mod.objv x) ∧
  (∀ (src : Source) (k : Fin 8) (s : State), Accepted s.mod src (keyOid k 3) (2 ^ 31 + s.mod.slotRights k) →
    Answers (.keySlotRevoke src k true) s fun m =>
      m.slotState k = 2 ∧ m.slotRights k = s.mod.slotRights k ∧ (s.mod.slotState k = 1 → ∀ t ∈ m.se.tokens, t.slot ≠ k.val) ∧
      ∀ x, x ≠ keyOid k 3 → m.objv x = s.mod.objv x) ∧
  (∀ (src : Source) (k : Fin 8) (s : State), Accepted s.mod src (keyOid k 3) 0 → s.mod.objv (keyOid k 3) < 2 ^ 32 →
    Answers (.keySlotClear src k true) s fun m =>
      s.mod.slotState k = 2 ∧ m.objv (keyOid k 1) = 0 ∧ m.objv (keyOid k 2) = 0 ∧ m.objv (keyOid k 3) = 0 ∧ m.objv (keyOid k 4) = 0 ∧
      ∀ x, x ∉ [keyOid k 1, keyOid k 2, keyOid k 3, keyOid k 4] → m.objv x = s.mod.objv x) ∧
  (∀ (c : Instr) (src : Source) (k : Fin 8) (rights : Fin 256) (v : Nat) (s : State),
    (c, v) ∈ [(Instr.keySlotEnrol src k rights false, 2 ^ 30 + rights.val), (.keySlotRevoke src k false, 2 ^ 31 + s.mod.slotRights k), (.keySlotClear src k false, 0)] →
    Accepted s.mod src (keyOid k 3) v →
    Answers c s fun m => m.di.obj = s.mod.di.obj ∧ m.di.flash = s.mod.di.flash)

/-- The life cycle and debug (LIFECYCLE_PROVISION, LIFECYCLE_PRODUCTION, LIFECYCLE_RMA, LIFECYCLE_DECOMMISSION, DEBUG_UNLOCK, DEBUG_EXPIRY; R573 to R575). -/
def Obligations.LifeCycleAndDebug : Prop :=
  (∀ (src : Source) (s : State), Accepted s.mod src 0xD00200 1 →
    Answers (.lifecycleProvision src) s fun m =>
      s.mod.lifeCode = 0 ∧ m.lifeCode = 1 ∧ m.se.uds = some (s.mod.se.uds.getD (s.mod.random % 2 ^ 256)) ∧ m.draws = s.mod.draws + 1 ∧ ∃ m1 : Mod, Told m1 src m) ∧
  (∀ (src : Source) (s : State), Accepted s.mod src 0xD00200 2 →
    Answers (.lifecycleProduction src) s fun m =>
      s.mod.lifeCode ∈ [1, 3] ∧ m.lifeCode = 2 ∧ m.se.uds = s.mod.se.uds ∧ (s.mod.lifeCode = 3 → m.objv 0xD00300 = 0) ∧ ∃ m1 : Mod, Told m1 src m) ∧
  (∀ (src : Source) (s : State), Accepted s.mod src 0xD00200 4 →
    Answers (.lifecycleRma src) s fun m => s.mod.lifeCode ∈ [1, 2, 3] ∧ m.lifeCode = 4 ∧ m.se.debug = false ∧ m.se.identity = 0 ∧ m.se.reports = [] ∧ m.se.uds = s.mod.se.uds ∧ ∃ m1 : Mod, Told m1 src m) ∧
  (∀ (src : Source) (s : State), Accepted s.mod src 0xD00200 5 → s.mod.se.life ≤ 5 →
    Answers (.lifecycleDecommission src) s fun m => m.lifeCode = 5 ∧ m.se.debug = false ∧ m.se.identity = 0 ∧ m.se.reports = [] ∧ ∃ m1 : Mod, Told m1 src m) ∧
  (∀ (src : Source) (minutes : Fin 65536) (s : State), Accepted s.mod src 0xD05000 minutes →
    Answers (.debugUnlock src minutes) s fun m =>
      s.mod.lifeCode = 2 ∧ m.lifeCode = 3 ∧ m.objv 0xD00300 = minutes.val ∧ m.se.debugMinute = s.mod.now ∧ ∀ x, x ≠ 0xD00300 → m.objv x = s.mod.objv x) ∧
  (∀ (s : State), s.mod.lifeCode = 3 →
    Answers .debugExpiry s fun m =>
      m.now = max s.mod.now (s.mod.se.debugMinute + s.mod.objv 0xD00300 * 60 * sec) ∧ m.lifeCode = 2 ∧ m.objv 0xD00300 = 0 ∧
      ∀ x, x ≠ 0xD00300 → m.objv x = s.mod.objv x)

/-- Staging, activation and commit of images (STAGING_DATA_WRITE, STAGING_CHECK, STAGING_CHECK_DONE, ACTIVATE_LIVE, ACTIVATE_RESET, LIVE_ACTIVATION_DONE,
LIVE_ACTIVATION_TIMEOUT, COMMIT_IMAGES; R576 to R578). -/
def Obligations.ImagesAreStagedAndActivated : Prop :=
  (∀ (src : Source) (data base : Nat) (s : State), Accepted s.mod src 0xD06003 (data % 256 ^ 1024) →
    base = slotBase s.mod.stageKind (s.mod.stageSlot s.mod.stageKind) + s.mod.objv 0xD06002 →
    Answers (.stagingDataWrite src data) s fun m =>
      m.objv 0xD06002 = s.mod.objv 0xD06002 + 1024 ∧ m.se.staged = 0 ∧ m.se.checkEnd = none ∧
      (∀ i ∈ List.range 1024, tget 0 (base + i) m.se.flash = data / 256 ^ (1023 - i) % 256 + 1) ∧
      (∀ a, a < base ∨ base + 1024 ≤ a → tget 0 a m.se.flash = tget 0 a s.mod.se.flash) ∧ ∀ x, x ≠ 0xD06002 → m.objv x = s.mod.objv x) ∧
  (∀ (src : Source) (s : State), Accepted s.mod src 0xD06004 1 →
    Answers (.stagingCheck src) s fun m => m.se.checkEnd = some (s.mod.now + s.mod.checkTime) ∧ m.se.staged = s.mod.se.staged ∧ m.di.obj = s.mod.di.obj) ∧
  (∀ (t : Nat) (s : State), s.mod.se.checkEnd = some t →
    Answers .stagingCheckDone s fun m =>
      m.now = max s.mod.now t ∧ m.se = { s.mod.se with staged := (s.mod.advanceTo t).stagedWord, checkEnd := none } ∧ m.di = s.mod.di) ∧
  (∀ (src : Source) (s : State), Accepted s.mod src 0xD06100 1 →
    Answers (.activateLive src) s fun m =>
      bit s.mod.se.staged 31 = true ∧ bit s.mod.se.staged 27 = true ∧
      m.se.live = some s.mod.now ∧ m.se.liveRetry = false ∧ m.md.mrdy = false ∧ m.md.serving = false ∧ m.md.mode = s.mod.md.mode ∧ m.di.sessions = [] ∧
      m.se.boot.trial = true ∧ (s.mod.stageKind = 1 → m.se.boot.fsB = !s.mod.se.boot.runFsB) ∧ (s.mod.stageKind ≠ 1 → m.se.boot.fwB = !s.mod.se.boot.runFwB)) ∧
  (∀ (src : Source) (s : State), Accepted s.mod src 0xD06100 2 →
    Answers (.activateReset src) s fun m =>
      bit s.mod.se.staged 31 = true ∧
      (s.mod.md.mode ∈ [.configure, .operate, .capped] → m.md.mode = .drain ∧ m.md.drain.endState = .boot ∧ m.md.drain.bound = s.mod.now + 10 * ms ∧
        m.se.boot.trial = true ∧ (s.mod.stageKind = 1 → m.se.boot.fsB = !s.mod.se.boot.runFsB) ∧ (s.mod.stageKind ≠ 1 → m.se.boot.fwB = !s.mod.se.boot.runFwB)) ∧
      (s.mod.md.mode = .drain → m.md.drain.endState = .boot ∧ m.se.boot.trial = true) ∧
      (s.mod.md.mode = .standby → m.md = { s.mod.md with bootHeld := true } ∧ m.se.boot.trial = true) ∧
      (s.mod.md.mode = .fault → m.md.mode = .boot)) ∧
  (∀ (t : Nat) (s : State), s.mod.se.live = some t →
    Answers .liveActivationDone s fun m =>
      m.se.live = none ∧ m.se.liveRetry = false ∧ m.se.staged = 0 ∧ m.md.serving = true ∧ m.md.mrdy = true ∧ m.se.boot.runFwB = s.mod.se.boot.fwB ∧
      m.se.boot.fwB = s.mod.se.boot.fwB ∧ m.di = s.mod.di) ∧
  (∀ (t : Nat) (s : State), s.mod.se.live = some t → s.mod.se.liveRetry = false →
    Answers .liveActivationTimeout s fun m =>
      m.now = max s.mod.now (t + 5 * sec) ∧ m.se.live = some m.now ∧ m.se.liveRetry = true ∧ m.se.boot.fwB = s.mod.se.boot.runFwB ∧ m.se.boot.trial = false ∧
      m.se.boot.trialFail = true ∧ m.md = s.mod.md ∧ m.di = s.mod.di) ∧
  (∀ (t : Nat) (s : State), s.mod.se.live = some t → s.mod.se.liveRetry = true → 2 ≤ s.mod.md.mode.code → s.mod.md.mode ≠ .fault →
    Answers .liveActivationTimeout s fun m => ∃ m1 : Mod, m = m1.settle ∧ m.md.mode = .fault ∧ m.se.live = none ∧ m1.now = max s.mod.now (t + 5 * sec)) ∧
  (∀ (src : Source) (s : State), Accepted s.mod src 0xD06200 1 →
    Answers (.commitImages src) s fun m =>
      m.se.rollFs = max s.mod.se.rollFs (s.mod.imageByte 1 s.mod.se.boot.runFsB 12 % 64) ∧
      m.se.rollFw = max s.mod.se.rollFw (s.mod.imageByte 2 s.mod.se.boot.runFwB 12 % 64) ∧ m.se.revoked = s.mod.se.revoked ||| s.mod.revokes ∧
      m.se.boot.trial = false ∧ m.se.boot.trialFail = false ∧ m.se.boot.fwB = s.mod.se.boot.fwB ∧ m.se.boot.fsB = s.mod.se.boot.fsB)

/-- The slot straps and the test access port (STRAP_SAMPLE, TAP_EXTEST, TAP_EXTEST_PULSE, TAP_EXTEST_TRAIN, TAP_CLAMP, TAP_HIGHZ, TAP_IDCODE, TAP_SAMPLE_PRELOAD,
TAP_DEBUG, TAP_BYPASS, TAP_RESET; R616, R623 to R625). -/
def Obligations.StrapsAndTestAccessPort : Prop :=
  (∀ (slot : Fin 32) (s : State), s.mod.pw.vao = true → s.mod.di.strapped = false →
    Answers (.strapSample slot) s fun m =>
      m.di = { s.mod.di with strapped := true, slotId := slot } ∧ m.now = max s.mod.now (s.mod.pw.vaoSince + 50 * ms) ∧ m.out = s.mod.out) ∧
  (∀ (c : Instr) (i : TapInstr) (pins data : Nat) (s : State),
    (c, i) ∈ [(Instr.tapExtest pins data, TapInstr.extest), (.tapExtestPulse pins data, .extestPulse), (.tapExtestTrain pins data, .extestTrain)] → s.mod.tapServed = true →
    Answers c s fun m =>
      (s.mod.tapMayDrive = true → m.tp = { ir := i, scanning := true, boundary := data % 2 ^ 1157 } ∧ m.out = s.mod.out ++ [.tap i (pins % 2 ^ 1157)]) ∧
      (s.mod.tapMayDrive = false → m.tp = { s.mod.tp with ir := .bypass, scanning := false } ∧ m.out = s.mod.out ++ [.tap .bypass 0])) ∧
  (∀ (c : Instr) (i : TapInstr) (s : State), (c, i) ∈ [(Instr.tapClamp, TapInstr.clamp), (.tapHighz, .highz)] → s.mod.tapServed = true →
    Answers c s fun m =>
      (s.mod.tapMayDrive = true → m.tp = { s.mod.tp with ir := i, scanning := true } ∧ m.out = s.mod.out ++ [.tap i 0]) ∧
      (s.mod.tapMayDrive = false → m.tp = { s.mod.tp with ir := .bypass, scanning := false } ∧ m.out = s.mod.out ++ [.tap .bypass 0])) ∧
  (∀ (s : State), s.mod.tapServed = true →
    Answers .tapIdcode s fun m =>
      m.tp = { s.mod.tp with ir := .idcode, scanning := false } ∧
      m.out = s.mod.out ++ [.tap .idcode (pack [(Config.factory 2 % 16, 28, 4), (0x2564, 12, 16), (0x3A5, 1, 11), (1, 0, 1)])]) ∧
  (∀ (pins data : Nat) (s : State), s.mod.tapServed = true →
    Answers (.tapSamplePreload pins data) s fun m =>
      (s.mod.se.life ≠ 5 → m.tp = { ir := .samplePreload, scanning := false, boundary := data % 2 ^ 1157 } ∧ m.out = s.mod.out ++ [.tap .samplePreload (pins % 2 ^ 1157)]) ∧
      (s.mod.se.life = 5 → m.tp = { s.mod.tp with ir := .bypass, scanning := false } ∧ m.out = s.mod.out ++ [.tap .bypass 0])) ∧
  (∀ (s : State), s.mod.tapServed = true →
    Answers .tapDebug s fun m =>
      (s.mod.se.life ≠ 5 → m = { s.mod with tp := { s.mod.tp with ir := .debug, scanning := false } }) ∧
      (s.mod.se.life = 5 → m.tp = { s.mod.tp with ir := .bypass, scanning := false } ∧ m.out = s.mod.out ++ [.tap .bypass 0])) ∧
  (∀ (s : State), s.mod.tapServed = true →
    Answers .tapBypass s fun m => m.tp = { s.mod.tp with ir := .bypass, scanning := false } ∧ m.out = s.mod.out ++ [.tap .bypass 0]) ∧
  (∀ (s : State),
    Answers .tapReset s fun m => m = { s.mod with tp := { s.mod.tp with ir := .idcode, scanning := false } }) ∧
  (∀ (c : Instr) (pins data : Nat) (s : State),
    c ∈ [.tapExtest pins data, .tapExtestPulse pins data, .tapExtestTrain pins data, .tapClamp, .tapHighz, .tapIdcode, .tapSamplePreload pins data, .tapDebug, .tapBypass] →
    s.mod.tapServed = false → Answers c s fun m => m = s.mod)

end
end

