-- ==== Sys2Proof/Laws/State.lean ====
section
/-! SUPPORT. One lemma per updater of a block: the block it changes, and every other field it leaves. -/
namespace Sys2Proof.Machine
set_option Elab.async false

@[simp] theorem onEv_ev (m : Mod) (f : EventBlk → EventBlk) : (m.onEv f).ev = f m.ev := rfl
@[simp] theorem onEv_now (m : Mod) (f : EventBlk → EventBlk) : (m.onEv f).now = m.now := rfl
@[simp] theorem onEv_draws (m : Mod) (f : EventBlk → EventBlk) : (m.onEv f).draws = m.draws := rfl
@[simp] theorem onEv_out (m : Mod) (f : EventBlk → EventBlk) : (m.onEv f).out = m.out := rfl
@[simp] theorem onEv_cn (m : Mod) (f : EventBlk → EventBlk) : (m.onEv f).cn = m.cn := rfl
@[simp] theorem onEv_pw (m : Mod) (f : EventBlk → EventBlk) : (m.onEv f).pw = m.pw := rfl
@[simp] theorem onEv_md (m : Mod) (f : EventBlk → EventBlk) : (m.onEv f).md = m.md := rfl
@[simp] theorem onEv_fn (m : Mod) (f : EventBlk → EventBlk) : (m.onEv f).fn = m.fn := rfl
@[simp] theorem onEv_ph (m : Mod) (f : EventBlk → EventBlk) : (m.onEv f).ph = m.ph := rfl
@[simp] theorem onEv_ed (m : Mod) (f : EventBlk → EventBlk) : (m.onEv f).ed = m.ed := rfl
@[simp] theorem onEv_lk (m : Mod) (f : EventBlk → EventBlk) : (m.onEv f).lk = m.lk := rfl
@[simp] theorem onEv_sw (m : Mod) (f : EventBlk → EventBlk) : (m.onEv f).sw = m.sw := rfl
@[simp] theorem onEv_rt (m : Mod) (f : EventBlk → EventBlk) : (m.onEv f).rt = m.rt := rfl
@[simp] theorem onEv_ti (m : Mod) (f : EventBlk → EventBlk) : (m.onEv f).ti = m.ti := rfl
@[simp] theorem onEv_di (m : Mod) (f : EventBlk → EventBlk) : (m.onEv f).di = m.di := rfl
@[simp] theorem onEv_tp (m : Mod) (f : EventBlk → EventBlk) : (m.onEv f).tp = m.tp := rfl
@[simp] theorem onEv_ca (m : Mod) (f : EventBlk → EventBlk) : (m.onEv f).ca = m.ca := rfl
@[simp] theorem onEv_ho (m : Mod) (f : EventBlk → EventBlk) : (m.onEv f).ho = m.ho := rfl
@[simp] theorem onEv_po (m : Mod) (f : EventBlk → EventBlk) : (m.onEv f).po = m.po := rfl
@[simp] theorem onEv_sc (m : Mod) (f : EventBlk → EventBlk) : (m.onEv f).sc = m.sc := rfl
@[simp] theorem onEv_br (m : Mod) (f : EventBlk → EventBlk) : (m.onEv f).br = m.br := rfl
@[simp] theorem onEv_sv (m : Mod) (f : EventBlk → EventBlk) : (m.onEv f).sv = m.sv := rfl
@[simp] theorem onEv_se (m : Mod) (f : EventBlk → EventBlk) : (m.onEv f).se = m.se := rfl
@[simp] theorem onCn_cn (m : Mod) (f : CountBlk → CountBlk) : (m.onCn f).cn = f m.cn := rfl
@[simp] theorem onCn_now (m : Mod) (f : CountBlk → CountBlk) : (m.onCn f).now = m.now := rfl
@[simp] theorem onCn_draws (m : Mod) (f : CountBlk → CountBlk) : (m.onCn f).draws = m.draws := rfl
@[simp] theorem onCn_out (m : Mod) (f : CountBlk → CountBlk) : (m.onCn f).out = m.out := rfl
@[simp] theorem onCn_ev (m : Mod) (f : CountBlk → CountBlk) : (m.onCn f).ev = m.ev := rfl
@[simp] theorem onCn_pw (m : Mod) (f : CountBlk → CountBlk) : (m.onCn f).pw = m.pw := rfl
@[simp] theorem onCn_md (m : Mod) (f : CountBlk → CountBlk) : (m.onCn f).md = m.md := rfl
@[simp] theorem onCn_fn (m : Mod) (f : CountBlk → CountBlk) : (m.onCn f).fn = m.fn := rfl
@[simp] theorem onCn_ph (m : Mod) (f : CountBlk → CountBlk) : (m.onCn f).ph = m.ph := rfl
@[simp] theorem onCn_ed (m : Mod) (f : CountBlk → CountBlk) : (m.onCn f).ed = m.ed := rfl
@[simp] theorem onCn_lk (m : Mod) (f : CountBlk → CountBlk) : (m.onCn f).lk = m.lk := rfl
@[simp] theorem onCn_sw (m : Mod) (f : CountBlk → CountBlk) : (m.onCn f).sw = m.sw := rfl
@[simp] theorem onCn_rt (m : Mod) (f : CountBlk → CountBlk) : (m.onCn f).rt = m.rt := rfl
@[simp] theorem onCn_ti (m : Mod) (f : CountBlk → CountBlk) : (m.onCn f).ti = m.ti := rfl
@[simp] theorem onCn_di (m : Mod) (f : CountBlk → CountBlk) : (m.onCn f).di = m.di := rfl
@[simp] theorem onCn_tp (m : Mod) (f : CountBlk → CountBlk) : (m.onCn f).tp = m.tp := rfl
@[simp] theorem onCn_ca (m : Mod) (f : CountBlk → CountBlk) : (m.onCn f).ca = m.ca := rfl
@[simp] theorem onCn_ho (m : Mod) (f : CountBlk → CountBlk) : (m.onCn f).ho = m.ho := rfl
@[simp] theorem onCn_po (m : Mod) (f : CountBlk → CountBlk) : (m.onCn f).po = m.po := rfl
@[simp] theorem onCn_sc (m : Mod) (f : CountBlk → CountBlk) : (m.onCn f).sc = m.sc := rfl
@[simp] theorem onCn_br (m : Mod) (f : CountBlk → CountBlk) : (m.onCn f).br = m.br := rfl
@[simp] theorem onCn_sv (m : Mod) (f : CountBlk → CountBlk) : (m.onCn f).sv = m.sv := rfl
@[simp] theorem onCn_se (m : Mod) (f : CountBlk → CountBlk) : (m.onCn f).se = m.se := rfl
@[simp] theorem onPw_pw (m : Mod) (f : PowerBlk → PowerBlk) : (m.onPw f).pw = f m.pw := rfl
@[simp] theorem onPw_now (m : Mod) (f : PowerBlk → PowerBlk) : (m.onPw f).now = m.now := rfl
@[simp] theorem onPw_draws (m : Mod) (f : PowerBlk → PowerBlk) : (m.onPw f).draws = m.draws := rfl
@[simp] theorem onPw_out (m : Mod) (f : PowerBlk → PowerBlk) : (m.onPw f).out = m.out := rfl
@[simp] theorem onPw_ev (m : Mod) (f : PowerBlk → PowerBlk) : (m.onPw f).ev = m.ev := rfl
@[simp] theorem onPw_cn (m : Mod) (f : PowerBlk → PowerBlk) : (m.onPw f).cn = m.cn := rfl
@[simp] theorem onPw_md (m : Mod) (f : PowerBlk → PowerBlk) : (m.onPw f).md = m.md := rfl
@[simp] theorem onPw_fn (m : Mod) (f : PowerBlk → PowerBlk) : (m.onPw f).fn = m.fn := rfl
@[simp] theorem onPw_ph (m : Mod) (f : PowerBlk → PowerBlk) : (m.onPw f).ph = m.ph := rfl
@[simp] theorem onPw_ed (m : Mod) (f : PowerBlk → PowerBlk) : (m.onPw f).ed = m.ed := rfl
@[simp] theorem onPw_lk (m : Mod) (f : PowerBlk → PowerBlk) : (m.onPw f).lk = m.lk := rfl
@[simp] theorem onPw_sw (m : Mod) (f : PowerBlk → PowerBlk) : (m.onPw f).sw = m.sw := rfl
@[simp] theorem onPw_rt (m : Mod) (f : PowerBlk → PowerBlk) : (m.onPw f).rt = m.rt := rfl
@[simp] theorem onPw_ti (m : Mod) (f : PowerBlk → PowerBlk) : (m.onPw f).ti = m.ti := rfl
@[simp] theorem onPw_di (m : Mod) (f : PowerBlk → PowerBlk) : (m.onPw f).di = m.di := rfl
@[simp] theorem onPw_tp (m : Mod) (f : PowerBlk → PowerBlk) : (m.onPw f).tp = m.tp := rfl
@[simp] theorem onPw_ca (m : Mod) (f : PowerBlk → PowerBlk) : (m.onPw f).ca = m.ca := rfl
@[simp] theorem onPw_ho (m : Mod) (f : PowerBlk → PowerBlk) : (m.onPw f).ho = m.ho := rfl
@[simp] theorem onPw_po (m : Mod) (f : PowerBlk → PowerBlk) : (m.onPw f).po = m.po := rfl
@[simp] theorem onPw_sc (m : Mod) (f : PowerBlk → PowerBlk) : (m.onPw f).sc = m.sc := rfl
@[simp] theorem onPw_br (m : Mod) (f : PowerBlk → PowerBlk) : (m.onPw f).br = m.br := rfl
@[simp] theorem onPw_sv (m : Mod) (f : PowerBlk → PowerBlk) : (m.onPw f).sv = m.sv := rfl
@[simp] theorem onPw_se (m : Mod) (f : PowerBlk → PowerBlk) : (m.onPw f).se = m.se := rfl
@[simp] theorem onMd_md (m : Mod) (f : ModeBlk → ModeBlk) : (m.onMd f).md = f m.md := rfl
@[simp] theorem onMd_now (m : Mod) (f : ModeBlk → ModeBlk) : (m.onMd f).now = m.now := rfl
@[simp] theorem onMd_draws (m : Mod) (f : ModeBlk → ModeBlk) : (m.onMd f).draws = m.draws := rfl
@[simp] theorem onMd_out (m : Mod) (f : ModeBlk → ModeBlk) : (m.onMd f).out = m.out := rfl
@[simp] theorem onMd_ev (m : Mod) (f : ModeBlk → ModeBlk) : (m.onMd f).ev = m.ev := rfl
@[simp] theorem onMd_cn (m : Mod) (f : ModeBlk → ModeBlk) : (m.onMd f).cn = m.cn := rfl
@[simp] theorem onMd_pw (m : Mod) (f : ModeBlk → ModeBlk) : (m.onMd f).pw = m.pw := rfl
@[simp] theorem onMd_fn (m : Mod) (f : ModeBlk → ModeBlk) : (m.onMd f).fn = m.fn := rfl
@[simp] theorem onMd_ph (m : Mod) (f : ModeBlk → ModeBlk) : (m.onMd f).ph = m.ph := rfl
@[simp] theorem onMd_ed (m : Mod) (f : ModeBlk → ModeBlk) : (m.onMd f).ed = m.ed := rfl
@[simp] theorem onMd_lk (m : Mod) (f : ModeBlk → ModeBlk) : (m.onMd f).lk = m.lk := rfl
@[simp] theorem onMd_sw (m : Mod) (f : ModeBlk → ModeBlk) : (m.onMd f).sw = m.sw := rfl
@[simp] theorem onMd_rt (m : Mod) (f : ModeBlk → ModeBlk) : (m.onMd f).rt = m.rt := rfl
@[simp] theorem onMd_ti (m : Mod) (f : ModeBlk → ModeBlk) : (m.onMd f).ti = m.ti := rfl
@[simp] theorem onMd_di (m : Mod) (f : ModeBlk → ModeBlk) : (m.onMd f).di = m.di := rfl
@[simp] theorem onMd_tp (m : Mod) (f : ModeBlk → ModeBlk) : (m.onMd f).tp = m.tp := rfl
@[simp] theorem onMd_ca (m : Mod) (f : ModeBlk → ModeBlk) : (m.onMd f).ca = m.ca := rfl
@[simp] theorem onMd_ho (m : Mod) (f : ModeBlk → ModeBlk) : (m.onMd f).ho = m.ho := rfl
@[simp] theorem onMd_po (m : Mod) (f : ModeBlk → ModeBlk) : (m.onMd f).po = m.po := rfl
@[simp] theorem onMd_sc (m : Mod) (f : ModeBlk → ModeBlk) : (m.onMd f).sc = m.sc := rfl
@[simp] theorem onMd_br (m : Mod) (f : ModeBlk → ModeBlk) : (m.onMd f).br = m.br := rfl
@[simp] theorem onMd_sv (m : Mod) (f : ModeBlk → ModeBlk) : (m.onMd f).sv = m.sv := rfl
@[simp] theorem onMd_se (m : Mod) (f : ModeBlk → ModeBlk) : (m.onMd f).se = m.se := rfl
@[simp] theorem onFn_fn (m : Mod) (f : FenceBlk → FenceBlk) : (m.onFn f).fn = f m.fn := rfl
@[simp] theorem onFn_now (m : Mod) (f : FenceBlk → FenceBlk) : (m.onFn f).now = m.now := rfl
@[simp] theorem onFn_draws (m : Mod) (f : FenceBlk → FenceBlk) : (m.onFn f).draws = m.draws := rfl
@[simp] theorem onFn_out (m : Mod) (f : FenceBlk → FenceBlk) : (m.onFn f).out = m.out := rfl
@[simp] theorem onFn_ev (m : Mod) (f : FenceBlk → FenceBlk) : (m.onFn f).ev = m.ev := rfl
@[simp] theorem onFn_cn (m : Mod) (f : FenceBlk → FenceBlk) : (m.onFn f).cn = m.cn := rfl
@[simp] theorem onFn_pw (m : Mod) (f : FenceBlk → FenceBlk) : (m.onFn f).pw = m.pw := rfl
@[simp] theorem onFn_md (m : Mod) (f : FenceBlk → FenceBlk) : (m.onFn f).md = m.md := rfl
@[simp] theorem onFn_ph (m : Mod) (f : FenceBlk → FenceBlk) : (m.onFn f).ph = m.ph := rfl
@[simp] theorem onFn_ed (m : Mod) (f : FenceBlk → FenceBlk) : (m.onFn f).ed = m.ed := rfl
@[simp] theorem onFn_lk (m : Mod) (f : FenceBlk → FenceBlk) : (m.onFn f).lk = m.lk := rfl
@[simp] theorem onFn_sw (m : Mod) (f : FenceBlk → FenceBlk) : (m.onFn f).sw = m.sw := rfl
@[simp] theorem onFn_rt (m : Mod) (f : FenceBlk → FenceBlk) : (m.onFn f).rt = m.rt := rfl
@[simp] theorem onFn_ti (m : Mod) (f : FenceBlk → FenceBlk) : (m.onFn f).ti = m.ti := rfl
@[simp] theorem onFn_di (m : Mod) (f : FenceBlk → FenceBlk) : (m.onFn f).di = m.di := rfl
@[simp] theorem onFn_tp (m : Mod) (f : FenceBlk → FenceBlk) : (m.onFn f).tp = m.tp := rfl
@[simp] theorem onFn_ca (m : Mod) (f : FenceBlk → FenceBlk) : (m.onFn f).ca = m.ca := rfl
@[simp] theorem onFn_ho (m : Mod) (f : FenceBlk → FenceBlk) : (m.onFn f).ho = m.ho := rfl
@[simp] theorem onFn_po (m : Mod) (f : FenceBlk → FenceBlk) : (m.onFn f).po = m.po := rfl
@[simp] theorem onFn_sc (m : Mod) (f : FenceBlk → FenceBlk) : (m.onFn f).sc = m.sc := rfl
@[simp] theorem onFn_br (m : Mod) (f : FenceBlk → FenceBlk) : (m.onFn f).br = m.br := rfl
@[simp] theorem onFn_sv (m : Mod) (f : FenceBlk → FenceBlk) : (m.onFn f).sv = m.sv := rfl
@[simp] theorem onFn_se (m : Mod) (f : FenceBlk → FenceBlk) : (m.onFn f).se = m.se := rfl
@[simp] theorem onPh_ph (m : Mod) (f : PhyBlk → PhyBlk) : (m.onPh f).ph = f m.ph := rfl
@[simp] theorem onPh_now (m : Mod) (f : PhyBlk → PhyBlk) : (m.onPh f).now = m.now := rfl
@[simp] theorem onPh_draws (m : Mod) (f : PhyBlk → PhyBlk) : (m.onPh f).draws = m.draws := rfl
@[simp] theorem onPh_out (m : Mod) (f : PhyBlk → PhyBlk) : (m.onPh f).out = m.out := rfl
@[simp] theorem onPh_ev (m : Mod) (f : PhyBlk → PhyBlk) : (m.onPh f).ev = m.ev := rfl
@[simp] theorem onPh_cn (m : Mod) (f : PhyBlk → PhyBlk) : (m.onPh f).cn = m.cn := rfl
@[simp] theorem onPh_pw (m : Mod) (f : PhyBlk → PhyBlk) : (m.onPh f).pw = m.pw := rfl
@[simp] theorem onPh_md (m : Mod) (f : PhyBlk → PhyBlk) : (m.onPh f).md = m.md := rfl
@[simp] theorem onPh_fn (m : Mod) (f : PhyBlk → PhyBlk) : (m.onPh f).fn = m.fn := rfl
@[simp] theorem onPh_ed (m : Mod) (f : PhyBlk → PhyBlk) : (m.onPh f).ed = m.ed := rfl
@[simp] theorem onPh_lk (m : Mod) (f : PhyBlk → PhyBlk) : (m.onPh f).lk = m.lk := rfl
@[simp] theorem onPh_sw (m : Mod) (f : PhyBlk → PhyBlk) : (m.onPh f).sw = m.sw := rfl
@[simp] theorem onPh_rt (m : Mod) (f : PhyBlk → PhyBlk) : (m.onPh f).rt = m.rt := rfl
@[simp] theorem onPh_ti (m : Mod) (f : PhyBlk → PhyBlk) : (m.onPh f).ti = m.ti := rfl
@[simp] theorem onPh_di (m : Mod) (f : PhyBlk → PhyBlk) : (m.onPh f).di = m.di := rfl
@[simp] theorem onPh_tp (m : Mod) (f : PhyBlk → PhyBlk) : (m.onPh f).tp = m.tp := rfl
@[simp] theorem onPh_ca (m : Mod) (f : PhyBlk → PhyBlk) : (m.onPh f).ca = m.ca := rfl
@[simp] theorem onPh_ho (m : Mod) (f : PhyBlk → PhyBlk) : (m.onPh f).ho = m.ho := rfl
@[simp] theorem onPh_po (m : Mod) (f : PhyBlk → PhyBlk) : (m.onPh f).po = m.po := rfl
@[simp] theorem onPh_sc (m : Mod) (f : PhyBlk → PhyBlk) : (m.onPh f).sc = m.sc := rfl
@[simp] theorem onPh_br (m : Mod) (f : PhyBlk → PhyBlk) : (m.onPh f).br = m.br := rfl
@[simp] theorem onPh_sv (m : Mod) (f : PhyBlk → PhyBlk) : (m.onPh f).sv = m.sv := rfl
@[simp] theorem onPh_se (m : Mod) (f : PhyBlk → PhyBlk) : (m.onPh f).se = m.se := rfl
@[simp] theorem onEd_ed (m : Mod) (f : EdgeBlk → EdgeBlk) : (m.onEd f).ed = f m.ed := rfl
@[simp] theorem onEd_now (m : Mod) (f : EdgeBlk → EdgeBlk) : (m.onEd f).now = m.now := rfl
@[simp] theorem onEd_draws (m : Mod) (f : EdgeBlk → EdgeBlk) : (m.onEd f).draws = m.draws := rfl
@[simp] theorem onEd_out (m : Mod) (f : EdgeBlk → EdgeBlk) : (m.onEd f).out = m.out := rfl
@[simp] theorem onEd_ev (m : Mod) (f : EdgeBlk → EdgeBlk) : (m.onEd f).ev = m.ev := rfl
@[simp] theorem onEd_cn (m : Mod) (f : EdgeBlk → EdgeBlk) : (m.onEd f).cn = m.cn := rfl
@[simp] theorem onEd_pw (m : Mod) (f : EdgeBlk → EdgeBlk) : (m.onEd f).pw = m.pw := rfl
@[simp] theorem onEd_md (m : Mod) (f : EdgeBlk → EdgeBlk) : (m.onEd f).md = m.md := rfl
@[simp] theorem onEd_fn (m : Mod) (f : EdgeBlk → EdgeBlk) : (m.onEd f).fn = m.fn := rfl
@[simp] theorem onEd_ph (m : Mod) (f : EdgeBlk → EdgeBlk) : (m.onEd f).ph = m.ph := rfl
@[simp] theorem onEd_lk (m : Mod) (f : EdgeBlk → EdgeBlk) : (m.onEd f).lk = m.lk := rfl
@[simp] theorem onEd_sw (m : Mod) (f : EdgeBlk → EdgeBlk) : (m.onEd f).sw = m.sw := rfl
@[simp] theorem onEd_rt (m : Mod) (f : EdgeBlk → EdgeBlk) : (m.onEd f).rt = m.rt := rfl
@[simp] theorem onEd_ti (m : Mod) (f : EdgeBlk → EdgeBlk) : (m.onEd f).ti = m.ti := rfl
@[simp] theorem onEd_di (m : Mod) (f : EdgeBlk → EdgeBlk) : (m.onEd f).di = m.di := rfl
@[simp] theorem onEd_tp (m : Mod) (f : EdgeBlk → EdgeBlk) : (m.onEd f).tp = m.tp := rfl
@[simp] theorem onEd_ca (m : Mod) (f : EdgeBlk → EdgeBlk) : (m.onEd f).ca = m.ca := rfl
@[simp] theorem onEd_ho (m : Mod) (f : EdgeBlk → EdgeBlk) : (m.onEd f).ho = m.ho := rfl
@[simp] theorem onEd_po (m : Mod) (f : EdgeBlk → EdgeBlk) : (m.onEd f).po = m.po := rfl
@[simp] theorem onEd_sc (m : Mod) (f : EdgeBlk → EdgeBlk) : (m.onEd f).sc = m.sc := rfl
@[simp] theorem onEd_br (m : Mod) (f : EdgeBlk → EdgeBlk) : (m.onEd f).br = m.br := rfl
@[simp] theorem onEd_sv (m : Mod) (f : EdgeBlk → EdgeBlk) : (m.onEd f).sv = m.sv := rfl
@[simp] theorem onEd_se (m : Mod) (f : EdgeBlk → EdgeBlk) : (m.onEd f).se = m.se := rfl
@[simp] theorem onLk_lk (m : Mod) (f : LinkBlk → LinkBlk) : (m.onLk f).lk = f m.lk := rfl
@[simp] theorem onLk_now (m : Mod) (f : LinkBlk → LinkBlk) : (m.onLk f).now = m.now := rfl
@[simp] theorem onLk_draws (m : Mod) (f : LinkBlk → LinkBlk) : (m.onLk f).draws = m.draws := rfl
@[simp] theorem onLk_out (m : Mod) (f : LinkBlk → LinkBlk) : (m.onLk f).out = m.out := rfl
@[simp] theorem onLk_ev (m : Mod) (f : LinkBlk → LinkBlk) : (m.onLk f).ev = m.ev := rfl
@[simp] theorem onLk_cn (m : Mod) (f : LinkBlk → LinkBlk) : (m.onLk f).cn = m.cn := rfl
@[simp] theorem onLk_pw (m : Mod) (f : LinkBlk → LinkBlk) : (m.onLk f).pw = m.pw := rfl
@[simp] theorem onLk_md (m : Mod) (f : LinkBlk → LinkBlk) : (m.onLk f).md = m.md := rfl
@[simp] theorem onLk_fn (m : Mod) (f : LinkBlk → LinkBlk) : (m.onLk f).fn = m.fn := rfl
@[simp] theorem onLk_ph (m : Mod) (f : LinkBlk → LinkBlk) : (m.onLk f).ph = m.ph := rfl
@[simp] theorem onLk_ed (m : Mod) (f : LinkBlk → LinkBlk) : (m.onLk f).ed = m.ed := rfl
@[simp] theorem onLk_sw (m : Mod) (f : LinkBlk → LinkBlk) : (m.onLk f).sw = m.sw := rfl
@[simp] theorem onLk_rt (m : Mod) (f : LinkBlk → LinkBlk) : (m.onLk f).rt = m.rt := rfl
@[simp] theorem onLk_ti (m : Mod) (f : LinkBlk → LinkBlk) : (m.onLk f).ti = m.ti := rfl
@[simp] theorem onLk_di (m : Mod) (f : LinkBlk → LinkBlk) : (m.onLk f).di = m.di := rfl
@[simp] theorem onLk_tp (m : Mod) (f : LinkBlk → LinkBlk) : (m.onLk f).tp = m.tp := rfl
@[simp] theorem onLk_ca (m : Mod) (f : LinkBlk → LinkBlk) : (m.onLk f).ca = m.ca := rfl
@[simp] theorem onLk_ho (m : Mod) (f : LinkBlk → LinkBlk) : (m.onLk f).ho = m.ho := rfl
@[simp] theorem onLk_po (m : Mod) (f : LinkBlk → LinkBlk) : (m.onLk f).po = m.po := rfl
@[simp] theorem onLk_sc (m : Mod) (f : LinkBlk → LinkBlk) : (m.onLk f).sc = m.sc := rfl
@[simp] theorem onLk_br (m : Mod) (f : LinkBlk → LinkBlk) : (m.onLk f).br = m.br := rfl
@[simp] theorem onLk_sv (m : Mod) (f : LinkBlk → LinkBlk) : (m.onLk f).sv = m.sv := rfl
@[simp] theorem onLk_se (m : Mod) (f : LinkBlk → LinkBlk) : (m.onLk f).se = m.se := rfl
@[simp] theorem onSw_sw (m : Mod) (f : SwitchBlk → SwitchBlk) : (m.onSw f).sw = f m.sw := rfl
@[simp] theorem onSw_now (m : Mod) (f : SwitchBlk → SwitchBlk) : (m.onSw f).now = m.now := rfl
@[simp] theorem onSw_draws (m : Mod) (f : SwitchBlk → SwitchBlk) : (m.onSw f).draws = m.draws := rfl
@[simp] theorem onSw_out (m : Mod) (f : SwitchBlk → SwitchBlk) : (m.onSw f).out = m.out := rfl
@[simp] theorem onSw_ev (m : Mod) (f : SwitchBlk → SwitchBlk) : (m.onSw f).ev = m.ev := rfl
@[simp] theorem onSw_cn (m : Mod) (f : SwitchBlk → SwitchBlk) : (m.onSw f).cn = m.cn := rfl
@[simp] theorem onSw_pw (m : Mod) (f : SwitchBlk → SwitchBlk) : (m.onSw f).pw = m.pw := rfl
@[simp] theorem onSw_md (m : Mod) (f : SwitchBlk → SwitchBlk) : (m.onSw f).md = m.md := rfl
@[simp] theorem onSw_fn (m : Mod) (f : SwitchBlk → SwitchBlk) : (m.onSw f).fn = m.fn := rfl
@[simp] theorem onSw_ph (m : Mod) (f : SwitchBlk → SwitchBlk) : (m.onSw f).ph = m.ph := rfl
@[simp] theorem onSw_ed (m : Mod) (f : SwitchBlk → SwitchBlk) : (m.onSw f).ed = m.ed := rfl
@[simp] theorem onSw_lk (m : Mod) (f : SwitchBlk → SwitchBlk) : (m.onSw f).lk = m.lk := rfl
@[simp] theorem onSw_rt (m : Mod) (f : SwitchBlk → SwitchBlk) : (m.onSw f).rt = m.rt := rfl
@[simp] theorem onSw_ti (m : Mod) (f : SwitchBlk → SwitchBlk) : (m.onSw f).ti = m.ti := rfl
@[simp] theorem onSw_di (m : Mod) (f : SwitchBlk → SwitchBlk) : (m.onSw f).di = m.di := rfl
@[simp] theorem onSw_tp (m : Mod) (f : SwitchBlk → SwitchBlk) : (m.onSw f).tp = m.tp := rfl
@[simp] theorem onSw_ca (m : Mod) (f : SwitchBlk → SwitchBlk) : (m.onSw f).ca = m.ca := rfl
@[simp] theorem onSw_ho (m : Mod) (f : SwitchBlk → SwitchBlk) : (m.onSw f).ho = m.ho := rfl
@[simp] theorem onSw_po (m : Mod) (f : SwitchBlk → SwitchBlk) : (m.onSw f).po = m.po := rfl
@[simp] theorem onSw_sc (m : Mod) (f : SwitchBlk → SwitchBlk) : (m.onSw f).sc = m.sc := rfl
@[simp] theorem onSw_br (m : Mod) (f : SwitchBlk → SwitchBlk) : (m.onSw f).br = m.br := rfl
@[simp] theorem onSw_sv (m : Mod) (f : SwitchBlk → SwitchBlk) : (m.onSw f).sv = m.sv := rfl
@[simp] theorem onSw_se (m : Mod) (f : SwitchBlk → SwitchBlk) : (m.onSw f).se = m.se := rfl
@[simp] theorem onRt_rt (m : Mod) (f : RouteBlk → RouteBlk) : (m.onRt f).rt = f m.rt := rfl
@[simp] theorem onRt_now (m : Mod) (f : RouteBlk → RouteBlk) : (m.onRt f).now = m.now := rfl
@[simp] theorem onRt_draws (m : Mod) (f : RouteBlk → RouteBlk) : (m.onRt f).draws = m.draws := rfl
@[simp] theorem onRt_out (m : Mod) (f : RouteBlk → RouteBlk) : (m.onRt f).out = m.out := rfl
@[simp] theorem onRt_ev (m : Mod) (f : RouteBlk → RouteBlk) : (m.onRt f).ev = m.ev := rfl
@[simp] theorem onRt_cn (m : Mod) (f : RouteBlk → RouteBlk) : (m.onRt f).cn = m.cn := rfl
@[simp] theorem onRt_pw (m : Mod) (f : RouteBlk → RouteBlk) : (m.onRt f).pw = m.pw := rfl
@[simp] theorem onRt_md (m : Mod) (f : RouteBlk → RouteBlk) : (m.onRt f).md = m.md := rfl
@[simp] theorem onRt_fn (m : Mod) (f : RouteBlk → RouteBlk) : (m.onRt f).fn = m.fn := rfl
@[simp] theorem onRt_ph (m : Mod) (f : RouteBlk → RouteBlk) : (m.onRt f).ph = m.ph := rfl
@[simp] theorem onRt_ed (m : Mod) (f : RouteBlk → RouteBlk) : (m.onRt f).ed = m.ed := rfl
@[simp] theorem onRt_lk (m : Mod) (f : RouteBlk → RouteBlk) : (m.onRt f).lk = m.lk := rfl
@[simp] theorem onRt_sw (m : Mod) (f : RouteBlk → RouteBlk) : (m.onRt f).sw = m.sw := rfl
@[simp] theorem onRt_ti (m : Mod) (f : RouteBlk → RouteBlk) : (m.onRt f).ti = m.ti := rfl
@[simp] theorem onRt_di (m : Mod) (f : RouteBlk → RouteBlk) : (m.onRt f).di = m.di := rfl
@[simp] theorem onRt_tp (m : Mod) (f : RouteBlk → RouteBlk) : (m.onRt f).tp = m.tp := rfl
@[simp] theorem onRt_ca (m : Mod) (f : RouteBlk → RouteBlk) : (m.onRt f).ca = m.ca := rfl
@[simp] theorem onRt_ho (m : Mod) (f : RouteBlk → RouteBlk) : (m.onRt f).ho = m.ho := rfl
@[simp] theorem onRt_po (m : Mod) (f : RouteBlk → RouteBlk) : (m.onRt f).po = m.po := rfl
@[simp] theorem onRt_sc (m : Mod) (f : RouteBlk → RouteBlk) : (m.onRt f).sc = m.sc := rfl
@[simp] theorem onRt_br (m : Mod) (f : RouteBlk → RouteBlk) : (m.onRt f).br = m.br := rfl
@[simp] theorem onRt_sv (m : Mod) (f : RouteBlk → RouteBlk) : (m.onRt f).sv = m.sv := rfl
@[simp] theorem onRt_se (m : Mod) (f : RouteBlk → RouteBlk) : (m.onRt f).se = m.se := rfl
@[simp] theorem onTi_ti (m : Mod) (f : TimeBlk → TimeBlk) : (m.onTi f).ti = f m.ti := rfl
@[simp] theorem onTi_now (m : Mod) (f : TimeBlk → TimeBlk) : (m.onTi f).now = m.now := rfl
@[simp] theorem onTi_draws (m : Mod) (f : TimeBlk → TimeBlk) : (m.onTi f).draws = m.draws := rfl
@[simp] theorem onTi_out (m : Mod) (f : TimeBlk → TimeBlk) : (m.onTi f).out = m.out := rfl
@[simp] theorem onTi_ev (m : Mod) (f : TimeBlk → TimeBlk) : (m.onTi f).ev = m.ev := rfl
@[simp] theorem onTi_cn (m : Mod) (f : TimeBlk → TimeBlk) : (m.onTi f).cn = m.cn := rfl
@[simp] theorem onTi_pw (m : Mod) (f : TimeBlk → TimeBlk) : (m.onTi f).pw = m.pw := rfl
@[simp] theorem onTi_md (m : Mod) (f : TimeBlk → TimeBlk) : (m.onTi f).md = m.md := rfl
@[simp] theorem onTi_fn (m : Mod) (f : TimeBlk → TimeBlk) : (m.onTi f).fn = m.fn := rfl
@[simp] theorem onTi_ph (m : Mod) (f : TimeBlk → TimeBlk) : (m.onTi f).ph = m.ph := rfl
@[simp] theorem onTi_ed (m : Mod) (f : TimeBlk → TimeBlk) : (m.onTi f).ed = m.ed := rfl
@[simp] theorem onTi_lk (m : Mod) (f : TimeBlk → TimeBlk) : (m.onTi f).lk = m.lk := rfl
@[simp] theorem onTi_sw (m : Mod) (f : TimeBlk → TimeBlk) : (m.onTi f).sw = m.sw := rfl
@[simp] theorem onTi_rt (m : Mod) (f : TimeBlk → TimeBlk) : (m.onTi f).rt = m.rt := rfl
@[simp] theorem onTi_di (m : Mod) (f : TimeBlk → TimeBlk) : (m.onTi f).di = m.di := rfl
@[simp] theorem onTi_tp (m : Mod) (f : TimeBlk → TimeBlk) : (m.onTi f).tp = m.tp := rfl
@[simp] theorem onTi_ca (m : Mod) (f : TimeBlk → TimeBlk) : (m.onTi f).ca = m.ca := rfl
@[simp] theorem onTi_ho (m : Mod) (f : TimeBlk → TimeBlk) : (m.onTi f).ho = m.ho := rfl
@[simp] theorem onTi_po (m : Mod) (f : TimeBlk → TimeBlk) : (m.onTi f).po = m.po := rfl
@[simp] theorem onTi_sc (m : Mod) (f : TimeBlk → TimeBlk) : (m.onTi f).sc = m.sc := rfl
@[simp] theorem onTi_br (m : Mod) (f : TimeBlk → TimeBlk) : (m.onTi f).br = m.br := rfl
@[simp] theorem onTi_sv (m : Mod) (f : TimeBlk → TimeBlk) : (m.onTi f).sv = m.sv := rfl
@[simp] theorem onTi_se (m : Mod) (f : TimeBlk → TimeBlk) : (m.onTi f).se = m.se := rfl
@[simp] theorem onDi_di (m : Mod) (f : DictBlk → DictBlk) : (m.onDi f).di = f m.di := rfl
@[simp] theorem onDi_now (m : Mod) (f : DictBlk → DictBlk) : (m.onDi f).now = m.now := rfl
@[simp] theorem onDi_draws (m : Mod) (f : DictBlk → DictBlk) : (m.onDi f).draws = m.draws := rfl
@[simp] theorem onDi_out (m : Mod) (f : DictBlk → DictBlk) : (m.onDi f).out = m.out := rfl
@[simp] theorem onDi_ev (m : Mod) (f : DictBlk → DictBlk) : (m.onDi f).ev = m.ev := rfl
@[simp] theorem onDi_cn (m : Mod) (f : DictBlk → DictBlk) : (m.onDi f).cn = m.cn := rfl
@[simp] theorem onDi_pw (m : Mod) (f : DictBlk → DictBlk) : (m.onDi f).pw = m.pw := rfl
@[simp] theorem onDi_md (m : Mod) (f : DictBlk → DictBlk) : (m.onDi f).md = m.md := rfl
@[simp] theorem onDi_fn (m : Mod) (f : DictBlk → DictBlk) : (m.onDi f).fn = m.fn := rfl
@[simp] theorem onDi_ph (m : Mod) (f : DictBlk → DictBlk) : (m.onDi f).ph = m.ph := rfl
@[simp] theorem onDi_ed (m : Mod) (f : DictBlk → DictBlk) : (m.onDi f).ed = m.ed := rfl
@[simp] theorem onDi_lk (m : Mod) (f : DictBlk → DictBlk) : (m.onDi f).lk = m.lk := rfl
@[simp] theorem onDi_sw (m : Mod) (f : DictBlk → DictBlk) : (m.onDi f).sw = m.sw := rfl
@[simp] theorem onDi_rt (m : Mod) (f : DictBlk → DictBlk) : (m.onDi f).rt = m.rt := rfl
@[simp] theorem onDi_ti (m : Mod) (f : DictBlk → DictBlk) : (m.onDi f).ti = m.ti := rfl
@[simp] theorem onDi_tp (m : Mod) (f : DictBlk → DictBlk) : (m.onDi f).tp = m.tp := rfl
@[simp] theorem onDi_ca (m : Mod) (f : DictBlk → DictBlk) : (m.onDi f).ca = m.ca := rfl
@[simp] theorem onDi_ho (m : Mod) (f : DictBlk → DictBlk) : (m.onDi f).ho = m.ho := rfl
@[simp] theorem onDi_po (m : Mod) (f : DictBlk → DictBlk) : (m.onDi f).po = m.po := rfl
@[simp] theorem onDi_sc (m : Mod) (f : DictBlk → DictBlk) : (m.onDi f).sc = m.sc := rfl
@[simp] theorem onDi_br (m : Mod) (f : DictBlk → DictBlk) : (m.onDi f).br = m.br := rfl
@[simp] theorem onDi_sv (m : Mod) (f : DictBlk → DictBlk) : (m.onDi f).sv = m.sv := rfl
@[simp] theorem onDi_se (m : Mod) (f : DictBlk → DictBlk) : (m.onDi f).se = m.se := rfl
@[simp] theorem onTp_tp (m : Mod) (f : TapBlk → TapBlk) : (m.onTp f).tp = f m.tp := rfl
@[simp] theorem onTp_now (m : Mod) (f : TapBlk → TapBlk) : (m.onTp f).now = m.now := rfl
@[simp] theorem onTp_draws (m : Mod) (f : TapBlk → TapBlk) : (m.onTp f).draws = m.draws := rfl
@[simp] theorem onTp_out (m : Mod) (f : TapBlk → TapBlk) : (m.onTp f).out = m.out := rfl
@[simp] theorem onTp_ev (m : Mod) (f : TapBlk → TapBlk) : (m.onTp f).ev = m.ev := rfl
@[simp] theorem onTp_cn (m : Mod) (f : TapBlk → TapBlk) : (m.onTp f).cn = m.cn := rfl
@[simp] theorem onTp_pw (m : Mod) (f : TapBlk → TapBlk) : (m.onTp f).pw = m.pw := rfl
@[simp] theorem onTp_md (m : Mod) (f : TapBlk → TapBlk) : (m.onTp f).md = m.md := rfl
@[simp] theorem onTp_fn (m : Mod) (f : TapBlk → TapBlk) : (m.onTp f).fn = m.fn := rfl
@[simp] theorem onTp_ph (m : Mod) (f : TapBlk → TapBlk) : (m.onTp f).ph = m.ph := rfl
@[simp] theorem onTp_ed (m : Mod) (f : TapBlk → TapBlk) : (m.onTp f).ed = m.ed := rfl
@[simp] theorem onTp_lk (m : Mod) (f : TapBlk → TapBlk) : (m.onTp f).lk = m.lk := rfl
@[simp] theorem onTp_sw (m : Mod) (f : TapBlk → TapBlk) : (m.onTp f).sw = m.sw := rfl
@[simp] theorem onTp_rt (m : Mod) (f : TapBlk → TapBlk) : (m.onTp f).rt = m.rt := rfl
@[simp] theorem onTp_ti (m : Mod) (f : TapBlk → TapBlk) : (m.onTp f).ti = m.ti := rfl
@[simp] theorem onTp_di (m : Mod) (f : TapBlk → TapBlk) : (m.onTp f).di = m.di := rfl
@[simp] theorem onTp_ca (m : Mod) (f : TapBlk → TapBlk) : (m.onTp f).ca = m.ca := rfl
@[simp] theorem onTp_ho (m : Mod) (f : TapBlk → TapBlk) : (m.onTp f).ho = m.ho := rfl
@[simp] theorem onTp_po (m : Mod) (f : TapBlk → TapBlk) : (m.onTp f).po = m.po := rfl
@[simp] theorem onTp_sc (m : Mod) (f : TapBlk → TapBlk) : (m.onTp f).sc = m.sc := rfl
@[simp] theorem onTp_br (m : Mod) (f : TapBlk → TapBlk) : (m.onTp f).br = m.br := rfl
@[simp] theorem onTp_sv (m : Mod) (f : TapBlk → TapBlk) : (m.onTp f).sv = m.sv := rfl
@[simp] theorem onTp_se (m : Mod) (f : TapBlk → TapBlk) : (m.onTp f).se = m.se := rfl
@[simp] theorem onCa_ca (m : Mod) (f : CacheBlk → CacheBlk) : (m.onCa f).ca = f m.ca := rfl
@[simp] theorem onCa_now (m : Mod) (f : CacheBlk → CacheBlk) : (m.onCa f).now = m.now := rfl
@[simp] theorem onCa_draws (m : Mod) (f : CacheBlk → CacheBlk) : (m.onCa f).draws = m.draws := rfl
@[simp] theorem onCa_out (m : Mod) (f : CacheBlk → CacheBlk) : (m.onCa f).out = m.out := rfl
@[simp] theorem onCa_ev (m : Mod) (f : CacheBlk → CacheBlk) : (m.onCa f).ev = m.ev := rfl
@[simp] theorem onCa_cn (m : Mod) (f : CacheBlk → CacheBlk) : (m.onCa f).cn = m.cn := rfl
@[simp] theorem onCa_pw (m : Mod) (f : CacheBlk → CacheBlk) : (m.onCa f).pw = m.pw := rfl
@[simp] theorem onCa_md (m : Mod) (f : CacheBlk → CacheBlk) : (m.onCa f).md = m.md := rfl
@[simp] theorem onCa_fn (m : Mod) (f : CacheBlk → CacheBlk) : (m.onCa f).fn = m.fn := rfl
@[simp] theorem onCa_ph (m : Mod) (f : CacheBlk → CacheBlk) : (m.onCa f).ph = m.ph := rfl
@[simp] theorem onCa_ed (m : Mod) (f : CacheBlk → CacheBlk) : (m.onCa f).ed = m.ed := rfl
@[simp] theorem onCa_lk (m : Mod) (f : CacheBlk → CacheBlk) : (m.onCa f).lk = m.lk := rfl
@[simp] theorem onCa_sw (m : Mod) (f : CacheBlk → CacheBlk) : (m.onCa f).sw = m.sw := rfl
@[simp] theorem onCa_rt (m : Mod) (f : CacheBlk → CacheBlk) : (m.onCa f).rt = m.rt := rfl
@[simp] theorem onCa_ti (m : Mod) (f : CacheBlk → CacheBlk) : (m.onCa f).ti = m.ti := rfl
@[simp] theorem onCa_di (m : Mod) (f : CacheBlk → CacheBlk) : (m.onCa f).di = m.di := rfl
@[simp] theorem onCa_tp (m : Mod) (f : CacheBlk → CacheBlk) : (m.onCa f).tp = m.tp := rfl
@[simp] theorem onCa_ho (m : Mod) (f : CacheBlk → CacheBlk) : (m.onCa f).ho = m.ho := rfl
@[simp] theorem onCa_po (m : Mod) (f : CacheBlk → CacheBlk) : (m.onCa f).po = m.po := rfl
@[simp] theorem onCa_sc (m : Mod) (f : CacheBlk → CacheBlk) : (m.onCa f).sc = m.sc := rfl
@[simp] theorem onCa_br (m : Mod) (f : CacheBlk → CacheBlk) : (m.onCa f).br = m.br := rfl
@[simp] theorem onCa_sv (m : Mod) (f : CacheBlk → CacheBlk) : (m.onCa f).sv = m.sv := rfl
@[simp] theorem onCa_se (m : Mod) (f : CacheBlk → CacheBlk) : (m.onCa f).se = m.se := rfl
@[simp] theorem onHo_ho (m : Mod) (f : HomeBlk → HomeBlk) : (m.onHo f).ho = f m.ho := rfl
@[simp] theorem onHo_now (m : Mod) (f : HomeBlk → HomeBlk) : (m.onHo f).now = m.now := rfl
@[simp] theorem onHo_draws (m : Mod) (f : HomeBlk → HomeBlk) : (m.onHo f).draws = m.draws := rfl
@[simp] theorem onHo_out (m : Mod) (f : HomeBlk → HomeBlk) : (m.onHo f).out = m.out := rfl
@[simp] theorem onHo_ev (m : Mod) (f : HomeBlk → HomeBlk) : (m.onHo f).ev = m.ev := rfl
@[simp] theorem onHo_cn (m : Mod) (f : HomeBlk → HomeBlk) : (m.onHo f).cn = m.cn := rfl
@[simp] theorem onHo_pw (m : Mod) (f : HomeBlk → HomeBlk) : (m.onHo f).pw = m.pw := rfl
@[simp] theorem onHo_md (m : Mod) (f : HomeBlk → HomeBlk) : (m.onHo f).md = m.md := rfl
@[simp] theorem onHo_fn (m : Mod) (f : HomeBlk → HomeBlk) : (m.onHo f).fn = m.fn := rfl
@[simp] theorem onHo_ph (m : Mod) (f : HomeBlk → HomeBlk) : (m.onHo f).ph = m.ph := rfl
@[simp] theorem onHo_ed (m : Mod) (f : HomeBlk → HomeBlk) : (m.onHo f).ed = m.ed := rfl
@[simp] theorem onHo_lk (m : Mod) (f : HomeBlk → HomeBlk) : (m.onHo f).lk = m.lk := rfl
@[simp] theorem onHo_sw (m : Mod) (f : HomeBlk → HomeBlk) : (m.onHo f).sw = m.sw := rfl
@[simp] theorem onHo_rt (m : Mod) (f : HomeBlk → HomeBlk) : (m.onHo f).rt = m.rt := rfl
@[simp] theorem onHo_ti (m : Mod) (f : HomeBlk → HomeBlk) : (m.onHo f).ti = m.ti := rfl
@[simp] theorem onHo_di (m : Mod) (f : HomeBlk → HomeBlk) : (m.onHo f).di = m.di := rfl
@[simp] theorem onHo_tp (m : Mod) (f : HomeBlk → HomeBlk) : (m.onHo f).tp = m.tp := rfl
@[simp] theorem onHo_ca (m : Mod) (f : HomeBlk → HomeBlk) : (m.onHo f).ca = m.ca := rfl
@[simp] theorem onHo_po (m : Mod) (f : HomeBlk → HomeBlk) : (m.onHo f).po = m.po := rfl
@[simp] theorem onHo_sc (m : Mod) (f : HomeBlk → HomeBlk) : (m.onHo f).sc = m.sc := rfl
@[simp] theorem onHo_br (m : Mod) (f : HomeBlk → HomeBlk) : (m.onHo f).br = m.br := rfl
@[simp] theorem onHo_sv (m : Mod) (f : HomeBlk → HomeBlk) : (m.onHo f).sv = m.sv := rfl
@[simp] theorem onHo_se (m : Mod) (f : HomeBlk → HomeBlk) : (m.onHo f).se = m.se := rfl
@[simp] theorem onPo_po (m : Mod) (f : PoolBlk → PoolBlk) : (m.onPo f).po = f m.po := rfl
@[simp] theorem onPo_now (m : Mod) (f : PoolBlk → PoolBlk) : (m.onPo f).now = m.now := rfl
@[simp] theorem onPo_draws (m : Mod) (f : PoolBlk → PoolBlk) : (m.onPo f).draws = m.draws := rfl
@[simp] theorem onPo_out (m : Mod) (f : PoolBlk → PoolBlk) : (m.onPo f).out = m.out := rfl
@[simp] theorem onPo_ev (m : Mod) (f : PoolBlk → PoolBlk) : (m.onPo f).ev = m.ev := rfl
@[simp] theorem onPo_cn (m : Mod) (f : PoolBlk → PoolBlk) : (m.onPo f).cn = m.cn := rfl
@[simp] theorem onPo_pw (m : Mod) (f : PoolBlk → PoolBlk) : (m.onPo f).pw = m.pw := rfl
@[simp] theorem onPo_md (m : Mod) (f : PoolBlk → PoolBlk) : (m.onPo f).md = m.md := rfl
@[simp] theorem onPo_fn (m : Mod) (f : PoolBlk → PoolBlk) : (m.onPo f).fn = m.fn := rfl
@[simp] theorem onPo_ph (m : Mod) (f : PoolBlk → PoolBlk) : (m.onPo f).ph = m.ph := rfl
@[simp] theorem onPo_ed (m : Mod) (f : PoolBlk → PoolBlk) : (m.onPo f).ed = m.ed := rfl
@[simp] theorem onPo_lk (m : Mod) (f : PoolBlk → PoolBlk) : (m.onPo f).lk = m.lk := rfl
@[simp] theorem onPo_sw (m : Mod) (f : PoolBlk → PoolBlk) : (m.onPo f).sw = m.sw := rfl
@[simp] theorem onPo_rt (m : Mod) (f : PoolBlk → PoolBlk) : (m.onPo f).rt = m.rt := rfl
@[simp] theorem onPo_ti (m : Mod) (f : PoolBlk → PoolBlk) : (m.onPo f).ti = m.ti := rfl
@[simp] theorem onPo_di (m : Mod) (f : PoolBlk → PoolBlk) : (m.onPo f).di = m.di := rfl
@[simp] theorem onPo_tp (m : Mod) (f : PoolBlk → PoolBlk) : (m.onPo f).tp = m.tp := rfl
@[simp] theorem onPo_ca (m : Mod) (f : PoolBlk → PoolBlk) : (m.onPo f).ca = m.ca := rfl
@[simp] theorem onPo_ho (m : Mod) (f : PoolBlk → PoolBlk) : (m.onPo f).ho = m.ho := rfl
@[simp] theorem onPo_sc (m : Mod) (f : PoolBlk → PoolBlk) : (m.onPo f).sc = m.sc := rfl
@[simp] theorem onPo_br (m : Mod) (f : PoolBlk → PoolBlk) : (m.onPo f).br = m.br := rfl
@[simp] theorem onPo_sv (m : Mod) (f : PoolBlk → PoolBlk) : (m.onPo f).sv = m.sv := rfl
@[simp] theorem onPo_se (m : Mod) (f : PoolBlk → PoolBlk) : (m.onPo f).se = m.se := rfl
@[simp] theorem onSc_sc (m : Mod) (f : SchedBlk → SchedBlk) : (m.onSc f).sc = f m.sc := rfl
@[simp] theorem onSc_now (m : Mod) (f : SchedBlk → SchedBlk) : (m.onSc f).now = m.now := rfl
@[simp] theorem onSc_draws (m : Mod) (f : SchedBlk → SchedBlk) : (m.onSc f).draws = m.draws := rfl
@[simp] theorem onSc_out (m : Mod) (f : SchedBlk → SchedBlk) : (m.onSc f).out = m.out := rfl
@[simp] theorem onSc_ev (m : Mod) (f : SchedBlk → SchedBlk) : (m.onSc f).ev = m.ev := rfl
@[simp] theorem onSc_cn (m : Mod) (f : SchedBlk → SchedBlk) : (m.onSc f).cn = m.cn := rfl
@[simp] theorem onSc_pw (m : Mod) (f : SchedBlk → SchedBlk) : (m.onSc f).pw = m.pw := rfl
@[simp] theorem onSc_md (m : Mod) (f : SchedBlk → SchedBlk) : (m.onSc f).md = m.md := rfl
@[simp] theorem onSc_fn (m : Mod) (f : SchedBlk → SchedBlk) : (m.onSc f).fn = m.fn := rfl
@[simp] theorem onSc_ph (m : Mod) (f : SchedBlk → SchedBlk) : (m.onSc f).ph = m.ph := rfl
@[simp] theorem onSc_ed (m : Mod) (f : SchedBlk → SchedBlk) : (m.onSc f).ed = m.ed := rfl
@[simp] theorem onSc_lk (m : Mod) (f : SchedBlk → SchedBlk) : (m.onSc f).lk = m.lk := rfl
@[simp] theorem onSc_sw (m : Mod) (f : SchedBlk → SchedBlk) : (m.onSc f).sw = m.sw := rfl
@[simp] theorem onSc_rt (m : Mod) (f : SchedBlk → SchedBlk) : (m.onSc f).rt = m.rt := rfl
@[simp] theorem onSc_ti (m : Mod) (f : SchedBlk → SchedBlk) : (m.onSc f).ti = m.ti := rfl
@[simp] theorem onSc_di (m : Mod) (f : SchedBlk → SchedBlk) : (m.onSc f).di = m.di := rfl
@[simp] theorem onSc_tp (m : Mod) (f : SchedBlk → SchedBlk) : (m.onSc f).tp = m.tp := rfl
@[simp] theorem onSc_ca (m : Mod) (f : SchedBlk → SchedBlk) : (m.onSc f).ca = m.ca := rfl
@[simp] theorem onSc_ho (m : Mod) (f : SchedBlk → SchedBlk) : (m.onSc f).ho = m.ho := rfl
@[simp] theorem onSc_po (m : Mod) (f : SchedBlk → SchedBlk) : (m.onSc f).po = m.po := rfl
@[simp] theorem onSc_br (m : Mod) (f : SchedBlk → SchedBlk) : (m.onSc f).br = m.br := rfl
@[simp] theorem onSc_sv (m : Mod) (f : SchedBlk → SchedBlk) : (m.onSc f).sv = m.sv := rfl
@[simp] theorem onSc_se (m : Mod) (f : SchedBlk → SchedBlk) : (m.onSc f).se = m.se := rfl
@[simp] theorem onBr_br (m : Mod) (f : BridgeBlk → BridgeBlk) : (m.onBr f).br = f m.br := rfl
@[simp] theorem onBr_now (m : Mod) (f : BridgeBlk → BridgeBlk) : (m.onBr f).now = m.now := rfl
@[simp] theorem onBr_draws (m : Mod) (f : BridgeBlk → BridgeBlk) : (m.onBr f).draws = m.draws := rfl
@[simp] theorem onBr_out (m : Mod) (f : BridgeBlk → BridgeBlk) : (m.onBr f).out = m.out := rfl
@[simp] theorem onBr_ev (m : Mod) (f : BridgeBlk → BridgeBlk) : (m.onBr f).ev = m.ev := rfl
@[simp] theorem onBr_cn (m : Mod) (f : BridgeBlk → BridgeBlk) : (m.onBr f).cn = m.cn := rfl
@[simp] theorem onBr_pw (m : Mod) (f : BridgeBlk → BridgeBlk) : (m.onBr f).pw = m.pw := rfl
@[simp] theorem onBr_md (m : Mod) (f : BridgeBlk → BridgeBlk) : (m.onBr f).md = m.md := rfl
@[simp] theorem onBr_fn (m : Mod) (f : BridgeBlk → BridgeBlk) : (m.onBr f).fn = m.fn := rfl
@[simp] theorem onBr_ph (m : Mod) (f : BridgeBlk → BridgeBlk) : (m.onBr f).ph = m.ph := rfl
@[simp] theorem onBr_ed (m : Mod) (f : BridgeBlk → BridgeBlk) : (m.onBr f).ed = m.ed := rfl
@[simp] theorem onBr_lk (m : Mod) (f : BridgeBlk → BridgeBlk) : (m.onBr f).lk = m.lk := rfl
@[simp] theorem onBr_sw (m : Mod) (f : BridgeBlk → BridgeBlk) : (m.onBr f).sw = m.sw := rfl
@[simp] theorem onBr_rt (m : Mod) (f : BridgeBlk → BridgeBlk) : (m.onBr f).rt = m.rt := rfl
@[simp] theorem onBr_ti (m : Mod) (f : BridgeBlk → BridgeBlk) : (m.onBr f).ti = m.ti := rfl
@[simp] theorem onBr_di (m : Mod) (f : BridgeBlk → BridgeBlk) : (m.onBr f).di = m.di := rfl
@[simp] theorem onBr_tp (m : Mod) (f : BridgeBlk → BridgeBlk) : (m.onBr f).tp = m.tp := rfl
@[simp] theorem onBr_ca (m : Mod) (f : BridgeBlk → BridgeBlk) : (m.onBr f).ca = m.ca := rfl
@[simp] theorem onBr_ho (m : Mod) (f : BridgeBlk → BridgeBlk) : (m.onBr f).ho = m.ho := rfl
@[simp] theorem onBr_po (m : Mod) (f : BridgeBlk → BridgeBlk) : (m.onBr f).po = m.po := rfl
@[simp] theorem onBr_sc (m : Mod) (f : BridgeBlk → BridgeBlk) : (m.onBr f).sc = m.sc := rfl
@[simp] theorem onBr_sv (m : Mod) (f : BridgeBlk → BridgeBlk) : (m.onBr f).sv = m.sv := rfl
@[simp] theorem onBr_se (m : Mod) (f : BridgeBlk → BridgeBlk) : (m.onBr f).se = m.se := rfl
@[simp] theorem onSv_sv (m : Mod) (f : ServiceBlk → ServiceBlk) : (m.onSv f).sv = f m.sv := rfl
@[simp] theorem onSv_now (m : Mod) (f : ServiceBlk → ServiceBlk) : (m.onSv f).now = m.now := rfl
@[simp] theorem onSv_draws (m : Mod) (f : ServiceBlk → ServiceBlk) : (m.onSv f).draws = m.draws := rfl
@[simp] theorem onSv_out (m : Mod) (f : ServiceBlk → ServiceBlk) : (m.onSv f).out = m.out := rfl
@[simp] theorem onSv_ev (m : Mod) (f : ServiceBlk → ServiceBlk) : (m.onSv f).ev = m.ev := rfl
@[simp] theorem onSv_cn (m : Mod) (f : ServiceBlk → ServiceBlk) : (m.onSv f).cn = m.cn := rfl
@[simp] theorem onSv_pw (m : Mod) (f : ServiceBlk → ServiceBlk) : (m.onSv f).pw = m.pw := rfl
@[simp] theorem onSv_md (m : Mod) (f : ServiceBlk → ServiceBlk) : (m.onSv f).md = m.md := rfl
@[simp] theorem onSv_fn (m : Mod) (f : ServiceBlk → ServiceBlk) : (m.onSv f).fn = m.fn := rfl
@[simp] theorem onSv_ph (m : Mod) (f : ServiceBlk → ServiceBlk) : (m.onSv f).ph = m.ph := rfl
@[simp] theorem onSv_ed (m : Mod) (f : ServiceBlk → ServiceBlk) : (m.onSv f).ed = m.ed := rfl
@[simp] theorem onSv_lk (m : Mod) (f : ServiceBlk → ServiceBlk) : (m.onSv f).lk = m.lk := rfl
@[simp] theorem onSv_sw (m : Mod) (f : ServiceBlk → ServiceBlk) : (m.onSv f).sw = m.sw := rfl
@[simp] theorem onSv_rt (m : Mod) (f : ServiceBlk → ServiceBlk) : (m.onSv f).rt = m.rt := rfl
@[simp] theorem onSv_ti (m : Mod) (f : ServiceBlk → ServiceBlk) : (m.onSv f).ti = m.ti := rfl
@[simp] theorem onSv_di (m : Mod) (f : ServiceBlk → ServiceBlk) : (m.onSv f).di = m.di := rfl
@[simp] theorem onSv_tp (m : Mod) (f : ServiceBlk → ServiceBlk) : (m.onSv f).tp = m.tp := rfl
@[simp] theorem onSv_ca (m : Mod) (f : ServiceBlk → ServiceBlk) : (m.onSv f).ca = m.ca := rfl
@[simp] theorem onSv_ho (m : Mod) (f : ServiceBlk → ServiceBlk) : (m.onSv f).ho = m.ho := rfl
@[simp] theorem onSv_po (m : Mod) (f : ServiceBlk → ServiceBlk) : (m.onSv f).po = m.po := rfl
@[simp] theorem onSv_sc (m : Mod) (f : ServiceBlk → ServiceBlk) : (m.onSv f).sc = m.sc := rfl
@[simp] theorem onSv_br (m : Mod) (f : ServiceBlk → ServiceBlk) : (m.onSv f).br = m.br := rfl
@[simp] theorem onSv_se (m : Mod) (f : ServiceBlk → ServiceBlk) : (m.onSv f).se = m.se := rfl
@[simp] theorem onSe_se (m : Mod) (f : SecBlk → SecBlk) : (m.onSe f).se = f m.se := rfl
@[simp] theorem onSe_now (m : Mod) (f : SecBlk → SecBlk) : (m.onSe f).now = m.now := rfl
@[simp] theorem onSe_draws (m : Mod) (f : SecBlk → SecBlk) : (m.onSe f).draws = m.draws := rfl
@[simp] theorem onSe_out (m : Mod) (f : SecBlk → SecBlk) : (m.onSe f).out = m.out := rfl
@[simp] theorem onSe_ev (m : Mod) (f : SecBlk → SecBlk) : (m.onSe f).ev = m.ev := rfl
@[simp] theorem onSe_cn (m : Mod) (f : SecBlk → SecBlk) : (m.onSe f).cn = m.cn := rfl
@[simp] theorem onSe_pw (m : Mod) (f : SecBlk → SecBlk) : (m.onSe f).pw = m.pw := rfl
@[simp] theorem onSe_md (m : Mod) (f : SecBlk → SecBlk) : (m.onSe f).md = m.md := rfl
@[simp] theorem onSe_fn (m : Mod) (f : SecBlk → SecBlk) : (m.onSe f).fn = m.fn := rfl
@[simp] theorem onSe_ph (m : Mod) (f : SecBlk → SecBlk) : (m.onSe f).ph = m.ph := rfl
@[simp] theorem onSe_ed (m : Mod) (f : SecBlk → SecBlk) : (m.onSe f).ed = m.ed := rfl
@[simp] theorem onSe_lk (m : Mod) (f : SecBlk → SecBlk) : (m.onSe f).lk = m.lk := rfl
@[simp] theorem onSe_sw (m : Mod) (f : SecBlk → SecBlk) : (m.onSe f).sw = m.sw := rfl
@[simp] theorem onSe_rt (m : Mod) (f : SecBlk → SecBlk) : (m.onSe f).rt = m.rt := rfl
@[simp] theorem onSe_ti (m : Mod) (f : SecBlk → SecBlk) : (m.onSe f).ti = m.ti := rfl
@[simp] theorem onSe_di (m : Mod) (f : SecBlk → SecBlk) : (m.onSe f).di = m.di := rfl
@[simp] theorem onSe_tp (m : Mod) (f : SecBlk → SecBlk) : (m.onSe f).tp = m.tp := rfl
@[simp] theorem onSe_ca (m : Mod) (f : SecBlk → SecBlk) : (m.onSe f).ca = m.ca := rfl
@[simp] theorem onSe_ho (m : Mod) (f : SecBlk → SecBlk) : (m.onSe f).ho = m.ho := rfl
@[simp] theorem onSe_po (m : Mod) (f : SecBlk → SecBlk) : (m.onSe f).po = m.po := rfl
@[simp] theorem onSe_sc (m : Mod) (f : SecBlk → SecBlk) : (m.onSe f).sc = m.sc := rfl
@[simp] theorem onSe_br (m : Mod) (f : SecBlk → SecBlk) : (m.onSe f).br = m.br := rfl
@[simp] theorem onSe_sv (m : Mod) (f : SecBlk → SecBlk) : (m.onSe f).sv = m.sv := rfl
@[simp] theorem emit_out (m : Mod) (o : Out) : (m.emit o).out = m.out ++ [o] := rfl
@[simp] theorem emit_now (m : Mod) (o : Out) : (m.emit o).now = m.now := rfl
@[simp] theorem emit_draws (m : Mod) (o : Out) : (m.emit o).draws = m.draws := rfl
@[simp] theorem emit_ev (m : Mod) (o : Out) : (m.emit o).ev = m.ev := rfl
@[simp] theorem emit_cn (m : Mod) (o : Out) : (m.emit o).cn = m.cn := rfl
@[simp] theorem emit_pw (m : Mod) (o : Out) : (m.emit o).pw = m.pw := rfl
@[simp] theorem emit_md (m : Mod) (o : Out) : (m.emit o).md = m.md := rfl
@[simp] theorem emit_fn (m : Mod) (o : Out) : (m.emit o).fn = m.fn := rfl
@[simp] theorem emit_ph (m : Mod) (o : Out) : (m.emit o).ph = m.ph := rfl
@[simp] theorem emit_ed (m : Mod) (o : Out) : (m.emit o).ed = m.ed := rfl
@[simp] theorem emit_lk (m : Mod) (o : Out) : (m.emit o).lk = m.lk := rfl
@[simp] theorem emit_sw (m : Mod) (o : Out) : (m.emit o).sw = m.sw := rfl
@[simp] theorem emit_rt (m : Mod) (o : Out) : (m.emit o).rt = m.rt := rfl
@[simp] theorem emit_ti (m : Mod) (o : Out) : (m.emit o).ti = m.ti := rfl
@[simp] theorem emit_di (m : Mod) (o : Out) : (m.emit o).di = m.di := rfl
@[simp] theorem emit_tp (m : Mod) (o : Out) : (m.emit o).tp = m.tp := rfl
@[simp] theorem emit_ca (m : Mod) (o : Out) : (m.emit o).ca = m.ca := rfl
@[simp] theorem emit_ho (m : Mod) (o : Out) : (m.emit o).ho = m.ho := rfl
@[simp] theorem emit_po (m : Mod) (o : Out) : (m.emit o).po = m.po := rfl
@[simp] theorem emit_sc (m : Mod) (o : Out) : (m.emit o).sc = m.sc := rfl
@[simp] theorem emit_br (m : Mod) (o : Out) : (m.emit o).br = m.br := rfl
@[simp] theorem emit_sv (m : Mod) (o : Out) : (m.emit o).sv = m.sv := rfl
@[simp] theorem emit_se (m : Mod) (o : Out) : (m.emit o).se = m.se := rfl
@[simp] theorem drawn_draws (m : Mod) : (m.drawn).draws = m.draws + 1 := rfl
@[simp] theorem drawn_now (m : Mod) : (m.drawn).now = m.now := rfl
@[simp] theorem drawn_out (m : Mod) : (m.drawn).out = m.out := rfl
@[simp] theorem drawn_ev (m : Mod) : (m.drawn).ev = m.ev := rfl
@[simp] theorem drawn_cn (m : Mod) : (m.drawn).cn = m.cn := rfl
@[simp] theorem drawn_pw (m : Mod) : (m.drawn).pw = m.pw := rfl
@[simp] theorem drawn_md (m : Mod) : (m.drawn).md = m.md := rfl
@[simp] theorem drawn_fn (m : Mod) : (m.drawn).fn = m.fn := rfl
@[simp] theorem drawn_ph (m : Mod) : (m.drawn).ph = m.ph := rfl
@[simp] theorem drawn_ed (m : Mod) : (m.drawn).ed = m.ed := rfl
@[simp] theorem drawn_lk (m : Mod) : (m.drawn).lk = m.lk := rfl
@[simp] theorem drawn_sw (m : Mod) : (m.drawn).sw = m.sw := rfl
@[simp] theorem drawn_rt (m : Mod) : (m.drawn).rt = m.rt := rfl
@[simp] theorem drawn_ti (m : Mod) : (m.drawn).ti = m.ti := rfl
@[simp] theorem drawn_di (m : Mod) : (m.drawn).di = m.di := rfl
@[simp] theorem drawn_tp (m : Mod) : (m.drawn).tp = m.tp := rfl
@[simp] theorem drawn_ca (m : Mod) : (m.drawn).ca = m.ca := rfl
@[simp] theorem drawn_ho (m : Mod) : (m.drawn).ho = m.ho := rfl
@[simp] theorem drawn_po (m : Mod) : (m.drawn).po = m.po := rfl
@[simp] theorem drawn_sc (m : Mod) : (m.drawn).sc = m.sc := rfl
@[simp] theorem drawn_br (m : Mod) : (m.drawn).br = m.br := rfl
@[simp] theorem drawn_sv (m : Mod) : (m.drawn).sv = m.sv := rfl
@[simp] theorem drawn_se (m : Mod) : (m.drawn).se = m.se := rfl

@[simp] theorem when_true (m : Mod) (f : Mod → Mod) : m.when true f = f m := rfl
@[simp] theorem when_false (m : Mod) (f : Mod → Mod) : m.when false f = m := rfl
@[simp] theorem each_nil {α : Type} (m : Mod) (f : α → Mod → Mod) : m.each [] f = m := rfl
@[simp] theorem each_cons {α : Type} (m : Mod) (a : α) (l : List α) (f : α → Mod → Mod) :
    m.each (a :: l) f = (f a m).each l f := rfl

/-- Whatever every turn of a loop leaves unchanged, the loop leaves unchanged. -/
theorem each_keeps {α β : Type} (g : Mod → β) (f : α → Mod → Mod) (h : ∀ a m, g (f a m) = g m) :
    ∀ (l : List α) (m : Mod), g (m.each l f) = g m
  | [], _ => rfl
  | a :: l, m => by rw [each_cons, each_keeps g f h l, h]

/-- Whatever f leaves unchanged, f under a condition leaves unchanged. -/
theorem when_keeps {β : Type} (g : Mod → β) (f : Mod → Mod) (h : ∀ m, g (f m) = g m) (m : Mod) (c : Bool) :
    g (m.when c f) = g m := by cases c <;> simp [h]

end Sys2Proof.Machine
end

