-- ==== Sys2Proof/Laws/Tbl.lean ====
section
/-! SUPPORT. Sparse tables: what a store and a removal leave readable, and that both keep the canonical form. -/
namespace Sys2Proof.Machine
set_option Elab.async false

@[simp] theorem tget_nil {α : Type} (d : α) (k : Nat) : tget d k [] = d := rfl

theorem tget_tdel_self {α : Type} (d : α) (k : Nat) : ∀ t : Tbl α, tget d k (tdel k t) = d
  | [] => rfl
  | (j, a) :: t => by
    by_cases h : j = k
    · simp [tdel, h, tget_tdel_self d k t]
    · simp [tdel, tget, h, tget_tdel_self d k t]

theorem tget_tdel_ne {α : Type} (d : α) {k j : Nat} (h : j ≠ k) : ∀ t : Tbl α, tget d j (tdel k t) = tget d j t
  | [] => rfl
  | (i, a) :: t => by
    have ih := tget_tdel_ne d h t
    by_cases hi : i = k
    · subst hi; simp [tdel, tget, Ne.symm h, ih]
    · simp only [tdel, hi, if_false, tget, ih]

theorem tget_tins_self {α : Type} (d : α) (k : Nat) (v : α) : ∀ t : Tbl α, tget d k (tins k v t) = v
  | [] => by simp [tins, tget]
  | (j, a) :: t => by
    have ih := tget_tins_self d k v t
    by_cases h1 : k < j
    · simp [tins, tget, h1]
    · by_cases h2 : j = k
      · simp [tins, tget, h2]
      · simp [tins, tget, h1, h2, ih]

theorem tget_tins_ne {α : Type} (d : α) {k j : Nat} (v : α) (h : j ≠ k) : ∀ t : Tbl α, tget d j (tins k v t) = tget d j t
  | [] => by simp [tins, tget, Ne.symm h]
  | (i, a) :: t => by
    have ih := tget_tins_ne d v h t
    by_cases h1 : k < i
    · simp [tins, tget, h1, Ne.symm h]
    · by_cases h2 : i = k
      · subst h2; simp [tins, tget, Ne.symm h]
      · simp only [tins, h1, h2, if_false, tget, ih]

/-- A stored value is read back. -/
@[simp] theorem tget_tset_self {α : Type} [DecidableEq α] (d : α) (k : Nat) (v : α) (t : Tbl α) : tget d k (tset d k v t) = v := by
  unfold tset
  by_cases h : v = d
  · simp [h, tget_tdel_self]
  · simp [h, tget_tins_self]

/-- A store leaves every other key as it was. -/
theorem tget_tset_ne {α : Type} [DecidableEq α] (d : α) {k j : Nat} (v : α) (h : j ≠ k) (t : Tbl α) : tget d j (tset d k v t) = tget d j t := by
  unfold tset
  by_cases hv : v = d
  · simp [hv, tget_tdel_ne d h]
  · simp [hv, tget_tins_ne d v h]

theorem tget_tset {α : Type} [DecidableEq α] (d : α) (k j : Nat) (v : α) (t : Tbl α) :
    tget d j (tset d k v t) = if j = k then v else tget d j t := by
  by_cases h : j = k
  · subst h; simp
  · simp [h, tget_tset_ne d v h]

@[simp] theorem tget_tmod_self {α : Type} [DecidableEq α] (d : α) (k : Nat) (f : α → α) (t : Tbl α) :
    tget d k (tmod d k f t) = f (tget d k t) := by simp [tmod]

theorem tget_tmod_ne {α : Type} [DecidableEq α] (d : α) {k j : Nat} (f : α → α) (h : j ≠ k) (t : Tbl α) :
    tget d j (tmod d k f t) = tget d j t := tget_tset_ne d _ h t

theorem tget_tmod {α : Type} [DecidableEq α] (d : α) (k j : Nat) (f : α → α) (t : Tbl α) :
    tget d j (tmod d k f t) = if j = k then f (tget d k t) else tget d j t := by
  by_cases h : j = k
  · subst h; simp
  · simp [h, tget_tmod_ne d f h]

/-! The canonical form. -/

/-- The lower bound on the keys of a table may be lowered, or dropped. -/
theorem tsorted_mono {α : Type} {lo lo' : Option Nat} (hlo : ∀ l, lo' = some l → ∃ k, lo = some k ∧ l ≤ k) :
    ∀ t : Tbl α, tsorted lo t = true → tsorted lo' t = true
  | [], _ => rfl
  | (j, a) :: t, h => by
    simp only [tsorted, Bool.and_eq_true] at h ⊢
    refine ⟨?_, h.2⟩
    cases lo' with
    | none => rfl
    | some l =>
      obtain ⟨k, rfl, hk⟩ := hlo l rfl
      have := of_decide_eq_true h.1
      exact decide_eq_true (by omega)

theorem tsorted_tdel {α : Type} (k : Nat) : ∀ (lo : Option Nat) (t : Tbl α), tsorted lo t = true → tsorted lo (tdel k t) = true
  | _, [], _ => rfl
  | lo, (j, a) :: t, h => by
    simp only [tsorted, Bool.and_eq_true] at h
    by_cases hj : j = k
    · simp only [tdel, hj, if_true]
      refine tsorted_tdel k lo t (tsorted_mono ?_ t h.2)
      intro l hl
      subst hl
      exact ⟨j, rfl, Nat.le_of_lt (of_decide_eq_true h.1)⟩
    · simp only [tdel, hj, if_false, tsorted, Bool.and_eq_true]
      exact ⟨h.1, tsorted_tdel k _ t h.2⟩

theorem tsorted_tins {α : Type} (k : Nat) (v : α) :
    ∀ (lo : Option Nat) (t : Tbl α), (∀ l, lo = some l → l < k) → tsorted lo t = true → tsorted lo (tins k v t) = true
  | lo, [], hk, _ => by
    cases lo with
    | none => rfl
    | some l => simp [tins, tsorted, hk l rfl]
  | lo, (j, a) :: t, hk, h => by
    simp only [tsorted, Bool.and_eq_true] at h
    have low : ∀ x, lo = some x → decide (x < k) = true := fun x hx => decide_eq_true (hk x hx)
    by_cases h1 : k < j
    · rw [show tins k v ((j, a) :: t) = (k, v) :: (j, a) :: t from if_pos h1]
      simp only [tsorted, Bool.and_eq_true]
      refine ⟨?_, decide_eq_true h1, h.2⟩
      cases lo with
      | none => rfl
      | some l => exact low l rfl
    · by_cases h2 : j = k
      · subst h2
        simp only [tins, Nat.lt_irrefl, if_false, if_true, tsorted, Bool.and_eq_true]
        exact h
      · simp only [tins, h1, h2, if_false, tsorted, Bool.and_eq_true]
        refine ⟨h.1, tsorted_tins k v (some j) t ?_ h.2⟩
        intro l hl
        cases hl
        omega

theorem tnodflt_tdel {α : Type} [DecidableEq α] (d : α) (k : Nat) : ∀ t : Tbl α, tnodflt d t = true → tnodflt d (tdel k t) = true
  | [], _ => rfl
  | (j, a) :: t, h => by
    simp only [tnodflt, Bool.and_eq_true] at h
    by_cases hj : j = k
    · simp only [tdel, hj, if_true]; exact tnodflt_tdel d k t h.2
    · simp only [tdel, hj, if_false, tnodflt, Bool.and_eq_true]; exact ⟨h.1, tnodflt_tdel d k t h.2⟩

theorem tnodflt_tins {α : Type} [DecidableEq α] (d : α) (k : Nat) {v : α} (hv : v ≠ d) :
    ∀ t : Tbl α, tnodflt d t = true → tnodflt d (tins k v t) = true
  | [], _ => by simp [tins, tnodflt, hv]
  | (j, a) :: t, h => by
    simp only [tnodflt, Bool.and_eq_true] at h
    have hd : decide (v ≠ d) = true := decide_eq_true hv
    by_cases h1 : k < j
    · simp only [tins, h1, if_true, tnodflt, Bool.and_eq_true]; exact ⟨hd, h.1, h.2⟩
    · by_cases h2 : j = k
      · simp only [tins, h2, Nat.lt_irrefl, if_false, if_true, tnodflt, Bool.and_eq_true]; exact ⟨hd, h.2⟩
      · simp only [tins, h1, h2, if_false, tnodflt, Bool.and_eq_true]; exact ⟨h.1, tnodflt_tins d k hv t h.2⟩

/-- A store keeps the canonical form. -/
theorem wf_tset {α : Type} [DecidableEq α] (d : α) (k : Nat) (v : α) (t : Tbl α) (h : Tbl.wf d t = true) : Tbl.wf d (tset d k v t) = true := by
  simp only [Tbl.wf, Bool.and_eq_true] at h ⊢
  unfold tset
  by_cases hv : v = d
  · rw [if_pos hv]
    exact ⟨tsorted_tdel k none t h.1, tnodflt_tdel d k t h.2⟩
  · rw [if_neg hv]
    exact ⟨tsorted_tins k v none t (by intro l hl; cases hl) h.1, tnodflt_tins d k hv t h.2⟩

theorem wf_tmod {α : Type} [DecidableEq α] (d : α) (k : Nat) (f : α → α) (t : Tbl α) (h : Tbl.wf d t = true) : Tbl.wf d (tmod d k f t) = true :=
  wf_tset d k _ t h

/-! Memory: the canonical form of its table of bytes. -/

/-- A written byte is read back, modulo 256. -/
@[simp] theorem Memory.read_write_self (mem : Memory) (a v : Nat) : (mem.write a v).read a = v % 256 := by
  simp [Memory.read, Memory.write]

/-- A write leaves every other byte as it was. -/
theorem Memory.read_write_ne (mem : Memory) {a b : Nat} (v : Nat) (h : b ≠ a) : (mem.write a v).read b = mem.read b := by
  simp [Memory.read, Memory.write, tget_tset_ne _ _ h]

theorem Memory.wf_write (mem : Memory) (a v : Nat) (h : mem.wf = true) : (mem.write a v).wf = true := wf_tset _ a _ mem h

theorem Memory.wf_put : ∀ (l : List Nat) (mem : Memory) (a : Nat), mem.wf = true → (mem.put a l).wf = true
  | [], _, _, h => h
  | b :: l, mem, a, h => Memory.wf_put l _ _ (Memory.wf_write mem a b h)

theorem Memory.wf_nil : Memory.wf [] = true := rfl

/-- Bytes outside a put are as they were. -/
theorem Memory.read_put_outside : ∀ (l : List Nat) (mem : Memory) (a x : Nat), (x < a ∨ a + l.length ≤ x) → (mem.put a l).read x = mem.read x
  | [], _, _, _, _ => rfl
  | b :: l, mem, a, x, h => by
    have hx : x ≠ a := by
      simp only [List.length_cons] at h
      omega
    have h2 : x < a + 1 ∨ a + 1 + l.length ≤ x := by
      simp only [List.length_cons] at h
      omega
    rw [Memory.put, Memory.read_put_outside l _ _ x h2, Memory.read_write_ne _ _ hx]

/-- Byte i of a put is read back, modulo 256. -/
theorem Memory.read_put_inside : ∀ (l : List Nat) (mem : Memory) (a i : Nat) (h : i < l.length), (mem.put a l).read (a + i) = l[i] % 256
  | b :: l, mem, a, 0, _ => by
    rw [Memory.put, Memory.read_put_outside l _ _ _ (Or.inl (by omega))]
    simp
  | b :: l, mem, a, i + 1, h => by
    have e : a + (i + 1) = a + 1 + i := by omega
    rw [Memory.put, e, Memory.read_put_inside l _ (a + 1) i (by simpa using h)]
    simp

end Sys2Proof.Machine
end

