-- ==== Sys2Proof/Laws/Stable.lean ====
section
/-! SUPPORT. Properties that a module keeps through every operation built of given primitive updates: `Stable B P` says the property P survives the primitives
whose bits stand in the mask B. One lemma per operation (the files Keeps….lean) then says once what the operation can do: it keeps every property stable under
the updates it is built from. What no operation undoes (`Evolves`) and what an operation leaves unchanged (frames) are both such properties. -/
namespace Sys2Proof.Machine
set_option Elab.async false

/-- Fuses and counters of one-time programmable bits only grow (R565, R566, R573, R578), within their ranges. -/
structure FusesGrow (a b : SecBlk) : Prop where
  life : a.life ≤ b.life
  rollFs : a.rollFs ≤ b.rollFs
  rollFw : a.rollFw ≤ b.rollFw
  revoked : a.revoked ||| b.revoked = b.revoked
  uds : ∀ u, a.uds = some u → b.uds = some u
  lifeOk : a.life ∈ [0, 1, 2, 4, 5] → b.life ∈ [0, 1, 2, 4, 5]
  fsOk : a.rollFs ≤ 63 → b.rollFs ≤ 63
  fwOk : a.rollFw ≤ 63 → b.rollFw ≤ 63
  revokedOk : a.revoked < 16 → b.revoked < 16

theorem FusesGrow.refl (a : SecBlk) : FusesGrow a a :=
  ⟨Nat.le_refl _, Nat.le_refl _, Nat.le_refl _, Nat.or_self _, fun _ h => h, fun h => h, fun h => h, fun h => h, fun h => h⟩

theorem FusesGrow.trans {a b c : SecBlk} (h : FusesGrow a b) (k : FusesGrow b c) : FusesGrow a c :=
  ⟨Nat.le_trans h.life k.life, Nat.le_trans h.rollFs k.rollFs, Nat.le_trans h.rollFw k.rollFw,
    by rw [← k.revoked, ← Nat.or_assoc, h.revoked], fun u e => k.uds u (h.uds u e), fun e => k.lifeOk (h.lifeOk e), fun e => k.fsOk (h.fsOk e),
    fun e => k.fwOk (h.fwOk e), fun e => k.revokedOk (h.revokedOk e)⟩

/-- A change that touches no fuse. -/
theorem FusesGrow.same {a b : SecBlk} (h1 : b.life = a.life) (h2 : b.rollFs = a.rollFs) (h3 : b.rollFw = a.rollFw) (h4 : b.revoked = a.revoked)
    (h5 : b.uds = a.uds) : FusesGrow a b :=
  ⟨by omega, by omega, by omega, by rw [h4, Nat.or_self], fun u e => by rw [h5, e], fun e => by rw [h1]; exact e, by omega, by omega, by omega⟩

/-- Canonical memories stay canonical. -/
structure MemKept (a b : ServiceBlk) : Prop where
  service : a.service.wf = true → b.service.wf = true
  sram : a.sram.wf = true → b.sram.wf = true

theorem MemKept.refl (a : ServiceBlk) : MemKept a a := ⟨fun h => h, fun h => h⟩
theorem MemKept.trans {a b c : ServiceBlk} (h : MemKept a b) (k : MemKept b c) : MemKept a c :=
  ⟨fun e => k.service (h.service e), fun e => k.sram (h.sram e)⟩
theorem MemKept.same {a b : ServiceBlk} (h1 : b.service = a.service) (h2 : b.sram = a.sram) : MemKept a b :=
  ⟨fun e => by rw [h1]; exact e, fun e => by rw [h2]; exact e⟩
theorem MemKept.clear {a b : ServiceBlk} (h1 : b.service = []) (h2 : b.sram = a.sram) : MemKept a b :=
  ⟨fun _ => by rw [h1]; rfl, fun e => by rw [h2]; exact e⟩
theorem MemKept.put {a b : ServiceBlk} {x : Nat} {l : List Nat} (h1 : b.service = a.service.put x l) (h2 : b.sram = a.sram) : MemKept a b :=
  ⟨fun e => by rw [h1]; exact Memory.wf_put l _ x e, fun e => by rw [h2]; exact e⟩
theorem MemKept.putSram {a b : ServiceBlk} {x : Nat} {l : List Nat} (h1 : b.service = a.service) (h2 : b.sram = a.sram.put x l) : MemKept a b :=
  ⟨fun e => by rw [h1]; exact e, fun e => by rw [h2]; exact Memory.wf_put l _ x e⟩

/-- The module b can have come of the module a. -/
structure Evolves (a b : Mod) : Prop where
  now : a.now ≤ b.now
  draws : a.draws ≤ b.draws
  out : a.out <+: b.out
  fuses : FusesGrow a.se b.se
  mem : MemKept a.sv b.sv

theorem Evolves.refl (a : Mod) : Evolves a a := ⟨Nat.le_refl _, Nat.le_refl _, List.prefix_refl _, FusesGrow.refl _, MemKept.refl _⟩

theorem Evolves.trans {a b c : Mod} (h : Evolves a b) (k : Evolves b c) : Evolves a c :=
  ⟨Nat.le_trans h.now k.now, Nat.le_trans h.draws k.draws, h.out.trans k.out, h.fuses.trans k.fuses, h.mem.trans k.mem⟩

/-- A change of none of the kept fields. -/
theorem Evolves.same {a m m' : Mod} (h : Evolves a m) (h1 : m'.now = m.now) (h2 : m'.draws = m.draws) (h3 : m'.out = m.out) (h4 : m'.se = m.se)
    (h5 : m'.sv = m.sv) : Evolves a m' :=
  ⟨by rw [h1]; exact h.now, by rw [h2]; exact h.draws, by rw [h3]; exact h.out, by rw [h4]; exact h.fuses, by rw [h5]; exact h.mem⟩

/-- No fuse is touched. -/
structure FusesSame (a b : SecBlk) : Prop where
  life : b.life = a.life
  rollFs : b.rollFs = a.rollFs
  rollFw : b.rollFw = a.rollFw
  revoked : b.revoked = a.revoked
  uds : b.uds = a.uds

theorem FusesSame.grow {a b : SecBlk} (h : FusesSame a b) : FusesGrow a b := FusesGrow.same h.life h.rollFs h.rollFw h.revoked h.uds

/-- The property P survives the primitive updates of the mask B: bit 0 time, 1 a draw, 2 a message sent, 3 to 22 a change of one block, 23 to 30 a change of the
named fields of a block only, 31 a change of the service block but its memories, 32 of the security block but its fuses, 33 any change that undoes nothing, 34 a change of lanes and searches only. -/
structure Stable (B : Nat) (P : Mod → Prop) : Prop where
  now : Nat.land B 0x1 = 0x1 → ∀ m dt, P m → P (Mod.advance m dt)
  draw : Nat.land B 0x2 = 0x2 → ∀ m, P m → P (Mod.drawn m)
  sent : Nat.land B 0x4 = 0x4 → ∀ m o, P m → P (Mod.emit m o)
  ev : Nat.land B 0x8 = 0x8 → ∀ m (f : EventBlk → EventBlk), P m → P (Mod.onEv m f)
  cn : Nat.land B 0x10 = 0x10 → ∀ m (f : CountBlk → CountBlk), P m → P (Mod.onCn m f)
  pw : Nat.land B 0x20 = 0x20 → ∀ m (f : PowerBlk → PowerBlk), P m → P (Mod.onPw m f)
  md : Nat.land B 0x40 = 0x40 → ∀ m (f : ModeBlk → ModeBlk), P m → P (Mod.onMd m f)
  fn : Nat.land B 0x80 = 0x80 → ∀ m (f : FenceBlk → FenceBlk), P m → P (Mod.onFn m f)
  ph : Nat.land B 0x100 = 0x100 → ∀ m (f : PhyBlk → PhyBlk), P m → P (Mod.onPh m f)
  ed : Nat.land B 0x200 = 0x200 → ∀ m (f : EdgeBlk → EdgeBlk), P m → P (Mod.onEd m f)
  lk : Nat.land B 0x400 = 0x400 → ∀ m (f : LinkBlk → LinkBlk), P m → P (Mod.onLk m f)
  sw : Nat.land B 0x800 = 0x800 → ∀ m (f : SwitchBlk → SwitchBlk), P m → P (Mod.onSw m f)
  rt : Nat.land B 0x1000 = 0x1000 → ∀ m (f : RouteBlk → RouteBlk), P m → P (Mod.onRt m f)
  ti : Nat.land B 0x2000 = 0x2000 → ∀ m (f : TimeBlk → TimeBlk), P m → P (Mod.onTi m f)
  di : Nat.land B 0x4000 = 0x4000 → ∀ m (f : DictBlk → DictBlk), P m → P (Mod.onDi m f)
  tp : Nat.land B 0x8000 = 0x8000 → ∀ m (f : TapBlk → TapBlk), P m → P (Mod.onTp m f)
  ca : Nat.land B 0x10000 = 0x10000 → ∀ m (f : CacheBlk → CacheBlk), P m → P (Mod.onCa m f)
  ho : Nat.land B 0x20000 = 0x20000 → ∀ m (f : HomeBlk → HomeBlk), P m → P (Mod.onHo m f)
  po : Nat.land B 0x40000 = 0x40000 → ∀ m (f : PoolBlk → PoolBlk), P m → P (Mod.onPo m f)
  sc : Nat.land B 0x80000 = 0x80000 → ∀ m (f : SchedBlk → SchedBlk), P m → P (Mod.onSc m f)
  br : Nat.land B 0x100000 = 0x100000 → ∀ m (f : BridgeBlk → BridgeBlk), P m → P (Mod.onBr m f)
  sv : Nat.land B 0x200000 = 0x200000 → ∀ m (f : ServiceBlk → ServiceBlk), (∀ b, MemKept b (f b)) → P m → P (Mod.onSv m f)
  se : Nat.land B 0x400000 = 0x400000 → ∀ m (f : SecBlk → SecBlk), (∀ b, FusesGrow b (f b)) → P m → P (Mod.onSe m f)
  edN : Nat.land B 0x800000 = 0x800000 → ∀ m (f : EdgeBlk → EdgeBlk), (∀ b, f b = { b with vcs := (f b).vcs, filter := (f b).filter, snoops := (f b).snoops }) → P m → P (Mod.onEd m f)
  swN : Nat.land B 0x1000000 = 0x1000000 → ∀ m (f : SwitchBlk → SwitchBlk), (∀ b, f b = { b with nextId := (f b).nextId, waiting := (f b).waiting, inbox := (f b).inbox, bankUse := (f b).bankUse, trk := (f b).trk, trkHigh := (f b).trkHigh, trkOrder := (f b).trkOrder }) → P m → P (Mod.onSw m f)
  rtN : Nat.land B 0x2000000 = 0x2000000 → ∀ m (f : RouteBlk → RouteBlk), (∀ b, f b = { b with rr := (f b).rr, kept := (f b).kept, flows := (f b).flows, lostFwd := (f b).lostFwd }) → P m → P (Mod.onRt m f)
  hoN : Nat.land B 0x4000000 = 0x4000000 → ∀ m (f : HomeBlk → HomeBlk), (∀ b, f b = { b with dir := (f b).dir, txns := (f b).txns, queue := (f b).queue, spent := (f b).spent, refillAt := (f b).refillAt, tokenWait := (f b).tokenWait }) → P m → P (Mod.onHo m f)
  caN : Nat.land B 0x8000000 = 0x8000000 → ∀ m (f : CacheBlk → CacheBlk), (∀ b, f b = { b with lines := (f b).lines, reports := (f b).reports, results := (f b).results }) → P m → P (Mod.onCa m f)
  poN : Nat.land B 0x10000000 = 0x10000000 → ∀ m (f : PoolBlk → PoolBlk), (∀ b, f b = { b with ext := (f b).ext, hits := (f b).hits, migs := (f b).migs }) → P m → P (Mod.onPo m f)
  diN : Nat.land B 0x20000000 = 0x20000000 → ∀ m (f : DictBlk → DictBlk), (∀ b, f b = { b with obj := (f b).obj, flash := (f b).flash, nextTag := (f b).nextTag, proxied := (f b).proxied }) → P m → P (Mod.onDi m f)
  svN : Nat.land B 0x40000000 = 0x40000000 → ∀ m (f : ServiceBlk → ServiceBlk), (∀ b, f b = { b with fns := (f b).fns }) → P m → P (Mod.onSv m f)
  phN : Nat.land B 0x400000000 = 0x400000000 → ∀ m (f : PhyBlk → PhyBlk), (∀ b, f b = { b with lanes := (f b).lanes, search := (f b).search }) → P m → P (Mod.onPh m f)
  svM : Nat.land B 0x80000000 = 0x80000000 → ∀ m (f : ServiceBlk → ServiceBlk), (∀ b, (f b).service = b.service ∧ (f b).sram = b.sram) → P m → P (Mod.onSv m f)
  seN : Nat.land B 0x100000000 = 0x100000000 → ∀ m (f : SecBlk → SecBlk), (∀ b, FusesSame b (f b)) → P m → P (Mod.onSe m f)
  any : Nat.land B 0x200000000 = 0x200000000 → ∀ m m', Evolves m m' → P m → P m'

/-- A property stable under more is stable under less. -/
theorem Stable.up {A B : Nat} {P : Mod → Prop} (h : Stable B P) (k : Nat.land A B = A := by with_unfolding_all exact rfl) : Stable A P := by
  have t : ∀ i, Nat.land A i = i → Nat.land B i = i := by
    intro i hi
    have k' : A &&& B = A := k
    have hi' : A &&& i = i := hi
    show B &&& i = i
    rw [← hi', ← Nat.and_assoc, Nat.and_comm B A, k']
  exact ⟨fun k => h.now (t _ k), fun k => h.draw (t _ k), fun k => h.sent (t _ k), fun k => h.ev (t _ k), fun k => h.cn (t _ k), fun k => h.pw (t _ k), fun k => h.md (t _ k), fun k => h.fn (t _ k), fun k => h.ph (t _ k), fun k => h.ed (t _ k), fun k => h.lk (t _ k), fun k => h.sw (t _ k), fun k => h.rt (t _ k), fun k => h.ti (t _ k), fun k => h.di (t _ k), fun k => h.tp (t _ k), fun k => h.ca (t _ k), fun k => h.ho (t _ k), fun k => h.po (t _ k), fun k => h.sc (t _ k), fun k => h.br (t _ k), fun k => h.sv (t _ k), fun k => h.se (t _ k), fun k => h.edN (t _ k), fun k => h.swN (t _ k), fun k => h.rtN (t _ k), fun k => h.hoN (t _ k), fun k => h.caN (t _ k), fun k => h.poN (t _ k), fun k => h.diN (t _ k), fun k => h.svN (t _ k), fun k => h.phN (t _ k), fun k => h.svM (t _ k), fun k => h.seN (t _ k), fun k => h.any (t _ k)⟩

section
variable {B : Nat} {P : Mod → Prop} (h : Stable B P) {m : Mod} (hm : P m)
include h hm

theorem Stable.advance (dt : Nat) (k : Nat.land B 0x1 = 0x1 := by with_unfolding_all exact rfl) : P (m.advance dt) := h.now k m dt hm
theorem Stable.drawn (k : Nat.land B 0x2 = 0x2 := by with_unfolding_all exact rfl) : P m.drawn := h.draw k m hm
theorem Stable.emit (o : Out) (k : Nat.land B 0x4 = 0x4 := by with_unfolding_all exact rfl) : P (m.emit o) := h.sent k m o hm
theorem Stable.onEv {f : EventBlk → EventBlk} (k : Nat.land B 0x8 = 0x8 := by with_unfolding_all exact rfl) : P (m.onEv f) := h.ev k m f hm
theorem Stable.onCn {f : CountBlk → CountBlk} (k : Nat.land B 0x10 = 0x10 := by with_unfolding_all exact rfl) : P (m.onCn f) := h.cn k m f hm
theorem Stable.onPw {f : PowerBlk → PowerBlk} (k : Nat.land B 0x20 = 0x20 := by with_unfolding_all exact rfl) : P (m.onPw f) := h.pw k m f hm
theorem Stable.onMd {f : ModeBlk → ModeBlk} (k : Nat.land B 0x40 = 0x40 := by with_unfolding_all exact rfl) : P (m.onMd f) := h.md k m f hm
theorem Stable.onFn {f : FenceBlk → FenceBlk} (k : Nat.land B 0x80 = 0x80 := by with_unfolding_all exact rfl) : P (m.onFn f) := h.fn k m f hm
theorem Stable.onPh {f : PhyBlk → PhyBlk} (k : Nat.land B 0x100 = 0x100 := by with_unfolding_all exact rfl) : P (m.onPh f) := h.ph k m f hm
theorem Stable.onEd {f : EdgeBlk → EdgeBlk} (k : Nat.land B 0x200 = 0x200 := by with_unfolding_all exact rfl) : P (m.onEd f) := h.ed k m f hm
theorem Stable.onLk {f : LinkBlk → LinkBlk} (k : Nat.land B 0x400 = 0x400 := by with_unfolding_all exact rfl) : P (m.onLk f) := h.lk k m f hm
theorem Stable.onSw {f : SwitchBlk → SwitchBlk} (k : Nat.land B 0x800 = 0x800 := by with_unfolding_all exact rfl) : P (m.onSw f) := h.sw k m f hm
theorem Stable.onRt {f : RouteBlk → RouteBlk} (k : Nat.land B 0x1000 = 0x1000 := by with_unfolding_all exact rfl) : P (m.onRt f) := h.rt k m f hm
theorem Stable.onTi {f : TimeBlk → TimeBlk} (k : Nat.land B 0x2000 = 0x2000 := by with_unfolding_all exact rfl) : P (m.onTi f) := h.ti k m f hm
theorem Stable.onDi {f : DictBlk → DictBlk} (k : Nat.land B 0x4000 = 0x4000 := by with_unfolding_all exact rfl) : P (m.onDi f) := h.di k m f hm
theorem Stable.onTp {f : TapBlk → TapBlk} (k : Nat.land B 0x8000 = 0x8000 := by with_unfolding_all exact rfl) : P (m.onTp f) := h.tp k m f hm
theorem Stable.onCa {f : CacheBlk → CacheBlk} (k : Nat.land B 0x10000 = 0x10000 := by with_unfolding_all exact rfl) : P (m.onCa f) := h.ca k m f hm
theorem Stable.onHo {f : HomeBlk → HomeBlk} (k : Nat.land B 0x20000 = 0x20000 := by with_unfolding_all exact rfl) : P (m.onHo f) := h.ho k m f hm
theorem Stable.onPo {f : PoolBlk → PoolBlk} (k : Nat.land B 0x40000 = 0x40000 := by with_unfolding_all exact rfl) : P (m.onPo f) := h.po k m f hm
theorem Stable.onSc {f : SchedBlk → SchedBlk} (k : Nat.land B 0x80000 = 0x80000 := by with_unfolding_all exact rfl) : P (m.onSc f) := h.sc k m f hm
theorem Stable.onBr {f : BridgeBlk → BridgeBlk} (k : Nat.land B 0x100000 = 0x100000 := by with_unfolding_all exact rfl) : P (m.onBr f) := h.br k m f hm
theorem Stable.onSv {f : ServiceBlk → ServiceBlk} (e : ∀ b, MemKept b (f b)) (k : Nat.land B 0x200000 = 0x200000 := by with_unfolding_all exact rfl) : P (m.onSv f) := h.sv k m f e hm
theorem Stable.onSe {f : SecBlk → SecBlk} (e : ∀ b, FusesGrow b (f b)) (k : Nat.land B 0x400000 = 0x400000 := by with_unfolding_all exact rfl) : P (m.onSe f) := h.se k m f e hm
theorem Stable.onEdN {f : EdgeBlk → EdgeBlk} (e : ∀ b, f b = { b with vcs := (f b).vcs, filter := (f b).filter, snoops := (f b).snoops }) (k : Nat.land B 0x800000 = 0x800000 := by with_unfolding_all exact rfl) : P (m.onEd f) :=
  h.edN k m f e hm
theorem Stable.onSwN {f : SwitchBlk → SwitchBlk} (e : ∀ b, f b = { b with nextId := (f b).nextId, waiting := (f b).waiting, inbox := (f b).inbox, bankUse := (f b).bankUse, trk := (f b).trk, trkHigh := (f b).trkHigh, trkOrder := (f b).trkOrder }) (k : Nat.land B 0x1000000 = 0x1000000 := by with_unfolding_all exact rfl) : P (m.onSw f) :=
  h.swN k m f e hm
theorem Stable.onRtN {f : RouteBlk → RouteBlk} (e : ∀ b, f b = { b with rr := (f b).rr, kept := (f b).kept, flows := (f b).flows, lostFwd := (f b).lostFwd }) (k : Nat.land B 0x2000000 = 0x2000000 := by with_unfolding_all exact rfl) : P (m.onRt f) :=
  h.rtN k m f e hm
theorem Stable.onHoN {f : HomeBlk → HomeBlk} (e : ∀ b, f b = { b with dir := (f b).dir, txns := (f b).txns, queue := (f b).queue, spent := (f b).spent, refillAt := (f b).refillAt, tokenWait := (f b).tokenWait }) (k : Nat.land B 0x4000000 = 0x4000000 := by with_unfolding_all exact rfl) : P (m.onHo f) :=
  h.hoN k m f e hm
theorem Stable.onCaN {f : CacheBlk → CacheBlk} (e : ∀ b, f b = { b with lines := (f b).lines, reports := (f b).reports, results := (f b).results }) (k : Nat.land B 0x8000000 = 0x8000000 := by with_unfolding_all exact rfl) : P (m.onCa f) :=
  h.caN k m f e hm
theorem Stable.onPoN {f : PoolBlk → PoolBlk} (e : ∀ b, f b = { b with ext := (f b).ext, hits := (f b).hits, migs := (f b).migs }) (k : Nat.land B 0x10000000 = 0x10000000 := by with_unfolding_all exact rfl) : P (m.onPo f) :=
  h.poN k m f e hm
theorem Stable.onDiN {f : DictBlk → DictBlk} (e : ∀ b, f b = { b with obj := (f b).obj, flash := (f b).flash, nextTag := (f b).nextTag, proxied := (f b).proxied }) (k : Nat.land B 0x20000000 = 0x20000000 := by with_unfolding_all exact rfl) : P (m.onDi f) :=
  h.diN k m f e hm
theorem Stable.onSvN {f : ServiceBlk → ServiceBlk} (e : ∀ b, f b = { b with fns := (f b).fns }) (k : Nat.land B 0x40000000 = 0x40000000 := by with_unfolding_all exact rfl) : P (m.onSv f) :=
  h.svN k m f e hm
theorem Stable.onPhN {f : PhyBlk → PhyBlk} (e : ∀ b, f b = { b with lanes := (f b).lanes, search := (f b).search }) (k : Nat.land B 0x400000000 = 0x400000000 := by with_unfolding_all exact rfl) : P (m.onPh f) :=
  h.phN k m f e hm
theorem Stable.onSvM {f : ServiceBlk → ServiceBlk} (e : ∀ b, (f b).service = b.service ∧ (f b).sram = b.sram) (k : Nat.land B 0x80000000 = 0x80000000 := by with_unfolding_all exact rfl) : P (m.onSv f) :=
  h.svM k m f e hm
theorem Stable.onSeN {f : SecBlk → SecBlk} (e : ∀ b, FusesSame b (f b)) (k : Nat.land B 0x100000000 = 0x100000000 := by with_unfolding_all exact rfl) : P (m.onSe f) := h.seN k m f e hm

end

section
variable {B : Nat} {P : Mod → Prop}

theorem Stable.when (_ : Stable B P) {c : Bool} {f : Mod → Mod} {m : Mod} (hm : P m) (hf : P (f m)) : P (m.when c f) := by
  cases c
  · exact hm
  · exact hf

theorem Stable.each (_ : Stable B P) {α : Type} {l : List α} {f : α → Mod → Mod} {m : Mod} (hm : P m) (hf : ∀ x b, P b → P (f x b)) : P (m.each l f) := by
  induction l generalizing m with
  | nil => exact hm
  | cons x l ih => exact ih (hf x m hm)

theorem Stable.foldl (_ : Stable B P) {α : Type} {l : List α} {f : Mod → α → Mod} {m : Mod} (hm : P m) (hf : ∀ b x, P b → P (f b x)) : P (l.foldl f m) := by
  induction l generalizing m with
  | nil => exact hm
  | cons x l ih => exact ih (hf m x hm)

theorem Stable.ite (_ : Stable B P) {c : Prop} [Decidable c] {x y : Mod} (hx : P x) (hy : P y) : P (if c then x else y) := by
  split
  · exact hx
  · exact hy

end

/-- A command is answered by a next state that keeps the queue and whose module has P. -/
def Keeps (P : Mod → Prop) (s : State) (o : Host.Outcome State Fault Refusal) : Prop := ∃ m, o = .next { s with mod := m } ∧ P m

theorem lift_keeps {P : Mod → Prop} {f : Mod → Mod} (h : ∀ m, P m → P (f m)) (s : State) (hm : P s.mod) : Keeps P s (lift f s) := ⟨f s.mod, rfl, h s.mod hm⟩

theorem liftFw_keeps {P : Mod → Prop} {f : Mod → Mod} (h : ∀ m, P m → P (f m)) (s : State) (hm : P s.mod) : Keeps P s (liftFw f s) :=
  lift_keeps (fun m hm => by
    split
    · exact hm
    · exact h m hm) s hm

/-! Results that hold a module beside other things. -/

/-- Whatever module the option holds has P. -/
def OptP (P : Mod → Prop) (o : Option Mod) : Prop := ∀ r, o = some r → P r
/-- The module of a pair has P. -/
def PairP {α : Type} (P : Mod → Prop) (p : Mod × α) : Prop := P p.1
/-- Whatever pair the option holds, its module has P. -/
def OptPairP {α : Type} (P : Mod → Prop) (o : Option (Mod × α)) : Prop := ∀ r, o = some r → P r.1

theorem OptP.none {P : Mod → Prop} : OptP P none := fun _ h => nomatch h
theorem OptP.some {P : Mod → Prop} {m : Mod} (h : P m) : OptP P (some m) := fun _ e => Option.some.inj e ▸ h
theorem OptP.ite {P : Mod → Prop} {x y : Option Mod} {c : Prop} [Decidable c] (hx : OptP P x) (hy : OptP P y) : OptP P (if c then x else y) := by
  split
  · exact hx
  · exact hy
theorem OptP.get {P : Mod → Prop} {m : Mod} {o : Option Mod} (h : OptP P o) (e : o = Option.some m) : P m := h m e
theorem OptP.getD {P : Mod → Prop} {m : Mod} {o : Option Mod} (h : OptP P o) (k : P m) : P (o.getD m) := by
  cases o with
  | none => exact k
  | some r => exact h r rfl
theorem OptP.map {α : Type} {P : Mod → Prop} {o : Option α} {f : α → Mod} (h : ∀ x, o = Option.some x → P (f x)) : OptP P (o.map f) := by
  cases o with
  | none => exact OptP.none
  | some r => exact OptP.some (h r rfl)
theorem OptP.bind {α : Type} {P : Mod → Prop} {o : Option α} {f : α → Option Mod} (h : ∀ x, o = Option.some x → OptP P (f x)) : OptP P (o.bind f) := by
  cases o with
  | none => exact OptP.none
  | some r => exact h r rfl

theorem PairP.mk {α : Type} {P : Mod → Prop} {m : Mod} {x : α} (h : P m) : PairP P (m, x) := h
theorem PairP.fst {α : Type} {P : Mod → Prop} {p : Mod × α} (h : PairP P p) : P p.1 := h
theorem PairP.get {α : Type} {P : Mod → Prop} {m : Mod} {x : α} {p : Mod × α} (h : PairP P p) (e : p = (m, x)) : P m := by
  subst e; exact h
theorem PairP.ite {α : Type} {P : Mod → Prop} {x y : Mod × α} {c : Prop} [Decidable c] (hx : PairP P x) (hy : PairP P y) : PairP P (if c then x else y) := by
  split
  · exact hx
  · exact hy

theorem PairP.foldl {α β : Type} {P : Mod → Prop} {l : List α} {f : Mod × β → α → Mod × β} {p : Mod × β} (h : PairP P p)
    (hf : ∀ q x, PairP P q → PairP P (f q x)) : PairP P (l.foldl f p) := by
  induction l generalizing p with
  | nil => exact h
  | cons x l ih => exact ih (hf p x h)

theorem OptPairP.none {α : Type} {P : Mod → Prop} : OptPairP P (none : Option (Mod × α)) := fun _ h => nomatch h
theorem OptPairP.some {α : Type} {P : Mod → Prop} {p : Mod × α} (h : PairP P p) : OptPairP P (some p) := fun _ e => Option.some.inj e ▸ h
theorem OptPairP.ite {α : Type} {P : Mod → Prop} {x y : Option (Mod × α)} {c : Prop} [Decidable c] (hx : OptPairP P x) (hy : OptPairP P y) :
    OptPairP P (if c then x else y) := by
  split
  · exact hx
  · exact hy
theorem OptPairP.get {α : Type} {P : Mod → Prop} {m : Mod} {x : α} {o : Option (Mod × α)} (h : OptPairP P o) (e : o = Option.some (m, x)) : P m := h _ e
theorem OptPairP.fst {α : Type} {P : Mod → Prop} {p : Mod × α} {o : Option (Mod × α)} (h : OptPairP P o) (e : o = Option.some p) : P p.1 := h _ e
theorem OptPairP.map {α β : Type} {P : Mod → Prop} {o : Option α} {f : α → Mod × β} (h : ∀ x, o = Option.some x → PairP P (f x)) : OptPairP P (o.map f) := by
  cases o with
  | none => exact OptPairP.none
  | some r => exact OptPairP.some (h r rfl)

/-- Whatever the optional operation gives keeps P. -/
def FnP (P : Mod → Prop) (o : Option (Mod → Mod)) : Prop := ∀ f, o = some f → ∀ x, P x → P (f x)
theorem FnP.none {P : Mod → Prop} : FnP P none := fun _ h => nomatch h
theorem FnP.some {P : Mod → Prop} {f : Mod → Mod} (h : ∀ x, P x → P (f x)) : FnP P (some f) := fun _ e => Option.some.inj e ▸ h
theorem FnP.ite {P : Mod → Prop} {x y : Option (Mod → Mod)} {c : Prop} [Decidable c] (hx : FnP P x) (hy : FnP P y) : FnP P (if c then x else y) := by
  split
  · exact hx
  · exact hy
theorem FnP.getD {P : Mod → Prop} {o : Option (Mod → Mod)} (h : FnP P o) {x : Mod} (k : P x) : P (o.getD id x) := by
  cases o with
  | none => exact k
  | some f => exact h f rfl x k

end Sys2Proof.Machine
end

