-- ==== Sys2Proof/Laws/Frames.lean ====
section
/-! SUPPORT. The properties the Keeps lemmas are used with: nothing is undone (`Evolves`), and one part of the module stands unchanged, for every part. -/
namespace Sys2Proof.Machine
set_option Elab.async false

/-- Nothing is undone by any operation. -/
theorem Evolves.stable (a : Mod) : Stable 0x7ffffffff (Evolves a) where
  now _ _ dt h := h.trans ⟨Nat.le_add_right _ dt, Nat.le_refl _, List.prefix_refl _, FusesGrow.refl _, MemKept.refl _⟩
  draw _ _ h := h.trans ⟨Nat.le_refl _, Nat.le_succ _, List.prefix_refl _, FusesGrow.refl _, MemKept.refl _⟩
  sent _ _ _ h := h.trans ⟨Nat.le_refl _, Nat.le_refl _, List.prefix_append _ _, FusesGrow.refl _, MemKept.refl _⟩
  ev _ _ _ h := h.same rfl rfl rfl rfl rfl
  cn _ _ _ h := h.same rfl rfl rfl rfl rfl
  pw _ _ _ h := h.same rfl rfl rfl rfl rfl
  md _ _ _ h := h.same rfl rfl rfl rfl rfl
  fn _ _ _ h := h.same rfl rfl rfl rfl rfl
  ph _ _ _ h := h.same rfl rfl rfl rfl rfl
  ed _ _ _ h := h.same rfl rfl rfl rfl rfl
  lk _ _ _ h := h.same rfl rfl rfl rfl rfl
  sw _ _ _ h := h.same rfl rfl rfl rfl rfl
  rt _ _ _ h := h.same rfl rfl rfl rfl rfl
  ti _ _ _ h := h.same rfl rfl rfl rfl rfl
  di _ _ _ h := h.same rfl rfl rfl rfl rfl
  tp _ _ _ h := h.same rfl rfl rfl rfl rfl
  ca _ _ _ h := h.same rfl rfl rfl rfl rfl
  ho _ _ _ h := h.same rfl rfl rfl rfl rfl
  po _ _ _ h := h.same rfl rfl rfl rfl rfl
  sc _ _ _ h := h.same rfl rfl rfl rfl rfl
  br _ _ _ h := h.same rfl rfl rfl rfl rfl
  sv _ _ _ e h := h.trans ⟨Nat.le_refl _, Nat.le_refl _, List.prefix_refl _, FusesGrow.refl _, e _⟩
  se _ _ _ e h := h.trans ⟨Nat.le_refl _, Nat.le_refl _, List.prefix_refl _, e _, MemKept.refl _⟩
  edN _ _ _ _ h := h.same rfl rfl rfl rfl rfl
  swN _ _ _ _ h := h.same rfl rfl rfl rfl rfl
  rtN _ _ _ _ h := h.same rfl rfl rfl rfl rfl
  hoN _ _ _ _ h := h.same rfl rfl rfl rfl rfl
  caN _ _ _ _ h := h.same rfl rfl rfl rfl rfl
  poN _ _ _ _ h := h.same rfl rfl rfl rfl rfl
  diN _ _ _ _ h := h.same rfl rfl rfl rfl rfl
  svN _ m f e h := h.trans ⟨Nat.le_refl _, Nat.le_refl _, List.prefix_refl _, FusesGrow.refl _,
    MemKept.same (a := m.sv) (b := f m.sv) (by rw [e m.sv]) (by rw [e m.sv])⟩
  phN _ _ _ _ h := h.same rfl rfl rfl rfl rfl
  svM _ _ _ e h := h.trans ⟨Nat.le_refl _, Nat.le_refl _, List.prefix_refl _, FusesGrow.refl _, MemKept.same (e _).1 (e _).2⟩
  seN _ _ _ e h := h.trans ⟨Nat.le_refl _, Nat.le_refl _, List.prefix_refl _, (e _).grow, MemKept.refl _⟩
  any _ _ _ e h := h.trans e

theorem Stable.now_is {v : Nat} : Stable 0x5fffffffe (fun m => m.now = v) where
  now k := absurd k (by decide)
  draw _ _ := id
  sent _ _ _ := id
  ev _ _ _ := id
  cn _ _ _ := id
  pw _ _ _ := id
  md _ _ _ := id
  fn _ _ _ := id
  ph _ _ _ := id
  ed _ _ _ := id
  lk _ _ _ := id
  sw _ _ _ := id
  rt _ _ _ := id
  ti _ _ _ := id
  di _ _ _ := id
  tp _ _ _ := id
  ca _ _ _ := id
  ho _ _ _ := id
  po _ _ _ := id
  sc _ _ _ := id
  br _ _ _ := id
  sv _ _ _ _ := id
  se _ _ _ _ := id
  edN _ _ _ _ := id
  swN _ _ _ _ := id
  rtN _ _ _ _ := id
  hoN _ _ _ _ := id
  caN _ _ _ _ := id
  poN _ _ _ _ := id
  diN _ _ _ _ := id
  svN _ _ _ _ := id
  phN _ _ _ _ := id
  svM _ _ _ _ := id
  seN _ _ _ _ := id
  any k := absurd k (by decide)

theorem Stable.draws_is {v : Nat} : Stable 0x5fffffffd (fun m => m.draws = v) where
  now _ _ _ := id
  draw k := absurd k (by decide)
  sent _ _ _ := id
  ev _ _ _ := id
  cn _ _ _ := id
  pw _ _ _ := id
  md _ _ _ := id
  fn _ _ _ := id
  ph _ _ _ := id
  ed _ _ _ := id
  lk _ _ _ := id
  sw _ _ _ := id
  rt _ _ _ := id
  ti _ _ _ := id
  di _ _ _ := id
  tp _ _ _ := id
  ca _ _ _ := id
  ho _ _ _ := id
  po _ _ _ := id
  sc _ _ _ := id
  br _ _ _ := id
  sv _ _ _ _ := id
  se _ _ _ _ := id
  edN _ _ _ _ := id
  swN _ _ _ _ := id
  rtN _ _ _ _ := id
  hoN _ _ _ _ := id
  caN _ _ _ _ := id
  poN _ _ _ _ := id
  diN _ _ _ _ := id
  svN _ _ _ _ := id
  phN _ _ _ _ := id
  svM _ _ _ _ := id
  seN _ _ _ _ := id
  any k := absurd k (by decide)

theorem Stable.out_is {v : List Out} : Stable 0x5fffffffb (fun m => m.out = v) where
  now _ _ _ := id
  draw _ _ := id
  sent k := absurd k (by decide)
  ev _ _ _ := id
  cn _ _ _ := id
  pw _ _ _ := id
  md _ _ _ := id
  fn _ _ _ := id
  ph _ _ _ := id
  ed _ _ _ := id
  lk _ _ _ := id
  sw _ _ _ := id
  rt _ _ _ := id
  ti _ _ _ := id
  di _ _ _ := id
  tp _ _ _ := id
  ca _ _ _ := id
  ho _ _ _ := id
  po _ _ _ := id
  sc _ _ _ := id
  br _ _ _ := id
  sv _ _ _ _ := id
  se _ _ _ _ := id
  edN _ _ _ _ := id
  swN _ _ _ _ := id
  rtN _ _ _ _ := id
  hoN _ _ _ _ := id
  caN _ _ _ _ := id
  poN _ _ _ _ := id
  diN _ _ _ _ := id
  svN _ _ _ _ := id
  phN _ _ _ _ := id
  svM _ _ _ _ := id
  seN _ _ _ _ := id
  any k := absurd k (by decide)

theorem Stable.ev_is {v : EventBlk} : Stable 0x5fffffff7 (fun m => m.ev = v) where
  now _ _ _ := id
  draw _ _ := id
  sent _ _ _ := id
  ev k := absurd k (by decide)
  cn _ _ _ := id
  pw _ _ _ := id
  md _ _ _ := id
  fn _ _ _ := id
  ph _ _ _ := id
  ed _ _ _ := id
  lk _ _ _ := id
  sw _ _ _ := id
  rt _ _ _ := id
  ti _ _ _ := id
  di _ _ _ := id
  tp _ _ _ := id
  ca _ _ _ := id
  ho _ _ _ := id
  po _ _ _ := id
  sc _ _ _ := id
  br _ _ _ := id
  sv _ _ _ _ := id
  se _ _ _ _ := id
  edN _ _ _ _ := id
  swN _ _ _ _ := id
  rtN _ _ _ _ := id
  hoN _ _ _ _ := id
  caN _ _ _ _ := id
  poN _ _ _ _ := id
  diN _ _ _ _ := id
  svN _ _ _ _ := id
  phN _ _ _ _ := id
  svM _ _ _ _ := id
  seN _ _ _ _ := id
  any k := absurd k (by decide)

theorem Stable.cn_is {v : CountBlk} : Stable 0x5ffffffef (fun m => m.cn = v) where
  now _ _ _ := id
  draw _ _ := id
  sent _ _ _ := id
  ev _ _ _ := id
  cn k := absurd k (by decide)
  pw _ _ _ := id
  md _ _ _ := id
  fn _ _ _ := id
  ph _ _ _ := id
  ed _ _ _ := id
  lk _ _ _ := id
  sw _ _ _ := id
  rt _ _ _ := id
  ti _ _ _ := id
  di _ _ _ := id
  tp _ _ _ := id
  ca _ _ _ := id
  ho _ _ _ := id
  po _ _ _ := id
  sc _ _ _ := id
  br _ _ _ := id
  sv _ _ _ _ := id
  se _ _ _ _ := id
  edN _ _ _ _ := id
  swN _ _ _ _ := id
  rtN _ _ _ _ := id
  hoN _ _ _ _ := id
  caN _ _ _ _ := id
  poN _ _ _ _ := id
  diN _ _ _ _ := id
  svN _ _ _ _ := id
  phN _ _ _ _ := id
  svM _ _ _ _ := id
  seN _ _ _ _ := id
  any k := absurd k (by decide)

theorem Stable.pw_is {v : PowerBlk} : Stable 0x5ffffffdf (fun m => m.pw = v) where
  now _ _ _ := id
  draw _ _ := id
  sent _ _ _ := id
  ev _ _ _ := id
  cn _ _ _ := id
  pw k := absurd k (by decide)
  md _ _ _ := id
  fn _ _ _ := id
  ph _ _ _ := id
  ed _ _ _ := id
  lk _ _ _ := id
  sw _ _ _ := id
  rt _ _ _ := id
  ti _ _ _ := id
  di _ _ _ := id
  tp _ _ _ := id
  ca _ _ _ := id
  ho _ _ _ := id
  po _ _ _ := id
  sc _ _ _ := id
  br _ _ _ := id
  sv _ _ _ _ := id
  se _ _ _ _ := id
  edN _ _ _ _ := id
  swN _ _ _ _ := id
  rtN _ _ _ _ := id
  hoN _ _ _ _ := id
  caN _ _ _ _ := id
  poN _ _ _ _ := id
  diN _ _ _ _ := id
  svN _ _ _ _ := id
  phN _ _ _ _ := id
  svM _ _ _ _ := id
  seN _ _ _ _ := id
  any k := absurd k (by decide)

theorem Stable.md_is {v : ModeBlk} : Stable 0x5ffffffbf (fun m => m.md = v) where
  now _ _ _ := id
  draw _ _ := id
  sent _ _ _ := id
  ev _ _ _ := id
  cn _ _ _ := id
  pw _ _ _ := id
  md k := absurd k (by decide)
  fn _ _ _ := id
  ph _ _ _ := id
  ed _ _ _ := id
  lk _ _ _ := id
  sw _ _ _ := id
  rt _ _ _ := id
  ti _ _ _ := id
  di _ _ _ := id
  tp _ _ _ := id
  ca _ _ _ := id
  ho _ _ _ := id
  po _ _ _ := id
  sc _ _ _ := id
  br _ _ _ := id
  sv _ _ _ _ := id
  se _ _ _ _ := id
  edN _ _ _ _ := id
  swN _ _ _ _ := id
  rtN _ _ _ _ := id
  hoN _ _ _ _ := id
  caN _ _ _ _ := id
  poN _ _ _ _ := id
  diN _ _ _ _ := id
  svN _ _ _ _ := id
  phN _ _ _ _ := id
  svM _ _ _ _ := id
  seN _ _ _ _ := id
  any k := absurd k (by decide)

theorem Stable.fn_is {v : FenceBlk} : Stable 0x5ffffff7f (fun m => m.fn = v) where
  now _ _ _ := id
  draw _ _ := id
  sent _ _ _ := id
  ev _ _ _ := id
  cn _ _ _ := id
  pw _ _ _ := id
  md _ _ _ := id
  fn k := absurd k (by decide)
  ph _ _ _ := id
  ed _ _ _ := id
  lk _ _ _ := id
  sw _ _ _ := id
  rt _ _ _ := id
  ti _ _ _ := id
  di _ _ _ := id
  tp _ _ _ := id
  ca _ _ _ := id
  ho _ _ _ := id
  po _ _ _ := id
  sc _ _ _ := id
  br _ _ _ := id
  sv _ _ _ _ := id
  se _ _ _ _ := id
  edN _ _ _ _ := id
  swN _ _ _ _ := id
  rtN _ _ _ _ := id
  hoN _ _ _ _ := id
  caN _ _ _ _ := id
  poN _ _ _ _ := id
  diN _ _ _ _ := id
  svN _ _ _ _ := id
  phN _ _ _ _ := id
  svM _ _ _ _ := id
  seN _ _ _ _ := id
  any k := absurd k (by decide)

theorem Stable.ph_is {v : PhyBlk} : Stable 0x1fffffeff (fun m => m.ph = v) where
  now _ _ _ := id
  draw _ _ := id
  sent _ _ _ := id
  ev _ _ _ := id
  cn _ _ _ := id
  pw _ _ _ := id
  md _ _ _ := id
  fn _ _ _ := id
  ph k := absurd k (by decide)
  ed _ _ _ := id
  lk _ _ _ := id
  sw _ _ _ := id
  rt _ _ _ := id
  ti _ _ _ := id
  di _ _ _ := id
  tp _ _ _ := id
  ca _ _ _ := id
  ho _ _ _ := id
  po _ _ _ := id
  sc _ _ _ := id
  br _ _ _ := id
  sv _ _ _ _ := id
  se _ _ _ _ := id
  edN _ _ _ _ := id
  swN _ _ _ _ := id
  rtN _ _ _ _ := id
  hoN _ _ _ _ := id
  caN _ _ _ _ := id
  poN _ _ _ _ := id
  diN _ _ _ _ := id
  svN _ _ _ _ := id
  phN k := absurd k (by decide)
  svM _ _ _ _ := id
  seN _ _ _ _ := id
  any k := absurd k (by decide)

theorem Stable.ed_is {v : EdgeBlk} : Stable 0x5ff7ffdff (fun m => m.ed = v) where
  now _ _ _ := id
  draw _ _ := id
  sent _ _ _ := id
  ev _ _ _ := id
  cn _ _ _ := id
  pw _ _ _ := id
  md _ _ _ := id
  fn _ _ _ := id
  ph _ _ _ := id
  ed k := absurd k (by decide)
  lk _ _ _ := id
  sw _ _ _ := id
  rt _ _ _ := id
  ti _ _ _ := id
  di _ _ _ := id
  tp _ _ _ := id
  ca _ _ _ := id
  ho _ _ _ := id
  po _ _ _ := id
  sc _ _ _ := id
  br _ _ _ := id
  sv _ _ _ _ := id
  se _ _ _ _ := id
  edN k := absurd k (by decide)
  swN _ _ _ _ := id
  rtN _ _ _ _ := id
  hoN _ _ _ _ := id
  caN _ _ _ _ := id
  poN _ _ _ _ := id
  diN _ _ _ _ := id
  svN _ _ _ _ := id
  phN _ _ _ _ := id
  svM _ _ _ _ := id
  seN _ _ _ _ := id
  any k := absurd k (by decide)

theorem Stable.lk_is {v : LinkBlk} : Stable 0x5fffffbff (fun m => m.lk = v) where
  now _ _ _ := id
  draw _ _ := id
  sent _ _ _ := id
  ev _ _ _ := id
  cn _ _ _ := id
  pw _ _ _ := id
  md _ _ _ := id
  fn _ _ _ := id
  ph _ _ _ := id
  ed _ _ _ := id
  lk k := absurd k (by decide)
  sw _ _ _ := id
  rt _ _ _ := id
  ti _ _ _ := id
  di _ _ _ := id
  tp _ _ _ := id
  ca _ _ _ := id
  ho _ _ _ := id
  po _ _ _ := id
  sc _ _ _ := id
  br _ _ _ := id
  sv _ _ _ _ := id
  se _ _ _ _ := id
  edN _ _ _ _ := id
  swN _ _ _ _ := id
  rtN _ _ _ _ := id
  hoN _ _ _ _ := id
  caN _ _ _ _ := id
  poN _ _ _ _ := id
  diN _ _ _ _ := id
  svN _ _ _ _ := id
  phN _ _ _ _ := id
  svM _ _ _ _ := id
  seN _ _ _ _ := id
  any k := absurd k (by decide)

theorem Stable.sw_is {v : SwitchBlk} : Stable 0x5fefff7fe (fun m => m.sw = v) where
  now k := absurd k (by decide)
  draw _ _ := id
  sent _ _ _ := id
  ev _ _ _ := id
  cn _ _ _ := id
  pw _ _ _ := id
  md _ _ _ := id
  fn _ _ _ := id
  ph _ _ _ := id
  ed _ _ _ := id
  lk _ _ _ := id
  sw k := absurd k (by decide)
  rt _ _ _ := id
  ti _ _ _ := id
  di _ _ _ := id
  tp _ _ _ := id
  ca _ _ _ := id
  ho _ _ _ := id
  po _ _ _ := id
  sc _ _ _ := id
  br _ _ _ := id
  sv _ _ _ _ := id
  se _ _ _ _ := id
  edN _ _ _ _ := id
  swN k := absurd k (by decide)
  rtN _ _ _ _ := id
  hoN _ _ _ _ := id
  caN _ _ _ _ := id
  poN _ _ _ _ := id
  diN _ _ _ _ := id
  svN _ _ _ _ := id
  phN _ _ _ _ := id
  svM _ _ _ _ := id
  seN _ _ _ _ := id
  any k := absurd k (by decide)

theorem Stable.rt_is {v : RouteBlk} : Stable 0x5fdffefff (fun m => m.rt = v) where
  now _ _ _ := id
  draw _ _ := id
  sent _ _ _ := id
  ev _ _ _ := id
  cn _ _ _ := id
  pw _ _ _ := id
  md _ _ _ := id
  fn _ _ _ := id
  ph _ _ _ := id
  ed _ _ _ := id
  lk _ _ _ := id
  sw _ _ _ := id
  rt k := absurd k (by decide)
  ti _ _ _ := id
  di _ _ _ := id
  tp _ _ _ := id
  ca _ _ _ := id
  ho _ _ _ := id
  po _ _ _ := id
  sc _ _ _ := id
  br _ _ _ := id
  sv _ _ _ _ := id
  se _ _ _ _ := id
  edN _ _ _ _ := id
  swN _ _ _ _ := id
  rtN k := absurd k (by decide)
  hoN _ _ _ _ := id
  caN _ _ _ _ := id
  poN _ _ _ _ := id
  diN _ _ _ _ := id
  svN _ _ _ _ := id
  phN _ _ _ _ := id
  svM _ _ _ _ := id
  seN _ _ _ _ := id
  any k := absurd k (by decide)

theorem Stable.ti_is {v : TimeBlk} : Stable 0x5ffffdffe (fun m => m.ti = v) where
  now k := absurd k (by decide)
  draw _ _ := id
  sent _ _ _ := id
  ev _ _ _ := id
  cn _ _ _ := id
  pw _ _ _ := id
  md _ _ _ := id
  fn _ _ _ := id
  ph _ _ _ := id
  ed _ _ _ := id
  lk _ _ _ := id
  sw _ _ _ := id
  rt _ _ _ := id
  ti k := absurd k (by decide)
  di _ _ _ := id
  tp _ _ _ := id
  ca _ _ _ := id
  ho _ _ _ := id
  po _ _ _ := id
  sc _ _ _ := id
  br _ _ _ := id
  sv _ _ _ _ := id
  se _ _ _ _ := id
  edN _ _ _ _ := id
  swN _ _ _ _ := id
  rtN _ _ _ _ := id
  hoN _ _ _ _ := id
  caN _ _ _ _ := id
  poN _ _ _ _ := id
  diN _ _ _ _ := id
  svN _ _ _ _ := id
  phN _ _ _ _ := id
  svM _ _ _ _ := id
  seN _ _ _ _ := id
  any k := absurd k (by decide)

theorem Stable.di_is {v : DictBlk} : Stable 0x5dfffbfff (fun m => m.di = v) where
  now _ _ _ := id
  draw _ _ := id
  sent _ _ _ := id
  ev _ _ _ := id
  cn _ _ _ := id
  pw _ _ _ := id
  md _ _ _ := id
  fn _ _ _ := id
  ph _ _ _ := id
  ed _ _ _ := id
  lk _ _ _ := id
  sw _ _ _ := id
  rt _ _ _ := id
  ti _ _ _ := id
  di k := absurd k (by decide)
  tp _ _ _ := id
  ca _ _ _ := id
  ho _ _ _ := id
  po _ _ _ := id
  sc _ _ _ := id
  br _ _ _ := id
  sv _ _ _ _ := id
  se _ _ _ _ := id
  edN _ _ _ _ := id
  swN _ _ _ _ := id
  rtN _ _ _ _ := id
  hoN _ _ _ _ := id
  caN _ _ _ _ := id
  poN _ _ _ _ := id
  diN k := absurd k (by decide)
  svN _ _ _ _ := id
  phN _ _ _ _ := id
  svM _ _ _ _ := id
  seN _ _ _ _ := id
  any k := absurd k (by decide)

theorem Stable.tp_is {v : TapBlk} : Stable 0x5ffff7fff (fun m => m.tp = v) where
  now _ _ _ := id
  draw _ _ := id
  sent _ _ _ := id
  ev _ _ _ := id
  cn _ _ _ := id
  pw _ _ _ := id
  md _ _ _ := id
  fn _ _ _ := id
  ph _ _ _ := id
  ed _ _ _ := id
  lk _ _ _ := id
  sw _ _ _ := id
  rt _ _ _ := id
  ti _ _ _ := id
  di _ _ _ := id
  tp k := absurd k (by decide)
  ca _ _ _ := id
  ho _ _ _ := id
  po _ _ _ := id
  sc _ _ _ := id
  br _ _ _ := id
  sv _ _ _ _ := id
  se _ _ _ _ := id
  edN _ _ _ _ := id
  swN _ _ _ _ := id
  rtN _ _ _ _ := id
  hoN _ _ _ _ := id
  caN _ _ _ _ := id
  poN _ _ _ _ := id
  diN _ _ _ _ := id
  svN _ _ _ _ := id
  phN _ _ _ _ := id
  svM _ _ _ _ := id
  seN _ _ _ _ := id
  any k := absurd k (by decide)

theorem Stable.ca_is {v : CacheBlk} : Stable 0x5f7feffff (fun m => m.ca = v) where
  now _ _ _ := id
  draw _ _ := id
  sent _ _ _ := id
  ev _ _ _ := id
  cn _ _ _ := id
  pw _ _ _ := id
  md _ _ _ := id
  fn _ _ _ := id
  ph _ _ _ := id
  ed _ _ _ := id
  lk _ _ _ := id
  sw _ _ _ := id
  rt _ _ _ := id
  ti _ _ _ := id
  di _ _ _ := id
  tp _ _ _ := id
  ca k := absurd k (by decide)
  ho _ _ _ := id
  po _ _ _ := id
  sc _ _ _ := id
  br _ _ _ := id
  sv _ _ _ _ := id
  se _ _ _ _ := id
  edN _ _ _ _ := id
  swN _ _ _ _ := id
  rtN _ _ _ _ := id
  hoN _ _ _ _ := id
  caN k := absurd k (by decide)
  poN _ _ _ _ := id
  diN _ _ _ _ := id
  svN _ _ _ _ := id
  phN _ _ _ _ := id
  svM _ _ _ _ := id
  seN _ _ _ _ := id
  any k := absurd k (by decide)

theorem Stable.ho_is {v : HomeBlk} : Stable 0x5fbfdffff (fun m => m.ho = v) where
  now _ _ _ := id
  draw _ _ := id
  sent _ _ _ := id
  ev _ _ _ := id
  cn _ _ _ := id
  pw _ _ _ := id
  md _ _ _ := id
  fn _ _ _ := id
  ph _ _ _ := id
  ed _ _ _ := id
  lk _ _ _ := id
  sw _ _ _ := id
  rt _ _ _ := id
  ti _ _ _ := id
  di _ _ _ := id
  tp _ _ _ := id
  ca _ _ _ := id
  ho k := absurd k (by decide)
  po _ _ _ := id
  sc _ _ _ := id
  br _ _ _ := id
  sv _ _ _ _ := id
  se _ _ _ _ := id
  edN _ _ _ _ := id
  swN _ _ _ _ := id
  rtN _ _ _ _ := id
  hoN k := absurd k (by decide)
  caN _ _ _ _ := id
  poN _ _ _ _ := id
  diN _ _ _ _ := id
  svN _ _ _ _ := id
  phN _ _ _ _ := id
  svM _ _ _ _ := id
  seN _ _ _ _ := id
  any k := absurd k (by decide)

theorem Stable.po_is {v : PoolBlk} : Stable 0x5effbffff (fun m => m.po = v) where
  now _ _ _ := id
  draw _ _ := id
  sent _ _ _ := id
  ev _ _ _ := id
  cn _ _ _ := id
  pw _ _ _ := id
  md _ _ _ := id
  fn _ _ _ := id
  ph _ _ _ := id
  ed _ _ _ := id
  lk _ _ _ := id
  sw _ _ _ := id
  rt _ _ _ := id
  ti _ _ _ := id
  di _ _ _ := id
  tp _ _ _ := id
  ca _ _ _ := id
  ho _ _ _ := id
  po k := absurd k (by decide)
  sc _ _ _ := id
  br _ _ _ := id
  sv _ _ _ _ := id
  se _ _ _ _ := id
  edN _ _ _ _ := id
  swN _ _ _ _ := id
  rtN _ _ _ _ := id
  hoN _ _ _ _ := id
  caN _ _ _ _ := id
  poN k := absurd k (by decide)
  diN _ _ _ _ := id
  svN _ _ _ _ := id
  phN _ _ _ _ := id
  svM _ _ _ _ := id
  seN _ _ _ _ := id
  any k := absurd k (by decide)

theorem Stable.sc_is {v : SchedBlk} : Stable 0x5fff7ffff (fun m => m.sc = v) where
  now _ _ _ := id
  draw _ _ := id
  sent _ _ _ := id
  ev _ _ _ := id
  cn _ _ _ := id
  pw _ _ _ := id
  md _ _ _ := id
  fn _ _ _ := id
  ph _ _ _ := id
  ed _ _ _ := id
  lk _ _ _ := id
  sw _ _ _ := id
  rt _ _ _ := id
  ti _ _ _ := id
  di _ _ _ := id
  tp _ _ _ := id
  ca _ _ _ := id
  ho _ _ _ := id
  po _ _ _ := id
  sc k := absurd k (by decide)
  br _ _ _ := id
  sv _ _ _ _ := id
  se _ _ _ _ := id
  edN _ _ _ _ := id
  swN _ _ _ _ := id
  rtN _ _ _ _ := id
  hoN _ _ _ _ := id
  caN _ _ _ _ := id
  poN _ _ _ _ := id
  diN _ _ _ _ := id
  svN _ _ _ _ := id
  phN _ _ _ _ := id
  svM _ _ _ _ := id
  seN _ _ _ _ := id
  any k := absurd k (by decide)

theorem Stable.br_is {v : BridgeBlk} : Stable 0x5ffefffff (fun m => m.br = v) where
  now _ _ _ := id
  draw _ _ := id
  sent _ _ _ := id
  ev _ _ _ := id
  cn _ _ _ := id
  pw _ _ _ := id
  md _ _ _ := id
  fn _ _ _ := id
  ph _ _ _ := id
  ed _ _ _ := id
  lk _ _ _ := id
  sw _ _ _ := id
  rt _ _ _ := id
  ti _ _ _ := id
  di _ _ _ := id
  tp _ _ _ := id
  ca _ _ _ := id
  ho _ _ _ := id
  po _ _ _ := id
  sc _ _ _ := id
  br k := absurd k (by decide)
  sv _ _ _ _ := id
  se _ _ _ _ := id
  edN _ _ _ _ := id
  swN _ _ _ _ := id
  rtN _ _ _ _ := id
  hoN _ _ _ _ := id
  caN _ _ _ _ := id
  poN _ _ _ _ := id
  diN _ _ _ _ := id
  svN _ _ _ _ := id
  phN _ _ _ _ := id
  svM _ _ _ _ := id
  seN _ _ _ _ := id
  any k := absurd k (by decide)

theorem Stable.sv_is {v : ServiceBlk} : Stable 0x53fdfffff (fun m => m.sv = v) where
  now _ _ _ := id
  draw _ _ := id
  sent _ _ _ := id
  ev _ _ _ := id
  cn _ _ _ := id
  pw _ _ _ := id
  md _ _ _ := id
  fn _ _ _ := id
  ph _ _ _ := id
  ed _ _ _ := id
  lk _ _ _ := id
  sw _ _ _ := id
  rt _ _ _ := id
  ti _ _ _ := id
  di _ _ _ := id
  tp _ _ _ := id
  ca _ _ _ := id
  ho _ _ _ := id
  po _ _ _ := id
  sc _ _ _ := id
  br _ _ _ := id
  sv k := absurd k (by decide)
  se _ _ _ _ := id
  edN _ _ _ _ := id
  swN _ _ _ _ := id
  rtN _ _ _ _ := id
  hoN _ _ _ _ := id
  caN _ _ _ _ := id
  poN _ _ _ _ := id
  diN _ _ _ _ := id
  svN k := absurd k (by decide)
  phN _ _ _ _ := id
  svM k := absurd k (by decide)
  seN _ _ _ _ := id
  any k := absurd k (by decide)

theorem Stable.se_is {v : SecBlk} : Stable 0x4ffbfffff (fun m => m.se = v) where
  now _ _ _ := id
  draw _ _ := id
  sent _ _ _ := id
  ev _ _ _ := id
  cn _ _ _ := id
  pw _ _ _ := id
  md _ _ _ := id
  fn _ _ _ := id
  ph _ _ _ := id
  ed _ _ _ := id
  lk _ _ _ := id
  sw _ _ _ := id
  rt _ _ _ := id
  ti _ _ _ := id
  di _ _ _ := id
  tp _ _ _ := id
  ca _ _ _ := id
  ho _ _ _ := id
  po _ _ _ := id
  sc _ _ _ := id
  br _ _ _ := id
  sv _ _ _ _ := id
  se k := absurd k (by decide)
  edN _ _ _ _ := id
  swN _ _ _ _ := id
  rtN _ _ _ _ := id
  hoN _ _ _ _ := id
  caN _ _ _ _ := id
  poN _ _ _ _ := id
  diN _ _ _ _ := id
  svN _ _ _ _ := id
  phN _ _ _ _ := id
  svM _ _ _ _ := id
  seN k := absurd k (by decide)
  any k := absurd k (by decide)

theorem Stable.edPorts_is {v : Tbl EdgeSt} : Stable 0x5fffffdff (fun m => m.ed.ports = v) where
  now _ _ _ := id
  draw _ _ := id
  sent _ _ _ := id
  ev _ _ _ := id
  cn _ _ _ := id
  pw _ _ _ := id
  md _ _ _ := id
  fn _ _ _ := id
  ph _ _ _ := id
  ed k := absurd k (by decide)
  lk _ _ _ := id
  sw _ _ _ := id
  rt _ _ _ := id
  ti _ _ _ := id
  di _ _ _ := id
  tp _ _ _ := id
  ca _ _ _ := id
  ho _ _ _ := id
  po _ _ _ := id
  sc _ _ _ := id
  br _ _ _ := id
  sv _ _ _ _ := id
  se _ _ _ _ := id
  edN _ _ f e h := (congrArg EdgeBlk.ports (e _)).trans h
  swN _ _ _ _ := id
  rtN _ _ _ _ := id
  hoN _ _ _ _ := id
  caN _ _ _ _ := id
  poN _ _ _ _ := id
  diN _ _ _ _ := id
  svN _ _ _ _ := id
  phN _ _ _ _ := id
  svM _ _ _ _ := id
  seN _ _ _ _ := id
  any k := absurd k (by decide)

theorem Stable.edVppb_is {v : Tbl VppbSt} : Stable 0x5fffffdff (fun m => m.ed.vppb = v) where
  now _ _ _ := id
  draw _ _ := id
  sent _ _ _ := id
  ev _ _ _ := id
  cn _ _ _ := id
  pw _ _ _ := id
  md _ _ _ := id
  fn _ _ _ := id
  ph _ _ _ := id
  ed k := absurd k (by decide)
  lk _ _ _ := id
  sw _ _ _ := id
  rt _ _ _ := id
  ti _ _ _ := id
  di _ _ _ := id
  tp _ _ _ := id
  ca _ _ _ := id
  ho _ _ _ := id
  po _ _ _ := id
  sc _ _ _ := id
  br _ _ _ := id
  sv _ _ _ _ := id
  se _ _ _ _ := id
  edN _ _ f e h := (congrArg EdgeBlk.vppb (e _)).trans h
  swN _ _ _ _ := id
  rtN _ _ _ _ := id
  hoN _ _ _ _ := id
  caN _ _ _ _ := id
  poN _ _ _ _ := id
  diN _ _ _ _ := id
  svN _ _ _ _ := id
  phN _ _ _ _ := id
  svM _ _ _ _ := id
  seN _ _ _ _ := id
  any k := absurd k (by decide)

theorem Stable.edIde_is {v : Tbl IdeSt} : Stable 0x5fffffdff (fun m => m.ed.ide = v) where
  now _ _ _ := id
  draw _ _ := id
  sent _ _ _ := id
  ev _ _ _ := id
  cn _ _ _ := id
  pw _ _ _ := id
  md _ _ _ := id
  fn _ _ _ := id
  ph _ _ _ := id
  ed k := absurd k (by decide)
  lk _ _ _ := id
  sw _ _ _ := id
  rt _ _ _ := id
  ti _ _ _ := id
  di _ _ _ := id
  tp _ _ _ := id
  ca _ _ _ := id
  ho _ _ _ := id
  po _ _ _ := id
  sc _ _ _ := id
  br _ _ _ := id
  sv _ _ _ _ := id
  se _ _ _ _ := id
  edN _ _ f e h := (congrArg EdgeBlk.ide (e _)).trans h
  swN _ _ _ _ := id
  rtN _ _ _ _ := id
  hoN _ _ _ _ := id
  caN _ _ _ _ := id
  poN _ _ _ _ := id
  diN _ _ _ _ := id
  svN _ _ _ _ := id
  phN _ _ _ _ := id
  svM _ _ _ _ := id
  seN _ _ _ _ := id
  any k := absurd k (by decide)

theorem Stable.swQueues_is {v : Tbl (List QEnt)} : Stable 0x5fffff7ff (fun m => m.sw.queues = v) where
  now _ _ _ := id
  draw _ _ := id
  sent _ _ _ := id
  ev _ _ _ := id
  cn _ _ _ := id
  pw _ _ _ := id
  md _ _ _ := id
  fn _ _ _ := id
  ph _ _ _ := id
  ed _ _ _ := id
  lk _ _ _ := id
  sw k := absurd k (by decide)
  rt _ _ _ := id
  ti _ _ _ := id
  di _ _ _ := id
  tp _ _ _ := id
  ca _ _ _ := id
  ho _ _ _ := id
  po _ _ _ := id
  sc _ _ _ := id
  br _ _ _ := id
  sv _ _ _ _ := id
  se _ _ _ _ := id
  edN _ _ _ _ := id
  swN _ _ f e h := (congrArg SwitchBlk.queues (e _)).trans h
  rtN _ _ _ _ := id
  hoN _ _ _ _ := id
  caN _ _ _ _ := id
  poN _ _ _ _ := id
  diN _ _ _ _ := id
  svN _ _ _ _ := id
  phN _ _ _ _ := id
  svM _ _ _ _ := id
  seN _ _ _ _ := id
  any k := absurd k (by decide)

theorem Stable.swRemnants_is {v : Tbl (Option Nat)} : Stable 0x5fffff7ff (fun m => m.sw.remnants = v) where
  now _ _ _ := id
  draw _ _ := id
  sent _ _ _ := id
  ev _ _ _ := id
  cn _ _ _ := id
  pw _ _ _ := id
  md _ _ _ := id
  fn _ _ _ := id
  ph _ _ _ := id
  ed _ _ _ := id
  lk _ _ _ := id
  sw k := absurd k (by decide)
  rt _ _ _ := id
  ti _ _ _ := id
  di _ _ _ := id
  tp _ _ _ := id
  ca _ _ _ := id
  ho _ _ _ := id
  po _ _ _ := id
  sc _ _ _ := id
  br _ _ _ := id
  sv _ _ _ _ := id
  se _ _ _ _ := id
  edN _ _ _ _ := id
  swN _ _ f e h := (congrArg SwitchBlk.remnants (e _)).trans h
  rtN _ _ _ _ := id
  hoN _ _ _ _ := id
  caN _ _ _ _ := id
  poN _ _ _ _ := id
  diN _ _ _ _ := id
  svN _ _ _ _ := id
  phN _ _ _ _ := id
  svM _ _ _ _ := id
  seN _ _ _ _ := id
  any k := absurd k (by decide)

theorem Stable.rtLeaving_is {v : Bool} : Stable 0x5ffffefff (fun m => m.rt.leaving = v) where
  now _ _ _ := id
  draw _ _ := id
  sent _ _ _ := id
  ev _ _ _ := id
  cn _ _ _ := id
  pw _ _ _ := id
  md _ _ _ := id
  fn _ _ _ := id
  ph _ _ _ := id
  ed _ _ _ := id
  lk _ _ _ := id
  sw _ _ _ := id
  rt k := absurd k (by decide)
  ti _ _ _ := id
  di _ _ _ := id
  tp _ _ _ := id
  ca _ _ _ := id
  ho _ _ _ := id
  po _ _ _ := id
  sc _ _ _ := id
  br _ _ _ := id
  sv _ _ _ _ := id
  se _ _ _ _ := id
  edN _ _ _ _ := id
  swN _ _ _ _ := id
  rtN _ _ f e h := (congrArg RouteBlk.leaving (e _)).trans h
  hoN _ _ _ _ := id
  caN _ _ _ _ := id
  poN _ _ _ _ := id
  diN _ _ _ _ := id
  svN _ _ _ _ := id
  phN _ _ _ _ := id
  svM _ _ _ _ := id
  seN _ _ _ _ := id
  any k := absurd k (by decide)

theorem Stable.poHanded_is {v : List Nat} : Stable 0x5fffbffff (fun m => m.po.handed = v) where
  now _ _ _ := id
  draw _ _ := id
  sent _ _ _ := id
  ev _ _ _ := id
  cn _ _ _ := id
  pw _ _ _ := id
  md _ _ _ := id
  fn _ _ _ := id
  ph _ _ _ := id
  ed _ _ _ := id
  lk _ _ _ := id
  sw _ _ _ := id
  rt _ _ _ := id
  ti _ _ _ := id
  di _ _ _ := id
  tp _ _ _ := id
  ca _ _ _ := id
  ho _ _ _ := id
  po k := absurd k (by decide)
  sc _ _ _ := id
  br _ _ _ := id
  sv _ _ _ _ := id
  se _ _ _ _ := id
  edN _ _ _ _ := id
  swN _ _ _ _ := id
  rtN _ _ _ _ := id
  hoN _ _ _ _ := id
  caN _ _ _ _ := id
  poN _ _ f e h := (congrArg PoolBlk.handed (e _)).trans h
  diN _ _ _ _ := id
  svN _ _ _ _ := id
  phN _ _ _ _ := id
  svM _ _ _ _ := id
  seN _ _ _ _ := id
  any k := absurd k (by decide)

theorem Stable.poRecalling_is {v : List Nat} : Stable 0x5fffbffff (fun m => m.po.recalling = v) where
  now _ _ _ := id
  draw _ _ := id
  sent _ _ _ := id
  ev _ _ _ := id
  cn _ _ _ := id
  pw _ _ _ := id
  md _ _ _ := id
  fn _ _ _ := id
  ph _ _ _ := id
  ed _ _ _ := id
  lk _ _ _ := id
  sw _ _ _ := id
  rt _ _ _ := id
  ti _ _ _ := id
  di _ _ _ := id
  tp _ _ _ := id
  ca _ _ _ := id
  ho _ _ _ := id
  po k := absurd k (by decide)
  sc _ _ _ := id
  br _ _ _ := id
  sv _ _ _ _ := id
  se _ _ _ _ := id
  edN _ _ _ _ := id
  swN _ _ _ _ := id
  rtN _ _ _ _ := id
  hoN _ _ _ _ := id
  caN _ _ _ _ := id
  poN _ _ f e h := (congrArg PoolBlk.recalling (e _)).trans h
  diN _ _ _ _ := id
  svN _ _ _ _ := id
  phN _ _ _ _ := id
  svM _ _ _ _ := id
  seN _ _ _ _ := id
  any k := absurd k (by decide)

theorem Stable.phClusters_is {v : Tbl ClusterSt} : Stable 0x5fffffeff (fun m => m.ph.clusters = v) where
  now _ _ _ := id
  draw _ _ := id
  sent _ _ _ := id
  ev _ _ _ := id
  cn _ _ _ := id
  pw _ _ _ := id
  md _ _ _ := id
  fn _ _ _ := id
  ph k := absurd k (by decide)
  ed _ _ _ := id
  lk _ _ _ := id
  sw _ _ _ := id
  rt _ _ _ := id
  ti _ _ _ := id
  di _ _ _ := id
  tp _ _ _ := id
  ca _ _ _ := id
  ho _ _ _ := id
  po _ _ _ := id
  sc _ _ _ := id
  br _ _ _ := id
  sv _ _ _ _ := id
  se _ _ _ _ := id
  edN _ _ _ _ := id
  swN _ _ _ _ := id
  rtN _ _ _ _ := id
  hoN _ _ _ _ := id
  caN _ _ _ _ := id
  poN _ _ _ _ := id
  diN _ _ _ _ := id
  svN _ _ _ _ := id
  phN _ _ f e h := (congrArg PhyBlk.clusters (e _)).trans h
  svM _ _ _ _ := id
  seN _ _ _ _ := id
  any k := absurd k (by decide)

theorem Stable.phRefin_is {v : Bool} : Stable 0x5fffffeff (fun m => m.ph.refin = v) where
  now _ _ _ := id
  draw _ _ := id
  sent _ _ _ := id
  ev _ _ _ := id
  cn _ _ _ := id
  pw _ _ _ := id
  md _ _ _ := id
  fn _ _ _ := id
  ph k := absurd k (by decide)
  ed _ _ _ := id
  lk _ _ _ := id
  sw _ _ _ := id
  rt _ _ _ := id
  ti _ _ _ := id
  di _ _ _ := id
  tp _ _ _ := id
  ca _ _ _ := id
  ho _ _ _ := id
  po _ _ _ := id
  sc _ _ _ := id
  br _ _ _ := id
  sv _ _ _ _ := id
  se _ _ _ _ := id
  edN _ _ _ _ := id
  swN _ _ _ _ := id
  rtN _ _ _ _ := id
  hoN _ _ _ _ := id
  caN _ _ _ _ := id
  poN _ _ _ _ := id
  diN _ _ _ _ := id
  svN _ _ _ _ := id
  phN _ _ f e h := (congrArg PhyBlk.refin (e _)).trans h
  svM _ _ _ _ := id
  seN _ _ _ _ := id
  any k := absurd k (by decide)

theorem Stable.swShared_is {v : Tbl Nat} : Stable 0x5fffff7ff (fun m => m.sw.shared = v) where
  now _ _ _ := id
  draw _ _ := id
  sent _ _ _ := id
  ev _ _ _ := id
  cn _ _ _ := id
  pw _ _ _ := id
  md _ _ _ := id
  fn _ _ _ := id
  ph _ _ _ := id
  ed _ _ _ := id
  lk _ _ _ := id
  sw k := absurd k (by decide)
  rt _ _ _ := id
  ti _ _ _ := id
  di _ _ _ := id
  tp _ _ _ := id
  ca _ _ _ := id
  ho _ _ _ := id
  po _ _ _ := id
  sc _ _ _ := id
  br _ _ _ := id
  sv _ _ _ _ := id
  se _ _ _ _ := id
  edN _ _ _ _ := id
  swN _ _ f e h := (congrArg SwitchBlk.shared (e _)).trans h
  rtN _ _ _ _ := id
  hoN _ _ _ _ := id
  caN _ _ _ _ := id
  poN _ _ _ _ := id
  diN _ _ _ _ := id
  svN _ _ _ _ := id
  phN _ _ _ _ := id
  svM _ _ _ _ := id
  seN _ _ _ _ := id
  any k := absurd k (by decide)

theorem Stable.rtDb_is {v : List StoredRec} : Stable 0x5ffffefff (fun m => m.rt.db = v) where
  now _ _ _ := id
  draw _ _ := id
  sent _ _ _ := id
  ev _ _ _ := id
  cn _ _ _ := id
  pw _ _ _ := id
  md _ _ _ := id
  fn _ _ _ := id
  ph _ _ _ := id
  ed _ _ _ := id
  lk _ _ _ := id
  sw _ _ _ := id
  rt k := absurd k (by decide)
  ti _ _ _ := id
  di _ _ _ := id
  tp _ _ _ := id
  ca _ _ _ := id
  ho _ _ _ := id
  po _ _ _ := id
  sc _ _ _ := id
  br _ _ _ := id
  sv _ _ _ _ := id
  se _ _ _ _ := id
  edN _ _ _ _ := id
  swN _ _ _ _ := id
  rtN _ _ f e h := (congrArg RouteBlk.db (e _)).trans h
  hoN _ _ _ _ := id
  caN _ _ _ _ := id
  poN _ _ _ _ := id
  diN _ _ _ _ := id
  svN _ _ _ _ := id
  phN _ _ _ _ := id
  svM _ _ _ _ := id
  seN _ _ _ _ := id
  any k := absurd k (by decide)

theorem Stable.rtId_is {v : Nat} : Stable 0x5ffffefff (fun m => m.rt.id = v) where
  now _ _ _ := id
  draw _ _ := id
  sent _ _ _ := id
  ev _ _ _ := id
  cn _ _ _ := id
  pw _ _ _ := id
  md _ _ _ := id
  fn _ _ _ := id
  ph _ _ _ := id
  ed _ _ _ := id
  lk _ _ _ := id
  sw _ _ _ := id
  rt k := absurd k (by decide)
  ti _ _ _ := id
  di _ _ _ := id
  tp _ _ _ := id
  ca _ _ _ := id
  ho _ _ _ := id
  po _ _ _ := id
  sc _ _ _ := id
  br _ _ _ := id
  sv _ _ _ _ := id
  se _ _ _ _ := id
  edN _ _ _ _ := id
  swN _ _ _ _ := id
  rtN _ _ f e h := (congrArg RouteBlk.id (e _)).trans h
  hoN _ _ _ _ := id
  caN _ _ _ _ := id
  poN _ _ _ _ := id
  diN _ _ _ _ := id
  svN _ _ _ _ := id
  phN _ _ _ _ := id
  svM _ _ _ _ := id
  seN _ _ _ _ := id
  any k := absurd k (by decide)

theorem Stable.hoLost_is {v : List Nat} : Stable 0x5fffdffff (fun m => m.ho.lost = v) where
  now _ _ _ := id
  draw _ _ := id
  sent _ _ _ := id
  ev _ _ _ := id
  cn _ _ _ := id
  pw _ _ _ := id
  md _ _ _ := id
  fn _ _ _ := id
  ph _ _ _ := id
  ed _ _ _ := id
  lk _ _ _ := id
  sw _ _ _ := id
  rt _ _ _ := id
  ti _ _ _ := id
  di _ _ _ := id
  tp _ _ _ := id
  ca _ _ _ := id
  ho k := absurd k (by decide)
  po _ _ _ := id
  sc _ _ _ := id
  br _ _ _ := id
  sv _ _ _ _ := id
  se _ _ _ _ := id
  edN _ _ _ _ := id
  swN _ _ _ _ := id
  rtN _ _ _ _ := id
  hoN _ _ f e h := (congrArg HomeBlk.lost (e _)).trans h
  caN _ _ _ _ := id
  poN _ _ _ _ := id
  diN _ _ _ _ := id
  svN _ _ _ _ := id
  phN _ _ _ _ := id
  svM _ _ _ _ := id
  seN _ _ _ _ := id
  any k := absurd k (by decide)

theorem Stable.hoFlushes_is {v : List HomeFlush} : Stable 0x5fffdffff (fun m => m.ho.flushes = v) where
  now _ _ _ := id
  draw _ _ := id
  sent _ _ _ := id
  ev _ _ _ := id
  cn _ _ _ := id
  pw _ _ _ := id
  md _ _ _ := id
  fn _ _ _ := id
  ph _ _ _ := id
  ed _ _ _ := id
  lk _ _ _ := id
  sw _ _ _ := id
  rt _ _ _ := id
  ti _ _ _ := id
  di _ _ _ := id
  tp _ _ _ := id
  ca _ _ _ := id
  ho k := absurd k (by decide)
  po _ _ _ := id
  sc _ _ _ := id
  br _ _ _ := id
  sv _ _ _ _ := id
  se _ _ _ _ := id
  edN _ _ _ _ := id
  swN _ _ _ _ := id
  rtN _ _ _ _ := id
  hoN _ _ f e h := (congrArg HomeBlk.flushes (e _)).trans h
  caN _ _ _ _ := id
  poN _ _ _ _ := id
  diN _ _ _ _ := id
  svN _ _ _ _ := id
  phN _ _ _ _ := id
  svM _ _ _ _ := id
  seN _ _ _ _ := id
  any k := absurd k (by decide)

theorem Stable.caFlushes_is {v : List MemberFlush} : Stable 0x5fffeffff (fun m => m.ca.flushes = v) where
  now _ _ _ := id
  draw _ _ := id
  sent _ _ _ := id
  ev _ _ _ := id
  cn _ _ _ := id
  pw _ _ _ := id
  md _ _ _ := id
  fn _ _ _ := id
  ph _ _ _ := id
  ed _ _ _ := id
  lk _ _ _ := id
  sw _ _ _ := id
  rt _ _ _ := id
  ti _ _ _ := id
  di _ _ _ := id
  tp _ _ _ := id
  ca k := absurd k (by decide)
  ho _ _ _ := id
  po _ _ _ := id
  sc _ _ _ := id
  br _ _ _ := id
  sv _ _ _ _ := id
  se _ _ _ _ := id
  edN _ _ _ _ := id
  swN _ _ _ _ := id
  rtN _ _ _ _ := id
  hoN _ _ _ _ := id
  caN _ _ f e h := (congrArg CacheBlk.flushes (e _)).trans h
  poN _ _ _ _ := id
  diN _ _ _ _ := id
  svN _ _ _ _ := id
  phN _ _ _ _ := id
  svM _ _ _ _ := id
  seN _ _ _ _ := id
  any k := absurd k (by decide)

theorem Stable.poKeys_is {v : Tbl Nat} : Stable 0x5fffbffff (fun m => m.po.keys = v) where
  now _ _ _ := id
  draw _ _ := id
  sent _ _ _ := id
  ev _ _ _ := id
  cn _ _ _ := id
  pw _ _ _ := id
  md _ _ _ := id
  fn _ _ _ := id
  ph _ _ _ := id
  ed _ _ _ := id
  lk _ _ _ := id
  sw _ _ _ := id
  rt _ _ _ := id
  ti _ _ _ := id
  di _ _ _ := id
  tp _ _ _ := id
  ca _ _ _ := id
  ho _ _ _ := id
  po k := absurd k (by decide)
  sc _ _ _ := id
  br _ _ _ := id
  sv _ _ _ _ := id
  se _ _ _ _ := id
  edN _ _ _ _ := id
  swN _ _ _ _ := id
  rtN _ _ _ _ := id
  hoN _ _ _ _ := id
  caN _ _ _ _ := id
  poN _ _ f e h := (congrArg PoolBlk.keys (e _)).trans h
  diN _ _ _ _ := id
  svN _ _ _ _ := id
  phN _ _ _ _ := id
  svM _ _ _ _ := id
  seN _ _ _ _ := id
  any k := absurd k (by decide)

theorem Stable.sessions_is {v : List Session} : Stable 0x5ffffbfff (fun m => m.di.sessions = v) where
  now _ _ _ := id
  draw _ _ := id
  sent _ _ _ := id
  ev _ _ _ := id
  cn _ _ _ := id
  pw _ _ _ := id
  md _ _ _ := id
  fn _ _ _ := id
  ph _ _ _ := id
  ed _ _ _ := id
  lk _ _ _ := id
  sw _ _ _ := id
  rt _ _ _ := id
  ti _ _ _ := id
  di k := absurd k (by decide)
  tp _ _ _ := id
  ca _ _ _ := id
  ho _ _ _ := id
  po _ _ _ := id
  sc _ _ _ := id
  br _ _ _ := id
  sv _ _ _ _ := id
  se _ _ _ _ := id
  edN _ _ _ _ := id
  swN _ _ _ _ := id
  rtN _ _ _ _ := id
  hoN _ _ _ _ := id
  caN _ _ _ _ := id
  poN _ _ _ _ := id
  diN _ _ f e h := (congrArg DictBlk.sessions (e _)).trans h
  svN _ _ _ _ := id
  phN _ _ _ _ := id
  svM _ _ _ _ := id
  seN _ _ _ _ := id
  any k := absurd k (by decide)

theorem Stable.groups_is {v : List Group} : Stable 0x5ffffbfff (fun m => m.di.groups = v) where
  now _ _ _ := id
  draw _ _ := id
  sent _ _ _ := id
  ev _ _ _ := id
  cn _ _ _ := id
  pw _ _ _ := id
  md _ _ _ := id
  fn _ _ _ := id
  ph _ _ _ := id
  ed _ _ _ := id
  lk _ _ _ := id
  sw _ _ _ := id
  rt _ _ _ := id
  ti _ _ _ := id
  di k := absurd k (by decide)
  tp _ _ _ := id
  ca _ _ _ := id
  ho _ _ _ := id
  po _ _ _ := id
  sc _ _ _ := id
  br _ _ _ := id
  sv _ _ _ _ := id
  se _ _ _ _ := id
  edN _ _ _ _ := id
  swN _ _ _ _ := id
  rtN _ _ _ _ := id
  hoN _ _ _ _ := id
  caN _ _ _ _ := id
  poN _ _ _ _ := id
  diN _ _ f e h := (congrArg DictBlk.groups (e _)).trans h
  svN _ _ _ _ := id
  phN _ _ _ _ := id
  svM _ _ _ _ := id
  seN _ _ _ _ := id
  any k := absurd k (by decide)

theorem Stable.windows_is {v} : Stable 0x5ffffbfff (fun m => m.di.windows = v) where
  now _ _ _ := id
  draw _ _ := id
  sent _ _ _ := id
  ev _ _ _ := id
  cn _ _ _ := id
  pw _ _ _ := id
  md _ _ _ := id
  fn _ _ _ := id
  ph _ _ _ := id
  ed _ _ _ := id
  lk _ _ _ := id
  sw _ _ _ := id
  rt _ _ _ := id
  ti _ _ _ := id
  di k := absurd k (by decide)
  tp _ _ _ := id
  ca _ _ _ := id
  ho _ _ _ := id
  po _ _ _ := id
  sc _ _ _ := id
  br _ _ _ := id
  sv _ _ _ _ := id
  se _ _ _ _ := id
  edN _ _ _ _ := id
  swN _ _ _ _ := id
  rtN _ _ _ _ := id
  hoN _ _ _ _ := id
  caN _ _ _ _ := id
  poN _ _ _ _ := id
  diN _ _ f e h := (congrArg DictBlk.windows (e _)).trans h
  svN _ _ _ _ := id
  phN _ _ _ _ := id
  svM _ _ _ _ := id
  seN _ _ _ _ := id
  any k := absurd k (by decide)

theorem Stable.obj_is {v : Tbl Nat} : Stable 0x5dfffbfff (fun m => m.di.obj = v) where
  now _ _ _ := id
  draw _ _ := id
  sent _ _ _ := id
  ev _ _ _ := id
  cn _ _ _ := id
  pw _ _ _ := id
  md _ _ _ := id
  fn _ _ _ := id
  ph _ _ _ := id
  ed _ _ _ := id
  lk _ _ _ := id
  sw _ _ _ := id
  rt _ _ _ := id
  ti _ _ _ := id
  di k := absurd k (by decide)
  tp _ _ _ := id
  ca _ _ _ := id
  ho _ _ _ := id
  po _ _ _ := id
  sc _ _ _ := id
  br _ _ _ := id
  sv _ _ _ _ := id
  se _ _ _ _ := id
  edN _ _ _ _ := id
  swN _ _ _ _ := id
  rtN _ _ _ _ := id
  hoN _ _ _ _ := id
  caN _ _ _ _ := id
  poN _ _ _ _ := id
  diN k := absurd k (by decide)
  svN _ _ _ _ := id
  phN _ _ _ _ := id
  svM _ _ _ _ := id
  seN _ _ _ _ := id
  any k := absurd k (by decide)

theorem Stable.qps_is {v} : Stable 0x57fdfffff (fun m => m.sv.qps = v) where
  now _ _ _ := id
  draw _ _ := id
  sent _ _ _ := id
  ev _ _ _ := id
  cn _ _ _ := id
  pw _ _ _ := id
  md _ _ _ := id
  fn _ _ _ := id
  ph _ _ _ := id
  ed _ _ _ := id
  lk _ _ _ := id
  sw _ _ _ := id
  rt _ _ _ := id
  ti _ _ _ := id
  di _ _ _ := id
  tp _ _ _ := id
  ca _ _ _ := id
  ho _ _ _ := id
  po _ _ _ := id
  sc _ _ _ := id
  br _ _ _ := id
  sv k := absurd k (by decide)
  se _ _ _ _ := id
  edN _ _ _ _ := id
  swN _ _ _ _ := id
  rtN _ _ _ _ := id
  hoN _ _ _ _ := id
  caN _ _ _ _ := id
  poN _ _ _ _ := id
  diN _ _ _ _ := id
  svN _ _ f e h := (congrArg ServiceBlk.qps (e _)).trans h
  phN _ _ _ _ := id
  svM k := absurd k (by decide)
  seN _ _ _ _ := id
  any k := absurd k (by decide)

theorem Stable.boxes_is {v} : Stable 0x57fdfffff (fun m => m.sv.boxes = v) where
  now _ _ _ := id
  draw _ _ := id
  sent _ _ _ := id
  ev _ _ _ := id
  cn _ _ _ := id
  pw _ _ _ := id
  md _ _ _ := id
  fn _ _ _ := id
  ph _ _ _ := id
  ed _ _ _ := id
  lk _ _ _ := id
  sw _ _ _ := id
  rt _ _ _ := id
  ti _ _ _ := id
  di _ _ _ := id
  tp _ _ _ := id
  ca _ _ _ := id
  ho _ _ _ := id
  po _ _ _ := id
  sc _ _ _ := id
  br _ _ _ := id
  sv k := absurd k (by decide)
  se _ _ _ _ := id
  edN _ _ _ _ := id
  swN _ _ _ _ := id
  rtN _ _ _ _ := id
  hoN _ _ _ _ := id
  caN _ _ _ _ := id
  poN _ _ _ _ := id
  diN _ _ _ _ := id
  svN _ _ f e h := (congrArg ServiceBlk.boxes (e _)).trans h
  phN _ _ _ _ := id
  svM k := absurd k (by decide)
  seN _ _ _ _ := id
  any k := absurd k (by decide)

theorem Stable.service_is {v : Memory} : Stable 0x5ffdfffff (fun m => m.sv.service = v) where
  now _ _ _ := id
  draw _ _ := id
  sent _ _ _ := id
  ev _ _ _ := id
  cn _ _ _ := id
  pw _ _ _ := id
  md _ _ _ := id
  fn _ _ _ := id
  ph _ _ _ := id
  ed _ _ _ := id
  lk _ _ _ := id
  sw _ _ _ := id
  rt _ _ _ := id
  ti _ _ _ := id
  di _ _ _ := id
  tp _ _ _ := id
  ca _ _ _ := id
  ho _ _ _ := id
  po _ _ _ := id
  sc _ _ _ := id
  br _ _ _ := id
  sv k := absurd k (by decide)
  se _ _ _ _ := id
  edN _ _ _ _ := id
  swN _ _ _ _ := id
  rtN _ _ _ _ := id
  hoN _ _ _ _ := id
  caN _ _ _ _ := id
  poN _ _ _ _ := id
  diN _ _ _ _ := id
  svN _ _ f e h := (congrArg ServiceBlk.service (e _)).trans h
  phN _ _ _ _ := id
  svM _ _ f e h := (e _).1.trans h
  seN _ _ _ _ := id
  any k := absurd k (by decide)

theorem Stable.sram_is {v : Memory} : Stable 0x5ffdfffff (fun m => m.sv.sram = v) where
  now _ _ _ := id
  draw _ _ := id
  sent _ _ _ := id
  ev _ _ _ := id
  cn _ _ _ := id
  pw _ _ _ := id
  md _ _ _ := id
  fn _ _ _ := id
  ph _ _ _ := id
  ed _ _ _ := id
  lk _ _ _ := id
  sw _ _ _ := id
  rt _ _ _ := id
  ti _ _ _ := id
  di _ _ _ := id
  tp _ _ _ := id
  ca _ _ _ := id
  ho _ _ _ := id
  po _ _ _ := id
  sc _ _ _ := id
  br _ _ _ := id
  sv k := absurd k (by decide)
  se _ _ _ _ := id
  edN _ _ _ _ := id
  swN _ _ _ _ := id
  rtN _ _ _ _ := id
  hoN _ _ _ _ := id
  caN _ _ _ _ := id
  poN _ _ _ _ := id
  diN _ _ _ _ := id
  svN _ _ f e h := (congrArg ServiceBlk.sram (e _)).trans h
  phN _ _ _ _ := id
  svM _ _ f e h := (e _).2.trans h
  seN _ _ _ _ := id
  any k := absurd k (by decide)

theorem Stable.life_is {v : Nat} : Stable 0x5ffbfffff (fun m => m.se.life = v) where
  now _ _ _ := id
  draw _ _ := id
  sent _ _ _ := id
  ev _ _ _ := id
  cn _ _ _ := id
  pw _ _ _ := id
  md _ _ _ := id
  fn _ _ _ := id
  ph _ _ _ := id
  ed _ _ _ := id
  lk _ _ _ := id
  sw _ _ _ := id
  rt _ _ _ := id
  ti _ _ _ := id
  di _ _ _ := id
  tp _ _ _ := id
  ca _ _ _ := id
  ho _ _ _ := id
  po _ _ _ := id
  sc _ _ _ := id
  br _ _ _ := id
  sv _ _ _ _ := id
  se k := absurd k (by decide)
  edN _ _ _ _ := id
  swN _ _ _ _ := id
  rtN _ _ _ _ := id
  hoN _ _ _ _ := id
  caN _ _ _ _ := id
  poN _ _ _ _ := id
  diN _ _ _ _ := id
  svN _ _ _ _ := id
  phN _ _ _ _ := id
  svM _ _ _ _ := id
  seN _ _ f e h := (e _).life.trans h
  any k := absurd k (by decide)

theorem Stable.rollFs_is {v : Nat} : Stable 0x5ffbfffff (fun m => m.se.rollFs = v) where
  now _ _ _ := id
  draw _ _ := id
  sent _ _ _ := id
  ev _ _ _ := id
  cn _ _ _ := id
  pw _ _ _ := id
  md _ _ _ := id
  fn _ _ _ := id
  ph _ _ _ := id
  ed _ _ _ := id
  lk _ _ _ := id
  sw _ _ _ := id
  rt _ _ _ := id
  ti _ _ _ := id
  di _ _ _ := id
  tp _ _ _ := id
  ca _ _ _ := id
  ho _ _ _ := id
  po _ _ _ := id
  sc _ _ _ := id
  br _ _ _ := id
  sv _ _ _ _ := id
  se k := absurd k (by decide)
  edN _ _ _ _ := id
  swN _ _ _ _ := id
  rtN _ _ _ _ := id
  hoN _ _ _ _ := id
  caN _ _ _ _ := id
  poN _ _ _ _ := id
  diN _ _ _ _ := id
  svN _ _ _ _ := id
  phN _ _ _ _ := id
  svM _ _ _ _ := id
  seN _ _ f e h := (e _).rollFs.trans h
  any k := absurd k (by decide)

theorem Stable.rollFw_is {v : Nat} : Stable 0x5ffbfffff (fun m => m.se.rollFw = v) where
  now _ _ _ := id
  draw _ _ := id
  sent _ _ _ := id
  ev _ _ _ := id
  cn _ _ _ := id
  pw _ _ _ := id
  md _ _ _ := id
  fn _ _ _ := id
  ph _ _ _ := id
  ed _ _ _ := id
  lk _ _ _ := id
  sw _ _ _ := id
  rt _ _ _ := id
  ti _ _ _ := id
  di _ _ _ := id
  tp _ _ _ := id
  ca _ _ _ := id
  ho _ _ _ := id
  po _ _ _ := id
  sc _ _ _ := id
  br _ _ _ := id
  sv _ _ _ _ := id
  se k := absurd k (by decide)
  edN _ _ _ _ := id
  swN _ _ _ _ := id
  rtN _ _ _ _ := id
  hoN _ _ _ _ := id
  caN _ _ _ _ := id
  poN _ _ _ _ := id
  diN _ _ _ _ := id
  svN _ _ _ _ := id
  phN _ _ _ _ := id
  svM _ _ _ _ := id
  seN _ _ f e h := (e _).rollFw.trans h
  any k := absurd k (by decide)

theorem Stable.revoked_is {v : Nat} : Stable 0x5ffbfffff (fun m => m.se.revoked = v) where
  now _ _ _ := id
  draw _ _ := id
  sent _ _ _ := id
  ev _ _ _ := id
  cn _ _ _ := id
  pw _ _ _ := id
  md _ _ _ := id
  fn _ _ _ := id
  ph _ _ _ := id
  ed _ _ _ := id
  lk _ _ _ := id
  sw _ _ _ := id
  rt _ _ _ := id
  ti _ _ _ := id
  di _ _ _ := id
  tp _ _ _ := id
  ca _ _ _ := id
  ho _ _ _ := id
  po _ _ _ := id
  sc _ _ _ := id
  br _ _ _ := id
  sv _ _ _ _ := id
  se k := absurd k (by decide)
  edN _ _ _ _ := id
  swN _ _ _ _ := id
  rtN _ _ _ _ := id
  hoN _ _ _ _ := id
  caN _ _ _ _ := id
  poN _ _ _ _ := id
  diN _ _ _ _ := id
  svN _ _ _ _ := id
  phN _ _ _ _ := id
  svM _ _ _ _ := id
  seN _ _ f e h := (e _).revoked.trans h
  any k := absurd k (by decide)

theorem Stable.uds_is {v : Option Nat} : Stable 0x5ffbfffff (fun m => m.se.uds = v) where
  now _ _ _ := id
  draw _ _ := id
  sent _ _ _ := id
  ev _ _ _ := id
  cn _ _ _ := id
  pw _ _ _ := id
  md _ _ _ := id
  fn _ _ _ := id
  ph _ _ _ := id
  ed _ _ _ := id
  lk _ _ _ := id
  sw _ _ _ := id
  rt _ _ _ := id
  ti _ _ _ := id
  di _ _ _ := id
  tp _ _ _ := id
  ca _ _ _ := id
  ho _ _ _ := id
  po _ _ _ := id
  sc _ _ _ := id
  br _ _ _ := id
  sv _ _ _ _ := id
  se k := absurd k (by decide)
  edN _ _ _ _ := id
  swN _ _ _ _ := id
  rtN _ _ _ _ := id
  hoN _ _ _ _ := id
  caN _ _ _ _ := id
  poN _ _ _ _ := id
  diN _ _ _ _ := id
  svN _ _ _ _ := id
  phN _ _ _ _ := id
  svM _ _ _ _ := id
  seN _ _ f e h := (e _).uds.trans h
  any k := absurd k (by decide)

end Sys2Proof.Machine
end

