-- ==== Sys2Proof/Laws/KeepsOps.lean ====
section
/-! SUPPORT. What each operation of Ops.lean can do: it keeps every property stable under the updates of its mask. -/
namespace Sys2Proof.Machine
set_option Elab.async false

theorem Mod.advanceTo_keeps {P : Mod → Prop} (hS : Stable 0x1 P) {m : Mod} (hm : P m) (t : Nat) :
    P (Mod.advanceTo m t) := by
  unfold Mod.advanceTo
  try dsimp only
  repeat' first | with_reducible assumption | with_reducible apply hS.advance

theorem Mod.setObj_keeps {P : Mod → Prop} (hS : Stable 0x20000000 P) {m : Mod} (hm : P m) (oid : Nat) (v : Nat) :
    P (Mod.setObj m oid v) := by
  unfold Mod.setObj
  try dsimp only
  repeat' first | with_reducible assumption | with_reducible refine hS.onDiN ?_ (fun _ => by with_reducible_and_instances rfl)

theorem Mod.setFlash_keeps {P : Mod → Prop} (hS : Stable 0x20000000 P) {m : Mod} (hm : P m) (oid : Nat) (v : Nat) :
    P (Mod.setFlash m oid v) := by
  unfold Mod.setFlash
  try dsimp only
  repeat' first | with_reducible assumption | with_reducible refine hS.onDiN ?_ (fun _ => by with_reducible_and_instances rfl)

theorem Mod.setPers_keeps {P : Mod → Prop} (hS : Stable 0x20000000 P) {m : Mod} (hm : P m) (oid : Nat) (v : Nat) :
    P (Mod.setPers m oid v) := by
  unfold Mod.setPers
  try dsimp only
  repeat' first | with_reducible assumption | with_reducible apply Mod.setFlash_keeps hS.up | with_reducible apply Mod.setObj_keeps hS.up

theorem Mod.bump_keeps {P : Mod → Prop} (hS : Stable 0x20000000 P) {m : Mod} (hm : P m) (oid : Nat) (n : Nat) :
    P (Mod.bump m oid n) := by
  unfold Mod.bump
  try dsimp only
  repeat' first | with_reducible assumption | with_reducible apply Mod.setObj_keeps hS.up

theorem Mod.count_keeps {P : Mod → Prop} (hS : Stable 0x10 P) {m : Mod} (hm : P m) (c : Nat) (n : Nat) :
    P (Mod.count m c n) := by
  unfold Mod.count
  try dsimp only
  repeat' first | with_reducible assumption | with_reducible apply hS.onCn | with_reducible apply hS.ite

theorem Mod.portCtr_keeps {P : Mod → Prop} (hS : Stable 0x10 P) {m : Mod} (hm : P m) (p : Nat) (e : Nat) (n : Nat) :
    P (Mod.portCtr m p e n) := by
  unfold Mod.portCtr
  try dsimp only
  repeat' first | with_reducible assumption | with_reducible apply Mod.count_keeps hS.up

theorem Mod.dieCtr_keeps {P : Mod → Prop} (hS : Stable 0x10 P) {m : Mod} (hm : P m) (d : Nat) (e : Nat) (n : Nat) :
    P (Mod.dieCtr m d e n) := by
  unfold Mod.dieCtr
  try dsimp only
  repeat' first | with_reducible assumption | with_reducible apply Mod.count_keeps hS.up

theorem Mod.chCtr_keeps {P : Mod → Prop} (hS : Stable 0x10 P) {m : Mod} (hm : P m) (c : Nat) (e : Nat) (n : Nat) :
    P (Mod.chCtr m c e n) := by
  unfold Mod.chCtr
  try dsimp only
  repeat' first | with_reducible assumption | with_reducible apply Mod.count_keeps hS.up

theorem Mod.hubCtr_keeps {P : Mod → Prop} (hS : Stable 0x10 P) {m : Mod} (hm : P m) (e : Nat) (n : Nat) :
    P (Mod.hubCtr m e n) := by
  unfold Mod.hubCtr
  try dsimp only
  repeat' first | with_reducible assumption | with_reducible apply Mod.count_keeps hS.up

theorem Mod.logOne_keeps {P : Mod → Prop} (hS : Stable 0x8 P) {m : Mod} (hm : P m) (e : Ev) :
    P (Mod.logOne m e) := by
  unfold Mod.logOne
  try dsimp only
  repeat' first | with_reducible assumption | with_reducible apply hS.onEv

theorem Mod.noteRaised_keeps {P : Mod → Prop} (hS : Stable 0x8 P) {m : Mod} (hm : P m) (key : Nat) :
    P (Mod.noteRaised m key) := by
  unfold Mod.noteRaised
  try dsimp only
  repeat' first | with_reducible assumption | with_reducible apply hS.onEv

theorem Mod.signalMsi_keeps {P : Mod → Prop} (hS : Stable 0x4000000c P) {m : Mod} (hm : P m) (sev : Nat) :
    P (Mod.signalMsi m sev) := by
  unfold Mod.signalMsi
  try dsimp only
  repeat' first
    | with_reducible assumption
    | with_reducible refine hS.onSvN ?_ (fun _ => by with_reducible_and_instances rfl)
    | with_reducible apply hS.onEv
    | with_reducible apply hS.emit
    | with_reducible apply hS.ite

theorem Mod.raise_keeps {P : Mod → Prop} (hS : Stable 0x4000000c P) {m : Mod} (hm : P m) (e : Ev) :
    P (Mod.raise m e) := by
  unfold Mod.raise
  try dsimp only
  repeat' first
    | with_reducible assumption
    | with_reducible apply Mod.signalMsi_keeps hS.up
    | with_reducible apply Mod.noteRaised_keeps hS.up
    | with_reducible apply Mod.logOne_keeps hS.up
    | with_reducible apply hS.ite

theorem Mod.raiseOnce_keeps {P : Mod → Prop} (hS : Stable 0x4000000c P) {m : Mod} (hm : P m) (e : Ev) (unit : Nat) :
    P (Mod.raiseOnce m e unit) := by
  unfold Mod.raiseOnce
  try dsimp only
  repeat' first
    | with_reducible assumption
    | with_reducible apply Mod.raise_keeps hS.up
    | with_reducible apply Mod.noteRaised_keeps hS.up
    | with_reducible apply hS.ite

end Sys2Proof.Machine
end

