-- ==== Sys2Proof/Laws/KeepsStreamOps.lean ====
section
/-! SUPPORT. What each operation of StreamOps.lean can do: it keeps every property stable under the updates of its mask. -/
namespace Sys2Proof.Machine
set_option Elab.async false

theorem Mod.tally_keeps {P : Mod → Prop} (hS : Stable 0x20000010 P) {m : Mod} (hm : P m) (o : FilterOp) (n : Nat) :
    P (Mod.tally m o n) := by
  unfold Mod.tally
  try dsimp only
  repeat' first
    | with_reducible assumption
    | with_reducible apply Mod.setObj_keeps hS.up
    | with_reducible apply hS.onCn
    | with_reducible apply hS.ite
    | with_reducible apply hS.each
    | split
    | intro _ _ hm

theorem Mod.onFn__keeps {P : Mod → Prop} (hS : Stable 0x40000000 P) {m : Mod} (hm : P m) (f : Nat) (g : FnSt → FnSt) :
    P (Mod.onFn_ m f g) := by
  unfold Mod.onFn_
  try dsimp only
  repeat' first | with_reducible assumption | with_reducible refine hS.onSvN ?_ (fun _ => by with_reducible_and_instances rfl)

theorem Mod.msi_keeps {P : Mod → Prop} (hS : Stable 0x6000000c P) {m : Mod} (hm : P m) (f : Nat) (entry : Nat) :
    P (Mod.msi m f entry) := by
  unfold Mod.msi
  try dsimp only
  repeat' first
    | with_reducible assumption
    | with_reducible apply Mod.onFn__keeps hS.up
    | with_reducible apply Mod.raiseOnce_keeps hS.up
    | with_reducible apply Mod.bump_keeps hS.up
    | with_reducible apply hS.emit
    | with_reducible apply hS.ite

theorem Mod.msiRelease_keeps {P : Mod → Prop} (hS : Stable 0x6000000c P) {m : Mod} (hm : P m) (f : Nat) :
    P (Mod.msiRelease m f) := by
  unfold Mod.msiRelease
  try dsimp only
  repeat' first
    | with_reducible assumption
    | with_reducible apply Mod.msi_keeps hS.up
    | with_reducible apply Mod.onFn__keeps hS.up
    | with_reducible apply hS.onEv
    | with_reducible apply hS.emit
    | with_reducible apply hS.ite
    | with_reducible apply hS.each
    | split
    | intro _ _ hm

theorem Mod.setMrdy_keeps {P : Mod → Prop} (hS : Stable 0x6000004c P) {m : Mod} (hm : P m) (v : Bool) :
    P (Mod.setMrdy m v) := by
  unfold Mod.setMrdy
  try dsimp only
  repeat' first
    | with_reducible assumption
    | with_reducible apply Mod.msiRelease_keeps hS.up
    | with_reducible apply hS.onMd
    | with_reducible apply hS.ite

theorem Mod.hostEvent_keeps {P : Mod → Prop} (hS : Stable 0x6000000c P) {m : Mod} (hm : P m) (v : Nat) (b : Nat) :
    P (Mod.hostEvent m v b) := by
  unfold Mod.hostEvent
  try dsimp only
  repeat' first
    | with_reducible assumption
    | with_reducible apply Mod.msi_keeps hS.up
    | with_reducible apply Mod.onFn__keeps hS.up
    | with_reducible apply hS.ite

theorem Mod.postedError_keeps {P : Mod → Prop} (hS : Stable 0xe000000c P) {m : Mod} (hm : P m) (vcs : Option Nat) (port : Nat) (tenant : Nat) (addr : Nat) (code : Nat) :
    P (Mod.postedError m vcs port tenant addr code) := by
  unfold Mod.postedError
  try dsimp only
  repeat' first
    | with_reducible assumption
    | with_reducible apply Mod.hostEvent_keeps hS.up
    | with_reducible apply Mod.raise_keeps hS.up
    | with_reducible apply Mod.bump_keeps hS.up
    | with_reducible apply Mod.setObj_keeps hS.up
    | with_reducible refine hS.onSvM ?_ (fun _ => by constructor <;> with_reducible_and_instances rfl)
    | split

theorem Mod.liveDone_keeps {P : Mod → Prop} (hS : Stable 0x100000 P) {m : Mod} (hm : P m) (id : Nat) (err : Bool) :
    P (Mod.liveDone m id err) := by
  unfold Mod.liveDone
  try dsimp only
  repeat' first | with_reducible assumption | with_reducible apply hS.onBr | with_reducible apply hS.ite | with_reducible apply OptP.map | split

theorem Mod.newAccess_keeps {P : Mod → Prop} (hS : Stable 0x100000 P) {m : Mod} (hm : P m) :
    PairP P (Mod.newAccess m) := by
  unfold Mod.newAccess
  try dsimp only
  repeat' first | with_reducible assumption | with_reducible apply hS.onBr | with_reducible apply PairP.mk

end Sys2Proof.Machine
end

