-- ==== Sys2Proof/Laws/KeepsSwitchOps.lean ====
section
/-! SUPPORT. What each operation of SwitchOps.lean can do: it keeps every property stable under the updates of its mask. -/
namespace Sys2Proof.Machine
set_option Elab.async false

theorem Mod.setQueue_keeps {P : Mod → Prop} (hS : Stable 0x800 P) {m : Mod} (hm : P m) (k : Nat) (l : List QEnt) :
    P (Mod.setQueue m k l) := by
  unfold Mod.setQueue
  try dsimp only
  repeat' first | with_reducible assumption | with_reducible apply hS.onSw

theorem Mod.allocCells_keeps {P : Mod → Prop} (hS : Stable 0x1000010 P) (d : Nat) : ∀ {m : Mod} (hm : P m) (n : Nat), PairP P (m.allocCells d n)
  | m, hm, 0 => by
    unfold Mod.allocCells
    exact hm
  | m, hm, n + 1 => by
    unfold Mod.allocCells
    split
    · exact hm
    · exact Mod.allocCells_keeps hS.up d (Mod.dieCtr_keeps hS.up (hS.onSwN hm (fun _ => rfl)) _ _ _) n

theorem Mod.freeCells_keeps {P : Mod → Prop} (hS : Stable 0x1000080 P) {m : Mod} (hm : P m) (d : Nat) (banks : List Nat) :
    P (Mod.freeCells m d banks) := by
  unfold Mod.freeCells
  try dsimp only
  repeat' first
    | with_reducible assumption
    | with_reducible refine hS.onSwN ?_ (fun _ => by with_reducible_and_instances rfl)
    | with_reducible apply hS.onFn
    | with_reducible apply hS.ite
    | with_reducible apply hS.each
    | split
    | intro _ _ hm

theorem Mod.addShared_keeps {P : Mod → Prop} (hS : Stable 0x800 P) {m : Mod} (hm : P m) (d : Nat) (n : Nat) :
    P (Mod.addShared m d n) := by
  unfold Mod.addShared
  try dsimp only
  repeat' first | with_reducible assumption | with_reducible apply hS.onSw

theorem Mod.subShared_keeps {P : Mod → Prop} (hS : Stable 0x800 P) {m : Mod} (hm : P m) (d : Nat) (n : Nat) :
    P (Mod.subShared m d n) := by
  unfold Mod.subShared
  try dsimp only
  repeat' first | with_reducible assumption | with_reducible apply hS.onSw

theorem Mod.originate_keeps {P : Mod → Prop} (hS : Stable 0x1000000 P) {m : Mod} (hm : P m) (blk : Block) (die : Nat) (pkt : Pkt) (target : Option Nat) (tenant : Nat) :
    P (Mod.originate m blk die pkt target tenant) := by
  unfold Mod.originate
  try dsimp only
  repeat' first
    | with_reducible assumption
    | with_reducible refine hS.onSwN ?_ (fun _ => by with_reducible_and_instances rfl)
    | with_reducible apply hS.ite

theorem Mod.originateMulti_keeps {P : Mod → Prop} (hS : Stable 0x1000000 P) {m : Mod} (hm : P m) (blk : Block) (die : Nat) (pkt : Pkt) (dests : List Nat) :
    P (Mod.originateMulti m blk die pkt dests) := by
  unfold Mod.originateMulti
  try dsimp only
  repeat' first
    | with_reducible assumption
    | with_reducible refine hS.onSwN ?_ (fun _ => by with_reducible_and_instances rfl)
    | with_reducible apply hS.ite

theorem Mod.dieObj_keeps {P : Mod → Prop} (hS : Stable 0x20000000 P) {m : Mod} (hm : P m) (d : Nat) (el : Nat) (n : Nat) :
    P (Mod.dieObj m d el n) := by
  unfold Mod.dieObj
  try dsimp only
  repeat' first | with_reducible assumption | with_reducible apply Mod.bump_keeps hS.up

theorem Mod.portObj_keeps {P : Mod → Prop} (hS : Stable 0x20000000 P) {m : Mod} (hm : P m) (p : Nat) (el : Nat) (n : Nat) :
    P (Mod.portObj m p el n) := by
  unfold Mod.portObj
  try dsimp only
  repeat' first | with_reducible assumption | with_reducible apply Mod.bump_keeps hS.up

theorem Mod.setTrk_keeps {P : Mod → Prop} (hS : Stable 0x1000000 P) {m : Mod} (hm : P m) (k : Nat) (t : Trk) :
    P (Mod.setTrk m k t) := by
  unfold Mod.setTrk
  try dsimp only
  repeat' first | with_reducible assumption | with_reducible refine hS.onSwN ?_ (fun _ => by with_reducible_and_instances rfl)

theorem Mod.allocTrk_keeps {P : Mod → Prop} (hS : Stable 0x1000010 P) {m : Mod} (hm : P m) (port : Option Nat) (die : Nat) (t : Trk) :
    OptPairP P (Mod.allocTrk m port die t) := by
  unfold Mod.allocTrk
  try dsimp only
  repeat' first
    | with_reducible assumption
    | with_reducible apply Mod.setTrk_keeps hS.up
    | with_reducible apply Mod.dieCtr_keeps hS.up
    | with_reducible apply Mod.portCtr_keeps hS.up
    | with_reducible refine hS.onSwN ?_ (fun _ => by with_reducible_and_instances rfl)
    | with_reducible apply OptPairP.ite
    | with_reducible apply hS.ite
    | with_reducible apply OptPairP.some
    | with_reducible apply PairP.mk
    | with_reducible exact OptPairP.none
    | split

theorem Mod.freeTrk_keeps {P : Mod → Prop} (hS : Stable 0x1000010 P) {m : Mod} (hm : P m) (k : Nat) :
    P (Mod.freeTrk m k) := by
  unfold Mod.freeTrk
  try dsimp only
  repeat' first | with_reducible assumption | with_reducible apply Mod.setTrk_keeps hS.up | with_reducible apply Mod.dieCtr_keeps hS.up

theorem Mod.releaseOrphan_keeps {P : Mod → Prop} (hS : Stable 0x1000000 P) {m : Mod} (hm : P m) (k : Nat) :
    P (Mod.releaseOrphan m k) := by
  unfold Mod.releaseOrphan
  try dsimp only
  repeat' first | with_reducible assumption | with_reducible apply Mod.setTrk_keeps hS.up

theorem Mod.trkStall_keeps {P : Mod → Prop} (hS : Stable 0x4000001c P) {m : Mod} (hm : P m) (p : Nat) :
    P (Mod.trkStall m p) := by
  unfold Mod.trkStall
  try dsimp only
  repeat' first
    | with_reducible assumption
    | with_reducible apply Mod.raiseOnce_keeps hS.up
    | with_reducible apply Mod.dieCtr_keeps hS.up
    | with_reducible apply Mod.portCtr_keeps hS.up

end Sys2Proof.Machine
end

