-- ==== Sys2Proof/Laws/KeepsMsg.lean ====
section
/-! SUPPORT. What each operation of Msg.lean can do: it keeps every property stable under the updates of its mask. -/
namespace Sys2Proof.Machine
set_option Elab.async false

theorem Mod.toEdge_keeps {P : Mod → Prop} (hS : Stable 0x1000000 P) {m : Mod} (hm : P m) (blk : Block) (port : Nat) (pkt : Pkt) (tenant : Nat) (secure : Bool) :
    P (Mod.toEdge m blk port pkt tenant secure) := by
  unfold Mod.toEdge
  try dsimp only
  repeat' first | with_reducible assumption | with_reducible refine hS.onSwN ?_ (fun _ => by with_reducible_and_instances rfl)

theorem Mod.answerHost_keeps {P : Mod → Prop} (hS : Stable 0x1000000 P) {m : Mod} (hm : P m) (port : Nat) (tag : Nat) (code : Nat) (poison : Bool) (data : Nat) (tenant : Nat) :
    P (Mod.answerHost m port tag code poison data tenant) := by
  unfold Mod.answerHost
  try dsimp only
  repeat' first | with_reducible assumption | with_reducible apply Mod.toEdge_keeps hS.up

theorem Mod.sendSnoop_keeps {P : Mod → Prop} (hS : Stable 0x1000000 P) {m : Mod} (hm : P m) (port : Nat) (line : Nat) (k : SnpKind) :
    P (Mod.sendSnoop m port line k) := by
  unfold Mod.sendSnoop
  try dsimp only
  repeat' first | with_reducible assumption | with_reducible apply Mod.toEdge_keeps hS.up

theorem Mod.completeTo_keeps {P : Mod → Prop} (hS : Stable 0x1000000 P) {m : Mod} (hm : P m) (port : Nat) (tag : Nat) (tenant : Nat) (code : Nat) (poison : Bool) (words : List Nat) :
    P (Mod.completeTo m port tag tenant code poison words) := by
  unfold Mod.completeTo
  try dsimp only
  repeat' first | with_reducible assumption | with_reducible apply Mod.toEdge_keeps hS.up

theorem Mod.answerPkt_keeps {P : Mod → Prop} (hS : Stable 0x1000000 P) {m : Mod} (hm : P m) (die : Nat) (pkt : Pkt) :
    P (Mod.answerPkt m die pkt) := by
  unfold Mod.answerPkt
  try dsimp only
  repeat' first | with_reducible assumption | with_reducible apply Mod.originate_keeps hS.up

theorem Mod.errorAnswer_keeps {P : Mod → Prop} (hS : Stable 0x1000000 P) {m : Mod} (hm : P m) (die : Nat) (p : Pkt) (coh : Nat) (io : Nat) :
    P (Mod.errorAnswer m die p coh io) := by
  unfold Mod.errorAnswer
  try dsimp only
  repeat' first | with_reducible assumption | with_reducible apply Mod.answerPkt_keeps hS.up | with_reducible apply hS.ite | split

end Sys2Proof.Machine
end

