-- ==== Sys2Proof/Laws/KeepsLinkOps.lean ====
section
/-! SUPPORT. What each operation of LinkOps.lean can do: it keeps every property stable under the updates of its mask. -/
namespace Sys2Proof.Machine
set_option Elab.async false

theorem Mod.onLink_keeps {P : Mod → Prop} (hS : Stable 0x400 P) {m : Mod} (hm : P m) (n : Nat) (f : LinkSt → LinkSt) :
    P (Mod.onLink m n f) := by
  unfold Mod.onLink
  try dsimp only
  repeat' first | with_reducible assumption | with_reducible apply hS.onLk

theorem Mod.onLane_keeps {P : Mod → Prop} (hS : Stable 0x400000000 P) {m : Mod} (hm : P m) (l : Nat) (f : LaneSt → LaneSt) :
    P (Mod.onLane m l f) := by
  unfold Mod.onLane
  try dsimp only
  repeat' first | with_reducible assumption | with_reducible refine hS.onPhN ?_ (fun _ => by with_reducible_and_instances rfl)

theorem Mod.onCluster_keeps {P : Mod → Prop} (hS : Stable 0x100 P) {m : Mod} (hm : P m) (k : Nat) (f : ClusterSt → ClusterSt) :
    P (Mod.onCluster m k f) := by
  unfold Mod.onCluster
  try dsimp only
  repeat' first | with_reducible assumption | with_reducible apply hS.onPh

theorem Mod.onSearch_keeps {P : Mod → Prop} (hS : Stable 0x400000000 P) {m : Mod} (hm : P m) (n : Nat) (f : SearchSt → SearchSt) :
    P (Mod.onSearch m n f) := by
  unfold Mod.onSearch
  try dsimp only
  repeat' first | with_reducible assumption | with_reducible refine hS.onPhN ?_ (fun _ => by with_reducible_and_instances rfl)

theorem Mod.onLanes_keeps {P : Mod → Prop} (hS : Stable 0x400000000 P) {m : Mod} (hm : P m) (p : Nat) (f : LaneSt → LaneSt) :
    P (Mod.onLanes m p f) := by
  unfold Mod.onLanes
  try dsimp only
  repeat' first | with_reducible assumption | with_reducible apply Mod.onLane_keeps hS.up | with_reducible apply hS.each | split | intro _ _ hm

theorem Mod.endMargins_keeps {P : Mod → Prop} (hS : Stable 0x400000000 P) {m : Mod} (hm : P m) (ls : List Nat) : P (Mod.endMargins m ls) := by
  unfold Mod.endMargins
  try dsimp only
  repeat' first
    | with_reducible assumption
    | with_reducible apply Mod.onLane_keeps hS.up
    | with_reducible apply hS.each
    | intro _ _ hm

theorem Mod.linkObj_keeps {P : Mod → Prop} (hS : Stable 0x20000000 P) {m : Mod} (hm : P m) (n : Nat) (el : Nat) (k : Nat) :
    P (Mod.linkObj m n el k) := by
  unfold Mod.linkObj
  try dsimp only
  repeat' first | with_reducible assumption | with_reducible apply Mod.bump_keeps hS.up

theorem Mod.recordDirty_keeps {P : Mod → Prop} (hS : Stable 0x1000 P) {m : Mod} (hm : P m) :
    P (Mod.recordDirty m) := by
  unfold Mod.recordDirty
  try dsimp only
  repeat' first | with_reducible assumption | with_reducible apply hS.onRt

theorem Mod.adjEnds_keeps {P : Mod → Prop} (hS : Stable 0x1000 P) {m : Mod} (hm : P m) (n : Nat) : P (Mod.adjEnds m n) := by
  unfold Mod.adjEnds
  try dsimp only
  repeat' first
    | with_reducible assumption
    | with_reducible apply Mod.recordDirty_keeps hS.up
    | with_reducible apply hS.onRt
    | with_reducible apply hS.ite

theorem Mod.stopSearch_keeps {P : Mod → Prop} (hS : Stable 0x400000000 P) {m : Mod} (hm : P m) (n : Nat) :
    P (Mod.stopSearch m n) := by
  unfold Mod.stopSearch
  try dsimp only
  repeat' first | with_reducible assumption | with_reducible apply Mod.onSearch_keeps hS.up

theorem Mod.linkDown_keeps {P : Mod → Prop} (hS : Stable 0x46000140c P) {m : Mod} (hm : P m) (n : Nat) (cause : Nat) : P (Mod.linkDown m n cause) := by
  unfold Mod.linkDown
  try dsimp only
  repeat' first
    | with_reducible assumption
    | with_reducible apply Mod.adjEnds_keeps hS.up
    | with_reducible apply Mod.endMargins_keeps hS.up
    | with_reducible apply Mod.linkObj_keeps hS.up
    | with_reducible apply Mod.onLanes_keeps hS.up
    | with_reducible apply Mod.onLink_keeps hS.up
    | with_reducible apply Mod.raise_keeps hS.up
    | with_reducible apply Mod.stopSearch_keeps hS.up
    | with_reducible apply hS.ite

theorem Mod.startSearch_keeps {P : Mod → Prop} (hS : Stable 0x420000000 P) {m : Mod} (hm : P m) (n : Nat) : P (Mod.startSearch m n) := by
  unfold Mod.startSearch
  try dsimp only
  repeat' first
    | with_reducible assumption
    | with_reducible apply Mod.bump_keeps hS.up
    | with_reducible apply Mod.onLanes_keeps hS.up
    | with_reducible apply Mod.onSearch_keeps hS.up
    | with_reducible apply hS.ite

theorem Mod.linkRetrain_keeps {P : Mod → Prop} (hS : Stable 0x46000040c P) {m : Mod} (hm : P m) (n : Nat) (cause : Nat) : P (Mod.linkRetrain m n cause) := by
  unfold Mod.linkRetrain
  try dsimp only
  repeat' first
    | with_reducible assumption
    | with_reducible apply Mod.endMargins_keeps hS.up
    | with_reducible apply Mod.linkObj_keeps hS.up
    | with_reducible apply Mod.onLanes_keeps hS.up
    | with_reducible apply Mod.onLink_keeps hS.up
    | with_reducible apply Mod.raise_keeps hS.up
    | with_reducible apply Mod.startSearch_keeps hS.up
    | with_reducible apply hS.ite

theorem Mod.freeCredit_keeps {P : Mod → Prop} (hS : Stable 0x400 P) {m : Mod} (hm : P m) (n : Nat) (p : Pkt) :
    P (Mod.freeCredit m n p) := by
  unfold Mod.freeCredit
  try dsimp only
  repeat' first | with_reducible assumption | with_reducible apply Mod.onLink_keeps hS.up

theorem Mod.openClasses_keeps {P : Mod → Prop} (hS : Stable 0x400 P) {m : Mod} (hm : P m) (n : Nat) :
    P (Mod.openClasses m n) := by
  unfold Mod.openClasses
  try dsimp only
  repeat' first | with_reducible assumption | with_reducible apply Mod.onLink_keeps hS.up

theorem Mod.sendFlit_keeps {P : Mod → Prop} (hS : Stable 0x400000404 P) {m : Mod} (hm : P m) (n : Nat) (f : FlitForm) : P (Mod.sendFlit m n f) := by
  unfold Mod.sendFlit
  try dsimp only
  repeat' first
    | with_reducible assumption
    | with_reducible apply Mod.onLane_keeps hS.up
    | with_reducible apply Mod.onLink_keeps hS.up
    | with_reducible apply hS.emit
    | with_reducible apply hS.each
    | intro _ _ hm

theorem Mod.sendTraining_keeps {P : Mod → Prop} (hS : Stable 0x4 P) {m : Mod} (hm : P m) (n : Nat) : P (Mod.sendTraining m n) := by
  unfold Mod.sendTraining
  try dsimp only
  repeat' first | with_reducible assumption | with_reducible apply hS.emit

theorem Mod.sendControl_keeps {P : Mod → Prop} (hS : Stable 0x420000404 P) {m : Mod} (hm : P m) (n : Nat) (ctype : Nat) : P (Mod.sendControl m n ctype) := by
  unfold Mod.sendControl
  try dsimp only
  repeat' first
    | with_reducible assumption
    | with_reducible apply Mod.linkObj_keeps hS.up
    | with_reducible apply Mod.onLink_keeps hS.up
    | with_reducible apply Mod.openClasses_keeps hS.up
    | with_reducible apply Mod.sendFlit_keeps hS.up
    | with_reducible apply hS.emit
    | with_reducible apply hS.ite

theorem Mod.ackFrees_keeps {P : Mod → Prop} (hS : Stable 0x400 P) {m : Mod} (hm : P m) (n : Nat) (ack : Nat) :
    P (Mod.ackFrees m n ack) := by
  unfold Mod.ackFrees
  try dsimp only
  repeat' first | with_reducible assumption | with_reducible apply Mod.onLink_keeps hS.up | with_reducible apply hS.ite

theorem Mod.startReplay_keeps {P : Mod → Prop} (hS : Stable 0x46000141c P) {m : Mod} (hm : P m) (n : Nat) :
    P (Mod.startReplay m n) := by
  unfold Mod.startReplay
  try dsimp only
  repeat' first
    | with_reducible assumption
    | with_reducible apply Mod.linkRetrain_keeps hS.up
    | with_reducible apply Mod.linkDown_keeps hS.up
    | with_reducible apply Mod.linkObj_keeps hS.up
    | with_reducible apply Mod.onLink_keeps hS.up
    | with_reducible apply Mod.portCtr_keeps hS.up
    | with_reducible apply hS.ite
    | split

theorem Mod.fecFixed_keeps {P : Mod → Prop} (hS : Stable 0x20000010 P) {m : Mod} (hm : P m) (n : Nat) (fixed : Nat) :
    P (Mod.fecFixed m n fixed) := by
  unfold Mod.fecFixed
  try dsimp only
  repeat' first
    | with_reducible assumption
    | with_reducible apply Mod.linkObj_keeps hS.up
    | with_reducible apply Mod.portCtr_keeps hS.up
    | with_reducible apply hS.ite

theorem Mod.badFlit_keeps {P : Mod → Prop} (hS : Stable 0x400 P) {m : Mod} (hm : P m) (n : Nat) : P (Mod.badFlit m n) := by
  unfold Mod.badFlit
  try dsimp only
  repeat' first | with_reducible assumption | with_reducible apply Mod.onLink_keeps hS.up

theorem Mod.sendWords_keeps {P : Mod → Prop} (hS : Stable 0x400 P) {m : Mod} (hm : P m) (n : Nat) (p : Pkt) (ws : List Nat) (first : Bool) (last : Bool) : P (Mod.sendWords m n p ws first last) := by
  unfold Mod.sendWords
  try dsimp only
  repeat' first | with_reducible assumption | with_reducible apply Mod.onLink_keeps hS.up

theorem Mod.beginExit_keeps {P : Mod → Prop} (hS : Stable 0x404 P) {m : Mod} (hm : P m) (n : Nat) (wakes : Bool) : P (Mod.beginExit m n wakes) := by
  unfold Mod.beginExit
  try dsimp only
  repeat' first
    | with_reducible assumption
    | with_reducible apply Mod.onLink_keeps hS.up
    | with_reducible apply hS.emit
    | with_reducible apply hS.ite

theorem Mod.startExit_keeps {P : Mod → Prop} (hS : Stable 0x404 P) {m : Mod} (hm : P m) (n : Nat) : P (Mod.startExit m n) := by
  unfold Mod.startExit
  try dsimp only
  repeat' first
    | with_reducible assumption
    | with_reducible apply Mod.beginExit_keeps hS.up
    | with_reducible apply Mod.onLink_keeps hS.up
    | with_reducible apply hS.ite

theorem Mod.enterDormant_keeps {P : Mod → Prop} (hS : Stable 0x400001410 P) {m : Mod} (hm : P m) (n : Nat) : P (Mod.enterDormant m n) := by
  unfold Mod.enterDormant
  try dsimp only
  repeat' first
    | with_reducible assumption
    | with_reducible apply Mod.endMargins_keeps hS.up
    | with_reducible apply Mod.onLink_keeps hS.up
    | with_reducible apply Mod.portCtr_keeps hS.up
    | with_reducible apply Mod.recordDirty_keeps hS.up
    | with_reducible apply hS.when

theorem Mod.releaseHeld_keeps {P : Mod → Prop} (hS : Stable 0x23000004 P) {m : Mod} (hm : P m) (n : Nat) (sent : Bool) (p : Pkt) : P (Mod.releaseHeld m n sent p) := by
  unfold Mod.releaseHeld
  try dsimp only
  repeat' first
    | with_reducible assumption
    | with_reducible apply Mod.errorAnswer_keeps hS.up
    | with_reducible apply Mod.linkObj_keeps hS.up
    | with_reducible refine hS.onRtN ?_ (fun _ => by with_reducible_and_instances rfl)
    | with_reducible apply hS.emit
    | split

theorem Mod.dropEntry_keeps {P : Mod → Prop} (hS : Stable 0x1000880 P) {m : Mod} (hm : P m) (k : Nat) (e : QEnt) :
    P (Mod.dropEntry m k e) := by
  unfold Mod.dropEntry
  try dsimp only
  repeat' first
    | with_reducible assumption
    | with_reducible apply Mod.subShared_keeps hS.up
    | with_reducible apply Mod.freeCells_keeps hS.up
    | with_reducible apply hS.onSw
    | with_reducible apply hS.ite

theorem Mod.removeHeld_keeps {P : Mod → Prop} (hS : Stable 0x1000880 P) {m : Mod} (hm : P m) (id : Nat) :
    P (Mod.removeHeld m id) := by
  unfold Mod.removeHeld
  try dsimp only
  repeat' first
    | with_reducible assumption
    | with_reducible apply Mod.dropEntry_keeps hS.up
    | with_reducible apply Mod.freeCells_keeps hS.up
    | with_reducible apply Mod.setQueue_keeps hS.up
    | with_reducible refine hS.onSwN ?_ (fun _ => by with_reducible_and_instances rfl)
    | with_reducible apply hS.ite
    | with_reducible apply hS.each
    | with_reducible apply PairP.mk
    | split
    | intro _ _ hm

theorem Mod.linkRetire_keeps {P : Mod → Prop} (hS : Stable 0x463001c8c P) {m : Mod} (hm : P m) (n : Nat) (cause : Nat) : P (Mod.linkRetire m n cause) := by
  unfold Mod.linkRetire
  try dsimp only
  repeat' first
    | with_reducible assumption
    | with_reducible apply Mod.adjEnds_keeps hS.up
    | with_reducible apply Mod.dropEntry_keeps hS.up
    | with_reducible apply Mod.endMargins_keeps hS.up
    | with_reducible apply Mod.onLanes_keeps hS.up
    | with_reducible apply Mod.onLink_keeps hS.up
    | with_reducible apply Mod.raise_keeps hS.up
    | with_reducible apply Mod.releaseHeld_keeps hS.up
    | with_reducible apply Mod.removeHeld_keeps hS.up
    | with_reducible apply Mod.setQueue_keeps hS.up
    | with_reducible apply Mod.stopSearch_keeps hS.up
    | with_reducible refine hS.onSwN ?_ (fun _ => by with_reducible_and_instances rfl)
    | with_reducible apply hS.each
    | split
    | intro _ _ hm

end Sys2Proof.Machine
end

