-- ==== Sys2Proof/Laws/KeepsRouteOps.lean ====
section
/-! SUPPORT. What each operation of RouteOps.lean can do: it keeps every property stable under the updates of its mask. -/
namespace Sys2Proof.Machine
set_option Elab.async false

theorem Mod.sendNbr_keeps {P : Mod → Prop} (hS : Stable 0x1000404 P) {m : Mod} (hm : P m) (n : Nat) (type : Nat) (body : Nat) (data : List Nat) :
    P (Mod.sendNbr m n type body data) := by
  unfold Mod.sendNbr
  try dsimp only
  repeat' first
    | with_reducible assumption
    | with_reducible apply Mod.startExit_keeps hS.up
    | with_reducible refine hS.onSwN ?_ (fun _ => by with_reducible_and_instances rfl)

theorem Mod.sendRecord_keeps {P : Mod → Prop} (hS : Stable 0x1000404 P) {m : Mod} (hm : P m) (n : Nat) (r : LinkRecord) :
    P (Mod.sendRecord m n r) := by
  unfold Mod.sendRecord
  try dsimp only
  repeat' first | with_reducible assumption | with_reducible apply Mod.sendNbr_keeps hS.up

theorem Mod.flood_keeps {P : Mod → Prop} (hS : Stable 0x1000404 P) {m : Mod} (hm : P m) (r : LinkRecord) (from_ : Option Nat) :
    P (Mod.flood m r from_) := by
  unfold Mod.flood
  try dsimp only
  repeat' first | with_reducible assumption | with_reducible apply Mod.sendRecord_keeps hS.up | with_reducible apply hS.each | split | intro _ _ hm

theorem Mod.adjCheck_keeps {P : Mod → Prop} (hS : Stable 0x1001404 P) {m : Mod} (hm : P m) (n : Nat) :
    P (Mod.adjCheck m n) := by
  unfold Mod.adjCheck
  try dsimp only
  repeat' first
    | with_reducible assumption
    | with_reducible apply Mod.sendRecord_keeps hS.up
    | with_reducible apply hS.onRt
    | with_reducible apply hS.ite
    | with_reducible apply hS.each
    | with_reducible apply OptP.map
    | split
    | intro _ _ hm

theorem Mod.dbChanged_keeps {P : Mod → Prop} (hS : Stable 0x1000 P) {m : Mod} (hm : P m) :
    P (Mod.dbChanged m) := by
  unfold Mod.dbChanged
  try dsimp only
  repeat' first | with_reducible assumption | with_reducible apply hS.onRt

theorem Mod.routed_keeps {P : Mod → Prop} (hS : Stable 0x2000000 P) {m : Mod} (hm : P m) (die : Nat) (p : Pkt) (n : Nat) :
    P (Mod.routed m die p n) := by
  unfold Mod.routed
  try dsimp only
  repeat' first
    | with_reducible assumption
    | with_reducible refine hS.onRtN ?_ (fun _ => by with_reducible_and_instances rfl)
    | with_reducible apply hS.ite

theorem Mod.dropPkt_keeps {P : Mod → Prop} (hS : Stable 0x6300000c P) {m : Mod} (hm : P m) (die : Nat) (p : Pkt) :
    P (Mod.dropPkt m die p) := by
  unfold Mod.dropPkt
  try dsimp only
  repeat' first
    | with_reducible assumption
    | with_reducible apply Mod.errorAnswer_keeps hS.up
    | with_reducible apply Mod.raiseOnce_keeps hS.up
    | with_reducible apply Mod.bump_keeps hS.up
    | with_reducible refine hS.onRtN ?_ (fun _ => by with_reducible_and_instances rfl)
    | with_reducible apply hS.ite

theorem Mod.reflow_keeps {P : Mod → Prop} (hS : Stable 0x22000000 P) {m : Mod} (hm : P m) (dest : Nat) :
    PairP P (Mod.reflow m dest) := by
  unfold Mod.reflow
  try dsimp only
  repeat' first
    | with_reducible assumption
    | with_reducible apply Mod.bump_keeps hS.up
    | with_reducible refine hS.onRtN ?_ (fun _ => by with_reducible_and_instances rfl)
    | with_reducible apply PairP.ite
    | with_reducible apply hS.ite
    | with_reducible apply PairP.mk

theorem Mod.applyEntry_keeps {P : Mod → Prop} (hS : Stable 0x22000000 P) {m : Mod} (hm : P m) (dest : Nat) (e : Nat) :
    PairP P (Mod.applyEntry m dest e) := by
  unfold Mod.applyEntry
  try dsimp only
  repeat' first
    | with_reducible assumption
    | with_reducible apply Mod.reflow_keeps hS.up
    | with_reducible refine PairP.fst (Mod.reflow_keeps hS.up (hm := ?_) ..)
    | with_reducible apply Mod.bump_keeps hS.up
    | with_reducible apply Mod.setObj_keeps hS.up
    | with_reducible refine hS.onRtN ?_ (fun _ => by with_reducible_and_instances rfl)

theorem Mod.pruneKept_keeps {P : Mod → Prop} (hS : Stable 0x6200000c P) {m : Mod} (hm : P m) : P (Mod.pruneKept m) := by
  unfold Mod.pruneKept
  dsimp only
  have key : PairP P ((((m.rt.kept.filter fun x => (m.link x.2.1).st = .retired ∨ m.holdsFlows x.2.1 = false).map (·.1)).eraseDups.foldl
      (fun (x : Mod × Bool) d => ((x.1.reflow d).1, x.2 || (x.1.reflow d).2))
      (m.onRt fun b => { b with kept := b.kept.filter fun x => x ∉ m.rt.kept.filter fun x => (m.link x.2.1).st = .retired ∨ m.holdsFlows x.2.1 = false }, false))) := by
    refine PairP.foldl (PairP.mk (hS.onRtN hm (fun _ => rfl))) fun q x hq => ?_
    exact Mod.reflow_keeps hS.up hq x
  split
  · exact hm
  · split
    · exact Mod.raise_keeps hS.up key _
    · exact key

theorem Mod.carriageCheck_keeps {P : Mod → Prop} (hS : Stable 0x4000100c P) {m : Mod} (hm : P m) : P (Mod.carriageCheck m) := by
  unfold Mod.carriageCheck
  try dsimp only
  repeat' first
    | with_reducible assumption
    | with_reducible apply Mod.raise_keeps hS.up
    | with_reducible apply hS.onRt
    | split

theorem Mod.fillIdMap_keeps {P : Mod → Prop} (hS : Stable 0x6000000c P) {m : Mod} (hm : P m) : P (Mod.fillIdMap m) := by
  unfold Mod.fillIdMap
  try dsimp only
  repeat' first
    | with_reducible assumption
    | with_reducible apply Mod.raise_keeps hS.up
    | with_reducible apply Mod.setObj_keeps hS.up
    | with_reducible apply hS.ite
    | with_reducible apply hS.each
    | with_reducible apply OptP.map
    | split
    | intro _ _ hm
    | intro _ hm
    | intro _ _

theorem Mod.timeSelect_keeps {P : Mod → Prop} (hS : Stable 0x4000200c P) {m : Mod} (hm : P m) :
    P (Mod.timeSelect m) := by
  unfold Mod.timeSelect
  try dsimp only
  repeat' first
    | with_reducible assumption
    | with_reducible apply Mod.raise_keeps hS.up
    | with_reducible apply hS.onTi
    | with_reducible apply hS.ite
    | with_reducible apply OptP.getD
    | split

theorem Mod.dbUpdate_keeps {P : Mod → Prop} (hS : Stable 0x6000300c P) {m : Mod} (hm : P m) :
    P (Mod.dbUpdate m) := by
  unfold Mod.dbUpdate
  try dsimp only
  repeat' first
    | with_reducible assumption
    | with_reducible apply Mod.timeSelect_keeps hS.up
    | with_reducible apply Mod.fillIdMap_keeps hS.up
    | with_reducible apply Mod.carriageCheck_keeps hS.up
    | with_reducible apply Mod.dbChanged_keeps hS.up

theorem Mod.latchWindow_keeps {P : Mod → Prop} (hS : Stable 0x10 P) {m : Mod} (hm : P m) (t : Nat) :
    P (Mod.latchWindow m t) := by
  unfold Mod.latchWindow
  try dsimp only
  repeat' first | with_reducible assumption | with_reducible apply hS.onCn

theorem Mod.stepTime_keeps {P : Mod → Prop} (hS : Stable 0x6000201c P) {m : Mod} (hm : P m) (d : Int) :
    P (Mod.stepTime m d) := by
  unfold Mod.stepTime
  try dsimp only
  repeat' first
    | with_reducible assumption
    | with_reducible apply Mod.latchWindow_keeps hS.up
    | with_reducible apply Mod.raise_keeps hS.up
    | with_reducible apply Mod.count_keeps hS.up
    | with_reducible apply Mod.bump_keeps hS.up
    | with_reducible apply hS.onTi
    | with_reducible apply hS.ite

end Sys2Proof.Machine
end

