-- ==== Sys2Proof/Laws/KeepsProxyOps.lean ====
section
/-! SUPPORT. What each operation of ProxyOps.lean can do: it keeps every property stable under the updates of its mask. -/
namespace Sys2Proof.Machine
set_option Elab.async false

theorem Mod.sendProxy_keeps {P : Mod → Prop} (hS : Stable 0x21000000 P) {m : Mod} (hm : P m) (target : Nat) (msg : List Nat) :
    P (Mod.sendProxy m target msg) := by
  unfold Mod.sendProxy
  try dsimp only
  repeat' first
    | with_reducible assumption
    | with_reducible apply Mod.originate_keeps hS.up
    | with_reducible refine hS.onDiN ?_ (fun _ => by with_reducible_and_instances rfl)
    | with_reducible apply hS.each
    | split
    | intro _ _ hm

theorem Mod.firmwareSend_keeps {P : Mod → Prop} (hS : Stable 0x21000000 P) {m : Mod} (hm : P m) (target : Nat) (opcode : Nat) (oid : Nat) (val : Nat) (payload : List Nat) :
    P (Mod.firmwareSend m target opcode oid val payload) := by
  unfold Mod.firmwareSend
  try dsimp only
  repeat' first
    | with_reducible assumption
    | with_reducible apply Mod.sendProxy_keeps hS.up
    | with_reducible refine hS.onDiN ?_ (fun _ => by with_reducible_and_instances rfl)

theorem Mod.firmwareWrite_keeps {P : Mod → Prop} (hS : Stable 0x21000000 P) {m : Mod} (hm : P m) (target : Nat) (oid : Nat) (len : Nat) (val : Nat) :
    P (Mod.firmwareWrite m target oid len val) := by
  unfold Mod.firmwareWrite
  try dsimp only
  repeat' first | with_reducible assumption | with_reducible apply Mod.firmwareSend_keeps hS.up

theorem Mod.firmwareRead_keeps {P : Mod → Prop} (hS : Stable 0x21000000 P) {m : Mod} (hm : P m) (target : Nat) (oid : Nat) :
    P (Mod.firmwareRead m target oid) := by
  unfold Mod.firmwareRead
  try dsimp only
  repeat' first | with_reducible assumption | with_reducible apply Mod.firmwareSend_keeps hS.up

theorem Mod.firmwareDesc_keeps {P : Mod → Prop} (hS : Stable 0x21000000 P) {m : Mod} (hm : P m) (target : Nat) (desc : Nat) (items : List (Nat × Nat)) :
    P (Mod.firmwareDesc m target desc items) := by
  unfold Mod.firmwareDesc
  try dsimp only
  repeat' first | with_reducible assumption | with_reducible apply Mod.firmwareSend_keeps hS.up

theorem Mod.respond_keeps {P : Mod → Prop} (hS : Stable 0x21000004 P) {m : Mod} (hm : P m) (src : Source) (r : Resp) : P (Mod.respond m src r) := by
  unfold Mod.respond
  try dsimp only
  repeat' first
    | with_reducible assumption
    | with_reducible apply Mod.sendProxy_keeps hS.up
    | with_reducible apply hS.emit
    | split

theorem Mod.onDictWindow_keeps {P : Mod → Prop} (hS : Stable 0x4000 P) {m : Mod} (hm : P m) (k : Nat) (f : Window → Window) :
    P (Mod.onDictWindow m k f) := by
  unfold Mod.onDictWindow
  try dsimp only
  repeat' first | with_reducible assumption | with_reducible apply hS.onDi

theorem Mod.transportCtr_keeps {P : Mod → Prop} (hS : Stable 0x10 P) {m : Mod} (hm : P m) (src : Source) (k : Nat) : P (Mod.transportCtr m src k) := by
  unfold Mod.transportCtr
  try dsimp only
  repeat' first | with_reducible assumption | with_reducible apply Mod.hubCtr_keeps hS.up | split

theorem Mod.answer_keeps {P : Mod → Prop} (hS : Stable 0x21004014 P) {m : Mod} (hm : P m) (src : Source) (r : Resp) : P (Mod.answer m src r) := by
  unfold Mod.answer
  try dsimp only
  repeat' first
    | with_reducible assumption
    | with_reducible apply Mod.hubCtr_keeps hS.up
    | with_reducible apply Mod.onDictWindow_keeps hS.up
    | with_reducible apply Mod.respond_keeps hS.up
    | with_reducible apply Mod.transportCtr_keeps hS.up
    | with_reducible apply hS.onDi
    | with_reducible apply hS.ite
    | with_reducible apply OptP.map
    | split
    | intro _ _ hm
    | intro _ hm
    | intro _ _

end Sys2Proof.Machine
end

