-- ==== Sys2Proof/Laws/KeepsPoolOps.lean ====
section
/-! SUPPORT. What each operation of PoolOps.lean can do: it keeps every property stable under the updates of its mask. -/
namespace Sys2Proof.Machine
set_option Elab.async false

theorem Mod.setDesc_keeps {P : Mod → Prop} (hS : Stable 0x20000000 P) {m : Mod} (hm : P m) (w : Nat) (i : Nat) (v : Nat) :
    P (Mod.setDesc m w i v) := by
  unfold Mod.setDesc
  try dsimp only
  repeat' first | with_reducible assumption | with_reducible apply Mod.setFlash_keeps hS.up | with_reducible apply Mod.setObj_keeps hS.up

theorem Mod.setDState_keeps {P : Mod → Prop} (hS : Stable 0x20000000 P) {m : Mod} (hm : P m) (i : Nat) (st : Nat) :
    P (Mod.setDState m i st) := by
  unfold Mod.setDState
  try dsimp only
  repeat' first | with_reducible assumption | with_reducible apply Mod.setDesc_keeps hS.up

theorem Mod.backRead_keeps {P : Mod → Prop} (hS : Stable 0x4 P) {m : Mod} (hm : P m) (i : Nat) (off : Nat) :
    P (Mod.backRead m i off) := by
  unfold Mod.backRead
  try dsimp only
  repeat' first | with_reducible assumption | with_reducible apply hS.emit

theorem Mod.migMark_keeps {P : Mod → Prop} (hS : Stable 0x10000000 P) {m : Mod} (hm : P m) (i : Nat) (off : Nat) :
    P (Mod.migMark m i off) := by
  unfold Mod.migMark
  try dsimp only
  repeat' first
    | with_reducible assumption
    | with_reducible refine hS.onPoN ?_ (fun _ => by with_reducible_and_instances rfl)
    | with_reducible apply hS.ite
    | with_reducible apply OptP.map
    | with_reducible apply PairP.mk
    | split

theorem Mod.backWrite_keeps {P : Mod → Prop} (hS : Stable 0x10000004 P) {m : Mod} (hm : P m) (i : Nat) (off : Nat) (data : Nat) (poison : Bool) : P (Mod.backWrite m i off data poison) := by
  unfold Mod.backWrite
  try dsimp only
  repeat' first
    | with_reducible assumption
    | with_reducible apply Mod.migMark_keeps hS.up
    | with_reducible refine hS.onPoN ?_ (fun _ => by with_reducible_and_instances rfl)
    | with_reducible apply hS.emit
    | with_reducible apply hS.ite
    | with_reducible apply OptP.map
    | split
    | intro _ _ hm
    | intro _ hm
    | intro _ _

theorem Mod.onExt_keeps {P : Mod → Prop} (hS : Stable 0x10000000 P) {m : Mod} (hm : P m) (e : Nat) (f : ExtSt → ExtSt) :
    P (Mod.onExt m e f) := by
  unfold Mod.onExt
  try dsimp only
  repeat' first | with_reducible assumption | with_reducible refine hS.onPoN ?_ (fun _ => by with_reducible_and_instances rfl)

theorem Mod.setExt_keeps {P : Mod → Prop} (hS : Stable 0x20000000 P) {m : Mod} (hm : P m) (e : Nat) (v : Nat) :
    P (Mod.setExt m e v) := by
  unfold Mod.setExt
  try dsimp only
  repeat' first | with_reducible assumption | with_reducible apply Mod.setFlash_keeps hS.up | with_reducible apply Mod.setObj_keeps hS.up

theorem Mod.poisonParcel_keeps {P : Mod → Prop} (hS : Stable 0x6000000c P) {m : Mod} (hm : P m) (i : Nat) :
    P (Mod.poisonParcel m i) := by
  unfold Mod.poisonParcel
  try dsimp only
  repeat' first | with_reducible assumption | with_reducible apply Mod.setDState_keeps hS.up | with_reducible apply Mod.raise_keeps hS.up

theorem Mod.setBinds_keeps {P : Mod → Prop} (hS : Stable 0x20000000 P) {m : Mod} (hm : P m) (i : Nat) (n : Nat) :
    P (Mod.setBinds m i n) := by
  unfold Mod.setBinds
  try dsimp only
  repeat' first
    | with_reducible assumption
    | with_reducible apply Mod.setDState_keeps hS.up
    | with_reducible apply Mod.setDesc_keeps hS.up
    | with_reducible apply hS.ite

theorem Mod.copyToPartner_keeps {P : Mod → Prop} (hS : Stable 0x21040000 P) {m : Mod} (hm : P m) (i : Nat) :
    P (Mod.copyToPartner m i) := by
  unfold Mod.copyToPartner
  try dsimp only
  repeat' first
    | with_reducible assumption
    | with_reducible apply Mod.setDesc_keeps hS.up
    | with_reducible apply Mod.firmwareDesc_keeps hS.up
    | with_reducible apply Mod.firmwareWrite_keeps hS.up
    | with_reducible apply hS.onPo
    | with_reducible apply hS.ite

theorem Mod.cacheCount_keeps {P : Mod → Prop} (hS : Stable 0x20000000 P) {m : Mod} (hm : P m) (n : Nat) :
    P (Mod.cacheCount m n) := by
  unfold Mod.cacheCount
  try dsimp only
  repeat' first | with_reducible assumption | with_reducible apply Mod.bump_keeps hS.up

end Sys2Proof.Machine
end

