-- ==== Sys2Proof/Laws/KeepsCacheOps.lean ====
section
/-! SUPPORT. What each operation of CacheOps.lean can do: it keeps every property stable under the updates of its mask. -/
namespace Sys2Proof.Machine
set_option Elab.async false

theorem Mod.onLine_keeps {P : Mod → Prop} (hS : Stable 0x8000000 P) {m : Mod} (hm : P m) (l : Nat) (f : Line → Line) :
    P (Mod.onLine m l f) := by
  unfold Mod.onLine
  try dsimp only
  repeat' first | with_reducible assumption | with_reducible refine hS.onCaN ?_ (fun _ => by with_reducible_and_instances rfl)

theorem Mod.sendCoh_keeps {P : Mod → Prop} (hS : Stable 0x21000000 P) {m : Mod} (hm : P m) (blk : Block) (die : Nat) (k : MsgKind) (p : Pkt) (tenant : Nat) :
    P (Mod.sendCoh m blk die k p tenant) := by
  unfold Mod.sendCoh
  try dsimp only
  repeat' first | with_reducible assumption | with_reducible apply Mod.originate_keeps hS.up | with_reducible apply Mod.bump_keeps hS.up

theorem Mod.cohErr_keeps {P : Mod → Prop} (hS : Stable 0x6000000c P) {m : Mod} (hm : P m) (die : Nat) :
    P (Mod.cohErr m die) := by
  unfold Mod.cohErr
  try dsimp only
  repeat' first | with_reducible assumption | with_reducible apply Mod.raiseOnce_keeps hS.up | with_reducible apply Mod.bump_keeps hS.up

theorem Mod.setTxn_keeps {P : Mod → Prop} (hS : Stable 0x4000000 P) {m : Mod} (hm : P m) (d : Nat) (t : Txn) :
    P (Mod.setTxn m d t) := by
  unfold Mod.setTxn
  try dsimp only
  repeat' first | with_reducible assumption | with_reducible refine hS.onHoN ?_ (fun _ => by with_reducible_and_instances rfl)

theorem Mod.endTxn_keeps {P : Mod → Prop} (hS : Stable 0x4000000 P) {m : Mod} (hm : P m) (d : Nat) :
    P (Mod.endTxn m d) := by
  unfold Mod.endTxn
  try dsimp only
  repeat' first | with_reducible assumption | with_reducible refine hS.onHoN ?_ (fun _ => by with_reducible_and_instances rfl)

theorem Mod.setDent_keeps {P : Mod → Prop} (hS : Stable 0x4000000 P) {m : Mod} (hm : P m) (d : Nat) (e : DEnt) :
    P (Mod.setDent m d e) := by
  unfold Mod.setDent
  try dsimp only
  repeat' first | with_reducible assumption | with_reducible refine hS.onHoN ?_ (fun _ => by with_reducible_and_instances rfl)

theorem Mod.setHomeQueue_keeps {P : Mod → Prop} (hS : Stable 0x4000000 P) {m : Mod} (hm : P m) (d : Nat) (q : List HReq) :
    P (Mod.setHomeQueue m d q) := by
  unfold Mod.setHomeQueue
  try dsimp only
  repeat' first | with_reducible assumption | with_reducible refine hS.onHoN ?_ (fun _ => by with_reducible_and_instances rfl)

theorem freeKind5_keeps {P : Mod → Prop} (hS : Stable 0x1000010 P) {m : Mod} (hm : P m) (y0 : Option Nat) :
    P (freeKind5 m y0) := by
  unfold freeKind5
  try dsimp only
  repeat' first | with_reducible assumption | with_reducible apply Mod.freeTrk_keeps hS.up | split

theorem Mod.writeDent_keeps {P : Mod → Prop} (hS : Stable 0x4400000c P) {m : Mod} (hm : P m) (d : Nat) (slot : Option (Bool × Nat)) (e : DEnt) :
    P (Mod.writeDent m d slot e) := by
  unfold Mod.writeDent
  try dsimp only
  repeat' first
    | with_reducible assumption
    | with_reducible apply Mod.setDent_keeps hS.up
    | with_reducible apply Mod.raiseOnce_keeps hS.up
    | with_reducible apply hS.ite

theorem Mod.homeEnd_keeps {P : Mod → Prop} (hS : Stable 0x4500001c P) {m : Mod} (hm : P m) (d : Nat) (kept : Bool) :
    P (Mod.homeEnd m d kept) := by
  unfold Mod.homeEnd
  try dsimp only
  repeat' first
    | with_reducible assumption
    | with_reducible apply Mod.writeDent_keeps hS.up
    | with_reducible apply freeKind5_keeps hS.up
    | with_reducible apply Mod.endTxn_keeps hS.up
    | with_reducible apply hS.ite
    | split

theorem Mod.unitHit_keeps {P : Mod → Prop} (hS : Stable 0x10000000 P) {m : Mod} (hm : P m) (u : Nat) :
    P (Mod.unitHit m u) := by
  unfold Mod.unitHit
  try dsimp only
  repeat' first | with_reducible assumption | with_reducible refine hS.onPoN ?_ (fun _ => by with_reducible_and_instances rfl)

theorem Mod.enqueue_keeps {P : Mod → Prop} (hS : Stable 0x34000000 P) {m : Mod} (hm : P m) (d : Nat) (r : HReq) : P (Mod.enqueue m d r) := by
  unfold Mod.enqueue
  try dsimp only
  repeat' first
    | with_reducible assumption
    | with_reducible apply Mod.setHomeQueue_keeps hS.up
    | with_reducible apply Mod.setObj_keeps hS.up
    | with_reducible apply Mod.unitHit_keeps hS.up
    | with_reducible apply hS.when
    | intro _ _ hm
    | intro _ hm
    | intro _ _

theorem Mod.kind5_keeps {P : Mod → Prop} (hS : Stable 0x1000010 P) {m : Mod} (hm : P m) (port : Option Nat) (die : Nat) :
    OptPairP P (Mod.kind5 m port die) := by
  unfold Mod.kind5
  try dsimp only
  repeat' first
    | with_reducible assumption
    | with_reducible apply Mod.allocTrk_keeps hS.up
    | with_reducible apply Mod.dieCtr_keeps hS.up
    | with_reducible apply OptPairP.some
    | with_reducible apply PairP.mk
    | with_reducible apply OptP.map
    | with_reducible apply OptPairP.map
    | with_reducible exact OptPairP.none
    | refine OptPairP.get ?_ (by assumption)
    | refine OptPairP.fst ?_ (by assumption)
    | split
    | intro _ _ hm
    | intro _ hm

theorem Mod.sendHome_keeps {P : Mod → Prop} (hS : Stable 0x35000010 P) {m : Mod} (hm : P m) (l : Nat) (op : Tc0) (pref : Bool) (keep : Bool) (data : Nat) (poison : Bool) (port : Option Nat) (tenant : Nat) (blk : Block) : P (Mod.sendHome m l op pref keep data poison port tenant blk) := by
  unfold Mod.sendHome
  try dsimp only
  repeat' first
    | with_reducible assumption
    | with_reducible apply Mod.enqueue_keeps hS.up
    | with_reducible apply Mod.kind5_keeps hS.up
    | with_reducible apply Mod.sendCoh_keeps hS.up
    | with_reducible apply hS.ite
    | split
    | refine OptPairP.get ?_ (by assumption)
    | refine OptPairP.fst ?_ (by assumption)

theorem Mod.mediaEvent_keeps {P : Mod → Prop} (hS : Stable 0x6080000c P) {m : Mod} (hm : P m) (vcs : Nat) (dpa : Nat) :
    P (Mod.mediaEvent m vcs dpa) := by
  unfold Mod.mediaEvent
  try dsimp only
  repeat' first
    | with_reducible assumption
    | with_reducible apply Mod.hostEvent_keeps hS.up
    | with_reducible refine hS.onEdN ?_ (fun _ => by with_reducible_and_instances rfl)

theorem Mod.ackWrite_keeps {P : Mod → Prop} (hS : Stable 0x6190001c P) {m : Mod} (hm : P m) (err : Bool) (k : Nat) :
    P (Mod.ackWrite m err k) := by
  unfold Mod.ackWrite
  try dsimp only
  repeat' first
    | with_reducible assumption
    | with_reducible apply Mod.mediaEvent_keeps hS.up
    | with_reducible apply Mod.answerHost_keeps hS.up
    | with_reducible apply Mod.releaseOrphan_keeps hS.up
    | with_reducible apply Mod.freeTrk_keeps hS.up
    | with_reducible apply Mod.liveDone_keeps hS.up
    | with_reducible apply Mod.bump_keeps hS.up
    | with_reducible apply hS.ite
    | split

theorem Mod.memDone_keeps {P : Mod → Prop} (hS : Stable 0x6190001c P) {m : Mod} (hm : P m) (k : Nat) (code : Nat) (poison : Bool) (data : Nat) :
    P (Mod.memDone m k code poison data) := by
  unfold Mod.memDone
  try dsimp only
  repeat' first
    | with_reducible assumption
    | with_reducible apply Mod.ackWrite_keeps hS.up
    | with_reducible apply Mod.completeTo_keeps hS.up
    | with_reducible apply Mod.answerHost_keeps hS.up
    | with_reducible apply Mod.releaseOrphan_keeps hS.up
    | with_reducible apply Mod.freeTrk_keeps hS.up
    | with_reducible apply Mod.liveDone_keeps hS.up
    | with_reducible apply Mod.bump_keeps hS.up
    | with_reducible apply hS.onBr
    | with_reducible apply hS.ite
    | with_reducible apply hS.each
    | split
    | intro _ _ hm

theorem Mod.answerWho_keeps {P : Mod → Prop} (hS : Stable 0x6990001c P) {m : Mod} (hm : P m) (w : Who) (code : Nat) (poison : Bool) (data : Nat) :
    P (Mod.answerWho m w code poison data) := by
  unfold Mod.answerWho
  try dsimp only
  repeat' first
    | with_reducible assumption
    | with_reducible apply Mod.memDone_keeps hS.up
    | with_reducible apply Mod.answerHost_keeps hS.up
    | with_reducible apply Mod.originate_keeps hS.up
    | with_reducible apply Mod.liveDone_keeps hS.up
    | with_reducible refine hS.onCaN ?_ (fun _ => by with_reducible_and_instances rfl)
    | with_reducible apply hS.ite
    | split

theorem Mod.failAccess_keeps {P : Mod → Prop} (hS : Stable 0x6990001c P) {m : Mod} (hm : P m) (l : Nat) (a : Access) (code : Nat) :
    P (Mod.failAccess m l a code) := by
  unfold Mod.failAccess
  try dsimp only
  repeat' first
    | with_reducible assumption
    | with_reducible apply Mod.answerWho_keeps hS.up
    | with_reducible apply Mod.mediaEvent_keeps hS.up
    | with_reducible apply Mod.onLine_keeps hS.up
    | with_reducible apply Mod.liveDone_keeps hS.up
    | with_reducible refine hS.onCaN ?_ (fun _ => by with_reducible_and_instances rfl)
    | split

theorem Mod.takeWay_keeps {P : Mod → Prop} (hS : Stable 0x8000000 P) {m : Mod} (hm : P m) (l : Nat) : P (Mod.takeWay m l) := by
  unfold Mod.takeWay
  try dsimp only
  repeat' first
    | with_reducible assumption
    | with_reducible apply Mod.onLine_keeps hS.up
    | with_reducible apply hS.ite
    | with_reducible apply hS.each
    | split
    | intro _ _ hm
    | intro _ hm
    | intro _ _

theorem Mod.dropLine_keeps {P : Mod → Prop} (hS : Stable 0x8000000 P) {m : Mod} (hm : P m) (l : Nat) :
    P (Mod.dropLine m l) := by
  unfold Mod.dropLine
  try dsimp only
  repeat' first
    | with_reducible assumption
    | with_reducible apply Mod.takeWay_keeps hS.up
    | with_reducible apply Mod.onLine_keeps hS.up
    | with_reducible apply PairP.mk
    | split

theorem Mod.setFilt_keeps {P : Mod → Prop} (hS : Stable 0x800000 P) {m : Mod} (hm : P m) (l : Nat) (e : SfEnt) :
    P (Mod.setFilt m l e) := by
  unfold Mod.setFilt
  try dsimp only
  repeat' first | with_reducible assumption | with_reducible refine hS.onEdN ?_ (fun _ => by with_reducible_and_instances rfl)

theorem Mod.filtCtr_keeps {P : Mod → Prop} (hS : Stable 0x20000010 P) {m : Mod} (hm : P m) (l : Nat) (k : Nat) :
    P (Mod.filtCtr m l k) := by
  unfold Mod.filtCtr
  try dsimp only
  repeat' first
    | with_reducible assumption
    | with_reducible apply Mod.dieCtr_keeps hS.up
    | with_reducible apply Mod.bump_keeps hS.up
    | with_reducible apply hS.ite

theorem Mod.filtAfter_keeps {P : Mod → Prop} (hS : Stable 0x800000 P) {m : Mod} (hm : P m) (l : Nat) (p : Pend) :
    P (Mod.filtAfter m l p) := by
  unfold Mod.filtAfter
  try dsimp only
  repeat' first | with_reducible assumption | with_reducible apply Mod.setFilt_keeps hS.up | with_reducible apply hS.ite | split

theorem Mod.snoop_keeps {P : Mod → Prop} (hS : Stable 0x21800010 P) {m : Mod} (hm : P m) (l : Nat) (n : Nat) (k : SnpKind) :
    P (Mod.snoop m l n k) := by
  unfold Mod.snoop
  try dsimp only
  repeat' first
    | with_reducible assumption
    | with_reducible apply Mod.filtCtr_keeps hS.up
    | with_reducible apply Mod.sendSnoop_keeps hS.up
    | with_reducible apply Mod.portCtr_keeps hS.up
    | with_reducible refine hS.onEdN ?_ (fun _ => by with_reducible_and_instances rfl)
    | with_reducible apply hS.ite

theorem Mod.issue_keeps {P : Mod → Prop} (hS : Stable 0x7d00001c P) {m : Mod} (hm : P m) (l : Nat) (op : Tc0) (pref : Bool) (st : CSt) (a : Access) : P (Mod.issue m l op pref st a) := by
  unfold Mod.issue
  try dsimp only
  repeat' first
    | with_reducible assumption
    | with_reducible apply Mod.kind5_keeps hS.up
    | with_reducible apply Mod.onLine_keeps hS.up
    | with_reducible apply Mod.sendHome_keeps hS.up
    | with_reducible apply Mod.trkStall_keeps hS.up
    | with_reducible apply hS.ite
    | split
    | intro _ _ hm
    | intro _ hm
    | intro _ _
    | refine OptPairP.get ?_ (by assumption)
    | refine OptPairP.fst ?_ (by assumption)

theorem Mod.sendEvict_keeps {P : Mod → Prop} (hS : Stable 0x3d000010 P) {m : Mod} (hm : P m) (l : Nat) (op : Tc0) (st : CSt) (cap : Option Nat) : P (Mod.sendEvict m l op st cap) := by
  unfold Mod.sendEvict
  try dsimp only
  repeat' first
    | with_reducible assumption
    | with_reducible apply Mod.cacheCount_keeps hS.up
    | with_reducible apply Mod.kind5_keeps hS.up
    | with_reducible apply Mod.onLine_keeps hS.up
    | with_reducible apply Mod.sendHome_keeps hS.up
    | with_reducible apply hS.ite
    | split
    | intro _ _ hm
    | intro _ hm
    | intro _ _
    | refine OptPairP.get ?_ (by assumption)
    | refine OptPairP.fst ?_ (by assumption)

theorem Mod.writeThrough_keeps {P : Mod → Prop} (hS : Stable 0x3d000010 P) {m : Mod} (hm : P m) (l : Nat) (a : Option Access) : P (Mod.writeThrough m l a) := by
  unfold Mod.writeThrough
  try dsimp only
  repeat' first
    | with_reducible assumption
    | with_reducible apply Mod.kind5_keeps hS.up
    | with_reducible apply Mod.onLine_keeps hS.up
    | with_reducible apply Mod.sendHome_keeps hS.up
    | with_reducible apply hS.ite
    | with_reducible apply OptP.getD
    | split
    | intro _ _ hm
    | intro _ hm
    | intro _ _
    | refine OptPairP.get ?_ (by assumption)
    | refine OptPairP.fst ?_ (by assumption)

theorem Mod.sendCmp_keeps {P : Mod → Prop} (hS : Stable 0x6500001c P) {m : Mod} (hm : P m) (l : Nat) (kept : Bool) :
    P (Mod.sendCmp m l kept) := by
  unfold Mod.sendCmp
  try dsimp only
  repeat' first
    | with_reducible assumption
    | with_reducible apply Mod.homeEnd_keeps hS.up
    | with_reducible apply Mod.sendCoh_keeps hS.up
    | with_reducible apply hS.ite

theorem Mod.fill_keeps {P : Mod → Prop} (hS : Stable 0x28000000 P) {m : Mod} (hm : P m) (l : Nat) (st : CSt) :
    P (Mod.fill m l st) := by
  unfold Mod.fill
  try dsimp only
  repeat' first
    | with_reducible assumption
    | with_reducible apply Mod.takeWay_keeps hS.up
    | with_reducible apply Mod.onLine_keeps hS.up
    | with_reducible apply Mod.cacheCount_keeps hS.up

theorem Mod.complete_keeps {P : Mod → Prop} (hS : Stable 0x6d00001c P) {m : Mod} (hm : P m) (l : Nat) (kept : Bool) :
    P (Mod.complete m l kept) := by
  unfold Mod.complete
  try dsimp only
  repeat' first
    | with_reducible assumption
    | with_reducible apply Mod.sendCmp_keeps hS.up
    | with_reducible apply freeKind5_keeps hS.up
    | with_reducible apply Mod.onLine_keeps hS.up
    | with_reducible apply hS.ite

theorem Mod.ownCheck_keeps {P : Mod → Prop} (hS : Stable 0x7d00001c P) {m : Mod} (hm : P m) (l : Nat) (dataCame : Bool) :
    P (Mod.ownCheck m l dataCame) := by
  unfold Mod.ownCheck
  try dsimp only
  repeat' first
    | with_reducible assumption
    | with_reducible apply Mod.complete_keeps hS.up
    | with_reducible apply Mod.fill_keeps hS.up
    | with_reducible apply Mod.writeThrough_keeps hS.up
    | with_reducible apply Mod.onLine_keeps hS.up
    | with_reducible apply hS.ite

theorem Mod.releaseFwd_keeps {P : Mod → Prop} (hS : Stable 0x8000000 P) {m : Mod} (hm : P m) (l : Nat) :
    P (Mod.releaseFwd m l) := by
  unfold Mod.releaseFwd
  try dsimp only
  repeat' first | with_reducible assumption | with_reducible apply Mod.onLine_keeps hS.up | with_reducible apply hS.ite | split

theorem Mod.rxData__keeps {P : Mod → Prop} (hS : Stable 0x6d90001c P) {m : Mod} (hm : P m) (l : Nat) (fromHome : Bool) (kept : Bool) (data : Nat) (poison : Bool) :
    P (Mod.rxData_ m l fromHome kept data poison) := by
  unfold Mod.rxData_
  try dsimp only
  repeat' first
    | with_reducible assumption
    | with_reducible apply Mod.releaseFwd_keeps hS.up
    | with_reducible apply Mod.complete_keeps hS.up
    | with_reducible apply Mod.fill_keeps hS.up
    | with_reducible apply Mod.dropLine_keeps hS.up
    | with_reducible apply Mod.answerWho_keeps hS.up
    | with_reducible apply Mod.cohErr_keeps hS.up
    | with_reducible apply Mod.onLine_keeps hS.up
    | split

theorem Mod.rxOwned_keeps {P : Mod → Prop} (hS : Stable 0x7d00001c P) {m : Mod} (hm : P m) (l : Nat) (fromHome : Bool) (acks : Nat) (data : Nat) (poison : Bool) :
    P (Mod.rxOwned m l fromHome acks data poison) := by
  unfold Mod.rxOwned
  try dsimp only
  repeat' first
    | with_reducible assumption
    | with_reducible apply Mod.releaseFwd_keeps hS.up
    | with_reducible apply Mod.ownCheck_keeps hS.up
    | with_reducible apply Mod.complete_keeps hS.up
    | with_reducible apply Mod.fill_keeps hS.up
    | with_reducible apply Mod.cohErr_keeps hS.up
    | with_reducible apply Mod.onLine_keeps hS.up
    | split

theorem Mod.rxInvAck_keeps {P : Mod → Prop} (hS : Stable 0x7d00001c P) {m : Mod} (hm : P m) (l : Nat) :
    P (Mod.rxInvAck m l) := by
  unfold Mod.rxInvAck
  try dsimp only
  repeat' first
    | with_reducible assumption
    | with_reducible apply Mod.releaseFwd_keeps hS.up
    | with_reducible apply Mod.ownCheck_keeps hS.up
    | with_reducible apply Mod.cohErr_keeps hS.up
    | with_reducible apply Mod.onLine_keeps hS.up
    | split

theorem Mod.oneFewer_keeps {P : Mod → Prop} (hS : Stable 0x9000010 P) {m : Mod} (hm : P m) (l : Nat) (st : CSt) :
    P (Mod.oneFewer m l st) := by
  unfold Mod.oneFewer
  try dsimp only
  repeat' first
    | with_reducible assumption
    | with_reducible apply Mod.dropLine_keeps hS.up
    | with_reducible apply freeKind5_keeps hS.up
    | with_reducible apply Mod.onLine_keeps hS.up
    | with_reducible apply hS.ite

theorem Mod.throughDone_keeps {P : Mod → Prop} (hS : Stable 0x6990001c P) {m : Mod} (hm : P m) (l : Nat) (ok : Bool) (code : Nat) :
    P (Mod.throughDone m l ok code) := by
  unfold Mod.throughDone
  try dsimp only
  repeat' first
    | with_reducible assumption
    | with_reducible apply Mod.failAccess_keeps hS.up
    | with_reducible apply Mod.answerWho_keeps hS.up
    | with_reducible apply Mod.onLine_keeps hS.up
    | with_reducible apply hS.ite
    | split

theorem Mod.rxAck_keeps {P : Mod → Prop} (hS : Stable 0x7d90001c P) {m : Mod} (hm : P m) (l : Nat) (acks : Nat) :
    P (Mod.rxAck m l acks) := by
  unfold Mod.rxAck
  try dsimp only
  repeat' first
    | with_reducible assumption
    | with_reducible apply Mod.throughDone_keeps hS.up
    | with_reducible apply Mod.oneFewer_keeps hS.up
    | with_reducible apply Mod.releaseFwd_keeps hS.up
    | with_reducible apply Mod.ownCheck_keeps hS.up
    | with_reducible apply Mod.dropLine_keeps hS.up
    | with_reducible apply freeKind5_keeps hS.up
    | with_reducible apply Mod.cohErr_keeps hS.up
    | with_reducible apply Mod.onLine_keeps hS.up
    | split

theorem Mod.evictFailed_keeps {P : Mod → Prop} (hS : Stable 0x4900001c P) {m : Mod} (hm : P m) (l : Nat) (st : CSt) :
    P (Mod.evictFailed m l st) := by
  unfold Mod.evictFailed
  try dsimp only
  repeat' first
    | with_reducible assumption
    | with_reducible apply Mod.takeWay_keeps hS.up
    | with_reducible apply freeKind5_keeps hS.up
    | with_reducible apply Mod.onLine_keeps hS.up
    | with_reducible apply Mod.raiseOnce_keeps hS.up
    | with_reducible apply PairP.mk
    | split

theorem Mod.requestFailed_keeps {P : Mod → Prop} (hS : Stable 0x6990001c P) {m : Mod} (hm : P m) (l : Nat) (code : Nat) :
    P (Mod.requestFailed m l code) := by
  unfold Mod.requestFailed
  try dsimp only
  repeat' first
    | with_reducible assumption
    | with_reducible apply Mod.dropLine_keeps hS.up
    | with_reducible apply Mod.failAccess_keeps hS.up
    | with_reducible apply freeKind5_keeps hS.up
    | with_reducible apply Mod.onLine_keeps hS.up
    | split

theorem Mod.rxAckErr_keeps {P : Mod → Prop} (hS : Stable 0x7d90001c P) {m : Mod} (hm : P m) (l : Nat) (code : Nat) : P (Mod.rxAckErr m l code) := by
  unfold Mod.rxAckErr
  try dsimp only
  repeat' first
    | with_reducible assumption
    | with_reducible apply Mod.cohErr_keeps hS.up
    | with_reducible apply Mod.evictFailed_keeps hS.up
    | with_reducible apply Mod.failAccess_keeps hS.up
    | with_reducible apply Mod.onLine_keeps hS.up
    | with_reducible apply Mod.oneFewer_keeps hS.up
    | with_reducible apply Mod.releaseFwd_keeps hS.up
    | with_reducible apply Mod.requestFailed_keeps hS.up
    | with_reducible apply Mod.sendEvict_keeps hS.up
    | with_reducible apply Mod.throughDone_keeps hS.up
    | with_reducible apply freeKind5_keeps hS.up
    | split
    | intro _ _ hm
    | intro _ hm
    | intro _ _

theorem Mod.ansShared_keeps {P : Mod → Prop} (hS : Stable 0x29000000 P) {m : Mod} (hm : P m) (l : Nat) (req : Nat) (kept : Bool) (st : CSt) :
    P (Mod.ansShared m l req kept st) := by
  unfold Mod.ansShared
  try dsimp only
  repeat' first | with_reducible assumption | with_reducible apply Mod.sendCoh_keeps hS.up | with_reducible apply Mod.onLine_keeps hS.up

theorem Mod.ansOwned_keeps {P : Mod → Prop} (hS : Stable 0x29000000 P) {m : Mod} (hm : P m) (l : Nat) (req : Nat) (acks : Nat) (st : CSt) :
    P (Mod.ansOwned m l req acks st) := by
  unfold Mod.ansOwned
  try dsimp only
  repeat' first
    | with_reducible assumption
    | with_reducible apply Mod.dropLine_keeps hS.up
    | with_reducible apply Mod.sendCoh_keeps hS.up
    | with_reducible apply Mod.onLine_keeps hS.up
    | with_reducible apply hS.ite

theorem Mod.ansInv_keeps {P : Mod → Prop} (hS : Stable 0x29000000 P) {m : Mod} (hm : P m) (l : Nat) (req : Nat) (st : CSt) :
    P (Mod.ansInv m l req st) := by
  unfold Mod.ansInv
  try dsimp only
  repeat' first
    | with_reducible assumption
    | with_reducible apply Mod.dropLine_keeps hS.up
    | with_reducible apply Mod.sendCoh_keeps hS.up
    | with_reducible apply Mod.onLine_keeps hS.up
    | with_reducible apply hS.ite

theorem Mod.doFwdShared_keeps {P : Mod → Prop} (hS : Stable 0x6900000c P) {m : Mod} (hm : P m) (l : Nat) (req : Nat) :
    P (Mod.doFwdShared m l req) := by
  unfold Mod.doFwdShared
  try dsimp only
  repeat' first
    | with_reducible assumption
    | with_reducible apply Mod.ansShared_keeps hS.up
    | with_reducible apply Mod.cohErr_keeps hS.up
    | with_reducible apply Mod.onLine_keeps hS.up
    | split

theorem Mod.doFwdOwn_keeps {P : Mod → Prop} (hS : Stable 0x7d00001c P) {m : Mod} (hm : P m) (l : Nat) (req : Nat) (acks : Nat) :
    P (Mod.doFwdOwn m l req acks) := by
  unfold Mod.doFwdOwn
  try dsimp only
  repeat' first
    | with_reducible assumption
    | with_reducible apply Mod.ansOwned_keeps hS.up
    | with_reducible apply Mod.ownCheck_keeps hS.up
    | with_reducible apply Mod.cohErr_keeps hS.up
    | with_reducible apply Mod.onLine_keeps hS.up
    | with_reducible apply hS.ite
    | split

theorem Mod.doInv_keeps {P : Mod → Prop} (hS : Stable 0x6900000c P) {m : Mod} (hm : P m) (l : Nat) (req : Nat) :
    P (Mod.doInv m l req) := by
  unfold Mod.doInv
  try dsimp only
  repeat' first
    | with_reducible assumption
    | with_reducible apply Mod.ansInv_keeps hS.up
    | with_reducible apply Mod.ansOwned_keeps hS.up
    | with_reducible apply Mod.cohErr_keeps hS.up
    | with_reducible apply hS.ite
    | split

theorem Mod.doMsg_keeps {P : Mod → Prop} (hS : Stable 0x7d00001c P) {m : Mod} (hm : P m) (l : Nat) (op : Nat) (req : Nat) (acks : Nat) :
    P (Mod.doMsg m l op req acks) := by
  unfold Mod.doMsg
  try dsimp only
  repeat' first
    | with_reducible assumption
    | with_reducible apply Mod.doInv_keeps hS.up
    | with_reducible apply Mod.doFwdOwn_keeps hS.up
    | with_reducible apply Mod.doFwdShared_keeps hS.up
    | with_reducible apply hS.ite

theorem Mod.doEvict_keeps {P : Mod → Prop} (hS : Stable 0x3d000010 P) {m : Mod} (hm : P m) (l : Nat) (w : Why) : P (Mod.doEvict m l w) := by
  unfold Mod.doEvict
  try dsimp only
  repeat' first
    | with_reducible assumption
    | with_reducible apply Mod.dropLine_keeps hS.up
    | with_reducible apply Mod.onLine_keeps hS.up
    | with_reducible apply Mod.sendEvict_keeps hS.up
    | with_reducible apply hS.ite
    | split
    | intro _ _ hm
    | intro _ hm
    | intro _ _

end Sys2Proof.Machine
end

