-- ==== Sys2Proof/Laws/KeepsHomeOps.lean ====
section
/-! SUPPORT. What each operation of HomeOps.lean can do: it keeps every property stable under the updates of its mask. -/
namespace Sys2Proof.Machine
set_option Elab.async false

theorem Mod.sliceCtr_keeps {P : Mod → Prop} (hS : Stable 0x10 P) {m : Mod} (hm : P m) (d : Nat) (k : Nat) :
    P (Mod.sliceCtr m d k) := by
  unfold Mod.sliceCtr
  try dsimp only
  repeat' first | with_reducible assumption | with_reducible apply Mod.dieCtr_keeps hS.up

theorem Mod.ledgerLook_keeps {P : Mod → Prop} (hS : Stable 0x10000010 P) {m : Mod} (hm : P m) (d : Nat) : P (Mod.ledgerLook m d) := by
  unfold Mod.ledgerLook
  try dsimp only
  repeat' first
    | with_reducible assumption
    | with_reducible apply Mod.chCtr_keeps hS.up
    | with_reducible apply Mod.sliceCtr_keeps hS.up
    | with_reducible apply Mod.unitHit_keeps hS.up

theorem Mod.lookup_keeps {P : Mod → Prop} (hS : Stable 0x34000010 P) {m : Mod} (hm : P m) (d : Nat) :
    P (Mod.lookup m d) := by
  unfold Mod.lookup
  try dsimp only
  repeat' first
    | with_reducible assumption
    | with_reducible apply Mod.sliceCtr_keeps hS.up
    | with_reducible apply Mod.ledgerLook_keeps hS.up
    | with_reducible apply Mod.setDent_keeps hS.up
    | with_reducible apply Mod.bump_keeps hS.up
    | with_reducible apply hS.ite

theorem Mod.onTxn_keeps {P : Mod → Prop} (hS : Stable 0x4000000 P) {m : Mod} (hm : P m) (d : Nat) (f : Txn → Txn) :
    P (Mod.onTxn m d f) := by
  unfold Mod.onTxn
  try dsimp only
  repeat' first | with_reducible assumption | with_reducible apply Mod.setTxn_keeps hS.up | split

theorem Mod.sendHomeMsg_keeps {P : Mod → Prop} (hS : Stable 0x21000000 P) {m : Mod} (hm : P m) (d : Nat) (k : MsgKind) (p : Pkt) :
    P (Mod.sendHomeMsg m d k p) := by
  unfold Mod.sendHomeMsg
  try dsimp only
  repeat' first | with_reducible assumption | with_reducible apply Mod.sendCoh_keeps hS.up

theorem Mod.homeError_keeps {P : Mod → Prop} (hS : Stable 0x7d90001c P) {m : Mod} (hm : P m) (d : Nat) (r : HReq) (code : Nat) :
    P (Mod.homeError m d r code) := by
  unfold Mod.homeError
  try dsimp only
  repeat' first
    | with_reducible assumption
    | with_reducible apply Mod.sendHomeMsg_keeps hS.up
    | with_reducible apply Mod.rxAckErr_keeps hS.up
    | with_reducible apply Mod.answerWho_keeps hS.up
    | with_reducible apply freeKind5_keeps hS.up
    | with_reducible apply Mod.raiseOnce_keeps hS.up
    | with_reducible apply hS.ite
    | with_reducible apply hS.when

theorem Mod.evictAck_keeps {P : Mod → Prop} (hS : Stable 0x7d90001c P) {m : Mod} (hm : P m) (d : Nat) (r : HReq) :
    P (Mod.evictAck m d r) := by
  unfold Mod.evictAck
  try dsimp only
  repeat' first
    | with_reducible assumption
    | with_reducible apply Mod.sendHomeMsg_keeps hS.up
    | with_reducible apply Mod.rxAck_keeps hS.up
    | with_reducible apply hS.ite

theorem Mod.homeGrant_keeps {P : Mod → Prop} (hS : Stable 0x7d90001c P) {m : Mod} (hm : P m) (d : Nat) (data : Nat) (poison : Bool) (kept : Bool) :
    P (Mod.homeGrant m d data poison kept) := by
  unfold Mod.homeGrant
  try dsimp only
  repeat' first
    | with_reducible assumption
    | with_reducible apply Mod.sendHomeMsg_keeps hS.up
    | with_reducible apply Mod.rxAck_keeps hS.up
    | with_reducible apply Mod.rxOwned_keeps hS.up
    | with_reducible apply Mod.rxData__keeps hS.up
    | with_reducible apply Mod.homeEnd_keeps hS.up
    | with_reducible apply Mod.setTxn_keeps hS.up
    | with_reducible apply hS.ite
    | split

theorem Mod.takeToken_keeps {P : Mod → Prop} (hS : Stable 0x24000000 P) {m : Mod} (hm : P m) (die : Nat) :
    P (Mod.takeToken m die) := by
  unfold Mod.takeToken
  try dsimp only
  repeat' first
    | with_reducible assumption
    | with_reducible apply Mod.bump_keeps hS.up
    | with_reducible refine hS.onHoN ?_ (fun _ => by with_reducible_and_instances rfl)

theorem Mod.homeGo_keeps {P : Mod → Prop} (hS : Stable 0x7d90001c P) {m : Mod} (hm : P m) (d : Nat) :
    P (Mod.homeGo m d) := by
  unfold Mod.homeGo
  try dsimp only
  repeat' first
    | with_reducible assumption
    | with_reducible apply Mod.homeGrant_keeps hS.up
    | with_reducible apply Mod.sendHomeMsg_keeps hS.up
    | with_reducible apply Mod.setTxn_keeps hS.up
    | with_reducible apply Mod.backRead_keeps hS.up
    | with_reducible apply Mod.originateMulti_keeps hS.up
    | with_reducible apply Mod.bump_keeps hS.up
    | with_reducible apply hS.ite
    | with_reducible apply hS.each
    | split
    | intro _ _ hm

theorem Mod.homeSend_keeps {P : Mod → Prop} (hS : Stable 0x7d90001c P) {m : Mod} (hm : P m) (d : Nat) :
    P (Mod.homeSend m d) := by
  unfold Mod.homeSend
  try dsimp only
  repeat' first
    | with_reducible assumption
    | with_reducible apply Mod.homeGo_keeps hS.up
    | with_reducible apply Mod.takeToken_keeps hS.up
    | with_reducible apply Mod.onTxn_keeps hS.up
    | with_reducible apply Mod.raiseOnce_keeps hS.up
    | with_reducible apply Mod.bump_keeps hS.up
    | with_reducible refine hS.onHoN ?_ (fun _ => by with_reducible_and_instances rfl)
    | with_reducible apply hS.ite
    | with_reducible apply PairP.mk
    | split

theorem Mod.homePlan_keeps {P : Mod → Prop} (hS : Stable 0x7d90001c P) {m : Mod} (hm : P m) (d : Nat) (t : Txn) :
    P (Mod.homePlan m d t) := by
  unfold Mod.homePlan
  try dsimp only
  repeat' first
    | with_reducible assumption
    | with_reducible apply Mod.homeSend_keeps hS.up
    | with_reducible apply Mod.setTxn_keeps hS.up
    | with_reducible apply Mod.onLine_keeps hS.up
    | with_reducible apply hS.ite
    | split

theorem Mod.setOwn_keeps {P : Mod → Prop} (hS : Stable 0x8000000 P) {m : Mod} (hm : P m) (l : Nat) (st : CSt) :
    P (Mod.setOwn m l st) := by
  unfold Mod.setOwn
  try dsimp only
  repeat' first
    | with_reducible assumption
    | with_reducible apply Mod.dropLine_keeps hS.up
    | with_reducible apply Mod.onLine_keeps hS.up
    | with_reducible apply hS.ite

theorem Mod.recallDone_keeps {P : Mod → Prop} (hS : Stable 0x5000010 P) {m : Mod} (hm : P m) (d : Nat) : P (Mod.recallDone m d) := by
  unfold Mod.recallDone
  try dsimp only
  repeat' first
    | with_reducible assumption
    | with_reducible apply Mod.endTxn_keeps hS.up
    | with_reducible apply Mod.setDent_keeps hS.up
    | with_reducible apply Mod.setTxn_keeps hS.up
    | with_reducible apply freeKind5_keeps hS.up
    | split

theorem Mod.homeLocal_keeps {P : Mod → Prop} (hS : Stable 0x7d90001c P) {m : Mod} (hm : P m) (d : Nat) (op : Nat) :
    P (Mod.homeLocal m d op) := by
  unfold Mod.homeLocal
  try dsimp only
  repeat' first
    | with_reducible assumption
    | with_reducible apply Mod.recallDone_keeps hS.up
    | with_reducible apply Mod.setOwn_keeps hS.up
    | with_reducible apply Mod.homeSend_keeps hS.up
    | with_reducible apply Mod.setTxn_keeps hS.up
    | with_reducible apply Mod.backWrite_keeps hS.up
    | with_reducible apply hS.ite
    | with_reducible apply OptP.getD
    | split

theorem Mod.recallAnswer_keeps {P : Mod → Prop} (hS : Stable 0x15000014 P) {m : Mod} (hm : P m) (d : Nat) (data : Option (Nat × Bool)) :
    P (Mod.recallAnswer m d data) := by
  unfold Mod.recallAnswer
  try dsimp only
  repeat' first
    | with_reducible assumption
    | with_reducible apply Mod.recallDone_keeps hS.up
    | with_reducible apply Mod.setTxn_keeps hS.up
    | with_reducible apply Mod.backWrite_keeps hS.up
    | with_reducible apply hS.ite
    | split

theorem Mod.recallWith_keeps {P : Mod → Prop} (hS : Stable 0x7d90001c P) {m : Mod} (hm : P m) (d : Nat) (req : Option HReq) (known : Bool) (discard : Bool) (trk : Option Nat) : P (Mod.recallWith m d req known discard trk) := by
  unfold Mod.recallWith
  try dsimp only
  repeat' first
    | with_reducible assumption
    | with_reducible apply Mod.bump_keeps hS.up
    | with_reducible apply Mod.homeSend_keeps hS.up
    | with_reducible apply Mod.onLine_keeps hS.up
    | with_reducible apply Mod.recallDone_keeps hS.up
    | with_reducible apply Mod.setTxn_keeps hS.up
    | with_reducible apply Mod.sliceCtr_keeps hS.up
    | with_reducible apply hS.ite
    | intro _ _ hm
    | intro _ hm
    | intro _ _

theorem Mod.recallOwn_keeps {P : Mod → Prop} (hS : Stable 0x7d90001c P) {m : Mod} (hm : P m) (d : Nat) (known : Bool) (discard : Bool) : P (Mod.recallOwn m d known discard) := by
  unfold Mod.recallOwn
  try dsimp only
  repeat' first
    | with_reducible assumption
    | with_reducible apply Mod.kind5_keeps hS.up
    | with_reducible apply Mod.recallWith_keeps hS.up
    | split
    | refine OptPairP.get ?_ (by assumption)
    | refine OptPairP.fst ?_ (by assumption)

theorem Mod.recall_keeps {P : Mod → Prop} (hS : Stable 0x7d90001c P) {m : Mod} (hm : P m) (d : Nat) (req : Option HReq) (known : Bool) (discard : Bool) : P (Mod.recall m d req known discard) := by
  unfold Mod.recall
  try dsimp only
  repeat' first | with_reducible assumption | with_reducible apply Mod.recallWith_keeps hS.up

theorem Mod.homeUc_keeps {P : Mod → Prop} (hS : Stable 0x14000004 P) {m : Mod} (hm : P m) (d : Nat) (t : Txn) (r : HReq) :
    P (Mod.homeUc m d t r) := by
  unfold Mod.homeUc
  try dsimp only
  repeat' first
    | with_reducible assumption
    | with_reducible apply Mod.setTxn_keeps hS.up
    | with_reducible apply Mod.backWrite_keeps hS.up
    | with_reducible apply Mod.backRead_keeps hS.up
    | with_reducible apply hS.ite
    | split

theorem Mod.homeWrite_keeps {P : Mod → Prop} (hS : Stable 0x14000004 P) {m : Mod} (hm : P m) (d : Nat) (r : HReq) (slot : Option (Bool × Nat)) (next : DEnt) :
    P (Mod.homeWrite m d r slot next) := by
  unfold Mod.homeWrite
  try dsimp only
  repeat' first | with_reducible assumption | with_reducible apply Mod.setTxn_keeps hS.up | with_reducible apply Mod.backWrite_keeps hS.up

theorem Mod.homeStale_keeps {P : Mod → Prop} (hS : Stable 0x7d90001c P) {m : Mod} (hm : P m) (d : Nat) (r : HReq) :
    P (Mod.homeStale m d r) := by
  unfold Mod.homeStale
  try dsimp only
  repeat' first
    | with_reducible assumption
    | with_reducible apply Mod.evictAck_keeps hS.up
    | with_reducible apply freeKind5_keeps hS.up
    | with_reducible apply Mod.setDent_keeps hS.up
    | with_reducible apply Mod.endTxn_keeps hS.up
    | with_reducible apply Mod.raise_keeps hS.up
    | with_reducible apply Mod.bump_keeps hS.up
    | with_reducible apply hS.ite

theorem Mod.homeEvicted_keeps {P : Mod → Prop} (hS : Stable 0x7d90001c P) {m : Mod} (hm : P m) (d : Nat) (r : HReq) (e : DEnt) :
    P (Mod.homeEvicted m d r e) := by
  unfold Mod.homeEvicted
  try dsimp only
  repeat' first
    | with_reducible assumption
    | with_reducible apply Mod.evictAck_keeps hS.up
    | with_reducible apply freeKind5_keeps hS.up
    | with_reducible apply Mod.setDent_keeps hS.up
    | with_reducible apply Mod.endTxn_keeps hS.up

theorem Mod.homeAct_keeps {P : Mod → Prop} (hS : Stable 0x7d90001c P) {m : Mod} (hm : P m) (d : Nat) : P (Mod.homeAct m d) := by
  unfold Mod.homeAct
  try dsimp only
  repeat' first
    | with_reducible assumption
    | with_reducible apply Mod.backWrite_keeps hS.up
    | with_reducible apply Mod.bump_keeps hS.up
    | with_reducible apply Mod.homeEvicted_keeps hS.up
    | with_reducible apply Mod.homePlan_keeps hS.up
    | with_reducible apply Mod.homeStale_keeps hS.up
    | with_reducible apply Mod.homeUc_keeps hS.up
    | with_reducible apply Mod.homeWrite_keeps hS.up
    | with_reducible apply Mod.raise_keeps hS.up
    | with_reducible apply Mod.recall_keeps hS.up
    | with_reducible apply Mod.setDent_keeps hS.up
    | with_reducible apply hS.ite
    | with_reducible apply hS.when
    | split
    | intro _ _ hm
    | intro _ hm
    | intro _ _

theorem Mod.forwardReq_keeps {P : Mod → Prop} (hS : Stable 0x21000010 P) {m : Mod} (hm : P m) (d : Nat) (r : HReq) :
    P (Mod.forwardReq m d r) := by
  unfold Mod.forwardReq
  try dsimp only
  repeat' first | with_reducible assumption | with_reducible apply Mod.sendHomeMsg_keeps hS.up | with_reducible apply freeKind5_keeps hS.up

theorem Mod.forwardUc_keeps {P : Mod → Prop} (hS : Stable 0x1000010 P) {m : Mod} (hm : P m) (d : Nat) (r : HReq) (sw : Nat) (tid : Nat) :
    P (Mod.forwardUc m d r sw tid) := by
  unfold Mod.forwardUc
  try dsimp only
  repeat' first | with_reducible assumption | with_reducible apply freeKind5_keeps hS.up | with_reducible apply Mod.originate_keeps hS.up

theorem Mod.scrubEntry_keeps {P : Mod → Prop} (hS : Stable 0x7d90001c P) {m : Mod} (hm : P m) (lost : Nat) (d : Nat) : P (Mod.scrubEntry m lost d) := by
  unfold Mod.scrubEntry
  try dsimp only
  repeat' first
    | with_reducible assumption
    | with_reducible apply Mod.backWrite_keeps hS.up
    | with_reducible apply Mod.homeEnd_keeps hS.up
    | with_reducible apply Mod.onTxn_keeps hS.up
    | with_reducible apply Mod.recallAnswer_keeps hS.up
    | with_reducible apply Mod.recallOwn_keeps hS.up
    | with_reducible apply Mod.sendHomeMsg_keeps hS.up
    | with_reducible apply Mod.setDent_keeps hS.up
    | with_reducible apply hS.ite
    | split
    | intro _ _ hm
    | intro _ hm
    | intro _ _

theorem Mod.homeStart_keeps {P : Mod → Prop} (hS : Stable 0x7d90001c P) {m : Mod} (hm : P m) (d : Nat) : P (Mod.homeStart m d) := by
  unfold Mod.homeStart
  try dsimp only
  repeat' first
    | with_reducible assumption
    | with_reducible apply Mod.cacheCount_keeps hS.up
    | with_reducible apply Mod.evictAck_keeps hS.up
    | with_reducible apply Mod.forwardReq_keeps hS.up
    | with_reducible apply Mod.forwardUc_keeps hS.up
    | with_reducible apply Mod.homeAct_keeps hS.up
    | with_reducible apply Mod.homeError_keeps hS.up
    | with_reducible apply Mod.homeWrite_keeps hS.up
    | with_reducible apply Mod.lookup_keeps hS.up
    | with_reducible apply Mod.scrubEntry_keeps hS.up
    | with_reducible apply Mod.setHomeQueue_keeps hS.up
    | with_reducible apply Mod.setTxn_keeps hS.up
    | with_reducible apply freeKind5_keeps hS.up
    | with_reducible apply hS.when
    | with_reducible apply hS.each
    | split
    | intro _ _ hm

theorem Mod.homeReady_keeps {P : Mod → Prop} (hS : Stable 0x7d90001c P) {m : Mod} (hm : P m) (d : Nat) :
    P (Mod.homeReady m d) := by
  unfold Mod.homeReady
  try dsimp only
  repeat' first
    | with_reducible assumption
    | with_reducible apply Mod.homeAct_keeps hS.up
    | with_reducible apply Mod.homeEvicted_keeps hS.up
    | with_reducible apply Mod.homeWrite_keeps hS.up
    | with_reducible apply Mod.recall_keeps hS.up
    | with_reducible apply Mod.chCtr_keeps hS.up
    | with_reducible apply Mod.sliceCtr_keeps hS.up
    | with_reducible apply Mod.setDent_keeps hS.up
    | with_reducible apply Mod.setTxn_keeps hS.up
    | with_reducible apply Mod.raiseOnce_keeps hS.up
    | with_reducible apply Mod.bump_keeps hS.up
    | with_reducible apply hS.ite
    | split

theorem Mod.homeRead_keeps {P : Mod → Prop} (hS : Stable 0x7d90001c P) {m : Mod} (hm : P m) (d : Nat) (data : Nat) (poison : Bool) :
    P (Mod.homeRead m d data poison) := by
  unfold Mod.homeRead
  try dsimp only
  repeat' first
    | with_reducible assumption
    | with_reducible apply Mod.homeGrant_keeps hS.up
    | with_reducible apply Mod.answerWho_keeps hS.up
    | with_reducible apply freeKind5_keeps hS.up
    | with_reducible apply Mod.endTxn_keeps hS.up
    | with_reducible apply Mod.setTxn_keeps hS.up
    | with_reducible apply Mod.backWrite_keeps hS.up
    | with_reducible apply hS.ite
    | split

theorem Mod.homeWritten_keeps {P : Mod → Prop} (hS : Stable 0x7d90001c P) {m : Mod} (hm : P m) (d : Nat) :
    P (Mod.homeWritten m d) := by
  unfold Mod.homeWritten
  try dsimp only
  repeat' first
    | with_reducible assumption
    | with_reducible apply Mod.evictAck_keeps hS.up
    | with_reducible apply Mod.answerWho_keeps hS.up
    | with_reducible apply Mod.homeEnd_keeps hS.up
    | with_reducible apply freeKind5_keeps hS.up
    | with_reducible apply Mod.endTxn_keeps hS.up
    | with_reducible apply hS.ite
    | with_reducible apply OptP.getD
    | with_reducible apply PairP.mk
    | split

theorem Mod.replaceLost_keeps {P : Mod → Prop} (hS : Stable 0x7500001c P) {m : Mod} (hm : P m) (p : Pkt) : P (Mod.replaceLost m p) := by
  unfold Mod.replaceLost
  try dsimp only
  repeat' first
    | with_reducible assumption
    | with_reducible apply Mod.backWrite_keeps hS.up
    | with_reducible apply Mod.bump_keeps hS.up
    | with_reducible apply Mod.homeEnd_keeps hS.up
    | with_reducible apply Mod.recallAnswer_keeps hS.up
    | with_reducible apply Mod.sendHomeMsg_keeps hS.up
    | with_reducible apply hS.ite

end Sys2Proof.Machine
end

