-- ==== Sys2Proof/Laws/KeepsCacheStep.lean ====
section
/-! SUPPORT. What each operation of CacheStep.lean can do: it keeps every property stable under the updates of its mask. -/
namespace Sys2Proof.Machine
set_option Elab.async false

theorem Mod.newFilt_keeps {P : Mod → Prop} (hS : Stable 0x20000010 P) {m : Mod} (hm : P m) (l : Nat) :
    P (Mod.newFilt m l) := by
  unfold Mod.newFilt
  try dsimp only
  repeat' first | with_reducible assumption | with_reducible apply Mod.filtCtr_keeps hS.up | with_reducible apply hS.ite

theorem Mod.doAccess_keeps {P : Mod → Prop} (hS : Stable 0x7d90001c P) {m : Mod} (hm : P m) (l : Nat) :
    P (Mod.doAccess m l) := by
  unfold Mod.doAccess
  try dsimp only
  repeat' first
    | with_reducible assumption
    | with_reducible apply Mod.newFilt_keeps hS.up
    | with_reducible apply Mod.unitHit_keeps hS.up
    | with_reducible apply Mod.writeThrough_keeps hS.up
    | with_reducible apply Mod.setFilt_keeps hS.up
    | with_reducible apply Mod.answerWho_keeps hS.up
    | with_reducible apply Mod.onLine_keeps hS.up
    | with_reducible apply Mod.cacheCount_keeps hS.up
    | with_reducible apply Mod.tally_keeps hS.up
    | with_reducible apply Mod.chCtr_keeps hS.up
    | with_reducible apply hS.ite
    | with_reducible apply PairP.mk
    | split

theorem Mod.prefetch_keeps {P : Mod → Prop} (hS : Stable 0x8000000 P) {m : Mod} (hm : P m) (l : Nat) (a : Access) : P (Mod.prefetch m l a) := by
  unfold Mod.prefetch
  try dsimp only
  repeat' first
    | with_reducible assumption
    | with_reducible apply Mod.onLine_keeps hS.up
    | with_reducible apply hS.ite
    | with_reducible apply hS.each
    | intro _ _ hm
    | intro _ hm
    | intro _ _

theorem Mod.startAccess_keeps {P : Mod → Prop} (hS : Stable 0x7d90001c P) {m : Mod} (hm : P m) (l : Nat) (s : Line) (a : Access) :
    OptP P (Mod.startAccess m l s a) := by
  unfold Mod.startAccess
  try dsimp only
  repeat' first
    | with_reducible assumption
    | with_reducible apply Mod.prefetch_keeps hS.up
    | with_reducible apply Mod.issue_keeps hS.up
    | with_reducible apply Mod.filtCtr_keeps hS.up
    | with_reducible apply Mod.answerWho_keeps hS.up
    | with_reducible apply Mod.onLine_keeps hS.up
    | with_reducible apply Mod.cacheCount_keeps hS.up
    | with_reducible apply Mod.tally_keeps hS.up
    | with_reducible apply Mod.chCtr_keeps hS.up
    | with_reducible apply OptP.ite
    | with_reducible apply hS.ite
    | with_reducible apply OptP.some
    | with_reducible exact OptP.none
    | split

theorem Mod.lineStep_keeps {P : Mod → Prop} (hS : Stable 0x7d90001c P) {m : Mod} (hm : P m) (l : Nat) (s : Line) :
    OptP P (Mod.lineStep m l s) := by
  unfold Mod.lineStep
  try dsimp only
  repeat' first
    | with_reducible assumption
    | with_reducible apply Mod.startAccess_keeps hS.up
    | with_reducible apply Mod.doAccess_keeps hS.up
    | with_reducible apply Mod.unitHit_keeps hS.up
    | with_reducible apply Mod.homeLocal_keeps hS.up
    | with_reducible apply Mod.doEvict_keeps hS.up
    | with_reducible apply Mod.doMsg_keeps hS.up
    | with_reducible apply Mod.snoop_keeps hS.up
    | with_reducible apply Mod.filtAfter_keeps hS.up
    | with_reducible apply Mod.filtCtr_keeps hS.up
    | with_reducible apply Mod.onLine_keeps hS.up
    | with_reducible apply OptP.ite
    | with_reducible apply hS.ite
    | with_reducible apply hS.each
    | with_reducible apply OptP.some
    | with_reducible apply PairP.mk
    | with_reducible exact OptP.none
    | refine OptP.get ?_ (by assumption)
    | split
    | intro _ _ hm

theorem Mod.settleLines_keeps {P : Mod → Prop} (hS : Stable 0x7d90001c P) : ∀ (n : Nat) {m : Mod} (hm : P m), P (Mod.settleLines n m)
  | 0, _, hm => by
    unfold Mod.settleLines
    exact hm
  | n + 1, m, hm => by
    unfold Mod.settleLines
    split
    · rename_i m1 e
      obtain ⟨x, -, hx⟩ := List.exists_of_findSome?_eq_some e
      exact Mod.settleLines_keeps hS.up n ((Mod.lineStep_keeps hS.up hm _ _).get hx)
    · exact hm

theorem Mod.reportLost_keeps {P : Mod → Prop} (hS : Stable 0x7d00001c P) {m : Mod} (hm : P m) (p : Pkt) :
    P (Mod.reportLost m p) := by
  unfold Mod.reportLost
  try dsimp only
  repeat' first
    | with_reducible assumption
    | with_reducible apply Mod.replaceLost_keeps hS.up
    | with_reducible apply Mod.firmwareWrite_keeps hS.up
    | with_reducible apply Mod.raise_keeps hS.up
    | with_reducible refine hS.onCaN ?_ (fun _ => by with_reducible_and_instances rfl)
    | with_reducible apply hS.ite

theorem Mod.dropRemote_keeps {P : Mod → Prop} (hS : Stable 0x20000000 P) {m : Mod} (hm : P m) (home : Nat) (desc : Nat) :
    P (Mod.dropRemote m home desc) := by
  unfold Mod.dropRemote
  try dsimp only
  repeat' first | with_reducible assumption | with_reducible apply Mod.setObj_keeps hS.up | with_reducible apply hS.ite | split

theorem Mod.unbound_keeps {P : Mod → Prop} (hS : Stable 0x7000000c P) {m : Mod} (hm : P m) (e : Nat) :
    P (Mod.unbound m e) := by
  unfold Mod.unbound
  try dsimp only
  repeat' first
    | with_reducible assumption
    | with_reducible apply Mod.setExt_keeps hS.up
    | with_reducible apply Mod.onExt_keeps hS.up
    | with_reducible apply Mod.raise_keeps hS.up
    | with_reducible refine hS.onPoN ?_ (fun _ => by with_reducible_and_instances rfl)
    | with_reducible apply hS.ite

theorem Mod.sendUnbind_keeps {P : Mod → Prop} (hS : Stable 0x7100000c P) {m : Mod} (hm : P m) (e : Nat) :
    P (Mod.sendUnbind m e) := by
  unfold Mod.sendUnbind
  try dsimp only
  repeat' first
    | with_reducible assumption
    | with_reducible apply Mod.unbound_keeps hS.up
    | with_reducible apply Mod.dropRemote_keeps hS.up
    | with_reducible apply Mod.setBinds_keeps hS.up
    | with_reducible apply Mod.onExt_keeps hS.up
    | with_reducible apply Mod.firmwareWrite_keeps hS.up
    | with_reducible apply hS.ite
    | with_reducible apply hS.when

theorem Mod.releaseStart_keeps {P : Mod → Prop} (hS : Stable 0x8000000 P) {m : Mod} (hm : P m) :
    P (Mod.releaseStart m) := by
  unfold Mod.releaseStart
  try dsimp only
  repeat' first
    | with_reducible assumption
    | with_reducible apply Mod.onLine_keeps hS.up
    | with_reducible apply hS.ite
    | with_reducible apply hS.each
    | with_reducible apply OptP.map
    | with_reducible apply PairP.mk
    | split
    | intro _ _ hm

theorem Mod.releaseCheck_keeps {P : Mod → Prop} (hS : Stable 0x7100000c P) {m : Mod} (hm : P m) :
    P (Mod.releaseCheck m) := by
  unfold Mod.releaseCheck
  try dsimp only
  repeat' first
    | with_reducible assumption
    | with_reducible apply Mod.sendUnbind_keeps hS.up
    | with_reducible apply Mod.onExt_keeps hS.up
    | with_reducible apply hS.ite
    | with_reducible apply hS.each
    | with_reducible apply PairP.mk
    | split
    | intro _ _ hm

theorem Mod.recallRest_keeps {P : Mod → Prop} (hS : Stable 0x7d90001c P) {m : Mod} (hm : P m) : P (Mod.recallRest m) := by
  unfold Mod.recallRest
  try dsimp only
  repeat' first
    | with_reducible assumption
    | with_reducible apply Mod.recallOwn_keeps hS.up
    | with_reducible apply hS.ite
    | with_reducible apply hS.each
    | split
    | intro _ _ hm
    | intro _ hm
    | intro _ _

theorem Mod.settleRound_keeps {P : Mod → Prop} (hS : Stable 0x7d90001c P) {m : Mod} (hm : P m) : P (Mod.settleRound m) := by
  unfold Mod.settleRound
  try dsimp only
  repeat' first
    | with_reducible assumption
    | with_reducible apply Mod.recallRest_keeps hS.up
    | with_reducible apply Mod.releaseCheck_keeps hS.up
    | with_reducible apply Mod.releaseStart_keeps hS.up
    | with_reducible apply Mod.settleLines_keeps hS.up

theorem Mod.settle_keeps {P : Mod → Prop} (hS : Stable 0x7f90001c P) {m0 : Mod} (hm : P m0) :
    P (Mod.settle m0) := by
  unfold Mod.settle
  try dsimp only
  repeat' first
    | with_reducible assumption
    | with_reducible apply Mod.settleRound_keeps hS.up
    | with_reducible apply Mod.reportLost_keeps hS.up
    | with_reducible apply Mod.pruneKept_keeps hS.up
    | with_reducible refine hS.onRtN ?_ (fun _ => by with_reducible_and_instances rfl)
    | with_reducible apply hS.ite
    | with_reducible apply hS.each
    | split
    | intro _ _ hm

end Sys2Proof.Machine
end

