-- ==== Sys2Proof/Laws/KeepsPowerOps.lean ====
section
/-! SUPPORT. What each operation of PowerOps.lean can do: it keeps every property stable under the updates of its mask. -/
namespace Sys2Proof.Machine
set_option Elab.async false

theorem Mod.onFeed_keeps {P : Mod → Prop} (hS : Stable 0x20 P) {m : Mod} (hm : P m) (f : Feed) (g : FeedSt → FeedSt) :
    P (Mod.onFeed m f g) := by
  unfold Mod.onFeed
  try dsimp only
  repeat' first | with_reducible assumption | with_reducible apply hS.onPw

theorem Mod.powerEvent_keeps {P : Mod → Prop} (hS : Stable 0x4000002c P) {m : Mod} (hm : P m) (code : Nat) (aux : Nat) : P (Mod.powerEvent m code aux) := by
  unfold Mod.powerEvent
  try dsimp only
  repeat' first
    | with_reducible assumption
    | with_reducible apply Mod.raise_keeps hS.up
    | with_reducible apply hS.onPw
    | with_reducible apply hS.ite

theorem Mod.flushPowerEvents_keeps {P : Mod → Prop} (hS : Stable 0x4000002c P) {m : Mod} (hm : P m) :
    P (Mod.flushPowerEvents m) := by
  unfold Mod.flushPowerEvents
  try dsimp only
  repeat' first
    | with_reducible assumption
    | with_reducible apply Mod.raise_keeps hS.up
    | with_reducible apply hS.onPw
    | with_reducible apply hS.each
    | split
    | intro _ _ hm

theorem Mod.fullEnhance_keeps {P : Mod → Prop} (hS : Stable 0x20 P) {m : Mod} (hm : P m) (f : Feed) :
    P (Mod.fullEnhance m f) := by
  unfold Mod.fullEnhance
  try dsimp only
  repeat' first | with_reducible assumption | with_reducible apply Mod.onFeed_keeps hS.up

theorem Mod.startRamp_keeps {P : Mod → Prop} (hS : Stable 0x20 P) {m : Mod} (hm : P m) (f : Feed) : P (Mod.startRamp m f) := by
  unfold Mod.startRamp
  try dsimp only
  repeat' first
    | with_reducible assumption
    | with_reducible apply Mod.fullEnhance_keeps hS.up
    | with_reducible apply Mod.onFeed_keeps hS.up
    | with_reducible apply hS.ite

theorem Mod.pgCheck_keeps {P : Mod → Prop} (hS : Stable 0x4000002c P) {m : Mod} (hm : P m) :
    P (Mod.pgCheck m) := by
  unfold Mod.pgCheck
  try dsimp only
  repeat' first
    | with_reducible assumption
    | with_reducible apply Mod.powerEvent_keeps hS.up
    | with_reducible apply hS.onPw
    | with_reducible apply hS.ite

theorem Mod.trip_keeps {P : Mod → Prop} (hS : Stable 0x4000003c P) {m : Mod} (hm : P m) (f : Feed) (cause : Nat) (hold : Bool) (code : Nat) :
    P (Mod.trip m f cause hold code) := by
  unfold Mod.trip
  try dsimp only
  repeat' first
    | with_reducible assumption
    | with_reducible apply Mod.pgCheck_keeps hS.up
    | with_reducible apply Mod.powerEvent_keeps hS.up
    | with_reducible apply Mod.onFeed_keeps hS.up
    | with_reducible apply Mod.count_keeps hS.up
    | with_reducible apply hS.ite

theorem Mod.notePAvail_keeps {P : Mod → Prop} (hS : Stable 0x20 P) {m : Mod} (hm : P m) :
    P (Mod.notePAvail m) := by
  unfold Mod.notePAvail
  try dsimp only
  repeat' first | with_reducible assumption | with_reducible apply hS.onPw | with_reducible apply hS.ite

theorem Mod.vaoRise_keeps {P : Mod → Prop} (hS : Stable 0x20000020 P) {m : Mod} (hm : P m) : P (Mod.vaoRise m) := by
  unfold Mod.vaoRise
  try dsimp only
  repeat' first | with_reducible assumption | with_reducible apply hS.onPw | with_reducible refine hS.onDiN ?_ (fun _ => by with_reducible_and_instances rfl)

theorem Mod.clearTripOf_keeps {P : Mod → Prop} (hS : Stable 0x30 P) {m : Mod} (hm : P m) (f : Feed) :
    P (Mod.clearTripOf m f) := by
  unfold Mod.clearTripOf
  try dsimp only
  repeat' first
    | with_reducible assumption
    | with_reducible apply Mod.startRamp_keeps hS.up
    | with_reducible apply Mod.onFeed_keeps hS.up
    | with_reducible apply Mod.count_keeps hS.up
    | with_reducible apply hS.ite

theorem Mod.clearTrips_keeps {P : Mod → Prop} (hS : Stable 0x30 P) {m : Mod} (hm : P m) (v : Nat) :
    P (Mod.clearTrips m v) := by
  unfold Mod.clearTrips
  try dsimp only
  repeat' first | with_reducible assumption | with_reducible apply Mod.clearTripOf_keeps hS.up | with_reducible apply hS.when

theorem Mod.clearEnergy_keeps {P : Mod → Prop} (hS : Stable 0x20 P) {m : Mod} (hm : P m) (v : Nat) :
    P (Mod.clearEnergy m v) := by
  unfold Mod.clearEnergy
  try dsimp only
  repeat' first | with_reducible assumption | with_reducible apply hS.onPw

theorem Mod.limitWritten_keeps {P : Mod → Prop} (hS : Stable 0x20 P) {m : Mod} (hm : P m) (which : Nat) (v : Nat) :
    P (Mod.limitWritten m which v) := by
  unfold Mod.limitWritten
  try dsimp only
  repeat' first
    | with_reducible assumption
    | with_reducible apply Mod.notePAvail_keeps hS.up
    | with_reducible apply Mod.onFeed_keeps hS.up
    | with_reducible apply hS.onPw
    | with_reducible apply hS.ite

end Sys2Proof.Machine
end

