-- ==== Sys2Proof/Laws/KeepsModeOps.lean ====
section
/-! SUPPORT. What each operation of ModeOps.lean can do: it keeps every property stable under the updates of its mask. -/
namespace Sys2Proof.Machine
set_option Elab.async false

theorem Mod.onEdge_keeps {P : Mod → Prop} (hS : Stable 0x200 P) {m : Mod} (hm : P m) (p : Nat) (f : EdgeSt → EdgeSt) :
    P (Mod.onEdge m p f) := by
  unfold Mod.onEdge
  try dsimp only
  repeat' first | with_reducible assumption | with_reducible apply hS.onEd

theorem Mod.onVppb_keeps {P : Mod → Prop} (hS : Stable 0x200 P) {m : Mod} (hm : P m) (v : Nat) (n : Nat) (f : VppbSt → VppbSt) :
    P (Mod.onVppb m v n f) := by
  unfold Mod.onVppb
  try dsimp only
  repeat' first | with_reducible assumption | with_reducible apply hS.onEd

theorem Mod.abortGroups_keeps {P : Mod → Prop} (hS : Stable 0x4000400c P) {m : Mod} (hm : P m) (p : Group → Bool) :
    P (Mod.abortGroups m p) := by
  unfold Mod.abortGroups
  try dsimp only
  repeat' first
    | with_reducible assumption
    | with_reducible apply Mod.raise_keeps hS.up
    | with_reducible apply hS.onDi
    | with_reducible apply hS.each
    | split
    | intro _ _ hm

theorem Mod.closeSession_keeps {P : Mod → Prop} (hS : Stable 0x14000400c P) {m : Mod} (hm : P m) (id : Nat) : P (Mod.closeSession m id) := by
  unfold Mod.closeSession
  try dsimp only
  repeat' first
    | with_reducible assumption
    | with_reducible apply Mod.abortGroups_keeps hS.up
    | with_reducible apply hS.onDi
    | with_reducible refine hS.onSeN ?_ (fun _ => by constructor <;> with_reducible_and_instances rfl)

theorem Mod.closeAll_keeps {P : Mod → Prop} (hS : Stable 0x14000400c P) {m : Mod} (hm : P m) :
    P (Mod.closeAll m) := by
  unfold Mod.closeAll
  try dsimp only
  repeat' first
    | with_reducible assumption
    | with_reducible apply Mod.closeSession_keeps hS.up
    | with_reducible apply Mod.abortGroups_keeps hS.up
    | with_reducible apply hS.each
    | with_reducible apply OptP.map
    | split
    | intro _ _ hm

theorem Mod.answerRest_keeps {P : Mod → Prop} (hS : Stable 0x21004014 P) {m : Mod} (hm : P m) : P (Mod.answerRest m) := by
  unfold Mod.answerRest
  try dsimp only
  repeat' first
    | with_reducible assumption
    | with_reducible apply Mod.answer_keeps hS.up
    | with_reducible apply hS.onDi
    | with_reducible apply hS.each
    | intro _ _ hm

theorem Mod.enterMode_keeps {P : Mod → Prop} (hS : Stable 0x6000004c P) {m : Mod} (hm : P m) (mode : Mode) (trigger : Nat) :
    P (Mod.enterMode m mode trigger) := by
  unfold Mod.enterMode
  try dsimp only
  repeat' first
    | with_reducible assumption
    | with_reducible apply Mod.raise_keeps hS.up
    | with_reducible apply Mod.setObj_keeps hS.up
    | with_reducible apply hS.onMd
    | with_reducible apply hS.ite

theorem Mod.trialFails_keeps {P : Mod → Prop} (hS : Stable 0x14000000c P) {m : Mod} (hm : P m) :
    P (Mod.trialFails m) := by
  unfold Mod.trialFails
  try dsimp only
  repeat' first
    | with_reducible assumption
    | with_reducible apply Mod.raise_keeps hS.up
    | with_reducible refine hS.onSeN ?_ (fun _ => by constructor <;> with_reducible_and_instances rfl)
    | with_reducible apply hS.ite

theorem Mod.onIde_keeps {P : Mod → Prop} (hS : Stable 0x200 P) {m : Mod} (hm : P m) (p : Nat) (s : Nat) (f : IdeSt → IdeSt) :
    P (Mod.onIde m p s f) := by
  unfold Mod.onIde
  try dsimp only
  repeat' first | with_reducible assumption | with_reducible apply hS.onEd

theorem Mod.keysPending_keeps {P : Mod → Prop} (hS : Stable 0x21004014 P) {m : Mod} (hm : P m) (p : Nat) :
    P (Mod.keysPending m p) := by
  unfold Mod.keysPending
  try dsimp only
  repeat' first
    | with_reducible assumption
    | with_reducible apply Mod.answer_keeps hS.up
    | with_reducible apply Mod.setObj_keeps hS.up
    | with_reducible apply hS.onDi
    | with_reducible apply hS.ite
    | with_reducible apply hS.each
    | with_reducible apply PairP.mk
    | split
    | intro _ _ hm

theorem Mod.ideErase_keeps {P : Mod → Prop} (hS : Stable 0x21004214 P) {m : Mod} (hm : P m) (p : Nat) :
    P (Mod.ideErase m p) := by
  unfold Mod.ideErase
  try dsimp only
  repeat' first
    | with_reducible assumption
    | with_reducible apply Mod.keysPending_keeps hS.up
    | with_reducible apply Mod.onIde_keeps hS.up
    | with_reducible apply Mod.setObj_keeps hS.up
    | with_reducible apply hS.each
    | split
    | intro _ _ hm

theorem Mod.edgeIdle_keeps {P : Mod → Prop} (hS : Stable 0x421004214 P) {m : Mod} (hm : P m) (p : Nat) : P (Mod.edgeIdle m p) := by
  unfold Mod.edgeIdle
  try dsimp only
  repeat' first
    | with_reducible assumption
    | with_reducible apply Mod.endMargins_keeps hS.up
    | with_reducible apply Mod.ideErase_keeps hS.up
    | with_reducible apply Mod.onEdge_keeps hS.up
    | with_reducible apply Mod.onLane_keeps hS.up
    | with_reducible apply hS.when
    | with_reducible apply hS.each
    | intro _ _ hm

theorem Mod.enterFault_keeps {P : Mod → Prop} (hS : Stable 0x5e110567c P) {m : Mod} (hm : P m) (trigger : Nat) : P (Mod.enterFault m trigger) := by
  unfold Mod.enterFault
  try dsimp only
  repeat' first
    | with_reducible assumption
    | with_reducible apply Mod.answerRest_keeps hS.up
    | with_reducible apply Mod.closeAll_keeps hS.up
    | with_reducible apply Mod.edgeIdle_keeps hS.up
    | with_reducible apply Mod.enterMode_keeps hS.up
    | with_reducible apply Mod.flushPowerEvents_keeps hS.up
    | with_reducible apply Mod.linkDown_keeps hS.up
    | with_reducible apply Mod.onEdge_keeps hS.up
    | with_reducible apply Mod.raise_keeps hS.up
    | with_reducible apply Mod.setObj_keeps hS.up
    | with_reducible apply Mod.trialFails_keeps hS.up
    | with_reducible apply hS.onMd
    | with_reducible apply hS.onBr
    | with_reducible refine hS.onSvM ?_ (fun _ => by constructor <;> with_reducible_and_instances rfl)
    | with_reducible refine hS.onSeN ?_ (fun _ => by constructor <;> with_reducible_and_instances rfl)
    | with_reducible apply hS.when
    | with_reducible apply hS.each
    | split
    | intro _ _ hm

theorem Mod.fatalHub_keeps {P : Mod → Prop} (hS : Stable 0x5e110567c P) {m : Mod} (hm : P m) (cause : Nat) :
    P (Mod.fatalHub m cause) := by
  unfold Mod.fatalHub
  try dsimp only
  repeat' first
    | with_reducible assumption
    | with_reducible apply Mod.enterFault_keeps hS.up
    | with_reducible apply Mod.raise_keeps hS.up
    | with_reducible apply hS.ite

end Sys2Proof.Machine
end

