-- ==== Sys2Proof/Laws/KeepsRxOps.lean ====
section
/-! SUPPORT. What each operation of RxOps.lean can do: it keeps every property stable under the updates of its mask. -/
namespace Sys2Proof.Machine
set_option Elab.async false

theorem Mod.onHeld_keeps {P : Mod → Prop} (hS : Stable 0x800 P) {m : Mod} (hm : P m) (id : Nat) (f : Held → Held) :
    P (Mod.onHeld m id f) := by
  unfold Mod.onHeld
  try dsimp only
  repeat' first | with_reducible assumption | with_reducible apply hS.onSw

theorem Mod.tallyPkt_keeps {P : Mod → Prop} (hS : Stable 0x20000010 P) {m : Mod} (hm : P m) (source : Nat) (port : Nat) (tenant : Nat) (p : Pkt) :
    P (Mod.tallyPkt m source port tenant p) := by
  unfold Mod.tallyPkt
  try dsimp only
  repeat' first | with_reducible assumption | with_reducible apply Mod.tally_keeps hS.up

theorem Mod.arrive_keeps {P : Mod → Prop} (hS : Stable 0x21000010 P) {m : Mod} (hm : P m) (p : Nat) (pkt : Pkt) (got : Nat) (target : Option Nat) (tenant : Nat) (secure : Bool) :
    P (Mod.arrive m p pkt got target tenant secure) := by
  unfold Mod.arrive
  try dsimp only
  repeat' first
    | with_reducible assumption
    | with_reducible apply Mod.tallyPkt_keeps hS.up
    | with_reducible apply Mod.allocCells_keeps hS.up
    | with_reducible refine PairP.fst (Mod.allocCells_keeps hS.up (hm := ?_) ..)
    | with_reducible apply Mod.portCtr_keeps hS.up
    | with_reducible refine hS.onSwN ?_ (fun _ => by with_reducible_and_instances rfl)
    | with_reducible apply hS.onCn
    | with_reducible apply hS.when

theorem Mod.protocolError_keeps {P : Mod → Prop} (hS : Stable 0x6000000c P) {m : Mod} (hm : P m) (n : Nat) :
    P (Mod.protocolError m n) := by
  unfold Mod.protocolError
  try dsimp only
  repeat' first | with_reducible assumption | with_reducible apply Mod.linkObj_keeps hS.up | with_reducible apply Mod.raise_keeps hS.up

theorem Mod.rxHeader_keeps {P : Mod → Prop} (hS : Stable 0x61000c9c P) {m : Mod} (hm : P m) (n : Nat) (p : Pkt) : P (Mod.rxHeader m n p) := by
  unfold Mod.rxHeader
  try dsimp only
  repeat' first
    | with_reducible assumption
    | with_reducible apply Mod.arrive_keeps hS.up
    | with_reducible apply Mod.freeCredit_keeps hS.up
    | with_reducible apply Mod.onLink_keeps hS.up
    | with_reducible apply Mod.protocolError_keeps hS.up
    | with_reducible apply Mod.removeHeld_keeps hS.up
    | split

theorem Mod.rxData_keeps {P : Mod → Prop} (hS : Stable 0x1000c84 P) {m : Mod} (hm : P m) (id : Nat) (w : Nat) :
    P (Mod.rxData m id w) := by
  unfold Mod.rxData
  try dsimp only
  repeat' first
    | with_reducible assumption
    | with_reducible apply Mod.onHeld_keeps hS.up
    | with_reducible apply Mod.dropEntry_keeps hS.up
    | with_reducible apply Mod.sendWords_keeps hS.up
    | with_reducible apply Mod.setQueue_keeps hS.up
    | with_reducible apply hS.emit
    | with_reducible apply hS.ite
    | with_reducible apply hS.each
    | with_reducible apply OptP.map
    | with_reducible apply PairP.mk
    | split
    | intro _ _ hm

theorem Mod.rxWord_keeps {P : Mod → Prop} (hS : Stable 0x61000c9c P) {m : Mod} (hm : P m) (n : Nat) (w : Nat) :
    P (Mod.rxWord m n w) := by
  unfold Mod.rxWord
  try dsimp only
  repeat' first
    | with_reducible assumption
    | with_reducible apply Mod.rxData_keeps hS.up
    | with_reducible apply Mod.rxHeader_keeps hS.up
    | with_reducible apply Mod.onLink_keeps hS.up
    | with_reducible apply Mod.portObj_keeps hS.up
    | with_reducible apply hS.onSw
    | with_reducible apply hS.ite
    | split

theorem Mod.takeInbox_keeps {P : Mod → Prop} (hS : Stable 0x1000000 P) {m : Mod} (hm : P m) (i : Nat) (fits : Pkt → Bool) :
    PairP P (Mod.takeInbox m i fits) := by
  unfold Mod.takeInbox
  try dsimp only
  repeat' first
    | with_reducible assumption
    | with_reducible refine hS.onSwN ?_ (fun _ => by with_reducible_and_instances rfl)
    | with_reducible apply PairP.ite
    | with_reducible apply hS.ite
    | with_reducible apply PairP.mk
    | split

end Sys2Proof.Machine
end

