-- ==== Sys2Proof/Laws/KeepsSchedOps.lean ====
section
/-! SUPPORT. What each operation of SchedOps.lean can do: it keeps every property stable under the updates of its mask. -/
namespace Sys2Proof.Machine
set_option Elab.async false

theorem Mod.onSched_keeps {P : Mod → Prop} (hS : Stable 0x80000 P) {m : Mod} (hm : P m) (k : Nat) (f : PortSched → PortSched) :
    P (Mod.onSched m k f) := by
  unfold Mod.onSched
  try dsimp only
  repeat' first | with_reducible assumption | with_reducible apply hS.onSc

theorem Mod.setTokens_keeps {P : Mod → Prop} (hS : Stable 0x80000 P) {m : Mod} (hm : P m) (port : Nat) (s : Nat) (t : Int) :
    P (Mod.setTokens m port s t) := by
  unfold Mod.setTokens
  try dsimp only
  repeat' first | with_reducible assumption | with_reducible apply hS.onSc

theorem Mod.charge_keeps {P : Mod → Prop} (hS : Stable 0x80000 P) {m : Mod} (hm : P m) (port : Nat) (s : Nat) (n : Nat) :
    P (Mod.charge m port s n) := by
  unfold Mod.charge
  try dsimp only
  repeat' first | with_reducible assumption | with_reducible apply Mod.setTokens_keeps hS.up | with_reducible apply hS.ite

theorem Mod.visitB_keeps {P : Mod → Prop} (hS : Stable 0x80000 P) {m : Mod} (hm : P m) (port : Nat) (t : Nat) :
    P (Mod.visitB m port t) := by
  unfold Mod.visitB
  try dsimp only
  repeat' first | with_reducible assumption | with_reducible apply hS.onSc

theorem Mod.wake_keeps {P : Mod → Prop} (hS : Stable 0x80000 P) {m : Mod} (hm : P m) (port : Nat) (b : Bool) (t : Nat) :
    P (Mod.wake m port b t) := by
  unfold Mod.wake
  try dsimp only
  repeat' first
    | with_reducible assumption
    | with_reducible apply Mod.visitB_keeps hS.up
    | with_reducible apply hS.onSc
    | with_reducible apply hS.ite

theorem Mod.highWater_keeps {P : Mod → Prop} (hS : Stable 0x20000000 P) {m : Mod} (hm : P m) (oid : Nat) (depth : Nat) (delay : Nat) :
    P (Mod.highWater m oid depth delay) := by
  unfold Mod.highWater
  try dsimp only
  repeat' first | with_reducible assumption | with_reducible apply Mod.setObj_keeps hS.up

theorem Mod.noteHeads_keeps {P : Mod → Prop} (hS : Stable 0x800 P) {m : Mod} (hm : P m) (port : Nat) :
    P (Mod.noteHeads m port) := by
  unfold Mod.noteHeads
  try dsimp only
  repeat' first
    | with_reducible assumption
    | with_reducible apply Mod.setQueue_keeps hS.up
    | with_reducible apply hS.ite
    | with_reducible apply hS.each
    | with_reducible apply OptP.map
    | split
    | intro _ _ hm

theorem Mod.leakUp_keeps {P : Mod → Prop} (hS : Stable 0x10 P) {m : Mod} (hm : P m) (d : Nat) (u : Nat) (n : Nat) :
    P (Mod.leakUp m d u n) := by
  unfold Mod.leakUp
  try dsimp only
  repeat' first | with_reducible assumption | with_reducible apply hS.onCn | with_reducible apply hS.ite

theorem Mod.corrected_keeps {P : Mod → Prop} (hS : Stable 0x4000001c P) {m : Mod} (hm : P m) (d : Nat) (u : Nat) :
    P (Mod.corrected m d u) := by
  unfold Mod.corrected
  try dsimp only
  repeat' first
    | with_reducible assumption
    | with_reducible apply Mod.leakUp_keeps hS.up
    | with_reducible apply Mod.raiseOnce_keeps hS.up
    | with_reducible apply Mod.dieCtr_keeps hS.up

theorem Mod.uncorrected_keeps {P : Mod → Prop} (hS : Stable 0x20000010 P) {m : Mod} (hm : P m) (d : Nat) (u : Nat) :
    P (Mod.uncorrected m d u) := by
  unfold Mod.uncorrected
  try dsimp only
  repeat' first
    | with_reducible assumption
    | with_reducible apply Mod.leakUp_keeps hS.up
    | with_reducible apply Mod.dieObj_keeps hS.up
    | with_reducible apply Mod.dieCtr_keeps hS.up

theorem Mod.residue_keeps {P : Mod → Prop} (hS : Stable 0x6000001c P) {m : Mod} (hm : P m) (d : Nat) (k : Nat) (code : Nat) :
    P (Mod.residue m d k code) := by
  unfold Mod.residue
  try dsimp only
  repeat' first
    | with_reducible assumption
    | with_reducible apply Mod.dieObj_keeps hS.up
    | with_reducible apply Mod.raise_keeps hS.up
    | with_reducible apply Mod.dieCtr_keeps hS.up

end Sys2Proof.Machine
end

