-- ==== Sys2Proof/Laws/KeepsDequeueOps.lean ====
section
/-! SUPPORT. What each operation of DequeueOps.lean can do: it keeps every property stable under the updates of its mask. -/
namespace Sys2Proof.Machine
set_option Elab.async false

theorem Mod.putQueue_keeps {P : Mod → Prop} (hS : Stable 0x20080800 P) {m : Mod} (hm : P m) (k : Nat) (h : Held) (charge : Nat) :
    P (Mod.putQueue m k h charge) := by
  unfold Mod.putQueue
  try dsimp only
  repeat' first
    | with_reducible assumption
    | with_reducible apply Mod.noteHeads_keeps hS.up
    | with_reducible apply Mod.highWater_keeps hS.up
    | with_reducible apply Mod.wake_keeps hS.up
    | with_reducible apply Mod.charge_keeps hS.up
    | with_reducible apply Mod.setQueue_keeps hS.up
    | with_reducible apply hS.ite

theorem Mod.releaseIngress_keeps {P : Mod → Prop} (hS : Stable 0x400 P) {m : Mod} (hm : P m) (h : Held) :
    P (Mod.releaseIngress m h) := by
  unfold Mod.releaseIngress
  try dsimp only
  repeat' first | with_reducible assumption | with_reducible apply Mod.freeCredit_keeps hS.up | with_reducible apply hS.ite | split

theorem Mod.dropWaiting_keeps {P : Mod → Prop} (hS : Stable 0x1000000 P) {m : Mod} (hm : P m) (id : Nat) :
    P (Mod.dropWaiting m id) := by
  unfold Mod.dropWaiting
  try dsimp only
  repeat' first | with_reducible assumption | with_reducible refine hS.onSwN ?_ (fun _ => by with_reducible_and_instances rfl)

theorem Mod.takeOut_keeps {P : Mod → Prop} (hS : Stable 0x1000480 P) {m : Mod} (hm : P m) (h : Held) :
    P (Mod.takeOut m h) := by
  unfold Mod.takeOut
  try dsimp only
  repeat' first
    | with_reducible assumption
    | with_reducible apply Mod.dropWaiting_keeps hS.up
    | with_reducible apply Mod.releaseIngress_keeps hS.up
    | with_reducible apply Mod.freeCells_keeps hS.up

theorem Mod.lookedUp_keeps {P : Mod → Prop} (hS : Stable 0x1000000 P) {m : Mod} (hm : P m) (h : Held) (t : Nat) :
    P (Mod.lookedUp m h t) := by
  unfold Mod.lookedUp
  try dsimp only
  repeat' first | with_reducible assumption | with_reducible refine hS.onSwN ?_ (fun _ => by with_reducible_and_instances rfl)

theorem Mod.waits_keeps {P : Mod → Prop} (hS : Stable 0x1000010 P) {m : Mod} (hm : P m) (h : Held) :
    P (Mod.waits m h) := by
  unfold Mod.waits
  try dsimp only
  repeat' first
    | with_reducible assumption
    | with_reducible apply Mod.portCtr_keeps hS.up
    | with_reducible refine hS.onSwN ?_ (fun _ => by with_reducible_and_instances rfl)
    | with_reducible apply hS.ite
    | with_reducible apply OptP.map
    | split

theorem Mod.enqueueAt_keeps {P : Mod → Prop} (hS : Stable 0x23080c94 P) {m : Mod} (hm : P m) (h : Held) (t : Nat) :
    P (Mod.enqueueAt m h t) := by
  unfold Mod.enqueueAt
  try dsimp only
  repeat' first
    | with_reducible assumption
    | with_reducible apply Mod.waits_keeps hS.up
    | with_reducible apply Mod.takeOut_keeps hS.up
    | with_reducible apply Mod.dropWaiting_keeps hS.up
    | with_reducible apply Mod.releaseIngress_keeps hS.up
    | with_reducible apply Mod.putQueue_keeps hS.up
    | with_reducible apply Mod.releaseHeld_keeps hS.up
    | with_reducible apply Mod.startExit_keeps hS.up
    | with_reducible apply Mod.addShared_keeps hS.up
    | with_reducible apply Mod.allocCells_keeps hS.up
    | with_reducible refine PairP.fst (Mod.allocCells_keeps hS.up (hm := ?_) ..)
    | with_reducible apply hS.ite
    | with_reducible apply PairP.mk
    | refine PairP.get ?_ (by assumption)
    | split
    | intro _ _ hm
    | intro _ hm
    | intro _
    | dsimp only

theorem Mod.admitMulti_keeps {P : Mod → Prop} (hS : Stable 0x63080c9c P) {m : Mod} (hm : P m) (h : Held) :
    P (Mod.admitMulti m h) := by
  unfold Mod.admitMulti
  try dsimp only
  repeat' first
    | with_reducible assumption
    | with_reducible apply Mod.waits_keeps hS.up
    | with_reducible apply Mod.takeOut_keeps hS.up
    | with_reducible apply Mod.dropWaiting_keeps hS.up
    | with_reducible apply Mod.releaseIngress_keeps hS.up
    | with_reducible apply Mod.putQueue_keeps hS.up
    | with_reducible apply Mod.charge_keeps hS.up
    | with_reducible apply Mod.dropPkt_keeps hS.up
    | with_reducible apply Mod.startExit_keeps hS.up
    | with_reducible apply Mod.addShared_keeps hS.up
    | with_reducible apply Mod.allocCells_keeps hS.up
    | with_reducible refine PairP.fst (Mod.allocCells_keeps hS.up (hm := ?_) ..)
    | with_reducible apply hS.onSw
    | with_reducible apply hS.ite
    | with_reducible apply hS.each
    | with_reducible apply hS.foldl
    | with_reducible apply OptP.map
    | with_reducible apply OptP.getD
    | with_reducible apply PairP.mk
    | with_reducible apply PairP.foldl
    | refine PairP.get ?_ (by assumption)
    | split
    | intro _ _ hm

theorem Mod.noteDelivered_keeps {P : Mod → Prop} (hS : Stable 0x100000 P) {m : Mod} (hm : P m) (port : Nat) (p : Pkt) : P (Mod.noteDelivered m port p) := by
  unfold Mod.noteDelivered
  try dsimp only
  repeat' first | with_reducible assumption | with_reducible apply hS.onBr | split

theorem Mod.countSent_keeps {P : Mod → Prop} (hS : Stable 0x20000010 P) {m : Mod} (hm : P m) (port : Nat) (e : QEnt) :
    P (Mod.countSent m port e) := by
  unfold Mod.countSent
  try dsimp only
  repeat' first
    | with_reducible assumption
    | with_reducible apply Mod.tallyPkt_keeps hS.up
    | with_reducible apply Mod.dieCtr_keeps hS.up
    | with_reducible apply Mod.portCtr_keeps hS.up
    | with_reducible apply hS.onCn
    | with_reducible apply hS.when
    | with_reducible apply hS.each
    | split
    | intro _ _ hm

theorem Mod.unqueue_keeps {P : Mod → Prop} (hS : Stable 0x21000880 P) {m : Mod} (hm : P m) (k : Nat) (e : QEnt) :
    P (Mod.unqueue m k e) := by
  unfold Mod.unqueue
  try dsimp only
  repeat' first
    | with_reducible assumption
    | with_reducible apply Mod.noteHeads_keeps hS.up
    | with_reducible apply Mod.highWater_keeps hS.up
    | with_reducible apply Mod.dropEntry_keeps hS.up
    | with_reducible apply Mod.setQueue_keeps hS.up
    | with_reducible apply hS.ite

theorem Mod.sendEntry_keeps {P : Mod → Prop} (hS : Stable 0x21100c94 P) {m : Mod} (hm : P m) (port : Nat) (c : Nat) (e : QEnt) :
    P (Mod.sendEntry m port c e) := by
  unfold Mod.sendEntry
  try dsimp only
  repeat' first
    | with_reducible assumption
    | with_reducible apply Mod.unqueue_keeps hS.up
    | with_reducible apply Mod.countSent_keeps hS.up
    | with_reducible apply Mod.noteDelivered_keeps hS.up
    | with_reducible apply Mod.sendWords_keeps hS.up
    | with_reducible apply Mod.setQueue_keeps hS.up
    | with_reducible apply Mod.portCtr_keeps hS.up
    | with_reducible apply hS.emit
    | with_reducible apply hS.ite

theorem Mod.sendBridge_keeps {P : Mod → Prop} (hS : Stable 0x21000890 P) {m : Mod} (hm : P m) (d : Nat) (c : Nat) (e : QEnt) :
    P (Mod.sendBridge m d c e) := by
  unfold Mod.sendBridge
  try dsimp only
  repeat' first
    | with_reducible assumption
    | with_reducible apply Mod.unqueue_keeps hS.up
    | with_reducible apply Mod.dieObj_keeps hS.up
    | with_reducible apply Mod.allocCells_keeps hS.up
    | with_reducible refine PairP.fst (Mod.allocCells_keeps hS.up (hm := ?_) ..)
    | with_reducible apply Mod.dieCtr_keeps hS.up
    | with_reducible apply hS.onSw

theorem Mod.noteHeld_keeps {P : Mod → Prop} (hS : Stable 0x20000810 P) {m : Mod} (hm : P m) (port : Nat) (c : Nat) (e : QEnt) (r : Nat) : P (Mod.noteHeld m port c e r) := by
  unfold Mod.noteHeld
  try dsimp only
  repeat' first
    | with_reducible assumption
    | with_reducible apply Mod.bump_keeps hS.up
    | with_reducible apply Mod.portCtr_keeps hS.up
    | with_reducible apply Mod.portObj_keeps hS.up
    | with_reducible apply Mod.setQueue_keeps hS.up
    | with_reducible apply hS.ite
    | with_reducible apply OptP.map
    | intro _ _ hm
    | intro _ hm
    | intro _ _

theorem Mod.nextB_keeps {P : Mod → Prop} (hS : Stable 0x20080000 P) (port credits : Nat) : ∀ {m : Mod} (hm : P m) (n : Nat), PairP P (Mod.nextB port credits m n)
  | m, hm, 0 => by
    unfold Mod.nextB
    exact hm
  | m, hm, n + 1 => by
    have step : ∀ ptr, PairP P (Mod.nextB.step port credits m ptr n) := fun ptr => by
      unfold Mod.nextB.step
      split
      · exact hm
      · refine Mod.nextB_keeps hS.up port credits (Mod.visitB_keeps hS.up (Mod.onSched_keeps hS.up ?_ _ _) _ _) n
        split
        · exact Mod.setObj_keeps hS.up hm _ _
        · exact hm
    unfold Mod.nextB
    extract_lets ptr d
    split
    · split
      · exact hm
      · exact step ptr
    · exact step ptr

theorem Mod.startTurn_keeps {P : Mod → Prop} (hS : Stable 0x80000 P) {m : Mod} (hm : P m) (port : Nat) : P (Mod.startTurn m port) := by
  unfold Mod.startTurn
  try dsimp only
  repeat' first
    | with_reducible assumption
    | with_reducible apply Mod.onSched_keeps hS.up
    | with_reducible apply hS.ite
    | intro _ _ hm
    | intro _ hm
    | intro _ _

theorem Mod.endTurn_keeps {P : Mod → Prop} (hS : Stable 0x80000 P) {m : Mod} (hm : P m) (port : Nat) :
    P (Mod.endTurn m port) := by
  unfold Mod.endTurn
  try dsimp only
  repeat' first | with_reducible assumption | with_reducible apply Mod.onSched_keeps hS.up

theorem Mod.sendRequest_keeps {P : Mod → Prop} (hS : Stable 0x21180c94 P) (port credits : Nat) : ∀ {m : Mod} (hm : P m) (n : Nat), OptP P (Mod.sendRequest port credits m n)
  | _, _, 0 => by
    unfold Mod.sendRequest
    exact OptP.none
  | m, hm, n + 1 => by
    unfold Mod.sendRequest
    extract_lets s b fuel offers other
    have h0 : P (m.startTurn port) := Mod.startTurn_keeps hS.up hm port
    split
    · exact OptP.none
    split
    · exact Mod.sendRequest_keeps hS.up port credits (Mod.endTurn_keeps hS.up h0 port) n
    split
    rename_i m1 pick hp
    have h1 : P m1 := by
      split at hp
      · exact PairP.get (Mod.nextB_keeps hS.up port credits h0 _) hp
      · cases hp
        exact h0
    split
    · exact Mod.sendRequest_keeps hS.up port credits (Mod.endTurn_keeps hS.up h1 port) n
    rename_i c e
    extract_lets have_ len
    split
    · exact Mod.sendRequest_keeps hS.up port credits (Mod.endTurn_keeps hS.up h1 port) n
    refine OptP.some (Mod.onSched_keeps hS.up (Mod.sendEntry_keeps hS.up (Mod.noteHeld_keeps hS.up ?_ _ _ _ _) _ _ _) _ _)
    refine Mod.charge_keeps hS.up ?_ _ _ _
    have h4 : ∀ x y z, P (if b = true then (m1.onSched port x).onSc y else ((m1.onSched port x).setObj (vOid port) (tget (0, 0)
        (tqKey port e.held.tenant) (m1.onSched port x).sc.tags).1).onSc z) := fun x y z =>
      hS.ite (hS.onSc (Mod.onSched_keeps hS.up h1 _ _)) (hS.onSc (Mod.setObj_keeps hS.up (Mod.onSched_keeps hS.up h1 _ _) _ _))
    exact hS.ite (h4 _ _ _) (Mod.charge_keeps hS.up (h4 _ _ _) _ _ _)

theorem Mod.sendPair_keeps {P : Mod → Prop} (hS : Stable 0x21100c94 P) {m : Mod} (hm : P m) (port : Nat) (credits : Nat) (c1 : Nat) (c2 : Nat) (second : Bool) :
    OptPairP P (Mod.sendPair m port credits c1 c2 second) := by
  unfold Mod.sendPair
  try dsimp only
  repeat' first
    | with_reducible assumption
    | with_reducible apply Mod.noteHeld_keeps hS.up
    | with_reducible apply Mod.sendEntry_keeps hS.up
    | with_reducible apply OptPairP.ite
    | with_reducible apply hS.ite
    | with_reducible apply OptPairP.some
    | with_reducible apply PairP.mk
    | with_reducible apply OptP.map
    | with_reducible apply OptPairP.map
    | with_reducible exact OptPairP.none
    | split
    | intro _ _ hm
    | intro _ hm

theorem Mod.noteDeferred_keeps {P : Mod → Prop} (hS : Stable 0x20000810 P) {m : Mod} (hm : P m) (port : Nat) (credits : Nat) :
    P (Mod.noteDeferred m port credits) := by
  unfold Mod.noteDeferred
  try dsimp only
  repeat' first
    | with_reducible assumption
    | with_reducible apply Mod.noteHeld_keeps hS.up
    | with_reducible apply Mod.portCtr_keeps hS.up
    | with_reducible apply hS.ite
    | with_reducible apply hS.each
    | with_reducible apply OptP.map
    | with_reducible apply PairP.mk
    | split
    | intro _ _ hm

theorem Mod.dequeuePort_keeps {P : Mod → Prop} (hS : Stable 0x21180c94 P) {m : Mod} (hm : P m) (port : Nat) (credits : Nat) :
    P (Mod.dequeuePort m port credits) := by
  unfold Mod.dequeuePort
  try dsimp only
  repeat' first
    | with_reducible assumption
    | with_reducible apply Mod.noteDeferred_keeps hS.up
    | with_reducible apply Mod.sendPair_keeps hS.up
    | with_reducible apply Mod.sendRequest_keeps hS.up
    | with_reducible apply Mod.onSched_keeps hS.up
    | with_reducible apply hS.ite
    | with_reducible apply OptP.some
    | with_reducible apply OptP.getD
    | with_reducible apply PairP.mk
    | refine OptP.get ?_ (by assumption)
    | refine OptPairP.get ?_ (by assumption)
    | refine OptPairP.fst ?_ (by assumption)
    | split

theorem Mod.dequeueBridge_keeps {P : Mod → Prop} (hS : Stable 0x21080890 P) {m : Mod} (hm : P m) (d : Nat) :
    P (Mod.dequeueBridge m d) := by
  unfold Mod.dequeueBridge
  try dsimp only
  repeat' first
    | with_reducible assumption
    | with_reducible apply Mod.sendBridge_keeps hS.up
    | with_reducible apply Mod.onSched_keeps hS.up
    | with_reducible apply hS.ite
    | with_reducible apply OptP.map
    | with_reducible apply OptP.getD
    | split

theorem Mod.stopDie_keeps {P : Mod → Prop} (hS : Stable 0x1000840 P) {m : Mod} (hm : P m) (d : Nat) : P (Mod.stopDie m d) := by
  unfold Mod.stopDie
  try dsimp only
  repeat' first
    | with_reducible assumption
    | with_reducible apply Mod.setQueue_keeps hS.up
    | with_reducible apply hS.onMd
    | with_reducible refine hS.onSwN ?_ (fun _ => by with_reducible_and_instances rfl)
    | with_reducible apply hS.each
    | intro _ _ hm

theorem Mod.carryOver_keeps {P : Mod → Prop} (hS : Stable 0x63180c9c P) {m : Mod} (hm : P m) (o : Nat) : P (Mod.carryOver m o) := by
  unfold Mod.carryOver
  try dsimp only
  repeat' first
    | with_reducible assumption
    | with_reducible apply Mod.admitMulti_keeps hS.up
    | with_reducible apply Mod.enqueueAt_keeps hS.up
    | with_reducible apply Mod.sendEntry_keeps hS.up
    | with_reducible apply hS.each
    | split
    | intro _ _ hm

theorem Mod.fatalDie_keeps {P : Mod → Prop} (hS : Stable 0x5e3185efc P) {m : Mod} (hm : P m) (d : Nat) (cause : Nat) : P (Mod.fatalDie m d cause) := by
  unfold Mod.fatalDie
  try dsimp only
  repeat' first
    | with_reducible assumption
    | with_reducible apply Mod.carryOver_keeps hS.up
    | with_reducible apply Mod.enterFault_keeps hS.up
    | with_reducible apply Mod.raise_keeps hS.up
    | with_reducible apply Mod.stopDie_keeps hS.up
    | with_reducible apply hS.ite

end Sys2Proof.Machine
end

