-- ==== Sys2Proof/Laws/KeepsTrackerOps.lean ====
section
/-! SUPPORT. What each operation of TrackerOps.lean can do: it keeps every property stable under the updates of its mask. -/
namespace Sys2Proof.Machine
set_option Elab.async false

theorem Mod.moverResult_keeps {P : Mod → Prop} (hS : Stable 0xe800000c P) {m : Mod} (hm : P m) (qp : Nat) (id : Nat) (data : Nat) (poison : Bool) (err : Nat) :
    P (Mod.moverResult m qp id data poison err) := by
  unfold Mod.moverResult
  try dsimp only
  repeat' first
    | with_reducible assumption
    | with_reducible apply Mod.msi_keeps hS.up
    | with_reducible refine hS.onCaN ?_ (fun _ => by with_reducible_and_instances rfl)
    | with_reducible refine hS.onSvM ?_ (fun _ => by constructor <;> with_reducible_and_instances rfl)
    | with_reducible apply hS.ite
    | split

theorem Mod.answerError_keeps {P : Mod → Prop} (hS : Stable 0xe990001c P) {m : Mod} (hm : P m) (k : Nat) (code : Nat) :
    P (Mod.answerError m k code) := by
  unfold Mod.answerError
  try dsimp only
  repeat' first
    | with_reducible assumption
    | with_reducible apply Mod.moverResult_keeps hS.up
    | with_reducible apply Mod.ackWrite_keeps hS.up
    | with_reducible apply Mod.mediaEvent_keeps hS.up
    | with_reducible apply Mod.onLine_keeps hS.up
    | with_reducible apply Mod.completeTo_keeps hS.up
    | with_reducible apply Mod.answerHost_keeps hS.up
    | with_reducible apply Mod.liveDone_keeps hS.up
    | with_reducible apply Mod.postedError_keeps hS.up
    | with_reducible apply Mod.bump_keeps hS.up
    | with_reducible apply hS.ite
    | with_reducible apply hS.each
    | split
    | intro _ _ hm

theorem Mod.lateResponse_keeps {P : Mod → Prop} (hS : Stable 0x20000000 P) {m : Mod} (hm : P m) (d : Nat) :
    P (Mod.lateResponse m d) := by
  unfold Mod.lateResponse
  try dsimp only
  repeat' first | with_reducible assumption | with_reducible apply Mod.dieObj_keeps hS.up

theorem Mod.trkAnswer_keeps {P : Mod → Prop} (hS : Stable 0xe990001c P) {m : Mod} (hm : P m) (tid : Nat) (code : Nat) (poison : Bool) (words : List Nat) :
    P (Mod.trkAnswer m tid code poison words) := by
  unfold Mod.trkAnswer
  try dsimp only
  repeat' first
    | with_reducible assumption
    | with_reducible apply Mod.lateResponse_keeps hS.up
    | with_reducible apply Mod.answerError_keeps hS.up
    | with_reducible apply Mod.moverResult_keeps hS.up
    | with_reducible apply Mod.memDone_keeps hS.up
    | with_reducible apply Mod.completeTo_keeps hS.up
    | with_reducible apply Mod.releaseOrphan_keeps hS.up
    | with_reducible apply Mod.freeTrk_keeps hS.up
    | with_reducible apply Mod.liveDone_keeps hS.up
    | with_reducible apply Mod.bump_keeps hS.up
    | with_reducible apply hS.ite
    | split

theorem Mod.trkExpire_keeps {P : Mod → Prop} (hS : Stable 0xe990001c P) {m : Mod} (hm : P m) (k : Nat) :
    P (Mod.trkExpire m k) := by
  unfold Mod.trkExpire
  try dsimp only
  repeat' first
    | with_reducible assumption
    | with_reducible apply Mod.answerError_keeps hS.up
    | with_reducible apply Mod.setTrk_keeps hS.up
    | with_reducible apply Mod.portObj_keeps hS.up
    | with_reducible apply Mod.raise_keeps hS.up
    | with_reducible apply Mod.dieCtr_keeps hS.up
    | with_reducible apply Mod.portCtr_keeps hS.up
    | with_reducible apply hS.ite
    | split

theorem Mod.sendNullify_keeps {P : Mod → Prop} (hS : Stable 0x400 P) {m : Mod} (hm : P m) (n : Nat) (p : Pkt) (sent : Nat) : P (Mod.sendNullify m n p sent) := by
  unfold Mod.sendNullify
  try dsimp only
  repeat' first | with_reducible assumption | with_reducible apply Mod.onLink_keeps hS.up

theorem Mod.lateError_keeps {P : Mod → Prop} (hS : Stable 0x63000c9c P) {m : Mod} (hm : P m) (k : Nat) (e : QEnt) (routing : Bool) (stall : Bool) : P (Mod.lateError m k e routing stall) := by
  unfold Mod.lateError
  try dsimp only
  repeat' first
    | with_reducible assumption
    | with_reducible apply Mod.dropPkt_keeps hS.up
    | with_reducible apply Mod.portCtr_keeps hS.up
    | with_reducible apply Mod.portObj_keeps hS.up
    | with_reducible apply Mod.raise_keeps hS.up
    | with_reducible apply Mod.sendNullify_keeps hS.up
    | with_reducible apply Mod.setQueue_keeps hS.up
    | with_reducible apply Mod.unqueue_keeps hS.up
    | with_reducible apply hS.onSw
    | with_reducible apply hS.emit
    | split

theorem Mod.poisonHeld_keeps {P : Mod → Prop} (hS : Stable 0x800 P) {m : Mod} (hm : P m) (id : Nat) :
    P (Mod.poisonHeld m id) := by
  unfold Mod.poisonHeld
  try dsimp only
  repeat' first | with_reducible assumption | with_reducible apply Mod.onHeld_keeps hS.up

theorem Mod.discardHeld_keeps {P : Mod → Prop} (hS : Stable 0x21000c80 P) {m : Mod} (hm : P m) (id : Nat) :
    PairP P (Mod.discardHeld m id) := by
  unfold Mod.discardHeld
  try dsimp only
  repeat' first
    | with_reducible assumption
    | with_reducible apply Mod.unqueue_keeps hS.up
    | with_reducible apply Mod.takeOut_keeps hS.up
    | with_reducible apply PairP.mk
    | split

end Sys2Proof.Machine
end

