-- ==== Sys2Proof/Laws/KeepsBridgeOps.lean ====
section
/-! SUPPORT. What each operation of BridgeOps.lean can do: it keeps every property stable under the updates of its mask. -/
namespace Sys2Proof.Machine
set_option Elab.async false

theorem Mod.refuse_keeps {P : Mod → Prop} (hS : Stable 0xe900000c P) {m : Mod} (hm : P m) (r : IoReq) (code : Nat) :
    P (Mod.refuse m r code) := by
  unfold Mod.refuse
  try dsimp only
  repeat' first
    | with_reducible assumption
    | with_reducible apply Mod.moverResult_keeps hS.up
    | with_reducible apply Mod.completeTo_keeps hS.up
    | with_reducible apply Mod.postedError_keeps hS.up
    | split

theorem Mod.refuseSize_keeps {P : Mod → Prop} (hS : Stable 0xe900000c P) {m : Mod} (hm : P m) (r : IoReq) :
    P (Mod.refuseSize m r) := by
  unfold Mod.refuseSize
  try dsimp only
  repeat' first
    | with_reducible assumption
    | with_reducible apply Mod.refuse_keeps hS.up
    | with_reducible apply Mod.raiseOnce_keeps hS.up
    | with_reducible apply Mod.bump_keeps hS.up
    | split

theorem Mod.deny_keeps {P : Mod → Prop} (hS : Stable 0x6000000c P) {m : Mod} (hm : P m) (kind : Nat) (port : Nat) (tenant : Nat) (addr : Nat) :
    P (Mod.deny m kind port tenant addr) := by
  unfold Mod.deny
  try dsimp only
  repeat' first | with_reducible assumption | with_reducible apply Mod.raiseOnce_keeps hS.up | with_reducible apply Mod.bump_keeps hS.up

theorem Mod.launch_keeps {P : Mod → Prop} (hS : Stable 0x21000010 P) {m : Mod} (hm : P m) (r : IoReq) (sw : Nat) (q : Nat) (inbox : Bool) (pkt : Pkt) :
    P (Mod.launch m r sw q inbox pkt) := by
  unfold Mod.launch
  try dsimp only
  repeat' first
    | with_reducible assumption
    | with_reducible apply Mod.arrive_keeps hS.up
    | with_reducible apply Mod.originate_keeps hS.up
    | with_reducible apply hS.ite
    | with_reducible apply hS.each
    | split
    | intro _ _ hm

theorem Mod.carryIo_keeps {P : Mod → Prop} (hS : Stable 0x21100010 P) {m : Mod} (hm : P m) (r : IoReq) (sw : Nat) (q : Nat) :
    OptP P (Mod.carryIo m r sw q) := by
  unfold Mod.carryIo
  try dsimp only
  repeat' first
    | with_reducible assumption
    | with_reducible apply Mod.launch_keeps hS.up
    | with_reducible apply Mod.allocTrk_keeps hS.up
    | with_reducible apply hS.onBr
    | with_reducible apply OptP.ite
    | with_reducible apply hS.ite
    | with_reducible apply OptP.some
    | with_reducible apply PairP.mk
    | with_reducible exact OptP.none
    | refine OptPairP.get ?_ (by assumption)
    | refine OptPairP.fst ?_ (by assumption)
    | split

theorem Mod.dpcRefuse_keeps {P : Mod → Prop} (hS : Stable 0xe900000c P) {m : Mod} (hm : P m) (r : IoReq) (q : Nat) :
    P (Mod.dpcRefuse m r q) := by
  unfold Mod.dpcRefuse
  try dsimp only
  repeat' first
    | with_reducible assumption
    | with_reducible apply Mod.refuse_keeps hS.up
    | with_reducible apply Mod.completeTo_keeps hS.up
    | with_reducible apply Mod.bump_keeps hS.up
    | with_reducible apply hS.ite
    | split

theorem Mod.carryTo_keeps {P : Mod → Prop} (hS : Stable 0xe910001c P) {m : Mod} (hm : P m) (r : IoReq) :
    OptP P (Mod.carryTo m r) := by
  unfold Mod.carryTo
  try dsimp only
  repeat' first
    | with_reducible assumption
    | with_reducible apply Mod.dpcRefuse_keeps hS.up
    | with_reducible apply Mod.carryIo_keeps hS.up
    | with_reducible apply Mod.refuse_keeps hS.up
    | with_reducible apply OptP.ite
    | with_reducible apply hS.ite
    | with_reducible apply OptP.some
    | with_reducible exact OptP.none
    | refine OptP.get ?_ (by assumption)
    | split

theorem Mod.carryParcel_keeps {P : Mod → Prop} (hS : Stable 0x35100010 P) {m : Mod} (hm : P m) (r : IoReq) (home : Nat) (desc : Nat) (acks : List Nat) (piece : Nat) (silent : Bool) :
    OptP P (Mod.carryParcel m r home desc acks piece silent) := by
  unfold Mod.carryParcel
  try dsimp only
  repeat' first
    | with_reducible assumption
    | with_reducible apply Mod.enqueue_keeps hS.up
    | with_reducible apply Mod.arrive_keeps hS.up
    | with_reducible apply Mod.freeTrk_keeps hS.up
    | with_reducible apply Mod.allocTrk_keeps hS.up
    | with_reducible apply Mod.originate_keeps hS.up
    | with_reducible apply hS.onBr
    | with_reducible apply OptP.ite
    | with_reducible apply hS.ite
    | with_reducible apply OptP.some
    | with_reducible apply OptP.getD
    | with_reducible apply PairP.mk
    | with_reducible exact OptP.none
    | refine OptPairP.get ?_ (by assumption)
    | refine OptPairP.fst ?_ (by assumption)
    | split

theorem Mod.hold_keeps {P : Mod → Prop} (hS : Stable 0x100000 P) {m : Mod} (hm : P m) (r : IoReq) :
    P (Mod.hold m r) := by
  unfold Mod.hold
  try dsimp only
  repeat' first | with_reducible assumption | with_reducible apply hS.onBr

theorem Mod.tryCarry_keeps {P : Mod → Prop} (hS : Stable 0xfd10001c P) {m : Mod} (hm : P m) (r : IoReq) :
    OptP P (Mod.tryCarry m r) := by
  unfold Mod.tryCarry
  try dsimp only
  repeat' first
    | with_reducible assumption
    | with_reducible apply Mod.carryParcel_keeps hS.up
    | with_reducible apply Mod.carryTo_keeps hS.up
    | with_reducible apply OptP.some
    | with_reducible apply OptP.getD
    | with_reducible apply PairP.mk
    | with_reducible exact OptP.none
    | refine OptP.get ?_ (by assumption)
    | split

theorem Mod.stallHold_keeps {P : Mod → Prop} (hS : Stable 0x4010001c P) {m : Mod} (hm : P m) (r : IoReq) :
    P (Mod.stallHold m r) := by
  unfold Mod.stallHold
  try dsimp only
  repeat' first | with_reducible assumption | with_reducible apply Mod.hold_keeps hS.up | with_reducible apply Mod.trkStall_keeps hS.up

theorem Mod.accept_keeps {P : Mod → Prop} (hS : Stable 0xfd10001c P) {m : Mod} (hm : P m) (r : IoReq) :
    P (Mod.accept m r) := by
  unfold Mod.accept
  try dsimp only
  repeat' first
    | with_reducible assumption
    | with_reducible apply Mod.stallHold_keeps hS.up
    | with_reducible apply Mod.tryCarry_keeps hS.up
    | with_reducible apply Mod.hold_keeps hS.up
    | with_reducible apply hS.ite
    | with_reducible apply OptP.some
    | refine OptP.get ?_ (by assumption)
    | split

theorem Mod.sendRun_keeps {P : Mod → Prop} (hS : Stable 0xfd90001c P) {m : Mod} (hm : P m) (r : IoReq) (acks : List Nat) :
    P (Mod.sendRun m r acks) := by
  unfold Mod.sendRun
  try dsimp only
  repeat' first
    | with_reducible assumption
    | with_reducible apply Mod.accept_keeps hS.up
    | with_reducible apply Mod.carryParcel_keeps hS.up
    | with_reducible apply Mod.ackWrite_keeps hS.up
    | with_reducible apply Mod.trkStall_keeps hS.up
    | with_reducible apply Mod.newAccess_keeps hS.up
    | with_reducible refine PairP.fst (Mod.newAccess_keeps hS.up (hm := ?_) ..)
    | with_reducible apply hS.each
    | with_reducible apply OptP.some
    | with_reducible apply PairP.mk
    | refine OptP.get ?_ (by assumption)
    | refine PairP.get ?_ (by assumption)
    | split
    | intro _ _ hm

theorem Mod.flushWc_keeps {P : Mod → Prop} (hS : Stable 0xfd90001c P) {m : Mod} (hm : P m) (e : WcEnt) :
    P (Mod.flushWc m e) := by
  unfold Mod.flushWc
  try dsimp only
  repeat' first
    | with_reducible assumption
    | with_reducible apply Mod.sendRun_keeps hS.up
    | with_reducible apply Mod.bump_keeps hS.up
    | with_reducible apply hS.onBr
    | with_reducible apply hS.each
    | split
    | intro _ _ hm

theorem Mod.flushWhere_keeps {P : Mod → Prop} (hS : Stable 0xfd90001c P) {m : Mod} (hm : P m) (f : WcEnt → Bool) :
    P (Mod.flushWhere m f) := by
  unfold Mod.flushWhere
  try dsimp only
  repeat' first | with_reducible assumption | with_reducible apply Mod.flushWc_keeps hS.up | with_reducible apply hS.each | split | intro _ _ hm

theorem Mod.combine_keeps {P : Mod → Prop} (hS : Stable 0xfd90001c P) {m : Mod} (hm : P m) (p : Nat) (r : IoReq) (acks : List Nat) :
    P (Mod.combine m p r acks) := by
  unfold Mod.combine
  try dsimp only
  repeat' first
    | with_reducible assumption
    | with_reducible apply Mod.flushWc_keeps hS.up
    | with_reducible apply hS.onBr
    | with_reducible apply hS.ite
    | with_reducible apply OptP.map
    | split

theorem Mod.flushFor_keeps {P : Mod → Prop} (hS : Stable 0xfd90001c P) {m : Mod} (hm : P m) (r : IoReq) :
    P (Mod.flushFor m r) := by
  unfold Mod.flushFor
  try dsimp only
  repeat' first | with_reducible assumption | with_reducible apply Mod.flushWhere_keeps hS.up | split

theorem Mod.acceptWrite_keeps {P : Mod → Prop} (hS : Stable 0xfd90001c P) {m : Mod} (hm : P m) (r : IoReq) (normal : Bool) (windowed : Bool) :
    P (Mod.acceptWrite m r normal windowed) := by
  unfold Mod.acceptWrite
  try dsimp only
  repeat' first
    | with_reducible assumption
    | with_reducible apply Mod.flushFor_keeps hS.up
    | with_reducible apply Mod.combine_keeps hS.up
    | with_reducible apply Mod.sendRun_keeps hS.up
    | with_reducible apply Mod.accept_keeps hS.up
    | with_reducible apply hS.ite
    | with_reducible apply hS.each
    | split
    | intro _ _ hm

theorem Mod.memRefuse_keeps {P : Mod → Prop} (hS : Stable 0x6180000c P) {m : Mod} (hm : P m) (p : Nat) (tag : Nat) (tenant : Nat) (v : Nat) (dpa : Nat) (write : Bool) :
    P (Mod.memRefuse m p tag tenant v dpa write) := by
  unfold Mod.memRefuse
  try dsimp only
  repeat' first
    | with_reducible assumption
    | with_reducible apply Mod.mediaEvent_keeps hS.up
    | with_reducible apply Mod.answerHost_keeps hS.up
    | with_reducible apply hS.ite

theorem Mod.cacheAccess_keeps {P : Mod → Prop} (hS : Stable 0x4910001c P) {m : Mod} (hm : P m) (r : IoReq) (kind : AccKind) (line : Nat) :
    P (Mod.cacheAccess m r kind line) := by
  unfold Mod.cacheAccess
  try dsimp only
  repeat' first
    | with_reducible assumption
    | with_reducible apply Mod.stallHold_keeps hS.up
    | with_reducible apply Mod.onLine_keeps hS.up
    | with_reducible apply Mod.allocTrk_keeps hS.up
    | with_reducible apply hS.onBr
    | with_reducible apply PairP.mk
    | refine OptPairP.get ?_ (by assumption)
    | refine OptPairP.fst ?_ (by assumption)
    | split

theorem Mod.hostAccess_keeps {P : Mod → Prop} (hS : Stable 0xfd90001c P) {m : Mod} (hm : P m) (r : IoReq) (kind : AccKind) (home : Nat) (desc : Nat) :
    P (Mod.hostAccess m r kind home desc) := by
  unfold Mod.hostAccess
  try dsimp only
  repeat' first
    | with_reducible assumption
    | with_reducible apply Mod.cacheAccess_keeps hS.up
    | with_reducible apply Mod.flushFor_keeps hS.up
    | with_reducible apply Mod.combine_keeps hS.up
    | with_reducible apply Mod.accept_keeps hS.up
    | with_reducible apply Mod.stallHold_keeps hS.up
    | with_reducible apply Mod.hold_keeps hS.up
    | with_reducible apply Mod.allocTrk_keeps hS.up
    | with_reducible apply Mod.newAccess_keeps hS.up
    | with_reducible refine PairP.fst (Mod.newAccess_keeps hS.up (hm := ?_) ..)
    | with_reducible apply hS.onBr
    | with_reducible apply hS.ite
    | with_reducible apply hS.each
    | with_reducible apply hS.foldl
    | with_reducible apply PairP.mk
    | with_reducible apply PairP.foldl
    | refine PairP.get ?_ (by assumption)
    | refine OptPairP.get ?_ (by assumption)
    | refine OptPairP.fst ?_ (by assumption)
    | split
    | intro _ _ hm

theorem Mod.hostMem_keeps {P : Mod → Prop} (hS : Stable 0xfd90001c P) {m : Mod} (hm : P m) (p : Nat) (tag : Nat) (dpa : Nat) (kind : AccKind) (io : Io) (len : Nat) (data : Nat) (mask : Nat) (alu : Option (Nat × Nat × Nat)) :
    P (Mod.hostMem m p tag dpa kind io len data mask alu) := by
  unfold Mod.hostMem
  try dsimp only
  repeat' first
    | with_reducible assumption
    | with_reducible apply Mod.hostAccess_keeps hS.up
    | with_reducible apply Mod.memRefuse_keeps hS.up
    | with_reducible apply Mod.deny_keeps hS.up
    | with_reducible apply Mod.completeTo_keeps hS.up
    | with_reducible apply Mod.newAccess_keeps hS.up
    | with_reducible refine PairP.fst (Mod.newAccess_keeps hS.up (hm := ?_) ..)
    | with_reducible apply Mod.tally_keeps hS.up
    | with_reducible apply Mod.raiseOnce_keeps hS.up
    | with_reducible apply Mod.bump_keeps hS.up
    | with_reducible apply hS.ite
    | with_reducible apply PairP.mk
    | refine PairP.get ?_ (by assumption)
    | split

end Sys2Proof.Machine
end

