-- ==== Sys2Proof/Laws/KeepsBridgeRx.lean ====
section
/-! SUPPORT. What each operation of BridgeRx.lean can do: it keeps every property stable under the updates of its mask. -/
namespace Sys2Proof.Machine
set_option Elab.async false

theorem Mod.ioAccept_keeps {P : Mod → Prop} (hS : Stable 0xfd90001e P) {m : Mod} (hm : P m) (r0 : IoReq) (windowed : Bool) (device : Bool) :
    P (Mod.ioAccept m r0 windowed device) := by
  unfold Mod.ioAccept
  try dsimp only
  repeat' first
    | with_reducible assumption
    | with_reducible apply Mod.acceptWrite_keeps hS.up
    | with_reducible apply Mod.flushFor_keeps hS.up
    | with_reducible apply Mod.accept_keeps hS.up
    | with_reducible apply Mod.refuseSize_keeps hS.up
    | with_reducible apply Mod.refuse_keeps hS.up
    | with_reducible apply Mod.newAccess_keeps hS.up
    | with_reducible refine PairP.fst (Mod.newAccess_keeps hS.up (hm := ?_) ..)
    | with_reducible apply hS.drawn
    | with_reducible apply hS.ite
    | with_reducible apply hS.each
    | with_reducible apply PairP.mk
    | refine PairP.get ?_ (by assumption)
    | split
    | intro _ _ hm

theorem Mod.ioByAddr_keeps {P : Mod → Prop} (hS : Stable 0xfd90001e P) {m : Mod} (hm : P m) (p : Nat) (r : IoReq) (interrupt : Bool) :
    P (Mod.ioByAddr m p r interrupt) := by
  unfold Mod.ioByAddr
  try dsimp only
  repeat' first
    | with_reducible assumption
    | with_reducible apply Mod.ioAccept_keeps hS.up
    | with_reducible apply Mod.deny_keeps hS.up
    | with_reducible apply Mod.refuse_keeps hS.up
    | with_reducible apply hS.ite
    | split

theorem Mod.ioByVppb_keeps {P : Mod → Prop} (hS : Stable 0xfd90001e P) {m : Mod} (hm : P m) (p : Nat) (n : Nat) (r : IoReq) :
    P (Mod.ioByVppb m p n r) := by
  unfold Mod.ioByVppb
  try dsimp only
  repeat' first
    | with_reducible assumption
    | with_reducible apply Mod.ioAccept_keeps hS.up
    | with_reducible apply Mod.deny_keeps hS.up
    | with_reducible apply Mod.refuse_keeps hS.up
    | with_reducible apply hS.ite
    | split

theorem Mod.hdmAccess_keeps {P : Mod → Prop} (hS : Stable 0xfd10001c P) {m : Mod} (hm : P m) (p : Nat) (tag : Nat) (n : Nat) (addr : Nat) (write : Bool) (data : Nat) (mask : Nat) (tenant : Nat) :
    P (Mod.hdmAccess m p tag n addr write data mask tenant) := by
  unfold Mod.hdmAccess
  try dsimp only
  repeat' first
    | with_reducible assumption
    | with_reducible apply Mod.accept_keeps hS.up
    | with_reducible apply Mod.answerHost_keeps hS.up
    | with_reducible apply Mod.newAccess_keeps hS.up
    | with_reducible refine PairP.fst (Mod.newAccess_keeps hS.up (hm := ?_) ..)
    | with_reducible apply Mod.tally_keeps hS.up
    | with_reducible apply hS.ite
    | with_reducible apply OptP.map
    | with_reducible apply OptP.bind
    | with_reducible apply PairP.mk
    | refine PairP.get ?_ (by assumption)
    | split

theorem Mod.untunnel_keeps {P : Mod → Prop} (hS : Stable 0x100000 P) {m : Mod} (hm : P m) (p : Pkt) :
    PairP P (Mod.untunnel m p) := by
  unfold Mod.untunnel
  try dsimp only
  repeat' first
    | with_reducible assumption
    | with_reducible apply hS.onBr
    | with_reducible apply PairP.ite
    | with_reducible apply hS.ite
    | with_reducible apply PairP.mk

theorem Mod.onSem_keeps {P : Mod → Prop} (hS : Stable 0x100000 P) {m : Mod} (hm : P m) (q : Nat) (f : Sem → Sem) :
    P (Mod.onSem m q f) := by
  unfold Mod.onSem
  try dsimp only
  repeat' first | with_reducible assumption | with_reducible apply hS.onBr

theorem Mod.semRefuse_keeps {P : Mod → Prop} (hS : Stable 0x1000000 P) {m : Mod} (hm : P m) (q : Nat) (r : SemReq) (code : Nat) :
    P (Mod.semRefuse m q r code) := by
  unfold Mod.semRefuse
  try dsimp only
  repeat' first | with_reducible assumption | with_reducible apply Mod.originate_keeps hS.up | split

theorem Mod.semComplete_keeps {P : Mod → Prop} (hS : Stable 0x1000000 P) {m : Mod} (hm : P m) (q : Nat) (r : SemReq) (old : Nat) (status : Nat) :
    P (Mod.semComplete m q r old status) := by
  unfold Mod.semComplete
  try dsimp only
  repeat' first | with_reducible assumption | with_reducible apply Mod.originate_keeps hS.up

theorem Mod.emuStart_keeps {P : Mod → Prop} (hS : Stable 0x21100010 P) {m : Mod} (hm : P m) (q : Nat) (r : SemReq) :
    OptP P (Mod.emuStart m q r) := by
  unfold Mod.emuStart
  try dsimp only
  repeat' first
    | with_reducible assumption
    | with_reducible apply Mod.onSem_keeps hS.up
    | with_reducible apply Mod.toEdge_keeps hS.up
    | with_reducible apply Mod.allocTrk_keeps hS.up
    | with_reducible apply Mod.bump_keeps hS.up
    | with_reducible apply OptP.some
    | with_reducible apply OptP.getD
    | with_reducible apply PairP.mk
    | with_reducible exact OptP.none
    | refine OptPairP.get ?_ (by assumption)
    | refine OptPairP.fst ?_ (by assumption)
    | split

theorem Mod.semTake_keeps {P : Mod → Prop} (hS : Stable 0x21100010 P) {m : Mod} (hm : P m) (q : Nat) (r : SemReq) :
    OptP P (Mod.semTake m q r) := by
  unfold Mod.semTake
  try dsimp only
  repeat' first
    | with_reducible assumption
    | with_reducible apply Mod.emuStart_keeps hS.up
    | with_reducible apply Mod.onSem_keeps hS.up
    | with_reducible apply Mod.hold_keeps hS.up
    | with_reducible apply Mod.toEdge_keeps hS.up
    | with_reducible apply Mod.bump_keeps hS.up
    | with_reducible apply OptP.ite
    | with_reducible apply hS.ite
    | with_reducible apply OptP.some
    | with_reducible apply OptP.map
    | with_reducible exact OptP.none
    | refine OptP.get ?_ (by assumption)
    | split
    | intro _ _ hm
    | intro _ hm

theorem Mod.semRequest_keeps {P : Mod → Prop} (hS : Stable 0x21100010 P) {m : Mod} (hm : P m) (q : Nat) (r : SemReq) :
    P (Mod.semRequest m q r) := by
  unfold Mod.semRequest
  try dsimp only
  repeat' first
    | with_reducible assumption
    | with_reducible apply Mod.semTake_keeps hS.up
    | with_reducible apply Mod.emuStart_keeps hS.up
    | with_reducible apply Mod.onSem_keeps hS.up
    | with_reducible apply hS.ite
    | with_reducible apply OptP.some
    | with_reducible apply OptP.getD
    | refine OptP.get ?_ (by assumption)
    | split

theorem Mod.emuEnd_keeps {P : Mod → Prop} (hS : Stable 0x1100000 P) {m : Mod} (hm : P m) (q : Nat) :
    P (Mod.emuEnd m q) := by
  unfold Mod.emuEnd
  try dsimp only
  repeat' first | with_reducible assumption | with_reducible apply Mod.onSem_keeps hS.up | with_reducible apply Mod.releaseOrphan_keeps hS.up | split

theorem Mod.pullReq_keeps {P : Mod → Prop} (hS : Stable 0x21100c90 P) {m : Mod} (hm : P m) (q : Nat) (r : SemReq) :
    PairP P (Mod.pullReq m q r) := by
  unfold Mod.pullReq
  try dsimp only
  repeat' first
    | with_reducible assumption
    | with_reducible apply Mod.unqueue_keeps hS.up
    | with_reducible apply Mod.waits_keeps hS.up
    | with_reducible apply Mod.takeOut_keeps hS.up
    | with_reducible apply hS.onBr
    | with_reducible apply hS.each
    | with_reducible apply PairP.mk
    | split
    | intro _ _ hm

theorem Mod.semFail_keeps {P : Mod → Prop} (hS : Stable 0x21100c90 P) {m : Mod} (hm : P m) (q : Nat) (code : Nat) :
    P (Mod.semFail m q code) := by
  unfold Mod.semFail
  try dsimp only
  repeat' first
    | with_reducible assumption
    | with_reducible apply Mod.pullReq_keeps hS.up
    | with_reducible refine PairP.fst (Mod.pullReq_keeps hS.up (hm := ?_) ..)
    | with_reducible apply Mod.emuEnd_keeps hS.up
    | with_reducible apply Mod.semRefuse_keeps hS.up
    | with_reducible apply Mod.onSem_keeps hS.up
    | with_reducible apply PairP.mk
    | refine PairP.get ?_ (by assumption)
    | split

theorem Mod.emuRead_keeps {P : Mod → Prop} (hS : Stable 0x1100000 P) {m : Mod} (hm : P m) (q : Nat) (words : List Nat) :
    P (Mod.emuRead m q words) := by
  unfold Mod.emuRead
  try dsimp only
  repeat' first
    | with_reducible assumption
    | with_reducible apply Mod.emuEnd_keeps hS.up
    | with_reducible apply Mod.semComplete_keeps hS.up
    | with_reducible apply Mod.onSem_keeps hS.up
    | with_reducible apply Mod.toEdge_keeps hS.up
    | with_reducible apply hS.ite
    | with_reducible apply OptP.getD
    | with_reducible apply PairP.mk
    | split

theorem Mod.emuWritten_keeps {P : Mod → Prop} (hS : Stable 0x1100000 P) {m : Mod} (hm : P m) (q : Nat) :
    P (Mod.emuWritten m q) := by
  unfold Mod.emuWritten
  try dsimp only
  repeat' first | with_reducible assumption | with_reducible apply Mod.emuEnd_keeps hS.up | with_reducible apply Mod.semComplete_keeps hS.up | split

theorem Mod.semUnlock_keeps {P : Mod → Prop} (hS : Stable 0x1100000 P) {m : Mod} (hm : P m) (q : Nat) (pkt : Pkt) :
    P (Mod.semUnlock m q pkt) := by
  unfold Mod.semUnlock
  try dsimp only
  repeat' first
    | with_reducible assumption
    | with_reducible apply Mod.emuEnd_keeps hS.up
    | with_reducible apply Mod.onSem_keeps hS.up
    | with_reducible apply Mod.toEdge_keeps hS.up
    | with_reducible apply hS.onBr
    | with_reducible apply hS.ite
    | split

theorem Mod.dpcEnd_keeps {P : Mod → Prop} (hS : Stable 0x21000000 P) {m : Mod} (hm : P m) (q : Nat) (pkt : Pkt) :
    P (Mod.dpcEnd m q pkt) := by
  unfold Mod.dpcEnd
  try dsimp only
  repeat' first
    | with_reducible assumption
    | with_reducible apply Mod.semRefuse_keeps hS.up
    | with_reducible apply Mod.bump_keeps hS.up
    | with_reducible apply hS.ite

theorem Mod.bridgeDeliver_keeps {P : Mod → Prop} (hS : Stable 0x21100010 P) {m : Mod} (hm : P m) (q : Nat) (pkt : Pkt) : P (Mod.bridgeDeliver m q pkt) := by
  unfold Mod.bridgeDeliver
  try dsimp only
  repeat' first
    | with_reducible assumption
    | with_reducible apply Mod.dpcEnd_keeps hS.up
    | with_reducible apply Mod.semRefuse_keeps hS.up
    | with_reducible apply Mod.semRequest_keeps hS.up
    | with_reducible apply Mod.semUnlock_keeps hS.up
    | with_reducible apply Mod.toEdge_keeps hS.up
    | with_reducible apply hS.ite
    | with_reducible apply OptP.getD
    | intro _ _ hm
    | intro _ hm
    | intro _ _

theorem Mod.bridgeHome_keeps {P : Mod → Prop} (hS : Stable 0x34000000 P) {m : Mod} (hm : P m) (pkt : Pkt) :
    P (Mod.bridgeHome m pkt) := by
  unfold Mod.bridgeHome
  try dsimp only
  repeat' first | with_reducible assumption | with_reducible apply Mod.enqueue_keeps hS.up

theorem Mod.bridgeCpl_keeps {P : Mod → Prop} (hS : Stable 0xe990001e P) {m : Mod} (hm : P m) (tid : Nat) (poison : Bool) (words : List Nat) :
    P (Mod.bridgeCpl m tid poison words) := by
  unfold Mod.bridgeCpl
  try dsimp only
  repeat' first
    | with_reducible assumption
    | with_reducible apply Mod.emuRead_keeps hS.up
    | with_reducible apply Mod.trkAnswer_keeps hS.up
    | with_reducible apply Mod.completeTo_keeps hS.up
    | with_reducible apply hS.drawn
    | with_reducible apply hS.ite
    | with_reducible apply OptP.getD
    | split

theorem Mod.lockEnded_keeps {P : Mod → Prop} (hS : Stable 0x100000 P) {m : Mod} (hm : P m) (ref : Nat) (code : Nat) :
    P (Mod.lockEnded m ref code) := by
  unfold Mod.lockEnded
  try dsimp only
  repeat' first | with_reducible assumption | with_reducible apply hS.onBr | with_reducible apply hS.ite

theorem Mod.bridgeErr_keeps {P : Mod → Prop} (hS : Stable 0xe9900c9c P) {m : Mod} (hm : P m) (tid : Nat) (code : Nat) :
    P (Mod.bridgeErr m tid code) := by
  unfold Mod.bridgeErr
  try dsimp only
  repeat' first
    | with_reducible assumption
    | with_reducible apply Mod.lockEnded_keeps hS.up
    | with_reducible apply Mod.semFail_keeps hS.up
    | with_reducible apply Mod.trkAnswer_keeps hS.up
    | split

theorem Mod.writeLanded_keeps {P : Mod → Prop} (hS : Stable 0xe990001c P) {m : Mod} (hm : P m) (d : Deliv) :
    P (Mod.writeLanded m d) := by
  unfold Mod.writeLanded
  try dsimp only
  repeat' first
    | with_reducible assumption
    | with_reducible apply Mod.emuWritten_keeps hS.up
    | with_reducible apply Mod.trkAnswer_keeps hS.up
    | with_reducible apply Mod.originate_keeps hS.up
    | with_reducible apply hS.onBr
    | with_reducible apply hS.ite
    | with_reducible apply PairP.mk
    | split

theorem Mod.carryCpl_keeps {P : Mod → Prop} (hS : Stable 0x21000010 P) {m : Mod} (hm : P m) (r : IoReq) :
    P (Mod.carryCpl m r) := by
  unfold Mod.carryCpl
  try dsimp only
  repeat' first
    | with_reducible assumption
    | with_reducible apply Mod.launch_keeps hS.up
    | with_reducible apply Mod.arrive_keeps hS.up
    | with_reducible apply hS.ite
    | split

theorem Mod.acceptCpl_keeps {P : Mod → Prop} (hS : Stable 0x21100010 P) {m : Mod} (hm : P m) (r : IoReq) :
    P (Mod.acceptCpl m r) := by
  unfold Mod.acceptCpl
  try dsimp only
  repeat' first
    | with_reducible assumption
    | with_reducible apply Mod.carryCpl_keeps hS.up
    | with_reducible apply Mod.hold_keeps hS.up
    | with_reducible apply hS.ite

theorem Mod.barStart_keeps {P : Mod → Prop} (hS : Stable 0xfd90001c P) {m : Mod} (hm : P m) (stream : Nat) (who : BarWho) (before : List IoReq) :
    P (Mod.barStart m stream who before) := by
  unfold Mod.barStart
  try dsimp only
  repeat' first | with_reducible assumption | with_reducible apply Mod.flushWhere_keeps hS.up | with_reducible apply hS.onBr

theorem Mod.barAccept_keeps {P : Mod → Prop} (hS : Stable 0xfd90001c P) {m : Mod} (hm : P m) (stream : Nat) (maker : Maker) (who : BarWho) :
    P (Mod.barAccept m stream maker who) := by
  unfold Mod.barAccept
  try dsimp only
  repeat' first
    | with_reducible assumption
    | with_reducible apply Mod.barStart_keeps hS.up
    | with_reducible apply Mod.hold_keeps hS.up
    | with_reducible apply Mod.newAccess_keeps hS.up
    | with_reducible refine PairP.fst (Mod.newAccess_keeps hS.up (hm := ?_) ..)
    | with_reducible apply hS.ite

theorem Mod.onQp_keeps {P : Mod → Prop} (hS : Stable 0x80000000 P) {m : Mod} (hm : P m) (q : Nat) (f : QpSt → QpSt) :
    P (Mod.onQp m q f) := by
  unfold Mod.onQp
  try dsimp only
  repeat' first | with_reducible assumption | with_reducible refine hS.onSvM ?_ (fun _ => by constructor <;> with_reducible_and_instances rfl)

theorem Mod.barDone_keeps {P : Mod → Prop} (hS : Stable 0xe010000c P) {m : Mod} (hm : P m) (b : Barrier) :
    P (Mod.barDone m b) := by
  unfold Mod.barDone
  try dsimp only
  repeat' first
    | with_reducible assumption
    | with_reducible apply Mod.onQp_keeps hS.up
    | with_reducible apply Mod.hostEvent_keeps hS.up
    | with_reducible apply Mod.onFn__keeps hS.up
    | with_reducible apply Mod.raise_keeps hS.up
    | with_reducible apply Mod.bump_keeps hS.up
    | with_reducible apply hS.onBr
    | with_reducible apply hS.ite
    | with_reducible apply hS.when
    | with_reducible apply OptP.map
    | with_reducible apply PairP.mk
    | split

theorem Mod.carryHeld_keeps {P : Mod → Prop} (hS : Stable 0xfd90001c P) {m : Mod} (hm : P m) (r : IoReq) (before : List IoReq) : P (Mod.carryHeld m r before) := by
  unfold Mod.carryHeld
  extract_lets m0 m1
  have h0 : P m0 := hS.onBr hm
  have h1 : OptP P m1 := by
    unfold m1
    split
    · split
      · exact OptP.ite (OptP.some (Mod.cacheAccess_keeps hS.up h0 _ _ _)) OptP.none
      · exact Mod.tryCarry_keeps hS.up h0 _
    · exact Mod.tryCarry_keeps hS.up h0 _
  split
  · exact Mod.barStart_keeps hS.up h0 _ _ _
  split
  · exact Mod.carryCpl_keeps hS.up h0 _
  clear_value m1
  cases m1 with
  | none => exact hm
  | some m2 =>
    have h2 := h1.get rfl
    exact hS.ite (Mod.liveDone_keeps hS.up (hS.onBr h2) _ _) h2

end Sys2Proof.Machine
end

