-- ==== Sys2Proof/Laws/KeepsBridging.lean ====
section
/-! SUPPORT. What each operation of Bridging.lean can do: it keeps every property stable under the updates of its mask. -/
namespace Sys2Proof.Machine
set_option Elab.async false

theorem execIoPostedWrite_keeps {P : Mod → Prop} (hS : Stable 0xff90001e P) (p : EdgePort) (t : Tenant) (kind : PostedKind) (n : Vppb) (addr : Nat) (len : Nat) (data : Nat) (mask : Nat) (hdr : Nat) (poison : Bool) (secure : Bool) (st : State) (hm : P st.mod) : Keeps P st (execIoPostedWrite p t kind n addr len data mask hdr poison secure st) := by
  unfold execIoPostedWrite
  refine lift_keeps (fun m hm => ?_) st hm
  try dsimp only
  repeat' first
    | with_reducible assumption
    | with_reducible apply Mod.ioByVppb_keeps hS.up
    | with_reducible apply Mod.ioByAddr_keeps hS.up
    | with_reducible apply Mod.settle_keeps hS.up
    | with_reducible apply Mod.msi_keeps hS.up
    | with_reducible apply hS.ite
    | split

theorem execIoReadRequest_keeps {P : Mod → Prop} (hS : Stable 0xff90001e P) (p : EdgePort) (t : Tenant) (kind : NpKind) (n : Vppb) (addr : Nat) (len : Nat) (data : Nat) (mask : Nat) (hdr : Nat) (tag : Nat) (secure : Bool) (st : State) (hm : P st.mod) : Keeps P st (execIoReadRequest p t kind n addr len data mask hdr tag secure st) := by
  unfold execIoReadRequest
  refine lift_keeps (fun m hm => ?_) st hm
  try dsimp only
  repeat' first
    | with_reducible assumption
    | with_reducible apply Mod.ioByVppb_keeps hS.up
    | with_reducible apply Mod.ioByAddr_keeps hS.up
    | with_reducible apply Mod.settle_keeps hS.up
    | with_reducible apply hS.ite

theorem execAtomicopRequest_keeps {P : Mod → Prop} (hS : Stable 0xff90001e P) (p : EdgePort) (t : Tenant) (pooled : Bool) (op : Fin 3) (addr : Nat) (size : Nat) (a : Nat) (cmp : Nat) (hdr : Nat) (tag : Nat) (st : State) (hm : P st.mod) : Keeps P st (execAtomicopRequest p t pooled op addr size a cmp hdr tag st) := by
  unfold execAtomicopRequest
  refine lift_keeps (fun m hm => ?_) st hm
  try dsimp only
  repeat' first
    | with_reducible assumption
    | with_reducible apply Mod.ioByAddr_keeps hS.up
    | with_reducible apply Mod.hostMem_keeps hS.up
    | with_reducible apply Mod.settle_keeps hS.up
    | with_reducible apply hS.ite

theorem execLockedRead_keeps {P : Mod → Prop} (hS : Stable 0xff90001e P) (p : EdgePort) (t : Tenant) (addr : Nat) (len : Nat) (hdr : Nat) (tag : Nat) (st : State) (hm : P st.mod) : Keeps P st (execLockedRead p t addr len hdr tag st) := by
  unfold execLockedRead
  refine lift_keeps (fun m hm => ?_) st hm
  try dsimp only
  repeat' first
    | with_reducible assumption
    | with_reducible apply Mod.ioByAddr_keeps hS.up
    | with_reducible apply Mod.refuseSize_keeps hS.up
    | with_reducible apply Mod.settle_keeps hS.up
    | with_reducible apply hS.ite
    | split

theorem execUnlockMessage_keeps {P : Mod → Prop} (hS : Stable 0xff90001c P) (p : EdgePort) (t : Tenant) (hdr : Nat) (st : State) (hm : P st.mod) : Keeps P st (execUnlockMessage p t hdr st) := by
  unfold execUnlockMessage
  refine lift_keeps (fun m hm => ?_) st hm
  try dsimp only
  repeat' first
    | with_reducible assumption
    | with_reducible apply Mod.accept_keeps hS.up
    | with_reducible apply Mod.settle_keeps hS.up
    | with_reducible apply Mod.newAccess_keeps hS.up
    | with_reducible refine PairP.fst (Mod.newAccess_keeps hS.up (hm := ?_) ..)
    | with_reducible apply PairP.mk
    | refine PairP.get ?_ (by assumption)
    | split

theorem execSemaphoreAcquire_keeps {P : Mod → Prop} (hS : Stable 0x21100010 P) (p : EdgePort) (st : State) (hm : P st.mod) : Keeps P st (execSemaphoreAcquire p st) := by
  unfold execSemaphoreAcquire
  refine lift_keeps (fun m hm => ?_) st hm
  try dsimp only
  repeat' first
    | with_reducible assumption
    | with_reducible apply Mod.semTake_keeps hS.up
    | with_reducible apply Mod.onSem_keeps hS.up
    | with_reducible apply OptP.map
    | with_reducible apply OptP.getD
    | refine OptP.get ?_ (by assumption)
    | split
    | intro _ _ hm
    | intro _ hm

theorem execSemaphoreHoldTimeout_keeps {P : Mod → Prop} (hS : Stable 0x7f900c9d P) (p : EdgePort) (st : State) (hm : P st.mod) : Keeps P st (execSemaphoreHoldTimeout p st) := by
  unfold execSemaphoreHoldTimeout
  refine lift_keeps (fun m hm => ?_) st hm
  try dsimp only
  repeat' first
    | with_reducible assumption
    | with_reducible apply Mod.semFail_keeps hS.up
    | with_reducible apply Mod.settle_keeps hS.up
    | with_reducible apply Mod.raise_keeps hS.up
    | with_reducible apply Mod.advanceTo_keeps hS.up
    | with_reducible apply hS.onBr
    | with_reducible apply hS.ite
    | split

theorem execWcHoldTimeout_keeps {P : Mod → Prop} (hS : Stable 0xff90001d P) (p : EdgePort) (st : State) (hm : P st.mod) : Keeps P st (execWcHoldTimeout p st) := by
  unfold execWcHoldTimeout
  refine lift_keeps (fun m hm => ?_) st hm
  try dsimp only
  repeat' first
    | with_reducible assumption
    | with_reducible apply Mod.flushWc_keeps hS.up
    | with_reducible apply Mod.settle_keeps hS.up
    | with_reducible apply Mod.advanceTo_keeps hS.up
    | split

theorem execHeldAccessRelease_keeps {P : Mod → Prop} (hS : Stable 0xff90001c P) (i : Nat) (st : State) (hm : P st.mod) : Keeps P st (execHeldAccessRelease i st) := by
  unfold execHeldAccessRelease
  refine lift_keeps (fun m hm => ?_) st hm
  try dsimp only
  repeat' first
    | with_reducible assumption
    | with_reducible apply Mod.carryHeld_keeps hS.up
    | with_reducible apply Mod.settle_keeps hS.up
    | with_reducible apply hS.ite
    | split

theorem execBridgeReqReceived_keeps {P : Mod → Prop} (hS : Stable 0x7f90001c P) (i : Nat) (st : State) (hm : P st.mod) : Keeps P st (execBridgeReqReceived i st) := by
  unfold execBridgeReqReceived
  refine lift_keeps (fun m hm => ?_) st hm
  try dsimp only
  repeat' first
    | with_reducible assumption
    | with_reducible apply Mod.bridgeHome_keeps hS.up
    | with_reducible apply Mod.bridgeDeliver_keeps hS.up
    | with_reducible apply Mod.untunnel_keeps hS.up
    | with_reducible refine PairP.fst (Mod.untunnel_keeps hS.up (hm := ?_) ..)
    | with_reducible apply Mod.settle_keeps hS.up
    | with_reducible apply Mod.takeInbox_keeps hS.up
    | with_reducible refine PairP.fst (Mod.takeInbox_keeps hS.up (hm := ?_) ..)
    | with_reducible apply hS.ite
    | with_reducible apply OptP.getD
    | with_reducible apply PairP.mk
    | refine PairP.get ?_ (by assumption)
    | split

theorem execBridgeCplReceived_keeps {P : Mod → Prop} (hS : Stable 0xff90001e P) (i : Nat) (st : State) (hm : P st.mod) : Keeps P st (execBridgeCplReceived i st) := by
  unfold execBridgeCplReceived
  refine lift_keeps (fun m hm => ?_) st hm
  try dsimp only
  repeat' first
    | with_reducible assumption
    | with_reducible apply Mod.bridgeCpl_keeps hS.up
    | with_reducible apply Mod.untunnel_keeps hS.up
    | with_reducible refine PairP.fst (Mod.untunnel_keeps hS.up (hm := ?_) ..)
    | with_reducible apply Mod.settle_keeps hS.up
    | with_reducible apply Mod.takeInbox_keeps hS.up
    | with_reducible refine PairP.fst (Mod.takeInbox_keeps hS.up (hm := ?_) ..)
    | with_reducible apply PairP.mk
    | refine PairP.get ?_ (by assumption)
    | split

theorem execPostedWriteComplete_keeps {P : Mod → Prop} (hS : Stable 0xff90001c P) (p : EdgePort) (st : State) (hm : P st.mod) : Keeps P st (execPostedWriteComplete p st) := by
  unfold execPostedWriteComplete
  refine lift_keeps (fun m hm => ?_) st hm
  try dsimp only
  repeat' first
    | with_reducible assumption
    | with_reducible apply Mod.writeLanded_keeps hS.up
    | with_reducible apply Mod.settle_keeps hS.up
    | with_reducible apply hS.onBr
    | split

theorem execBcmpFlowTimer_keeps {P : Mod → Prop} (hS : Stable 0x1100011 P) (sw : Nat) (flow : Nat) (st : State) (hm : P st.mod) : Keeps P st (execBcmpFlowTimer sw flow st) := by
  unfold execBcmpFlowTimer
  refine lift_keeps (fun m hm => ?_) st hm
  try dsimp only
  repeat' first
    | with_reducible assumption
    | with_reducible apply Mod.originate_keeps hS.up
    | with_reducible apply Mod.count_keeps hS.up
    | with_reducible apply Mod.advanceTo_keeps hS.up
    | with_reducible apply hS.onBr
    | with_reducible apply hS.ite

theorem execBcmpReceived_keeps {P : Mod → Prop} (hS : Stable 0xff90001c P) (i : Nat) (st : State) (hm : P st.mod) : Keeps P st (execBcmpReceived i st) := by
  unfold execBcmpReceived
  refine lift_keeps (fun m hm => ?_) st hm
  try dsimp only
  repeat' first
    | with_reducible assumption
    | with_reducible apply Mod.settle_keeps hS.up
    | with_reducible apply Mod.trkAnswer_keeps hS.up
    | with_reducible apply Mod.takeInbox_keeps hS.up
    | with_reducible refine PairP.fst (Mod.takeInbox_keeps hS.up (hm := ?_) ..)
    | with_reducible apply hS.ite
    | with_reducible apply hS.each
    | with_reducible apply PairP.mk
    | refine PairP.get ?_ (by assumption)
    | split
    | intro _ _ hm

theorem execBerrReceived_keeps {P : Mod → Prop} (hS : Stable 0xff900c9c P) (i : Nat) (st : State) (hm : P st.mod) : Keeps P st (execBerrReceived i st) := by
  unfold execBerrReceived
  refine lift_keeps (fun m hm => ?_) st hm
  try dsimp only
  repeat' first
    | with_reducible assumption
    | with_reducible apply Mod.bridgeErr_keeps hS.up
    | with_reducible apply Mod.settle_keeps hS.up
    | with_reducible apply Mod.takeInbox_keeps hS.up
    | with_reducible refine PairP.fst (Mod.takeInbox_keeps hS.up (hm := ?_) ..)
    | with_reducible apply PairP.mk
    | refine PairP.get ?_ (by assumption)
    | split

theorem execSideReceived_keeps {P : Mod → Prop} (hS : Stable 0x1000200 P) (i : Nat) (st : State) (hm : P st.mod) : Keeps P st (execSideReceived i st) := by
  unfold execSideReceived
  refine lift_keeps (fun m hm => ?_) st hm
  try dsimp only
  repeat' first
    | with_reducible assumption
    | with_reducible apply Mod.onVppb_keeps hS.up
    | with_reducible apply Mod.takeInbox_keeps hS.up
    | with_reducible refine PairP.fst (Mod.takeInbox_keeps hS.up (hm := ?_) ..)
    | with_reducible apply Mod.toEdge_keeps hS.up
    | with_reducible apply hS.ite
    | with_reducible apply hS.each
    | with_reducible apply OptP.map
    | with_reducible apply PairP.mk
    | refine PairP.get ?_ (by assumption)
    | split
    | intro _ _ hm

theorem execBarrierWrite_keeps {P : Mod → Prop} (hS : Stable 0xff90001c P) (b : BarrierBy) (st : State) (hm : P st.mod) : Keeps P st (execBarrierWrite b st) := by
  unfold execBarrierWrite
  refine lift_keeps (fun m hm => ?_) st hm
  try dsimp only
  repeat' first | with_reducible assumption | with_reducible apply Mod.barAccept_keeps hS.up | with_reducible apply Mod.settle_keeps hS.up | split

theorem execBarrierComplete_keeps {P : Mod → Prop} (hS : Stable 0xff90001c P) (i : Nat) (st : State) (hm : P st.mod) : Keeps P st (execBarrierComplete i st) := by
  unfold execBarrierComplete
  refine lift_keeps (fun m hm => ?_) st hm
  try dsimp only
  repeat' first
    | with_reducible assumption
    | with_reducible apply Mod.barDone_keeps hS.up
    | with_reducible apply Mod.settle_keeps hS.up
    | with_reducible apply hS.ite
    | split

theorem execCxlIoCompletion_keeps {P : Mod → Prop} (hS : Stable 0x7f90001c P) (p : EdgePort) (k : Nat) (status : Nat) (len : Nat) (data : Nat) (rest : Nat) (poison : Bool) (secure : Bool) (st : State) (hm : P st.mod) : Keeps P st (execCxlIoCompletion p k status len data rest poison secure st) := by
  unfold execCxlIoCompletion
  refine lift_keeps (fun m hm => ?_) st hm
  try dsimp only
  repeat' first
    | with_reducible assumption
    | with_reducible apply Mod.acceptCpl_keeps hS.up
    | with_reducible refine PairP.fst (Mod.newAccess_keeps hS.up (hm := ?_) ..)
    | with_reducible apply Mod.settle_keeps hS.up
    | with_reducible apply hS.onBr
    | with_reducible apply hS.each
    | split
    | intro _ _ hm

theorem execBarRegisterWrite_keeps {P : Mod → Prop} (hS : Stable 0xff90021c P) (v : Vcs) (n : Vppb) (bar : Fin 6) (base : Nat) (size : Nat) (pf : Bool) (st : State) (hm : P st.mod) : Keeps P st (execBarRegisterWrite v n bar base size pf st) := by
  unfold execBarRegisterWrite
  refine lift_keeps (fun m hm => ?_) st hm
  try dsimp only
  repeat' first
    | with_reducible assumption
    | with_reducible apply Mod.flushWhere_keeps hS.up
    | with_reducible apply Mod.settle_keeps hS.up
    | with_reducible apply Mod.onVppb_keeps hS.up

theorem Mod.memRequest_keeps {P : Mod → Prop} (hS : Stable 0xff90001c P) {m : Mod} (hm : P m) (p : EdgePort) (t : Tenant) (n : Vppb) (tag : Nat) (addr : Nat) (kind : AccKind) (line : Nat) (mask : Nat) :
    P (Mod.memRequest m p t n tag addr kind line mask) := by
  unfold Mod.memRequest
  try dsimp only
  repeat' first
    | with_reducible assumption
    | with_reducible apply Mod.hdmAccess_keeps hS.up
    | with_reducible apply Mod.hostMem_keeps hS.up
    | with_reducible apply Mod.settle_keeps hS.up
    | with_reducible apply hS.ite

theorem execHostMemrdNocache_keeps {P : Mod → Prop} (hS : Stable 0xff90001c P) (p : EdgePort) (t : Tenant) (n : Vppb) (tag : Nat) (addr : Nat) (st : State) (hm : P st.mod) : Keeps P st (execHostMemrdNocache p t n tag addr st) := by
  unfold execHostMemrdNocache
  refine lift_keeps (fun m hm => ?_) st hm
  try dsimp only
  repeat' first | with_reducible assumption | with_reducible apply Mod.memRequest_keeps hS.up

theorem execHostMemrdShared_keeps {P : Mod → Prop} (hS : Stable 0xff90001c P) (p : EdgePort) (t : Tenant) (n : Vppb) (tag : Nat) (addr : Nat) (st : State) (hm : P st.mod) : Keeps P st (execHostMemrdShared p t n tag addr st) := by
  unfold execHostMemrdShared
  refine lift_keeps (fun m hm => ?_) st hm
  try dsimp only
  repeat' first | with_reducible assumption | with_reducible apply Mod.memRequest_keeps hS.up

theorem execHostMemrdAny_keeps {P : Mod → Prop} (hS : Stable 0xff90001c P) (p : EdgePort) (t : Tenant) (n : Vppb) (tag : Nat) (addr : Nat) (st : State) (hm : P st.mod) : Keeps P st (execHostMemrdAny p t n tag addr st) := by
  unfold execHostMemrdAny
  refine lift_keeps (fun m hm => ?_) st hm
  try dsimp only
  repeat' first | with_reducible assumption | with_reducible apply Mod.memRequest_keeps hS.up

theorem execHostMemwr_keeps {P : Mod → Prop} (hS : Stable 0xff90001c P) (p : EdgePort) (t : Tenant) (n : Vppb) (tag : Nat) (addr : Nat) (data : Nat) (mask : Nat) (st : State) (hm : P st.mod) : Keeps P st (execHostMemwr p t n tag addr data mask st) := by
  unfold execHostMemwr
  refine lift_keeps (fun m hm => ?_) st hm
  try dsimp only
  repeat' first | with_reducible assumption | with_reducible apply Mod.memRequest_keeps hS.up

end Sys2Proof.Machine
end

