-- ==== Sys2Proof/Laws/KeepsCoherence.lean ====
section
/-! SUPPORT. What each operation of Coherence.lean can do: it keeps every property stable under the updates of its mask. -/
namespace Sys2Proof.Machine
set_option Elab.async false

theorem Mod.onMsg_keeps {P : Mod → Prop} (hS : Stable 0x7f90001c P) {m : Mod} (hm : P m) {f : Pkt → Nat → Mod → Mod} (hf : ∀ x0 x1 x2, P x2 → P (f x0 x1 x2)) (i : Nat) (k : MsgKind) (role : Nat → Bool)  :
    P (Mod.onMsg m i k role f) := by
  unfold Mod.onMsg
  try dsimp only
  repeat' first
    | with_reducible assumption
    | with_reducible apply Mod.settle_keeps hS.up
    | with_reducible apply Mod.raise_keeps hS.up
    | with_reducible apply Mod.bump_keeps hS.up
    | with_reducible refine hS.onSwN ?_ (fun _ => by with_reducible_and_instances rfl)
    | with_reducible apply hS.ite
    | with_reducible apply hf
    | split

theorem Mod.homeMsg_keeps {P : Mod → Prop} (hS : Stable 0x7f90001c P) {m : Mod} (hm : P m) (i : Nat) (k : MsgKind) (keep : Bool) : P (Mod.homeMsg m i k keep) := by
  unfold Mod.homeMsg
  try dsimp only
  repeat' first
    | with_reducible assumption
    | with_reducible apply Mod.enqueue_keeps hS.up
    | with_reducible apply Mod.homeStart_keeps hS.up
    | with_reducible apply Mod.kind5_keeps hS.up
    | with_reducible apply Mod.onMsg_keeps hS.up
    | with_reducible apply Mod.sliceCtr_keeps hS.up
    | with_reducible apply Mod.tally_keeps hS.up
    | with_reducible apply Mod.trkStall_keeps hS.up
    | with_reducible apply hS.ite
    | intro _ _ _ hm
    | split
    | refine OptPairP.get ?_ (by assumption)
    | refine OptPairP.fst ?_ (by assumption)

theorem execHomeTransactionStart_keeps {P : Mod → Prop} (hS : Stable 0x7f90001c P) (desc : Nat) (off : Nat) (st : State) (hm : P st.mod) : Keeps P st (execHomeTransactionStart desc off st) := by
  unfold execHomeTransactionStart
  refine lift_keeps (fun m hm => ?_) st hm
  try dsimp only
  repeat' first | with_reducible assumption | with_reducible apply Mod.settle_keeps hS.up | with_reducible apply Mod.homeStart_keeps hS.up

theorem execHomeRdshared_keeps {P : Mod → Prop} (hS : Stable 0x7f90001c P) (i : Nat) (st : State) (hm : P st.mod) : Keeps P st (execHomeRdshared i st) := by
  unfold execHomeRdshared
  refine lift_keeps (fun m hm => ?_) st hm
  try dsimp only
  repeat' first | with_reducible assumption | with_reducible apply Mod.homeMsg_keeps hS.up

theorem execHomeRdown_keeps {P : Mod → Prop} (hS : Stable 0x7f90001c P) (i : Nat) (st : State) (hm : P st.mod) : Keeps P st (execHomeRdown i st) := by
  unfold execHomeRdown
  refine lift_keeps (fun m hm => ?_) st hm
  try dsimp only
  repeat' first | with_reducible assumption | with_reducible apply Mod.homeMsg_keeps hS.up

theorem execHomeUpgrade_keeps {P : Mod → Prop} (hS : Stable 0x7f90001c P) (i : Nat) (st : State) (hm : P st.mod) : Keeps P st (execHomeUpgrade i st) := by
  unfold execHomeUpgrade
  refine lift_keeps (fun m hm => ?_) st hm
  try dsimp only
  repeat' first | with_reducible assumption | with_reducible apply Mod.homeMsg_keeps hS.up

theorem execHomeWbdirty_keeps {P : Mod → Prop} (hS : Stable 0x7f90001c P) (i : Nat) (st : State) (hm : P st.mod) : Keeps P st (execHomeWbdirty i st) := by
  unfold execHomeWbdirty
  refine lift_keeps (fun m hm => ?_) st hm
  try dsimp only
  repeat' first | with_reducible assumption | with_reducible apply Mod.homeMsg_keeps hS.up

theorem execHomeWbdirtyKeep_keeps {P : Mod → Prop} (hS : Stable 0x7f90001c P) (i : Nat) (st : State) (hm : P st.mod) : Keeps P st (execHomeWbdirtyKeep i st) := by
  unfold execHomeWbdirtyKeep
  refine lift_keeps (fun m hm => ?_) st hm
  try dsimp only
  repeat' first | with_reducible assumption | with_reducible apply Mod.homeMsg_keeps hS.up

theorem execHomeEvictexcl_keeps {P : Mod → Prop} (hS : Stable 0x7f90001c P) (i : Nat) (st : State) (hm : P st.mod) : Keeps P st (execHomeEvictexcl i st) := by
  unfold execHomeEvictexcl
  refine lift_keeps (fun m hm => ?_) st hm
  try dsimp only
  repeat' first | with_reducible assumption | with_reducible apply Mod.homeMsg_keeps hS.up

theorem execHomeFlushowned_keeps {P : Mod → Prop} (hS : Stable 0x7f90001c P) (i : Nat) (st : State) (hm : P st.mod) : Keeps P st (execHomeFlushowned i st) := by
  unfold execHomeFlushowned
  refine lift_keeps (fun m hm => ?_) st hm
  try dsimp only
  repeat' first | with_reducible assumption | with_reducible apply Mod.homeMsg_keeps hS.up

theorem execHomeCmp_keeps {P : Mod → Prop} (hS : Stable 0x7f90001c P) (i : Nat) (st : State) (hm : P st.mod) : Keeps P st (execHomeCmp i st) := by
  unfold execHomeCmp
  refine lift_keeps (fun m hm => ?_) st hm
  try dsimp only
  repeat' first
    | with_reducible assumption
    | with_reducible apply Mod.onMsg_keeps hS.up
    | with_reducible apply Mod.homeEnd_keeps hS.up
    | with_reducible apply Mod.cohErr_keeps hS.up
    | with_reducible apply hS.ite
    | with_reducible apply OptP.map
    | split
    | intro _ _ hm
    | intro _ hm
    | intro _

theorem execHomeInvack_keeps {P : Mod → Prop} (hS : Stable 0x7f90001c P) (i : Nat) (st : State) (hm : P st.mod) : Keeps P st (execHomeInvack i st) := by
  unfold execHomeInvack
  refine lift_keeps (fun m hm => ?_) st hm
  try dsimp only
  repeat' first
    | with_reducible assumption
    | with_reducible apply Mod.onMsg_keeps hS.up
    | with_reducible apply Mod.recallAnswer_keeps hS.up
    | split
    | intro _ _ hm
    | intro _ hm
    | intro _

theorem execHomeDataowned_keeps {P : Mod → Prop} (hS : Stable 0x7f90001c P) (i : Nat) (st : State) (hm : P st.mod) : Keeps P st (execHomeDataowned i st) := by
  unfold execHomeDataowned
  refine lift_keeps (fun m hm => ?_) st hm
  try dsimp only
  repeat' first
    | with_reducible assumption
    | with_reducible apply Mod.onMsg_keeps hS.up
    | with_reducible apply Mod.recallAnswer_keeps hS.up
    | split
    | intro _ _ hm
    | intro _ hm
    | intro _

theorem execBackingReadDone_keeps {P : Mod → Prop} (hS : Stable 0x7f90001c P) (desc : Nat) (off : Nat) (data : Nat) (poison : Bool) (st : State) (hm : P st.mod) : Keeps P st (execBackingReadDone desc off data poison st) := by
  unfold execBackingReadDone
  refine lift_keeps (fun m hm => ?_) st hm
  try dsimp only
  repeat' first | with_reducible assumption | with_reducible apply Mod.settle_keeps hS.up | with_reducible apply Mod.homeRead_keeps hS.up

theorem execBackingWriteDone_keeps {P : Mod → Prop} (hS : Stable 0x7f90001c P) (desc : Nat) (off : Nat) (st : State) (hm : P st.mod) : Keeps P st (execBackingWriteDone desc off st) := by
  unfold execBackingWriteDone
  refine lift_keeps (fun m hm => ?_) st hm
  try dsimp only
  repeat' first | with_reducible assumption | with_reducible apply Mod.settle_keeps hS.up | with_reducible apply Mod.homeWritten_keeps hS.up

theorem execDirectoryEntryReady_keeps {P : Mod → Prop} (hS : Stable 0x7f90001c P) (desc : Nat) (off : Nat) (st : State) (hm : P st.mod) : Keeps P st (execDirectoryEntryReady desc off st) := by
  unfold execDirectoryEntryReady
  refine lift_keeps (fun m hm => ?_) st hm
  try dsimp only
  repeat' first | with_reducible assumption | with_reducible apply Mod.settle_keeps hS.up | with_reducible apply Mod.homeReady_keeps hS.up

theorem execBroadcastTokenGrant_keeps {P : Mod → Prop} (hS : Stable 0x7f90001d P) (d : Die) (st : State) (hm : P st.mod) : Keeps P st (execBroadcastTokenGrant d st) := by
  unfold execBroadcastTokenGrant
  refine lift_keeps (fun m hm => ?_) st hm
  try dsimp only
  repeat' first
    | with_reducible assumption
    | with_reducible apply Mod.settle_keeps hS.up
    | with_reducible apply Mod.homeGo_keeps hS.up
    | with_reducible apply Mod.takeToken_keeps hS.up
    | with_reducible refine hS.onHoN ?_ (fun _ => by with_reducible_and_instances rfl)
    | with_reducible apply hS.advance
    | with_reducible apply hS.ite
    | with_reducible apply PairP.mk
    | split

theorem Mod.cacheTc1_keeps {P : Mod → Prop} (hS : Stable 0x7f90001c P) {m : Mod} (hm : P m) (i : Nat) (k : MsgKind) (op : Nat) :
    P (Mod.cacheTc1 m i k op) := by
  unfold Mod.cacheTc1
  try dsimp only
  repeat' first
    | with_reducible assumption
    | with_reducible apply Mod.onMsg_keeps hS.up
    | with_reducible apply Mod.onLine_keeps hS.up
    | split
    | intro _ _ hm
    | intro _ hm
    | intro _

theorem execCacheFwdshared_keeps {P : Mod → Prop} (hS : Stable 0x7f90001c P) (i : Nat) (st : State) (hm : P st.mod) : Keeps P st (execCacheFwdshared i st) := by
  unfold execCacheFwdshared
  refine lift_keeps (fun m hm => ?_) st hm
  try dsimp only
  repeat' first | with_reducible assumption | with_reducible apply Mod.cacheTc1_keeps hS.up

theorem execCacheFwdown_keeps {P : Mod → Prop} (hS : Stable 0x7f90001c P) (i : Nat) (st : State) (hm : P st.mod) : Keeps P st (execCacheFwdown i st) := by
  unfold execCacheFwdown
  refine lift_keeps (fun m hm => ?_) st hm
  try dsimp only
  repeat' first | with_reducible assumption | with_reducible apply Mod.cacheTc1_keeps hS.up

theorem execCacheInv_keeps {P : Mod → Prop} (hS : Stable 0x7f90001c P) (i : Nat) (st : State) (hm : P st.mod) : Keeps P st (execCacheInv i st) := by
  unfold execCacheInv
  refine lift_keeps (fun m hm => ?_) st hm
  try dsimp only
  repeat' first | with_reducible assumption | with_reducible apply Mod.cacheTc1_keeps hS.up

theorem execCacheData_keeps {P : Mod → Prop} (hS : Stable 0x7f90001c P) (i : Nat) (st : State) (hm : P st.mod) : Keeps P st (execCacheData i st) := by
  unfold execCacheData
  refine lift_keeps (fun m hm => ?_) st hm
  try dsimp only
  repeat' first
    | with_reducible assumption
    | with_reducible apply Mod.onMsg_keeps hS.up
    | with_reducible apply Mod.rxData__keeps hS.up
    | split
    | intro _ _ hm
    | intro _ hm
    | intro _

theorem execCacheDataowned_keeps {P : Mod → Prop} (hS : Stable 0x7f90001c P) (i : Nat) (st : State) (hm : P st.mod) : Keeps P st (execCacheDataowned i st) := by
  unfold execCacheDataowned
  refine lift_keeps (fun m hm => ?_) st hm
  try dsimp only
  repeat' first
    | with_reducible assumption
    | with_reducible apply Mod.onMsg_keeps hS.up
    | with_reducible apply Mod.rxInvAck_keeps hS.up
    | with_reducible apply Mod.rxOwned_keeps hS.up
    | with_reducible apply hS.ite
    | split
    | intro _ _ hm
    | intro _ hm
    | intro _

theorem execCacheAckGrant_keeps {P : Mod → Prop} (hS : Stable 0x7f90001c P) (i : Nat) (st : State) (hm : P st.mod) : Keeps P st (execCacheAckGrant i st) := by
  unfold execCacheAckGrant
  refine lift_keeps (fun m hm => ?_) st hm
  try dsimp only
  repeat' first
    | with_reducible assumption
    | with_reducible apply Mod.onMsg_keeps hS.up
    | with_reducible apply Mod.rxAck_keeps hS.up
    | split
    | intro _ _ hm
    | intro _ hm
    | intro _

theorem execCacheAckError_keeps {P : Mod → Prop} (hS : Stable 0x7f90001c P) (i : Nat) (st : State) (hm : P st.mod) : Keeps P st (execCacheAckError i st) := by
  unfold execCacheAckError
  refine lift_keeps (fun m hm => ?_) st hm
  try dsimp only
  repeat' first
    | with_reducible assumption
    | with_reducible apply Mod.onMsg_keeps hS.up
    | with_reducible apply Mod.rxAckErr_keeps hS.up
    | split
    | intro _ _ hm
    | intro _ hm
    | intro _

theorem execCacheInvack_keeps {P : Mod → Prop} (hS : Stable 0x7f90001c P) (i : Nat) (st : State) (hm : P st.mod) : Keeps P st (execCacheInvack i st) := by
  unfold execCacheInvack
  refine lift_keeps (fun m hm => ?_) st hm
  try dsimp only
  repeat' first
    | with_reducible assumption
    | with_reducible apply Mod.onMsg_keeps hS.up
    | with_reducible apply Mod.rxInvAck_keeps hS.up
    | split
    | intro _ _ hm
    | intro _ hm
    | intro _

theorem Mod.flushLines_keeps {P : Mod → Prop} (hS : Stable 0xfd90001c P) {m : Mod} (hm : P m) (home : Nat) (desc : Nat) (discard : Bool) (mark : Bool) :
    P (Mod.flushLines m home desc discard mark) := by
  unfold Mod.flushLines
  try dsimp only
  repeat' first
    | with_reducible assumption
    | with_reducible apply Mod.flushFor_keeps hS.up
    | with_reducible apply Mod.onLine_keeps hS.up
    | with_reducible apply hS.each
    | with_reducible apply OptP.map
    | with_reducible apply PairP.mk
    | split
    | intro _ _ hm

theorem Mod.startFlush_keeps {P : Mod → Prop} (hS : Stable 0xfd92001c P) {m : Mod} (hm : P m) (desc : Nat) (discard : Bool) :
    P (Mod.startFlush m desc discard) := by
  unfold Mod.startFlush
  try dsimp only
  repeat' first
    | with_reducible assumption
    | with_reducible apply Mod.flushLines_keeps hS.up
    | with_reducible apply Mod.firmwareWrite_keeps hS.up
    | with_reducible apply hS.onHo
    | with_reducible apply hS.each
    | split
    | intro _ _ hm

theorem Mod.memberFlush_keeps {P : Mod → Prop} (hS : Stable 0xff91001c P) {m : Mod} (hm : P m) (v : Nat) (src : Source) (session : Nat) (seq : Nat) :
    P (Mod.memberFlush m v src session seq) := by
  unfold Mod.memberFlush
  try dsimp only
  repeat' first
    | with_reducible assumption
    | with_reducible apply Mod.flushLines_keeps hS.up
    | with_reducible apply Mod.settle_keeps hS.up
    | with_reducible apply hS.onCa

theorem execFlushScanDone_keeps {P : Mod → Prop} (hS : Stable 0xfd91001c P) (i : Nat) (st : State) (hm : P st.mod) : Keeps P st (execFlushScanDone i st) := by
  unfold execFlushScanDone
  refine lift_keeps (fun m hm => ?_) st hm
  try dsimp only
  repeat' first
    | with_reducible assumption
    | with_reducible apply Mod.flushFor_keeps hS.up
    | with_reducible apply Mod.respond_keeps hS.up
    | with_reducible apply hS.onCa
    | with_reducible apply hS.ite
    | with_reducible apply PairP.mk
    | split

theorem Mod.flushAnswered_keeps {P : Mod → Prop} (hS : Stable 0x20000 P) {m : Mod} (hm : P m) (desc : Nat) (member : Nat) :
    P (Mod.flushAnswered m desc member) := by
  unfold Mod.flushAnswered
  try dsimp only
  repeat' first | with_reducible assumption | with_reducible apply hS.onHo

theorem execFlushAnswer_keeps {P : Mod → Prop} (hS : Stable 0x20000 P) (desc : Nat) (member : Nat) (st : State) (hm : P st.mod) : Keeps P st (execFlushAnswer desc member st) := by
  unfold execFlushAnswer
  refine lift_keeps (fun m hm => ?_) st hm
  try dsimp only
  repeat' first | with_reducible assumption | with_reducible apply Mod.flushAnswered_keeps hS.up

theorem execFlushRetry_keeps {P : Mod → Prop} (hS : Stable 0x21020001 P) (desc : Nat) (st : State) (hm : P st.mod) : Keeps P st (execFlushRetry desc st) := by
  unfold execFlushRetry
  refine lift_keeps (fun m hm => ?_) st hm
  try dsimp only
  repeat' first
    | with_reducible assumption
    | with_reducible apply Mod.firmwareWrite_keeps hS.up
    | with_reducible apply Mod.advanceTo_keeps hS.up
    | with_reducible apply hS.onHo
    | with_reducible apply hS.ite
    | with_reducible apply hS.each
    | with_reducible apply OptP.map
    | split
    | intro _ _ hm

theorem execFlushComplete_keeps {P : Mod → Prop} (hS : Stable 0x7f92001c P) (desc : Nat) (st : State) (hm : P st.mod) : Keeps P st (execFlushComplete desc st) := by
  unfold execFlushComplete
  refine lift_keeps (fun m hm => ?_) st hm
  try dsimp only
  repeat' first
    | with_reducible assumption
    | with_reducible apply Mod.settle_keeps hS.up
    | with_reducible apply Mod.setDState_keeps hS.up
    | with_reducible apply hS.onHo
    | with_reducible apply hS.ite
    | with_reducible apply hS.each
    | split
    | intro _ _ hm

theorem Mod.confirmLost_keeps {P : Mod → Prop} (hS : Stable 0x20000 P) {m : Mod} (hm : P m) (id : Nat) :
    P (Mod.confirmLost m id) := by
  unfold Mod.confirmLost
  try dsimp only
  repeat' first
    | with_reducible assumption
    | with_reducible apply Mod.flushAnswered_keeps hS.up
    | with_reducible apply hS.onHo
    | with_reducible apply hS.each
    | with_reducible apply OptP.map
    | split
    | intro _ _ hm

theorem execLostModuleScanDone_keeps {P : Mod → Prop} (hS : Stable 0x7f92001c P) (id : Nat) (st : State) (hm : P st.mod) : Keeps P st (execLostModuleScanDone id st) := by
  unfold execLostModuleScanDone
  refine lift_keeps (fun m hm => ?_) st hm
  try dsimp only
  repeat' first
    | with_reducible assumption
    | with_reducible apply Mod.settle_keeps hS.up
    | with_reducible apply Mod.scrubEntry_keeps hS.up
    | with_reducible apply Mod.raise_keeps hS.up
    | with_reducible apply hS.onHo
    | with_reducible apply hS.ite
    | with_reducible apply hS.each
    | with_reducible apply OptP.map
    | with_reducible apply PairP.mk
    | split
    | intro _ _ hm

theorem Mod.lostReport_keeps {P : Mod → Prop} (hS : Stable 0x7f90001c P) {m : Mod} (hm : P m) (v : Nat) :
    P (Mod.lostReport m v) := by
  unfold Mod.lostReport
  try dsimp only
  repeat' first
    | with_reducible assumption
    | with_reducible apply Mod.settle_keeps hS.up
    | with_reducible apply Mod.replaceLost_keeps hS.up
    | with_reducible apply Mod.bump_keeps hS.up
    | with_reducible apply hS.ite

theorem execLostReportRetry_keeps {P : Mod → Prop} (hS : Stable 0x29000001 P) (i : Nat) (st : State) (hm : P st.mod) : Keeps P st (execLostReportRetry i st) := by
  unfold execLostReportRetry
  refine lift_keeps (fun m hm => ?_) st hm
  try dsimp only
  repeat' first
    | with_reducible assumption
    | with_reducible apply Mod.firmwareWrite_keeps hS.up
    | with_reducible apply Mod.advanceTo_keeps hS.up
    | with_reducible refine hS.onCaN ?_ (fun _ => by with_reducible_and_instances rfl)
    | with_reducible apply hS.ite
    | split

theorem Mod.entryLost_keeps {P : Mod → Prop} (hS : Stable 0xfd92001c P) {m : Mod} (hm : P m) (d : Nat) (known : Bool) : P (Mod.entryLost m d known) := by
  unfold Mod.entryLost
  try dsimp only
  repeat' first
    | with_reducible assumption
    | with_reducible apply Mod.raise_keeps hS.up
    | with_reducible apply Mod.recallOwn_keeps hS.up
    | with_reducible apply Mod.setDent_keeps hS.up
    | with_reducible apply Mod.startFlush_keeps hS.up
    | with_reducible apply hS.onHo
    | with_reducible apply hS.ite
    | with_reducible apply hS.each
    | with_reducible apply OptP.map
    | intro _ _ hm
    | intro _ hm
    | intro _ _

end Sys2Proof.Machine
end

