-- ==== Sys2Proof/Laws/KeepsFnOps.lean ====
section
/-! SUPPORT. What each operation of FnOps.lean can do: it keeps every property stable under the updates of its mask. -/
namespace Sys2Proof.Machine
set_option Elab.async false

theorem Mod.onBox_keeps {P : Mod → Prop} (hS : Stable 0x80000000 P) {m : Mod} (hm : P m) (k : Nat) (f : Mailbox → Mailbox) :
    P (Mod.onBox m k f) := by
  unfold Mod.onBox
  try dsimp only
  repeat' first | with_reducible assumption | with_reducible refine hS.onSvM ?_ (fun _ => by constructor <;> with_reducible_and_instances rfl)

theorem Mod.onCall_keeps {P : Mod → Prop} (hS : Stable 0x80000000 P) {m : Mod} (hm : P m) (k : Nat) (f : CallSt → CallSt) :
    P (Mod.onCall m k f) := by
  unfold Mod.onCall
  try dsimp only
  repeat' first | with_reducible assumption | with_reducible refine hS.onSvM ?_ (fun _ => by constructor <;> with_reducible_and_instances rfl)

theorem Mod.releaseLock_keeps {P : Mod → Prop} (hS : Stable 0x80000000 P) {m : Mod} (hm : P m) (k : Nat) :
    P (Mod.releaseLock m k) := by
  unfold Mod.releaseLock
  try dsimp only
  repeat' first | with_reducible assumption | with_reducible apply Mod.onBox_keeps hS.up

theorem Mod.breakLock_keeps {P : Mod → Prop} (hS : Stable 0xc000000c P) {m : Mod} (hm : P m) (k : Nat) :
    P (Mod.breakLock m k) := by
  unfold Mod.breakLock
  try dsimp only
  repeat' first | with_reducible assumption | with_reducible apply Mod.releaseLock_keeps hS.up | with_reducible apply Mod.raise_keeps hS.up

theorem Mod.agentReset_keeps {P : Mod → Prop} (hS : Stable 0xc000000c P) {m : Mod} (hm : P m) (k : Nat) :
    P (Mod.agentReset m k) := by
  unfold Mod.agentReset
  try dsimp only
  repeat' first
    | with_reducible assumption
    | with_reducible apply Mod.breakLock_keeps hS.up
    | with_reducible apply Mod.onCall_keeps hS.up
    | with_reducible apply Mod.onBox_keeps hS.up
    | with_reducible apply hS.ite
    | with_reducible apply hS.each
    | with_reducible apply OptP.map
    | with_reducible apply PairP.mk
    | split
    | intro _ _ hm

theorem Mod.flrStart_keeps {P : Mod → Prop} (hS : Stable 0xc0000000 P) {m : Mod} (hm : P m) (n : Nat) : P (Mod.flrStart m n) := by
  unfold Mod.flrStart
  try dsimp only
  repeat' first
    | with_reducible assumption
    | with_reducible apply Mod.onFn__keeps hS.up
    | with_reducible apply Mod.onQp_keeps hS.up
    | with_reducible apply hS.each
    | intro _ _ hm
    | intro _ hm
    | intro _ _

theorem Mod.flrEnd_keeps {P : Mod → Prop} (hS : Stable 0xc000000c P) {m : Mod} (hm : P m) (n : Nat) :
    P (Mod.flrEnd m n) := by
  unfold Mod.flrEnd
  try dsimp only
  repeat' first
    | with_reducible assumption
    | with_reducible apply Mod.agentReset_keeps hS.up
    | with_reducible apply Mod.onQp_keeps hS.up
    | with_reducible apply Mod.onFn__keeps hS.up
    | with_reducible apply hS.each
    | split
    | intro _ _ hm

theorem Mod.hostPfReset_keeps {P : Mod → Prop} (hS : Stable 0xc0000000 P) {m : Mod} (hm : P m) (v : Nat) :
    P (Mod.hostPfReset m v) := by
  unfold Mod.hostPfReset
  try dsimp only
  repeat' first
    | with_reducible assumption
    | with_reducible apply Mod.flrStart_keeps hS.up
    | with_reducible apply Mod.onFn__keeps hS.up
    | with_reducible apply hS.each
    | split
    | intro _ _ hm

end Sys2Proof.Machine
end

