-- ==== Sys2Proof/Laws/KeepsRouting.lean ====
section
/-! SUPPORT. What each operation of Routing.lean can do: it keeps every property stable under the updates of its mask. -/
namespace Sys2Proof.Machine
set_option Elab.async false

theorem Mod.memberRestarted_keeps {P : Mod → Prop} (hS : Stable 0x4000000c P) {m : Mod} (hm : P m) (id : Nat) :
    P (Mod.memberRestarted m id) := by
  unfold Mod.memberRestarted
  try dsimp only
  repeat' first | with_reducible assumption | with_reducible apply Mod.raise_keeps hS.up | with_reducible apply hS.ite

theorem execRecordReceived_keeps {P : Mod → Prop} (hS : Stable 0x6100340c P) (n : FabPort) (r : LinkRecord) (st : State) (hm : P st.mod) : Keeps P st (execRecordReceived n r st) := by
  unfold execRecordReceived
  refine liftFw_keeps (fun m hm => ?_) st hm
  try dsimp only
  repeat' first
    | with_reducible assumption
    | with_reducible apply Mod.dbUpdate_keeps hS.up
    | with_reducible apply Mod.flood_keeps hS.up
    | with_reducible apply Mod.memberRestarted_keeps hS.up
    | with_reducible apply Mod.raise_keeps hS.up
    | with_reducible apply hS.onRt
    | with_reducible apply hS.ite
    | with_reducible apply OptP.map
    | split
    | intro _ _ hm
    | intro _ hm
    | intro _ _

theorem execRecordOriginate_keeps {P : Mod → Prop} (hS : Stable 0x6100340d P) (st : State) (hm : P st.mod) : Keeps P st (execRecordOriginate st) := by
  unfold execRecordOriginate
  refine liftFw_keeps (fun m hm => ?_) st hm
  try dsimp only
  repeat' first
    | with_reducible assumption
    | with_reducible apply Mod.dbUpdate_keeps hS.up
    | with_reducible apply Mod.flood_keeps hS.up
    | with_reducible apply Mod.advanceTo_keeps hS.up
    | with_reducible apply hS.onRt
    | with_reducible apply hS.ite

theorem execRecordPurge_keeps {P : Mod → Prop} (hS : Stable 0x6000300d P) (id : Nat) (epoch : Nat) (st : State) (hm : P st.mod) : Keeps P st (execRecordPurge id epoch st) := by
  unfold execRecordPurge
  refine lift_keeps (fun m hm => ?_) st hm
  try dsimp only
  repeat' first
    | with_reducible assumption
    | with_reducible apply Mod.dbUpdate_keeps hS.up
    | with_reducible apply Mod.advanceTo_keeps hS.up
    | with_reducible apply hS.onRt
    | split

theorem execRouteComputeStart_keeps {P : Mod → Prop} (hS : Stable 0x1001 P) (st : State) (hm : P st.mod) : Keeps P st (execRouteComputeStart st) := by
  unfold execRouteComputeStart
  refine liftFw_keeps (fun m hm => ?_) st hm
  try dsimp only
  repeat' first | with_reducible assumption | with_reducible apply Mod.advanceTo_keeps hS.up | with_reducible apply hS.onRt | split

theorem execRouteComputeDone_keeps {P : Mod → Prop} (hS : Stable 0x6200100c P) (st : State) (hm : P st.mod) : Keeps P st (execRouteComputeDone st) := by
  unfold execRouteComputeDone
  refine liftFw_keeps (fun m hm => ?_) st hm
  split
  · exact hm
  extract_lets m0 valid dests kept far m1 m2
  have h0 : P m0 := hS.onRt hm
  split
  · exact h0
  have h1 : PairP P m1 := PairP.foldl (PairP.mk h0) fun x d hx => PairP.ite hx (PairP.mk (Mod.applyEntry_keeps hS.up hx.fst _ _).fst)
  clear_value m1
  have h2 : P m2 := hS.ite (Mod.raise_keeps hS.up h1.fst _) h1.fst
  clear_value m2
  exact hS.ite (Mod.raise_keeps hS.up h2 _) h2

theorem execSyncSend_keeps {P : Mod → Prop} (hS : Stable 0x1000414 P) (n : FabPort) (st : State) (hm : P st.mod) : Keeps P st (execSyncSend n st) := by
  unfold execSyncSend
  refine liftFw_keeps (fun m hm => ?_) st hm
  try dsimp only
  repeat' first
    | with_reducible assumption
    | with_reducible apply Mod.sendNbr_keeps hS.up
    | with_reducible apply Mod.count_keeps hS.up
    | with_reducible apply hS.ite

theorem execSyncReceived_keeps {P : Mod → Prop} (hS : Stable 0x1002414 P) (n : FabPort) (t1 : Nat) (st : State) (hm : P st.mod) : Keeps P st (execSyncReceived n t1 st) := by
  unfold execSyncReceived
  refine liftFw_keeps (fun m hm => ?_) st hm
  try dsimp only
  repeat' first
    | with_reducible assumption
    | with_reducible apply Mod.sendNbr_keeps hS.up
    | with_reducible apply Mod.count_keeps hS.up
    | with_reducible apply hS.onTi
    | with_reducible apply hS.ite

theorem execDelayReqReceived_keeps {P : Mod → Prop} (hS : Stable 0x1000414 P) (n : FabPort) (st : State) (hm : P st.mod) : Keeps P st (execDelayReqReceived n st) := by
  unfold execDelayReqReceived
  refine liftFw_keeps (fun m hm => ?_) st hm
  try dsimp only
  repeat' first
    | with_reducible assumption
    | with_reducible apply Mod.sendNbr_keeps hS.up
    | with_reducible apply Mod.count_keeps hS.up
    | with_reducible apply hS.ite

theorem execDelayRespReceived_keeps {P : Mod → Prop} (hS : Stable 0x6000201c P) (n : FabPort) (t4 : Nat) (st : State) (hm : P st.mod) : Keeps P st (execDelayRespReceived n t4 st) := by
  unfold execDelayRespReceived
  refine liftFw_keeps (fun m hm => ?_) st hm
  try dsimp only
  repeat' first
    | with_reducible assumption
    | with_reducible apply Mod.stepTime_keeps hS.up
    | with_reducible apply Mod.setObj_keeps hS.up
    | with_reducible apply hS.onTi
    | with_reducible apply hS.ite

theorem execTimeHoldover_keeps {P : Mod → Prop} (hS : Stable 0x4000200d P) (st : State) (hm : P st.mod) : Keeps P st (execTimeHoldover st) := by
  unfold execTimeHoldover
  refine lift_keeps (fun m hm => ?_) st hm
  try dsimp only
  repeat' first
    | with_reducible assumption
    | with_reducible apply Mod.raise_keeps hS.up
    | with_reducible apply Mod.advanceTo_keeps hS.up
    | with_reducible apply hS.onTi
    | split

end Sys2Proof.Machine
end

