-- ==== Sys2Proof/Laws/KeepsPool.lean ====
section
/-! SUPPORT. What each operation of Pool.lean can do: it keeps every property stable under the updates of its mask. -/
namespace Sys2Proof.Machine
set_option Elab.async false

theorem Mod.extFail_keeps {P : Mod → Prop} (hS : Stable 0x6000000c P) {m : Mod} (hm : P m) (e : Nat) (result : Nat) :
    P (Mod.extFail m e result) := by
  unfold Mod.extFail
  try dsimp only
  repeat' first | with_reducible assumption | with_reducible apply Mod.setExt_keeps hS.up | with_reducible apply Mod.raise_keeps hS.up

theorem Mod.bindOp_keeps {P : Mod → Prop} (hS : Stable 0x21040000 P) {m : Mod} (hm : P m) (v : Nat) :
    PairP P (Mod.bindOp m v) := by
  unfold Mod.bindOp
  try dsimp only
  repeat' first
    | with_reducible assumption
    | with_reducible apply Mod.copyToPartner_keeps hS.up
    | with_reducible apply Mod.setBinds_keeps hS.up
    | with_reducible apply PairP.ite
    | with_reducible apply hS.ite
    | with_reducible apply PairP.mk

theorem Mod.addRemote_keeps {P : Mod → Prop} (hS : Stable 0x20000000 P) {m : Mod} (hm : P m) (home : Nat) (desc : Nat) (d0 : Nat) :
    OptP P (Mod.addRemote m home desc d0) := by
  unfold Mod.addRemote
  try dsimp only
  repeat' first
    | with_reducible assumption
    | with_reducible apply Mod.setObj_keeps hS.up
    | with_reducible apply OptP.some
    | with_reducible apply OptP.map
    | with_reducible exact OptP.none
    | split
    | intro _ _ hm
    | intro _ hm

theorem Mod.bindAnswer_keeps {P : Mod → Prop} (hS : Stable 0x7100000c P) {m : Mod} (hm : P m) (e : Nat) (res : Nat) (d0 : Nat) :
    P (Mod.bindAnswer m e res d0) := by
  unfold Mod.bindAnswer
  try dsimp only
  repeat' first
    | with_reducible assumption
    | with_reducible apply Mod.addRemote_keeps hS.up
    | with_reducible apply Mod.extFail_keeps hS.up
    | with_reducible apply Mod.sendUnbind_keeps hS.up
    | with_reducible apply Mod.setExt_keeps hS.up
    | with_reducible apply Mod.onExt_keeps hS.up
    | with_reducible apply hS.emit
    | with_reducible apply hS.ite
    | with_reducible apply OptP.some
    | refine OptP.get ?_ (by assumption)
    | split

theorem Mod.extAdd_keeps {P : Mod → Prop} (hS : Stable 0x7104000c P) {m : Mod} (hm : P m) (e : Nat) (v : Nat) :
    P (Mod.extAdd m e v) := by
  unfold Mod.extAdd
  try dsimp only
  repeat' first
    | with_reducible assumption
    | with_reducible apply Mod.bindAnswer_keeps hS.up
    | with_reducible apply Mod.bindOp_keeps hS.up
    | with_reducible refine PairP.fst (Mod.bindOp_keeps hS.up (hm := ?_) ..)
    | with_reducible apply Mod.extFail_keeps hS.up
    | with_reducible apply Mod.setExt_keeps hS.up
    | with_reducible apply Mod.firmwareWrite_keeps hS.up
    | with_reducible apply hS.ite

theorem execBindResponse_keeps {P : Mod → Prop} (hS : Stable 0x7100000c P) (e : Fin 4096) (res : Nat) (d0 : Nat) (st : State) (hm : P st.mod) : Keeps P st (execBindResponse e res d0 st) := by
  unfold execBindResponse
  refine lift_keeps (fun m hm => ?_) st hm
  try dsimp only
  repeat' first | with_reducible assumption | with_reducible apply Mod.bindAnswer_keeps hS.up | with_reducible apply hS.ite

theorem execAddCapacityResponse_keeps {P : Mod → Prop} (hS : Stable 0xfd10001c P) (e : Fin 4096) (accept : Bool) (st : State) (hm : P st.mod) : Keeps P st (execAddCapacityResponse e accept st) := by
  unfold execAddCapacityResponse
  refine lift_keeps (fun m hm => ?_) st hm
  try dsimp only
  repeat' first
    | with_reducible assumption
    | with_reducible apply Mod.extFail_keeps hS.up
    | with_reducible apply Mod.accept_keeps hS.up
    | with_reducible apply Mod.sendUnbind_keeps hS.up
    | with_reducible apply Mod.setExt_keeps hS.up
    | with_reducible apply Mod.raise_keeps hS.up
    | with_reducible apply hS.ite

theorem Mod.takeBack_keeps {P : Mod → Prop} (hS : Stable 0x18000000 P) {m : Mod} (hm : P m) (e : Nat) :
    P (Mod.takeBack m e) := by
  unfold Mod.takeBack
  try dsimp only
  repeat' first
    | with_reducible assumption
    | with_reducible apply Mod.onLine_keeps hS.up
    | with_reducible apply Mod.onExt_keeps hS.up
    | with_reducible apply hS.ite
    | with_reducible apply hS.each
    | with_reducible apply OptP.map
    | with_reducible apply PairP.mk
    | split
    | intro _ _ hm

theorem Mod.extRelease_keeps {P : Mod → Prop} (hS : Stable 0x30000004 P) {m : Mod} (hm : P m) (e : Nat) :
    P (Mod.extRelease m e) := by
  unfold Mod.extRelease
  try dsimp only
  repeat' first
    | with_reducible assumption
    | with_reducible apply Mod.setExt_keeps hS.up
    | with_reducible apply Mod.onExt_keeps hS.up
    | with_reducible apply hS.emit

theorem execHostReleaseCapacity_keeps {P : Mod → Prop} (hS : Stable 0x7f90001c P) (e : Fin 4096) (st : State) (hm : P st.mod) : Keeps P st (execHostReleaseCapacity e st) := by
  unfold execHostReleaseCapacity
  refine lift_keeps (fun m hm => ?_) st hm
  try dsimp only
  repeat' first
    | with_reducible assumption
    | with_reducible apply Mod.takeBack_keeps hS.up
    | with_reducible apply Mod.settle_keeps hS.up
    | with_reducible apply Mod.setExt_keeps hS.up
    | with_reducible apply Mod.onExt_keeps hS.up
    | with_reducible refine hS.onPoN ?_ (fun _ => by with_reducible_and_instances rfl)
    | with_reducible apply hS.ite

theorem execUnbindResponse_keeps {P : Mod → Prop} (hS : Stable 0x7000000c P) (e : Fin 4096) (st : State) (hm : P st.mod) : Keeps P st (execUnbindResponse e st) := by
  unfold execUnbindResponse
  refine lift_keeps (fun m hm => ?_) st hm
  try dsimp only
  repeat' first | with_reducible assumption | with_reducible apply Mod.unbound_keeps hS.up | with_reducible apply hS.ite

theorem Mod.extForce_keeps {P : Mod → Prop} (hS : Stable 0x7f90001c P) {m : Mod} (hm : P m) (e : Nat) :
    P (Mod.extForce m e) := by
  unfold Mod.extForce
  try dsimp only
  repeat' first
    | with_reducible assumption
    | with_reducible apply Mod.takeBack_keeps hS.up
    | with_reducible apply Mod.settle_keeps hS.up
    | with_reducible apply Mod.setExt_keeps hS.up
    | with_reducible apply Mod.onExt_keeps hS.up
    | with_reducible apply Mod.raise_keeps hS.up
    | with_reducible apply hS.ite

theorem execReleaseGraceTimeout_keeps {P : Mod → Prop} (hS : Stable 0x7f90001d P) (e : Fin 4096) (st : State) (hm : P st.mod) : Keeps P st (execReleaseGraceTimeout e st) := by
  unfold execReleaseGraceTimeout
  refine lift_keeps (fun m hm => ?_) st hm
  try dsimp only
  repeat' first
    | with_reducible assumption
    | with_reducible apply Mod.extForce_keeps hS.up
    | with_reducible apply Mod.advanceTo_keeps hS.up
    | with_reducible apply hS.ite
    | split

theorem execPartnerCopyRetry_keeps {P : Mod → Prop} (hS : Stable 0x6104000d P) (i : Fin 65536) (ok : Bool) (st : State) (hm : P st.mod) : Keeps P st (execPartnerCopyRetry i ok st) := by
  unfold execPartnerCopyRetry
  refine lift_keeps (fun m hm => ?_) st hm
  try dsimp only
  repeat' first
    | with_reducible assumption
    | with_reducible apply Mod.copyToPartner_keeps hS.up
    | with_reducible apply Mod.setDesc_keeps hS.up
    | with_reducible apply Mod.raiseOnce_keeps hS.up
    | with_reducible apply Mod.advanceTo_keeps hS.up
    | with_reducible apply hS.onPo
    | with_reducible apply hS.ite

theorem Mod.floodMove_keeps {P : Mod → Prop} (hS : Stable 0x1000404 P) {m : Mod} (hm : P m) (from_ : Option Nat) (seq : Nat) (old : Nat) (oldDesc : Nat) (new : Nat) (newDesc : Nat) (cause : Nat) :
    P (Mod.floodMove m from_ seq old oldDesc new newDesc cause) := by
  unfold Mod.floodMove
  try dsimp only
  repeat' first | with_reducible assumption | with_reducible apply Mod.sendNbr_keeps hS.up | with_reducible apply hS.each | split | intro _ _ hm

theorem Mod.announceMove_keeps {P : Mod → Prop} (hS : Stable 0x1001404 P) {m : Mod} (hm : P m) (old : Nat) (oldDesc : Nat) (new : Nat) (newDesc : Nat) (cause : Nat) :
    P (Mod.announceMove m old oldDesc new newDesc cause) := by
  unfold Mod.announceMove
  try dsimp only
  repeat' first | with_reducible assumption | with_reducible apply Mod.floodMove_keeps hS.up | with_reducible apply hS.onRt

theorem Mod.rekey_keeps {P : Mod → Prop} (hS : Stable 0x9900000 P) {m : Mod} (hm : P m) (old : Nat) (oldDesc : Nat) (new : Nat) (newDesc : Nat) :
    P (Mod.rekey m old oldDesc new newDesc) := by
  unfold Mod.rekey
  try dsimp only
  repeat' first
    | with_reducible assumption
    | with_reducible refine hS.onCaN ?_ (fun _ => by with_reducible_and_instances rfl)
    | with_reducible refine hS.onEdN ?_ (fun _ => by with_reducible_and_instances rfl)
    | with_reducible refine hS.onSwN ?_ (fun _ => by with_reducible_and_instances rfl)
    | with_reducible apply hS.onBr

theorem Mod.redirect_keeps {P : Mod → Prop} (hS : Stable 0x39900000 P) {m : Mod} (hm : P m) (old : Nat) (oldDesc : Nat) (new : Nat) (newDesc : Nat) :
    P (Mod.redirect m old oldDesc new newDesc) := by
  unfold Mod.redirect
  try dsimp only
  repeat' first
    | with_reducible assumption
    | with_reducible apply Mod.rekey_keeps hS.up
    | with_reducible apply Mod.addRemote_keeps hS.up
    | with_reducible apply Mod.onExt_keeps hS.up
    | with_reducible apply Mod.setObj_keeps hS.up
    | with_reducible apply hS.ite
    | with_reducible apply hS.each
    | with_reducible apply OptP.some
    | with_reducible apply OptP.getD
    | with_reducible apply PairP.mk
    | refine OptP.get ?_ (by assumption)
    | split
    | intro _ _ hm

theorem execHomeMoveReceived_keeps {P : Mod → Prop} (hS : Stable 0x39901404 P) (n : FabPort) (seq : Nat) (old : Nat) (oldDesc : Nat) (new : Nat) (newDesc : Nat) (cause : Nat) (st : State) (hm : P st.mod) : Keeps P st (execHomeMoveReceived n seq old oldDesc new newDesc cause st) := by
  unfold execHomeMoveReceived
  refine lift_keeps (fun m hm => ?_) st hm
  try dsimp only
  repeat' first
    | with_reducible assumption
    | with_reducible apply Mod.floodMove_keeps hS.up
    | with_reducible apply Mod.redirect_keeps hS.up
    | with_reducible apply hS.onRt
    | with_reducible apply hS.ite
    | split
    | intro _ _ hm
    | intro _ hm
    | intro _ _

theorem Mod.takeOver_keeps {P : Mod → Prop} (hS : Stable 0xfd96141c P) {m : Mod} (hm : P m) (lost : Nat) :
    P (Mod.takeOver m lost) := by
  unfold Mod.takeOver
  try dsimp only
  repeat' first
    | with_reducible assumption
    | with_reducible apply Mod.redirect_keeps hS.up
    | with_reducible apply Mod.announceMove_keeps hS.up
    | with_reducible apply Mod.startFlush_keeps hS.up
    | with_reducible apply Mod.poisonParcel_keeps hS.up
    | with_reducible apply Mod.setDState_keeps hS.up
    | with_reducible apply Mod.setDesc_keeps hS.up
    | with_reducible apply Mod.raise_keeps hS.up
    | with_reducible apply hS.onPo
    | with_reducible apply hS.ite
    | with_reducible apply hS.each
    | split
    | intro _ _ hm

theorem Mod.serveAlone_keeps {P : Mod → Prop} (hS : Stable 0x20040000 P) {m : Mod} (hm : P m) (i : Nat) :
    P (Mod.serveAlone m i) := by
  unfold Mod.serveAlone
  try dsimp only
  repeat' first
    | with_reducible assumption
    | with_reducible apply Mod.setDState_keeps hS.up
    | with_reducible apply hS.onPo
    | with_reducible apply hS.ite

theorem Mod.setMState_keeps {P : Mod → Prop} (hS : Stable 0x20000000 P) {m : Mod} (hm : P m) (i : Nat) (st : Nat) (pass : Nat) :
    P (Mod.setMState m i st pass) := by
  unfold Mod.setMState
  try dsimp only
  repeat' first | with_reducible assumption | with_reducible apply Mod.setDesc_keeps hS.up

theorem execMigrationStart_keeps {P : Mod → Prop} (hS : Stable 0x7000000c P) (i : Fin 65536) (st : State) (hm : P st.mod) : Keeps P st (execMigrationStart i st) := by
  unfold execMigrationStart
  refine lift_keeps (fun m hm => ?_) st hm
  try dsimp only
  repeat' first
    | with_reducible assumption
    | with_reducible apply Mod.setMState_keeps hS.up
    | with_reducible apply Mod.setDState_keeps hS.up
    | with_reducible apply Mod.raise_keeps hS.up
    | with_reducible refine hS.onPoN ?_ (fun _ => by with_reducible_and_instances rfl)
    | with_reducible apply hS.ite

theorem execMigrationPassEnd_keeps {P : Mod → Prop} (hS : Stable 0x30000000 P) (i : Fin 65536) (st : State) (hm : P st.mod) : Keeps P st (execMigrationPassEnd i st) := by
  unfold execMigrationPassEnd
  refine lift_keeps (fun m hm => ?_) st hm
  try dsimp only
  repeat' first
    | with_reducible assumption
    | with_reducible apply Mod.setMState_keeps hS.up
    | with_reducible refine hS.onPoN ?_ (fun _ => by with_reducible_and_instances rfl)
    | with_reducible apply hS.ite
    | with_reducible apply OptP.map
    | with_reducible apply PairP.mk
    | split

theorem execMigrationSwitch_keeps {P : Mod → Prop} (hS : Stable 0x7f94001c P) (i : Fin 65536) (st : State) (hm : P st.mod) : Keeps P st (execMigrationSwitch i st) := by
  unfold execMigrationSwitch
  refine lift_keeps (fun m hm => ?_) st hm
  try dsimp only
  repeat' first
    | with_reducible assumption
    | with_reducible apply Mod.backWrite_keeps hS.up
    | with_reducible apply Mod.copyToPartner_keeps hS.up
    | with_reducible apply Mod.firmwareDesc_keeps hS.up
    | with_reducible apply Mod.raise_keeps hS.up
    | with_reducible apply Mod.setDState_keeps hS.up
    | with_reducible apply Mod.setDesc_keeps hS.up
    | with_reducible apply Mod.setMState_keeps hS.up
    | with_reducible apply Mod.settle_keeps hS.up
    | with_reducible apply hS.onPo
    | with_reducible apply hS.ite
    | with_reducible apply hS.each
    | with_reducible apply OptP.map
    | split
    | intro _ _ hm
    | intro _ hm
    | intro _ _

theorem Mod.migAbort_keeps {P : Mod → Prop} (hS : Stable 0x7000000c P) {m : Mod} (hm : P m) (i : Nat) : P (Mod.migAbort m i) := by
  unfold Mod.migAbort
  try dsimp only
  repeat' first
    | with_reducible assumption
    | with_reducible apply Mod.backWrite_keeps hS.up
    | with_reducible apply Mod.raise_keeps hS.up
    | with_reducible apply Mod.setDState_keeps hS.up
    | with_reducible apply Mod.setMState_keeps hS.up
    | with_reducible refine hS.onPoN ?_ (fun _ => by with_reducible_and_instances rfl)
    | with_reducible apply hS.ite
    | with_reducible apply hS.each
    | with_reducible apply OptP.getD
    | with_reducible apply OptP.map
    | split
    | intro _ _ hm
    | intro _ hm
    | intro _ _

theorem execMigrationAbort_keeps {P : Mod → Prop} (hS : Stable 0x7f90001c P) (i : Fin 65536) (st : State) (hm : P st.mod) : Keeps P st (execMigrationAbort i st) := by
  unfold execMigrationAbort
  refine lift_keeps (fun m hm => ?_) st hm
  try dsimp only
  repeat' first | with_reducible assumption | with_reducible apply Mod.migAbort_keeps hS.up | with_reducible apply Mod.settle_keeps hS.up

theorem Mod.backingLost_keeps {P : Mod → Prop} (hS : Stable 0xfd92001c P) {m : Mod} (hm : P m) (port : Nat) :
    P (Mod.backingLost m port) := by
  unfold Mod.backingLost
  try dsimp only
  repeat' first
    | with_reducible assumption
    | with_reducible apply Mod.migAbort_keeps hS.up
    | with_reducible apply Mod.startFlush_keeps hS.up
    | with_reducible apply Mod.poisonParcel_keeps hS.up
    | with_reducible apply hS.when
    | with_reducible apply hS.each
    | with_reducible apply OptP.map
    | with_reducible apply PairP.mk
    | split
    | intro _ _ hm

theorem Mod.reinitDone_keeps {P : Mod → Prop} (hS : Stable 0x6004000c P) {m : Mod} (hm : P m) (i : Nat) :
    P (Mod.reinitDone m i) := by
  unfold Mod.reinitDone
  try dsimp only
  repeat' first
    | with_reducible assumption
    | with_reducible apply Mod.setDState_keeps hS.up
    | with_reducible apply Mod.raise_keeps hS.up
    | with_reducible apply hS.onPo

theorem execReinitZeroDone_keeps {P : Mod → Prop} (hS : Stable 0x7f94001c P) (i : Fin 65536) (st : State) (hm : P st.mod) : Keeps P st (execReinitZeroDone i st) := by
  unfold execReinitZeroDone
  refine lift_keeps (fun m hm => ?_) st hm
  try dsimp only
  repeat' first
    | with_reducible assumption
    | with_reducible apply Mod.reinitDone_keeps hS.up
    | with_reducible apply Mod.settle_keeps hS.up
    | with_reducible apply hS.ite

theorem execHotUnitWindow_keeps {P : Mod → Prop} (hS : Stable 0x4004000d P) (st : State) (hm : P st.mod) : Keeps P st (execHotUnitWindow st) := by
  unfold execHotUnitWindow
  refine lift_keeps (fun m hm => ?_) st hm
  try dsimp only
  repeat' first
    | with_reducible assumption
    | with_reducible apply Mod.raise_keeps hS.up
    | with_reducible apply Mod.noteRaised_keeps hS.up
    | with_reducible apply Mod.advanceTo_keeps hS.up
    | with_reducible apply hS.onPo
    | with_reducible apply hS.ite
    | with_reducible apply hS.each
    | with_reducible apply hS.foldl
    | with_reducible apply OptP.map
    | with_reducible apply PairP.mk
    | split
    | intro _ _ hm

end Sys2Proof.Machine
end

