-- ==== Sys2Proof/Laws/KeepsEdgeOps.lean ====
section
/-! SUPPORT. What each operation of EdgeOps.lean can do: it keeps every property stable under the updates of its mask. -/
namespace Sys2Proof.Machine
set_option Elab.async false

theorem Mod.discardReads_keeps {P : Mod → Prop} (hS : Stable 0x1100000 P) {m : Mod} (hm : P m) (p : Nat) :
    P (Mod.discardReads m p) := by
  unfold Mod.discardReads
  try dsimp only
  repeat' first
    | with_reducible assumption
    | with_reducible refine hS.onSwN ?_ (fun _ => by with_reducible_and_instances rfl)
    | with_reducible apply hS.onBr

theorem Mod.flushPort_keeps {P : Mod → Prop} (hS : Stable 0xfd90001c P) {m : Mod} (hm : P m) (p : Nat) :
    P (Mod.flushPort m p) := by
  unfold Mod.flushPort
  try dsimp only
  repeat' first | with_reducible assumption | with_reducible apply Mod.flushWhere_keeps hS.up

theorem Mod.pullPackets_keeps {P : Mod → Prop} (hS : Stable 0x21000c90 P) {m : Mod} (hm : P m) (p : Nat) (cs : List Nat) :
    PairP P (Mod.pullPackets m p cs) := by
  unfold Mod.pullPackets
  try dsimp only
  repeat' first
    | with_reducible assumption
    | with_reducible apply Mod.unqueue_keeps hS.up
    | with_reducible apply Mod.waits_keeps hS.up
    | with_reducible apply Mod.takeOut_keeps hS.up
    | with_reducible apply hS.each
    | with_reducible apply PairP.mk
    | with_reducible apply OptP.map
    | split
    | intro _ _ hm

theorem Mod.hostLost_keeps {P : Mod → Prop} (hS : Stable 0x28800200 P) {m : Mod} (hm : P m) (p : Nat) : P (Mod.hostLost m p) := by
  unfold Mod.hostLost
  try dsimp only
  repeat' first
    | with_reducible assumption
    | with_reducible apply Mod.bump_keeps hS.up
    | with_reducible apply Mod.onLine_keeps hS.up
    | with_reducible apply Mod.setFilt_keeps hS.up
    | with_reducible apply hS.onEd
    | with_reducible apply hS.ite
    | with_reducible apply hS.each
    | intro _ _ hm

theorem Mod.tellVppb_keeps {P : Mod → Prop} (hS : Stable 0x1000200 P) {m : Mod} (hm : P m) (p : Nat) (code : Nat) (f : VppbSt → VppbSt) :
    P (Mod.tellVppb m p code f) := by
  unfold Mod.tellVppb
  try dsimp only
  repeat' first
    | with_reducible assumption
    | with_reducible apply Mod.onVppb_keeps hS.up
    | with_reducible apply Mod.originate_keeps hS.up
    | with_reducible apply hS.ite
    | split

theorem Mod.contain_keeps {P : Mod → Prop} (hS : Stable 0x21000c90 P) {m : Mod} (hm : P m) (p : Nat) :
    P (Mod.contain m p) := by
  unfold Mod.contain
  try dsimp only
  repeat' first
    | with_reducible assumption
    | with_reducible apply Mod.pullPackets_keeps hS.up
    | with_reducible refine PairP.fst (Mod.pullPackets_keeps hS.up (hm := ?_) ..)
    | with_reducible apply Mod.dpcEnd_keeps hS.up
    | with_reducible apply Mod.semRefuse_keeps hS.up
    | with_reducible apply Mod.bump_keeps hS.up
    | with_reducible apply hS.ite
    | with_reducible apply hS.each
    | with_reducible apply PairP.mk
    | refine PairP.get ?_ (by assumption)
    | split
    | intro _ _ hm

theorem Mod.deviceLost_keeps {P : Mod → Prop} (hS : Stable 0x69900e9c P) {m : Mod} (hm : P m) (p : Nat) (port : Bool) : P (Mod.deviceLost m p port) := by
  unfold Mod.deviceLost
  try dsimp only
  repeat' first
    | with_reducible assumption
    | with_reducible apply Mod.contain_keeps hS.up
    | with_reducible apply Mod.hostLost_keeps hS.up
    | with_reducible apply Mod.onEdge_keeps hS.up
    | with_reducible apply Mod.raise_keeps hS.up
    | with_reducible apply Mod.semFail_keeps hS.up
    | with_reducible apply Mod.tellVppb_keeps hS.up
    | with_reducible apply hS.onBr
    | split

theorem Mod.showDevice_keeps {P : Mod → Prop} (hS : Stable 0x1000200 P) {m : Mod} (hm : P m) (p : Nat) (up : Bool) : P (Mod.showDevice m p up) := by
  unfold Mod.showDevice
  try dsimp only
  repeat' first | with_reducible assumption | with_reducible apply Mod.tellVppb_keeps hS.up | with_reducible apply hS.ite

theorem Mod.unbindNow_keeps {P : Mod → Prop} (hS : Stable 0x21000200 P) {m : Mod} (hm : P m) (p : Nat) : P (Mod.unbindNow m p) := by
  unfold Mod.unbindNow
  try dsimp only
  repeat' first
    | with_reducible assumption
    | with_reducible apply Mod.onEdge_keeps hS.up
    | with_reducible apply Mod.setPers_keeps hS.up
    | with_reducible apply Mod.showDevice_keeps hS.up
    | with_reducible apply hS.ite

theorem Mod.unbindAll_keeps {P : Mod → Prop} (hS : Stable 0x21000200 P) {m : Mod} (hm : P m) (v : Nat) :
    P (Mod.unbindAll m v) := by
  unfold Mod.unbindAll
  try dsimp only
  repeat' first | with_reducible assumption | with_reducible apply Mod.unbindNow_keeps hS.up | with_reducible apply hS.each | split | intro _ _ hm

theorem Mod.portDown_keeps {P : Mod → Prop} (hS : Stable 0x4fd90421c P) {m : Mod} (hm : P m) (p : Nat) :
    P (Mod.portDown m p) := by
  unfold Mod.portDown
  try dsimp only
  repeat' first
    | with_reducible assumption
    | with_reducible apply Mod.flushPort_keeps hS.up
    | with_reducible apply Mod.ideErase_keeps hS.up
    | with_reducible apply Mod.edgeIdle_keeps hS.up
    | with_reducible apply Mod.onEdge_keeps hS.up

theorem Mod.dropAnswers_keeps {P : Mod → Prop} (hS : Stable 0x21000c90 P) {m : Mod} (hm : P m) (p : Nat) :
    P (Mod.dropAnswers m p) := by
  unfold Mod.dropAnswers
  try dsimp only
  repeat' first
    | with_reducible assumption
    | with_reducible apply Mod.pullPackets_keeps hS.up
    | with_reducible refine PairP.fst (Mod.pullPackets_keeps hS.up (hm := ?_) ..)
    | with_reducible apply Mod.bump_keeps hS.up

theorem Mod.removal_keeps {P : Mod → Prop} (hS : Stable 0x4fd924e9c P) {m : Mod} (hm : P m) (p : Nat) (byPrsnt : Bool) :
    P (Mod.removal m p byPrsnt) := by
  unfold Mod.removal
  try dsimp only
  repeat' first
    | with_reducible assumption
    | with_reducible apply Mod.dropAnswers_keeps hS.up
    | with_reducible apply Mod.portDown_keeps hS.up
    | with_reducible apply Mod.unbindAll_keeps hS.up
    | with_reducible apply Mod.showDevice_keeps hS.up
    | with_reducible apply Mod.deviceLost_keeps hS.up
    | with_reducible apply Mod.hostLost_keeps hS.up
    | with_reducible apply Mod.discardReads_keeps hS.up
    | with_reducible apply Mod.backingLost_keeps hS.up
    | with_reducible apply Mod.onEdge_keeps hS.up
    | with_reducible apply Mod.raise_keeps hS.up
    | with_reducible apply Mod.bump_keeps hS.up
    | with_reducible apply hS.onBr
    | with_reducible apply hS.ite
    | with_reducible apply OptP.map
    | split

theorem Mod.loseEdge_keeps {P : Mod → Prop} (hS : Stable 0x4fd924e9c P) {m : Mod} (hm : P m) (p : Nat) :
    P (Mod.loseEdge m p) := by
  unfold Mod.loseEdge
  try dsimp only
  repeat' first
    | with_reducible assumption
    | with_reducible apply Mod.removal_keeps hS.up
    | with_reducible apply Mod.edgeIdle_keeps hS.up
    | with_reducible apply hS.ite

theorem Mod.portDefaults_keeps {P : Mod → Prop} (hS : Stable 0x20000000 P) {m : Mod} (hm : P m) (p : Nat) :
    P (Mod.portDefaults m p) := by
  unfold Mod.portDefaults
  try dsimp only
  repeat' first | with_reducible assumption | with_reducible refine hS.onDiN ?_ (fun _ => by with_reducible_and_instances rfl)

theorem Mod.resetPort_keeps {P : Mod → Prop} (hS : Stable 0x4fd90421c P) {m : Mod} (hm : P m) (p : Nat) : P (Mod.resetPort m p) := by
  unfold Mod.resetPort
  try dsimp only
  repeat' first
    | with_reducible assumption
    | with_reducible apply Mod.discardReads_keeps hS.up
    | with_reducible apply Mod.endMargins_keeps hS.up
    | with_reducible apply Mod.flushPort_keeps hS.up
    | with_reducible apply Mod.ideErase_keeps hS.up
    | with_reducible apply Mod.onEdge_keeps hS.up
    | with_reducible apply Mod.onLane_keeps hS.up
    | with_reducible apply Mod.portDefaults_keeps hS.up
    | with_reducible apply hS.onBr
    | with_reducible apply hS.each
    | intro _ _ hm

theorem Mod.propagate_keeps {P : Mod → Prop} (hS : Stable 0x4fd90421c P) {m : Mod} (hm : P m) (v : Nat) (ns : List Nat) :
    P (Mod.propagate m v ns) := by
  unfold Mod.propagate
  try dsimp only
  repeat' first
    | with_reducible assumption
    | with_reducible apply Mod.resetPort_keeps hS.up
    | with_reducible apply Mod.onVppb_keeps hS.up
    | with_reducible apply hS.ite
    | with_reducible apply hS.each
    | split
    | intro _ _ hm

theorem Mod.hotReset_keeps {P : Mod → Prop} (hS : Stable 0x4fd90421c P) {m : Mod} (hm : P m) (p : Nat) :
    P (Mod.hotReset m p) := by
  unfold Mod.hotReset
  try dsimp only
  repeat' first
    | with_reducible assumption
    | with_reducible apply Mod.propagate_keeps hS.up
    | with_reducible apply Mod.resetPort_keeps hS.up
    | with_reducible apply Mod.hostPfReset_keeps hS.up
    | with_reducible apply Mod.abortGroups_keeps hS.up
    | with_reducible apply hS.ite
    | split

theorem Mod.startRefout_keeps {P : Mod → Prop} (hS : Stable 0x100 P) {m : Mod} (hm : P m) (k : Nat) : P (Mod.startRefout m k) := by
  unfold Mod.startRefout
  try dsimp only
  repeat' first | with_reducible assumption | with_reducible apply Mod.onCluster_keeps hS.up | with_reducible apply hS.ite

theorem Mod.refoutCheck_keeps {P : Mod → Prop} (hS : Stable 0x100 P) {m : Mod} (hm : P m) (k : Nat) :
    P (Mod.refoutCheck m k) := by
  unfold Mod.refoutCheck
  try dsimp only
  repeat' first
    | with_reducible assumption
    | with_reducible apply Mod.startRefout_keeps hS.up
    | with_reducible apply Mod.onCluster_keeps hS.up
    | with_reducible apply hS.ite

theorem Mod.testWrite_keeps {P : Mod → Prop} (hS : Stable 0x400000004 P) {m : Mod} (hm : P m) (l : Nat) (v : Nat) : P (Mod.testWrite m l v) := by
  unfold Mod.testWrite
  try dsimp only
  repeat' first
    | with_reducible assumption
    | with_reducible apply Mod.endMargins_keeps hS.up
    | with_reducible apply Mod.onLane_keeps hS.up
    | with_reducible apply hS.emit
    | split

end Sys2Proof.Machine
end

