-- ==== Sys2Proof/Laws/KeepsFenceOps.lean ====
section
/-! SUPPORT. What each operation of FenceOps.lean can do: it keeps every property stable under the updates of its mask. -/
namespace Sys2Proof.Machine
set_option Elab.async false

theorem Mod.fenceSlice_keeps {P : Mod → Prop} (hS : Stable 0xfd92009c P) {m : Mod} (hm : P m) (d : Nat) (s : Nat) :
    P (Mod.fenceSlice m d s) := by
  unfold Mod.fenceSlice
  try dsimp only
  repeat' first
    | with_reducible assumption
    | with_reducible apply Mod.entryLost_keeps hS.up
    | with_reducible apply hS.onFn
    | with_reducible apply hS.ite
    | with_reducible apply hS.each
    | with_reducible apply OptP.map
    | with_reducible apply PairP.mk
    | split
    | intro _ _ hm

theorem Mod.fenceEffect_keeps {P : Mod → Prop} (hS : Stable 0x4ff925e9c P) {m : Mod} (hm : P m) (u : UnitId) : P (Mod.fenceEffect m u) := by
  unfold Mod.fenceEffect
  try dsimp only
  repeat' first
    | with_reducible assumption
    | with_reducible apply Mod.endMargins_keeps hS.up
    | with_reducible apply Mod.fenceSlice_keeps hS.up
    | with_reducible apply Mod.linkRetire_keeps hS.up
    | with_reducible apply Mod.loseEdge_keeps hS.up
    | with_reducible apply Mod.onLane_keeps hS.up
    | with_reducible apply Mod.onLanes_keeps hS.up
    | with_reducible apply hS.onFn
    | with_reducible apply hS.each
    | split
    | intro _ _ hm

theorem Mod.fenceUnit_keeps {P : Mod → Prop} (hS : Stable 0x4ff925e9c P) {m : Mod} (hm : P m) (u : UnitId) (cause : Nat) :
    P (Mod.fenceUnit m u cause) := by
  unfold Mod.fenceUnit
  try dsimp only
  repeat' first
    | with_reducible assumption
    | with_reducible apply Mod.fenceEffect_keeps hS.up
    | with_reducible apply Mod.raise_keeps hS.up
    | with_reducible apply Mod.setPers_keeps hS.up
    | with_reducible apply hS.onFn
    | with_reducible apply hS.ite
    | split

theorem Mod.lanesUnlocked_keeps {P : Mod → Prop} (hS : Stable 0x400000000 P) {m : Mod} (hm : P m) (p : Nat) : P (Mod.lanesUnlocked m p) := by
  unfold Mod.lanesUnlocked
  try dsimp only
  repeat' first | with_reducible assumption | with_reducible apply Mod.endMargins_keeps hS.up | with_reducible apply Mod.onLanes_keeps hS.up

theorem Mod.pllLoss_keeps {P : Mod → Prop} (hS : Stable 0x4ff925f9c P) {m : Mod} (hm : P m) (k : Nat) :
    P (Mod.pllLoss m k) := by
  unfold Mod.pllLoss
  try dsimp only
  repeat' first
    | with_reducible assumption
    | with_reducible apply Mod.lanesUnlocked_keeps hS.up
    | with_reducible apply Mod.fenceUnit_keeps hS.up
    | with_reducible apply Mod.loseEdge_keeps hS.up
    | with_reducible apply Mod.onEdge_keeps hS.up
    | with_reducible apply Mod.linkDown_keeps hS.up
    | with_reducible apply Mod.onCluster_keeps hS.up
    | with_reducible apply Mod.raise_keeps hS.up
    | with_reducible apply Mod.bump_keeps hS.up
    | with_reducible apply hS.ite
    | with_reducible apply hS.each
    | split
    | intro _ _ hm

theorem Mod.startTraining_keeps {P : Mod → Prop} (hS : Stable 0x200 P) {m : Mod} (hm : P m) (p : Nat) : P (Mod.startTraining m p) := by
  unfold Mod.startTraining
  try dsimp only
  repeat' first | with_reducible assumption | with_reducible apply Mod.onEdge_keeps hS.up | with_reducible apply hS.ite

theorem Mod.pllLocked_keeps {P : Mod → Prop} (hS : Stable 0x300 P) {m : Mod} (hm : P m) (k : Nat) : P (Mod.pllLocked m k) := by
  unfold Mod.pllLocked
  try dsimp only
  repeat' first
    | with_reducible assumption
    | with_reducible apply Mod.onCluster_keeps hS.up
    | with_reducible apply Mod.refoutCheck_keeps hS.up
    | with_reducible apply Mod.startTraining_keeps hS.up
    | with_reducible apply hS.each
    | intro _ _ hm

theorem Mod.onRegion_keeps {P : Mod → Prop} (hS : Stable 0x80 P) {m : Mod} (hm : P m) (r : Nat) (f : RegionSt → RegionSt) :
    P (Mod.onRegion m r f) := by
  unfold Mod.onRegion
  try dsimp only
  repeat' first | with_reducible assumption | with_reducible apply hS.onFn

theorem Mod.gateRegion_keeps {P : Mod → Prop} (hS : Stable 0x46100579c P) {m : Mod} (hm : P m) (r : Nat) : P (Mod.gateRegion m r) := by
  unfold Mod.gateRegion
  try dsimp only
  repeat' first
    | with_reducible assumption
    | with_reducible apply Mod.edgeIdle_keeps hS.up
    | with_reducible apply Mod.endMargins_keeps hS.up
    | with_reducible apply Mod.linkDown_keeps hS.up
    | with_reducible apply Mod.onCluster_keeps hS.up
    | with_reducible apply Mod.onLane_keeps hS.up
    | with_reducible apply Mod.onRegion_keeps hS.up
    | with_reducible apply hS.each
    | intro _ _ hm

theorem Mod.ungateRegion_keeps {P : Mod → Prop} (hS : Stable 0x400080380 P) {m : Mod} (hm : P m) (r : Nat) :
    P (Mod.ungateRegion m r) := by
  unfold Mod.ungateRegion
  try dsimp only
  repeat' first
    | with_reducible assumption
    | with_reducible apply Mod.onRegion_keeps hS.up
    | with_reducible apply Mod.pllLocked_keeps hS.up
    | with_reducible apply Mod.onLane_keeps hS.up
    | with_reducible apply hS.onSc
    | with_reducible apply hS.each
    | with_reducible apply OptP.map
    | split
    | intro _ _ hm

end Sys2Proof.Machine
end

