-- ==== Sys2Proof/Laws/KeepsSecOps.lean ====
section
/-! SUPPORT. What each operation of SecOps.lean can do: it keeps every property stable under the updates of its mask. -/
namespace Sys2Proof.Machine
set_option Elab.async false

theorem Mod.storeDebug_keeps {P : Mod → Prop} (hS : Stable 0x120000000 P) {m : Mod} (hm : P m) :
    P (Mod.storeDebug m) := by
  unfold Mod.storeDebug
  try dsimp only
  repeat' first
    | with_reducible assumption
    | with_reducible apply Mod.setPers_keeps hS.up
    | with_reducible refine hS.onSeN ?_ (fun _ => by constructor <;> with_reducible_and_instances rfl)
    | with_reducible apply hS.ite

theorem Mod.deriveKeys_keeps {P : Mod → Prop} (hS : Stable 0x100000000 P) {m : Mod} (hm : P m) :
    P (Mod.deriveKeys m) := by
  unfold Mod.deriveKeys
  try dsimp only
  repeat' first
    | with_reducible assumption
    | with_reducible refine hS.onSeN ?_ (fun _ => by constructor <;> with_reducible_and_instances rfl)
    | with_reducible apply hS.ite
    | split

theorem Mod.fallback_keeps {P : Mod → Prop} (hS : Stable 0x14000000c P) {m : Mod} (hm : P m) (kind : Nat) (pref : Bool) :
    P (Mod.fallback m kind pref) := by
  unfold Mod.fallback
  try dsimp only
  repeat' first
    | with_reducible assumption
    | with_reducible apply Mod.raise_keeps hS.up
    | with_reducible refine hS.onSeN ?_ (fun _ => by constructor <;> with_reducible_and_instances rfl)
    | with_reducible apply hS.ite

theorem Mod.bootImages_keeps {P : Mod → Prop} (hS : Stable 0x16000000c P) {m : Mod} (hm : P m) :
    P (Mod.bootImages m) := by
  unfold Mod.bootImages
  try dsimp only
  repeat' first
    | with_reducible assumption
    | with_reducible apply Mod.fallback_keeps hS.up
    | with_reducible apply Mod.deriveKeys_keeps hS.up
    | with_reducible refine hS.onDiN ?_ (fun _ => by with_reducible_and_instances rfl)
    | with_reducible refine hS.onSeN ?_ (fun _ => by constructor <;> with_reducible_and_instances rfl)
    | with_reducible apply hS.ite
    | split

end Sys2Proof.Machine
end

