-- ==== Sys2Proof/Laws/KeepsModeSeq.lean ====
section
/-! SUPPORT. What each operation of ModeSeq.lean can do: it keeps every property stable under the updates of its mask. -/
namespace Sys2Proof.Machine
set_option Elab.async false

theorem Mod.restoreAll_keeps {P : Mod → Prop} (hS : Stable 0x20004060 P) {m : Mod} (hm : P m) :
    P (Mod.restoreAll m) := by
  unfold Mod.restoreAll
  try dsimp only
  repeat' first
    | with_reducible assumption
    | with_reducible apply Mod.limitWritten_keeps hS.up
    | with_reducible apply Mod.setObj_keeps hS.up
    | with_reducible apply hS.onDi
    | with_reducible apply hS.onMd
    | with_reducible apply hS.each
    | with_reducible apply PairP.mk
    | split
    | intro _ _ hm

theorem Mod.restoreRemote_keeps {P : Mod → Prop} (hS : Stable 0x20000000 P) {m : Mod} (hm : P m) :
    P (Mod.restoreRemote m) := by
  unfold Mod.restoreRemote
  try dsimp only
  repeat' first
    | with_reducible assumption
    | with_reducible apply Mod.addRemote_keeps hS.up
    | with_reducible apply hS.ite
    | with_reducible apply hS.each
    | with_reducible apply OptP.getD
    | with_reducible apply PairP.mk
    | refine OptP.get ?_ (by assumption)
    | split
    | intro _ _ hm

theorem Mod.reboot_keeps {P : Mod → Prop} (hS : Stable 0x320004062 P) {m : Mod} (hm : P m) (k : ResetKind) : P (Mod.reboot m k) := by
  unfold Mod.reboot
  extract_lets kept m0 objs m1 epoch m2 routeKey m3 cacheKey m4
  have hk : P kept := by
    unfold kept
    split
    · exact hm
    · exact hm
    · exact Mod.storeDebug_keeps hS.up hm
  have h0 : P m0 := hS.ite (Mod.restoreAll_keeps hS.up hk) hk
  have h4 : P m4 := hS.drawn (hS.drawn (hS.drawn (hS.onDi h0)))
  clear_value m4 m2
  refine Mod.restoreRemote_keeps hS.up (hS.any (by exact rfl) m4 _ ?_ h4)
  refine ⟨Nat.le_refl _, Nat.le_refl _, List.prefix_refl _, FusesGrow.same rfl rfl rfl rfl rfl, ⟨?_, fun _ => rfl⟩⟩
  intro e
  show (if k = ResetKind.warm then m4.sv.service else []).wf = true
  split
  · exact e
  · rfl

theorem Mod.outOfReset_keeps {P : Mod → Prop} (hS : Stable 0x421004354 P) {m : Mod} (hm : P m) :
    P (Mod.outOfReset m) := by
  unfold Mod.outOfReset
  try dsimp only
  repeat' first
    | with_reducible assumption
    | with_reducible apply Mod.refoutCheck_keeps hS.up
    | with_reducible apply Mod.edgeIdle_keeps hS.up
    | with_reducible apply Mod.onLanes_keeps hS.up
    | with_reducible apply hS.onMd
    | with_reducible apply hS.each
    | split
    | intro _ _ hm

theorem Mod.flashArea1_keeps {P : Mod → Prop} (hS : Stable 0x20000000 P) {m : Mod} (hm : P m) : P (Mod.flashArea1 m) := by
  unfold Mod.flashArea1
  try dsimp only
  repeat' first | with_reducible assumption | with_reducible refine hS.onDiN ?_ (fun _ => by with_reducible_and_instances rfl)

theorem Mod.enterBoot_keeps {P : Mod → Prop} (hS : Stable 0x76100437e P) {m : Mod} (hm : P m) (warm : Bool) : P (Mod.enterBoot m warm) := by
  unfold Mod.enterBoot
  try dsimp only
  repeat' first
    | with_reducible assumption
    | with_reducible apply Mod.answerRest_keeps hS.up
    | with_reducible apply Mod.bootImages_keeps hS.up
    | with_reducible apply Mod.closeAll_keeps hS.up
    | with_reducible apply Mod.enterMode_keeps hS.up
    | with_reducible apply Mod.flashArea1_keeps hS.up
    | with_reducible apply Mod.outOfReset_keeps hS.up
    | with_reducible apply Mod.reboot_keeps hS.up
    | with_reducible apply hS.onMd
    | with_reducible apply hS.ite

theorem Mod.railStepDone_keeps {P : Mod → Prop} (hS : Stable 0x46100437d P) {m : Mod} (hm : P m) : P (Mod.railStepDone m) := by
  unfold Mod.railStepDone
  try dsimp only
  repeat' first
    | with_reducible assumption
    | with_reducible apply Mod.advanceTo_keeps hS.up
    | with_reducible apply Mod.flushPowerEvents_keeps hS.up
    | with_reducible apply Mod.outOfReset_keeps hS.up
    | with_reducible apply hS.onMd
    | with_reducible apply hS.ite

theorem Mod.ringInit_keeps {P : Mod → Prop} (hS : Stable 0x8 P) {m : Mod} (hm : P m) :
    P (Mod.ringInit m) := by
  unfold Mod.ringInit
  try dsimp only
  repeat' first | with_reducible assumption | with_reducible apply hS.onEv

theorem Mod.bootParcels_keeps {P : Mod → Prop} (hS : Stable 0xfd96001c P) {m : Mod} (hm : P m) (clean : Bool) :
    P (Mod.bootParcels m clean) := by
  unfold Mod.bootParcels
  try dsimp only
  repeat' first
    | with_reducible assumption
    | with_reducible apply Mod.setMState_keeps hS.up
    | with_reducible apply Mod.startFlush_keeps hS.up
    | with_reducible apply Mod.poisonParcel_keeps hS.up
    | with_reducible apply Mod.setDState_keeps hS.up
    | with_reducible apply Mod.firmwareRead_keeps hS.up
    | with_reducible apply Mod.raise_keeps hS.up
    | with_reducible apply hS.onPo
    | with_reducible apply hS.ite
    | with_reducible apply hS.each
    | split
    | intro _ _ hm

theorem Mod.bindHosts_keeps {P : Mod → Prop} (hS : Stable 0x20000000 P) {m : Mod} (hm : P m) :
    P (Mod.bindHosts m) := by
  unfold Mod.bindHosts
  try dsimp only
  repeat' first | with_reducible assumption | with_reducible apply Mod.setObj_keeps hS.up | with_reducible apply hS.each | split | intro _ _ hm

theorem Mod.bootFences_keeps {P : Mod → Prop} (hS : Stable 0x4ff925e9c P) {m : Mod} (hm : P m) (fails : List UnitId) : P (Mod.bootFences m fails) := by
  unfold Mod.bootFences
  try dsimp only
  repeat' first
    | with_reducible assumption
    | with_reducible apply Mod.fenceEffect_keeps hS.up
    | with_reducible apply Mod.fenceUnit_keeps hS.up
    | with_reducible apply Mod.linkRetire_keeps hS.up
    | with_reducible apply hS.each
    | intro _ _ hm

theorem Mod.enterConfigure_keeps {P : Mod → Prop} (hS : Stable 0x6000136d P) {m : Mod} (hm : P m) :
    P (Mod.enterConfigure m) := by
  unfold Mod.enterConfigure
  try dsimp only
  repeat' first
    | with_reducible assumption
    | with_reducible apply Mod.pllLocked_keeps hS.up
    | with_reducible apply Mod.enterMode_keeps hS.up
    | with_reducible apply Mod.onEdge_keeps hS.up
    | with_reducible apply Mod.flushPowerEvents_keeps hS.up
    | with_reducible apply Mod.recordDirty_keeps hS.up
    | with_reducible apply Mod.setMrdy_keeps hS.up
    | with_reducible apply Mod.setPers_keeps hS.up
    | with_reducible apply hS.onMd
    | with_reducible apply hS.advance
    | with_reducible apply hS.ite
    | with_reducible apply hS.each
    | split
    | intro _ _ hm

theorem Mod.bootDone_keeps {P : Mod → Prop} (hS : Stable 0x4ff965ffd P) {m : Mod} (hm : P m) (fails : List UnitId) :
    P (Mod.bootDone m fails) := by
  unfold Mod.bootDone
  try dsimp only
  repeat' first
    | with_reducible assumption
    | with_reducible apply Mod.enterConfigure_keeps hS.up
    | with_reducible apply Mod.bootFences_keeps hS.up
    | with_reducible apply Mod.bindHosts_keeps hS.up
    | with_reducible apply Mod.bootParcels_keeps hS.up
    | with_reducible apply Mod.ringInit_keeps hS.up
    | with_reducible apply Mod.advanceTo_keeps hS.up

theorem Mod.openAll_keeps {P : Mod → Prop} (hS : Stable 0x400 P) {m : Mod} (hm : P m) :
    P (Mod.openAll m) := by
  unfold Mod.openAll
  try dsimp only
  repeat' first
    | with_reducible assumption
    | with_reducible apply Mod.onLink_keeps hS.up
    | with_reducible apply hS.ite
    | with_reducible apply hS.each
    | split
    | intro _ _ hm

theorem Mod.enterOperate_keeps {P : Mod → Prop} (hS : Stable 0x6000044c P) {m : Mod} (hm : P m) :
    P (Mod.enterOperate m) := by
  unfold Mod.enterOperate
  try dsimp only
  repeat' first
    | with_reducible assumption
    | with_reducible apply Mod.openAll_keeps hS.up
    | with_reducible apply Mod.enterMode_keeps hS.up
    | with_reducible apply hS.onMd

theorem Mod.retrainEdge_keeps {P : Mod → Prop} (hS : Stable 0x400000210 P) {m : Mod} (hm : P m) (p : Nat) (rate : Nat) : P (Mod.retrainEdge m p rate) := by
  unfold Mod.retrainEdge
  try dsimp only
  repeat' first
    | with_reducible assumption
    | with_reducible apply Mod.endMargins_keeps hS.up
    | with_reducible apply Mod.onEdge_keeps hS.up
    | with_reducible apply Mod.onLane_keeps hS.up
    | with_reducible apply Mod.portCtr_keeps hS.up
    | with_reducible apply hS.each
    | split
    | intro _ _ hm
    | intro _ hm
    | intro _ _

theorem Mod.wakeLink_keeps {P : Mod → Prop} (hS : Stable 0x1404 P) {m : Mod} (hm : P m) (n : Nat) : P (Mod.wakeLink m n) := by
  unfold Mod.wakeLink
  try dsimp only
  repeat' first
    | with_reducible assumption
    | with_reducible apply Mod.onLink_keeps hS.up
    | with_reducible apply Mod.recordDirty_keeps hS.up
    | with_reducible apply Mod.startExit_keeps hS.up

theorem Mod.takeMeasure_keeps {P : Mod → Prop} (hS : Stable 0x4000006d0 P) {m : Mod} (hm : P m) (step : Nat) :
    P (Mod.takeMeasure m step) := by
  unfold Mod.takeMeasure
  try dsimp only
  repeat' first
    | with_reducible assumption
    | with_reducible apply Mod.retrainEdge_keeps hS.up
    | with_reducible apply Mod.onRegion_keeps hS.up
    | with_reducible apply Mod.onLink_keeps hS.up
    | with_reducible apply hS.onMd
    | with_reducible apply hS.ite
    | with_reducible apply hS.each
    | split
    | intro _ _ hm

theorem Mod.dropMeasure_keeps {P : Mod → Prop} (hS : Stable 0x4000016d4 P) {m : Mod} (hm : P m) (step : Nat) : P (Mod.dropMeasure m step) := by
  unfold Mod.dropMeasure
  try dsimp only
  repeat' first
    | with_reducible assumption
    | with_reducible apply Mod.onRegion_keeps hS.up
    | with_reducible apply Mod.retrainEdge_keeps hS.up
    | with_reducible apply Mod.wakeLink_keeps hS.up
    | with_reducible apply hS.onMd
    | with_reducible apply hS.each
    | split
    | intro _ _ hm

theorem Mod.holdMeasures_keeps {P : Mod → Prop} (hS : Stable 0x4000016d4 P) {m : Mod} (hm : P m) : P (Mod.holdMeasures m) := by
  unfold Mod.holdMeasures
  try dsimp only
  repeat' first
    | with_reducible assumption
    | with_reducible apply Mod.takeMeasure_keeps hS.up
    | with_reducible apply Mod.wakeLink_keeps hS.up
    | with_reducible apply hS.ite
    | with_reducible apply hS.each
    | intro _ _ hm

theorem Mod.govStep_keeps {P : Mod → Prop} (hS : Stable 0x4600016dc P) {m : Mod} (hm : P m) (n : Nat) : P (Mod.govStep m n) := by
  unfold Mod.govStep
  try dsimp only
  repeat' first
    | with_reducible assumption
    | with_reducible apply Mod.dropMeasure_keeps hS.up
    | with_reducible apply Mod.enterMode_keeps hS.up
    | with_reducible apply Mod.takeMeasure_keeps hS.up
    | with_reducible apply hS.onMd
    | with_reducible apply hS.ite
    | with_reducible apply hS.each
    | intro _ _ hm

theorem Mod.startDrain_keeps {P : Mod → Prop} (hS : Stable 0x1fd90405c P) {m : Mod} (hm : P m) (endState : Mode) (bound : Nat) :
    P (Mod.startDrain m endState bound) := by
  unfold Mod.startDrain
  try dsimp only
  repeat' first
    | with_reducible assumption
    | with_reducible apply Mod.storeDebug_keeps hS.up
    | with_reducible apply Mod.migAbort_keeps hS.up
    | with_reducible apply Mod.flushWhere_keeps hS.up
    | with_reducible apply Mod.enterMode_keeps hS.up
    | with_reducible apply Mod.closeAll_keeps hS.up
    | with_reducible apply hS.onMd
    | with_reducible apply hS.each
    | with_reducible apply OptP.map
    | with_reducible apply PairP.mk
    | split
    | intro _ _ hm

theorem Mod.recallAll_keeps {P : Mod → Prop} (hS : Stable 0x8000000 P) {m : Mod} (hm : P m) :
    P (Mod.recallAll m) := by
  unfold Mod.recallAll
  try dsimp only
  repeat' first
    | with_reducible assumption
    | with_reducible apply Mod.onLine_keeps hS.up
    | with_reducible apply hS.each
    | with_reducible apply OptP.map
    | with_reducible apply PairP.mk
    | split
    | intro _ _ hm

theorem Mod.startHandoff_keeps {P : Mod → Prop} (hS : Stable 0x7d94005c P) {m : Mod} (hm : P m) : P (Mod.startHandoff m) := by
  unfold Mod.startHandoff
  try dsimp only
  repeat' first
    | with_reducible assumption
    | with_reducible apply Mod.recallRest_keeps hS.up
    | with_reducible apply hS.onMd
    | with_reducible apply hS.onPo

theorem Mod.forwardWaiting_keeps {P : Mod → Prop} (hS : Stable 0x7d90001c P) (i : Nat) : ∀ {m : Mod} (hm : P m) (n : Nat), P (Mod.forwardWaiting m i n)
  | _, hm, 0 => by
    unfold Mod.forwardWaiting
    exact hm
  | m, hm, n + 1 => by
    unfold Mod.forwardWaiting
    split
    · exact Mod.forwardWaiting_keeps hS.up i (Mod.homeStart_keeps hS.up hm _) n
    · exact hm

theorem Mod.handOff_keeps {P : Mod → Prop} (hS : Stable 0x7d94141c P) {m : Mod} (hm : P m) (i : Nat) :
    P (Mod.handOff m i) := by
  unfold Mod.handOff
  try dsimp only
  repeat' first
    | with_reducible assumption
    | with_reducible apply Mod.forwardWaiting_keeps hS.up
    | with_reducible apply Mod.redirect_keeps hS.up
    | with_reducible apply Mod.announceMove_keeps hS.up
    | with_reducible apply Mod.setDState_keeps hS.up
    | with_reducible apply Mod.firmwareDesc_keeps hS.up
    | with_reducible apply Mod.waits_keeps hS.up
    | with_reducible refine hS.onHoN ?_ (fun _ => by with_reducible_and_instances rfl)
    | with_reducible apply hS.onPo
    | with_reducible apply hS.emit

theorem Mod.startLeave_keeps {P : Mod → Prop} (hS : Stable 0x4000144c P) {m : Mod} (hm : P m) : P (Mod.startLeave m) := by
  unfold Mod.startLeave
  try dsimp only
  repeat' first
    | with_reducible assumption
    | with_reducible apply Mod.onLink_keeps hS.up
    | with_reducible apply Mod.raise_keeps hS.up
    | with_reducible apply Mod.recordDirty_keeps hS.up
    | with_reducible apply Mod.startExit_keeps hS.up
    | with_reducible apply hS.onMd
    | with_reducible apply hS.onRt
    | with_reducible apply hS.each
    | split
    | intro _ _ hm

theorem Mod.startEnd_keeps {P : Mod → Prop} (hS : Stable 0x421004254 P) {m : Mod} (hm : P m) :
    P (Mod.startEnd m) := by
  unfold Mod.startEnd
  try dsimp only
  repeat' first
    | with_reducible assumption
    | with_reducible apply Mod.edgeIdle_keeps hS.up
    | with_reducible apply Mod.setPers_keeps hS.up
    | with_reducible apply hS.onMd
    | with_reducible apply hS.ite
    | with_reducible apply hS.each
    | split
    | intro _ _ hm

theorem Mod.lowerRails_keeps {P : Mod → Prop} (hS : Stable 0x36100407f P) {m : Mod} (hm : P m) : P (Mod.lowerRails m) := by
  unfold Mod.lowerRails
  try dsimp only
  repeat' first
    | with_reducible assumption
    | with_reducible apply Mod.answerRest_keeps hS.up
    | with_reducible apply Mod.closeAll_keeps hS.up
    | with_reducible apply Mod.reboot_keeps hS.up
    | with_reducible apply hS.onMd
    | with_reducible apply hS.advance

theorem Mod.drainEnds_keeps {P : Mod → Prop} (hS : Stable 0x76100437f P) {m : Mod} (hm : P m) : P (Mod.drainEnds m) := by
  unfold Mod.drainEnds
  try dsimp only
  repeat' first
    | with_reducible assumption
    | with_reducible apply Mod.enterBoot_keeps hS.up
    | with_reducible apply Mod.enterMode_keeps hS.up
    | with_reducible apply Mod.lowerRails_keeps hS.up
    | with_reducible apply Mod.pgCheck_keeps hS.up
    | with_reducible apply Mod.setObj_keeps hS.up
    | with_reducible apply hS.onPw
    | with_reducible apply hS.onDi
    | split

theorem Mod.drainBound_keeps {P : Mod → Prop} (hS : Stable 0x4e191565c P) {m : Mod} (hm : P m) : P (Mod.drainBound m) := by
  unfold Mod.drainBound
  try dsimp only
  repeat' first
    | with_reducible assumption
    | with_reducible apply Mod.barDone_keeps hS.up
    | with_reducible apply Mod.linkDown_keeps hS.up
    | with_reducible apply Mod.poisonParcel_keeps hS.up
    | with_reducible apply Mod.raise_keeps hS.up
    | with_reducible apply Mod.sendControl_keeps hS.up
    | with_reducible apply Mod.setObj_keeps hS.up
    | with_reducible apply Mod.startEnd_keeps hS.up
    | with_reducible apply Mod.startLeave_keeps hS.up
    | with_reducible apply hS.onMd
    | with_reducible refine hS.onEdN ?_ (fun _ => by with_reducible_and_instances rfl)
    | with_reducible apply hS.onCa
    | with_reducible apply hS.onBr
    | with_reducible apply hS.each
    | split
    | intro _ _ hm

/-- Whatever the module does on an accepted mode request. -/
theorem Mod.modeRequest_fn {P : Mod → Prop} (hS : Stable 0x7fd90477f P) (m : Mod) (v : Nat) : FnP P (m.modeRequest v) := by
  unfold Mod.modeRequest
  extract_lets cool
  refine FnP.ite FnP.none (FnP.ite (FnP.some fun _ h => h) ?_)
  have drain : ∀ (s : Mode) (n : Mod → Nat), FnP P (some fun x : Mod => x.startDrain s (n x)) := fun s n => FnP.some fun _ h => Mod.startDrain_keeps hS.up h _ _
  have mode : ∀ f : ModeBlk → ModeBlk, FnP P (some fun x : Mod => x.onMd f) := fun f => FnP.some fun _ h => hS.onMd h
  split
  · exact FnP.some fun _ h => hS.ite (hS.onMd h) (Mod.powerEvent_keeps hS.up (hS.onMd h) _ _)
  · exact FnP.ite FnP.none (FnP.some fun _ h => Mod.enterOperate_keeps hS.up h)
  · exact drain _ _
  · exact drain _ _
  · exact drain _ _
  · exact drain _ _
  · exact drain _ _
  · exact drain _ _
  · exact drain _ _
  · exact drain _ _
  · exact drain _ _
  · exact mode _
  · exact mode _
  · exact FnP.some fun _ h => hS.onMd h
  · exact FnP.ite (FnP.some fun _ h => Mod.enterMode_keeps hS.up (Mod.lowerRails_keeps hS.up h) _ _) FnP.none
  · exact FnP.ite (FnP.some fun _ h => Mod.enterBoot_keeps hS.up h _) FnP.none
  · exact FnP.none

theorem Mod.modeRequest_keeps {P : Mod → Prop} (hS : Stable 0x7fd90477f P) {m x : Mod} (hm : P x) (v : Nat) : P ((m.modeRequest v).getD id x) :=
  (Mod.modeRequest_fn hS m v).getD hm

end Sys2Proof.Machine
end

