-- ==== Sys2Proof/Laws/KeepsMpuOps.lean ====
section
/-! SUPPORT. What each operation of MpuOps.lean can do: it keeps every property stable under the updates of its mask. -/
namespace Sys2Proof.Machine
set_option Elab.async false

theorem Mod.violation_keeps {P : Mod → Prop} (hS : Stable 0x6000000c P) {m : Mod} (hm : P m) (master : Nat) (priv : Nat) (k : BusKind) (addr : Nat) (size : Nat) (a : Nat) :
    P (Mod.violation m master priv k addr size a) := by
  unfold Mod.violation
  try dsimp only
  repeat' first
    | with_reducible assumption
    | with_reducible apply Mod.raiseOnce_keeps hS.up
    | with_reducible apply Mod.raise_keeps hS.up
    | with_reducible apply Mod.bump_keeps hS.up
    | with_reducible apply Mod.setObj_keeps hS.up
    | with_reducible apply hS.ite

theorem Mod.faultTo_keeps {P : Mod → Prop} (hS : Stable 0x14 P) {m : Mod} (hm : P m) (master : Nat) :
    P (Mod.faultTo m master) := by
  unfold Mod.faultTo
  try dsimp only
  repeat' first
    | with_reducible assumption
    | with_reducible apply Mod.hubCtr_keeps hS.up
    | with_reducible apply hS.emit
    | with_reducible apply hS.ite

theorem Mod.hubWrite_keeps {P : Mod → Prop} (hS : Stable 0x200000 P) {m : Mod} (hm : P m) (x : Nat) (bytes : List Nat) : P (Mod.hubWrite m x bytes) := by
  unfold Mod.hubWrite
  refine hS.ite (hS.onSv hm ?_) (hS.ite (hS.onSv hm ?_) hm)
  · intro b
    exact MemKept.putSram rfl rfl
  · intro b
    exact MemKept.put rfl rfl

theorem Mod.slotWrite_keeps {P : Mod → Prop} (hS : Stable 0x6000000c P) {m : Mod} (hm : P m) (s : Nat) (v : Nat) :
    P (Mod.slotWrite m s v) := by
  unfold Mod.slotWrite
  try dsimp only
  repeat' first
    | with_reducible assumption
    | with_reducible apply Mod.raise_keeps hS.up
    | with_reducible apply Mod.setObj_keeps hS.up
    | with_reducible apply hS.ite

end Sys2Proof.Machine
end

