-- ==== Sys2Proof/Laws/KeepsCountOps.lean ====
section
/-! SUPPORT. What each operation of CountOps.lean can do: it keeps every property stable under the updates of its mask. -/
namespace Sys2Proof.Machine
set_option Elab.async false

theorem Mod.advanceMeridian_keeps {P : Mod → Prop} (hS : Stable 0x11 P) {m : Mod} (hm : P m) (t : Nat) :
    P (Mod.advanceMeridian m t) := by
  unfold Mod.advanceMeridian
  try dsimp only
  repeat' first | with_reducible assumption | with_reducible apply Mod.count_keeps hS.up | with_reducible apply hS.advance

theorem Mod.sampleOut_keeps {P : Mod → Prop} (hS : Stable 0x6020000c P) {m : Mod} (hm : P m) (rec : Nat) : P (Mod.sampleOut m rec) := by
  unfold Mod.sampleOut
  refine hS.ite (Mod.raiseOnce_keeps hS.up (Mod.bump_keeps hS.up hm _ _) _ _) ?_
  refine Mod.setObj_keeps hS.up (hS.onSv hm ?_) _ _
  intro b
  exact MemKept.put rfl rfl

theorem Mod.chainChange_keeps {P : Mod → Prop} (hS : Stable 0x10 P) {m : Mod} (hm : P m) (w : Nat) (old : Nat) (new : Nat) :
    P (Mod.chainChange m w old new) := by
  unfold Mod.chainChange
  try dsimp only
  repeat' first | with_reducible assumption | with_reducible apply hS.onCn | with_reducible apply hS.each | split | intro _ _ hm

theorem Mod.remapRow_keeps {P : Mod → Prop} (hS : Stable 0x4000001c P) {m : Mod} (hm : P m) (c : Nat) (row : Nat) :
    P (Mod.remapRow m c row) := by
  unfold Mod.remapRow
  try dsimp only
  repeat' first
    | with_reducible assumption
    | with_reducible apply Mod.raise_keeps hS.up
    | with_reducible apply Mod.chCtr_keeps hS.up
    | with_reducible apply hS.onCn
    | with_reducible apply hS.ite

theorem Mod.cachePoisoned_keeps {P : Mod → Prop} (hS : Stable 0x4800000c P) {m : Mod} (hm : P m) (l : Nat) :
    P (Mod.cachePoisoned m l) := by
  unfold Mod.cachePoisoned
  try dsimp only
  repeat' first
    | with_reducible assumption
    | with_reducible apply Mod.onLine_keeps hS.up
    | with_reducible apply Mod.raise_keeps hS.up
    | with_reducible apply hS.ite

theorem Mod.recordLost_keeps {P : Mod → Prop} (hS : Stable 0x8 P) {m : Mod} (hm : P m) (seq : Nat) :
    P (Mod.recordLost m seq) := by
  unfold Mod.recordLost
  try dsimp only
  repeat' first | with_reducible assumption | with_reducible apply hS.onEv | with_reducible apply hS.ite

theorem Mod.scrubLoss_keeps {P : Mod → Prop} (hS : Stable 0xfd92001c P) {m : Mod} (hm : P m) (y0 : ScrubFind) :
    P (Mod.scrubLoss m y0) := by
  unfold Mod.scrubLoss
  try dsimp only
  repeat' first
    | with_reducible assumption
    | with_reducible apply Mod.recordLost_keeps hS.up
    | with_reducible apply Mod.cachePoisoned_keeps hS.up
    | with_reducible apply Mod.entryLost_keeps hS.up
    | with_reducible apply Mod.corrected_keeps hS.up
    | split

theorem Mod.scrubEnd_keeps {P : Mod → Prop} (hS : Stable 0x4000001c P) {m : Mod} (hm : P m) :
    P (Mod.scrubEnd m) := by
  unfold Mod.scrubEnd
  try dsimp only
  repeat' first | with_reducible assumption | with_reducible apply Mod.raise_keeps hS.up | with_reducible apply hS.onCn | with_reducible apply hS.ite

theorem Mod.lineLost_keeps {P : Mod → Prop} (hS : Stable 0x5e3185efc P) {m : Mod} (hm : P m) (c : Nat) : P (Mod.lineLost m c) := by
  unfold Mod.lineLost
  try dsimp only
  repeat' first
    | with_reducible assumption
    | with_reducible apply Mod.fatalDie_keeps hS.up
    | with_reducible apply hS.onCn
    | with_reducible apply hS.ite
    | intro _ _ hm
    | intro _ hm
    | intro _ _

theorem Mod.scrubRead_keeps {P : Mod → Prop} (hS : Stable 0x5ff9a5efc P) {m : Mod} (hm : P m) (c : Nat) (f : ScrubFind) : P (Mod.scrubRead m c f) := by
  unfold Mod.scrubRead
  try dsimp only
  repeat' first
    | with_reducible assumption
    | with_reducible apply Mod.chCtr_keeps hS.up
    | with_reducible apply Mod.corrected_keeps hS.up
    | with_reducible apply Mod.lineLost_keeps hS.up
    | with_reducible apply Mod.remapRow_keeps hS.up
    | with_reducible apply Mod.scrubEnd_keeps hS.up
    | with_reducible apply Mod.scrubLoss_keeps hS.up
    | with_reducible apply hS.onCn
    | with_reducible apply hS.ite
    | split
    | intro _ _ hm
    | intro _ hm
    | intro _ _

theorem Mod.walkCorrected_keeps {P : Mod → Prop} (hS : Stable 0x4000001c P) {m : Mod} (hm : P m) (y0 : Walked) :
    P (Mod.walkCorrected m y0) := by
  unfold Mod.walkCorrected
  try dsimp only
  repeat' first
    | with_reducible assumption
    | with_reducible apply Mod.corrected_keeps hS.up
    | with_reducible apply Mod.raiseOnce_keeps hS.up
    | with_reducible apply Mod.hubCtr_keeps hS.up
    | with_reducible apply Mod.dieCtr_keeps hS.up
    | split

theorem Mod.walkLost_keeps {P : Mod → Prop} (hS : Stable 0x5fd92567c P) {m : Mod} (hm : P m) (w : Walked) (place : Nat) (known : Bool) :
    P (Mod.walkLost m w place known) := by
  unfold Mod.walkLost
  try dsimp only
  repeat' first
    | with_reducible assumption
    | with_reducible apply Mod.entryLost_keeps hS.up
    | with_reducible apply Mod.setFilt_keeps hS.up
    | with_reducible apply Mod.onLine_keeps hS.up
    | with_reducible apply Mod.uncorrected_keeps hS.up
    | with_reducible apply Mod.fatalHub_keeps hS.up
    | with_reducible apply Mod.raise_keeps hS.up
    | with_reducible apply Mod.hubCtr_keeps hS.up
    | with_reducible apply Mod.dieCtr_keeps hS.up
    | with_reducible apply hS.ite
    | split

end Sys2Proof.Machine
end

