-- ==== Sys2Proof/Laws/KeepsCounting.lean ====
section
/-! SUPPORT. What each operation of Counting.lean can do: it keeps every property stable under the updates of its mask. -/
namespace Sys2Proof.Machine
set_option Elab.async false

theorem execFilteredCounterOverflow_keeps {P : Mod → Prop} (hS : Stable 0x6020001c P) (k : Fin 64) (o : Sampled) (st : State) (hm : P st.mod) : Keeps P st (execFilteredCounterOverflow k o st) := by
  unfold execFilteredCounterOverflow
  refine lift_keeps (fun m hm => ?_) st hm
  try dsimp only
  repeat' first
    | with_reducible assumption
    | with_reducible apply Mod.sampleOut_keeps hS.up
    | with_reducible apply hS.onCn
    | with_reducible apply hS.ite

theorem execBandwidthWindowEnd_keeps {P : Mod → Prop} (hS : Stable 0x11 P) (st : State) (hm : P st.mod) : Keeps P st (execBandwidthWindowEnd st) := by
  unfold execBandwidthWindowEnd
  refine lift_keeps (fun m hm => ?_) st hm
  try dsimp only
  repeat' first | with_reducible assumption | with_reducible apply Mod.advanceMeridian_keeps hS.up | with_reducible apply Mod.latchWindow_keeps hS.up

theorem execLeakTick_keeps {P : Mod → Prop} (hS : Stable 0x11 P) (st : State) (hm : P st.mod) : Keeps P st (execLeakTick st) := by
  unfold execLeakTick
  refine lift_keeps (fun m hm => ?_) st hm
  try dsimp only
  repeat' first | with_reducible assumption | with_reducible apply Mod.advanceTo_keeps hS.up | with_reducible apply hS.onCn

theorem execScrubRead_keeps {P : Mod → Prop} (hS : Stable 0x5ff9a5efc P) (c : Fin 24) (f : ScrubFind) (st : State) (hm : P st.mod) : Keeps P st (execScrubRead c f st) := by
  unfold execScrubRead
  refine lift_keeps (fun m hm => ?_) st hm
  try dsimp only
  repeat' first
    | with_reducible assumption
    | with_reducible apply Mod.scrubRead_keeps hS.up
    | with_reducible apply Mod.settle_keeps hS.up
    | with_reducible apply hS.ite

theorem execWalkerPassStep_keeps {P : Mod → Prop} (hS : Stable 0x5ff92567c P) (w : Walked) (f : WalkFind) (st : State) (hm : P st.mod) : Keeps P st (execWalkerPassStep w f st) := by
  unfold execWalkerPassStep
  refine lift_keeps (fun m hm => ?_) st hm
  try dsimp only
  repeat' first
    | with_reducible assumption
    | with_reducible apply Mod.walkLost_keeps hS.up
    | with_reducible apply Mod.walkCorrected_keeps hS.up
    | with_reducible apply Mod.settle_keeps hS.up
    | with_reducible apply Mod.corrected_keeps hS.up
    | with_reducible apply hS.onCn
    | split

theorem execGddr6Refresh_keeps {P : Mod → Prop} (hS : Stable 0x10 P) (c : Fin 24) (st : State) (hm : P st.mod) : Keeps P st (execGddr6Refresh c st) := by
  unfold execGddr6Refresh
  refine lift_keeps (fun m hm => ?_) st hm
  try dsimp only
  repeat' first | with_reducible assumption | with_reducible apply Mod.chCtr_keeps hS.up | with_reducible apply hS.ite

theorem execGddr6CaseTemp_keeps {P : Mod → Prop} (hS : Stable 0x10 P) (c : Fin 24) (temp : Int) (st : State) (hm : P st.mod) : Keeps P st (execGddr6CaseTemp c temp st) := by
  unfold execGddr6CaseTemp
  refine lift_keeps (fun m hm => ?_) st hm
  try dsimp only
  repeat' first | with_reducible assumption | with_reducible apply hS.onCn | with_reducible apply hS.ite

theorem execMsiCoalesceEnd_keeps {P : Mod → Prop} (hS : Stable 0x6000000d P) (st : State) (hm : P st.mod) : Keeps P st (execMsiCoalesceEnd st) := by
  unfold execMsiCoalesceEnd
  refine lift_keeps (fun m hm => ?_) st hm
  try dsimp only
  repeat' first
    | with_reducible assumption
    | with_reducible apply Mod.msiRelease_keeps hS.up
    | with_reducible apply Mod.onFn__keeps hS.up
    | with_reducible apply Mod.advanceTo_keeps hS.up
    | with_reducible apply hS.onEv
    | with_reducible apply hS.ite
    | split

end Sys2Proof.Machine
end

