-- ==== Sys2Proof/Laws/KeepsSched.lean ====
section
/-! SUPPORT. What each operation of Sched.lean can do: it keeps every property stable under the updates of its mask. -/
namespace Sys2Proof.Machine
set_option Elab.async false

theorem Mod.coreErr_keeps {P : Mod → Prop} (hS : Stable 0x5ff9a5efe P) {m : Mod} (hm : P m) (d : Nat) (err : CoreErr) : P (Mod.coreErr m d err) := by
  unfold Mod.coreErr
  try dsimp only
  repeat' first
    | with_reducible assumption
    | with_reducible apply Mod.answerError_keeps hS.up
    | with_reducible apply Mod.corrected_keeps hS.up
    | with_reducible apply Mod.dieObj_keeps hS.up
    | with_reducible apply Mod.discardHeld_keeps hS.up
    | with_reducible refine PairP.fst (Mod.discardHeld_keeps hS.up (hm := ?_) ..)
    | with_reducible apply Mod.dropPkt_keeps hS.up
    | with_reducible apply Mod.errorAnswer_keeps hS.up
    | with_reducible apply Mod.fatalDie_keeps hS.up
    | with_reducible apply Mod.fenceUnit_keeps hS.up
    | with_reducible apply Mod.lateError_keeps hS.up
    | with_reducible apply Mod.poisonHeld_keeps hS.up
    | with_reducible apply Mod.raise_keeps hS.up
    | with_reducible apply Mod.releaseOrphan_keeps hS.up
    | with_reducible apply Mod.residue_keeps hS.up
    | with_reducible apply Mod.setTokens_keeps hS.up
    | with_reducible apply Mod.uncorrected_keeps hS.up
    | with_reducible apply hS.drawn
    | split
    | refine PairP.get ?_ (by assumption)

theorem Mod.deliver_keeps {P : Mod → Prop} (hS : Stable 0x21000000 P) {m : Mod} (hm : P m) (h : Held) : P (Mod.deliver m h) := by
  unfold Mod.deliver
  try dsimp only
  repeat' first
    | with_reducible assumption
    | with_reducible apply Mod.bump_keeps hS.up
    | with_reducible refine hS.onSwN ?_ (fun _ => by with_reducible_and_instances rfl)
    | with_reducible apply hS.ite
    | intro _ _ hm
    | intro _ hm
    | intro _ _

theorem execPacketAdmit_keeps {P : Mod → Prop} (hS : Stable 0x5ff9a5efe P) (i : Nat) (err : CoreErr) (st : State) (hm : P st.mod) : Keeps P st (execPacketAdmit i err st) := by
  unfold execPacketAdmit
  refine lift_keeps (fun m hm => ?_) st hm
  try dsimp only
  repeat' first
    | with_reducible assumption
    | with_reducible apply Mod.admitMulti_keeps hS.up
    | with_reducible apply Mod.coreErr_keeps hS.up
    | with_reducible apply Mod.deliver_keeps hS.up
    | with_reducible apply Mod.dropPkt_keeps hS.up
    | with_reducible apply Mod.enqueueAt_keeps hS.up
    | with_reducible apply Mod.lookedUp_keeps hS.up
    | with_reducible apply Mod.pruneKept_keeps hS.up
    | with_reducible apply Mod.raise_keeps hS.up
    | with_reducible apply Mod.routed_keeps hS.up
    | with_reducible apply Mod.settle_keeps hS.up
    | with_reducible apply Mod.takeOut_keeps hS.up
    | with_reducible apply hS.ite
    | split
    | intro _ _ hm
    | intro _ hm
    | intro _ _

theorem execUnderrunTimeout_keeps {P : Mod → Prop} (hS : Stable 0x63000c9d P) (p : PortIx) (st : State) (hm : P st.mod) : Keeps P st (execUnderrunTimeout p st) := by
  unfold execUnderrunTimeout
  refine lift_keeps (fun m hm => ?_) st hm
  try dsimp only
  repeat' first
    | with_reducible assumption
    | with_reducible apply Mod.lateError_keeps hS.up
    | with_reducible apply hS.advance
    | with_reducible apply OptP.map
    | split

theorem Mod.ageOut_keeps {P : Mod → Prop} (hS : Stable 0x6100089c P) {m : Mod} (hm : P m) (p : Nat) (c : Nat) (e : QEnt) : P (Mod.ageOut m p c e) := by
  unfold Mod.ageOut
  try dsimp only
  repeat' first
    | with_reducible assumption
    | with_reducible apply Mod.bump_keeps hS.up
    | with_reducible apply Mod.errorAnswer_keeps hS.up
    | with_reducible apply Mod.portCtr_keeps hS.up
    | with_reducible apply Mod.portObj_keeps hS.up
    | with_reducible apply Mod.raiseOnce_keeps hS.up
    | with_reducible apply Mod.unqueue_keeps hS.up
    | with_reducible apply hS.ite

theorem Mod.ageNew_keeps {P : Mod → Prop} (hS : Stable 0x6100089c P) {m : Mod} (hm : P m) (p : Nat) (old : List (Nat × Nat)) (n : Nat) : P (Mod.ageNew m p old n) := by
  induction n generalizing m with
  | zero => exact hm
  | succ n ih =>
    unfold Mod.ageNew
    split
    · exact ih (Mod.ageOut_keeps hS.up hm _ _ _)
    · exact hm

theorem Mod.withAges_keeps {P : Mod → Prop} (hS : Stable 0x6100089c P) {m : Mod} (hm : P m) {f : Mod → Mod} (hf : ∀ x, P x → P (f x)) (p : Nat) :
    P (Mod.withAges m p f) := Mod.ageNew_keeps hS.up (hf m hm) p _ _

theorem execAgeCheck_keeps {P : Mod → Prop} (hS : Stable 0x7f90089d P) (p : PortIx) (c : Tc) (t : Tenant) (b : Bool) (st : State) (hm : P st.mod) : Keeps P st (execAgeCheck p c t b st) := by
  unfold execAgeCheck
  refine lift_keeps (fun m hm => ?_) st hm
  try dsimp only
  repeat' first
    | with_reducible assumption
    | with_reducible apply Mod.ageOut_keeps hS.up
    | with_reducible apply Mod.settle_keeps hS.up
    | with_reducible apply Mod.withAges_keeps hS.up
    | with_reducible apply hS.advance
    | with_reducible apply hS.ite
    | split
    | intro _ _ hm
    | intro _ hm
    | intro _ _

theorem execDequeueDecision_keeps {P : Mod → Prop} (hS : Stable 0x5ff9a5efe P) (e : Egress) (credits : Nat) (err : CoreErr) (st : State) (hm : P st.mod) : Keeps P st (execDequeueDecision e credits err st) := by
  unfold execDequeueDecision
  refine lift_keeps (fun m hm => ?_) st hm
  try dsimp only
  repeat' first
    | with_reducible assumption
    | with_reducible apply Mod.coreErr_keeps hS.up
    | with_reducible apply Mod.dequeueBridge_keeps hS.up
    | with_reducible apply Mod.dequeuePort_keeps hS.up
    | with_reducible apply Mod.settle_keeps hS.up
    | with_reducible apply Mod.withAges_keeps hS.up
    | with_reducible apply hS.ite
    | split
    | intro _ _ hm
    | intro _ hm
    | intro _ _

theorem execTrackerResponse_keeps {P : Mod → Prop} (hS : Stable 0xff90001c P) (tid : Nat) (code : Nat) (poison : Bool) (words : List Nat) (st : State) (hm : P st.mod) : Keeps P st (execTrackerResponse tid code poison words st) := by
  unfold execTrackerResponse
  refine lift_keeps (fun m hm => ?_) st hm
  try dsimp only
  repeat' first | with_reducible assumption | with_reducible apply Mod.settle_keeps hS.up | with_reducible apply Mod.trkAnswer_keeps hS.up

theorem execCompletionTimeout_keeps {P : Mod → Prop} (hS : Stable 0xff90001d P) (k : Fin 131072) (st : State) (hm : P st.mod) : Keeps P st (execCompletionTimeout k st) := by
  unfold execCompletionTimeout
  refine lift_keeps (fun m hm => ?_) st hm
  try dsimp only
  repeat' first
    | with_reducible assumption
    | with_reducible apply Mod.settle_keeps hS.up
    | with_reducible apply Mod.trkExpire_keeps hS.up
    | with_reducible apply Mod.advanceTo_keeps hS.up
    | with_reducible apply hS.ite
    | split

theorem execOrphanHoldTimeout_keeps {P : Mod → Prop} (hS : Stable 0x4100000d P) (k : Fin 131072) (st : State) (hm : P st.mod) : Keeps P st (execOrphanHoldTimeout k st) := by
  unfold execOrphanHoldTimeout
  refine lift_keeps (fun m hm => ?_) st hm
  try dsimp only
  repeat' first
    | with_reducible assumption
    | with_reducible apply Mod.releaseOrphan_keeps hS.up
    | with_reducible apply Mod.raise_keeps hS.up
    | with_reducible apply Mod.advanceTo_keeps hS.up
    | with_reducible apply hS.ite

theorem execBridgeCrcFail_keeps {P : Mod → Prop} (hS : Stable 0x5ff985efc P) (d : Die) (c : Tc) (words : Bool) (last : Bool) (st : State) (hm : P st.mod) : Keeps P st (execBridgeCrcFail d c words last st) := by
  unfold execBridgeCrcFail
  refine lift_keeps (fun m hm => ?_) st hm
  try dsimp only
  repeat' first
    | with_reducible assumption
    | with_reducible apply Mod.settle_keeps hS.up
    | with_reducible apply Mod.poisonHeld_keeps hS.up
    | with_reducible apply Mod.fatalDie_keeps hS.up
    | with_reducible apply Mod.raise_keeps hS.up
    | with_reducible apply Mod.dieCtr_keeps hS.up
    | with_reducible apply hS.onSw
    | with_reducible apply hS.ite
    | split

theorem execGateEntryChange_keeps {P : Mod → Prop} (hS : Stable 0x1 P) (p : PortIx) (st : State) (hm : P st.mod) : Keeps P st (execGateEntryChange p st) := by
  unfold execGateEntryChange
  refine lift_keeps (fun m hm => ?_) st hm
  try dsimp only
  repeat' first | with_reducible assumption | with_reducible apply hS.advance | with_reducible apply OptP.getD | split

theorem Mod.gateTakeover_keeps {P : Mod → Prop} (hS : Stable 0x6008000c P) {m : Mod} (hm : P m) (p : Nat) (T : Nat) (step : Bool) :
    P (Mod.gateTakeover m p T step) := by
  unfold Mod.gateTakeover
  try dsimp only
  repeat' first
    | with_reducible assumption
    | with_reducible apply Mod.onSched_keeps hS.up
    | with_reducible apply Mod.raise_keeps hS.up
    | with_reducible apply Mod.setObj_keeps hS.up
    | with_reducible apply hS.ite

theorem execHighWaterRead_keeps {P : Mod → Prop} (hS : Stable 0x20000004 P) (p : PortIx) (tq : Bool) (q : Fin 256) (b : Bool) (st : State) (hm : P st.mod) : Keeps P st (execHighWaterRead p tq q b st) := by
  unfold execHighWaterRead
  refine lift_keeps (fun m hm => ?_) st hm
  try dsimp only
  repeat' first
    | with_reducible assumption
    | with_reducible apply Mod.highWater_keeps hS.up
    | with_reducible apply Mod.setObj_keeps hS.up
    | with_reducible apply hS.emit

theorem execSamplerVisit_keeps {P : Mod → Prop} (hS : Stable 0x6028000d P) (d : Die) (st : State) (hm : P st.mod) : Keeps P st (execSamplerVisit d st) := by
  unfold execSamplerVisit
  refine lift_keeps (fun m0 h0 => ?_) st hm
  extract_lets obj t l restart m1 m pos start next size prod
  refine hS.ite h0 ?_
  have h1 : P m1 := hS.advance h0 _
  have hm : P m := hS.ite (Mod.advanceTo_keeps hS.up h1 _) h1
  have hn : ∀ b (lost : Bool), P b → P (next b lost) := fun b lost hb => hS.onSc hb
  clear_value m start next
  split
  · exact hm
  · split
    extract_lets empty bytes m2
    refine hS.ite (hn _ _ hm) ?_
    refine hS.ite (hn _ _ (Mod.raiseOnce_keeps hS.up (Mod.bump_keeps hS.up hm _ _) _ _)) ?_
    have h2 : P m2 := hS.onSv hm fun b => MemKept.put rfl rfl
    clear_value m2
    exact hn _ _ (Mod.setObj_keeps hS.up h2 _ _)

end Sys2Proof.Machine
end

