-- ==== Sys2Proof/Laws/KeepsMailOps.lean ====
section
/-! SUPPORT. What each operation of MailOps.lean can do: it keeps every property stable under the updates of its mask. -/
namespace Sys2Proof.Machine
set_option Elab.async false

theorem Mod.signalBox_keeps {P : Mod → Prop} (hS : Stable 0x6000000c P) {m : Mod} (hm : P m) (k : Nat) :
    P (Mod.signalBox m k) := by
  unfold Mod.signalBox
  try dsimp only
  repeat' first | with_reducible assumption | with_reducible apply Mod.msi_keeps hS.up | with_reducible apply hS.ite

theorem Mod.changeBox_keeps {P : Mod → Prop} (hS : Stable 0xe000000c P) {m : Mod} (hm : P m) (k : Nat) (f : Mailbox → Mailbox) :
    P (Mod.changeBox m k f) := by
  unfold Mod.changeBox
  try dsimp only
  repeat' first
    | with_reducible assumption
    | with_reducible apply Mod.signalBox_keeps hS.up
    | with_reducible apply Mod.onBox_keeps hS.up
    | with_reducible apply hS.ite

theorem Mod.ring_keeps {P : Mod → Prop} (hS : Stable 0xe000000c P) {m : Mod} (hm : P m) (k : Nat) (bits : Nat) :
    P (Mod.ring m k bits) := by
  unfold Mod.ring
  try dsimp only
  repeat' first | with_reducible assumption | with_reducible apply Mod.changeBox_keeps hS.up

theorem Mod.ownInPop_keeps {P : Mod → Prop} (hS : Stable 0x80000000 P) {m : Mod} (hm : P m) (k : Nat) :
    PairP P (Mod.ownInPop m k) := by
  unfold Mod.ownInPop
  try dsimp only
  repeat' first | with_reducible assumption | with_reducible apply Mod.onBox_keeps hS.up | with_reducible apply PairP.mk | split

theorem Mod.ownOutPush_keeps {P : Mod → Prop} (hS : Stable 0x80000000 P) {m : Mod} (hm : P m) (k : Nat) (w : Nat) :
    P (Mod.ownOutPush m k w) := by
  unfold Mod.ownOutPush
  try dsimp only
  repeat' first | with_reducible assumption | with_reducible apply Mod.onBox_keeps hS.up

theorem Mod.ownStatusWrite_keeps {P : Mod → Prop} (hS : Stable 0xe000000c P) {m : Mod} (hm : P m) (k : Nat) (v : Nat) :
    P (Mod.ownStatusWrite m k v) := by
  unfold Mod.ownStatusWrite
  try dsimp only
  repeat' first
    | with_reducible assumption
    | with_reducible apply Mod.ring_keeps hS.up
    | with_reducible apply Mod.onBox_keeps hS.up
    | with_reducible apply hS.ite

theorem Mod.ownDbClear_keeps {P : Mod → Prop} (hS : Stable 0x80000000 P) {m : Mod} (hm : P m) (k : Nat) (v : Nat) :
    P (Mod.ownDbClear m k v) := by
  unfold Mod.ownDbClear
  try dsimp only
  repeat' first | with_reducible assumption | with_reducible apply Mod.onBox_keeps hS.up

theorem Mod.ownMaskWrite_keeps {P : Mod → Prop} (hS : Stable 0xe000000c P) {m : Mod} (hm : P m) (k : Nat) (v : Nat) :
    P (Mod.ownMaskWrite m k v) := by
  unfold Mod.ownMaskWrite
  try dsimp only
  repeat' first | with_reducible assumption | with_reducible apply Mod.changeBox_keeps hS.up

theorem Mod.callLockRead_keeps {P : Mod → Prop} (hS : Stable 0x80000000 P) {m : Mod} (hm : P m) (c : Nat) :
    PairP P (Mod.callLockRead m c) := by
  unfold Mod.callLockRead
  try dsimp only
  repeat' first
    | with_reducible assumption
    | with_reducible apply Mod.onBox_keeps hS.up
    | with_reducible apply PairP.ite
    | with_reducible apply hS.ite
    | with_reducible apply PairP.mk

theorem Mod.callLockWrite_keeps {P : Mod → Prop} (hS : Stable 0x80000000 P) {m : Mod} (hm : P m) (c : Nat) (v : Nat) :
    P (Mod.callLockWrite m c v) := by
  unfold Mod.callLockWrite
  try dsimp only
  repeat' first | with_reducible assumption | with_reducible apply Mod.releaseLock_keeps hS.up | with_reducible apply hS.ite

theorem Mod.callInPush_keeps {P : Mod → Prop} (hS : Stable 0x80000000 P) {m : Mod} (hm : P m) (c : Nat) (w : Nat) :
    P (Mod.callInPush m c w) := by
  unfold Mod.callInPush
  try dsimp only
  repeat' first
    | with_reducible assumption
    | with_reducible apply Mod.onCall_keeps hS.up
    | with_reducible apply Mod.onBox_keeps hS.up
    | with_reducible apply hS.ite

theorem Mod.callOutPop_keeps {P : Mod → Prop} (hS : Stable 0x80000000 P) {m : Mod} (hm : P m) (c : Nat) :
    PairP P (Mod.callOutPop m c) := by
  unfold Mod.callOutPop
  try dsimp only
  repeat' first
    | with_reducible assumption
    | with_reducible apply Mod.onCall_keeps hS.up
    | with_reducible apply Mod.onBox_keeps hS.up
    | with_reducible apply PairP.ite
    | with_reducible apply hS.ite
    | with_reducible apply PairP.mk
    | split

theorem Mod.callDbWrite_keeps {P : Mod → Prop} (hS : Stable 0xe000000c P) {m : Mod} (hm : P m) (c : Nat) (v : Nat) :
    P (Mod.callDbWrite m c v) := by
  unfold Mod.callDbWrite
  try dsimp only
  repeat' first | with_reducible assumption | with_reducible apply Mod.ring_keeps hS.up | with_reducible apply hS.ite

theorem Mod.callStatusRead_keeps {P : Mod → Prop} (hS : Stable 0x80000000 P) {m : Mod} (hm : P m) (c : Nat) :
    PairP P (Mod.callStatusRead m c) := by
  unfold Mod.callStatusRead
  try dsimp only
  repeat' first | with_reducible assumption | with_reducible apply Mod.onCall_keeps hS.up | with_reducible apply PairP.mk

theorem Mod.regRead_keeps {P : Mod → Prop} (hS : Stable 0x4 P) {m : Mod} (hm : P m) (c : Nat) {x : Mod × Nat} (hx : PairP P x) : P (Mod.regRead m c x) := by
  unfold Mod.regRead
  exact hS.ite (hS.emit hx.fst _) (hS.ite (hS.emit hm _) hm)

end Sys2Proof.Machine
end

