-- ==== Sys2Proof/Laws/KeepsMoverOps.lean ====
section
/-! SUPPORT. What each operation of MoverOps.lean can do: it keeps every property stable under the updates of its mask. -/
namespace Sys2Proof.Machine
set_option Elab.async false

theorem Mod.onDesc_keeps {P : Mod → Prop} (hS : Stable 0x80000000 P) {m : Mod} (hm : P m) (q : Nat) (num : Nat) (f : Desc → Desc) :
    P (Mod.onDesc m q num f) := by
  unfold Mod.onDesc
  try dsimp only
  repeat' first | with_reducible assumption | with_reducible apply Mod.onQp_keeps hS.up

theorem Mod.absorbed_keeps {P : Mod → Prop} (hS : Stable 0x88000000 P) {m : Mod} (hm : P m) (q : Nat) :
    P (Mod.absorbed m q) := by
  unfold Mod.absorbed
  try dsimp only
  repeat' first
    | with_reducible assumption
    | with_reducible apply Mod.onQp_keeps hS.up
    | with_reducible refine hS.onCaN ?_ (fun _ => by with_reducible_and_instances rfl)

theorem Mod.checked_keeps {P : Mod → Prop} (hS : Stable 0x6000000c P) {m : Mod} (hm : P m) (q : Nat) (d : Desc) :
    PairP P (Mod.checked m q d) := by
  unfold Mod.checked
  try dsimp only
  repeat' first
    | with_reducible assumption
    | with_reducible apply Mod.deny_keeps hS.up
    | with_reducible apply Mod.raiseOnce_keeps hS.up
    | with_reducible apply Mod.bump_keeps hS.up
    | with_reducible apply PairP.ite
    | with_reducible apply hS.ite
    | with_reducible apply PairP.mk

theorem Mod.moverMem_keeps {P : Mod → Prop} (hS : Stable 0xfd10001c P) {m : Mod} (hm : P m) (r : IoReq) (home : Nat) (desc : Nat) :
    P (Mod.moverMem m r home desc) := by
  unfold Mod.moverMem
  try dsimp only
  repeat' first
    | with_reducible assumption
    | with_reducible apply Mod.cacheAccess_keeps hS.up
    | with_reducible apply Mod.accept_keeps hS.up
    | with_reducible apply Mod.hold_keeps hS.up
    | with_reducible apply hS.ite

theorem Mod.moverAccess_keeps {P : Mod → Prop} (hS : Stable 0xfd10001c P) {m : Mod} (hm : P m) (q : Nat) (id : Nat) (space : Nat) (io : Io) (addr : Nat) (len : Nat) (data : Nat) (poison : Bool) (alu : Option (Nat × Nat × Nat)) :
    P (Mod.moverAccess m q id space io addr len data poison alu) := by
  unfold Mod.moverAccess
  try dsimp only
  repeat' first
    | with_reducible assumption
    | with_reducible apply Mod.moverMem_keeps hS.up
    | with_reducible apply Mod.accept_keeps hS.up
    | with_reducible apply Mod.moverResult_keeps hS.up
    | with_reducible apply hS.ite
    | with_reducible apply OptP.getD
    | with_reducible apply PairP.mk
    | split

theorem Mod.moverRead_keeps {P : Mod → Prop} (hS : Stable 0xfd10001c P) {m : Mod} (hm : P m) (q : Nat) (num : Nat) (space : Nat) (a : Nat) (n : Nat) :
    P (Mod.moverRead m q num space a n) := by
  unfold Mod.moverRead
  try dsimp only
  repeat' first
    | with_reducible assumption
    | with_reducible apply Mod.moverAccess_keeps hS.up
    | with_reducible apply Mod.onDesc_keeps hS.up
    | with_reducible apply Mod.newAccess_keeps hS.up
    | with_reducible refine PairP.fst (Mod.newAccess_keeps hS.up (hm := ?_) ..)

theorem Mod.moverWrite_keeps {P : Mod → Prop} (hS : Stable 0xfd10001c P) (q num space : Nat) (poison : Bool) : ∀ (n : Nat) {m : Mod} (hm : P m) (x : Nat) (bytes : List Nat),
    P (Mod.moverWrite m q num space poison n x bytes)
  | 0, _, hm, _, _ => by
    unfold Mod.moverWrite
    exact hm
  | n + 1, m, hm, x, bytes => by
    unfold Mod.moverWrite
    split
    · exact hm
    · exact Mod.moverWrite_keeps hS.up q num space poison n (Mod.moverAccess_keeps hS.up (Mod.onDesc_keeps hS.up (PairP.fst (Mod.newAccess_keeps hS.up hm)) _ _ _) _ _ _ _ _ _ _ _ _) _ _

theorem Mod.readMore_keeps {P : Mod → Prop} (hS : Stable 0xfd10001c P) {m : Mod} (hm : P m) (q : Nat) (d : Desc) (goal : Nat) :
    P (Mod.readMore m q d goal) := by
  unfold Mod.readMore
  try dsimp only
  repeat' first | with_reducible assumption | with_reducible apply Mod.moverRead_keeps hS.up

theorem Mod.writeChunk_keeps {P : Mod → Prop} (hS : Stable 0xfd10001c P) {m : Mod} (hm : P m) (q : Nat) (d : Desc) (bytes : List Nat) :
    P (Mod.writeChunk m q d bytes) := by
  unfold Mod.writeChunk
  try dsimp only
  repeat' first | with_reducible assumption | with_reducible apply Mod.moverWrite_keeps hS.up | with_reducible apply Mod.onDesc_keeps hS.up

theorem Mod.copyMove_keeps {P : Mod → Prop} (hS : Stable 0xfd10001c P) {m : Mod} (hm : P m) (q : Nat) (d : Desc) :
    OptP P (Mod.copyMove m q d) := by
  unfold Mod.copyMove
  try dsimp only
  repeat' first
    | with_reducible assumption
    | with_reducible apply Mod.writeChunk_keeps hS.up
    | with_reducible apply Mod.readMore_keeps hS.up
    | with_reducible apply OptP.ite
    | with_reducible apply hS.ite
    | with_reducible apply OptP.some
    | with_reducible exact OptP.none

theorem Mod.fillMove_keeps {P : Mod → Prop} (hS : Stable 0xfd10001c P) {m : Mod} (hm : P m) (q : Nat) (d : Desc) (pattern : Nat) :
    OptP P (Mod.fillMove m q d pattern) := by
  unfold Mod.fillMove
  try dsimp only
  repeat' first
    | with_reducible assumption
    | with_reducible apply Mod.writeChunk_keeps hS.up
    | with_reducible apply OptP.ite
    | with_reducible apply hS.ite
    | with_reducible apply OptP.some
    | with_reducible apply OptP.map
    | with_reducible exact OptP.none

theorem Mod.compareMove_keeps {P : Mod → Prop} (hS : Stable 0xfd10001c P) {m : Mod} (hm : P m) (q : Nat) (d : Desc) :
    OptP P (Mod.compareMove m q d) := by
  unfold Mod.compareMove
  try dsimp only
  repeat' first
    | with_reducible assumption
    | with_reducible apply Mod.readMore_keeps hS.up
    | with_reducible apply Mod.moverRead_keeps hS.up
    | with_reducible apply Mod.onDesc_keeps hS.up
    | with_reducible apply OptP.ite
    | with_reducible apply hS.ite
    | with_reducible apply OptP.some

theorem Mod.crcMove_keeps {P : Mod → Prop} (hS : Stable 0xfd10001c P) {m : Mod} (hm : P m) (q : Nat) (d : Desc) :
    OptP P (Mod.crcMove m q d) := by
  unfold Mod.crcMove
  try dsimp only
  repeat' first
    | with_reducible assumption
    | with_reducible apply Mod.readMore_keeps hS.up
    | with_reducible apply Mod.onDesc_keeps hS.up
    | with_reducible apply OptP.ite
    | with_reducible apply hS.ite
    | with_reducible apply OptP.some

theorem Mod.shakeMove_keeps {P : Mod → Prop} (hS : Stable 0xfd10001c P) {m : Mod} (hm : P m) (q : Nat) (d : Desc) :
    OptP P (Mod.shakeMove m q d) := by
  unfold Mod.shakeMove
  try dsimp only
  repeat' first
    | with_reducible assumption
    | with_reducible apply Mod.readMore_keeps hS.up
    | with_reducible apply Mod.moverWrite_keeps hS.up
    | with_reducible apply Mod.onDesc_keeps hS.up
    | with_reducible apply OptP.ite
    | with_reducible apply hS.ite
    | with_reducible apply OptP.some

theorem Mod.atomicMove_keeps {P : Mod → Prop} (hS : Stable 0xfd10001c P) {m : Mod} (hm : P m) (q : Nat) (d : Desc) :
    OptP P (Mod.atomicMove m q d) := by
  unfold Mod.atomicMove
  try dsimp only
  repeat' first
    | with_reducible assumption
    | with_reducible apply Mod.moverAccess_keeps hS.up
    | with_reducible apply Mod.onDesc_keeps hS.up
    | with_reducible apply Mod.newAccess_keeps hS.up
    | with_reducible refine PairP.fst (Mod.newAccess_keeps hS.up (hm := ?_) ..)
    | with_reducible apply OptP.ite
    | with_reducible apply hS.ite
    | with_reducible apply OptP.some
    | with_reducible apply PairP.mk
    | with_reducible exact OptP.none

theorem Mod.migRequest_keeps {P : Mod → Prop} (hS : Stable 0x20000000 P) {m : Mod} (hm : P m) (i : Nat) (dest : Nat) (evac : Bool) :
    OptP P (Mod.migRequest m i dest evac) := by
  unfold Mod.migRequest
  try dsimp only
  repeat' first
    | with_reducible assumption
    | with_reducible apply Mod.setDesc_keeps hS.up
    | with_reducible apply OptP.ite
    | with_reducible apply hS.ite
    | with_reducible apply OptP.some
    | with_reducible exact OptP.none

theorem Mod.migrateMove_keeps {P : Mod → Prop} (hS : Stable 0xe000000c P) {m : Mod} (hm : P m) (q : Nat) (d : Desc) :
    OptP P (Mod.migrateMove m q d) := by
  unfold Mod.migrateMove
  try dsimp only
  repeat' first
    | with_reducible assumption
    | with_reducible apply Mod.migRequest_keeps hS.up
    | with_reducible apply Mod.onDesc_keeps hS.up
    | with_reducible apply Mod.deny_keeps hS.up
    | with_reducible apply OptP.ite
    | with_reducible apply hS.ite
    | with_reducible apply OptP.some
    | with_reducible apply PairP.mk
    | with_reducible exact OptP.none
    | refine OptP.get ?_ (by assumption)
    | split

theorem Mod.fenceMove_keeps {P : Mod → Prop} (hS : Stable 0xfd90001c P) {m : Mod} (hm : P m) (q : Nat) (d : Desc) :
    OptP P (Mod.fenceMove m q d) := by
  unfold Mod.fenceMove
  try dsimp only
  repeat' first
    | with_reducible assumption
    | with_reducible apply Mod.onDesc_keeps hS.up
    | with_reducible apply Mod.barAccept_keeps hS.up
    | with_reducible apply OptP.ite
    | with_reducible apply hS.ite
    | with_reducible apply OptP.some
    | with_reducible exact OptP.none

theorem Mod.notifyMove_keeps {P : Mod → Prop} (hS : Stable 0xe000000c P) {m : Mod} (hm : P m) (q : Nat) (d : Desc) :
    OptP P (Mod.notifyMove m q d) := by
  unfold Mod.notifyMove
  try dsimp only
  repeat' first
    | with_reducible assumption
    | with_reducible apply Mod.onDesc_keeps hS.up
    | with_reducible apply Mod.ring_keeps hS.up
    | with_reducible apply OptP.ite
    | with_reducible apply hS.ite
    | with_reducible apply OptP.some

theorem Mod.opMove_keeps {P : Mod → Prop} (hS : Stable 0xfd90001c P) {m : Mod} (hm : P m) (q : Nat) (d : Desc) :
    OptP P (Mod.opMove m q d) := by
  unfold Mod.opMove
  try dsimp only
  repeat' first
    | with_reducible assumption
    | with_reducible apply Mod.notifyMove_keeps hS.up
    | with_reducible apply Mod.fenceMove_keeps hS.up
    | with_reducible apply Mod.migrateMove_keeps hS.up
    | with_reducible apply Mod.atomicMove_keeps hS.up
    | with_reducible apply Mod.shakeMove_keeps hS.up
    | with_reducible apply Mod.crcMove_keeps hS.up
    | with_reducible apply Mod.compareMove_keeps hS.up
    | with_reducible apply Mod.fillMove_keeps hS.up
    | with_reducible apply Mod.copyMove_keeps hS.up
    | with_reducible apply OptP.some
    | with_reducible exact OptP.none
    | refine OptP.get ?_ (by assumption)
    | split

theorem Mod.takeResult_keeps {P : Mod → Prop} (hS : Stable 0x88000000 P) {m : Mod} (hm : P m) (q : Nat) (d : Desc) (w : Want) :
    OptP P (Mod.takeResult m q d w) := by
  unfold Mod.takeResult
  try dsimp only
  repeat' first
    | with_reducible assumption
    | with_reducible apply Mod.onDesc_keeps hS.up
    | with_reducible refine hS.onCaN ?_ (fun _ => by with_reducible_and_instances rfl)
    | with_reducible apply OptP.ite
    | with_reducible apply hS.ite
    | with_reducible apply OptP.some
    | with_reducible apply PairP.mk
    | with_reducible exact OptP.none
    | split

theorem Mod.runDesc_keeps {P : Mod → Prop} (hS : Stable 0xff90001c P) (q num op : Nat) : ∀ (n : Nat) {m : Mod} (hm : P m), P (Mod.runDesc q num op n m)
  | 0, _, hm => by
    unfold Mod.runDesc
    exact hm
  | n + 1, m, hm => by
    unfold Mod.runDesc
    extract_lets m1
    have h1 : P m1 := Mod.absorbed_keeps hS.up hm _
    split
    · exact h1
    rename_i d _
    split
    · exact h1
    split
    · exact h1
    · rename_i m2 e
      refine Mod.runDesc_keeps hS.up q num op n (Mod.settle_keeps hS.up ?_)
      split at e
      · exact (Mod.takeResult_keeps hS.up h1 _ _ _).get e
      · exact (Mod.opMove_keeps hS.up h1 _ _).get e

theorem Mod.runOp_keeps {P : Mod → Prop} (hS : Stable 0xff90001c P) {m : Mod} (hm : P m) (q num op : Nat) (residue : Bool) : P (Mod.runOp m q num op residue) := by
  unfold Mod.runOp
  split
  · exact hm
  · refine hS.ite hm (hS.ite ?_ (Mod.runDesc_keeps hS.up _ _ _ _ hm))
    exact Mod.onDesc_keeps hS.up (Mod.residue_keeps hS.up hm _ _ _) _ _ _

theorem Mod.chargeSlot_keeps {P : Mod → Prop} (hS : Stable 0x80000000 P) {m : Mod} (hm : P m) (d : Nat) (n : Nat) (cost : Nat) (s : MoverSt) :
    P (Mod.chargeSlot m d n cost s) := by
  unfold Mod.chargeSlot
  try dsimp only
  repeat' first | with_reducible assumption | with_reducible refine hS.onSvM ?_ (fun _ => by constructor <;> with_reducible_and_instances rfl)

theorem Mod.qpError_keeps {P : Mod → Prop} (hS : Stable 0xe000000c P) {m : Mod} (hm : P m) (q : Nat) (status : Nat) :
    P (Mod.qpError m q status) := by
  unfold Mod.qpError
  try dsimp only
  repeat' first
    | with_reducible assumption
    | with_reducible apply Mod.onQp_keeps hS.up
    | with_reducible apply Mod.hostEvent_keeps hS.up
    | with_reducible apply Mod.raise_keeps hS.up

theorem Mod.startDesc_keeps {P : Mod → Prop} (hS : Stable 0xe000001c P) {m : Mod} (hm : P m) (q : Nat) (words : List Nat) :
    P (Mod.startDesc m q words) := by
  unfold Mod.startDesc
  try dsimp only
  repeat' first
    | with_reducible assumption
    | with_reducible apply Mod.qpError_keeps hS.up
    | with_reducible apply Mod.checked_keeps hS.up
    | with_reducible refine PairP.fst (Mod.checked_keeps hS.up (hm := ?_) ..)
    | with_reducible apply Mod.onQp_keeps hS.up
    | with_reducible apply Mod.dieCtr_keeps hS.up
    | with_reducible refine hS.onSvM ?_ (fun _ => by constructor <;> with_reducible_and_instances rfl)
    | with_reducible apply hS.when

theorem Mod.writeRecord_keeps {P : Mod → Prop} (hS : Stable 0xfd10001e P) {m : Mod} (hm : P m) (q : Nat) (d : Desc) :
    P (Mod.writeRecord m q d) := by
  unfold Mod.writeRecord
  try dsimp only
  repeat' first
    | with_reducible assumption
    | with_reducible apply Mod.moverAccess_keeps hS.up
    | with_reducible apply Mod.onQp_keeps hS.up
    | with_reducible apply Mod.newAccess_keeps hS.up
    | with_reducible refine PairP.fst (Mod.newAccess_keeps hS.up (hm := ?_) ..)
    | with_reducible refine hS.onSvM ?_ (fun _ => by constructor <;> with_reducible_and_instances rfl)
    | with_reducible apply hS.drawn

theorem Mod.countDesc_keeps {P : Mod → Prop} (hS : Stable 0x20000010 P) {m : Mod} (hm : P m) (q : Nat) (d : Desc) :
    P (Mod.countDesc m q d) := by
  unfold Mod.countDesc
  try dsimp only
  repeat' first
    | with_reducible assumption
    | with_reducible apply Mod.tally_keeps hS.up
    | with_reducible apply Mod.dieCtr_keeps hS.up
    | with_reducible apply Mod.bump_keeps hS.up
    | with_reducible apply hS.ite

theorem Mod.quiesceStart_keeps {P : Mod → Prop} (hS : Stable 0x80000000 P) {m : Mod} (hm : P m) (q : Nat) :
    P (Mod.quiesceStart m q) := by
  unfold Mod.quiesceStart
  try dsimp only
  repeat' first | with_reducible assumption | with_reducible apply Mod.onQp_keeps hS.up | with_reducible apply hS.ite

theorem Mod.quiesceAbandon_keeps {P : Mod → Prop} (hS : Stable 0x80000000 P) {m : Mod} (hm : P m) (q : Nat) :
    P (Mod.quiesceAbandon m q) := by
  unfold Mod.quiesceAbandon
  try dsimp only
  repeat' first | with_reducible assumption | with_reducible apply Mod.onQp_keeps hS.up | with_reducible apply hS.ite

theorem Mod.quiesceResume_keeps {P : Mod → Prop} (hS : Stable 0x80000000 P) {m : Mod} (hm : P m) (q : Nat) :
    P (Mod.quiesceResume m q) := by
  unfold Mod.quiesceResume
  try dsimp only
  repeat' first | with_reducible assumption | with_reducible apply Mod.onQp_keeps hS.up | with_reducible apply hS.ite

theorem Mod.qpMove_keeps {P : Mod → Prop} (hS : Stable 0xe000000c P) {m : Mod} (hm : P m) (q : Nat) (v : Nat) :
    P (Mod.qpMove m q v) := by
  unfold Mod.qpMove
  try dsimp only
  repeat' first
    | with_reducible assumption
    | with_reducible apply Mod.onQp_keeps hS.up
    | with_reducible apply Mod.raise_keeps hS.up
    | with_reducible apply Mod.setPers_keeps hS.up
    | with_reducible apply hS.ite

end Sys2Proof.Machine
end

