-- ==== Sys2Proof/Laws/KeepsDictOps.lean ====
section
/-! SUPPORT. What each operation of DictOps.lean can do: it keeps every property stable under the updates of its mask. -/
namespace Sys2Proof.Machine
set_option Elab.async false

theorem Mod.onGroup_keeps {P : Mod → Prop} (hS : Stable 0x4000 P) {m : Mod} (hm : P m) (num : Nat) (f : Group → Group) :
    P (Mod.onGroup m num f) := by
  unfold Mod.onGroup
  try dsimp only
  repeat' first | with_reducible assumption | with_reducible apply hS.onDi

theorem Mod.dropGroup_keeps {P : Mod → Prop} (hS : Stable 0x4000 P) {m : Mod} (hm : P m) (num : Nat) :
    P (Mod.dropGroup m num) := by
  unfold Mod.dropGroup
  try dsimp only
  repeat' first | with_reducible assumption | with_reducible apply hS.onDi

theorem Mod.hwNow_keeps {P : Mod → Prop} (hS : Stable 0x20000000 P) {m : Mod} (hm : P m) (oid : Nat) :
    P (Mod.hwNow m oid) := by
  unfold Mod.hwNow
  try dsimp only
  repeat' first | with_reducible assumption | with_reducible apply Mod.highWater_keeps hS.up

theorem Mod.readClear_keeps {P : Mod → Prop} (hS : Stable 0x21000810 P) {m : Mod} (hm : P m) (oid : Nat) :
    P (Mod.readClear m oid) := by
  unfold Mod.readClear
  try dsimp only
  repeat' first
    | with_reducible assumption
    | with_reducible apply Mod.setObj_keeps hS.up
    | with_reducible refine hS.onSwN ?_ (fun _ => by with_reducible_and_instances rfl)
    | with_reducible apply hS.onCn
    | with_reducible apply hS.onSw
    | with_reducible apply hS.ite

theorem Mod.readEffect_keeps {P : Mod → Prop} (hS : Stable 0x1a1000852 P) {m : Mod} (hm : P m) (c : Caller) (r : ObjRow) (oid : Nat) : PairP P (Mod.readEffect m c r oid) := by
  unfold Mod.readEffect
  try dsimp only
  repeat' first
    | with_reducible assumption
    | with_reducible refine PairP.fst (Mod.callLockRead_keeps hS.up (hm := ?_) ..)
    | with_reducible refine PairP.fst (Mod.callOutPop_keeps hS.up (hm := ?_) ..)
    | with_reducible refine PairP.fst (Mod.callStatusRead_keeps hS.up (hm := ?_) ..)
    | with_reducible apply Mod.hwNow_keeps hS.up
    | with_reducible refine PairP.fst (Mod.ownInPop_keeps hS.up (hm := ?_) ..)
    | with_reducible apply Mod.readClear_keeps hS.up
    | with_reducible apply hS.onMd
    | with_reducible refine hS.onSeN ?_ (fun _ => by constructor <;> with_reducible_and_instances rfl)
    | with_reducible apply hS.drawn
    | with_reducible apply PairP.ite
    | with_reducible apply hS.ite
    | with_reducible apply PairP.mk

theorem Mod.readItem_keeps {P : Mod → Prop} (hS : Stable 0x1a1000852 P) {m : Mod} (hm : P m) (c : Caller) (shadow : Bool) (it : Item) :
    PairP P (Mod.readItem m c shadow it) := by
  unfold Mod.readItem
  try dsimp only
  repeat' first
    | with_reducible assumption
    | with_reducible apply Mod.readEffect_keeps hS.up
    | with_reducible refine PairP.fst (Mod.readEffect_keeps hS.up (hm := ?_) ..)
    | with_reducible apply PairP.ite
    | with_reducible apply hS.ite
    | with_reducible apply PairP.mk
    | refine PairP.get ?_ (by assumption)
    | split
    | intro _ _ hm
    | intro _ hm
    | intro _
    | dsimp only

end Sys2Proof.Machine
end

