-- ==== Sys2Proof/Laws/KeepsEdge.lean ====
section
/-! SUPPORT. What each operation of Edge.lean can do: it keeps every property stable under the updates of its mask. -/
namespace Sys2Proof.Machine
set_option Elab.async false

theorem onLead_keeps {P : Mod → Prop} {p : EdgePort} {f : Mod → Nat → Mod} (h : ∀ m q, P m → P (f m q)) (s : State) (hm : P s.mod) : Keeps P s (onLead p f s) :=
  lift_keeps (fun m hm => by
    split
    · exact h m _ hm
    · exact hm) s hm

theorem onLeadFw_keeps {P : Mod → Prop} {p : EdgePort} {f : Mod → Nat → Mod} (h : ∀ m q, P m → P (f m q)) (s : State) (hm : P s.mod) : Keeps P s (onLeadFw p f s) :=
  liftFw_keeps (fun m hm => by
    split
    · exact h m _ hm
    · exact hm) s hm

theorem execRefinLoss_keeps {P : Mod → Prop} (hS : Stable 0x4ff925f9c P) (st : State) (hm : P st.mod) : Keeps P st (execRefinLoss st) := by
  unfold execRefinLoss
  refine lift_keeps (fun m hm => ?_) st hm
  try dsimp only
  repeat' first
    | with_reducible assumption
    | with_reducible apply Mod.pllLoss_keeps hS.up
    | with_reducible apply Mod.settle_keeps hS.up
    | with_reducible apply Mod.raise_keeps hS.up
    | with_reducible apply hS.onPh
    | with_reducible apply hS.ite
    | with_reducible apply hS.each
    | split
    | intro _ _ hm

theorem execClkreqAssert_keeps {P : Mod → Prop} (hS : Stable 0x300 P) (p : EdgePort) (st : State) (hm : P st.mod) : Keeps P st (execClkreqAssert p st) := by
  unfold execClkreqAssert
  refine onLead_keeps (fun m q hm => ?_) st hm
  try dsimp only
  repeat' first | with_reducible assumption | with_reducible apply Mod.onEdge_keeps hS.up | with_reducible apply Mod.refoutCheck_keeps hS.up

theorem execClkreqRelease_keeps {P : Mod → Prop} (hS : Stable 0x300 P) (p : EdgePort) (st : State) (hm : P st.mod) : Keeps P st (execClkreqRelease p st) := by
  unfold execClkreqRelease
  refine onLead_keeps (fun m q hm => ?_) st hm
  try dsimp only
  repeat' first | with_reducible assumption | with_reducible apply Mod.onEdge_keeps hS.up | with_reducible apply Mod.refoutCheck_keeps hS.up

theorem Mod.setWidth_keeps {P : Mod → Prop} (hS : Stable 0x400000210 P) {m : Mod} (hm : P m) (p : Nat) (w : Nat) : P (Mod.setWidth m p w) := by
  unfold Mod.setWidth
  try dsimp only
  repeat' first
    | with_reducible assumption
    | with_reducible apply Mod.endMargins_keeps hS.up
    | with_reducible apply Mod.onEdge_keeps hS.up
    | with_reducible apply Mod.onLane_keeps hS.up
    | with_reducible apply Mod.portCtr_keeps hS.up
    | with_reducible apply hS.ite
    | with_reducible apply hS.each
    | split
    | intro _ _ hm
    | intro _ hm
    | intro _ _

theorem execL0pWidthHalve_keeps {P : Mod → Prop} (hS : Stable 0x400000210 P) (p : EdgePort) (u1 : Nat) (u2 : Nat) (st : State) (hm : P st.mod) : Keeps P st (execL0pWidthHalve p u1 u2 st) := by
  unfold execL0pWidthHalve
  refine onLead_keeps (fun m q hm => ?_) st hm
  try dsimp only
  repeat' first | with_reducible assumption | with_reducible apply Mod.setWidth_keeps hS.up | with_reducible apply hS.ite

theorem execL0pWidthRestore_keeps {P : Mod → Prop} (hS : Stable 0x400000210 P) (p : EdgePort) (st : State) (hm : P st.mod) : Keeps P st (execL0pWidthRestore p st) := by
  unfold execL0pWidthRestore
  refine onLead_keeps (fun m q hm => ?_) st hm
  try dsimp only
  repeat' first | with_reducible assumption | with_reducible apply Mod.setWidth_keeps hS.up | with_reducible apply hS.ite

theorem execPartnerWidthChange_keeps {P : Mod → Prop} (hS : Stable 0x400000210 P) (p : EdgePort) (w : Nat) (st : State) (hm : P st.mod) : Keeps P st (execPartnerWidthChange p w st) := by
  unfold execPartnerWidthChange
  refine onLead_keeps (fun m q hm => ?_) st hm
  try dsimp only
  repeat' first | with_reducible assumption | with_reducible apply Mod.setWidth_keeps hS.up | with_reducible apply hS.ite

theorem execL1Entry_keeps {P : Mod → Prop} (hS : Stable 0x421004214 P) (p : EdgePort) (kind : Fin 5) (st : State) (hm : P st.mod) : Keeps P st (execL1Entry p kind st) := by
  unfold execL1Entry
  refine onLead_keeps (fun m q hm => ?_) st hm
  try dsimp only
  repeat' first
    | with_reducible assumption
    | with_reducible apply Mod.endMargins_keeps hS.up
    | with_reducible apply Mod.ideErase_keeps hS.up
    | with_reducible apply Mod.onEdge_keeps hS.up
    | with_reducible apply Mod.onLane_keeps hS.up
    | with_reducible apply hS.each
    | split
    | intro _ _ hm

theorem Mod.hideCheck_keeps {P : Mod → Prop} (hS : Stable 0x4000020c P) {m : Mod} (hm : P m) (p : Nat) :
    P (Mod.hideCheck m p) := by
  unfold Mod.hideCheck
  try dsimp only
  repeat' first
    | with_reducible assumption
    | with_reducible apply Mod.onEdge_keeps hS.up
    | with_reducible apply Mod.raise_keeps hS.up
    | with_reducible apply hS.ite

theorem execEdgeLinkTrained_keeps {P : Mod → Prop} (hS : Stable 0x44000021c P) (p : EdgePort) (t : Trained) (loop : Bool) (atomics : List Nat) (dvsec : Option Nat) (st : State) (hm : P st.mod) : Keeps P st (execEdgeLinkTrained p t loop atomics dvsec st) := by
  unfold execEdgeLinkTrained
  refine onLead_keeps (fun m q hm => ?_) st hm
  try dsimp only
  repeat' first
    | with_reducible assumption
    | with_reducible apply Mod.hideCheck_keeps hS.up
    | with_reducible apply Mod.onEdge_keeps hS.up
    | with_reducible apply Mod.onLane_keeps hS.up
    | with_reducible apply Mod.portCtr_keeps hS.up
    | with_reducible apply Mod.raise_keeps hS.up
    | with_reducible apply hS.emit
    | with_reducible apply hS.ite
    | with_reducible apply hS.each
    | with_reducible apply OptP.getD
    | with_reducible apply OptP.map
    | split
    | intro _ _ hm
    | intro _ hm
    | intro _ _

theorem execPrsntAssert_keeps {P : Mod → Prop} (hS : Stable 0x200 P) (p : EdgePort) (st : State) (hm : P st.mod) : Keeps P st (execPrsntAssert p st) := by
  unfold execPrsntAssert
  refine onLead_keeps (fun m q hm => ?_) st hm
  try dsimp only
  repeat' first | with_reducible assumption | with_reducible apply Mod.onEdge_keeps hS.up | with_reducible apply hS.ite

theorem execPresenceAccepted_keeps {P : Mod → Prop} (hS : Stable 0x6000030d P) (p : EdgePort) (st : State) (hm : P st.mod) : Keeps P st (execPresenceAccepted p st) := by
  unfold execPresenceAccepted
  refine onLeadFw_keeps (fun m q hm => ?_) st hm
  try dsimp only
  repeat' first
    | with_reducible assumption
    | with_reducible apply Mod.advanceTo_keeps hS.up
    | with_reducible apply Mod.bump_keeps hS.up
    | with_reducible apply Mod.onEdge_keeps hS.up
    | with_reducible apply Mod.raise_keeps hS.up
    | with_reducible apply Mod.startRefout_keeps hS.up
    | split

theorem execHotAddPerstRelease_keeps {P : Mod → Prop} (hS : Stable 0x201 P) (p : EdgePort) (st : State) (hm : P st.mod) : Keeps P st (execHotAddPerstRelease p st) := by
  unfold execHotAddPerstRelease
  refine onLeadFw_keeps (fun m q hm => ?_) st hm
  try dsimp only
  repeat' first
    | with_reducible assumption
    | with_reducible apply Mod.onEdge_keeps hS.up
    | with_reducible apply Mod.advanceTo_keeps hS.up
    | with_reducible apply hS.ite

theorem execHotAddLinkUp_keeps {P : Mod → Prop} (hS : Stable 0x1000200 P) (p : EdgePort) (st : State) (hm : P st.mod) : Keeps P st (execHotAddLinkUp p st) := by
  unfold execHotAddLinkUp
  refine onLeadFw_keeps (fun m q hm => ?_) st hm
  try dsimp only
  repeat' first
    | with_reducible assumption
    | with_reducible apply Mod.showDevice_keeps hS.up
    | with_reducible apply Mod.onEdge_keeps hS.up
    | with_reducible apply hS.ite

theorem execRemovalPrsnt_keeps {P : Mod → Prop} (hS : Stable 0x4ff924e9d P) (p : EdgePort) (st : State) (hm : P st.mod) : Keeps P st (execRemovalPrsnt p st) := by
  unfold execRemovalPrsnt
  refine onLead_keeps (fun m q hm => ?_) st hm
  try dsimp only
  repeat' first
    | with_reducible assumption
    | with_reducible apply Mod.removal_keeps hS.up
    | with_reducible apply Mod.settle_keeps hS.up
    | with_reducible apply Mod.onEdge_keeps hS.up
    | with_reducible apply hS.advance
    | with_reducible apply hS.ite

theorem execRemovalLinkDown_keeps {P : Mod → Prop} (hS : Stable 0x4ff924e9c P) (p : EdgePort) (st : State) (hm : P st.mod) : Keeps P st (execRemovalLinkDown p st) := by
  unfold execRemovalLinkDown
  refine onLead_keeps (fun m q hm => ?_) st hm
  try dsimp only
  repeat' first
    | with_reducible assumption
    | with_reducible apply Mod.removal_keeps hS.up
    | with_reducible apply Mod.settle_keeps hS.up
    | with_reducible apply hS.ite

theorem execDpcTriggerClear_keeps {P : Mod → Prop} (hS : Stable 0x200 P) (v : HostVcs) (n : Vppb) (st : State) (hm : P st.mod) : Keeps P st (execDpcTriggerClear v n st) := by
  unfold execDpcTriggerClear
  refine lift_keeps (fun m hm => ?_) st hm
  try dsimp only
  repeat' first
    | with_reducible assumption
    | with_reducible apply Mod.onEdge_keeps hS.up
    | with_reducible apply Mod.onVppb_keeps hS.up
    | with_reducible apply hS.ite
    | with_reducible apply OptP.map
    | split
    | intro _ _ hm
    | intro _ hm
    | intro _ _

theorem execHostSlotPowerOff_keeps {P : Mod → Prop} (hS : Stable 0x21000200 P) (v : HostVcs) (n : Vppb) (st : State) (hm : P st.mod) : Keeps P st (execHostSlotPowerOff v n st) := by
  unfold execHostSlotPowerOff
  refine lift_keeps (fun m hm => ?_) st hm
  try dsimp only
  repeat' first
    | with_reducible assumption
    | with_reducible apply Mod.unbindNow_keeps hS.up
    | with_reducible apply hS.ite
    | with_reducible apply OptP.map
    | split
    | intro _ _ hm
    | intro _ hm
    | intro _ _

theorem execUnbindGraceExpiry_keeps {P : Mod → Prop} (hS : Stable 0x7f900e9d P) (p : EdgePort) (st : State) (hm : P st.mod) : Keeps P st (execUnbindGraceExpiry p st) := by
  unfold execUnbindGraceExpiry
  refine onLead_keeps (fun m q hm => ?_) st hm
  try dsimp only
  repeat' first
    | with_reducible assumption
    | with_reducible apply Mod.unbindNow_keeps hS.up
    | with_reducible apply Mod.deviceLost_keeps hS.up
    | with_reducible apply Mod.settle_keeps hS.up
    | with_reducible apply Mod.raise_keeps hS.up
    | with_reducible apply Mod.advanceTo_keeps hS.up
    | split

theorem execIdeIntegrityFailure_keeps {P : Mod → Prop} (hS : Stable 0x7f90021c P) (p : EdgePort) (s : Fin 6) (st : State) (hm : P st.mod) : Keeps P st (execIdeIntegrityFailure p s st) := by
  unfold execIdeIntegrityFailure
  refine onLead_keeps (fun m q hm => ?_) st hm
  try dsimp only
  repeat' first
    | with_reducible assumption
    | with_reducible apply Mod.discardReads_keeps hS.up
    | with_reducible apply Mod.onIde_keeps hS.up
    | with_reducible apply Mod.settle_keeps hS.up
    | with_reducible apply Mod.onEdge_keeps hS.up
    | with_reducible apply Mod.raise_keeps hS.up
    | with_reducible apply hS.ite

theorem execHotReset_keeps {P : Mod → Prop} (hS : Stable 0x4ff90421c P) (p : EdgePort) (st : State) (hm : P st.mod) : Keeps P st (execHotReset p st) := by
  unfold execHotReset
  refine onLead_keeps (fun m q hm => ?_) st hm
  try dsimp only
  repeat' first
    | with_reducible assumption
    | with_reducible apply Mod.hotReset_keeps hS.up
    | with_reducible apply Mod.settle_keeps hS.up
    | with_reducible apply hS.ite

theorem execHostPerstAssert_keeps {P : Mod → Prop} (hS : Stable 0x4ff90421c P) (p : EdgePort) (st : State) (hm : P st.mod) : Keeps P st (execHostPerstAssert p st) := by
  unfold execHostPerstAssert
  refine onLead_keeps (fun m q hm => ?_) st hm
  try dsimp only
  repeat' first
    | with_reducible assumption
    | with_reducible apply Mod.propagate_keeps hS.up
    | with_reducible apply Mod.portDown_keeps hS.up
    | with_reducible apply Mod.unbindAll_keeps hS.up
    | with_reducible apply Mod.hostLost_keeps hS.up
    | with_reducible apply Mod.discardReads_keeps hS.up
    | with_reducible apply Mod.hostPfReset_keeps hS.up
    | with_reducible apply Mod.settle_keeps hS.up
    | with_reducible apply Mod.abortGroups_keeps hS.up
    | with_reducible apply Mod.onVppb_keeps hS.up
    | with_reducible apply Mod.onEdge_keeps hS.up
    | with_reducible refine hS.onEdN ?_ (fun _ => by with_reducible_and_instances rfl)
    | with_reducible apply hS.ite
    | with_reducible apply hS.each
    | split
    | intro _ _ hm

theorem execHostPerstRelease_keeps {P : Mod → Prop} (hS : Stable 0x200 P) (p : EdgePort) (st : State) (hm : P st.mod) : Keeps P st (execHostPerstRelease p st) := by
  unfold execHostPerstRelease
  refine onLead_keeps (fun m q hm => ?_) st hm
  try dsimp only
  repeat' first | with_reducible assumption | with_reducible apply Mod.onEdge_keeps hS.up | with_reducible apply hS.ite

theorem execSecondaryBusReset_keeps {P : Mod → Prop} (hS : Stable 0x4ff90421c P) (v : Vcs) (n : Vppb) (st : State) (hm : P st.mod) : Keeps P st (execSecondaryBusReset v n st) := by
  unfold execSecondaryBusReset
  refine lift_keeps (fun m hm => ?_) st hm
  try dsimp only
  repeat' first | with_reducible assumption | with_reducible apply Mod.propagate_keeps hS.up | with_reducible apply Mod.settle_keeps hS.up

theorem execResetPropagateRemote_keeps {P : Mod → Prop} (hS : Stable 0x1000200 P) (v : Vcs) (n : Vppb) (st : State) (hm : P st.mod) : Keeps P st (execResetPropagateRemote v n st) := by
  unfold execResetPropagateRemote
  refine lift_keeps (fun m hm => ?_) st hm
  try dsimp only
  repeat' first
    | with_reducible assumption
    | with_reducible apply Mod.onVppb_keeps hS.up
    | with_reducible apply Mod.originate_keeps hS.up
    | with_reducible apply hS.ite
    | split

theorem execResetMessageReceived_keeps {P : Mod → Prop} (hS : Stable 0x4ff90421c P) (i : Nat) (st : State) (hm : P st.mod) : Keeps P st (execResetMessageReceived i st) := by
  unfold execResetMessageReceived
  refine lift_keeps (fun m hm => ?_) st hm
  try dsimp only
  repeat' first
    | with_reducible assumption
    | with_reducible apply Mod.resetPort_keeps hS.up
    | with_reducible apply Mod.settle_keeps hS.up
    | with_reducible apply Mod.takeInbox_keeps hS.up
    | with_reducible refine PairP.fst (Mod.takeInbox_keeps hS.up (hm := ?_) ..)
    | with_reducible apply hS.ite
    | with_reducible apply PairP.mk
    | refine PairP.get ?_ (by assumption)
    | split

theorem execHostCacheScanDone_keeps {P : Mod → Prop} (hS : Stable 0x4000020c P) (i : Nat) (st : State) (hm : P st.mod) : Keeps P st (execHostCacheScanDone i st) := by
  unfold execHostCacheScanDone
  refine lift_keeps (fun m hm => ?_) st hm
  try dsimp only
  repeat' first | with_reducible assumption | with_reducible apply Mod.raise_keeps hS.up | with_reducible apply hS.onEd | split

theorem Mod.mergeHost_keeps {P : Mod → Prop} (hS : Stable 0x8000000 P) {m : Mod} (hm : P m) (l : Nat) (mask : Nat) (data : Nat) (poison : Bool) :
    P (Mod.mergeHost m l mask data poison) := by
  unfold Mod.mergeHost
  try dsimp only
  repeat' first | with_reducible assumption | with_reducible apply Mod.onLine_keeps hS.up

theorem Mod.nextSnoop_keeps {P : Mod → Prop} (hS : Stable 0x21800010 P) {m : Mod} (hm : P m) (p : Nat) :
    P (Mod.nextSnoop m p) := by
  unfold Mod.nextSnoop
  try dsimp only
  repeat' first
    | with_reducible assumption
    | with_reducible apply Mod.filtCtr_keeps hS.up
    | with_reducible apply Mod.sendSnoop_keeps hS.up
    | with_reducible apply Mod.portCtr_keeps hS.up
    | with_reducible refine hS.onEdN ?_ (fun _ => by with_reducible_and_instances rfl)
    | with_reducible apply hS.ite
    | with_reducible apply OptP.map
    | split

theorem execBisnpResponse_keeps {P : Mod → Prop} (hS : Stable 0x7f90001c P) (p : EdgePort) (i : Nat) (dirty : Option Nat) (poison : Bool) (st : State) (hm : P st.mod) : Keeps P st (execBisnpResponse p i dirty poison st) := by
  unfold execBisnpResponse
  refine onLead_keeps (fun m q hm => ?_) st hm
  try dsimp only
  repeat' first
    | with_reducible assumption
    | with_reducible apply Mod.bump_keeps hS.up
    | with_reducible apply Mod.filtCtr_keeps hS.up
    | with_reducible apply Mod.mergeHost_keeps hS.up
    | with_reducible apply Mod.nextSnoop_keeps hS.up
    | with_reducible apply Mod.settle_keeps hS.up
    | with_reducible refine hS.onEdN ?_ (fun _ => by with_reducible_and_instances rfl)
    | with_reducible apply hS.emit
    | split

theorem execBiconflict_keeps {P : Mod → Prop} (hS : Stable 0x800000 P) (p : EdgePort) (i : Nat) (st : State) (hm : P st.mod) : Keeps P st (execBiconflict p i st) := by
  unfold execBiconflict
  refine onLead_keeps (fun m q hm => ?_) st hm
  try dsimp only
  repeat' first
    | with_reducible assumption
    | with_reducible refine hS.onEdN ?_ (fun _ => by with_reducible_and_instances rfl)
    | with_reducible apply hS.ite
    | with_reducible apply OptP.map
    | split

theorem execHostWriteback_keeps {P : Mod → Prop} (hS : Stable 0x7f90001c P) (p : EdgePort) (i : Nat) (tag : Nat) (mask : Nat) (data : Nat) (poison : Bool) (st : State) (hm : P st.mod) : Keeps P st (execHostWriteback p i tag mask data poison st) := by
  unfold execHostWriteback
  refine onLead_keeps (fun m q hm => ?_) st hm
  try dsimp only
  repeat' first
    | with_reducible assumption
    | with_reducible apply Mod.answerHost_keeps hS.up
    | with_reducible apply Mod.mergeHost_keeps hS.up
    | with_reducible apply Mod.settle_keeps hS.up
    | split

theorem execMarginRunDone_keeps {P : Mod → Prop} (hS : Stable 0x400000001 P) (l : Lane) (errors : Nat) (st : State) (hm : P st.mod) : Keeps P st (execMarginRunDone l errors st) := by
  unfold execMarginRunDone
  refine lift_keeps (fun m hm => ?_) st hm
  try dsimp only
  repeat' first
    | with_reducible assumption
    | with_reducible apply Mod.advanceTo_keeps hS.up
    | with_reducible apply Mod.onLane_keeps hS.up
    | with_reducible apply hS.ite

theorem execCheckerLock_keeps {P : Mod → Prop} (hS : Stable 0x400000000 P) (l : Lane) (errors : Nat) (symbols : Nat) (st : State) (hm : P st.mod) : Keeps P st (execCheckerLock l errors symbols st) := by
  unfold execCheckerLock
  refine lift_keeps (fun m hm => ?_) st hm
  try dsimp only
  repeat' first | with_reducible assumption | with_reducible apply Mod.onLane_keeps hS.up | with_reducible apply hS.ite

theorem execCheckerLockLoss_keeps {P : Mod → Prop} (hS : Stable 0x46000000c P) (l : Lane) (errors : Nat) (symbols : Nat) (st : State) (hm : P st.mod) : Keeps P st (execCheckerLockLoss l errors symbols st) := by
  unfold execCheckerLockLoss
  refine lift_keeps (fun m hm => ?_) st hm
  try dsimp only
  repeat' first
    | with_reducible assumption
    | with_reducible apply Mod.onLane_keeps hS.up
    | with_reducible apply Mod.raise_keeps hS.up
    | with_reducible apply Mod.bump_keeps hS.up
    | with_reducible apply hS.ite

end Sys2Proof.Machine
end

