-- ==== Sys2Proof/Laws/KeepsService.lean ====
section
/-! SUPPORT. What each operation of Service.lean can do: it keeps every property stable under the updates of its mask. -/
namespace Sys2Proof.Machine
set_option Elab.async false

theorem Mod.onBlock_keeps {P : Mod → Prop} (hS : Stable 0x0 P) {m : Mod} (hm : P m) {f : Nat → Mod → Mod} (hf : ∀ x0 x1, P x1 → P (f x0 x1)) (n : Nat) (j : Nat)  :
    P (Mod.onBlock m n j f) := by
  unfold Mod.onBlock
  try dsimp only
  repeat' first | with_reducible assumption | with_reducible apply hf | split

theorem execSqTailWrite_keeps {P : Mod → Prop} (hS : Stable 0x80000000 P) (n : VfSlot) (j : Fin 64) (v : Nat) (st : State) (hm : P st.mod) : Keeps P st (execSqTailWrite n j v st) := by
  unfold execSqTailWrite
  refine lift_keeps (fun m hm => ?_) st hm
  try dsimp only
  repeat' first
    | with_reducible assumption
    | with_reducible apply Mod.onBlock_keeps hS.up
    | with_reducible apply Mod.onQp_keeps hS.up
    | split
    | intro _ _ hm

theorem execCqHeadWrite_keeps {P : Mod → Prop} (hS : Stable 0x80000000 P) (n : VfSlot) (j : Fin 64) (v : Nat) (st : State) (hm : P st.mod) : Keeps P st (execCqHeadWrite n j v st) := by
  unfold execCqHeadWrite
  refine lift_keeps (fun m hm => ?_) st hm
  try dsimp only
  repeat' first
    | with_reducible assumption
    | with_reducible apply Mod.onBlock_keeps hS.up
    | with_reducible apply Mod.onQp_keeps hS.up
    | split
    | intro _ _ hm

theorem Mod.qcfgWrite_keeps {P : Mod → Prop} (hS : Stable 0xa0000000 P) {m : Mod} (hm : P m) (n : Nat) (q : Nat) (v : Nat) :
    P (Mod.qcfgWrite m n q v) := by
  unfold Mod.qcfgWrite
  try dsimp only
  repeat' first
    | with_reducible assumption
    | with_reducible apply Mod.onQp_keeps hS.up
    | with_reducible apply Mod.bump_keeps hS.up
    | with_reducible apply hS.ite

theorem execQcfgEnable_keeps {P : Mod → Prop} (hS : Stable 0xa0000000 P) (n : VfSlot) (j : Fin 64) (v : Nat) (st : State) (hm : P st.mod) : Keeps P st (execQcfgEnable n j v st) := by
  unfold execQcfgEnable
  refine lift_keeps (fun m hm => ?_) st hm
  try dsimp only
  repeat' first
    | with_reducible assumption
    | with_reducible apply Mod.qcfgWrite_keeps hS.up
    | with_reducible apply Mod.onBlock_keeps hS.up
    | split
    | intro _ _ hm

theorem execQcfgDisable_keeps {P : Mod → Prop} (hS : Stable 0xff90001c P) (n : VfSlot) (j : Fin 64) (v : Nat) (st : State) (hm : P st.mod) : Keeps P st (execQcfgDisable n j v st) := by
  unfold execQcfgDisable
  refine lift_keeps (fun m hm => ?_) st hm
  try dsimp only
  repeat' first
    | with_reducible assumption
    | with_reducible apply Mod.qcfgWrite_keeps hS.up
    | with_reducible apply Mod.onBlock_keeps hS.up
    | with_reducible apply Mod.settle_keeps hS.up
    | split
    | intro _ _ hm

theorem execDescriptorFetch_keeps {P : Mod → Prop} (hS : Stable 0xe000001c P) (d : Die) (words : List Nat) (st : State) (hm : P st.mod) : Keeps P st (execDescriptorFetch d words st) := by
  unfold execDescriptorFetch
  refine liftFw_keeps (fun m hm => ?_) st hm
  try dsimp only
  repeat' first
    | with_reducible assumption
    | with_reducible apply Mod.startDesc_keeps hS.up
    | with_reducible apply Mod.chargeSlot_keeps hS.up
    | with_reducible apply hS.ite
    | with_reducible apply hS.foldl
    | with_reducible apply OptP.getD
    | split

theorem execOpCopy_keeps {P : Mod → Prop} (hS : Stable 0xff90001c P) (q : Qp) (num : Nat) (residue : Bool) (st : State) (hm : P st.mod) : Keeps P st (execOpCopy q num residue st) := by
  unfold execOpCopy
  refine lift_keeps (fun m hm => ?_) st hm
  try dsimp only
  repeat' first | with_reducible assumption | with_reducible apply Mod.runOp_keeps hS.up

theorem execOpFill_keeps {P : Mod → Prop} (hS : Stable 0xff90001c P) (q : Qp) (num : Nat) (residue : Bool) (st : State) (hm : P st.mod) : Keeps P st (execOpFill q num residue st) := by
  unfold execOpFill
  refine lift_keeps (fun m hm => ?_) st hm
  try dsimp only
  repeat' first | with_reducible assumption | with_reducible apply Mod.runOp_keeps hS.up

theorem execOpZero_keeps {P : Mod → Prop} (hS : Stable 0xff90001c P) (q : Qp) (num : Nat) (residue : Bool) (st : State) (hm : P st.mod) : Keeps P st (execOpZero q num residue st) := by
  unfold execOpZero
  refine lift_keeps (fun m hm => ?_) st hm
  try dsimp only
  repeat' first | with_reducible assumption | with_reducible apply Mod.runOp_keeps hS.up

theorem execOpCompare_keeps {P : Mod → Prop} (hS : Stable 0xff90001c P) (q : Qp) (num : Nat) (residue : Bool) (st : State) (hm : P st.mod) : Keeps P st (execOpCompare q num residue st) := by
  unfold execOpCompare
  refine lift_keeps (fun m hm => ?_) st hm
  try dsimp only
  repeat' first | with_reducible assumption | with_reducible apply Mod.runOp_keeps hS.up

theorem execOpCrc32c_keeps {P : Mod → Prop} (hS : Stable 0xff90001c P) (q : Qp) (num : Nat) (residue : Bool) (st : State) (hm : P st.mod) : Keeps P st (execOpCrc32c q num residue st) := by
  unfold execOpCrc32c
  refine lift_keeps (fun m hm => ?_) st hm
  try dsimp only
  repeat' first | with_reducible assumption | with_reducible apply Mod.runOp_keeps hS.up

theorem execOpCrc64_keeps {P : Mod → Prop} (hS : Stable 0xff90001c P) (q : Qp) (num : Nat) (residue : Bool) (st : State) (hm : P st.mod) : Keeps P st (execOpCrc64 q num residue st) := by
  unfold execOpCrc64
  refine lift_keeps (fun m hm => ?_) st hm
  try dsimp only
  repeat' first | with_reducible assumption | with_reducible apply Mod.runOp_keeps hS.up

theorem execOpShake256_keeps {P : Mod → Prop} (hS : Stable 0xff90001c P) (q : Qp) (num : Nat) (residue : Bool) (st : State) (hm : P st.mod) : Keeps P st (execOpShake256 q num residue st) := by
  unfold execOpShake256
  refine lift_keeps (fun m hm => ?_) st hm
  try dsimp only
  repeat' first | with_reducible assumption | with_reducible apply Mod.runOp_keeps hS.up

theorem execOpFetchAdd_keeps {P : Mod → Prop} (hS : Stable 0xff90001c P) (q : Qp) (num : Nat) (residue : Bool) (st : State) (hm : P st.mod) : Keeps P st (execOpFetchAdd q num residue st) := by
  unfold execOpFetchAdd
  refine lift_keeps (fun m hm => ?_) st hm
  try dsimp only
  repeat' first | with_reducible assumption | with_reducible apply Mod.runOp_keeps hS.up

theorem execOpCas_keeps {P : Mod → Prop} (hS : Stable 0xff90001c P) (q : Qp) (num : Nat) (residue : Bool) (st : State) (hm : P st.mod) : Keeps P st (execOpCas q num residue st) := by
  unfold execOpCas
  refine lift_keeps (fun m hm => ?_) st hm
  try dsimp only
  repeat' first | with_reducible assumption | with_reducible apply Mod.runOp_keeps hS.up

theorem execOpMigrate_keeps {P : Mod → Prop} (hS : Stable 0xff90001c P) (q : Qp) (num : Nat) (st : State) (hm : P st.mod) : Keeps P st (execOpMigrate q num st) := by
  unfold execOpMigrate
  refine lift_keeps (fun m hm => ?_) st hm
  try dsimp only
  repeat' first | with_reducible assumption | with_reducible apply Mod.runOp_keeps hS.up

theorem execOpFence_keeps {P : Mod → Prop} (hS : Stable 0xff90001c P) (q : Qp) (num : Nat) (st : State) (hm : P st.mod) : Keeps P st (execOpFence q num st) := by
  unfold execOpFence
  refine lift_keeps (fun m hm => ?_) st hm
  try dsimp only
  repeat' first | with_reducible assumption | with_reducible apply Mod.runOp_keeps hS.up

theorem execOpNotify_keeps {P : Mod → Prop} (hS : Stable 0xff90001c P) (q : Qp) (num : Nat) (st : State) (hm : P st.mod) : Keeps P st (execOpNotify q num st) := by
  unfold execOpNotify
  refine lift_keeps (fun m hm => ?_) st hm
  try dsimp only
  repeat' first | with_reducible assumption | with_reducible apply Mod.runOp_keeps hS.up

theorem execDescriptorComplete_keeps {P : Mod → Prop} (hS : Stable 0xff90001e P) (q : Qp) (num : Nat) (st : State) (hm : P st.mod) : Keeps P st (execDescriptorComplete q num st) := by
  unfold execDescriptorComplete
  refine lift_keeps (fun m hm => ?_) st hm
  try dsimp only
  repeat' first
    | with_reducible assumption
    | with_reducible apply Mod.countDesc_keeps hS.up
    | with_reducible apply Mod.writeRecord_keeps hS.up
    | with_reducible apply Mod.absorbed_keeps hS.up
    | with_reducible apply Mod.onQp_keeps hS.up
    | with_reducible apply Mod.settle_keeps hS.up
    | with_reducible apply hS.ite
    | split

theorem execQuiesceDone_keeps {P : Mod → Prop} (hS : Stable 0xc800000c P) (q : Qp) (st : State) (hm : P st.mod) : Keeps P st (execQuiesceDone q st) := by
  unfold execQuiesceDone
  refine lift_keeps (fun m hm => ?_) st hm
  try dsimp only
  repeat' first
    | with_reducible assumption
    | with_reducible apply Mod.absorbed_keeps hS.up
    | with_reducible apply Mod.onQp_keeps hS.up
    | with_reducible apply Mod.raise_keeps hS.up
    | with_reducible apply hS.ite

theorem execFunctionLevelReset_keeps {P : Mod → Prop} (hS : Stable 0xc0000000 P) (n : VfSlot) (st : State) (hm : P st.mod) : Keeps P st (execFunctionLevelReset n st) := by
  unfold execFunctionLevelReset
  refine lift_keeps (fun m hm => ?_) st hm
  try dsimp only
  repeat' first | with_reducible assumption | with_reducible apply Mod.flrStart_keeps hS.up | with_reducible apply hS.ite

theorem execFlrComplete_keeps {P : Mod → Prop} (hS : Stable 0xc800000c P) (n : VfSlot) (st : State) (hm : P st.mod) : Keeps P st (execFlrComplete n st) := by
  unfold execFlrComplete
  refine lift_keeps (fun m hm => ?_) st hm
  try dsimp only
  repeat' first
    | with_reducible assumption
    | with_reducible apply Mod.absorbed_keeps hS.up
    | with_reducible apply Mod.flrEnd_keeps hS.up
    | with_reducible apply hS.ite
    | with_reducible apply hS.each
    | split
    | intro _ _ hm

theorem execVfEnableClear_keeps {P : Mod → Prop} (hS : Stable 0xc0000000 P) (v : Vcs) (st : State) (hm : P st.mod) : Keeps P st (execVfEnableClear v st) := by
  unfold execVfEnableClear
  refine lift_keeps (fun m hm => ?_) st hm
  try dsimp only
  repeat' first
    | with_reducible assumption
    | with_reducible apply Mod.flrStart_keeps hS.up
    | with_reducible apply Mod.onFn__keeps hS.up
    | with_reducible apply hS.ite
    | with_reducible apply hS.each
    | split
    | intro _ _ hm

theorem execVfEnableSet_keeps {P : Mod → Prop} (hS : Stable 0x40000000 P) (v : Vcs) (st : State) (hm : P st.mod) : Keeps P st (execVfEnableSet v st) := by
  unfold execVfEnableSet
  refine lift_keeps (fun m hm => ?_) st hm
  try dsimp only
  repeat' first | with_reducible assumption | with_reducible apply Mod.onFn__keeps hS.up

theorem execBar4Write_keeps {P : Mod → Prop} (hS : Stable 0x4000 P) (off : Nat) (v : Nat) (st : State) (hm : P st.mod) : Keeps P st (execBar4Write off v st) := by
  unfold execBar4Write
  refine lift_keeps (fun m hm => ?_) st hm
  try dsimp only
  repeat' first | with_reducible assumption | with_reducible apply hS.onDi

end Sys2Proof.Machine
end

