-- ==== Sys2Proof/Laws/StableWrite.lean ====
section
/-! SUPPORT. What a write comes to: its module keeps P, and so does what follows its answer. -/
namespace Sys2Proof.Machine
set_option Elab.async false

structure WResP (P : Mod → Prop) (w : WRes) : Prop where
  mod : P w.mod
  after : ∀ m, P m → P (w.after m)

theorem WResP.plain {P : Mod → Prop} {m : Mod} {s : Sts} {l : List RItem} {h : Nat} {d : Bool} (k : P m) : WResP P (WRes.mk m s l h id d) :=
  ⟨k, fun _ h => h⟩
theorem WResP.mk_after {P : Mod → Prop} {m : Mod} {s : Sts} {l : List RItem} {h : Nat} {d : Bool} {f : Mod → Mod} (k : P m)
    (hf : ∀ m, P m → P (f m)) : WResP P (WRes.mk m s l h f d) := ⟨k, hf⟩
theorem WResP.ite {P : Mod → Prop} {x y : WRes} {c : Prop} [Decidable c] (hx : WResP P x) (hy : WResP P y) : WResP P (if c then x else y) := by
  split
  · exact hx
  · exact hy
/-- A write's end: what it does, its answer, what follows. -/
theorem WResP.done {P : Mod → Prop} {w : WRes} {f : Mod → Mod} (h : WResP P w) (hf : ∀ m, P m → P (f m)) : P (w.after (f w.mod)) :=
  h.after _ (hf _ h.mod)

end Sys2Proof.Machine
end

