-- ==== Sys2Proof/Laws/KeepsWriteOps.lean ====
section
/-! SUPPORT. What each operation of WriteOps.lean can do: it keeps every property stable under the updates of its mask. -/
namespace Sys2Proof.Machine
set_option Elab.async false

theorem Mod.store_keeps {P : Mod → Prop} (hS : Stable 0x20004000 P) {m : Mod} (hm : P m) (r : ObjRow) (oid : Nat) (v : Nat) : P (Mod.store m r oid v) := by
  unfold Mod.store
  try dsimp only
  repeat' first
    | with_reducible assumption
    | with_reducible apply Mod.setObj_keeps hS.up
    | with_reducible apply Mod.setPers_keeps hS.up
    | with_reducible apply hS.onDi
    | with_reducible apply hS.ite

theorem Mod.fenceWrite_keeps {P : Mod → Prop} (hS : Stable 0x4ff925e9c P) {m : Mod} (hm : P m) (el : Nat) (v : Nat) :
    P (Mod.fenceWrite m el v) := by
  unfold Mod.fenceWrite
  try dsimp only
  repeat' first
    | with_reducible assumption
    | with_reducible apply Mod.fenceEffect_keeps hS.up
    | with_reducible apply Mod.raise_keeps hS.up
    | with_reducible apply Mod.setPers_keeps hS.up
    | with_reducible apply hS.onFn
    | with_reducible apply hS.ite
    | split

theorem Mod.portEnable_keeps {P : Mod → Prop} (hS : Stable 0x4fd924f9c P) {m : Mod} (hm : P m) (r : ObjRow) (p : Nat) (v : Nat) :
    P (Mod.portEnable m r p v) := by
  unfold Mod.portEnable
  try dsimp only
  repeat' first
    | with_reducible assumption
    | with_reducible apply Mod.store_keeps hS.up
    | with_reducible apply Mod.refoutCheck_keeps hS.up
    | with_reducible apply Mod.removal_keeps hS.up
    | with_reducible apply Mod.edgeIdle_keeps hS.up
    | with_reducible apply Mod.onEdge_keeps hS.up
    | with_reducible apply hS.ite

theorem Mod.portRole_keeps {P : Mod → Prop} (hS : Stable 0x20004200 P) {m : Mod} (hm : P m) (r : ObjRow) (p : Nat) (v : Nat) :
    P (Mod.portRole m r p v) := by
  unfold Mod.portRole
  try dsimp only
  repeat' first | with_reducible assumption | with_reducible apply Mod.store_keeps hS.up | with_reducible apply Mod.onEdge_keeps hS.up

theorem Mod.showBound_keeps {P : Mod → Prop} (hS : Stable 0x4100020c P) {m : Mod} (hm : P m) (p : Nat) :
    P (Mod.showBound m p) := by
  unfold Mod.showBound
  try dsimp only
  repeat' first
    | with_reducible assumption
    | with_reducible apply Mod.hideCheck_keeps hS.up
    | with_reducible apply Mod.showDevice_keeps hS.up
    | with_reducible apply Mod.onEdge_keeps hS.up
    | with_reducible apply hS.ite

theorem Mod.bindWrite_keeps {P : Mod → Prop} (hS : Stable 0x6100420c P) {m : Mod} (hm : P m) (r : ObjRow) (p : Nat) (v : Nat) :
    P (Mod.bindWrite m r p v) := by
  unfold Mod.bindWrite
  try dsimp only
  repeat' first
    | with_reducible assumption
    | with_reducible apply Mod.showBound_keeps hS.up
    | with_reducible apply Mod.store_keeps hS.up
    | with_reducible apply Mod.unbindNow_keeps hS.up
    | with_reducible apply Mod.tellVppb_keeps hS.up
    | with_reducible apply Mod.onEdge_keeps hS.up
    | with_reducible apply Mod.setPers_keeps hS.up
    | with_reducible apply hS.ite

theorem Mod.retireWrite_keeps {P : Mod → Prop} (hS : Stable 0x463001c8c P) {m : Mod} (hm : P m) (n : Nat) (v : Nat) : P (Mod.retireWrite m n v) := by
  unfold Mod.retireWrite
  try dsimp only
  repeat' first
    | with_reducible assumption
    | with_reducible apply Mod.linkObj_keeps hS.up
    | with_reducible apply Mod.linkRetire_keeps hS.up
    | with_reducible apply Mod.onLink_keeps hS.up
    | with_reducible apply Mod.raise_keeps hS.up
    | with_reducible apply hS.ite

theorem Mod.effectLow_keeps {P : Mod → Prop} (hS : Stable 0x7ff925fff P) {m : Mod} (hm : P m) (r : ObjRow) (oid : Nat) (v : Nat) : WResP P (Mod.effectLow m r oid v) := by
  unfold Mod.effectLow
  try dsimp only
  repeat' first
    | with_reducible assumption
    | with_reducible apply Mod.bindWrite_keeps hS.up
    | with_reducible apply Mod.clearEnergy_keeps hS.up
    | with_reducible apply Mod.clearTrips_keeps hS.up
    | with_reducible apply Mod.fenceWrite_keeps hS.up
    | with_reducible apply Mod.limitWritten_keeps hS.up
    | with_reducible apply Mod.linkRetrain_keeps hS.up
    | with_reducible apply Mod.modeRequest_keeps hS.up
    | with_reducible apply Mod.portEnable_keeps hS.up
    | with_reducible apply Mod.portRole_keeps hS.up
    | with_reducible apply Mod.recordDirty_keeps hS.up
    | with_reducible apply Mod.refoutCheck_keeps hS.up
    | with_reducible apply Mod.retireWrite_keeps hS.up
    | with_reducible apply Mod.settle_keeps hS.up
    | with_reducible apply Mod.store_keeps hS.up
    | with_reducible apply Mod.testWrite_keeps hS.up
    | with_reducible apply hS.onMd
    | with_reducible apply WResP.ite
    | with_reducible apply WResP.plain
    | with_reducible apply WResP.mk_after
    | split
    | intro _ _

theorem Mod.extWrite_keeps {P : Mod → Prop} (hS : Stable 0x7f94001c P) {m : Mod} (hm : P m) (e : Nat) (v : Nat) :
    P (Mod.extWrite m e v) := by
  unfold Mod.extWrite
  try dsimp only
  repeat' first
    | with_reducible assumption
    | with_reducible apply Mod.extForce_keeps hS.up
    | with_reducible apply Mod.extRelease_keeps hS.up
    | with_reducible apply Mod.extAdd_keeps hS.up
    | with_reducible apply Mod.settle_keeps hS.up
    | with_reducible apply Mod.setExt_keeps hS.up
    | with_reducible refine hS.onPoN ?_ (fun _ => by with_reducible_and_instances rfl)
    | split

theorem Mod.migWrite_keeps {P : Mod → Prop} (hS : Stable 0x7f94001c P) {m : Mod} (hm : P m) (i : Nat) (v : Nat) :
    P (Mod.migWrite m i v) := by
  unfold Mod.migWrite
  try dsimp only
  repeat' first
    | with_reducible assumption
    | with_reducible apply Mod.migAbort_keeps hS.up
    | with_reducible apply Mod.settle_keeps hS.up
    | with_reducible apply Mod.copyToPartner_keeps hS.up
    | with_reducible apply Mod.setDesc_keeps hS.up
    | with_reducible apply hS.ite
    | split

theorem Mod.effectMid_keeps {P : Mod → Prop} (hS : Stable 0xff96741c P) {m : Mod} (hm : P m) (c : Caller) (r : ObjRow) (oid : Nat) (v : Nat) :
    WResP P (Mod.effectMid m c r oid v) := by
  unfold Mod.effectMid
  try dsimp only
  repeat' first
    | with_reducible assumption
    | with_reducible apply Mod.migWrite_keeps hS.up
    | with_reducible apply Mod.extWrite_keeps hS.up
    | with_reducible apply Mod.store_keeps hS.up
    | with_reducible apply Mod.reinitDone_keeps hS.up
    | with_reducible apply Mod.serveAlone_keeps hS.up
    | with_reducible apply Mod.takeOver_keeps hS.up
    | with_reducible apply Mod.bindOp_keeps hS.up
    | with_reducible refine PairP.fst (Mod.bindOp_keeps hS.up (hm := ?_) ..)
    | with_reducible apply Mod.settle_keeps hS.up
    | with_reducible apply Mod.stepTime_keeps hS.up
    | with_reducible apply Mod.carriageCheck_keeps hS.up
    | with_reducible apply Mod.recordDirty_keeps hS.up
    | with_reducible apply Mod.count_keeps hS.up
    | with_reducible apply hS.onPo
    | with_reducible apply WResP.ite
    | with_reducible apply hS.ite
    | with_reducible apply WResP.plain

theorem Mod.boxWrite_keeps {P : Mod → Prop} (hS : Stable 0xe000000c P) {m : Mod} (hm : P m) (el : Nat) (v : Nat) :
    P (Mod.boxWrite m el v) := by
  unfold Mod.boxWrite
  try dsimp only
  repeat' first
    | with_reducible assumption
    | with_reducible apply Mod.callDbWrite_keeps hS.up
    | with_reducible apply Mod.callInPush_keeps hS.up
    | with_reducible apply Mod.callLockWrite_keeps hS.up
    | with_reducible apply Mod.ownMaskWrite_keeps hS.up
    | with_reducible apply Mod.ownDbClear_keeps hS.up
    | with_reducible apply Mod.ownStatusWrite_keeps hS.up
    | with_reducible apply Mod.ownOutPush_keeps hS.up
    | with_reducible apply Mod.onCall_keeps hS.up
    | split

theorem Mod.quiesceWrite_keeps {P : Mod → Prop} (hS : Stable 0x80000000 P) {m : Mod} (hm : P m) (q : Nat) (v : Nat) :
    P (Mod.quiesceWrite m q v) := by
  unfold Mod.quiesceWrite
  try dsimp only
  repeat' first
    | with_reducible assumption
    | with_reducible apply Mod.quiesceResume_keeps hS.up
    | with_reducible apply Mod.quiesceAbandon_keeps hS.up
    | with_reducible apply Mod.quiesceStart_keeps hS.up
    | with_reducible apply hS.ite

theorem Mod.effectHigh_keeps {P : Mod → Prop} (hS : Stable 0xff93401c P) {m : Mod} (hm : P m) (c : Caller) (seq : Nat) (r : ObjRow) (oid : Nat) (v : Nat) : WResP P (Mod.effectHigh m c seq r oid v) := by
  unfold Mod.effectHigh
  try dsimp only
  repeat' first
    | with_reducible assumption
    | with_reducible apply Mod.agentReset_keeps hS.up
    | with_reducible apply Mod.boxWrite_keeps hS.up
    | with_reducible apply Mod.chainChange_keeps hS.up
    | with_reducible apply Mod.confirmLost_keeps hS.up
    | with_reducible apply Mod.lostReport_keeps hS.up
    | with_reducible apply Mod.memberFlush_keeps hS.up
    | with_reducible apply Mod.msiRelease_keeps hS.up
    | with_reducible apply Mod.qpMove_keeps hS.up
    | with_reducible apply Mod.quiesceWrite_keeps hS.up
    | with_reducible apply Mod.setObj_keeps hS.up
    | with_reducible apply Mod.settle_keeps hS.up
    | with_reducible apply Mod.slotWrite_keeps hS.up
    | with_reducible apply Mod.store_keeps hS.up
    | with_reducible apply hS.onEv
    | with_reducible apply hS.onCn
    | with_reducible apply WResP.ite
    | with_reducible apply WResP.plain
    | split

end Sys2Proof.Machine
end

