-- ==== Sys2Proof/Laws/KeepsSecWrite.lean ====
section
/-! SUPPORT. What each operation of SecWrite.lean can do: it keeps every property stable under the updates of its mask. -/
namespace Sys2Proof.Machine
set_option Elab.async false

theorem Mod.consumeToken_keeps {P : Mod → Prop} (hS : Stable 0x100000000 P) {m : Mod} (hm : P m) (c : Caller) (oid : Nat) (bytes : List Nat) : OptPairP P (Mod.consumeToken m c oid bytes) := by
  unfold Mod.consumeToken
  extract_lets dig
  cases m.tokenOf c.sess with
  | none => exact OptPairP.none
  | some t =>
    refine OptPairP.ite (OptPairP.some (PairP.mk (hS.onSeN hm ?_))) OptPairP.none
    intro b
    exact ⟨rfl, rfl, rfl, rfl, rfl⟩

theorem Mod.lapseSlot_keeps {P : Mod → Prop} (hS : Stable 0x100000000 P) {m : Mod} (hm : P m) (k : Nat) :
    P (Mod.lapseSlot m k) := by
  unfold Mod.lapseSlot
  try dsimp only
  repeat' first | with_reducible assumption | with_reducible refine hS.onSeN ?_ (fun _ => by constructor <;> with_reducible_and_instances rfl)

theorem Mod.presentToken_keeps {P : Mod → Prop} (hS : Stable 0x14000000c P) {m : Mod} (hm : P m) (c : Caller) (n : Nat) :
    WResP P (Mod.presentToken m c n) := by
  unfold Mod.presentToken
  try dsimp only
  repeat' first
    | with_reducible assumption
    | with_reducible apply Mod.raise_keeps hS.up
    | with_reducible refine hS.onSeN ?_ (fun _ => by constructor <;> with_reducible_and_instances rfl)
    | with_reducible apply WResP.ite
    | with_reducible apply hS.ite
    | with_reducible apply WResP.plain

theorem Mod.slotControl_keeps {P : Mod → Prop} (hS : Stable 0x16000000c P) {m : Mod} (hm : P m) (k : Nat) (v : Nat) :
    P (Mod.slotControl m k v) := by
  unfold Mod.slotControl
  try dsimp only
  repeat' first
    | with_reducible assumption
    | with_reducible apply Mod.lapseSlot_keeps hS.up
    | with_reducible apply Mod.raise_keeps hS.up
    | with_reducible apply Mod.setPers_keeps hS.up
    | with_reducible apply hS.ite
    | with_reducible apply hS.each
    | split
    | intro _ _ hm

theorem Mod.eraseDebug_keeps {P : Mod → Prop} (hS : Stable 0x16000000c P) {m : Mod} (hm : P m) :
    P (Mod.eraseDebug m) := by
  unfold Mod.eraseDebug
  try dsimp only
  repeat' first
    | with_reducible assumption
    | with_reducible apply Mod.raise_keeps hS.up
    | with_reducible apply Mod.setPers_keeps hS.up
    | with_reducible refine hS.onSeN ?_ (fun _ => by constructor <;> with_reducible_and_instances rfl)
    | with_reducible apply hS.ite

theorem Mod.blowLife_keeps {P : Mod → Prop} (hS : Stable 0x400000 P) {m : Mod} (hm : P m) {n : Nat} (hn : n ∈ [1, 2, 4, 5]) : P (Mod.blowLife m n) := by
  unfold Mod.blowLife
  refine hS.onSe hm fun b => ⟨Nat.le_max_left _ _, Nat.le_refl _, Nat.le_refl _, Nat.or_self _, fun _ h => h, ?_, fun h => h, fun h => h, fun h => h⟩
  intro h
  simp only [List.mem_cons, List.not_mem_nil, or_false] at h hn ⊢
  omega

theorem Mod.blowUds_keeps {P : Mod → Prop} (hS : Stable 0x400000 P) {m : Mod} (hm : P m) (u : Nat) : P (Mod.blowUds m u) := by
  unfold Mod.blowUds
  refine hS.onSe hm fun b => ⟨Nat.le_refl _, Nat.le_refl _, Nat.le_refl _, Nat.or_self _, ?_, fun h => h, fun h => h, fun h => h, fun h => h⟩
  intro x h
  simp [h]

theorem Mod.dropIdentity_keeps {P : Mod → Prop} (hS : Stable 0x100000000 P) {m : Mod} (hm : P m) : P (Mod.dropIdentity m) := by
  unfold Mod.dropIdentity
  try dsimp only
  repeat' first
    | with_reducible assumption
    | with_reducible refine hS.onSeN ?_ (fun _ => by constructor <;> with_reducible_and_instances rfl)
    | intro _ _ hm
    | intro _ hm
    | intro _ _

theorem Mod.lifeWrite_keeps {P : Mod → Prop} (hS : Stable 0x16140421e P) {m : Mod} (hm : P m) (v : Nat) : P (Mod.lifeWrite m v) := by
  unfold Mod.lifeWrite
  extract_lets m1
  refine Mod.raise_keeps hS.up ?_ _
  unfold m1
  split
  · exact Mod.blowLife_keeps hS.up (Mod.blowUds_keeps hS.up (hS.drawn hm) _) (by decide)
  · exact Mod.blowLife_keeps hS.up (Mod.eraseDebug_keeps hS.up hm) (by decide)
  · exact Mod.blowLife_keeps hS.up (Mod.dropIdentity_keeps hS.up (Mod.eraseDebug_keeps hS.up (hS.each hm fun p b hb => Mod.ideErase_keeps hS.up hb p))) (by decide)
  · exact Mod.blowLife_keeps hS.up (Mod.dropIdentity_keeps hS.up (Mod.eraseDebug_keeps hS.up hm)) (by decide)

theorem Mod.debugEnter_keeps {P : Mod → Prop} (hS : Stable 0x16000000c P) {m : Mod} (hm : P m) (n : Nat) :
    P (Mod.debugEnter m n) := by
  unfold Mod.debugEnter
  try dsimp only
  repeat' first
    | with_reducible assumption
    | with_reducible apply Mod.raise_keeps hS.up
    | with_reducible apply Mod.setPers_keeps hS.up
    | with_reducible refine hS.onSeN ?_ (fun _ => by constructor <;> with_reducible_and_instances rfl)

theorem Mod.nonceWrite_keeps {P : Mod → Prop} (hS : Stable 0x100000000 P) {m : Mod} (hm : P m) (c : Caller) (v : Nat) :
    P (Mod.nonceWrite m c v) := by
  unfold Mod.nonceWrite
  try dsimp only
  repeat' first | with_reducible assumption | with_reducible refine hS.onSeN ?_ (fun _ => by constructor <;> with_reducible_and_instances rfl)

theorem Mod.unstage_keeps {P : Mod → Prop} (hS : Stable 0x100000000 P) {m : Mod} (hm : P m) :
    P (Mod.unstage m) := by
  unfold Mod.unstage
  try dsimp only
  repeat' first | with_reducible assumption | with_reducible refine hS.onSeN ?_ (fun _ => by constructor <;> with_reducible_and_instances rfl)

theorem Mod.stageData_keeps {P : Mod → Prop} (hS : Stable 0x120000000 P) {m : Mod} (hm : P m) (r : ObjRow) (v : Nat) :
    P (Mod.stageData m r v) := by
  unfold Mod.stageData
  try dsimp only
  repeat' first
    | with_reducible assumption
    | with_reducible apply Mod.unstage_keeps hS.up
    | with_reducible apply Mod.setObj_keeps hS.up
    | with_reducible refine hS.onSeN ?_ (fun _ => by constructor <;> with_reducible_and_instances rfl)

theorem Mod.preferStaged_keeps {P : Mod → Prop} (hS : Stable 0x100000000 P) {m : Mod} (hm : P m) :
    P (Mod.preferStaged m) := by
  unfold Mod.preferStaged
  try dsimp only
  repeat' first | with_reducible assumption | with_reducible refine hS.onSeN ?_ (fun _ => by constructor <;> with_reducible_and_instances rfl)

theorem Mod.startLive_keeps {P : Mod → Prop} (hS : Stable 0x16100405c P) {m : Mod} (hm : P m) : P (Mod.startLive m) := by
  unfold Mod.startLive
  try dsimp only
  repeat' first
    | with_reducible assumption
    | with_reducible apply Mod.answerRest_keeps hS.up
    | with_reducible apply Mod.closeAll_keeps hS.up
    | with_reducible apply hS.onMd
    | with_reducible refine hS.onSeN ?_ (fun _ => by constructor <;> with_reducible_and_instances rfl)

theorem Mod.startReset_keeps {P : Mod → Prop} (hS : Stable 0x7fd90477f P) {m : Mod} (hm : P m) : P (Mod.startReset m) := by
  unfold Mod.startReset
  try dsimp only
  repeat' first
    | with_reducible assumption
    | with_reducible apply Mod.answerRest_keeps hS.up
    | with_reducible apply Mod.closeAll_keeps hS.up
    | with_reducible apply Mod.modeRequest_keeps hS.up
    | with_reducible apply Mod.setMrdy_keeps hS.up

theorem Mod.commitImages_keeps {P : Mod → Prop} (hS : Stable 0x4040000c P) {m : Mod} (hm : P m) : P (Mod.commitImages m) := by
  unfold Mod.commitImages
  refine Mod.raise_keeps hS.up (hS.onSe hm ?_) _
  intro b
  have e : b.revoked ||| (b.revoked ||| m.revokes) = b.revoked ||| m.revokes := by rw [← Nat.or_assoc, Nat.or_self]
  have r : m.revokes < 16 := by
    unfold Mod.revokes
    omega
  exact ⟨Nat.le_refl _, Nat.le_max_left _ _, Nat.le_max_left _ _, e, fun _ h => h, fun h => h, fun h => Nat.max_le.2 ⟨h, by omega⟩,
    fun h => Nat.max_le.2 ⟨h, by omega⟩, fun h => Nat.or_lt_two_pow (n := 4) h r⟩

theorem Mod.effectSec_keeps {P : Mod → Prop} (hS : Stable 0x7fdd0477f P) {m : Mod} (hm : P m) (c : Caller) (r : ObjRow) (oid : Nat) (v : Nat) : WResP P (Mod.effectSec m c r oid v) := by
  unfold Mod.effectSec
  try dsimp only
  repeat' first
    | with_reducible assumption
    | with_reducible apply Mod.commitImages_keeps hS.up
    | with_reducible apply Mod.debugEnter_keeps hS.up
    | with_reducible apply Mod.lifeWrite_keeps hS.up
    | with_reducible apply Mod.nonceWrite_keeps hS.up
    | with_reducible apply Mod.preferStaged_keeps hS.up
    | with_reducible apply Mod.presentToken_keeps hS.up
    | with_reducible apply Mod.slotControl_keeps hS.up
    | with_reducible apply Mod.stageData_keeps hS.up
    | with_reducible apply Mod.startLive_keeps hS.up
    | with_reducible apply Mod.startReset_keeps hS.up
    | with_reducible apply Mod.store_keeps hS.up
    | with_reducible apply Mod.unstage_keeps hS.up
    | with_reducible refine hS.onSeN ?_ (fun _ => by constructor <;> with_reducible_and_instances rfl)
    | with_reducible apply WResP.ite
    | with_reducible apply hS.ite
    | with_reducible apply WResP.plain
    | with_reducible apply WResP.mk_after
    | intro _ _

end Sys2Proof.Machine
end

