-- ==== Sys2Proof/Laws/KeepsGroupOps.lean ====
section
/-! SUPPORT. What each operation of GroupOps.lean can do: it keeps every property stable under the updates of its mask. -/
namespace Sys2Proof.Machine
set_option Elab.async false

theorem Mod.shadowsActive_keeps {P : Mod → Prop} (hS : Stable 0x20000000 P) {m : Mod} (hm : P m) (g : Group) :
    P (Mod.shadowsActive m g) := by
  unfold Mod.shadowsActive
  try dsimp only
  repeat' first
    | with_reducible assumption
    | with_reducible apply Mod.setObj_keeps hS.up
    | with_reducible apply hS.each
    | with_reducible apply PairP.mk
    | split
    | intro _ _ hm

theorem Mod.activate_keeps {P : Mod → Prop} (hS : Stable 0x7f9c021e P) {m : Mod} (hm : P m) (g : Group) :
    P (Mod.activate m g) := by
  unfold Mod.activate
  try dsimp only
  repeat' first
    | with_reducible assumption
    | with_reducible apply Mod.shadowsActive_keeps hS.up
    | with_reducible apply Mod.onIde_keeps hS.up
    | with_reducible apply Mod.settle_keeps hS.up
    | with_reducible apply Mod.copyToPartner_keeps hS.up
    | with_reducible apply Mod.setTokens_keeps hS.up
    | with_reducible apply Mod.applyEntry_keeps hS.up
    | with_reducible refine PairP.fst (Mod.applyEntry_keeps hS.up (hm := ?_) ..)
    | with_reducible apply Mod.raise_keeps hS.up
    | with_reducible apply hS.onPo
    | with_reducible apply hS.drawn
    | with_reducible apply hS.ite
    | with_reducible apply PairP.mk
    | refine PairP.get ?_ (by assumption)
    | split

theorem Mod.applyGroup_keeps {P : Mod → Prop} (hS : Stable 0x7f9c421e P) {m : Mod} (hm : P m) (g : Group) :
    P (Mod.applyGroup m g) := by
  unfold Mod.applyGroup
  try dsimp only
  repeat' first
    | with_reducible assumption
    | with_reducible apply Mod.activate_keeps hS.up
    | with_reducible apply Mod.dropGroup_keeps hS.up
    | with_reducible apply Mod.answer_keeps hS.up
    | with_reducible apply hS.ite

theorem Mod.flashGroup_keeps {P : Mod → Prop} (hS : Stable 0x20000000 P) {m : Mod} (hm : P m) (g : Group) :
    P (Mod.flashGroup m g) := by
  unfold Mod.flashGroup
  try dsimp only
  repeat' first
    | with_reducible assumption
    | with_reducible apply Mod.setFlash_keeps hS.up
    | with_reducible apply hS.ite
    | with_reducible apply hS.each
    | with_reducible apply OptP.map
    | with_reducible apply OptP.getD
    | with_reducible apply PairP.mk
    | split
    | intro _ _ hm

theorem Mod.commit_keeps {P : Mod → Prop} (hS : Stable 0x7f9c421e P) {m : Mod} (hm : P m) (q : Req) (num : Nat) : WResP P (Mod.commit m q num) := by
  unfold Mod.commit
  split
  · exact WResP.plain hm
  split
  · exact WResP.plain hm
  · rename_i g _
    refine WResP.ite (WResP.plain hm) (WResP.ite (WResP.plain hm) (WResP.ite (WResP.plain hm) (WResP.ite (WResP.plain hm) ?_)))
    have h1 := Mod.flashGroup_keeps hS.up hm g
    exact WResP.ite (WResP.plain (Mod.onGroup_keeps hS.up h1 _ _)) (WResP.plain (Mod.activate_keeps hS.up (Mod.dropGroup_keeps hS.up h1 _) _))

theorem Mod.abort_keeps {P : Mod → Prop} (hS : Stable 0x4000400c P) {m : Mod} (hm : P m) (c : Caller) (num : Nat) : WResP P (Mod.abort m c num) := by
  unfold Mod.abort
  split
  · exact WResP.plain hm
  split
  · exact WResP.plain hm
  · have h1 := Mod.dropGroup_keeps hS.up hm num
    exact WResP.ite (WResP.plain hm) (WResP.ite (WResP.plain h1) (WResP.ite (WResP.plain (Mod.raise_keeps hS.up h1 _)) (WResP.plain hm)))

theorem Mod.openGroup_keeps {P : Mod → Prop} (hS : Stable 0x4000 P) {m : Mod} (hm : P m) (c : Caller) (num oid v : Nat) : WResP P (Mod.openGroup m c num oid v) := by
  unfold Mod.openGroup
  extract_lets used
  split
  · exact WResP.plain hm
  · exact WResP.plain (hS.onDi hm)

theorem Mod.writeShadow_keeps {P : Mod → Prop} (hS : Stable 0x4000400c P) {m : Mod} (hm : P m) (c : Caller) (num oid v : Nat) : WResP P (Mod.writeShadow m c num oid v) := by
  unfold Mod.writeShadow
  split
  · exact Mod.openGroup_keeps hS.up hm c num oid v
  · rename_i g _
    refine WResP.ite (WResP.plain hm) (WResP.ite (WResP.plain (Mod.onGroup_keeps hS.up hm _ _)) (WResP.ite ?_ (WResP.plain hm)))
    exact Mod.openGroup_keeps hS.up (hS.onDi (Mod.raise_keeps hS.up (Mod.dropGroup_keeps hS.up hm _) _)) c num oid v

end Sys2Proof.Machine
end

