-- ==== Sys2Proof/Laws/KeepsDictEngine.lean ====
section
/-! SUPPORT. What each operation of DictEngine.lean can do: it keeps every property stable under the updates of its mask. -/
namespace Sys2Proof.Machine
set_option Elab.async false

theorem Mod.checkWrite_keeps {P : Mod → Prop} (hS : Stable 0x100004000 P) {m : Mod} (hm : P m) (c : Caller) (it : Item) : PairP P (Mod.checkWrite m c it) := by
  unfold Mod.checkWrite
  split
  · exact PairP.mk hm
  · rename_i r _
    extract_lets v free took m1 bad area p num s
    have h1 : P m1 := by
      have ht : OptPairP P took := OptPairP.ite OptPairP.none (Mod.consumeToken_keeps hS.up hm _ _ _)
      show P ((took.map (·.1)).getD m)
      generalize took = o at ht
      cases o with
      | none => exact hm
      | some x => exact ht x rfl
    have hb : ∀ s, PairP P (bad s) := fun _ => h1
    refine PairP.ite (PairP.mk hm) (PairP.ite (hb _) (PairP.ite (hb _) (PairP.ite (hb _) (PairP.ite (hb _) (PairP.ite ?_ ?_)))))
    · exact PairP.mk (hS.onDi h1)
    · exact PairP.ite (PairP.mk h1) (hb _)

theorem Mod.writeEffect_keeps {P : Mod → Prop} (hS : Stable 0x7ffdf7fff P) {m : Mod} (hm : P m) (q : Req) (r : ObjRow) (oid : Nat) (v : Nat) : WResP P (Mod.writeEffect m q r oid v) := by
  unfold Mod.writeEffect
  try dsimp only
  repeat' first
    | with_reducible assumption
    | with_reducible apply Mod.abort_keeps hS.up
    | with_reducible apply Mod.commit_keeps hS.up
    | with_reducible apply Mod.effectHigh_keeps hS.up
    | with_reducible apply Mod.effectLow_keeps hS.up
    | with_reducible apply Mod.effectMid_keeps hS.up
    | with_reducible apply Mod.effectSec_keeps hS.up
    | with_reducible apply WResP.ite
    | with_reducible apply WResP.plain

theorem Mod.writeOne_keeps {P : Mod → Prop} (hS : Stable 0x7ffdf7fff P) {m : Mod} (hm : P m) (q : Req) (it : Item) : WResP P (Mod.writeOne m q it) := by
  unfold Mod.writeOne
  extract_lets k
  have hk : P k.1 := Mod.checkWrite_keeps hS.up hm _ _
  clear_value k
  split
  · exact WResP.plain hk
  · split
    · exact Mod.writeShadow_keeps hS.up hk _ _ _ _
    · exact Mod.writeEffect_keeps hS.up hk _ _ _ _

theorem Mod.checkGroup_keeps {P : Mod → Prop} (hS : Stable 0x100004000 P) (q : Req) (num : Nat) : ∀ {m : Mod} (hm : P m) (l : List Item) (acc : List (Nat × Nat)),
    PairP P (Mod.checkGroup m q num l acc)
  | _, hm, [], _ => by
    unfold Mod.checkGroup
    exact hm
  | m, hm, it :: t, acc => by
    unfold Mod.checkGroup
    extract_lets k
    have hk : P k.1 := Mod.checkWrite_keeps hS.up hm _ _
    clear_value k
    split
    · exact PairP.mk hk
    · exact PairP.ite (PairP.mk hk) (PairP.ite (PairP.mk hk) (Mod.checkGroup_keeps hS.up q num hk t _))

theorem Mod.writeGroup_keeps {P : Mod → Prop} (hS : Stable 0x17f9c421e P) {m : Mod} (hm : P m) (q : Req) (num : Nat) (its : List Item) :
    WResP P (Mod.writeGroup m q num its) := by
  unfold Mod.writeGroup
  extract_lets k w
  have hk : P k.1 := Mod.checkGroup_keeps hS.up q num hm _ _
  have hw : WResP P w := by
    have key : ∀ (l : List (Nat × Nat)) (x : WRes), WResP P x →
        WResP P (l.foldl (fun (x : WRes) s => if x.sts = .ok then x.mod.writeShadow q.c num s.1 s.2 else x) x) := by
      intro l
      induction l with
      | nil => exact fun _ h => h
      | cons y l ih => exact fun x h => ih _ (WResP.ite (Mod.writeShadow_keeps hS.up h.mod _ _ _ _) h)
    exact key _ _ (WResP.plain hk)
  clear_value w k
  exact WResP.ite (WResP.plain hk) (WResP.ite hw (Mod.commit_keeps hS.up hw.mod _ _))

theorem Mod.groupMessage_keeps {P : Mod → Prop} (hS : Stable 0x17f9c421e P) {m : Mod} (hm : P m) (q : Req) (oid num : Nat) :
    WResP P (Mod.groupMessage m q oid num) := by
  unfold Mod.groupMessage
  extract_lets k
  have hk : P k.1 := Mod.checkWrite_keeps hS.up hm _ _
  clear_value k
  exact WResP.ite (WResP.plain hk) (WResP.ite (Mod.commit_keeps hS.up hk _ _) (Mod.abort_keeps hS.up hk _ _))

theorem Mod.openSession_keeps {P : Mod → Prop} (hS : Stable 0x14000400c P) {m : Mod} (hm : P m) (src : Source) :
    PairP P (Mod.openSession m src) := by
  unfold Mod.openSession
  try dsimp only
  repeat' first
    | with_reducible assumption
    | with_reducible apply Mod.closeSession_keeps hS.up
    | with_reducible apply hS.onDi
    | with_reducible apply PairP.mk
    | split

theorem Mod.sessionFor_keeps {P : Mod → Prop} (hS : Stable 0x14000400c P) {m : Mod} (hm : P m) (h : ReqHdr) : PairP P (Mod.sessionFor m h) := by
  unfold Mod.sessionFor
  extract_lets opened
  have ho : ∀ u, PairP P (opened u) := by
    intro u
    unfold opened
    have k := Mod.openSession_keeps hS.up hm h.src
    generalize m.openSession h.src = o at k ⊢
    obtain ⟨m1, i⟩ := o
    cases i with
    | none => exact k
    | some i => exact k
  clear_value opened
  split
  · exact hm
  · refine PairP.ite (ho _) ?_
    split
    · exact PairP.ite hm hm
    · exact hm

theorem Mod.proxyOn_keeps {P : Mod → Prop} (hS : Stable 0x21000000 P) {m : Mod} (hm : P m) (h : ReqHdr) (b : Body) (sess : Nat) (target : Nat) : PairP P (Mod.proxyOn m h b sess target) := by
  unfold Mod.proxyOn
  try dsimp only
  repeat' first
    | with_reducible assumption
    | with_reducible apply Mod.sendProxy_keeps hS.up
    | with_reducible refine hS.onDiN ?_ (fun _ => by with_reducible_and_instances rfl)
    | with_reducible apply PairP.ite
    | with_reducible apply PairP.mk

theorem Mod.subscribe_keeps {P : Mod → Prop} (hS : Stable 0x4000 P) {m : Mod} (hm : P m) (c : Caller) (it : Item) (mode : Nat) : PairP P (Mod.subscribe m c it mode) := by
  unfold Mod.subscribe
  try dsimp only
  repeat' first
    | with_reducible assumption
    | with_reducible apply hS.onDi
    | with_reducible apply PairP.ite
    | with_reducible apply PairP.mk

theorem Mod.readItems_keeps {P : Mod → Prop} (hS : Stable 0x1a1000852 P) (c : Caller) (shadow : Bool) : ∀ {m : Mod} (hm : P m) (l : List Item) (acc : List RItem),
    PairP P (Mod.readItems m c shadow l acc)
  | _, hm, [], _ => by
    unfold Mod.readItems
    exact hm
  | m, hm, it :: t, acc => by
    unfold Mod.readItems
    exact Mod.readItems_keeps hS.up c shadow (Mod.readItem_keeps hS.up hm _ _ _).fst t _

theorem Mod.execute_keeps {P : Mod → Prop} (hS : Stable 0x7ffdf7fff P) {m : Mod} (hm : P m) (h : ReqHdr) (b : Body) (sess : Nat) (stored : Bool) : P (Mod.execute m h b sess stored) := by
  unfold Mod.execute
  extract_lets c q base done
  have hd : ∀ (w : WRes) (r : Resp), WResP P w → P (done w r) := fun w r hw =>
    hw.after _ (hS.ite hw.mod (Mod.answer_keeps hS.up hw.mod _ _))
  clear_value done
  split
  · exact Mod.answer_keeps hS.up (Mod.readItem_keeps hS.up hm _ _ _).fst _ _
  · exact hS.ite (Mod.answer_keeps hS.up hm _ _) (Mod.answer_keeps hS.up (Mod.readItems_keeps hS.up _ _ hm _ _).fst _ _)
  · have hw := Mod.writeOne_keeps hS.up hm q ‹Item›
    exact hS.ite (hd _ _ hw) (hd _ _ hw)
  · exact hd _ _ (Mod.writeGroup_keeps hS.up hm _ _ _)
  · exact hd _ _ (Mod.groupMessage_keeps hS.up hm _ _ _)
  · exact hd _ _ (Mod.groupMessage_keeps hS.up hm _ _ _)
  · exact Mod.answer_keeps hS.up (Mod.subscribe_keeps hS.up hm _ _ _).fst _ _
  · exact Mod.answer_keeps hS.up hm _ _

theorem Mod.windowRequest_keeps {P : Mod → Prop} (hS : Stable 0x21000004 P) {m : Mod} (hm : P m) (h : ReqHdr) (b : Body) : P (Mod.windowRequest m h b) := by
  unfold Mod.windowRequest
  try dsimp only
  repeat' first | with_reducible assumption | with_reducible apply Mod.respond_keeps hS.up | split

theorem Mod.touch_keeps {P : Mod → Prop} (hS : Stable 0x4000 P) {m : Mod} (hm : P m) (sess : Nat) : P (Mod.touch m sess) := by
  unfold Mod.touch
  try dsimp only
  repeat' first | with_reducible assumption | with_reducible apply hS.onDi

theorem Mod.request_keeps {P : Mod → Prop} (hS : Stable 0x7ffdf7fff P) {m : Mod} (hm : P m) (h : ReqHdr) (b : Body) (stored : Bool) : P (Mod.request m h b stored) := by
  unfold Mod.request
  extract_lets base
  refine hS.ite hm (hS.ite (Mod.windowRequest_keeps hS.up hm _ _) (hS.ite (Mod.respond_keeps hS.up hm _ _) ?_))
  split
  · rename_i m0 sess e
    extract_lets m1 kept stale t
    have h1 : P m1 := Mod.transportCtr_keeps hS.up (Mod.touch_keeps hS.up (PairP.get (Mod.sessionFor_keeps hS.up hm h) e) _) _ _
    clear_value m1
    split
    · exact Mod.respond_keeps hS.up h1 _ _
    · refine hS.ite (hS.onDi h1) (hS.ite (Mod.execute_keeps hS.up (Mod.hubCtr_keeps hS.up h1 _ _) _ _ _ _) ?_)
      split
      · rename_i m3 e3
        exact PairP.get (Mod.proxyOn_keeps hS.up h1 _ _ _ _) e3
      · exact Mod.answer_keeps hS.up (PairP.get (Mod.proxyOn_keeps hS.up h1 _ _ _ _) (by assumption)) _ _
  · exact Mod.respond_keeps hS.up (PairP.get (Mod.sessionFor_keeps hS.up hm h) (by assumption)) _ _

theorem Mod.winFail_keeps {P : Mod → Prop} (hS : Stable 0x4000 P) {m : Mod} (hm : P m) (k : Nat) (oid : Nat) (s : Sts) :
    P (Mod.winFail m k oid s) := by
  unfold Mod.winFail
  try dsimp only
  repeat' first | with_reducible assumption | with_reducible apply Mod.onDictWindow_keeps hS.up

theorem Mod.winWriteOne_keeps {P : Mod → Prop} (hS : Stable 0x7ffdf7fff P) {m : Mod} (hm : P m) (src : Source) (opcode oid v len : Nat) (stored : Bool) :
    WResP P (Mod.winWriteOne m src opcode oid v len stored) := by
  unfold Mod.winWriteOne
  split
  · exact WResP.plain hm
  · exact Mod.writeOne_keeps hS.up hm _ _

theorem Mod.winWriteWide_keeps {P : Mod → Prop} (hS : Stable 0x100004000 P) {m : Mod} (hm : P m) (src : Source) (oid v len : Nat) :
    WResP P (Mod.winWriteWide m src oid v len) := by
  unfold Mod.winWriteWide
  exact WResP.plain (Mod.checkWrite_keeps hS.up hm _ _)

theorem Mod.winCtrl_keeps {P : Mod → Prop} (hS : Stable 0x7ffdf7fff P) {m : Mod} (hm : P m) (src : Source) (k v : Nat) (stored : Bool) : P (Mod.winCtrl m src k v stored) := by
  unfold Mod.winCtrl
  extract_lets m1 w
  have h1 : P m1 := Mod.onDictWindow_keeps hS.up hm _ _
  clear_value w m1
  refine hS.ite h1 (hS.ite ?_ (hS.ite ?_ (Mod.onDictWindow_keeps hS.up h1 _ _)))
  · exact Mod.onDictWindow_keeps hS.up (Mod.readItem_keeps hS.up h1 _ _ _).fst _ _
  · refine hS.ite (Mod.onDictWindow_keeps hS.up h1 _ _) ?_
    have hr := Mod.winWriteOne_keeps hS.up h1 src 0 w.oid (w.data / 256 ^ (1024 - w.length)) w.length stored
    exact hr.after _ (Mod.onDictWindow_keeps hS.up hr.mod _ _)

theorem Mod.winRegRead_keeps {P : Mod → Prop} (hS : Stable 0x4000 P) {m : Mod} (hm : P m) (src : Source) (k o size : Nat) : PairP P (Mod.winRegRead m src k o size) := by
  unfold Mod.winRegRead
  extract_lets w
  have hw : ∀ f (x : Nat), PairP P (m.onDictWindow k f, x) := fun _ _ => Mod.onDictWindow_keeps hS.up hm _ _
  have h0 : ∀ x : Nat, PairP P (m, x) := fun _ => hm
  exact PairP.ite (h0 _) (PairP.ite (h0 _) (PairP.ite (h0 _) (PairP.ite (PairP.ite (hw _ _) (hw _ _)) (PairP.ite (hw _ _) (PairP.ite (h0 _) (h0 _))))))

theorem Mod.winRegWrite_keeps {P : Mod → Prop} (hS : Stable 0x7ffdf7fff P) {m : Mod} (hm : P m) (src : Source) (k o size v : Nat) (stored : Bool) :
    P (Mod.winRegWrite m src k o size v stored) := by
  unfold Mod.winRegWrite
  exact hS.ite (Mod.onDictWindow_keeps hS.up hm _ _) (hS.ite (Mod.winCtrl_keeps hS.up hm _ _ _ _) (hS.ite (Mod.onDictWindow_keeps hS.up hm _ _) hm))

theorem Mod.slotRead_keeps {P : Mod → Prop} (hS : Stable 0x1a1004852 P) {m : Mod} (hm : P m) (src : Source) (off size : Nat) : PairP P (Mod.slotRead m src off size) := by
  unfold Mod.slotRead
  split
  · exact PairP.mk hm
  by_cases h : m.serves src = false
  · rw [if_pos h]
    exact PairP.mk hm
  rw [if_neg h]
  by_cases h2 : 0x7800000 ≤ off
  · rw [if_pos h2]
    exact Mod.winRegRead_keeps hS.up hm _ _ _ _
  rw [if_neg h2]
  extract_lets oid ty s x
  have hx : PairP P x := Mod.readItem_keeps hS.up hm _ _ _
  clear_value x
  refine PairP.ite (PairP.mk (Mod.winFail_keeps hS.up hm _ _ _)) ?_
  split
  · exact PairP.mk (Mod.onDictWindow_keeps hS.up hx.fst _ _)
  · exact PairP.mk (Mod.winFail_keeps hS.up hx.fst _ _ _)

theorem Mod.slotWriteAt_keeps {P : Mod → Prop} (hS : Stable 0x7ffdf7fff P) {m : Mod} (hm : P m) (src : Source) (off size v : Nat) (stored : Bool) :
    P (Mod.slotWriteAt m src off size v stored) := by
  unfold Mod.slotWriteAt
  split
  · exact hm
  rename_i k _
  by_cases h : m.serves src = false
  · rw [if_pos h]
    exact hm
  rw [if_neg h]
  by_cases h2 : 0x7800000 ≤ off
  · rw [if_pos h2]
    exact Mod.winRegWrite_keeps hS.up hm _ _ _ _ _ _
  rw [if_neg h2]
  extract_lets oid s len r
  have hr : WResP P r := WResP.ite (Mod.winWriteOne_keeps hS.up hm _ _ _ _ _ _) (Mod.winWriteWide_keeps hS.up hm _ _ _ _)
  clear_value r
  split
  · exact Mod.winFail_keeps hS.up hm _ _ _
  · exact hr.after _ (hS.ite (Mod.onDictWindow_keeps hS.up hr.mod _ _) (Mod.winFail_keeps hS.up hr.mod _ _ _))

theorem Mod.writeRow_keeps {P : Mod → Prop} (hS : Stable 0x7ffdf7fff P) {m : Mod} (hm : P m) (src : Source) (oid v : Nat) (stored : Bool) : P (Mod.writeRow m src oid v stored) := by
  unfold Mod.writeRow
  split
  · exact hm
  · split
    · refine hS.ite hm ?_
      extract_lets w
      have hw : WResP P w := Mod.winWriteOne_keeps hS.up hm _ _ _ _ _ _
      clear_value w
      exact hw.after _ (hS.ite (Mod.onDictWindow_keeps hS.up hw.mod _ _) (Mod.winFail_keeps hS.up hw.mod _ _ _))
    · exact Mod.request_keeps hS.up hm _ _ _

theorem Mod.readRow_keeps {P : Mod → Prop} (hS : Stable 0x7ffdf7fff P) {m : Mod} (hm : P m) (src : Source) (oid : Nat) :
    P (Mod.readRow m src oid) := by
  unfold Mod.readRow
  try dsimp only
  repeat' first
    | with_reducible assumption
    | with_reducible apply Mod.request_keeps hS.up
    | with_reducible apply Mod.readItem_keeps hS.up
    | with_reducible refine PairP.fst (Mod.readItem_keeps hS.up (hm := ?_) ..)
    | with_reducible apply hS.emit
    | with_reducible apply hS.ite
    | with_reducible apply OptP.map
    | with_reducible apply OptP.getD
    | with_reducible apply PairP.mk
    | refine PairP.get ?_ (by assumption)
    | split

end Sys2Proof.Machine
end

