-- ==== Sys2Proof/Laws/KeepsProxyEngine.lean ====
section
/-! SUPPORT. What each operation of ProxyEngine.lean can do: it keeps every property stable under the updates of its mask. -/
namespace Sys2Proof.Machine
set_option Elab.async false

theorem Mod.copyStale_keeps {P : Mod → Prop} (hS : Stable 0x20040000 P) {m : Mod} (hm : P m) (i : Nat) :
    P (Mod.copyStale m i) := by
  unfold Mod.copyStale
  try dsimp only
  repeat' first | with_reducible assumption | with_reducible apply Mod.setDesc_keeps hS.up | with_reducible apply hS.onPo

theorem Mod.firmwareAnswer_keeps {P : Mod → Prop} (hS : Stable 0x7f96001c P) {m : Mod} (hm : P m) (p : Proxied) (s : Sts) (items : List RItem) :
    P (Mod.firmwareAnswer m p s items) := by
  unfold Mod.firmwareAnswer
  try dsimp only
  repeat' first
    | with_reducible assumption
    | with_reducible apply Mod.copyStale_keeps hS.up
    | with_reducible apply Mod.serveAlone_keeps hS.up
    | with_reducible apply Mod.bindAnswer_keeps hS.up
    | with_reducible apply Mod.extFail_keeps hS.up
    | with_reducible apply Mod.flushAnswered_keeps hS.up
    | with_reducible apply Mod.settle_keeps hS.up
    | with_reducible apply Mod.unbound_keeps hS.up
    | with_reducible apply Mod.setDState_keeps hS.up
    | with_reducible apply Mod.setDesc_keeps hS.up
    | with_reducible refine hS.onCaN ?_ (fun _ => by with_reducible_and_instances rfl)
    | with_reducible apply hS.onPo
    | with_reducible apply hS.ite
    | with_reducible apply OptP.map
    | with_reducible apply OptP.getD
    | split

theorem Mod.proxyEnds_keeps {P : Mod → Prop} (hS : Stable 0x7f96401c P) {m : Mod} (hm : P m) (p : Proxied) (s : Sts) (subid : Nat) (items : List RItem) : P (Mod.proxyEnds m p s subid items) := by
  unfold Mod.proxyEnds
  try dsimp only
  repeat' first
    | with_reducible assumption
    | with_reducible apply Mod.answer_keeps hS.up
    | with_reducible apply Mod.firmwareAnswer_keeps hS.up
    | with_reducible refine hS.onDiN ?_ (fun _ => by with_reducible_and_instances rfl)
    | with_reducible apply hS.ite

theorem Mod.learnFar_keeps {P : Mod → Prop} (hS : Stable 0x4000 P) {m : Mod} (hm : P m) (p : Proxied) (id : Nat) : P (Mod.learnFar m p id) := by
  unfold Mod.learnFar
  try dsimp only
  repeat' first | with_reducible assumption | with_reducible apply hS.onDi | with_reducible apply hS.ite

theorem Mod.proxyAnswer_keeps {P : Mod → Prop} (hS : Stable 0x7f96401c P) {m : Mod} (hm : P m) (which : Proxied → Bool) (far : Nat) (s : Sts) (subid : Nat) (items : List RItem) : P (Mod.proxyAnswer m which far s subid items) := by
  unfold Mod.proxyAnswer
  try dsimp only
  repeat' first
    | with_reducible assumption
    | with_reducible apply Mod.learnFar_keeps hS.up
    | with_reducible apply Mod.proxyEnds_keeps hS.up
    | with_reducible apply hS.onDi
    | split

theorem Mod.proxyMessage_keeps {P : Mod → Prop} (hS : Stable 0x7ffdf7fff P) {m : Mod} (hm : P m) (sw : Nat) (priv : Nat) (orig : Nat) (stored : Bool) (l : List Nat) : P (Mod.proxyMessage m sw priv orig stored l) := by
  unfold Mod.proxyMessage
  try dsimp only
  repeat' first
    | with_reducible assumption
    | with_reducible apply Mod.proxyAnswer_keeps hS.up
    | with_reducible apply Mod.request_keeps hS.up
    | with_reducible apply hS.emit
    | split

theorem Mod.proxySegment_keeps {P : Mod → Prop} (hS : Stable 0x7ffdf7fff P) {m : Mod} (hm : P m) (p : Pkt) (priv : Nat) (orig : Nat) (stored : Bool) : P (Mod.proxySegment m p priv orig stored) := by
  unfold Mod.proxySegment
  try dsimp only
  repeat' first
    | with_reducible assumption
    | with_reducible apply Mod.proxyMessage_keeps hS.up
    | with_reducible apply hS.onDi
    | with_reducible apply hS.ite

theorem Mod.notify_keeps {P : Mod → Prop} (hS : Stable 0x21004004 P) {m : Mod} (hm : P m) (s : Session) (subid : Nat) (items : List RItem) : P (Mod.notify m s subid items) := by
  unfold Mod.notify
  try dsimp only
  repeat' first
    | with_reducible assumption
    | with_reducible apply Mod.sendProxy_keeps hS.up
    | with_reducible apply hS.onDi
    | with_reducible apply hS.emit
    | split

theorem Mod.notifySub_keeps {P : Mod → Prop} (hS : Stable 0x21004005 P) {m : Mod} (hm : P m) (x : Sub) : P (Mod.notifySub m x) := by
  unfold Mod.notifySub
  try dsimp only
  repeat' first
    | with_reducible assumption
    | with_reducible apply Mod.advanceTo_keeps hS.up
    | with_reducible apply Mod.notify_keeps hS.up
    | with_reducible apply hS.onDi
    | with_reducible apply hS.each
    | split
    | intro _ _ hm

end Sys2Proof.Machine
end

