-- ==== Sys2Proof/Laws/KeepsDictionary.lean ====
section
/-! SUPPORT. What each operation of Dictionary.lean can do: it keeps every property stable under the updates of its mask. -/
namespace Sys2Proof.Machine
set_option Elab.async false

theorem execDictRead_keeps {P : Mod → Prop} (hS : Stable 0x7ffdf7fff P) (h : ReqHdr) (it : Item) (st : State) (hm : P st.mod) : Keeps P st (execDictRead h it st) := by
  unfold execDictRead
  refine lift_keeps (fun m hm => ?_) st hm
  try dsimp only
  repeat' first | with_reducible assumption | with_reducible apply Mod.request_keeps hS.up

theorem execDictWrite_keeps {P : Mod → Prop} (hS : Stable 0x7ffdf7fff P) (h : ReqHdr) (it : Item) (stored : Bool) (st : State) (hm : P st.mod) : Keeps P st (execDictWrite h it stored st) := by
  unfold execDictWrite
  refine lift_keeps (fun m hm => ?_) st hm
  try dsimp only
  repeat' first | with_reducible assumption | with_reducible apply Mod.request_keeps hS.up

theorem execDictReadMulti_keeps {P : Mod → Prop} (hS : Stable 0x7ffdf7fff P) (h : ReqHdr) (its : List Item) (st : State) (hm : P st.mod) : Keeps P st (execDictReadMulti h its st) := by
  unfold execDictReadMulti
  refine lift_keeps (fun m hm => ?_) st hm
  try dsimp only
  repeat' first | with_reducible assumption | with_reducible apply Mod.request_keeps hS.up

theorem execDictWriteGroup_keeps {P : Mod → Prop} (hS : Stable 0x7ffdf7fff P) (h : ReqHdr) (num : Nat) (its : List Item) (stored : Bool) (st : State) (hm : P st.mod) : Keeps P st (execDictWriteGroup h num its stored st) := by
  unfold execDictWriteGroup
  refine lift_keeps (fun m hm => ?_) st hm
  try dsimp only
  repeat' first | with_reducible assumption | with_reducible apply Mod.request_keeps hS.up

theorem execDictCommit_keeps {P : Mod → Prop} (hS : Stable 0x7ffdf7fff P) (h : ReqHdr) (num : Nat) (stored : Bool) (st : State) (hm : P st.mod) : Keeps P st (execDictCommit h num stored st) := by
  unfold execDictCommit
  refine lift_keeps (fun m hm => ?_) st hm
  try dsimp only
  repeat' first | with_reducible assumption | with_reducible apply Mod.request_keeps hS.up

theorem execDictAbort_keeps {P : Mod → Prop} (hS : Stable 0x7ffdf7fff P) (h : ReqHdr) (num : Nat) (st : State) (hm : P st.mod) : Keeps P st (execDictAbort h num st) := by
  unfold execDictAbort
  refine lift_keeps (fun m hm => ?_) st hm
  try dsimp only
  repeat' first | with_reducible assumption | with_reducible apply Mod.request_keeps hS.up

theorem execDictSubscribe_keeps {P : Mod → Prop} (hS : Stable 0x7ffdf7fff P) (h : ReqHdr) (it : Item) (mode : Nat) (st : State) (hm : P st.mod) : Keeps P st (execDictSubscribe h it mode st) := by
  unfold execDictSubscribe
  refine lift_keeps (fun m hm => ?_) st hm
  try dsimp only
  repeat' first | with_reducible assumption | with_reducible apply Mod.request_keeps hS.up

theorem Mod.keyChange_keeps {P : Mod → Prop} (hS : Stable 0x200 P) {m : Mod} (hm : P m) (p : Nat) (s : Nat) :
    P (Mod.keyChange m p s) := by
  unfold Mod.keyChange
  try dsimp only
  repeat' first
    | with_reducible assumption
    | with_reducible apply Mod.onIde_keeps hS.up
    | with_reducible apply Mod.onEdge_keeps hS.up
    | with_reducible apply hS.ite

theorem execGroupApply_keeps {P : Mod → Prop} (hS : Stable 0x7f9c421e P) (num : Nat) (st : State) (hm : P st.mod) : Keeps P st (execGroupApply num st) := by
  unfold execGroupApply
  refine lift_keeps (fun m hm => ?_) st hm
  try dsimp only
  repeat' first
    | with_reducible assumption
    | with_reducible apply Mod.applyGroup_keeps hS.up
    | with_reducible apply Mod.keyChange_keeps hS.up
    | split

theorem execCommitPendingAnswer_keeps {P : Mod → Prop} (hS : Stable 0x21004015 P) (num : Nat) (st : State) (hm : P st.mod) : Keeps P st (execCommitPendingAnswer num st) := by
  unfold execCommitPendingAnswer
  refine lift_keeps (fun m hm => ?_) st hm
  try dsimp only
  repeat' first
    | with_reducible assumption
    | with_reducible apply Mod.onGroup_keeps hS.up
    | with_reducible apply Mod.answer_keeps hS.up
    | with_reducible apply Mod.advanceTo_keeps hS.up
    | with_reducible apply hS.ite
    | split

theorem execGroupLockExpiry_keeps {P : Mod → Prop} (hS : Stable 0x4000400d P) (num : Nat) (st : State) (hm : P st.mod) : Keeps P st (execGroupLockExpiry num st) := by
  unfold execGroupLockExpiry
  refine lift_keeps (fun m hm => ?_) st hm
  try dsimp only
  repeat' first
    | with_reducible assumption
    | with_reducible apply Mod.dropGroup_keeps hS.up
    | with_reducible apply Mod.raise_keeps hS.up
    | with_reducible apply Mod.advanceTo_keeps hS.up
    | with_reducible apply hS.ite
    | split

theorem execGateTakeover_keeps {P : Mod → Prop} (hS : Stable 0x7f9c421f P) (p : PortIx) (st : State) (hm : P st.mod) : Keeps P st (execGateTakeover p st) := by
  unfold execGateTakeover
  refine lift_keeps (fun m hm => ?_) st hm
  try dsimp only
  repeat' first
    | with_reducible assumption
    | with_reducible apply Mod.advanceMeridian_keeps hS.up
    | with_reducible apply Mod.applyGroup_keeps hS.up
    | with_reducible apply Mod.gateTakeover_keeps hS.up
    | split

theorem execIdeKeyChangePoint_keeps {P : Mod → Prop} (hS : Stable 0x7f9c421e P) (p : EdgePort) (s : Fin 6) (st : State) (hm : P st.mod) : Keeps P st (execIdeKeyChangePoint p s st) := by
  unfold execIdeKeyChangePoint
  refine lift_keeps (fun m hm => ?_) st hm
  try dsimp only
  repeat' first
    | with_reducible assumption
    | with_reducible apply Mod.keyChange_keeps hS.up
    | with_reducible apply Mod.applyGroup_keeps hS.up
    | with_reducible apply hS.ite
    | split

theorem execRegionUngate_keeps {P : Mod → Prop} (hS : Stable 0x47f9c439f P) (r : Region) (st : State) (hm : P st.mod) : Keeps P st (execRegionUngate r st) := by
  unfold execRegionUngate
  refine lift_keeps (fun m hm => ?_) st hm
  try dsimp only
  repeat' first
    | with_reducible assumption
    | with_reducible apply Mod.applyGroup_keeps hS.up
    | with_reducible apply Mod.gateTakeover_keeps hS.up
    | with_reducible apply Mod.ungateRegion_keeps hS.up
    | with_reducible apply hS.advance
    | with_reducible apply hS.ite
    | with_reducible apply hS.each
    | intro _ _ hm

theorem execSessionIdleTimeout_keeps {P : Mod → Prop} (hS : Stable 0x14000400d P) (id : Nat) (st : State) (hm : P st.mod) : Keeps P st (execSessionIdleTimeout id st) := by
  unfold execSessionIdleTimeout
  refine lift_keeps (fun m hm => ?_) st hm
  try dsimp only
  repeat' first
    | with_reducible assumption
    | with_reducible apply Mod.closeSession_keeps hS.up
    | with_reducible apply Mod.advanceTo_keeps hS.up
    | split

theorem execNotifySend_keeps {P : Mod → Prop} (hS : Stable 0x21004005 P) (id : Nat) (st : State) (hm : P st.mod) : Keeps P st (execNotifySend id st) := by
  unfold execNotifySend
  refine lift_keeps (fun m hm => ?_) st hm
  try dsimp only
  repeat' first | with_reducible assumption | with_reducible apply Mod.notifySub_keeps hS.up | split

theorem execProxyResponse_keeps {P : Mod → Prop} (hS : Stable 0x7f96401c P) (sess : SessPair) (seq : Nat) (status : Nat) (subid : Nat) (items : List (Item × Nat)) (st : State) (hm : P st.mod) : Keeps P st (execProxyResponse sess seq status subid items st) := by
  unfold execProxyResponse
  refine lift_keeps (fun m hm => ?_) st hm
  try dsimp only
  repeat' first
    | with_reducible assumption
    | with_reducible apply Mod.proxyAnswer_keeps hS.up
    | intro _ _ hm
    | intro _ hm
    | intro _ _

theorem execProxyTimeout_keeps {P : Mod → Prop} (hS : Stable 0x7f96401d P) (i : Nat) (st : State) (hm : P st.mod) : Keeps P st (execProxyTimeout i st) := by
  unfold execProxyTimeout
  refine lift_keeps (fun m hm => ?_) st hm
  try dsimp only
  repeat' first | with_reducible assumption | with_reducible apply Mod.proxyEnds_keeps hS.up | with_reducible apply Mod.advanceTo_keeps hS.up | split

theorem execProxySegmentReceived_keeps {P : Mod → Prop} (hS : Stable 0x7ffdf7fff P) (i : Nat) (req : ProxyOf) (st : State) (hm : P st.mod) : Keeps P st (execProxySegmentReceived i req st) := by
  unfold execProxySegmentReceived
  refine lift_keeps (fun m hm => ?_) st hm
  try dsimp only
  repeat' first
    | with_reducible assumption
    | with_reducible apply Mod.proxySegment_keeps hS.up
    | with_reducible apply Mod.takeInbox_keeps hS.up
    | with_reducible refine PairP.fst (Mod.takeInbox_keeps hS.up (hm := ?_) ..)
    | split
    | intro _ _ hm
    | intro _ hm
    | intro _ _
    | refine PairP.get ?_ (by assumption)

theorem execProxyReassemblyTimeout_keeps {P : Mod → Prop} (hS : Stable 0x20004001 P) (i : Nat) (st : State) (hm : P st.mod) : Keeps P st (execProxyReassemblyTimeout i st) := by
  unfold execProxyReassemblyTimeout
  refine lift_keeps (fun m hm => ?_) st hm
  try dsimp only
  repeat' first
    | with_reducible assumption
    | with_reducible apply Mod.bump_keeps hS.up
    | with_reducible apply Mod.advanceTo_keeps hS.up
    | with_reducible apply hS.onDi
    | split

theorem execSlotRead_keeps {P : Mod → Prop} (hS : Stable 0x1a1004856 P) (src : Source) (off : Nat) (wide : Bool) (st : State) (hm : P st.mod) : Keeps P st (execSlotRead src off wide st) := by
  unfold execSlotRead
  refine lift_keeps (fun m hm => ?_) st hm
  try dsimp only
  repeat' first
    | with_reducible assumption
    | with_reducible apply Mod.slotRead_keeps hS.up
    | with_reducible refine PairP.fst (Mod.slotRead_keeps hS.up (hm := ?_) ..)
    | with_reducible apply hS.emit
    | with_reducible apply hS.ite

theorem execSlotWrite_keeps {P : Mod → Prop} (hS : Stable 0x7ffdf7fff P) (src : Source) (off : Nat) (wide : Bool) (v : Nat) (stored : Bool) (st : State) (hm : P st.mod) : Keeps P st (execSlotWrite src off wide v stored st) := by
  unfold execSlotWrite
  refine lift_keeps (fun m hm => ?_) st hm
  try dsimp only
  repeat' first | with_reducible assumption | with_reducible apply Mod.slotWriteAt_keeps hS.up

theorem execWinRead_keeps {P : Mod → Prop} (hS : Stable 0x7ffdf7fff P) (src : Source) (shadow : Bool) (st : State) (hm : P st.mod) : Keeps P st (execWinRead src shadow st) := by
  unfold execWinRead
  refine lift_keeps (fun m hm => ?_) st hm
  try dsimp only
  repeat' first | with_reducible assumption | with_reducible apply Mod.winCtrl_keeps hS.up | with_reducible apply hS.ite | split

theorem execWinWrite_keeps {P : Mod → Prop} (hS : Stable 0x7ffdf7fff P) (src : Source) (len : Fin 2048) (stored : Bool) (st : State) (hm : P st.mod) : Keeps P st (execWinWrite src len stored st) := by
  unfold execWinWrite
  refine lift_keeps (fun m hm => ?_) st hm
  try dsimp only
  repeat' first | with_reducible assumption | with_reducible apply Mod.winCtrl_keeps hS.up | with_reducible apply hS.ite | split

theorem execWinErrRead_keeps {P : Mod → Prop} (hS : Stable 0x1a1004856 P) (src : Source) (st : State) (hm : P st.mod) : Keeps P st (execWinErrRead src st) := by
  unfold execWinErrRead
  refine lift_keeps (fun m hm => ?_) st hm
  try dsimp only
  repeat' first
    | with_reducible assumption
    | with_reducible apply Mod.slotRead_keeps hS.up
    | with_reducible refine PairP.fst (Mod.slotRead_keeps hS.up (hm := ?_) ..)
    | with_reducible apply hS.emit
    | with_reducible apply hS.ite

theorem execAlertResponseAddress_keeps {P : Mod → Prop} (hS : Stable 0x4 P) (st : State) (hm : P st.mod) : Keeps P st (execAlertResponseAddress st) := by
  unfold execAlertResponseAddress
  refine lift_keeps (fun m hm => ?_) st hm
  try dsimp only
  repeat' first | with_reducible assumption | with_reducible apply hS.emit | with_reducible apply hS.ite

theorem Mod.baseWrite_keeps {P : Mod → Prop} (hS : Stable 0xa0000000 P) {m : Mod} (hm : P m) (n : Nat) (j : Nat) (f : QpSt → QpSt) :
    P (Mod.baseWrite m n j f) := by
  unfold Mod.baseWrite
  try dsimp only
  repeat' first
    | with_reducible assumption
    | with_reducible apply Mod.onBlock_keeps hS.up
    | with_reducible apply Mod.onQp_keeps hS.up
    | with_reducible apply Mod.bump_keeps hS.up
    | with_reducible apply hS.ite
    | split
    | intro _ _ hm

theorem Mod.fastReadAt_keeps {P : Mod → Prop} (hS : Stable 0x80000000 P) {m : Mod} (hm : P m) (a : Nat) (off : Nat) (size : Nat) : PairP P (Mod.fastReadAt m a off size) := by
  unfold Mod.fastReadAt
  try dsimp only
  repeat' first
    | with_reducible assumption
    | with_reducible apply Mod.callLockRead_keeps hS.up
    | with_reducible refine PairP.fst (Mod.callLockRead_keeps hS.up (hm := ?_) ..)
    | with_reducible apply Mod.callOutPop_keeps hS.up
    | with_reducible refine PairP.fst (Mod.callOutPop_keeps hS.up (hm := ?_) ..)
    | with_reducible apply Mod.callStatusRead_keeps hS.up
    | with_reducible refine PairP.fst (Mod.callStatusRead_keeps hS.up (hm := ?_) ..)
    | with_reducible apply Mod.ownInPop_keeps hS.up
    | with_reducible refine PairP.fst (Mod.ownInPop_keeps hS.up (hm := ?_) ..)
    | with_reducible apply PairP.ite
    | with_reducible apply hS.ite
    | with_reducible apply PairP.mk
    | refine PairP.get ?_ (by assumption)

theorem Mod.blockWrite_keeps {P : Mod → Prop} (hS : Stable 0xa0000000 P) {m : Mod} (hm : P m) (n : Nat) (j : Nat) (off : Nat) (v : Nat) : P (Mod.blockWrite m n j off v) := by
  unfold Mod.blockWrite
  try dsimp only
  repeat' first
    | with_reducible assumption
    | with_reducible apply Mod.baseWrite_keeps hS.up
    | with_reducible apply Mod.onBlock_keeps hS.up
    | with_reducible apply Mod.onQp_keeps hS.up
    | with_reducible apply Mod.qcfgWrite_keeps hS.up
    | split
    | intro _ _ hm
    | intro _ hm
    | intro _ _

theorem Mod.fastWriteAt_keeps {P : Mod → Prop} (hS : Stable 0xfd90001c P) {m : Mod} (hm : P m) (a : Nat) (off : Nat) (size : Nat) (v : Nat) : P (Mod.fastWriteAt m a off size v) := by
  unfold Mod.fastWriteAt
  try dsimp only
  repeat' first
    | with_reducible assumption
    | with_reducible apply Mod.barAccept_keeps hS.up
    | with_reducible apply Mod.blockWrite_keeps hS.up
    | with_reducible apply Mod.callDbWrite_keeps hS.up
    | with_reducible apply Mod.callInPush_keeps hS.up
    | with_reducible apply Mod.callLockWrite_keeps hS.up
    | with_reducible apply Mod.msiRelease_keeps hS.up
    | with_reducible apply Mod.onCall_keeps hS.up
    | with_reducible apply Mod.onFn__keeps hS.up
    | with_reducible apply Mod.ownDbClear_keeps hS.up
    | with_reducible apply Mod.ownMaskWrite_keeps hS.up
    | with_reducible apply Mod.ownOutPush_keeps hS.up
    | with_reducible apply Mod.ownStatusWrite_keeps hS.up
    | with_reducible apply hS.ite
    | intro _ _ hm
    | intro _ hm
    | intro _ _

theorem Mod.fastRefuse_keeps {P : Mod → Prop} (hS : Stable 0xe100000c P) {m : Mod} (hm : P m) (a : Nat) (off : Nat) (tag : Option Nat) : P (Mod.fastRefuse m a off tag) := by
  unfold Mod.fastRefuse
  try dsimp only
  repeat' first
    | with_reducible assumption
    | with_reducible apply Mod.bump_keeps hS.up
    | with_reducible apply Mod.completeTo_keeps hS.up
    | with_reducible apply Mod.postedError_keeps hS.up
    | with_reducible apply Mod.raiseOnce_keeps hS.up
    | with_reducible apply hS.ite
    | split

theorem execRegisterWrite_keeps {P : Mod → Prop} (hS : Stable 0x7ffdf7fff P) (r : Reg) (st : State) (hm : P st.mod) : Keeps P st (execRegisterWrite r st) := by
  unfold execRegisterWrite
  refine lift_keeps (fun m hm => ?_) st hm
  try dsimp only
  repeat' first
    | with_reducible assumption
    | with_reducible apply Mod.baseWrite_keeps hS.up
    | with_reducible apply Mod.fastReadAt_keeps hS.up
    | with_reducible refine PairP.fst (Mod.fastReadAt_keeps hS.up (hm := ?_) ..)
    | with_reducible apply Mod.fastRefuse_keeps hS.up
    | with_reducible apply Mod.fastWriteAt_keeps hS.up
    | with_reducible apply Mod.msiRelease_keeps hS.up
    | with_reducible apply Mod.onCall_keeps hS.up
    | with_reducible apply Mod.onFn__keeps hS.up
    | with_reducible apply Mod.onVppb_keeps hS.up
    | with_reducible apply Mod.regRead_keeps hS.up
    | with_reducible apply Mod.settle_keeps hS.up
    | with_reducible apply Mod.writeRow_keeps hS.up
    | with_reducible refine hS.onEdN ?_ (fun _ => by with_reducible_and_instances rfl)
    | with_reducible apply hS.emit
    | with_reducible apply hS.ite
    | split
    | intro _ _ hm
    | intro _ hm
    | intro _ _
    | refine PairP.get ?_ (by assumption)

end Sys2Proof.Machine
end

