-- ==== Sys2Proof/Laws/KeepsHierarchy.lean ====
section
/-! SUPPORT. What each operation of Hierarchy.lean can do: it keeps every property stable under the updates of its mask. -/
namespace Sys2Proof.Machine
set_option Elab.async false

theorem execClusterPllLockLoss_keeps {P : Mod → Prop} (hS : Stable 0x4ff925f9c P) (k : Cluster) (st : State) (hm : P st.mod) : Keeps P st (execClusterPllLockLoss k st) := by
  unfold execClusterPllLockLoss
  refine lift_keeps (fun m hm => ?_) st hm
  try dsimp only
  repeat' first
    | with_reducible assumption
    | with_reducible apply Mod.pllLoss_keeps hS.up
    | with_reducible apply Mod.settle_keeps hS.up
    | with_reducible apply hS.ite

theorem execClusterPllRelock_keeps {P : Mod → Prop} (hS : Stable 0x301 P) (k : Cluster) (st : State) (hm : P st.mod) : Keeps P st (execClusterPllRelock k st) := by
  unfold execClusterPllRelock
  refine lift_keeps (fun m hm => ?_) st hm
  try dsimp only
  repeat' first
    | with_reducible assumption
    | with_reducible apply Mod.pllLocked_keeps hS.up
    | with_reducible apply hS.onPh
    | with_reducible apply hS.advance
    | with_reducible apply hS.ite

theorem execRegionGate_keeps {P : Mod → Prop} (hS : Stable 0x46100579c P) (r : Region) (st : State) (hm : P st.mod) : Keeps P st (execRegionGate r st) := by
  unfold execRegionGate
  refine lift_keeps (fun m hm => ?_) st hm
  try dsimp only
  repeat' first
    | with_reducible assumption
    | with_reducible apply Mod.gateRegion_keeps hS.up
    | with_reducible apply Mod.onRegion_keeps hS.up
    | with_reducible apply hS.ite

theorem execFatalDieError_keeps {P : Mod → Prop} (hS : Stable 0x5ff985efc P) (d : Die) (cause : Fin 6) (st : State) (hm : P st.mod) : Keeps P st (execFatalDieError d cause st) := by
  unfold execFatalDieError
  refine lift_keeps (fun m hm => ?_) st hm
  try dsimp only
  repeat' first | with_reducible assumption | with_reducible apply Mod.settle_keeps hS.up | with_reducible apply Mod.fatalDie_keeps hS.up

theorem execFatalHubError_keeps {P : Mod → Prop} (hS : Stable 0x5ff90567c P) (cause : Fin 6) (st : State) (hm : P st.mod) : Keeps P st (execFatalHubError cause st) := by
  unfold execFatalHubError
  refine lift_keeps (fun m hm => ?_) st hm
  try dsimp only
  repeat' first | with_reducible assumption | with_reducible apply Mod.settle_keeps hS.up | with_reducible apply Mod.fatalHub_keeps hS.up

theorem execMainRailLoss_keeps {P : Mod → Prop} (hS : Stable 0x5ffb0567c P) (rail : Rail) (st : State) (hm : P st.mod) : Keeps P st (execMainRailLoss rail st) := by
  unfold execMainRailLoss
  refine lift_keeps (fun m hm => ?_) st hm
  split
  · exact hm
  extract_lets m0 m1
  have h0 : P m0 := hS.onMd hm
  have h1 : P m1 := hS.ite (hS.onSv (hS.onEv h0) fun b => MemKept.clear rfl rfl) h0
  clear_value m1
  split
  iterate 5 exact Mod.settle_keeps hS.up (Mod.enterFault_keeps hS.up h1 _)
  · exact hS.ite h1 (hS.onMd h1)
  iterate 2 exact h1

theorem execLeakThresholdReached_keeps {P : Mod → Prop} (hS : Stable 0x4ff925e9c P) (d : Die) (u : Fin 53) (st : State) (hm : P st.mod) : Keeps P st (execLeakThresholdReached d u st) := by
  unfold execLeakThresholdReached
  refine lift_keeps (fun m hm => ?_) st hm
  try dsimp only
  repeat' first
    | with_reducible assumption
    | with_reducible apply Mod.fenceUnit_keeps hS.up
    | with_reducible apply Mod.settle_keeps hS.up
    | with_reducible apply Mod.raise_keeps hS.up
    | with_reducible apply hS.onCn
    | with_reducible apply hS.ite

end Sys2Proof.Machine
end

