-- ==== Sys2Proof/Laws/KeepsLink.lean ====
section
/-! SUPPORT. What each operation of Link.lean can do: it keeps every property stable under the updates of its mask. -/
namespace Sys2Proof.Machine
set_option Elab.async false

theorem Mod.handshakeSlot_keeps {P : Mod → Prop} (hS : Stable 0x420001414 P) {m : Mod} (hm : P m) (n : Nat) : OptP P (Mod.handshakeSlot m n) := by
  unfold Mod.handshakeSlot
  try dsimp only
  repeat' first
    | with_reducible assumption
    | with_reducible apply Mod.enterDormant_keeps hS.up
    | with_reducible apply Mod.onLink_keeps hS.up
    | with_reducible apply Mod.sendControl_keeps hS.up
    | with_reducible apply OptP.some
    | with_reducible exact OptP.none
    | split

theorem Mod.sendPayload_keeps {P : Mod → Prop} (hS : Stable 0x420000404 P) {m : Mod} (hm : P m) (n : Nat) (replay : Bool) (f : Flit) : P (Mod.sendPayload m n replay f) := by
  unfold Mod.sendPayload
  try dsimp only
  repeat' first
    | with_reducible assumption
    | with_reducible apply Mod.linkObj_keeps hS.up
    | with_reducible apply Mod.sendFlit_keeps hS.up
    | with_reducible apply hS.emit

theorem Mod.resendNext_keeps {P : Mod → Prop} (hS : Stable 0x420000404 P) {m : Mod} (hm : P m) (n : Nat) (f : Flit) (rest : List Flit) : P (Mod.resendNext m n f rest) := by
  unfold Mod.resendNext
  try dsimp only
  repeat' first | with_reducible assumption | with_reducible apply Mod.onLink_keeps hS.up | with_reducible apply Mod.sendPayload_keeps hS.up

theorem Mod.stampReq_keeps {P : Mod → Prop} (hS : Stable 0x2010 P) {m : Mod} (hm : P m) (n : Nat) (sent : Bool) : P (Mod.stampReq m n sent) := by
  unfold Mod.stampReq
  try dsimp only
  repeat' first
    | with_reducible assumption
    | with_reducible apply Mod.count_keeps hS.up
    | with_reducible apply hS.onTi
    | with_reducible apply hS.ite
    | intro _ _ hm
    | intro _ hm
    | intro _ _

theorem Mod.sendNew_keeps {P : Mod → Prop} (hS : Stable 0x420002414 P) {m : Mod} (hm : P m) (n : Nat) (tx : List TxWord) (ws : List TxWord) : P (Mod.sendNew m n tx ws) := by
  unfold Mod.sendNew
  try dsimp only
  repeat' first
    | with_reducible assumption
    | with_reducible apply Mod.onLink_keeps hS.up
    | with_reducible apply Mod.sendPayload_keeps hS.up
    | with_reducible apply Mod.stampReq_keeps hS.up
    | with_reducible apply hS.ite
    | intro _ _ hm
    | intro _ hm
    | intro _ _

theorem execFlitSlot_keeps {P : Mod → Prop} (hS : Stable 0x421003414 P) (n : FabPort) (st : State) (hm : P st.mod) : Keeps P st (execFlitSlot n st) := by
  unfold execFlitSlot
  refine lift_keeps (fun m hm => ?_) st hm
  try dsimp only
  repeat' first
    | with_reducible assumption
    | with_reducible apply Mod.adjCheck_keeps hS.up
    | with_reducible apply Mod.count_keeps hS.up
    | with_reducible apply Mod.handshakeSlot_keeps hS.up
    | with_reducible apply Mod.onLink_keeps hS.up
    | with_reducible apply Mod.resendNext_keeps hS.up
    | with_reducible apply Mod.sendControl_keeps hS.up
    | with_reducible apply Mod.sendFlit_keeps hS.up
    | with_reducible apply Mod.sendNew_keeps hS.up
    | with_reducible apply Mod.sendTraining_keeps hS.up
    | with_reducible apply hS.emit
    | with_reducible apply hS.ite
    | split
    | intro _ _ hm
    | intro _ hm
    | intro _ _
    | refine OptP.get ?_ (by assumption)

theorem Mod.rxSymbols_keeps {P : Mod → Prop} (hS : Stable 0x400000000 P) {m : Mod} (hm : P m) (n : Nat) (raw : List (List Nat)) : PairP P (Mod.rxSymbols m n raw) := by
  unfold Mod.rxSymbols
  try dsimp only
  repeat' first
    | with_reducible assumption
    | with_reducible apply Mod.onLane_keeps hS.up
    | with_reducible apply hS.each
    | with_reducible apply PairP.mk
    | intro _ _ hm

theorem Mod.rxPayload_keeps {P : Mod → Prop} (hS : Stable 0x61000c9c P) {m0 : Mod} (hm : P m0) (n : Nat) (seq : Nat) (words : List Nat) : P (Mod.rxPayload m0 n seq words) := by
  unfold Mod.rxPayload
  try dsimp only
  repeat' first
    | with_reducible assumption
    | with_reducible apply Mod.badFlit_keeps hS.up
    | with_reducible apply Mod.linkObj_keeps hS.up
    | with_reducible apply Mod.onLink_keeps hS.up
    | with_reducible apply Mod.rxWord_keeps hS.up
    | with_reducible apply hS.ite
    | with_reducible apply hS.each
    | intro _ _ hm

theorem Mod.rxCtype_keeps {P : Mod → Prop} (hS : Stable 0x400001410 P) {m : Mod} (hm : P m) (n : Nat) (c : Control) : P (Mod.rxCtype m n c) := by
  unfold Mod.rxCtype
  try dsimp only
  repeat' first
    | with_reducible assumption
    | with_reducible apply Mod.enterDormant_keeps hS.up
    | with_reducible apply Mod.onLink_keeps hS.up
    | split

theorem Mod.rxControl_keeps {P : Mod → Prop} (hS : Stable 0x46100141c P) {m : Mod} (hm : P m) (n : Nat) (c : Control) : P (Mod.rxControl m n c) := by
  unfold Mod.rxControl
  try dsimp only
  repeat' first
    | with_reducible assumption
    | with_reducible apply Mod.ackFrees_keeps hS.up
    | with_reducible apply Mod.adjCheck_keeps hS.up
    | with_reducible apply Mod.linkRetrain_keeps hS.up
    | with_reducible apply Mod.onLink_keeps hS.up
    | with_reducible apply Mod.rxCtype_keeps hS.up
    | with_reducible apply Mod.startReplay_keeps hS.up
    | split

theorem Mod.flitIn_keeps {P : Mod → Prop} (hS : Stable 0x461001c9c P) {m : Mod} (hm : P m) (n : Nat) (sent : FlitForm) (noise : Noise) : P (Mod.flitIn m n sent noise) := by
  unfold Mod.flitIn
  try dsimp only
  repeat' first
    | with_reducible assumption
    | with_reducible apply Mod.badFlit_keeps hS.up
    | with_reducible apply Mod.fecFixed_keeps hS.up
    | with_reducible apply Mod.linkObj_keeps hS.up
    | with_reducible apply Mod.portCtr_keeps hS.up
    | with_reducible apply Mod.rxControl_keeps hS.up
    | with_reducible apply Mod.rxPayload_keeps hS.up
    | with_reducible apply Mod.rxSymbols_keeps hS.up
    | with_reducible refine PairP.fst (Mod.rxSymbols_keeps hS.up (hm := ?_) ..)
    | with_reducible apply hS.ite
    | split
    | refine PairP.get ?_ (by assumption)

theorem execFlitRxPayload_keeps {P : Mod → Prop} (hS : Stable 0x461001c9c P) (n : FabPort) (head : FlitHead) (words : List Nat) (noise : Noise) (st : State) (hm : P st.mod) : Keeps P st (execFlitRxPayload n head words noise st) := by
  unfold execFlitRxPayload
  refine lift_keeps (fun m hm => ?_) st hm
  try dsimp only
  repeat' first
    | with_reducible assumption
    | with_reducible apply Mod.flitIn_keeps hS.up
    | intro _ _ hm
    | intro _ hm
    | intro _ _

theorem execFlitRxControl_keeps {P : Mod → Prop} (hS : Stable 0x461001c9c P) (n : FabPort) (c : Control) (noise : Noise) (st : State) (hm : P st.mod) : Keeps P st (execFlitRxControl n c noise st) := by
  unfold execFlitRxControl
  refine lift_keeps (fun m hm => ?_) st hm
  try dsimp only
  repeat' first
    | with_reducible assumption
    | with_reducible apply Mod.flitIn_keeps hS.up
    | intro _ _ hm
    | intro _ hm
    | intro _ _

theorem execFlitRxNull_keeps {P : Mod → Prop} (hS : Stable 0x461001c9c P) (n : FabPort) (noise : Noise) (st : State) (hm : P st.mod) : Keeps P st (execFlitRxNull n noise st) := by
  unfold execFlitRxNull
  refine lift_keeps (fun m hm => ?_) st hm
  try dsimp only
  repeat' first
    | with_reducible assumption
    | with_reducible apply Mod.flitIn_keeps hS.up
    | intro _ _ hm
    | intro _ hm
    | intro _ _

theorem execFlitRxBad_keeps {P : Mod → Prop} (hS : Stable 0x461001c9c P) (n : FabPort) (sent : FlitForm) (noise : Noise) (st : State) (hm : P st.mod) : Keeps P st (execFlitRxBad n sent noise st) := by
  unfold execFlitRxBad
  refine lift_keeps (fun m hm => ?_) st hm
  try dsimp only
  repeat' first
    | with_reducible assumption
    | with_reducible apply Mod.flitIn_keeps hS.up
    | intro _ _ hm
    | intro _ hm
    | intro _ _

theorem execReplayTimeout_keeps {P : Mod → Prop} (hS : Stable 0x46000141d P) (n : FabPort) (st : State) (hm : P st.mod) : Keeps P st (execReplayTimeout n st) := by
  unfold execReplayTimeout
  refine lift_keeps (fun m hm => ?_) st hm
  try dsimp only
  repeat' first
    | with_reducible assumption
    | with_reducible apply Mod.startReplay_keeps hS.up
    | with_reducible apply Mod.onLink_keeps hS.up
    | with_reducible apply Mod.advanceTo_keeps hS.up
    | with_reducible apply hS.ite
    | with_reducible apply OptP.map
    | split

theorem execLinkSignalLoss_keeps {P : Mod → Prop} (hS : Stable 0x46000140d P) (n : FabPort) (st : State) (hm : P st.mod) : Keeps P st (execLinkSignalLoss n st) := by
  unfold execLinkSignalLoss
  refine lift_keeps (fun m hm => ?_) st hm
  try dsimp only
  repeat' first
    | with_reducible assumption
    | with_reducible apply Mod.linkDown_keeps hS.up
    | with_reducible apply Mod.onLanes_keeps hS.up
    | with_reducible apply Mod.onLink_keeps hS.up
    | with_reducible apply hS.advance
    | with_reducible apply hS.ite

theorem execRetrainTimeout_keeps {P : Mod → Prop} (hS : Stable 0x46000140d P) (n : FabPort) (st : State) (hm : P st.mod) : Keeps P st (execRetrainTimeout n st) := by
  unfold execRetrainTimeout
  refine lift_keeps (fun m hm => ?_) st hm
  try dsimp only
  repeat' first
    | with_reducible assumption
    | with_reducible apply Mod.linkDown_keeps hS.up
    | with_reducible apply Mod.advanceTo_keeps hS.up
    | with_reducible apply hS.ite

theorem execTrainTimeout_keeps {P : Mod → Prop} (hS : Stable 0x46000140d P) (n : FabPort) (st : State) (hm : P st.mod) : Keeps P st (execTrainTimeout n st) := by
  unfold execTrainTimeout
  refine lift_keeps (fun m hm => ?_) st hm
  try dsimp only
  repeat' first
    | with_reducible assumption
    | with_reducible apply Mod.linkDown_keeps hS.up
    | with_reducible apply Mod.advanceTo_keeps hS.up
    | with_reducible apply hS.ite

theorem execTrainStart_keeps {P : Mod → Prop} (hS : Stable 0x420000401 P) (t : TrainPort) (st : State) (hm : P st.mod) : Keeps P st (execTrainStart t st) := by
  unfold execTrainStart
  refine lift_keeps (fun m hm => ?_) st hm
  try dsimp only
  repeat' first
    | with_reducible assumption
    | with_reducible apply Mod.advanceTo_keeps hS.up
    | with_reducible apply Mod.onLane_keeps hS.up
    | with_reducible apply Mod.onLink_keeps hS.up
    | with_reducible apply Mod.startSearch_keeps hS.up
    | with_reducible apply hS.ite
    | with_reducible apply hS.each
    | split
    | intro _ _ hm
    | intro _ hm
    | intro _ _

theorem Mod.linkActive_keeps {P : Mod → Prop} (hS : Stable 0x400000400 P) {m : Mod} (hm : P m) (n : Nat) : P (Mod.linkActive m n) := by
  unfold Mod.linkActive
  try dsimp only
  repeat' first | with_reducible assumption | with_reducible apply Mod.onLanes_keeps hS.up | with_reducible apply Mod.onLink_keeps hS.up

theorem Mod.requeueHeld_keeps {P : Mod → Prop} (hS : Stable 0x1000880 P) {m : Mod} (hm : P m) (n : Nat) :
    P (Mod.requeueHeld m n) := by
  unfold Mod.requeueHeld
  try dsimp only
  repeat' first
    | with_reducible assumption
    | with_reducible apply Mod.removeHeld_keeps hS.up
    | with_reducible apply Mod.setQueue_keeps hS.up
    | with_reducible refine hS.onSwN ?_ (fun _ => by with_reducible_and_instances rfl)
    | with_reducible apply hS.each
    | with_reducible apply OptP.map
    | split
    | intro _ _ hm

theorem execLinkupComplete_keeps {P : Mod → Prop} (hS : Stable 0x461001c8c P) (n : FabPort) (st : State) (hm : P st.mod) : Keeps P st (execLinkupComplete n st) := by
  unfold execLinkupComplete
  refine lift_keeps (fun m hm => ?_) st hm
  try dsimp only
  repeat' first
    | with_reducible assumption
    | with_reducible apply Mod.ackFrees_keeps hS.up
    | with_reducible apply Mod.linkActive_keeps hS.up
    | with_reducible apply Mod.linkDown_keeps hS.up
    | with_reducible apply Mod.onLink_keeps hS.up
    | with_reducible apply Mod.raise_keeps hS.up
    | with_reducible apply Mod.requeueHeld_keeps hS.up
    | split

theorem execDormantExitTimeout_keeps {P : Mod → Prop} (hS : Stable 0x46000140d P) (n : FabPort) (st : State) (hm : P st.mod) : Keeps P st (execDormantExitTimeout n st) := by
  unfold execDormantExitTimeout
  refine lift_keeps (fun m hm => ?_) st hm
  try dsimp only
  repeat' first | with_reducible assumption | with_reducible apply Mod.linkDown_keeps hS.up | with_reducible apply Mod.advanceTo_keeps hS.up | split

theorem execLeaveDrained_keeps {P : Mod → Prop} (hS : Stable 0x400 P) (n : FabPort) (st : State) (hm : P st.mod) : Keeps P st (execLeaveDrained n st) := by
  unfold execLeaveDrained
  refine lift_keeps (fun m hm => ?_) st hm
  try dsimp only
  repeat' first | with_reducible assumption | with_reducible apply Mod.onLink_keeps hS.up | with_reducible apply hS.ite

theorem execLeaveDown_keeps {P : Mod → Prop} (hS : Stable 0x46000140d P) (n : FabPort) (st : State) (hm : P st.mod) : Keeps P st (execLeaveDown n st) := by
  unfold execLeaveDown
  refine lift_keeps (fun m hm => ?_) st hm
  try dsimp only
  repeat' first
    | with_reducible assumption
    | with_reducible apply Mod.linkDown_keeps hS.up
    | with_reducible apply Mod.onLanes_keeps hS.up
    | with_reducible apply Mod.onLink_keeps hS.up
    | with_reducible apply hS.advance
    | split

theorem execDormantIdleTimeout_keeps {P : Mod → Prop} (hS : Stable 0x401 P) (n : FabPort) (st : State) (hm : P st.mod) : Keeps P st (execDormantIdleTimeout n st) := by
  unfold execDormantIdleTimeout
  refine lift_keeps (fun m hm => ?_) st hm
  try dsimp only
  repeat' first
    | with_reducible assumption
    | with_reducible apply Mod.onLink_keeps hS.up
    | with_reducible apply Mod.advanceTo_keeps hS.up
    | with_reducible apply hS.ite

theorem execDormantRetry_keeps {P : Mod → Prop} (hS : Stable 0x401 P) (n : FabPort) (st : State) (hm : P st.mod) : Keeps P st (execDormantRetry n st) := by
  unfold execDormantRetry
  refine lift_keeps (fun m hm => ?_) st hm
  try dsimp only
  repeat' first
    | with_reducible assumption
    | with_reducible apply Mod.advanceTo_keeps hS.up
    | with_reducible apply Mod.onLink_keeps hS.up
    | with_reducible apply hS.ite

theorem Mod.searchFailed_keeps {P : Mod → Prop} (hS : Stable 0x46000140c P) {m : Mod} (hm : P m) (n : Nat) : P (Mod.searchFailed m n) := by
  unfold Mod.searchFailed
  try dsimp only
  repeat' first
    | with_reducible assumption
    | with_reducible apply Mod.bump_keeps hS.up
    | with_reducible apply Mod.linkDown_keeps hS.up
    | with_reducible apply Mod.onLanes_keeps hS.up
    | with_reducible apply Mod.onSearch_keeps hS.up
    | with_reducible apply Mod.raise_keeps hS.up
    | with_reducible apply hS.ite

theorem execAlignSearchRound_keeps {P : Mod → Prop} (hS : Stable 0x46000140c P) (n : FabPort) (hits : List Nat) (st : State) (hm : P st.mod) : Keeps P st (execAlignSearchRound n hits st) := by
  unfold execAlignSearchRound
  refine liftFw_keeps (fun m hm => ?_) st hm
  try dsimp only
  repeat' first
    | with_reducible assumption
    | with_reducible apply Mod.bump_keeps hS.up
    | with_reducible apply Mod.onLane_keeps hS.up
    | with_reducible apply Mod.onSearch_keeps hS.up
    | with_reducible apply Mod.searchFailed_keeps hS.up
    | with_reducible apply hS.each
    | split
    | intro _ _ hm

theorem execCdrRelockDone_keeps {P : Mod → Prop} (hS : Stable 0x400000000 P) (n : FabPort) (st : State) (hm : P st.mod) : Keeps P st (execCdrRelockDone n st) := by
  unfold execCdrRelockDone
  refine lift_keeps (fun m hm => ?_) st hm
  try dsimp only
  repeat' first
    | with_reducible assumption
    | with_reducible apply Mod.onLane_keeps hS.up
    | with_reducible apply Mod.onLanes_keeps hS.up
    | with_reducible apply Mod.onSearch_keeps hS.up
    | with_reducible apply hS.ite
    | with_reducible apply hS.each
    | intro _ _ hm

theorem Mod.exitDone_keeps {P : Mod → Prop} (hS : Stable 0x420001400 P) {m : Mod} (hm : P m) (n : Nat) : P (Mod.exitDone m n) := by
  unfold Mod.exitDone
  try dsimp only
  repeat' first
    | with_reducible assumption
    | with_reducible apply Mod.bump_keeps hS.up
    | with_reducible apply Mod.onLanes_keeps hS.up
    | with_reducible apply Mod.onLink_keeps hS.up
    | with_reducible apply Mod.recordDirty_keeps hS.up
    | with_reducible apply hS.when

theorem execDeskewDone_keeps {P : Mod → Prop} (hS : Stable 0x46000140c P) (n : FabPort) (skew : Nat) (reversed : Bool) (inverted : List (Fin 4)) (taps : List Taps) (st : State) (hm : P st.mod) : Keeps P st (execDeskewDone n skew reversed inverted taps st) := by
  unfold execDeskewDone
  refine lift_keeps (fun m hm => ?_) st hm
  try dsimp only
  repeat' first
    | with_reducible assumption
    | with_reducible apply Mod.exitDone_keeps hS.up
    | with_reducible apply Mod.onLane_keeps hS.up
    | with_reducible apply Mod.onLanes_keeps hS.up
    | with_reducible apply Mod.onSearch_keeps hS.up
    | with_reducible apply Mod.searchFailed_keeps hS.up
    | with_reducible apply hS.each
    | split
    | intro _ _ hm

theorem execLaneSignalLost_keeps {P : Mod → Prop} (hS : Stable 0x400000000 P) (l : Lane) (st : State) (hm : P st.mod) : Keeps P st (execLaneSignalLost l st) := by
  unfold execLaneSignalLost
  refine lift_keeps (fun m hm => ?_) st hm
  try dsimp only
  repeat' first
    | with_reducible assumption
    | with_reducible apply Mod.onSearch_keeps hS.up
    | with_reducible apply Mod.onLane_keeps hS.up
    | with_reducible apply hS.ite

theorem execLaneAlignmentLost_keeps {P : Mod → Prop} (hS : Stable 0x46000040c P) (l : Lane) (st : State) (hm : P st.mod) : Keeps P st (execLaneAlignmentLost l st) := by
  unfold execLaneAlignmentLost
  refine lift_keeps (fun m hm => ?_) st hm
  try dsimp only
  repeat' first
    | with_reducible assumption
    | with_reducible apply Mod.linkRetrain_keeps hS.up
    | with_reducible apply Mod.onLane_keeps hS.up
    | with_reducible apply hS.ite

theorem execLaneCdrLockLoss_keeps {P : Mod → Prop} (hS : Stable 0x46000040c P) (l : Lane) (st : State) (hm : P st.mod) : Keeps P st (execLaneCdrLockLoss l st) := by
  unfold execLaneCdrLockLoss
  refine lift_keeps (fun m hm => ?_) st hm
  try dsimp only
  repeat' first
    | with_reducible assumption
    | with_reducible apply Mod.bump_keeps hS.up
    | with_reducible apply Mod.linkRetrain_keeps hS.up
    | with_reducible apply Mod.onLane_keeps hS.up
    | with_reducible apply hS.ite

theorem execTrainingBlocksInActive_keeps {P : Mod → Prop} (hS : Stable 0x46000040c P) (n : FabPort) (st : State) (hm : P st.mod) : Keeps P st (execTrainingBlocksInActive n st) := by
  unfold execTrainingBlocksInActive
  refine lift_keeps (fun m hm => ?_) st hm
  try dsimp only
  repeat' first | with_reducible assumption | with_reducible apply Mod.linkRetrain_keeps hS.up | with_reducible apply hS.ite

theorem execDormantEntryDone_keeps {P : Mod → Prop} (hS : Stable 0x400000404 P) (n : FabPort) (st : State) (hm : P st.mod) : Keeps P st (execDormantEntryDone n st) := by
  unfold execDormantEntryDone
  refine lift_keeps (fun m hm => ?_) st hm
  try dsimp only
  repeat' first
    | with_reducible assumption
    | with_reducible apply Mod.beginExit_keeps hS.up
    | with_reducible apply Mod.onLanes_keeps hS.up
    | with_reducible apply Mod.onLink_keeps hS.up
    | with_reducible apply hS.ite

theorem execWakePatternDetected_keeps {P : Mod → Prop} (hS : Stable 0x404 P) (n : FabPort) (st : State) (hm : P st.mod) : Keeps P st (execWakePatternDetected n st) := by
  unfold execWakePatternDetected
  refine lift_keeps (fun m hm => ?_) st hm
  try dsimp only
  repeat' first
    | with_reducible assumption
    | with_reducible apply Mod.beginExit_keeps hS.up
    | with_reducible apply Mod.onLink_keeps hS.up
    | with_reducible apply hS.ite

theorem execDormantExitDone_keeps {P : Mod → Prop} (hS : Stable 0x46000140c P) (n : FabPort) (failed : List (Fin 4)) (st : State) (hm : P st.mod) : Keeps P st (execDormantExitDone n failed st) := by
  unfold execDormantExitDone
  refine lift_keeps (fun m hm => ?_) st hm
  try dsimp only
  repeat' first
    | with_reducible assumption
    | with_reducible apply Mod.bump_keeps hS.up
    | with_reducible apply Mod.exitDone_keeps hS.up
    | with_reducible apply Mod.onLane_keeps hS.up
    | with_reducible apply Mod.onLanes_keeps hS.up
    | with_reducible apply Mod.onSearch_keeps hS.up
    | with_reducible apply Mod.raise_keeps hS.up
    | with_reducible apply hS.ite
    | with_reducible apply hS.when
    | with_reducible apply hS.each
    | intro _ _ hm

end Sys2Proof.Machine
end

