-- ==== Sys2Proof/Laws/KeepsMailbox.lean ====
section
/-! SUPPORT. What each operation of Mailbox.lean can do: it keeps every property stable under the updates of its mask. -/
namespace Sys2Proof.Machine
set_option Elab.async false

theorem execOwnInPop_keeps {P : Mod → Prop} (hS : Stable 0x80000004 P) (k : Mbox) (st : State) (hm : P st.mod) : Keeps P st (execOwnInPop k st) := by
  unfold execOwnInPop
  refine lift_keeps (fun m hm => ?_) st hm
  try dsimp only
  repeat' first | with_reducible assumption | with_reducible apply Mod.regRead_keeps hS.up | with_reducible apply Mod.ownInPop_keeps hS.up

theorem execOwnOutPush_keeps {P : Mod → Prop} (hS : Stable 0x80000000 P) (k : Mbox) (w : Nat) (st : State) (hm : P st.mod) : Keeps P st (execOwnOutPush k w st) := by
  unfold execOwnOutPush
  refine lift_keeps (fun m hm => ?_) st hm
  try dsimp only
  repeat' first | with_reducible assumption | with_reducible apply Mod.ownOutPush_keeps hS.up | with_reducible apply hS.ite

theorem execOwnReply_keeps {P : Mod → Prop} (hS : Stable 0xe000000c P) (k : Mbox) (v : Nat) (st : State) (hm : P st.mod) : Keeps P st (execOwnReply k v st) := by
  unfold execOwnReply
  refine lift_keeps (fun m hm => ?_) st hm
  try dsimp only
  repeat' first | with_reducible assumption | with_reducible apply Mod.ownStatusWrite_keeps hS.up | with_reducible apply hS.ite

theorem execOwnDbClear_keeps {P : Mod → Prop} (hS : Stable 0x80000000 P) (k : Mbox) (v : Nat) (st : State) (hm : P st.mod) : Keeps P st (execOwnDbClear k v st) := by
  unfold execOwnDbClear
  refine lift_keeps (fun m hm => ?_) st hm
  try dsimp only
  repeat' first | with_reducible assumption | with_reducible apply Mod.ownDbClear_keeps hS.up | with_reducible apply hS.ite

theorem execOwnMaskWrite_keeps {P : Mod → Prop} (hS : Stable 0xe000000c P) (k : Mbox) (v : Nat) (st : State) (hm : P st.mod) : Keeps P st (execOwnMaskWrite k v st) := by
  unfold execOwnMaskWrite
  refine lift_keeps (fun m hm => ?_) st hm
  try dsimp only
  repeat' first | with_reducible assumption | with_reducible apply Mod.ownMaskWrite_keeps hS.up | with_reducible apply hS.ite

theorem execCallLockRead_keeps {P : Mod → Prop} (hS : Stable 0x80000004 P) (k : Mbox) (st : State) (hm : P st.mod) : Keeps P st (execCallLockRead k st) := by
  unfold execCallLockRead
  refine lift_keeps (fun m hm => ?_) st hm
  try dsimp only
  repeat' first | with_reducible assumption | with_reducible apply Mod.regRead_keeps hS.up | with_reducible apply Mod.callLockRead_keeps hS.up

theorem execCallLockRelease_keeps {P : Mod → Prop} (hS : Stable 0x80000000 P) (k : Mbox) (v : Nat) (st : State) (hm : P st.mod) : Keeps P st (execCallLockRelease k v st) := by
  unfold execCallLockRelease
  refine lift_keeps (fun m hm => ?_) st hm
  try dsimp only
  repeat' first | with_reducible assumption | with_reducible apply Mod.callLockWrite_keeps hS.up | with_reducible apply hS.ite

theorem execCallInPush_keeps {P : Mod → Prop} (hS : Stable 0x80000000 P) (k : Mbox) (w : Nat) (st : State) (hm : P st.mod) : Keeps P st (execCallInPush k w st) := by
  unfold execCallInPush
  refine lift_keeps (fun m hm => ?_) st hm
  try dsimp only
  repeat' first | with_reducible assumption | with_reducible apply Mod.callInPush_keeps hS.up | with_reducible apply hS.ite

theorem execCallOutPop_keeps {P : Mod → Prop} (hS : Stable 0x80000004 P) (k : Mbox) (st : State) (hm : P st.mod) : Keeps P st (execCallOutPop k st) := by
  unfold execCallOutPop
  refine lift_keeps (fun m hm => ?_) st hm
  try dsimp only
  repeat' first | with_reducible assumption | with_reducible apply Mod.regRead_keeps hS.up | with_reducible apply Mod.callOutPop_keeps hS.up

theorem execCallDbWrite_keeps {P : Mod → Prop} (hS : Stable 0xe000000c P) (k : Mbox) (v : Nat) (st : State) (hm : P st.mod) : Keeps P st (execCallDbWrite k v st) := by
  unfold execCallDbWrite
  refine lift_keeps (fun m hm => ?_) st hm
  try dsimp only
  repeat' first | with_reducible assumption | with_reducible apply Mod.callDbWrite_keeps hS.up | with_reducible apply hS.ite

theorem execCallStatusRead_keeps {P : Mod → Prop} (hS : Stable 0x80000004 P) (k : Mbox) (st : State) (hm : P st.mod) : Keeps P st (execCallStatusRead k st) := by
  unfold execCallStatusRead
  refine lift_keeps (fun m hm => ?_) st hm
  try dsimp only
  repeat' first | with_reducible assumption | with_reducible apply Mod.regRead_keeps hS.up | with_reducible apply Mod.callStatusRead_keeps hS.up

theorem execMailboxLockTimeout_keeps {P : Mod → Prop} (hS : Stable 0xc000000d P) (k : Mbox) (st : State) (hm : P st.mod) : Keeps P st (execMailboxLockTimeout k st) := by
  unfold execMailboxLockTimeout
  refine lift_keeps (fun m hm => ?_) st hm
  try dsimp only
  repeat' first
    | with_reducible assumption
    | with_reducible apply Mod.breakLock_keeps hS.up
    | with_reducible apply Mod.advanceTo_keeps hS.up
    | with_reducible apply hS.ite

theorem execEvtCauseClear_keeps {P : Mod → Prop} (hS : Stable 0x40000000 P) (v : Vcs) (bits : Nat) (st : State) (hm : P st.mod) : Keeps P st (execEvtCauseClear v bits st) := by
  unfold execEvtCauseClear
  refine lift_keeps (fun m hm => ?_) st hm
  try dsimp only
  repeat' first | with_reducible assumption | with_reducible apply Mod.onFn__keeps hS.up

end Sys2Proof.Machine
end

