-- ==== Sys2Proof/Laws/KeepsModes.lean ====
section
/-! SUPPORT. What each operation of Modes.lean can do: it keeps every property stable under the updates of its mask. -/
namespace Sys2Proof.Machine
set_option Elab.async false

theorem execPwrGoodRise_keeps {P : Mod → Prop} (hS : Stable 0x6000006d P) (st : State) (hm : P st.mod) : Keeps P st (execPwrGoodRise st) := by
  unfold execPwrGoodRise
  refine lift_keeps (fun m hm => ?_) st hm
  try dsimp only
  repeat' first
    | with_reducible assumption
    | with_reducible apply Mod.enterMode_keeps hS.up
    | with_reducible apply Mod.powerEvent_keeps hS.up
    | with_reducible apply hS.onPw
    | with_reducible apply hS.onMd
    | with_reducible apply hS.advance
    | split

theorem execBootStart_keeps {P : Mod → Prop} (hS : Stable 0x76100437f P) (st : State) (hm : P st.mod) : Keeps P st (execBootStart st) := by
  unfold execBootStart
  refine lift_keeps (fun m hm => ?_) st hm
  try dsimp only
  repeat' first
    | with_reducible assumption
    | with_reducible apply Mod.enterBoot_keeps hS.up
    | with_reducible apply Mod.advanceTo_keeps hS.up
    | with_reducible apply hS.ite
    | split

theorem execRailStepDone_keeps {P : Mod → Prop} (hS : Stable 0x46100437d P) (st : State) (hm : P st.mod) : Keeps P st (execRailStepDone st) := by
  unfold execRailStepDone
  refine lift_keeps (fun m hm => ?_) st hm
  try dsimp only
  repeat' first | with_reducible assumption | with_reducible apply Mod.railStepDone_keeps hS.up | with_reducible apply hS.ite

theorem execBootComplete_keeps {P : Mod → Prop} (hS : Stable 0x4ff965ffd P) (fails : List UnitId) (st : State) (hm : P st.mod) : Keeps P st (execBootComplete fails st) := by
  unfold execBootComplete
  refine lift_keeps (fun m hm => ?_) st hm
  try dsimp only
  repeat' first
    | with_reducible assumption
    | with_reducible apply Mod.bootDone_keeps hS.up
    | with_reducible apply Mod.settle_keeps hS.up
    | with_reducible apply hS.ite

theorem execBootConfigurePassEnd_keeps {P : Mod → Prop} (hS : Stable 0x7f90045d P) (st : State) (hm : P st.mod) : Keeps P st (execBootConfigurePassEnd st) := by
  unfold execBootConfigurePassEnd
  refine lift_keeps (fun m hm => ?_) st hm
  try dsimp only
  repeat' first
    | with_reducible assumption
    | with_reducible apply Mod.enterOperate_keeps hS.up
    | with_reducible apply Mod.settle_keeps hS.up
    | with_reducible apply Mod.advanceTo_keeps hS.up
    | split

theorem execBootWatchdog_keeps {P : Mod → Prop} (hS : Stable 0x5ff90567d P) (st : State) (hm : P st.mod) : Keeps P st (execBootWatchdog st) := by
  unfold execBootWatchdog
  refine lift_keeps (fun m hm => ?_) st hm
  try dsimp only
  repeat' first
    | with_reducible assumption
    | with_reducible apply Mod.settle_keeps hS.up
    | with_reducible apply Mod.enterFault_keeps hS.up
    | with_reducible apply Mod.advanceTo_keeps hS.up
    | with_reducible apply hS.ite

theorem execRomMonitorServes_keeps {P : Mod → Prop} (hS : Stable 0x6000004d P) (st : State) (hm : P st.mod) : Keeps P st (execRomMonitorServes st) := by
  unfold execRomMonitorServes
  refine lift_keeps (fun m hm => ?_) st hm
  try dsimp only
  repeat' first
    | with_reducible assumption
    | with_reducible apply Mod.setMrdy_keeps hS.up
    | with_reducible apply Mod.advanceTo_keeps hS.up
    | with_reducible apply hS.onMd
    | with_reducible apply hS.ite

theorem execVaoHoldupExpiry_keeps {P : Mod → Prop} (hS : Stable 0x36000406f P) (st : State) (hm : P st.mod) : Keeps P st (execVaoHoldupExpiry st) := by
  unfold execVaoHoldupExpiry
  refine lift_keeps (fun m hm => ?_) st hm
  try dsimp only
  repeat' first
    | with_reducible assumption
    | with_reducible apply Mod.reboot_keeps hS.up
    | with_reducible apply Mod.storeDebug_keeps hS.up
    | with_reducible apply Mod.enterMode_keeps hS.up
    | with_reducible apply Mod.advanceTo_keeps hS.up
    | with_reducible apply hS.onDi
    | with_reducible apply hS.onMd
    | with_reducible apply hS.onPw
    | with_reducible apply hS.ite
    | with_reducible apply hS.foldl
    | with_reducible apply PairP.mk
    | split

theorem execGovernorEvaluate_keeps {P : Mod → Prop} (hS : Stable 0x47f9016dd P) (t0 : Int) (t1 : Int) (th : Int) (st : State) (hm : P st.mod) : Keeps P st (execGovernorEvaluate t0 t1 th st) := by
  unfold execGovernorEvaluate
  refine lift_keeps (fun m hm => ?_) st hm
  try dsimp only
  repeat' first
    | with_reducible assumption
    | with_reducible apply Mod.advanceTo_keeps hS.up
    | with_reducible apply Mod.govStep_keeps hS.up
    | with_reducible apply Mod.holdMeasures_keeps hS.up
    | with_reducible apply Mod.settle_keeps hS.up
    | with_reducible apply hS.onMd
    | split

theorem execGddr6RateStep_keeps {P : Mod → Prop} (hS : Stable 0x41 P) (st : State) (hm : P st.mod) : Keeps P st (execGddr6RateStep st) := by
  unfold execGddr6RateStep
  refine lift_keeps (fun m hm => ?_) st hm
  try dsimp only
  repeat' first
    | with_reducible assumption
    | with_reducible apply hS.onMd
    | with_reducible apply hS.advance
    | split

theorem execGovernorFloor_keeps {P : Mod → Prop} (hS : Stable 0x1ff90405d P) (st : State) (hm : P st.mod) : Keeps P st (execGovernorFloor st) := by
  unfold execGovernorFloor
  refine lift_keeps (fun m hm => ?_) st hm
  try dsimp only
  repeat' first
    | with_reducible assumption
    | with_reducible apply Mod.advanceTo_keeps hS.up
    | with_reducible apply Mod.settle_keeps hS.up
    | with_reducible apply Mod.startDrain_keeps hS.up
    | with_reducible apply hS.onMd
    | split

theorem execInputCurrentEmergency_keeps {P : Mod → Prop} (hS : Stable 0x47f9016dd P) (st : State) (hm : P st.mod) : Keeps P st (execInputCurrentEmergency st) := by
  unfold execInputCurrentEmergency
  refine lift_keeps (fun m hm => ?_) st hm
  try dsimp only
  repeat' first
    | with_reducible assumption
    | with_reducible apply Mod.govStep_keeps hS.up
    | with_reducible apply Mod.settle_keeps hS.up
    | with_reducible apply hS.onMd
    | with_reducible apply hS.advance
    | with_reducible apply hS.ite

theorem execThermalTrip_keeps {P : Mod → Prop} (hS : Stable 0x5ffb0577c P) (d : Fin 3) (st : State) (hm : P st.mod) : Keeps P st (execThermalTrip d st) := by
  unfold execThermalTrip
  refine lift_keeps (fun m hm => ?_) st hm
  split
  · exact hm
  extract_lets hot m1 m2 m3
  have h1 : P m1 := hS.ite hm (Mod.enterFault_keeps hS.up hm _)
  have h3 : P m3 := hS.onSv (hS.onEv (hS.onMd h1)) fun b => MemKept.clear rfl rfl
  clear_value m3
  exact Mod.settle_keeps hS.up (hS.each h3 fun k b hb => Mod.refoutCheck_keeps hS.up hb _)

theorem execDrainTrackerDone_keeps {P : Mod → Prop} (hS : Stable 0x7f90005c P) (st : State) (hm : P st.mod) : Keeps P st (execDrainTrackerDone st) := by
  unfold execDrainTrackerDone
  refine lift_keeps (fun m hm => ?_) st hm
  try dsimp only
  repeat' first
    | with_reducible assumption
    | with_reducible apply Mod.recallAll_keeps hS.up
    | with_reducible apply Mod.settle_keeps hS.up
    | with_reducible apply hS.onMd
    | with_reducible apply hS.ite

theorem execDrainRecallDone_keeps {P : Mod → Prop} (hS : Stable 0x7f94005c P) (st : State) (hm : P st.mod) : Keeps P st (execDrainRecallDone st) := by
  unfold execDrainRecallDone
  refine lift_keeps (fun m hm => ?_) st hm
  try dsimp only
  repeat' first
    | with_reducible assumption
    | with_reducible apply Mod.startHandoff_keeps hS.up
    | with_reducible apply Mod.recallAll_keeps hS.up
    | with_reducible apply Mod.settle_keeps hS.up
    | with_reducible apply hS.ite

theorem execParcelHandoff_keeps {P : Mod → Prop} (hS : Stable 0x7f94141c P) (i : Fin 65536) (st : State) (hm : P st.mod) : Keeps P st (execParcelHandoff i st) := by
  unfold execParcelHandoff
  refine lift_keeps (fun m hm => ?_) st hm
  try dsimp only
  repeat' first
    | with_reducible assumption
    | with_reducible apply Mod.handOff_keeps hS.up
    | with_reducible apply Mod.settle_keeps hS.up
    | with_reducible apply hS.ite

theorem execParcelUnhome_keeps {P : Mod → Prop} (hS : Stable 0x40000 P) (i : Fin 65536) (st : State) (hm : P st.mod) : Keeps P st (execParcelUnhome i st) := by
  unfold execParcelUnhome
  refine lift_keeps (fun m hm => ?_) st hm
  try dsimp only
  repeat' first | with_reducible assumption | with_reducible apply hS.onPo | with_reducible apply hS.ite

theorem execDrainHandoffDone_keeps {P : Mod → Prop} (hS : Stable 0x7f90145c P) (st : State) (hm : P st.mod) : Keeps P st (execDrainHandoffDone st) := by
  unfold execDrainHandoffDone
  refine lift_keeps (fun m hm => ?_) st hm
  try dsimp only
  repeat' first
    | with_reducible assumption
    | with_reducible apply Mod.startLeave_keeps hS.up
    | with_reducible apply Mod.settle_keeps hS.up
    | with_reducible apply hS.ite

theorem execDrainLeaveDone_keeps {P : Mod → Prop} (hS : Stable 0x47f90425c P) (st : State) (hm : P st.mod) : Keeps P st (execDrainLeaveDone st) := by
  unfold execDrainLeaveDone
  refine lift_keeps (fun m hm => ?_) st hm
  try dsimp only
  repeat' first
    | with_reducible assumption
    | with_reducible apply Mod.startEnd_keeps hS.up
    | with_reducible apply Mod.settle_keeps hS.up
    | with_reducible apply hS.ite

theorem execDrainEnd_keeps {P : Mod → Prop} (hS : Stable 0x76100437f P) (st : State) (hm : P st.mod) : Keeps P st (execDrainEnd st) := by
  unfold execDrainEnd
  refine lift_keeps (fun m hm => ?_) st hm
  try dsimp only
  repeat' first | with_reducible assumption | with_reducible apply Mod.drainEnds_keeps hS.up | with_reducible apply hS.ite

theorem execDrainBoundExpiry_keeps {P : Mod → Prop} (hS : Stable 0x4ff91565d P) (st : State) (hm : P st.mod) : Keeps P st (execDrainBoundExpiry st) := by
  unfold execDrainBoundExpiry
  refine lift_keeps (fun m hm => ?_) st hm
  try dsimp only
  repeat' first
    | with_reducible assumption
    | with_reducible apply Mod.drainBound_keeps hS.up
    | with_reducible apply Mod.settle_keeps hS.up
    | with_reducible apply Mod.advanceTo_keeps hS.up
    | with_reducible apply hS.ite

end Sys2Proof.Machine
end

