-- ==== Sys2Proof/Laws/KeepsMpu.lean ====
section
/-! SUPPORT. What each operation of Mpu.lean can do: it keeps every property stable under the updates of its mask. -/
namespace Sys2Proof.Machine
set_option Elab.async false

theorem execHubBusTransaction_keeps {P : Mod → Prop} (hS : Stable 0x6020001c P) (master : Fin 18) (priv : Fin 4) (k : BusKind) (addr : Nat) (size : Nat) (data : Nat) (st : State) (hm : P st.mod) : Keeps P st (execHubBusTransaction master priv k addr size data st) := by
  unfold execHubBusTransaction
  refine lift_keeps (fun m hm => ?_) st hm
  try dsimp only
  repeat' first
    | with_reducible assumption
    | with_reducible apply Mod.hubWrite_keeps hS.up
    | with_reducible apply Mod.faultTo_keeps hS.up
    | with_reducible apply Mod.violation_keeps hS.up
    | with_reducible apply Mod.tally_keeps hS.up
    | with_reducible apply hS.emit
    | with_reducible apply hS.ite
    | with_reducible apply OptP.map
    | split

end Sys2Proof.Machine
end

