-- ==== Sys2Proof/Laws/KeepsPower.lean ====
section
/-! SUPPORT. What each operation of Power.lean can do: it keeps every property stable under the updates of its mask. -/
namespace Sys2Proof.Machine
set_option Elab.async false

theorem execFeedPresent_keeps {P : Mod → Prop} (hS : Stable 0x6000002c P) (f : Feed) (mv : Nat) (st : State) (hm : P st.mod) : Keeps P st (execFeedPresent f mv st) := by
  unfold execFeedPresent
  refine lift_keeps (fun m hm => ?_) st hm
  try dsimp only
  repeat' first
    | with_reducible assumption
    | with_reducible apply Mod.vaoRise_keeps hS.up
    | with_reducible apply Mod.notePAvail_keeps hS.up
    | with_reducible apply Mod.startRamp_keeps hS.up
    | with_reducible apply Mod.powerEvent_keeps hS.up
    | with_reducible apply Mod.onFeed_keeps hS.up
    | with_reducible apply hS.onPw
    | with_reducible apply hS.ite

theorem execFeedAbsent_keeps {P : Mod → Prop} (hS : Stable 0x4000002c P) (f : Feed) (mv : Nat) (st : State) (hm : P st.mod) : Keeps P st (execFeedAbsent f mv st) := by
  unfold execFeedAbsent
  refine lift_keeps (fun m hm => ?_) st hm
  try dsimp only
  repeat' first
    | with_reducible assumption
    | with_reducible apply Mod.notePAvail_keeps hS.up
    | with_reducible apply Mod.pgCheck_keeps hS.up
    | with_reducible apply Mod.powerEvent_keeps hS.up
    | with_reducible apply Mod.onFeed_keeps hS.up
    | with_reducible apply hS.onPw
    | with_reducible apply hS.ite

theorem execFeedAbsentTimeout_keeps {P : Mod → Prop} (hS : Stable 0x21 P) (f : Feed) (st : State) (hm : P st.mod) : Keeps P st (execFeedAbsentTimeout f st) := by
  unfold execFeedAbsentTimeout
  refine lift_keeps (fun m hm => ?_) st hm
  try dsimp only
  repeat' first | with_reducible assumption | with_reducible apply Mod.onFeed_keeps hS.up | with_reducible apply Mod.advanceTo_keeps hS.up | split

theorem execFeedOvervoltage_keeps {P : Mod → Prop} (hS : Stable 0x4000002c P) (f : Feed) (mv : Nat) (st : State) (hm : P st.mod) : Keeps P st (execFeedOvervoltage f mv st) := by
  unfold execFeedOvervoltage
  refine lift_keeps (fun m hm => ?_) st hm
  try dsimp only
  repeat' first
    | with_reducible assumption
    | with_reducible apply Mod.notePAvail_keeps hS.up
    | with_reducible apply Mod.onFeed_keeps hS.up
    | with_reducible apply Mod.pgCheck_keeps hS.up
    | with_reducible apply Mod.powerEvent_keeps hS.up
    | with_reducible apply hS.ite

theorem execFeedOvervoltageRelease_keeps {P : Mod → Prop} (hS : Stable 0x4000002c P) (f : Feed) (mv : Nat) (st : State) (hm : P st.mod) : Keeps P st (execFeedOvervoltageRelease f mv st) := by
  unfold execFeedOvervoltageRelease
  refine lift_keeps (fun m hm => ?_) st hm
  try dsimp only
  repeat' first
    | with_reducible assumption
    | with_reducible apply Mod.notePAvail_keeps hS.up
    | with_reducible apply Mod.onFeed_keeps hS.up
    | with_reducible apply Mod.powerEvent_keeps hS.up
    | with_reducible apply Mod.startRamp_keeps hS.up
    | with_reducible apply hS.ite

theorem execOringReverseOff_keeps {P : Mod → Prop} (hS : Stable 0x4000002c P) (f : Feed) (vbus : Nat) (st : State) (hm : P st.mod) : Keeps P st (execOringReverseOff f vbus st) := by
  unfold execOringReverseOff
  refine lift_keeps (fun m hm => ?_) st hm
  try dsimp only
  repeat' first
    | with_reducible assumption
    | with_reducible apply Mod.notePAvail_keeps hS.up
    | with_reducible apply Mod.onFeed_keeps hS.up
    | with_reducible apply Mod.pgCheck_keeps hS.up
    | with_reducible apply Mod.powerEvent_keeps hS.up
    | with_reducible apply hS.onPw
    | with_reducible apply hS.ite

theorem execOringConduct_keeps {P : Mod → Prop} (hS : Stable 0x4000002c P) (f : Feed) (mv : Nat) (st : State) (hm : P st.mod) : Keeps P st (execOringConduct f mv st) := by
  unfold execOringConduct
  refine lift_keeps (fun m hm => ?_) st hm
  try dsimp only
  repeat' first
    | with_reducible assumption
    | with_reducible apply Mod.onFeed_keeps hS.up
    | with_reducible apply Mod.pgCheck_keeps hS.up
    | with_reducible apply hS.ite

theorem execInrushRampEnd_keeps {P : Mod → Prop} (hS : Stable 0x4000002c P) (f : Feed) (vbus : Nat) (st : State) (hm : P st.mod) : Keeps P st (execInrushRampEnd f vbus st) := by
  unfold execInrushRampEnd
  refine lift_keeps (fun m hm => ?_) st hm
  try dsimp only
  repeat' first
    | with_reducible assumption
    | with_reducible apply Mod.fullEnhance_keeps hS.up
    | with_reducible apply Mod.notePAvail_keeps hS.up
    | with_reducible apply Mod.pgCheck_keeps hS.up
    | with_reducible apply hS.onPw
    | with_reducible apply hS.ite

theorem execInrushTimeout_keeps {P : Mod → Prop} (hS : Stable 0x4000003d P) (f : Feed) (st : State) (hm : P st.mod) : Keeps P st (execInrushTimeout f st) := by
  unfold execInrushTimeout
  refine lift_keeps (fun m hm => ?_) st hm
  try dsimp only
  repeat' first
    | with_reducible assumption
    | with_reducible apply Mod.notePAvail_keeps hS.up
    | with_reducible apply Mod.trip_keeps hS.up
    | with_reducible apply Mod.advanceTo_keeps hS.up
    | split

theorem execLimitRegulationStart_keeps {P : Mod → Prop} (hS : Stable 0x20 P) (l : Fin 3) (st : State) (hm : P st.mod) : Keeps P st (execLimitRegulationStart l st) := by
  unfold execLimitRegulationStart
  refine lift_keeps (fun m hm => ?_) st hm
  try dsimp only
  repeat' first
    | with_reducible assumption
    | with_reducible apply Mod.onFeed_keeps hS.up
    | with_reducible apply hS.onPw
    | with_reducible apply hS.ite

theorem execFaultTimerReset_keeps {P : Mod → Prop} (hS : Stable 0x21 P) (st : State) (hm : P st.mod) : Keeps P st (execFaultTimerReset st) := by
  unfold execFaultTimerReset
  refine lift_keeps (fun m hm => ?_) st hm
  try dsimp only
  repeat' first | with_reducible assumption | with_reducible apply hS.onPw | with_reducible apply hS.advance | with_reducible apply hS.ite

theorem execSlowTrip_keeps {P : Mod → Prop} (hS : Stable 0x4000003d P) (st : State) (hm : P st.mod) : Keeps P st (execSlowTrip st) := by
  unfold execSlowTrip
  refine lift_keeps (fun m hm => ?_) st hm
  try dsimp only
  repeat' first
    | with_reducible assumption
    | with_reducible apply Mod.notePAvail_keeps hS.up
    | with_reducible apply Mod.trip_keeps hS.up
    | with_reducible apply Mod.powerEvent_keeps hS.up
    | with_reducible apply Mod.advanceTo_keeps hS.up
    | with_reducible apply hS.onPw
    | with_reducible apply hS.ite
    | split

theorem execFastTrip_keeps {P : Mod → Prop} (hS : Stable 0x4000003c P) (l : Fin 3) (st : State) (hm : P st.mod) : Keeps P st (execFastTrip l st) := by
  unfold execFastTrip
  refine lift_keeps (fun m hm => ?_) st hm
  try dsimp only
  repeat' first
    | with_reducible assumption
    | with_reducible apply Mod.notePAvail_keeps hS.up
    | with_reducible apply Mod.trip_keeps hS.up
    | with_reducible apply hS.onPw
    | with_reducible apply hS.ite

theorem execFetOvertempTrip_keeps {P : Mod → Prop} (hS : Stable 0x4000003c P) (f : Feed) (st : State) (hm : P st.mod) : Keeps P st (execFetOvertempTrip f st) := by
  unfold execFetOvertempTrip
  refine lift_keeps (fun m hm => ?_) st hm
  try dsimp only
  repeat' first
    | with_reducible assumption
    | with_reducible apply Mod.notePAvail_keeps hS.up
    | with_reducible apply Mod.trip_keeps hS.up
    | with_reducible apply Mod.onFeed_keeps hS.up
    | with_reducible apply hS.ite

theorem execGateCheckFail_keeps {P : Mod → Prop} (hS : Stable 0x4000003d P) (f : Feed) (st : State) (hm : P st.mod) : Keeps P st (execGateCheckFail f st) := by
  unfold execGateCheckFail
  refine lift_keeps (fun m hm => ?_) st hm
  try dsimp only
  repeat' first
    | with_reducible assumption
    | with_reducible apply Mod.notePAvail_keeps hS.up
    | with_reducible apply Mod.trip_keeps hS.up
    | with_reducible apply Mod.advanceTo_keeps hS.up
    | split

theorem execVdsHighTrip_keeps {P : Mod → Prop} (hS : Stable 0x4000003d P) (f : Feed) (st : State) (hm : P st.mod) : Keeps P st (execVdsHighTrip f st) := by
  unfold execVdsHighTrip
  refine lift_keeps (fun m hm => ?_) st hm
  try dsimp only
  repeat' first
    | with_reducible assumption
    | with_reducible apply Mod.notePAvail_keeps hS.up
    | with_reducible apply Mod.trip_keeps hS.up
    | with_reducible apply hS.advance
    | with_reducible apply hS.ite

theorem execFetShortDetect_keeps {P : Mod → Prop} (hS : Stable 0x4000002d P) (f : Feed) (st : State) (hm : P st.mod) : Keeps P st (execFetShortDetect f st) := by
  unfold execFetShortDetect
  refine lift_keeps (fun m hm => ?_) st hm
  try dsimp only
  repeat' first
    | with_reducible assumption
    | with_reducible apply Mod.powerEvent_keeps hS.up
    | with_reducible apply Mod.onFeed_keeps hS.up
    | with_reducible apply hS.advance
    | with_reducible apply hS.ite

theorem execLimitLowerApply_keeps {P : Mod → Prop} (hS : Stable 0x21 P) (l : Fin 3) (st : State) (hm : P st.mod) : Keeps P st (execLimitLowerApply l st) := by
  unfold execLimitLowerApply
  refine lift_keeps (fun m hm => ?_) st hm
  try dsimp only
  repeat' first
    | with_reducible assumption
    | with_reducible apply Mod.onFeed_keeps hS.up
    | with_reducible apply Mod.advanceTo_keeps hS.up
    | with_reducible apply hS.onPw
    | with_reducible apply hS.ite
    | split

theorem execCooldownEnd_keeps {P : Mod → Prop} (hS : Stable 0x21 P) (f : Feed) (temp : Int) (st : State) (hm : P st.mod) : Keeps P st (execCooldownEnd f temp st) := by
  unfold execCooldownEnd
  refine lift_keeps (fun m hm => ?_) st hm
  try dsimp only
  repeat' first
    | with_reducible assumption
    | with_reducible apply Mod.notePAvail_keeps hS.up
    | with_reducible apply Mod.startRamp_keeps hS.up
    | with_reducible apply Mod.onFeed_keeps hS.up
    | with_reducible apply Mod.advanceTo_keeps hS.up
    | with_reducible apply hS.ite
    | split

theorem execTelemetrySample_keeps {P : Mod → Prop} (hS : Stable 0x4000002d P) (va : Nat) (ia : Nat) (vb : Nat) (ib : Nat) (vbus : Nat) (ta : Int) (tb : Int) (st : State) (hm : P st.mod) : Keeps P st (execTelemetrySample va ia vb ib vbus ta tb st) := by
  unfold execTelemetrySample
  refine lift_keeps (fun m hm => ?_) st hm
  try dsimp only
  repeat' first
    | with_reducible assumption
    | with_reducible apply Mod.notePAvail_keeps hS.up
    | with_reducible apply Mod.pgCheck_keeps hS.up
    | with_reducible apply hS.onPw
    | with_reducible apply hS.advance
    | with_reducible apply hS.ite

end Sys2Proof.Machine
end

