-- ==== Sys2Proof/Laws/KeepsSecurity.lean ====
section
/-! SUPPORT. What each operation of Security.lean can do: it keeps every property stable under the updates of its mask. -/
namespace Sys2Proof.Machine
set_option Elab.async false

theorem execChallengeRead_keeps {P : Mod → Prop} (hS : Stable 0x7ffdf7fff P) (src : Source) (st : State) (hm : P st.mod) : Keeps P st (execChallengeRead src st) := by
  unfold execChallengeRead
  refine lift_keeps (fun m hm => ?_) st hm
  try dsimp only
  repeat' first | with_reducible assumption | with_reducible apply Mod.readRow_keeps hS.up

theorem execTokenPresent_keeps {P : Mod → Prop} (hS : Stable 0x7ffdf7fff P) (src : Source) (len : Fin 65536) (st : State) (hm : P st.mod) : Keeps P st (execTokenPresent src len st) := by
  unfold execTokenPresent
  refine lift_keeps (fun m hm => ?_) st hm
  try dsimp only
  repeat' first | with_reducible assumption | with_reducible apply Mod.writeRow_keeps hS.up

theorem execTokenLapse_keeps {P : Mod → Prop} (hS : Stable 0x100000001 P) (sess : Nat) (st : State) (hm : P st.mod) : Keeps P st (execTokenLapse sess st) := by
  unfold execTokenLapse
  refine lift_keeps (fun m hm => ?_) st hm
  try dsimp only
  repeat' first
    | with_reducible assumption
    | with_reducible apply Mod.advanceTo_keeps hS.up
    | with_reducible refine hS.onSeN ?_ (fun _ => by constructor <;> with_reducible_and_instances rfl)
    | split

theorem execAttestationNonce_keeps {P : Mod → Prop} (hS : Stable 0x7ffdf7fff P) (src : Source) (nonce : Nat) (st : State) (hm : P st.mod) : Keeps P st (execAttestationNonce src nonce st) := by
  unfold execAttestationNonce
  refine lift_keeps (fun m hm => ?_) st hm
  try dsimp only
  repeat' first | with_reducible assumption | with_reducible apply Mod.writeRow_keeps hS.up

theorem execKeySlotEnrol_keeps {P : Mod → Prop} (hS : Stable 0x7ffdf7fff P) (src : Source) (k : Fin 8) (rights : Fin 256) (stored : Bool) (st : State) (hm : P st.mod) : Keeps P st (execKeySlotEnrol src k rights stored st) := by
  unfold execKeySlotEnrol
  refine lift_keeps (fun m hm => ?_) st hm
  try dsimp only
  repeat' first | with_reducible assumption | with_reducible apply Mod.writeRow_keeps hS.up

theorem execKeySlotRevoke_keeps {P : Mod → Prop} (hS : Stable 0x7ffdf7fff P) (src : Source) (k : Fin 8) (stored : Bool) (st : State) (hm : P st.mod) : Keeps P st (execKeySlotRevoke src k stored st) := by
  unfold execKeySlotRevoke
  refine lift_keeps (fun m hm => ?_) st hm
  try dsimp only
  repeat' first | with_reducible assumption | with_reducible apply Mod.writeRow_keeps hS.up

theorem execKeySlotClear_keeps {P : Mod → Prop} (hS : Stable 0x7ffdf7fff P) (src : Source) (k : Fin 8) (stored : Bool) (st : State) (hm : P st.mod) : Keeps P st (execKeySlotClear src k stored st) := by
  unfold execKeySlotClear
  refine lift_keeps (fun m hm => ?_) st hm
  try dsimp only
  repeat' first | with_reducible assumption | with_reducible apply Mod.writeRow_keeps hS.up

theorem execLifecycleProvision_keeps {P : Mod → Prop} (hS : Stable 0x7ffdf7fff P) (src : Source) (st : State) (hm : P st.mod) : Keeps P st (execLifecycleProvision src st) := by
  unfold execLifecycleProvision
  refine lift_keeps (fun m hm => ?_) st hm
  try dsimp only
  repeat' first | with_reducible assumption | with_reducible apply Mod.writeRow_keeps hS.up

theorem execLifecycleProduction_keeps {P : Mod → Prop} (hS : Stable 0x7ffdf7fff P) (src : Source) (st : State) (hm : P st.mod) : Keeps P st (execLifecycleProduction src st) := by
  unfold execLifecycleProduction
  refine lift_keeps (fun m hm => ?_) st hm
  try dsimp only
  repeat' first | with_reducible assumption | with_reducible apply Mod.writeRow_keeps hS.up

theorem execLifecycleRma_keeps {P : Mod → Prop} (hS : Stable 0x7ffdf7fff P) (src : Source) (st : State) (hm : P st.mod) : Keeps P st (execLifecycleRma src st) := by
  unfold execLifecycleRma
  refine lift_keeps (fun m hm => ?_) st hm
  try dsimp only
  repeat' first | with_reducible assumption | with_reducible apply Mod.writeRow_keeps hS.up

theorem execLifecycleDecommission_keeps {P : Mod → Prop} (hS : Stable 0x7ffdf7fff P) (src : Source) (st : State) (hm : P st.mod) : Keeps P st (execLifecycleDecommission src st) := by
  unfold execLifecycleDecommission
  refine lift_keeps (fun m hm => ?_) st hm
  try dsimp only
  repeat' first | with_reducible assumption | with_reducible apply Mod.writeRow_keeps hS.up

theorem execDebugUnlock_keeps {P : Mod → Prop} (hS : Stable 0x7ffdf7fff P) (src : Source) (minutes : Fin 65536) (st : State) (hm : P st.mod) : Keeps P st (execDebugUnlock src minutes st) := by
  unfold execDebugUnlock
  refine lift_keeps (fun m hm => ?_) st hm
  try dsimp only
  repeat' first | with_reducible assumption | with_reducible apply Mod.writeRow_keeps hS.up

theorem execDebugExpiry_keeps {P : Mod → Prop} (hS : Stable 0x16000000d P) (st : State) (hm : P st.mod) : Keeps P st (execDebugExpiry st) := by
  unfold execDebugExpiry
  refine lift_keeps (fun m hm => ?_) st hm
  try dsimp only
  repeat' first
    | with_reducible assumption
    | with_reducible apply Mod.eraseDebug_keeps hS.up
    | with_reducible apply Mod.raise_keeps hS.up
    | with_reducible apply Mod.advanceTo_keeps hS.up
    | with_reducible apply hS.ite

theorem execStagingDataWrite_keeps {P : Mod → Prop} (hS : Stable 0x7ffdf7fff P) (src : Source) (data : Nat) (st : State) (hm : P st.mod) : Keeps P st (execStagingDataWrite src data st) := by
  unfold execStagingDataWrite
  refine lift_keeps (fun m hm => ?_) st hm
  try dsimp only
  repeat' first | with_reducible assumption | with_reducible apply Mod.writeRow_keeps hS.up

theorem execStagingCheck_keeps {P : Mod → Prop} (hS : Stable 0x7ffdf7fff P) (src : Source) (st : State) (hm : P st.mod) : Keeps P st (execStagingCheck src st) := by
  unfold execStagingCheck
  refine lift_keeps (fun m hm => ?_) st hm
  try dsimp only
  repeat' first | with_reducible assumption | with_reducible apply Mod.writeRow_keeps hS.up

theorem execStagingCheckDone_keeps {P : Mod → Prop} (hS : Stable 0x100000001 P) (st : State) (hm : P st.mod) : Keeps P st (execStagingCheckDone st) := by
  unfold execStagingCheckDone
  refine lift_keeps (fun m hm => ?_) st hm
  try dsimp only
  repeat' first
    | with_reducible assumption
    | with_reducible apply Mod.advanceTo_keeps hS.up
    | with_reducible refine hS.onSeN ?_ (fun _ => by constructor <;> with_reducible_and_instances rfl)
    | split

theorem execActivateLive_keeps {P : Mod → Prop} (hS : Stable 0x7ffdf7fff P) (src : Source) (st : State) (hm : P st.mod) : Keeps P st (execActivateLive src st) := by
  unfold execActivateLive
  refine lift_keeps (fun m hm => ?_) st hm
  try dsimp only
  repeat' first | with_reducible assumption | with_reducible apply Mod.writeRow_keeps hS.up

theorem execActivateReset_keeps {P : Mod → Prop} (hS : Stable 0x7ffdf7fff P) (src : Source) (st : State) (hm : P st.mod) : Keeps P st (execActivateReset src st) := by
  unfold execActivateReset
  refine lift_keeps (fun m hm => ?_) st hm
  try dsimp only
  repeat' first | with_reducible assumption | with_reducible apply Mod.writeRow_keeps hS.up

theorem execLiveActivationDone_keeps {P : Mod → Prop} (hS : Stable 0x16000004c P) (st : State) (hm : P st.mod) : Keeps P st (execLiveActivationDone st) := by
  unfold execLiveActivationDone
  refine lift_keeps (fun m hm => ?_) st hm
  try dsimp only
  repeat' first
    | with_reducible assumption
    | with_reducible apply Mod.setMrdy_keeps hS.up
    | with_reducible apply Mod.raise_keeps hS.up
    | with_reducible refine hS.onSeN ?_ (fun _ => by constructor <;> with_reducible_and_instances rfl)
    | with_reducible apply hS.onMd
    | with_reducible apply hS.ite

theorem execLiveActivationTimeout_keeps {P : Mod → Prop} (hS : Stable 0x5ff90567d P) (st : State) (hm : P st.mod) : Keeps P st (execLiveActivationTimeout st) := by
  unfold execLiveActivationTimeout
  refine lift_keeps (fun m hm => ?_) st hm
  try dsimp only
  repeat' first
    | with_reducible assumption
    | with_reducible apply Mod.settle_keeps hS.up
    | with_reducible apply Mod.fatalHub_keeps hS.up
    | with_reducible apply Mod.raise_keeps hS.up
    | with_reducible apply Mod.advanceTo_keeps hS.up
    | with_reducible refine hS.onSeN ?_ (fun _ => by constructor <;> with_reducible_and_instances rfl)
    | with_reducible apply hS.ite
    | split

theorem execCommitImages_keeps {P : Mod → Prop} (hS : Stable 0x7ffdf7fff P) (src : Source) (st : State) (hm : P st.mod) : Keeps P st (execCommitImages src st) := by
  unfold execCommitImages
  refine lift_keeps (fun m hm => ?_) st hm
  try dsimp only
  repeat' first | with_reducible assumption | with_reducible apply Mod.writeRow_keeps hS.up

end Sys2Proof.Machine
end

