-- ==== Sys2Proof/Laws/KeepsTap.lean ====
section
/-! SUPPORT. What each operation of Tap.lean can do: it keeps every property stable under the updates of its mask. -/
namespace Sys2Proof.Machine
set_option Elab.async false

theorem execStrapSample_keeps {P : Mod → Prop} (hS : Stable 0x4001 P) (slot : Fin 32) (st : State) (hm : P st.mod) : Keeps P st (execStrapSample slot st) := by
  unfold execStrapSample
  refine lift_keeps (fun m hm => ?_) st hm
  try dsimp only
  repeat' first
    | with_reducible assumption
    | with_reducible apply Mod.advanceTo_keeps hS.up
    | with_reducible apply hS.onDi
    | with_reducible apply hS.ite

theorem Mod.tapBypass_keeps {P : Mod → Prop} (hS : Stable 0x8004 P) {m : Mod} (hm : P m) :
    P (Mod.tapBypass m) := by
  unfold Mod.tapBypass
  try dsimp only
  repeat' first | with_reducible assumption | with_reducible apply hS.onTp | with_reducible apply hS.emit

theorem Mod.tapDrive_keeps {P : Mod → Prop} (hS : Stable 0x8004 P) {m : Mod} (hm : P m) (i : TapInstr) (cells : Option (Nat × Nat)) :
    P (Mod.tapDrive m i cells) := by
  unfold Mod.tapDrive
  try dsimp only
  repeat' first
    | with_reducible assumption
    | with_reducible apply Mod.tapBypass_keeps hS.up
    | with_reducible apply hS.onTp
    | with_reducible apply hS.emit
    | with_reducible apply hS.ite
    | split

theorem execTapExtest_keeps {P : Mod → Prop} (hS : Stable 0x8004 P) (pins : Nat) (data : Nat) (st : State) (hm : P st.mod) : Keeps P st (execTapExtest pins data st) := by
  unfold execTapExtest
  refine lift_keeps (fun m hm => ?_) st hm
  try dsimp only
  repeat' first | with_reducible assumption | with_reducible apply Mod.tapDrive_keeps hS.up

theorem execTapExtestPulse_keeps {P : Mod → Prop} (hS : Stable 0x8004 P) (pins : Nat) (data : Nat) (st : State) (hm : P st.mod) : Keeps P st (execTapExtestPulse pins data st) := by
  unfold execTapExtestPulse
  refine lift_keeps (fun m hm => ?_) st hm
  try dsimp only
  repeat' first | with_reducible assumption | with_reducible apply Mod.tapDrive_keeps hS.up

theorem execTapExtestTrain_keeps {P : Mod → Prop} (hS : Stable 0x8004 P) (pins : Nat) (data : Nat) (st : State) (hm : P st.mod) : Keeps P st (execTapExtestTrain pins data st) := by
  unfold execTapExtestTrain
  refine lift_keeps (fun m hm => ?_) st hm
  try dsimp only
  repeat' first | with_reducible assumption | with_reducible apply Mod.tapDrive_keeps hS.up

theorem execTapClamp_keeps {P : Mod → Prop} (hS : Stable 0x8004 P) (st : State) (hm : P st.mod) : Keeps P st (execTapClamp st) := by
  unfold execTapClamp
  refine lift_keeps (fun m hm => ?_) st hm
  try dsimp only
  repeat' first | with_reducible assumption | with_reducible apply Mod.tapDrive_keeps hS.up

theorem execTapHighz_keeps {P : Mod → Prop} (hS : Stable 0x8004 P) (st : State) (hm : P st.mod) : Keeps P st (execTapHighz st) := by
  unfold execTapHighz
  refine lift_keeps (fun m hm => ?_) st hm
  try dsimp only
  repeat' first | with_reducible assumption | with_reducible apply Mod.tapDrive_keeps hS.up

theorem execTapIdcode_keeps {P : Mod → Prop} (hS : Stable 0x8004 P) (st : State) (hm : P st.mod) : Keeps P st (execTapIdcode st) := by
  unfold execTapIdcode
  refine lift_keeps (fun m hm => ?_) st hm
  try dsimp only
  repeat' first | with_reducible assumption | with_reducible apply hS.onTp | with_reducible apply hS.emit | with_reducible apply hS.ite

theorem execTapSamplePreload_keeps {P : Mod → Prop} (hS : Stable 0x8004 P) (pins : Nat) (data : Nat) (st : State) (hm : P st.mod) : Keeps P st (execTapSamplePreload pins data st) := by
  unfold execTapSamplePreload
  refine lift_keeps (fun m hm => ?_) st hm
  try dsimp only
  repeat' first
    | with_reducible assumption
    | with_reducible apply Mod.tapBypass_keeps hS.up
    | with_reducible apply hS.onTp
    | with_reducible apply hS.emit
    | with_reducible apply hS.ite

theorem execTapDebug_keeps {P : Mod → Prop} (hS : Stable 0x8004 P) (st : State) (hm : P st.mod) : Keeps P st (execTapDebug st) := by
  unfold execTapDebug
  refine lift_keeps (fun m hm => ?_) st hm
  try dsimp only
  repeat' first
    | with_reducible assumption
    | with_reducible apply Mod.tapBypass_keeps hS.up
    | with_reducible apply hS.onTp
    | with_reducible apply hS.ite

theorem execTapBypass_keeps {P : Mod → Prop} (hS : Stable 0x8004 P) (st : State) (hm : P st.mod) : Keeps P st (execTapBypass st) := by
  unfold execTapBypass
  refine lift_keeps (fun m hm => ?_) st hm
  try dsimp only
  repeat' first | with_reducible assumption | with_reducible apply Mod.tapBypass_keeps hS.up | with_reducible apply hS.ite

theorem execTapReset_keeps {P : Mod → Prop} (hS : Stable 0x8000 P) (st : State) (hm : P st.mod) : Keeps P st (execTapReset st) := by
  unfold execTapReset
  refine lift_keeps (fun m hm => ?_) st hm
  try dsimp only
  repeat' first | with_reducible assumption | with_reducible apply hS.onTp

end Sys2Proof.Machine
end

