-- ==== Sys2Proof/Laws/KeepsWriteRows.lean ====
section
/-! SUPPORT. What each operation of WriteRows.lean can do: it keeps every property stable under the updates of its mask. -/
namespace Sys2Proof.Machine
set_option Elab.async false

theorem execModeRequestOff_keeps {P : Mod → Prop} (hS : Stable 0x7ffdf7fff P) (src : Source) (st : State) (hm : P st.mod) : Keeps P st (execModeRequestOff src st) := by
  unfold execModeRequestOff
  refine lift_keeps (fun m hm => ?_) st hm
  try dsimp only
  repeat' first | with_reducible assumption | with_reducible apply Mod.writeRow_keeps hS.up

theorem execModeRequestStandby_keeps {P : Mod → Prop} (hS : Stable 0x7ffdf7fff P) (src : Source) (st : State) (hm : P st.mod) : Keeps P st (execModeRequestStandby src st) := by
  unfold execModeRequestStandby
  refine lift_keeps (fun m hm => ?_) st hm
  try dsimp only
  repeat' first | with_reducible assumption | with_reducible apply Mod.writeRow_keeps hS.up

theorem execModeRequestBoot_keeps {P : Mod → Prop} (hS : Stable 0x7ffdf7fff P) (src : Source) (st : State) (hm : P st.mod) : Keeps P st (execModeRequestBoot src st) := by
  unfold execModeRequestBoot
  refine lift_keeps (fun m hm => ?_) st hm
  try dsimp only
  repeat' first | with_reducible assumption | with_reducible apply Mod.writeRow_keeps hS.up

theorem execModeRequestConfigure_keeps {P : Mod → Prop} (hS : Stable 0x7ffdf7fff P) (src : Source) (st : State) (hm : P st.mod) : Keeps P st (execModeRequestConfigure src st) := by
  unfold execModeRequestConfigure
  refine lift_keeps (fun m hm => ?_) st hm
  try dsimp only
  repeat' first | with_reducible assumption | with_reducible apply Mod.writeRow_keeps hS.up

theorem execModeRequestOperate_keeps {P : Mod → Prop} (hS : Stable 0x7ffdf7fff P) (src : Source) (st : State) (hm : P st.mod) : Keeps P st (execModeRequestOperate src st) := by
  unfold execModeRequestOperate
  refine lift_keeps (fun m hm => ?_) st hm
  try dsimp only
  repeat' first | with_reducible assumption | with_reducible apply Mod.writeRow_keeps hS.up

theorem execModeRequestCapped_keeps {P : Mod → Prop} (hS : Stable 0x7ffdf7fff P) (src : Source) (st : State) (hm : P st.mod) : Keeps P st (execModeRequestCapped src st) := by
  unfold execModeRequestCapped
  refine lift_keeps (fun m hm => ?_) st hm
  try dsimp only
  repeat' first | with_reducible assumption | with_reducible apply Mod.writeRow_keeps hS.up

theorem execFenceEntrySet_keeps {P : Mod → Prop} (hS : Stable 0x7ffdf7fff P) (src : Source) (e : Fin 64) (u : UnitId) (stored : Bool) (st : State) (hm : P st.mod) : Keeps P st (execFenceEntrySet src e u stored st) := by
  unfold execFenceEntrySet
  refine lift_keeps (fun m hm => ?_) st hm
  try dsimp only
  repeat' first | with_reducible assumption | with_reducible apply Mod.writeRow_keeps hS.up

theorem execFenceEntryClear_keeps {P : Mod → Prop} (hS : Stable 0x7ffdf7fff P) (src : Source) (e : Fin 64) (stored : Bool) (st : State) (hm : P st.mod) : Keeps P st (execFenceEntryClear src e stored st) := by
  unfold execFenceEntryClear
  refine lift_keeps (fun m hm => ?_) st hm
  try dsimp only
  repeat' first | with_reducible assumption | with_reducible apply Mod.writeRow_keeps hS.up

theorem execClearTrip_keeps {P : Mod → Prop} (hS : Stable 0x7ffdf7fff P) (src : Source) (v : Fin 256) (st : State) (hm : P st.mod) : Keeps P st (execClearTrip src v st) := by
  unfold execClearTrip
  refine lift_keeps (fun m hm => ?_) st hm
  try dsimp only
  repeat' first | with_reducible assumption | with_reducible apply Mod.writeRow_keeps hS.up

theorem execClearEnergy_keeps {P : Mod → Prop} (hS : Stable 0x7ffdf7fff P) (src : Source) (v : Fin 256) (st : State) (hm : P st.mod) : Keeps P st (execClearEnergy src v st) := by
  unfold execClearEnergy
  refine lift_keeps (fun m hm => ?_) st hm
  try dsimp only
  repeat' first | with_reducible assumption | with_reducible apply Mod.writeRow_keeps hS.up

theorem Mod.testRow_keeps {P : Mod → Prop} (hS : Stable 0x7ffdf7fff P) {m : Mod} (hm : P m) (src : Source) (l : Nat) (mode : Nat) (v : Nat) :
    P (Mod.testRow m src l mode v) := by
  unfold Mod.testRow
  try dsimp only
  repeat' first | with_reducible assumption | with_reducible apply Mod.writeRow_keeps hS.up

theorem execTestOff_keeps {P : Mod → Prop} (hS : Stable 0x7ffdf7fff P) (src : Source) (l : Lane) (v : Nat) (st : State) (hm : P st.mod) : Keeps P st (execTestOff src l v st) := by
  unfold execTestOff
  refine lift_keeps (fun m hm => ?_) st hm
  try dsimp only
  repeat' first | with_reducible assumption | with_reducible apply Mod.testRow_keeps hS.up

theorem execTestGenerate_keeps {P : Mod → Prop} (hS : Stable 0x7ffdf7fff P) (src : Source) (l : Lane) (v : Nat) (st : State) (hm : P st.mod) : Keeps P st (execTestGenerate src l v st) := by
  unfold execTestGenerate
  refine lift_keeps (fun m hm => ?_) st hm
  try dsimp only
  repeat' first | with_reducible assumption | with_reducible apply Mod.testRow_keeps hS.up

theorem execTestCheck_keeps {P : Mod → Prop} (hS : Stable 0x7ffdf7fff P) (src : Source) (l : Lane) (v : Nat) (st : State) (hm : P st.mod) : Keeps P st (execTestCheck src l v st) := by
  unfold execTestCheck
  refine lift_keeps (fun m hm => ?_) st hm
  try dsimp only
  repeat' first | with_reducible assumption | with_reducible apply Mod.testRow_keeps hS.up

theorem execTestGenerateCheck_keeps {P : Mod → Prop} (hS : Stable 0x7ffdf7fff P) (src : Source) (l : Lane) (v : Nat) (st : State) (hm : P st.mod) : Keeps P st (execTestGenerateCheck src l v st) := by
  unfold execTestGenerateCheck
  refine lift_keeps (fun m hm => ?_) st hm
  try dsimp only
  repeat' first | with_reducible assumption | with_reducible apply Mod.testRow_keeps hS.up

theorem execTestCompliance_keeps {P : Mod → Prop} (hS : Stable 0x7ffdf7fff P) (src : Source) (l : Lane) (v : Nat) (st : State) (hm : P st.mod) : Keeps P st (execTestCompliance src l v st) := by
  unfold execTestCompliance
  refine lift_keeps (fun m hm => ?_) st hm
  try dsimp only
  repeat' first | with_reducible assumption | with_reducible apply Mod.testRow_keeps hS.up

theorem execTimingMargin_keeps {P : Mod → Prop} (hS : Stable 0x7ffdf7fff P) (src : Source) (l : Lane) (v : Nat) (st : State) (hm : P st.mod) : Keeps P st (execTimingMargin src l v st) := by
  unfold execTimingMargin
  refine lift_keeps (fun m hm => ?_) st hm
  try dsimp only
  repeat' first | with_reducible assumption | with_reducible apply Mod.testRow_keeps hS.up

theorem execVoltageMargin_keeps {P : Mod → Prop} (hS : Stable 0x7ffdf7fff P) (src : Source) (l : Lane) (v : Nat) (st : State) (hm : P st.mod) : Keeps P st (execVoltageMargin src l v st) := by
  unfold execVoltageMargin
  refine lift_keeps (fun m hm => ?_) st hm
  try dsimp only
  repeat' first | with_reducible assumption | with_reducible apply Mod.testRow_keeps hS.up

theorem execTestCountClear_keeps {P : Mod → Prop} (hS : Stable 0x7ffdf7fff P) (src : Source) (l : Lane) (st : State) (hm : P st.mod) : Keeps P st (execTestCountClear src l st) := by
  unfold execTestCountClear
  refine lift_keeps (fun m hm => ?_) st hm
  try dsimp only
  repeat' first | with_reducible assumption | with_reducible apply Mod.writeRow_keeps hS.up

theorem execPortRoleWrite_keeps {P : Mod → Prop} (hS : Stable 0x7ffdf7fff P) (src : Source) (p : EdgePort) (v : Fin 256) (stored : Bool) (st : State) (hm : P st.mod) : Keeps P st (execPortRoleWrite src p v stored st) := by
  unfold execPortRoleWrite
  refine lift_keeps (fun m hm => ?_) st hm
  try dsimp only
  repeat' first | with_reducible assumption | with_reducible apply Mod.writeRow_keeps hS.up

theorem execPortEnableWrite_keeps {P : Mod → Prop} (hS : Stable 0x7ffdf7fff P) (src : Source) (p : EdgePort) (on : Bool) (stored : Bool) (st : State) (hm : P st.mod) : Keeps P st (execPortEnableWrite src p on stored st) := by
  unfold execPortEnableWrite
  refine lift_keeps (fun m hm => ?_) st hm
  try dsimp only
  repeat' first | with_reducible assumption | with_reducible apply Mod.writeRow_keeps hS.up

theorem execBindingWrite_keeps {P : Mod → Prop} (hS : Stable 0x7ffdf7fff P) (src : Source) (p : EdgePort) (v : Fin 65536) (far : Far) (stored : Bool) (st : State) (hm : P st.mod) : Keeps P st (execBindingWrite src p v far stored st) := by
  unfold execBindingWrite
  refine lift_keeps (fun m hm => ?_) st hm
  try dsimp only
  repeat' first
    | with_reducible assumption
    | with_reducible apply Mod.writeRow_keeps hS.up
    | with_reducible apply Mod.onVppb_keeps hS.up
    | with_reducible apply Mod.onEdge_keeps hS.up
    | with_reducible apply hS.ite
    | split

theorem execUnbindWrite_keeps {P : Mod → Prop} (hS : Stable 0x7ffdf7fff P) (src : Source) (p : EdgePort) (far : Far) (stored : Bool) (st : State) (hm : P st.mod) : Keeps P st (execUnbindWrite src p far stored st) := by
  unfold execUnbindWrite
  refine lift_keeps (fun m hm => ?_) st hm
  try dsimp only
  repeat' first
    | with_reducible assumption
    | with_reducible apply Mod.linkActive_keeps hS.up
    | with_reducible apply Mod.writeRow_keeps hS.up
    | with_reducible apply Mod.onVppb_keeps hS.up
    | with_reducible apply hS.each
    | with_reducible apply OptP.map
    | with_reducible apply PairP.mk
    | split
    | intro _ _ hm

theorem execLinkRetire_keeps {P : Mod → Prop} (hS : Stable 0x7ffdf7fff P) (src : Source) (n : FabPort) (stored : Bool) (st : State) (hm : P st.mod) : Keeps P st (execLinkRetire src n stored st) := by
  unfold execLinkRetire
  refine lift_keeps (fun m hm => ?_) st hm
  try dsimp only
  repeat' first | with_reducible assumption | with_reducible apply Mod.writeRow_keeps hS.up

theorem execLinkUnretire_keeps {P : Mod → Prop} (hS : Stable 0x7ffdf7fff P) (src : Source) (n : FabPort) (stored : Bool) (st : State) (hm : P st.mod) : Keeps P st (execLinkUnretire src n stored st) := by
  unfold execLinkUnretire
  refine lift_keeps (fun m hm => ?_) st hm
  try dsimp only
  repeat' first | with_reducible assumption | with_reducible apply Mod.writeRow_keeps hS.up

theorem execLinkRetrainRequest_keeps {P : Mod → Prop} (hS : Stable 0x7ffdf7fff P) (src : Source) (n : FabPort) (st : State) (hm : P st.mod) : Keeps P st (execLinkRetrainRequest src n st) := by
  unfold execLinkRetrainRequest
  refine lift_keeps (fun m hm => ?_) st hm
  try dsimp only
  repeat' first | with_reducible assumption | with_reducible apply Mod.writeRow_keeps hS.up

theorem execTimeSet_keeps {P : Mod → Prop} (hS : Stable 0x7ffdf7fff P) (src : Source) (v : Nat) (st : State) (hm : P st.mod) : Keeps P st (execTimeSet src v st) := by
  unfold execTimeSet
  refine lift_keeps (fun m hm => ?_) st hm
  try dsimp only
  repeat' first | with_reducible assumption | with_reducible apply Mod.writeRow_keeps hS.up

theorem execExtentAddRequest_keeps {P : Mod → Prop} (hS : Stable 0x7ffdf7fff P) (src : Source) (e : Fin 4096) (v : Nat) (stored : Bool) (st : State) (hm : P st.mod) : Keeps P st (execExtentAddRequest src e v stored st) := by
  unfold execExtentAddRequest
  refine lift_keeps (fun m hm => ?_) st hm
  try dsimp only
  repeat' first | with_reducible assumption | with_reducible apply Mod.writeRow_keeps hS.up

theorem execExtentReleaseRequest_keeps {P : Mod → Prop} (hS : Stable 0x7ffdf7fff P) (src : Source) (e : Fin 4096) (stored : Bool) (st : State) (hm : P st.mod) : Keeps P st (execExtentReleaseRequest src e stored st) := by
  unfold execExtentReleaseRequest
  refine lift_keeps (fun m hm => ?_) st hm
  try dsimp only
  repeat' first | with_reducible assumption | with_reducible apply Mod.writeRow_keeps hS.up

theorem execExtentForce_keeps {P : Mod → Prop} (hS : Stable 0x7ffdf7fff P) (src : Source) (e : Fin 4096) (stored : Bool) (st : State) (hm : P st.mod) : Keeps P st (execExtentForce src e stored st) := by
  unfold execExtentForce
  refine lift_keeps (fun m hm => ?_) st hm
  try dsimp only
  repeat' first | with_reducible assumption | with_reducible apply Mod.writeRow_keeps hS.up

theorem execExtentClear_keeps {P : Mod → Prop} (hS : Stable 0x7ffdf7fff P) (src : Source) (e : Fin 4096) (stored : Bool) (st : State) (hm : P st.mod) : Keeps P st (execExtentClear src e stored st) := by
  unfold execExtentClear
  refine lift_keeps (fun m hm => ?_) st hm
  try dsimp only
  repeat' first | with_reducible assumption | with_reducible apply Mod.writeRow_keeps hS.up

theorem execBindOperation_keeps {P : Mod → Prop} (hS : Stable 0x7ffdf7fff P) (src : Source) (sw : Fin 4096) (desc : Fin 65536) (t : Tenant) (st : State) (hm : P st.mod) : Keeps P st (execBindOperation src sw desc t st) := by
  unfold execBindOperation
  refine lift_keeps (fun m hm => ?_) st hm
  try dsimp only
  repeat' first | with_reducible assumption | with_reducible apply Mod.writeRow_keeps hS.up

theorem execUnbindOperation_keeps {P : Mod → Prop} (hS : Stable 0x7ffdf7fff P) (src : Source) (sw : Fin 4096) (desc : Fin 65536) (t : Tenant) (st : State) (hm : P st.mod) : Keeps P st (execUnbindOperation src sw desc t st) := by
  unfold execUnbindOperation
  refine lift_keeps (fun m hm => ?_) st hm
  try dsimp only
  repeat' first | with_reducible assumption | with_reducible apply Mod.writeRow_keeps hS.up

theorem execTakeover_keeps {P : Mod → Prop} (hS : Stable 0x7ffdf7fff P) (src : Source) (lost : Fin 65536) (st : State) (hm : P st.mod) : Keeps P st (execTakeover src lost st) := by
  unfold execTakeover
  refine lift_keeps (fun m hm => ?_) st hm
  try dsimp only
  repeat' first | with_reducible assumption | with_reducible apply Mod.writeRow_keeps hS.up

theorem execServeWithoutPartner_keeps {P : Mod → Prop} (hS : Stable 0x7ffdf7fff P) (src : Source) (i : Fin 65536) (st : State) (hm : P st.mod) : Keeps P st (execServeWithoutPartner src i st) := by
  unfold execServeWithoutPartner
  refine lift_keeps (fun m hm => ?_) st hm
  try dsimp only
  repeat' first | with_reducible assumption | with_reducible apply Mod.writeRow_keeps hS.up

theorem execMigrationRequest_keeps {P : Mod → Prop} (hS : Stable 0x7ffdf7fff P) (src : Source) (i : Fin 65536) (dest : Fin 65536) (evac : Bool) (stored : Bool) (st : State) (hm : P st.mod) : Keeps P st (execMigrationRequest src i dest evac stored st) := by
  unfold execMigrationRequest
  refine lift_keeps (fun m hm => ?_) st hm
  try dsimp only
  repeat' first | with_reducible assumption | with_reducible apply Mod.writeRow_keeps hS.up

theorem execReinitAccept_keeps {P : Mod → Prop} (hS : Stable 0x7ffdf7fff P) (src : Source) (i : Fin 65536) (st : State) (hm : P st.mod) : Keeps P st (execReinitAccept src i st) := by
  unfold execReinitAccept
  refine lift_keeps (fun m hm => ?_) st hm
  try dsimp only
  repeat' first | with_reducible assumption | with_reducible apply Mod.writeRow_keeps hS.up

theorem execReinitZero_keeps {P : Mod → Prop} (hS : Stable 0x7ffdf7fff P) (src : Source) (i : Fin 65536) (st : State) (hm : P st.mod) : Keeps P st (execReinitZero src i st) := by
  unfold execReinitZero
  refine lift_keeps (fun m hm => ?_) st hm
  try dsimp only
  repeat' first | with_reducible assumption | with_reducible apply Mod.writeRow_keeps hS.up

theorem execFlushRequest_keeps {P : Mod → Prop} (hS : Stable 0x7ffdf7fff P) (src : Source) (desc : Fin 65536) (discard : Bool) (home : Fin 4096) (st : State) (hm : P st.mod) : Keeps P st (execFlushRequest src desc discard home st) := by
  unfold execFlushRequest
  refine lift_keeps (fun m hm => ?_) st hm
  try dsimp only
  repeat' first | with_reducible assumption | with_reducible apply Mod.writeRow_keeps hS.up

theorem execConfirmLostModule_keeps {P : Mod → Prop} (hS : Stable 0x7ffdf7fff P) (src : Source) (id : Fin 4096) (st : State) (hm : P st.mod) : Keeps P st (execConfirmLostModule src id st) := by
  unfold execConfirmLostModule
  refine lift_keeps (fun m hm => ?_) st hm
  try dsimp only
  repeat' first | with_reducible assumption | with_reducible apply Mod.writeRow_keeps hS.up

theorem execLostMessageReport_keeps {P : Mod → Prop} (hS : Stable 0x7ffdf7fff P) (src : Source) (v : Nat) (st : State) (hm : P st.mod) : Keeps P st (execLostMessageReport src v st) := by
  unfold execLostMessageReport
  refine lift_keeps (fun m hm => ?_) st hm
  try dsimp only
  repeat' first | with_reducible assumption | with_reducible apply Mod.writeRow_keeps hS.up

theorem execBackedVectorsWrite_keeps {P : Mod → Prop} (hS : Stable 0x7ffdf7fff P) (src : Source) (host : Bool) (n : VfSlot) (v : Fin 65536) (stored : Bool) (st : State) (hm : P st.mod) : Keeps P st (execBackedVectorsWrite src host n v stored st) := by
  unfold execBackedVectorsWrite
  refine lift_keeps (fun m hm => ?_) st hm
  try dsimp only
  repeat' first | with_reducible assumption | with_reducible apply Mod.writeRow_keeps hS.up

theorem execQpOwnerWrite_keeps {P : Mod → Prop} (hS : Stable 0x7ffdf7fff P) (src : Source) (q : Qp) (v : Fin 65536) (stored : Bool) (st : State) (hm : P st.mod) : Keeps P st (execQpOwnerWrite src q v stored st) := by
  unfold execQpOwnerWrite
  refine lift_keeps (fun m hm => ?_) st hm
  try dsimp only
  repeat' first | with_reducible assumption | with_reducible apply Mod.writeRow_keeps hS.up

theorem execQuiesceStart_keeps {P : Mod → Prop} (hS : Stable 0x7ffdf7fff P) (src : Source) (q : Qp) (st : State) (hm : P st.mod) : Keeps P st (execQuiesceStart src q st) := by
  unfold execQuiesceStart
  refine lift_keeps (fun m hm => ?_) st hm
  try dsimp only
  repeat' first | with_reducible assumption | with_reducible apply Mod.writeRow_keeps hS.up

theorem execQuiesceAbandon_keeps {P : Mod → Prop} (hS : Stable 0x7ffdf7fff P) (src : Source) (q : Qp) (st : State) (hm : P st.mod) : Keeps P st (execQuiesceAbandon src q st) := by
  unfold execQuiesceAbandon
  refine lift_keeps (fun m hm => ?_) st hm
  try dsimp only
  repeat' first | with_reducible assumption | with_reducible apply Mod.writeRow_keeps hS.up

theorem execQuiesceResume_keeps {P : Mod → Prop} (hS : Stable 0x7ffdf7fff P) (src : Source) (q : Qp) (st : State) (hm : P st.mod) : Keeps P st (execQuiesceResume src q st) := by
  unfold execQuiesceResume
  refine lift_keeps (fun m hm => ?_) st hm
  try dsimp only
  repeat' first | with_reducible assumption | with_reducible apply Mod.writeRow_keeps hS.up

theorem execVfAssignmentWrite_keeps {P : Mod → Prop} (hS : Stable 0x7ffdf7fff P) (src : Source) (n : VfSlot) (on : Bool) (v : Fin 64) (t : Tenant) (stored : Bool) (st : State) (hm : P st.mod) : Keeps P st (execVfAssignmentWrite src n on v t stored st) := by
  unfold execVfAssignmentWrite
  refine lift_keeps (fun m hm => ?_) st hm
  try dsimp only
  repeat' first | with_reducible assumption | with_reducible apply Mod.writeRow_keeps hS.up

theorem execMpuRecordClear_keeps {P : Mod → Prop} (hS : Stable 0x7ffdf7fff P) (src : Source) (st : State) (hm : P st.mod) : Keeps P st (execMpuRecordClear src st) := by
  unfold execMpuRecordClear
  refine lift_keeps (fun m hm => ?_) st hm
  try dsimp only
  repeat' first | with_reducible assumption | with_reducible apply Mod.writeRow_keeps hS.up

theorem execSlotEntryWrite_keeps {P : Mod → Prop} (hS : Stable 0x7ffdf7fff P) (src : Source) (slot : Fin 64) (v : Nat) (st : State) (hm : P st.mod) : Keeps P st (execSlotEntryWrite src slot v st) := by
  unfold execSlotEntryWrite
  refine lift_keeps (fun m hm => ?_) st hm
  try dsimp only
  repeat' first | with_reducible assumption | with_reducible apply Mod.writeRow_keeps hS.up

theorem execChainMaskWrite_keeps {P : Mod → Prop} (hS : Stable 0x7ffdf7fff P) (src : Source) (w : Fin 24) (v : Nat) (stored : Bool) (st : State) (hm : P st.mod) : Keeps P st (execChainMaskWrite src w v stored st) := by
  unfold execChainMaskWrite
  refine lift_keeps (fun m hm => ?_) st hm
  try dsimp only
  repeat' first | with_reducible assumption | with_reducible apply Mod.writeRow_keeps hS.up

theorem execWindowLengthWrite_keeps {P : Mod → Prop} (hS : Stable 0x7ffdf7fff P) (src : Source) (v : Nat) (stored : Bool) (st : State) (hm : P st.mod) : Keeps P st (execWindowLengthWrite src v stored st) := by
  unfold execWindowLengthWrite
  refine lift_keeps (fun m hm => ?_) st hm
  try dsimp only
  repeat' first | with_reducible assumption | with_reducible apply Mod.writeRow_keeps hS.up

theorem execEventAcknowledge_keeps {P : Mod → Prop} (hS : Stable 0x7ffdf7fff P) (src : Source) (seq : Nat) (st : State) (hm : P st.mod) : Keeps P st (execEventAcknowledge src seq st) := by
  unfold execEventAcknowledge
  refine lift_keeps (fun m hm => ?_) st hm
  try dsimp only
  repeat' first | with_reducible assumption | with_reducible apply Mod.writeRow_keeps hS.up

theorem execLostalertClear_keeps {P : Mod → Prop} (hS : Stable 0x7ffdf7fff P) (src : Source) (st : State) (hm : P st.mod) : Keeps P st (execLostalertClear src st) := by
  unfold execLostalertClear
  refine lift_keeps (fun m hm => ?_) st hm
  try dsimp only
  repeat' first | with_reducible assumption | with_reducible apply Mod.writeRow_keeps hS.up

end Sys2Proof.Machine
end

