-- ==== Sys2Proof/Laws/Parts.lean ====
section
/-! SUPPORT. The parts of the module that claims name, as properties the Keeps lemmas are used with. -/
namespace Sys2Proof.Machine
set_option Elab.async false

/-- The updates that leave a part as it is, by the numbers of `Stable`. -/
def partMask : Part → Nat
  | .time => 0x5fffffffe
  | .draws => 0x5fffffffd
  | .sent => 0x5fffffffb
  | .events => 0x5fffffff7
  | .counts => 0x5ffffffef
  | .power => 0x5ffffffdf
  | .mode => 0x5ffffffbf
  | .regions => 0x5ffffff7f
  | .lanes => 0x1fffffeff
  | .edge => 0x5ff7ffdff
  | .links => 0x5fffffbff
  | .switching => 0x5fefff7fe
  | .routing => 0x5fdffefff
  | .meridian => 0x5ffffdffe
  | .dictionary => 0x5dfffbfff
  | .tap => 0x5ffff7fff
  | .cache => 0x5f7feffff
  | .homes => 0x5fbfdffff
  | .pools => 0x5effbffff
  | .scheduling => 0x5fff7ffff
  | .bridge => 0x5ffefffff
  | .service => 0x53fdfffff
  | .security => 0x4ffbfffff

/-- A part stands unchanged under every update outside it. -/
theorem Part.stable (p : Part) (a : Mod) : Stable (partMask p) (fun m => p.same a m) := by
  cases p
  · exact Stable.now_is
  · exact Stable.draws_is
  · exact Stable.out_is
  · exact Stable.ev_is
  · exact Stable.cn_is
  · exact Stable.pw_is
  · exact Stable.md_is
  · exact Stable.fn_is
  · exact Stable.ph_is
  · exact Stable.ed_is
  · exact Stable.lk_is
  · exact Stable.sw_is
  · exact Stable.rt_is
  · exact Stable.ti_is
  · exact Stable.di_is
  · exact Stable.tp_is
  · exact Stable.ca_is
  · exact Stable.ho_is
  · exact Stable.po_is
  · exact Stable.sc_is
  · exact Stable.br_is
  · exact Stable.sv_is
  · exact Stable.se_is

/-- A command whose meaning keeps every property stable under B leaves each part whose mask takes B in. -/
theorem changesOnly_of_keeps {c : Instr} {parts : List Part} (B : Nat) (hk : ∀ P : Mod → Prop, Stable B P → ∀ s, P s.mod → Keeps P s (exec c s))
    (hp : (everything.all fun p => decide (p ∈ parts) || decide (Nat.land B (partMask p) = B)) = true) : ChangesOnly c parts := by
  have hq : ∀ p, p ∉ parts → Nat.land B (partMask p) = B := fun p h => by
    have hm : p ∈ everything := by cases p <;> decide
    have := List.all_eq_true.mp hp p hm
    simpa [h] using this
  have ht : Stable B (fun _ => True) := by constructor <;> intros <;> trivial
  intro s t h
  refine ⟨?_, fun p hp' => ?_⟩
  · obtain ⟨m, e, -⟩ := hk _ ht s trivial
    rw [e] at h
    injection h with h
    rw [← h]
  · obtain ⟨m, e, k⟩ := hk _ ((Part.stable p s.mod).up (hq p hp')) s (by cases p <;> rfl)
    rw [e] at h
    injection h with h
    rw [← h]
    exact k

end Sys2Proof.Machine
end

