-- ==== Sys2Proof/Laws/Power.lean ====
section
/-! SUPPORT. What the operations of the power-entry stage leave readable in it. -/
namespace Sys2Proof.Machine
set_option Elab.async false

@[simp] theorem Mod.feed_onFeed (m : Mod) (f : Feed) (g : FeedSt → FeedSt) : (m.onFeed f g).feed f = g (m.feed f) := by
  unfold Mod.onFeed Mod.feed PowerBlk.setFeed PowerBlk.feed Mod.onPw
  split <;> rfl

theorem Mod.feed_onFeed_other (m : Mod) {f k : Feed} (g : FeedSt → FeedSt) (h : k ≠ f) : (m.onFeed f g).feed k = m.feed k := by
  unfold Mod.onFeed Mod.feed PowerBlk.setFeed PowerBlk.feed Mod.onPw
  rcases f with ⟨f, hf⟩
  rcases k with ⟨k, hk⟩
  have : f ≠ k := fun e => h (Fin.ext e.symm)
  by_cases h0 : (⟨f, hf⟩ : Feed) = 0
  · have hk0 : (⟨k, hk⟩ : Feed) ≠ 0 := fun e => h (e.trans h0.symm)
    simp only [h0, hk0, if_true, if_false]
  · have hk0 : (⟨k, hk⟩ : Feed) = 0 := by
      have := Fin.val_ne_of_ne h0
      ext
      show k = 0
      simp only [Fin.val_zero] at this
      omega
    simp only [h0, hk0, if_true, if_false]

/-- What an event the power stage holds back or passes on leaves of the stage: all but its list of waiting events. -/
theorem Mod.powerEvent_pw (m : Mod) (code aux : Nat) :
    (m.powerEvent code aux).pw = { m.pw with events := (m.powerEvent code aux).pw.events, evLost := (m.powerEvent code aux).pw.evLost } := by
  unfold Mod.powerEvent
  split
  · rw [Mod.raise_keeps (P := fun x => x.pw = m.pw) Stable.pw_is.up rfl]
  · unfold Mod.onPw
    dsimp only
    split
    · rfl
    · split <;> rfl

@[simp] theorem Mod.powerEvent_feed (m : Mod) (code aux : Nat) (f : Feed) : (m.powerEvent code aux).feed f = m.feed f := by
  unfold Mod.feed
  rw [m.powerEvent_pw]
  rfl
@[simp] theorem Mod.powerEvent_vbus (m : Mod) (code aux : Nat) : (m.powerEvent code aux).pw.vbus = m.pw.vbus := by rw [m.powerEvent_pw]
@[simp] theorem Mod.powerEvent_pg (m : Mod) (code aux : Nat) : (m.powerEvent code aux).pw.pg = m.pw.pg := by rw [m.powerEvent_pw]
@[simp] theorem Mod.powerEvent_holdupEnd (m : Mod) (code aux : Nat) : (m.powerEvent code aux).pw.holdupEnd = m.pw.holdupEnd := by rw [m.powerEvent_pw]
@[simp] theorem Mod.powerEvent_vao (m : Mod) (code aux : Nat) : (m.powerEvent code aux).pw.vao = m.pw.vao := by rw [m.powerEvent_pw]
@[simp] theorem Mod.powerEvent_heldOff (m : Mod) (code aux : Nat) : (m.powerEvent code aux).pw.heldOff = m.pw.heldOff := by rw [m.powerEvent_pw]
@[simp] theorem Mod.powerEvent_sumlim (m : Mod) (code aux : Nat) : (m.powerEvent code aux).pw.sumlim = m.pw.sumlim := by rw [m.powerEvent_pw]
@[simp] theorem Mod.powerEvent_ftStart (m : Mod) (code aux : Nat) : (m.powerEvent code aux).pw.ftStart = m.pw.ftStart := by rw [m.powerEvent_pw]
@[simp] theorem Mod.powerEvent_a (m : Mod) (code aux : Nat) : (m.powerEvent code aux).pw.a = m.pw.a := by rw [m.powerEvent_pw]
@[simp] theorem Mod.powerEvent_b (m : Mod) (code aux : Nat) : (m.powerEvent code aux).pw.b = m.pw.b := by rw [m.powerEvent_pw]
@[simp] theorem Mod.powerEvent_energy (m : Mod) (code aux : Nat) : (m.powerEvent code aux).pw.energy = m.pw.energy := by rw [m.powerEvent_pw]
@[simp] theorem Mod.powerEvent_now (m : Mod) (code aux : Nat) : (m.powerEvent code aux).now = m.now :=
  Mod.powerEvent_keeps (P := fun x => x.now = m.now) Stable.now_is.up rfl code aux
@[simp] theorem Mod.powerEvent_di (m : Mod) (code aux : Nat) : (m.powerEvent code aux).di = m.di :=
  Mod.powerEvent_keeps (P := fun x => x.di = m.di) Stable.di_is.up rfl code aux
@[simp] theorem Mod.powerEvent_objv (m : Mod) (code aux oid : Nat) : (m.powerEvent code aux).objv oid = m.objv oid := by
  unfold Mod.objv
  rw [m.powerEvent_di]
@[simp] theorem Mod.powerEvent_mayRamp (m : Mod) (code aux : Nat) (f : Feed) : (m.powerEvent code aux).mayRamp f = m.mayRamp f := by
  unfold Mod.mayRamp
  simp only [Mod.powerEvent_feed, Mod.powerEvent_heldOff, Mod.powerEvent_vao]

/-- PWR_GOOD may fall and nothing else of the stage but the waiting events changes. -/
theorem Mod.pgCheck_pw (m : Mod) :
    m.pgCheck.pw = { m.pw with pg := m.pgCheck.pw.pg, events := m.pgCheck.pw.events, evLost := m.pgCheck.pw.evLost } := by
  unfold Mod.pgCheck
  split
  · rw [Mod.powerEvent_pw]
    rfl
  · rfl

@[simp] theorem Mod.pgCheck_feed (m : Mod) (f : Feed) : m.pgCheck.feed f = m.feed f := by
  unfold Mod.feed
  rw [m.pgCheck_pw]
  rfl
@[simp] theorem Mod.pgCheck_vbus (m : Mod) : m.pgCheck.pw.vbus = m.pw.vbus := by rw [m.pgCheck_pw]
@[simp] theorem Mod.pgCheck_holdupEnd (m : Mod) : m.pgCheck.pw.holdupEnd = m.pw.holdupEnd := by rw [m.pgCheck_pw]
@[simp] theorem Mod.pgCheck_vao (m : Mod) : m.pgCheck.pw.vao = m.pw.vao := by rw [m.pgCheck_pw]
@[simp] theorem Mod.pgCheck_ftStart (m : Mod) : m.pgCheck.pw.ftStart = m.pw.ftStart := by rw [m.pgCheck_pw]
@[simp] theorem Mod.pgCheck_sumlim (m : Mod) : m.pgCheck.pw.sumlim = m.pw.sumlim := by rw [m.pgCheck_pw]
@[simp] theorem Mod.pgCheck_energy (m : Mod) : m.pgCheck.pw.energy = m.pw.energy := by rw [m.pgCheck_pw]
@[simp] theorem Mod.pgCheck_samples (m : Mod) : m.pgCheck.pw.samples = m.pw.samples := by rw [m.pgCheck_pw]
@[simp] theorem Mod.pgCheck_now (m : Mod) : m.pgCheck.now = m.now := Mod.pgCheck_keeps (P := fun x => x.now = m.now) Stable.now_is.up rfl
@[simp] theorem Mod.pgCheck_di (m : Mod) : m.pgCheck.di = m.di := Mod.pgCheck_keeps (P := fun x => x.di = m.di) Stable.di_is.up rfl
theorem Mod.pgCheck_pg_of_false {m : Mod} (h : m.pw.pg = false) : m.pgCheck.pw.pg = false := by
  unfold Mod.pgCheck
  rw [h]
  simp [h]
/-- PWR_GOOD does not stand where its conditions fail. -/
theorem Mod.pgCheck_pg (m : Mod) : m.pgCheck.pw.pg = (m.pw.pg && m.pw.good) := by
  unfold Mod.pgCheck
  split
  · rename_i h
    simp [h.1, h.2, Mod.onPw]
  · rename_i h
    cases hp : m.pw.pg <;> cases hg : m.pw.good <;> simp_all

theorem Mod.notePAvail_pw (m : Mod) : m.notePAvail.pw = { m.pw with okSince := m.notePAvail.pw.okSince } := by
  unfold Mod.notePAvail
  split <;> rfl
@[simp] theorem Mod.notePAvail_feed (m : Mod) (f : Feed) : m.notePAvail.feed f = m.feed f := by
  unfold Mod.feed
  rw [m.notePAvail_pw]
  rfl
@[simp] theorem Mod.notePAvail_vbus (m : Mod) : m.notePAvail.pw.vbus = m.pw.vbus := by rw [m.notePAvail_pw]
@[simp] theorem Mod.notePAvail_pg (m : Mod) : m.notePAvail.pw.pg = m.pw.pg := by rw [m.notePAvail_pw]
@[simp] theorem Mod.notePAvail_holdupEnd (m : Mod) : m.notePAvail.pw.holdupEnd = m.pw.holdupEnd := by rw [m.notePAvail_pw]
@[simp] theorem Mod.notePAvail_vao (m : Mod) : m.notePAvail.pw.vao = m.pw.vao := by rw [m.notePAvail_pw]
@[simp] theorem Mod.notePAvail_ftStart (m : Mod) : m.notePAvail.pw.ftStart = m.pw.ftStart := by rw [m.notePAvail_pw]
@[simp] theorem Mod.notePAvail_sumlim (m : Mod) : m.notePAvail.pw.sumlim = m.pw.sumlim := by rw [m.notePAvail_pw]
@[simp] theorem Mod.notePAvail_energy (m : Mod) : m.notePAvail.pw.energy = m.pw.energy := by rw [m.notePAvail_pw]
@[simp] theorem Mod.notePAvail_samples (m : Mod) : m.notePAvail.pw.samples = m.pw.samples := by rw [m.notePAvail_pw]
@[simp] theorem Mod.notePAvail_now (m : Mod) : m.notePAvail.now = m.now := Mod.notePAvail_keeps (P := fun x => x.now = m.now) Stable.now_is.up rfl

@[simp] theorem Mod.advance_now (m : Mod) (dt : Nat) : (m.advance dt).now = m.now + dt := rfl
@[simp] theorem Mod.advance_pw (m : Mod) (dt : Nat) : (m.advance dt).pw = m.pw := rfl
@[simp] theorem Mod.advance_di (m : Mod) (dt : Nat) : (m.advance dt).di = m.di := rfl
@[simp] theorem Mod.advance_feed (m : Mod) (dt : Nat) (f : Feed) : (m.advance dt).feed f = m.feed f := rfl
@[simp] theorem Mod.advance_objv (m : Mod) (dt oid : Nat) : (m.advance dt).objv oid = m.objv oid := rfl
@[simp] theorem Mod.advanceTo_now (m : Mod) (t : Nat) : (m.advanceTo t).now = max m.now t := by
  show m.now + (t - m.now) = max m.now t
  omega
@[simp] theorem Mod.advanceTo_pw (m : Mod) (t : Nat) : (m.advanceTo t).pw = m.pw := rfl
@[simp] theorem Mod.advanceTo_feed (m : Mod) (t : Nat) (f : Feed) : (m.advanceTo t).feed f = m.feed f := rfl
@[simp] theorem Mod.advanceTo_objv (m : Mod) (t oid : Nat) : (m.advanceTo t).objv oid = m.objv oid := rfl

@[simp] theorem Mod.onFeed_now (m : Mod) (f : Feed) (g : FeedSt → FeedSt) : (m.onFeed f g).now = m.now := rfl
@[simp] theorem Mod.onFeed_objv (m : Mod) (f : Feed) (g : FeedSt → FeedSt) (oid : Nat) : (m.onFeed f g).objv oid = m.objv oid := rfl

theorem PowerBlk.setFeed_eq (p : PowerBlk) (f : Feed) (s : FeedSt) :
    p.setFeed f s = { p with a := (p.setFeed f s).a, b := (p.setFeed f s).b } := by
  unfold PowerBlk.setFeed
  split <;> rfl
@[simp] theorem Mod.onFeed_vbus (m : Mod) (f : Feed) (g : FeedSt → FeedSt) : (m.onFeed f g).pw.vbus = m.pw.vbus := by
  show (m.pw.setFeed f _).vbus = _
  rw [PowerBlk.setFeed_eq]
@[simp] theorem Mod.onFeed_pg (m : Mod) (f : Feed) (g : FeedSt → FeedSt) : (m.onFeed f g).pw.pg = m.pw.pg := by
  show (m.pw.setFeed f _).pg = _
  rw [PowerBlk.setFeed_eq]
@[simp] theorem Mod.onFeed_vao (m : Mod) (f : Feed) (g : FeedSt → FeedSt) : (m.onFeed f g).pw.vao = m.pw.vao := by
  show (m.pw.setFeed f _).vao = _
  rw [PowerBlk.setFeed_eq]
@[simp] theorem Mod.onFeed_heldOff (m : Mod) (f : Feed) (g : FeedSt → FeedSt) : (m.onFeed f g).pw.heldOff = m.pw.heldOff := by
  show (m.pw.setFeed f _).heldOff = _
  rw [PowerBlk.setFeed_eq]
@[simp] theorem Mod.onFeed_holdupEnd (m : Mod) (f : Feed) (g : FeedSt → FeedSt) : (m.onFeed f g).pw.holdupEnd = m.pw.holdupEnd := by
  show (m.pw.setFeed f _).holdupEnd = _
  rw [PowerBlk.setFeed_eq]
@[simp] theorem Mod.onFeed_ftStart (m : Mod) (f : Feed) (g : FeedSt → FeedSt) : (m.onFeed f g).pw.ftStart = m.pw.ftStart := by
  show (m.pw.setFeed f _).ftStart = _
  rw [PowerBlk.setFeed_eq]
@[simp] theorem Mod.onFeed_sumlim (m : Mod) (f : Feed) (g : FeedSt → FeedSt) : (m.onFeed f g).pw.sumlim = m.pw.sumlim := by
  show (m.pw.setFeed f _).sumlim = _
  rw [PowerBlk.setFeed_eq]

/-- A ramp started: the pass FET ramps or, at once, is fully enhanced; the rest of the feed but its ramp's clock stands. -/
theorem Mod.startRamp_feed (m : Mod) (f : Feed) : ((m.startRamp f).feed f).fet ≠ .off ∧
    (m.startRamp f).feed f = { m.feed f with fet := ((m.startRamp f).feed f).fet, rampTimeout := ((m.startRamp f).feed f).rampTimeout, lastFull := ((m.startRamp f).feed f).lastFull } := by
  unfold Mod.startRamp Mod.fullEnhance
  split <;> rw [Mod.feed_onFeed] <;> exact ⟨FetCmd.noConfusion, rfl⟩
@[simp] theorem Mod.startRamp_holdupEnd (m : Mod) (f : Feed) : (m.startRamp f).pw.holdupEnd = m.pw.holdupEnd := by
  unfold Mod.startRamp Mod.fullEnhance
  split <;> exact Mod.onFeed_holdupEnd ..
@[simp] theorem Mod.startRamp_vao (m : Mod) (f : Feed) : (m.startRamp f).pw.vao = m.pw.vao := by
  unfold Mod.startRamp Mod.fullEnhance
  split <;> exact Mod.onFeed_vao ..
@[simp] theorem Mod.startRamp_now (m : Mod) (f : Feed) : (m.startRamp f).now = m.now := by
  unfold Mod.startRamp Mod.fullEnhance
  split <;> rfl

/-- A trip (R155, R158): what the feed it trips then reads. -/
theorem Mod.trip_feed (m : Mod) (f : Feed) (cause : Nat) (hold : Bool) (code : Nat) :
    (m.trip f cause hold code).feed f =
      { m.feed f with
        fet := .off, rampTimeout := none, latched := true, cause := cause, count := min 15 ((m.feed f).count + 1)
        seconds := (m.now - m.pw.vaoSince) / sec % 2 ^ 23
        retries := if (m.feed f).lastFull.any (fun t => decide (m.now ≤ t + 10 * sec)) then (m.feed f).retries + 1 else 1
        held := (m.feed f).held || hold || (decide (m.objv 0x101600 ≠ 0) && decide (m.objv 0x101600 <
          (if (m.feed f).lastFull.any (fun t => decide (m.now ≤ t + 10 * sec)) then (m.feed f).retries + 1 else 1)))
        clearSeen := false, coolEnd := some (m.now + m.objv 0x101500 * ms), hotTrip := decide (cause = 8)
        carrying := false, ilim := false, current := 0 } := by
  unfold Mod.trip
  extract_lets s again r past m1 m2
  have h : m2.feed f = _ := (Mod.powerEvent_feed ..).trans (Mod.feed_onFeed ..)
  rw [Mod.pgCheck_feed]
  split
  · exact (Mod.powerEvent_feed ..).trans h
  · exact h

/-- A trip leaves the other feed as it is. -/
theorem Mod.trip_feed_other (m : Mod) {f k : Feed} (cause : Nat) (hold : Bool) (code : Nat) (h : k ≠ f) :
    (m.trip f cause hold code).feed k = m.feed k := by
  unfold Mod.trip
  extract_lets s again r past m1 m2
  have e : m2.feed k = _ := (Mod.powerEvent_feed ..).trans (Mod.feed_onFeed_other _ _ h)
  rw [Mod.pgCheck_feed]
  split
  · exact (Mod.powerEvent_feed ..).trans e
  · exact e

@[simp] theorem Mod.trip_now (m : Mod) (f : Feed) (cause : Nat) (hold : Bool) (code : Nat) : (m.trip f cause hold code).now = m.now :=
  Mod.trip_keeps (P := fun x => x.now = m.now) Stable.now_is.up rfl ..
@[simp] theorem Mod.trip_objv (m : Mod) (f : Feed) (cause : Nat) (hold : Bool) (code oid : Nat) : (m.trip f cause hold code).objv oid = m.objv oid := by
  have h : (m.trip f cause hold code).di = m.di := Mod.trip_keeps (P := fun x => x.di = m.di) Stable.di_is.up rfl ..
  unfold Mod.objv
  rw [h]
@[simp] theorem Mod.trip_ftStart (m : Mod) (f : Feed) (cause : Nat) (hold : Bool) (code : Nat) : (m.trip f cause hold code).pw.ftStart = m.pw.ftStart := by
  unfold Mod.trip
  extract_lets s again r past m1 m2
  have h : m2.pw.ftStart = _ := (Mod.powerEvent_ftStart ..).trans (Mod.onFeed_ftStart ..)
  rw [Mod.pgCheck_ftStart]
  split
  · exact (Mod.powerEvent_ftStart ..).trans h
  · exact h
@[simp] theorem Mod.trip_sumlim (m : Mod) (f : Feed) (cause : Nat) (hold : Bool) (code : Nat) : (m.trip f cause hold code).pw.sumlim = m.pw.sumlim := by
  unfold Mod.trip
  extract_lets s again r past m1 m2
  have h : m2.pw.sumlim = _ := (Mod.powerEvent_sumlim ..).trans (Mod.onFeed_sumlim ..)
  rw [Mod.pgCheck_sumlim]
  split
  · exact (Mod.powerEvent_sumlim ..).trans h
  · exact h
theorem Mod.trip_pg_of_false {m : Mod} (f : Feed) (cause : Nat) (hold : Bool) (code : Nat) (h : m.pw.pg = false) : (m.trip f cause hold code).pw.pg = false := by
  unfold Mod.trip
  extract_lets s again r past m1 m2
  have e : m2.pw.pg = false := ((Mod.powerEvent_pg ..).trans (Mod.onFeed_pg ..)).trans h
  refine Mod.pgCheck_pg_of_false ?_
  split
  · exact (Mod.powerEvent_pg ..).trans e
  · exact e

end Sys2Proof.Machine
end

