-- ==== Sys2Proof/Machine/Pins.lean ====
section
/-! DEFINITION. The positions of the module connector (R609 to R614) and the cells of the boundary register (R624). -/
namespace Sys2Proof.Machine

/-- A position of connector J1 to J4: its blade, wafer or column, and its row; a blade of J1 has no row. -/
structure Position where
  conn : Nat
  col : Nat
  row : Option Char := none
  deriving DecidableEq, Repr

/-- The four contacts of a slot of J2 or J3 (R611): transmit P and N, receive P and N. -/
structure SlotPins where
  txp : Position
  txn : Position
  rxp : Position
  rxn : Position
  deriving DecidableEq, Repr

/-- The first or second slot of a wafer (R611). -/
def slotPins (conn wafer : Nat) (second : Bool) : SlotPins :=
  let at_ := fun c => ({ conn := conn, col := wafer, row := some c } : Position)
  if second then { txp := at_ 'H', txn := at_ 'J', rxp := at_ 'L', rxn := at_ 'M' }
  else { txp := at_ 'B', txn := at_ 'C', rxp := at_ 'E', rxn := at_ 'F' }

/-- The contacts of lane n (R612). -/
def lanePins (n : Nat) : SlotPins := if n < 192 then slotPins 2 (n / 2) (n % 2 = 1) else slotPins 3 ((n - 192) / 2) (n % 2 = 1)

/-- Management PCIe lane i, and management Ethernet port i (R613). -/
def mgmtLanePins (i : Nat) : SlotPins := slotPins 3 (32 + i / 2) (i % 2 = 1)
def ethPins (i : Nat) : SlotPins := slotPins 3 34 (i % 2 = 1)

/-- P and N of REFOUT k, of REFIN and of MGMT_REFCLK: the transmit contacts of their slots (R613). -/
def refoutPins (k : Nat) : Position × Position := let s := slotPins 3 (35 + k / 2) (k % 2 = 1); (s.txp, s.txn)
def refinPins : Position × Position := let s := slotPins 3 43 false; (s.txp, s.txn)
def mgmtRefclkPins : Position × Position := let s := slotPins 3 43 true; (s.txp, s.txn)

/-- Rows A, D, G and K of a wafer are GND, and the receive contacts of a slot that carries a reference clock (R611, R613). -/
def waferGround (conn wafer : Nat) (row : Char) : Bool :=
  [ 'A', 'D', 'G', 'K' ].contains row || (decide (conn = 3) && decide (35 ≤ wafer) && decide (wafer ≤ 43) && [ 'E', 'F', 'L', 'M' ].contains row)

/-- PERST_N, PRSNT_N and CLKREQ_N of edge port p (R614). -/
def perstPin (p : Nat) : Position := { conn := 4, col := p + 1, row := some 'A' }
def prsntPin (p : Nat) : Position := { conn := 4, col := p + 1, row := some 'B' }
def clkreqPin (p : Nat) : Position := { conn := 4, col := p + 1, row := some 'C' }

/-- The other signals of J4, by column and row (R614); every row D is GND, and the positions not listed are reserved. -/
def controlPins : List (Nat × Char × String) :=
  [(49, 'A', "MRDY"), (49, 'B', "ALERT_N"), (49, 'C', "PWR_GOOD"), (50, 'A', "I3C_SCL"), (50, 'B', "I3C_SDA"), (50, 'C', "MGMT_PERST_N"),
   (51, 'A', "SLOT_ID0"), (51, 'B', "SLOT_ID1"), (51, 'C', "SLOT_ID2"), (52, 'A', "SLOT_ID3"), (52, 'B', "SLOT_ID4"), (52, 'C', "MPRSNT_N"),
   (53, 'A', "TCK"), (53, 'B', "TMS"), (53, 'C', "TDI"), (54, 'A', "TDO"), (54, 'B', "TRST_N")]

/-- The blades of J1: their signal, and whether they mate first (R609). -/
def powerBlades : List (Nat × String × Bool) :=
  [(1, "VIN_A", false), (2, "VIN_A", false), (3, "RTN_A", true), (4, "RTN_A", true), (5, "RTN_B", true), (6, "RTN_B", true), (7, "VIN_B", false),
   (8, "VIN_B", false)]

/-- The cells of the boundary register by what they serve (R624): transmit pairs, receive pairs, REFOUT, the two clock inputs, PERST_N and
CLKREQ_N, PRSNT_N, MGMT_PERST_N. -/
def boundaryParts : List Nat := [2 * (256 + 4 + 2), 256 + 4 + 2, 2 * 16, 2, 3 * 2 * 48, 48, 1]

end Sys2Proof.Machine
end

