-- ==== Sys2Proof/Tests/Base.lean ====
section
/-! SUPPORT. Small states for the tests. -/
namespace Sys2Proof.Tests
open Sys2Proof.Machine
set_option Elab.async false

/-- The state after reset with the module changed by f. -/
def at_ (f : Mod → Mod) : State := { State.reset with mod := f State.reset.mod }

/-- The module in OPERATE, its firmware and its functions served. -/
def ready (m : Mod) : Mod := m.onMd fun b => { b with mode := .operate, mrdy := true, serving := true }

/-- The same in CONFIGURE. -/
def conf (m : Mod) : Mod := m.onMd fun b => { b with mode := .configure, mrdy := true, serving := true }

/-- A request of n payload bytes from a management host. -/
def reqOf (n : Nat) : ReqHdr := { src := .udp 1 2, seq := 1, length := n, wire := n }

/-- A group of a counter filter with two shadows, opened by session 2. -/
def filterGroup : Group := { num := 3 * 2 ^ 24 + 5, session := 2, shadows := [(fctrOid 5 1, 9), (fctrOid 5 4, 77)] }

/-- A request of session 2, of a PCIe manager. -/
def reqGroup : ReqHdr := { src := .mctpPcie 7, seq := 9, length := 4, wire := 4, session := 2 }

/-- CONFIGURE with session 2 open and the group g. -/
def grouped (g : Group) (m : Mod) : Mod := ((conf m).openSession (.mctpPcie 7)).1.onDi fun d => { d with groups := [g] }

/-- Every symbol read as that of these bytes, on four lanes neither reversed, inverted nor precoded. -/
def noiseOf (b : List Nat) : Noise := (List.range 4).map fun i => (laneBytes b i).flatMap fun x => (byteLevels x).map some

/-- The 256 bytes of a flit of these 234: its header and payload. -/
def sealed (body : List Nat) : List Nat :=
  let data := body ++ toBytes 8 (crc64 body)
  data ++ interleave (rsCheck (evens data)) (rsCheck (evens (data.drop 1)))

/-- The command c in state s leads to a module with P. -/
def after (c : Instr) (s : State) (P : Mod → Bool) : Bool :=
  match exec c s with
  | .next t => P t.mod
  | .fault _ => false
  | .refused _ => false

end Sys2Proof.Tests
end

