-- ==== Sys2Proof/Tests/Slice0.lean ====
section
/-! SUPPORT. Tests: ill-formed operands are refused by the checks; single steps against the spec's own words and worked values; and, for every statement with
hypotheses, states and operands that meet them (`meets_…`). -/
namespace Sys2Proof.Tests
open Sys2Proof.Machine
set_option Elab.async false

/-! Ill-formed operands (WellFormed.lean). -/

theorem test_wf_packet_length : Pkt.wf { len := 17, data := List.replicate 68 0 } = false := by decide +kernel
theorem test_wf_packet_data : Pkt.wf { len := 1, data := [] } = false := by decide +kernel
theorem test_wf_source : Source.wf (.udp 0 65536) = false := by decide +kernel
theorem test_wf_item_value : Item.wf { oid := 0x003400, ty := 4, len := 1, val := 256 } = false := by decide +kernel
theorem test_wf_request_header : Instr.wf (.dictRead { reqOf 8 with session := 65536 } { oid := 0x003400, ty := 4 }) = false := by decide +kernel
theorem test_wf_body : Body.wf (.commit (2 ^ 32)) = false := by decide +kernel
theorem test_wf_control : Instr.wf (.flitRxControl 0 { grant := [1, 2, 3] } []) = false := by decide +kernel
theorem test_wf_proxy_session : Instr.wf (.proxySegmentReceived 0 { priv := 1, orig := 65536 }) = false := by decide +kernel
theorem test_wf_link_entry : LinkEntry.wf { nbr := 4096, port := 0, far := 0 } = false := by decide +kernel
theorem test_wf_link_cost : Instr.wf (.recordReceived 0 { id := 1, links := [{ nbr := 2, port := 0, far := 0, cost := 0 }] }) = false := by decide +kernel
theorem test_wf_pid_entry : PidEntry.wf { pid := 5, port := 48 } = false := by decide +kernel
theorem test_wf_taps : Instr.wf (.deskewDone 0 3 false [] [{ pre1 := 21 }]) = false := by decide +kernel
theorem test_wf_trained : Instr.wf (.edgeLinkTrained 0 { width := 3 } false [] none) = false := by decide +kernel
theorem test_wf_sampled : Instr.wf (.filteredCounterOverflow 0 { port := 64 }) = false := by decide +kernel
theorem test_wf_far : Instr.wf (.unbindWrite .firmware 0 (.port 5 48 1) false) = false := by decide +kernel
theorem test_wf_register : Instr.wf (.registerWrite (.msix 560 0 0 0 false)) = false := by decide +kernel
theorem test_wf_value : Instr.wf (.cqHeadWrite 0 0 (2 ^ 64)) = false := by decide +kernel
theorem test_wf_good : Instr.wf (.dictWrite (reqOf 12) { oid := 0x003400, ty := 4, len := 4, val := 5 } true) = true := by decide +kernel

/-! Known values: the check value of each code over the ASCII digits 1 to 9, and the first bytes of SHAKE256 of no bytes. -/

/-- R252's code, with all ones before and after, as catalogued for the ECMA-182 polynomial without reflection. -/
theorem test_crc64 : crc64Bytes (2 ^ 64 - 1) [49, 50, 51, 52, 53, 54, 55, 56, 57] ^^^ (2 ^ 64 - 1) = 0x62EC59E3F1A4F00A := by decide +kernel
theorem test_crc32c : crcBytes 0x82F63B78 (2 ^ 32 - 1) [49, 50, 51, 52, 53, 54, 55, 56, 57] ^^^ (2 ^ 32 - 1) = 0xE3069283 := by decide +kernel
theorem test_shake256 : shake256 [] 8 = [0x46, 0xB9, 0xDD, 0x2B, 0x0B, 0xA8, 0x8D, 0x13] := by decide +kernel

/-! Layouts, written out from the tables of R45, R76, R77, R257, R432 and R434. -/

theorem test_object_id : mkOid 4 0x0A2 3 = 0x40A203 := by decide +kernel
theorem test_item_bytes : itemBytes { oid := 0x40A203, ty := 5, len := 2, val := 0x1234 } = [0x40, 0xA2, 0x03, 5, 0, 2, 0, 0, 0x12, 0x34, 0, 0] := by
  decide +kernel
theorem test_message_header :
    parvorBytes 4 1 0x0102 0x03040506 0 (2 * 4096 + 0x789) 0 [] = [0x14, 1, 1, 2, 3, 4, 5, 6, 0, 0, 0, 0, 0x27, 0x89, 0, 0] := by
  decide +kernel
theorem test_packet_header :
    hdrWord { fmt := 1, tc := 3, poison := true, len := 9, dest := 0xABC, src := 0x123, hops := 5 } = 0b0001_011_1_01001_000_1010_1011_1100_0001_0010_0011_0101 * 2 ^ 20 := by
  decide +kernel
theorem test_rdown_body : (tc0Pkt 1 .rdOwn (lineKey 2 3 64) false false 0 false).body = 2 ^ 61 + 3 * 2 ^ 34 + 2 ^ 6 := by decide +kernel
theorem test_dataowned_body : (tc2Pkt 1 7 1 (lineKey 2 3 64) 5 0 false).body = 2 ^ 62 + 2 * 2 ^ 50 + 3 * 2 ^ 34 + 2 ^ 6 + 5 := by decide +kernel

/-- R250: KIND in bits 15 and 14, REPLAY in bit 13, SEQ in bits 11 to 0. -/
theorem test_flit_header : flitHeader (.payload true 0xABC []) = 0b0110_1010_1011_1100 ∧ flitHeader (.control {}) = 0b1000_0000_0000_0000 := by decide +kernel
/-- R182: the bit pairs 00, 01, 11 and 10 are the levels 0 to 3, the first pair of a byte the most significant. -/
theorem test_byte_levels : byteLevels 0b00_01_11_10 = [0, 1, 2, 3] := by decide +kernel
/-- R183: P(n) = (G(n) − P(n−1)) mod 4 from P = 0. -/
theorem test_precode : precode 0 [1, 3, 0, 2] = [1, 2, 2, 0] := by decide +kernel
/-- R253: two wrong symbols in each code word are corrected and counted. -/
theorem test_flit_corrected :
    flitDecode (((((flitBytes (.payload false 5 [7])).set 3 99).set 10 5).set 254 1).set 255 2) = .good (.payload false 5 (7 :: List.replicate 28 0)) 4 := by
  decide +kernel
/-- R253: four wrong symbols of one code word are found, not corrected. -/
theorem test_flit_uncorrectable :
    flitDecode (((((sealed (List.replicate 234 0)).set 2 1).set 4 1).set 6 1).set 8 1) = .uncorrectable 0 := by
  decide +kernel
/-- R250: KIND 3 is reserved; KIND 0 is a NULL flit whatever its payload. -/
theorem test_flit_kinds :
    flitDecode (sealed (0xC0 :: List.replicate 233 0)) = .reserved 0 ∧ flitDecode (sealed (List.replicate 234 0)) = .good .null 0 := by
  decide +kernel

/-- R182, R183, R186, R187, R251: a flit through four lanes that are reversed, inverted and precoded, two of its symbols read wrong, which spoil two bytes. -/
theorem test_flit_through_lanes :
    let m := (at_ fun m => m.each [200, 201, 202, 203] fun l m => m.onLane l fun s => { s with precode := true, pol := true, rev := true, lastRx := 3 }).mod
    (m.rxSymbols 2 (m.arriving 2 (.payload true 4095 [7]) [[], [some 3, none, none, none, some 1]])).2 = .good (.payload true 4095 (7 :: List.replicate 28 0)) 2 := by
  decide +kernel
/-- R263: a flit of KIND 3 is bad. -/
theorem test_flit_reserved :
    let m := State.reset.mod
    (m.rxSymbols 2 (m.arriving 2 .null (noiseOf (sealed (0xC0 :: List.replicate 233 0))))).2 = .reserved 0 := by
  decide +kernel

/-! Single steps. -/

/-- R105: power comes on in OFF. -/
theorem test_reset_mode : State.reset.mod.md.mode = .off := by decide +kernel
/-- R263: a flit whose SEQ is one behind the next expected is a duplicate. -/
theorem test_duplicate_flit :
    after (.flitRxPayload 3 { seq := 4 } [] []) (at_ fun m => m.onLink 3 fun s => { s with st := .active, nextRx := 5 })
      (fun m => decide ((m.link 3).nextRx = 5) && decide (m.objv (mkOid 5 0x303 8) = 1)) = true := by
  decide +kernel
/-- R263: 4,095 is followed by 0. -/
theorem test_flit_sequence_wraps :
    after (.flitRxPayload 3 { seq := 4095 } [] []) (at_ fun m => m.onLink 3 fun s => { s with st := .active, nextRx := 4095 }) (fun m => decide ((m.link 3).nextRx = 0)) = true := by
  decide +kernel
/-- R264: ACK 2 frees SEQ 4,095 to 2 and keeps SEQ 3. -/
theorem test_ack_wraps :
    after (.flitRxControl 3 { ack := 2 } [])
      (at_ fun m => m.onLink 3 fun s => { s with st := .active, replay := [⟨4095, [], []⟩, ⟨2, [], []⟩, ⟨3, [], []⟩] })
      (fun m => decide ((m.link 3).replay.map (fun (f : Flit) => f.seq) = [3])) = true := by
  decide +kernel
/-- R160, R161: VDS above 0.5 V on a fully enhanced FET turns it off and keeps it off. -/
theorem test_vds_high :
    after (.vdsHighTrip 1) (at_ fun m => m.onFeed 1 fun f => { f with present := true, fet := .full })
      (fun m => decide ((m.feed 1).fet = .off) && (m.feed 1).latched && (m.feed 1).held && decide (m.now = ms)) = true := by
  decide +kernel
/-- R160: not while the feed limit regulates. -/
theorem test_vds_high_in_regulation :
    after (.vdsHighTrip 1) (at_ fun m => m.onFeed 1 fun f => { f with present := true, fet := .full, ilim := true }) (fun m => decide ((m.feed 1).fet = .full)) = true := by
  decide +kernel
/-- R109: OPERATE goes to STANDBY through DRAIN. -/
theorem test_standby_drains : after (.modeRequestStandby .mgmtPf) (at_ ready) (fun m => decide (m.md.mode = .drain)) = true := by decide +kernel
/-- R55: a Tenant session gets the same status for an object of the module's and for one that does not exist. -/
theorem test_tenant_sees_nothing_else : State.reset.mod.readSts (.vf 3) 0x200100 = .notFound ∧ State.reset.mod.readSts (.vf 3) 0x7FFFFF = .notFound := by decide +kernel

/-! Witnesses written by hand. -/

theorem inv_reset : Inv State.reset.mod := ⟨rfl, rfl, by decide +kernel, by decide +kernel, by decide +kernel, by decide +kernel⟩

theorem meets_EveryStepKeepsTheInvariant : (fun s t : State => Inv s.mod ∧ step s = .next t) State.reset { State.reset with mod := State.reset.mod.advance 1 } :=
  ⟨inv_reset, rfl⟩

theorem meets_NoStepUndoes : (fun s t : State => step s = .next t) State.reset { State.reset with mod := State.reset.mod.advance 1 } := rfl

/-- The module in CONFIGURE with running images that revoke no key: byte 13 of each is programmed with 0 (flash holds a byte's value and one). -/
def keeping : State := at_ fun m => (conf m).onSe fun b => { b with flash := [(13, 1), (0x20000D, 1)] }

theorem keeping_revokes_nothing : keeping.mod.revokesRunning = false := by
  have h : keeping.mod.revokes ||| keeping.mod.se.revoked = 0 := by decide +kernel
  have z : ∀ o : Option Nat, (o.any fun r => bit 0 r) = false := by intro o; cases o <;> simp [bit]
  unfold Mod.revokesRunning
  rw [h]
  simp only [z, Bool.or_false]

theorem meets_ImagesAreStagedAndActivated_commit : (fun (src : Source) (s : State) => Accepted s.mod src 0xD06200 1) .mgmtPf keeping := by
  refine ⟨by decide +kernel, fun h => absurd h (by decide), ?_⟩
  obtain ⟨r, hr⟩ : ∃ r, keeping.mod.rowFor .mgmtPf 0xD06200 = some r := Option.isSome_iff_exists.mp (by decide +kernel)
  have e : objFind 0xD06200 = some r := by
    have : keeping.mod.rowFor .mgmtPf 0xD06200 = objFind 0xD06200 := by rfl
    rw [← this, hr]
  have f : ∀ P : ObjRow → Bool, (objFind 0xD06200).all P = true → P r = true := by intro P h; rw [e] at h; exact h
  show (keeping.mod.checkWrite (callerOf .mgmtPf) (itemOf 0xD06200 1)).2.1 = .ok
  have it : itemOf 0xD06200 1 = { oid := 0xD06200, ty := 2, len := 1, val := 1 } := by decide +kernel
  have s : keeping.mod.refuseSec none 0xD06200 1 = .ok := by
    have : keeping.mod.refuseSec none 0xD06200 1 = rangeIf keeping.mod.revokesRunning := by rfl
    rw [this, keeping_revokes_nothing]; rfl
  rw [it]
  unfold Mod.checkWrite
  rw [show keeping.mod.rowFor (callerOf .mgmtPf).src 0xD06200 = some r from hr]
  have h1 : keeping.mod.tokenFree (callerOf .mgmtPf) r 0xD06200 1 = true := f (fun r => keeping.mod.tokenFree (callerOf .mgmtPf) r 0xD06200 1) (by decide +kernel)
  have h2 : accWrites (rowAcc (privOf .mgmtPf) r) = true := f (fun r => accWrites (rowAcc (privOf .mgmtPf) r)) (by decide +kernel)
  have h3 : keeping.mod.modeServes .mgmtPf 0xD06200 true r.cfg = true := f (fun r => keeping.mod.modeServes .mgmtPf 0xD06200 true r.cfg) (by decide +kernel)
  have h4 : typeOk r { oid := 0xD06200, ty := 2, len := 1, val := 1 } = true := f (fun r => typeOk r { oid := 0xD06200, ty := 2, len := 1, val := 1 }) (by decide +kernel)
  have h5 : rangeOk r 1 = true := f (fun r => rangeOk r 1) (by decide +kernel)
  have h6 : keeping.mod.di.lockedOut = [] := rfl
  have a : (0xD06200 : Nat) / 2 ^ 20 = 0xD := rfl
  have c : (callerOf .mgmtPf).src = .mgmtPf := rfl
  simp [h1, h2, h3, h4, h5, h6, s, c]

/-! Witnesses: the hypotheses of each clause, met. -/

theorem meets_StepRunsTheFrontCommand :
    ((fun (c : Instr) (rest : List Instr) (s : State) => s.pending = c :: rest) .slowTrip ([.pwrGoodRise])
      ({ State.reset with pending := [.slowTrip, .pwrGoodRise] })) ∧
    ((fun (s : State) => s.pending = []) State.reset) := by
  refine ⟨?_, ?_⟩ <;> decide +kernel

theorem meets_MostCommandsLeaveMemory :
    ((fun c : Instr => storesMemory c = false) .slowTrip) := by
  decide +kernel

theorem meets_RequestPayloadsReadBack :
    ((fun b : Body => b.wf = true) (.group 7 [{ oid := 0x003400, ty := 4, len := 4, val := 2 ^ 31 }])) := by
  decide +kernel

theorem meets_MessagesReadBack :
    ((fun (p : Pkt) => p.wf = true) ({ tc := 7, len := 1, dest := 4095, src := 1, hops := 15, body := 2 ^ 64 - 1, data := [1, 2, 3, 2 ^ 64 - 1] })) ∧
    ((fun (_self home desc off : Nat) (_op : Tc0) (_pref _keep _poison : Bool) (data : Nat) => home < 4096 ∧ desc < 65536 ∧ off < 2 ^ 34 ∧ off % 64 =
      0 ∧ data < 2 ^ 512) 4095 4095 65535 (2 ^ 34 - 64) .wbDirty true true true (2 ^ 512 - 1)) ∧
    ((fun (home _dest op req desc off acks : Nat) => home < 4096 ∧ req < 4096 ∧ desc < 65536 ∧ off < 2 ^ 34 ∧ off % 64 = 0 ∧ acks < 64 ∧ op < 3) 4095
      1 2 4095 65535 (2 ^ 34 - 64) 63) ∧
    ((fun (_self _dest home desc off op low data : Nat) (_poison : Bool) => home < 4096 ∧ desc < 65536 ∧ off < 2 ^ 34 ∧ off % 64 = 0 ∧ low < 64 ∧ op <
      4 ∧ data < 2 ^ 512) 1 2 4095 65535 (2 ^ 34 - 64) 3 47 (2 ^ 512 - 1) true) ∧
    ((fun (_replay : Bool) (seq : Nat) (ws : List Nat) => seq < 4096 ∧ ws.length = 29 ∧ (∀ w ∈ ws, w < 2 ^ 64)) true 4095 (List.replicate 29 (2 ^ 64 -
      1))) ∧
    ((fun (c : Control) => c.wf = true)
      ({ ctype := 6, nak := true, ack := 4095, grant := List.replicate 16 65535, opens := 255, ownId := 2 ^ 64 - 1, heldId := 5 })) ∧
    ((fun (b : List Nat) => b.length = 256 ∧ (∀ x ∈ b, x < 256)) (List.replicate 256 255)) ∧
    ((fun (p : Nat) (l : List Nat) => p < 4 ∧ (∀ x ∈ l, x < 4)) 3 ([3, 2, 1, 0])) := by
  refine ⟨?_, ?_, ?_, ?_, ?_, ?_, ?_, ?_⟩ <;> decide +kernel

theorem meets_ItemsAreLaidOut :
    ((fun (i : WireItem) => i.oid < 2 ^ 24 ∧ i.ty < 2 ^ 8 ∧ i.len < 2 ^ 16 ∧ i.status < 2 ^ 16 ∧ i.val < 256 ^ i.len)
      ({ oid := 2 ^ 24 - 1, ty := 255, len := 5, status := 65535, val := 256 ^ 5 - 1 })) ∧
    ((fun (r : Resp) (x : RItem) => r.items = [x] ∧ r.holder = 0)
      ({ opcode := 1, items := [{ oid := 0x003400, ty := 4, len := 4, val := 5, status := .ok, pend := true }] })
      ({ oid := 0x003400, ty := 4, len := 4, val := 5, status := .ok, pend := true })) ∧
    ((fun (_h : ReqHdr) (it : Item) => it.len ≠ 0) (reqOf 12) ({ oid := 0x003400, ty := 4, len := 4, val := 5 })) ∧
    ((fun (_h : ReqHdr) (it : Item) (_mode : Nat) => it.len ≠ 0) (reqOf 16) ({ oid := 0x003400, ty := 4, len := 4, val := 5 }) 5) ∧
    ((fun (_h : ReqHdr) (its : List Item) => (∃ it ∈ its, it.len ≠ 0)) (reqOf 12) ([{ oid := 0x003400, ty := 4, len := 4, val := 5 }])) := by
  refine ⟨?_, ?_, ?_, ?_, ?_⟩ <;> decide +kernel

theorem meets_FixedSessionsNeverExpire :
    ((fun (src : Source) (id : Nat) => fixedSession src = some id) (.vf 255) 0x1FF) ∧
    ((fun (m : Mod) (src : Source) (i : Nat) => (m.openSession src).2 = some i) (conf State.reset.mod) (.udp 1 2) 2) ∧
    ((fun (w : Source) (id : Nat) (s : State) => fixedSession w = some id ∧ (∀ x ∈ s.mod.di.sessions, x.id ≠ id)) .mgmtPf 1 State.reset) ∧
    ((fun (w _src : Source) (id : Nat) (s : State) => fixedSession w = some id ∧ (∀ x ∈ s.mod.di.sessions, x.id ≠ id)) (.hostPf 47) (.udp 1 2) 0x22F
      State.reset) := by
  refine ⟨?_, ?_, ?_, ?_⟩ <;> decide +kernel

theorem meets_TenantRequestsAreNotProxied :
    ((fun (h : ReqHdr) (b : Body) (c : Instr) (s : State) => asked c = some (h, b) ∧ privOf h.src = .tenant ∧ s.mod.serves h.src = true ∧ winKey h.src
      = none ∧ framed h = true ∧ hdrBad h b = false ∧ (s.mod.sessionFor h).2.1 = .ok ∧ seqNew s.mod h = true ∧ h.target % 4096 ∉ [0, s.mod.rt.id])
      (({ reqOf 8 with src := .proxy 5 77 2, target := 9 })) (.read { oid := 0x003400, ty := 4 }) (.dictRead
      ({ reqOf 8 with src := .proxy 5 77 2, target := 9 }) { oid := 0x003400, ty := 4 }) ((at_ conf))) ∧
    ((fun (h : ReqHdr) (b : Body) (c : Instr) (s : State) => asked c = some (h, b) ∧ privOf h.src = .tenant ∧ s.mod.serves h.src = true ∧ winKey h.src
      = none ∧ framed h = true ∧ hdrBad h b = false ∧ (s.mod.sessionFor h).2.1 = .ok ∧ seqNew s.mod h = true ∧ h.target % 4096 ∉ [0, s.mod.rt.id])
      ({ ({ reqOf 8 with src := .proxy 5 77 2, target := 9 }) with length := 4, wire := 4 }) (.commit 5) (.dictCommit
      { ({ reqOf 8 with src := .proxy 5 77 2, target := 9 }) with length := 4, wire := 4 } 5 false) ((at_ conf))) ∧
    ((fun (h : ReqHdr) (b : Body) (c : Instr) (id : Nat) (s : State) => asked c = some (h, b) ∧ privOf h.src = .tenant ∧ s.mod.serves h.src = true ∧
      fixedSession h.src = some id ∧ framed h = true ∧ h.target % 4096 ∉ [0, s.mod.rt.id])
      ({ reqOf 8 with src := .hostPf 0, session := 0x200, target := 9 }) (.read { oid := 0x003400, ty := 4 }) (.dictRead
      ({ reqOf 8 with src := .hostPf 0, session := 0x200, target := 9 }) { oid := 0x003400, ty := 4 }) 0x200 (at_ fun m => (ready m).setObj (mkOid 4 0x100 1) 1)) := by
  refine ⟨?_, ?_, ?_⟩ <;> decide +kernel

theorem meets_RoleOfAnEnabledPortIsRefused :
    ((fun (src : Source) (p : EdgePort) (v : Fin 256) (_stored : Bool) (r : ObjRow) (x : Mod × Caller) (s : State) => s.mod.serves src = true ∧ x =
      writerOf s.mod src (itemOf (mkOid 4 p 2) v) ∧ ((winKey src = none → LetIn s.mod (s.mod.rowHdr src (itemLen (itemOf (mkOid 4 p 2) v))) (.write (itemOf
      (mkOid 4 p 2) v)))) ∧ x.1.rowFor src (mkOid 4 p 2) = some r ∧ accWrites (rowAcc (privOf src) r) = true ∧ x.1.modeServes src (mkOid 4 p 2) true r.cfg =
      true ∧ x.1.tokenFree x.2 r (mkOid 4 p 2) v = true ∧ x.1.di.lockedOut = [] ∧ s.mod.objv (mkOid 4 p 1) = 1) (.udp 1 2) 3 2 true ((objFind (mkOid 4 3
      2)).get (by decide)) (writerOf ((conf State.reset.mod).setObj (mkOid 4 3 1) 1) (.udp 1 2) (itemOf (mkOid 4 3 2) 2)) (at_ fun m => (conf m).setObj
      (mkOid 4 3 1) 1)) ∧
    ((fun (src : Source) (p : EdgePort) (v : Fin 256) (_stored : Bool) (r : ObjRow) (x : Mod × Caller) (s : State) => s.mod.serves src = true ∧ x =
      writerOf s.mod src (itemOf (mkOid 4 p 2) v) ∧ ((winKey src = none → LetIn s.mod (s.mod.rowHdr src (itemLen (itemOf (mkOid 4 p 2) v))) (.write (itemOf
      (mkOid 4 p 2) v)))) ∧ x.1.rowFor src (mkOid 4 p 2) = some r ∧ accWrites (rowAcc (privOf src) r) = true ∧ x.1.modeServes src (mkOid 4 p 2) true r.cfg =
      true ∧ x.1.tokenFree x.2 r (mkOid 4 p 2) v = true ∧ x.1.di.lockedOut = [] ∧ s.mod.objv (mkOid 4 p 1) = 1) .mgmtPf 47 2 true ((objFind (mkOid 4 47
      2)).get (by decide)) (writerOf ((conf State.reset.mod).setObj (mkOid 4 47 1) 1) .mgmtPf (itemOf (mkOid 4 47 2) 2)) (at_ fun m => (conf m).setObj
      (mkOid 4 47 1) 1)) ∧
    ((fun (src : Source) (p : EdgePort) (_stored : Bool) (r : ObjRow) (x : Mod × Caller) (s : State) => s.mod.serves src = true ∧ x = writerOf s.mod src
      (itemOf (mkOid 4 p 1) 1) ∧ ((winKey src = none → LetIn s.mod (s.mod.rowHdr src (itemLen (itemOf (mkOid 4 p 1) 1))) (.write (itemOf (mkOid 4 p 1) 1))))
      ∧ x.1.rowFor src (mkOid 4 p 1) = some r ∧ accWrites (rowAcc (privOf src) r) = true ∧ x.1.modeServes src (mkOid 4 p 1) true r.cfg = true ∧
      x.1.tokenFree x.2 r (mkOid 4 p 1) 1 = true ∧ x.1.di.lockedOut = [] ∧ s.mod.role p = 0) (.udp 1 2) 3 true ((objFind (mkOid 4 3 1)).get (by decide))
      (writerOf (conf State.reset.mod) (.udp 1 2) (itemOf (mkOid 4 3 1) 1)) ((at_ conf))) := by
  refine ⟨?_, ?_, ?_⟩ <;> decide +kernel

theorem meets_FullReplayBufferHoldsPayloads :
    ((fun (n : FabPort) (s : State) => 512 ≤ (s.mod.link n).replay.length) 15 (at_ fun m => (conf m).onLink 15 fun s =>
      { s with st := .active, replay := List.replicate 512 { seq := 1, words := [] }, tx := [{ w := 1 }, { w := 2 }] })) := by
  decide +kernel

theorem meets_FeedCommandsSetPresenceAndFets :
    ((fun (f : Feed) (mv : Nat) (s : State) => 2700 ≤ mv ∧ (s.mod.feed f).present = false) 0 54000 (at_ id)) ∧
    ((fun (f : Feed) (mv : Nat) (s : State) => mv < 2500 ∧ (s.mod.feed f).present = true) 1 2000 (at_ fun m => m.onFeed 1 fun x =>
      { x with present := true, fet := .full })) ∧
    ((fun (f : Feed) (t : Nat) (s : State) => (s.mod.feed f).absentAt = some t) 0 500 (at_ fun m => m.onFeed 0 fun x =>
      { x with absentAt := some 500, fet := .full })) ∧
    ((fun (f : Feed) (mv : Nat) (s : State) => 62000 ≤ mv ∧ (s.mod.feed f).present = true ∧ (s.mod.feed f).overvolt = false) 0 62000 (at_ fun m => m.onFeed
      0 fun x => { x with present := true, fet := .full })) ∧
    ((fun (f : Feed) (mv : Nat) (s : State) => mv ≤ 61000 ∧ (s.mod.feed f).overvolt = true) 1 61000 (at_ fun m => m.onFeed 1 fun x =>
      { x with overvolt := true, present := true })) ∧
    ((fun (f : Feed) (vbus : Nat) (s : State) => (s.mod.feed f).oring = true ∧ (s.mod.feed f).voltage + 20 ≤ vbus) 0 54020 (at_ fun m => m.onFeed 0 fun x
      => { x with oring := true, carrying := true, voltage := 54000 })) ∧
    ((fun (f : Feed) (mv : Nat) (s : State) => (s.mod.feed f).present = true ∧ s.mod.pw.vbus + 20 ≤ mv) 1 20 (at_ fun m => m.onFeed 1 fun x =>
      { x with present := true })) := by
  refine ⟨?_, ?_, ?_, ?_, ?_, ?_, ?_⟩ <;> decide +kernel

theorem meets_InrushRegulationAndTrips :
    ((fun (f : Feed) (vbus : Nat) (s : State) => (s.mod.feed f).fet = .ramp ∧ (s.mod.feed f).voltage ≤ vbus + 500 ∧ vbus ≤ (s.mod.feed f).voltage +
      500) 0 53500 (at_ fun m => m.onFeed 0 fun x => { x with fet := .ramp, voltage := 54000 })) ∧
    ((fun (f : Feed) (t : Nat) (s : State) => (s.mod.feed f).fet = .ramp ∧ (s.mod.feed f).rampTimeout = some t) 0 7 (at_ fun m => m.onFeed 0 fun x =>
      { x with fet := .ramp, rampTimeout := some 7 })) ∧
    ((fun (s : State) => s.mod.pw.ftStart.isSome = true) (at_ fun m => m.onPw fun p => { p with ftStart := some 0, sumlim := true })) ∧
    ((fun (t : Nat) (s : State) => s.mod.pw.ftStart = some t) 3 (at_ fun m => m.onPw fun p =>
      { p with ftStart := some 3, ftLength := 4000000, sumlim := true, pg := true, a := { p.a with ilim := true, fet := .full }, b := { p.b with present := true, fet := .full } })) ∧
    ((fun (f : Feed) (s : State) => (s.mod.feed f).fet ≠ .off ∧ (s.mod.feed f).present = true ∧ (s.mod.feed f).rev = false) 1 (at_ fun m => m.onFeed 1
      fun x => { x with present := true, fet := .full, count := 15, lastFull := some 0 })) ∧
    ((fun (f : Feed) (s : State) => (s.mod.feed f).fet ≠ .off ∧ (s.mod.feed f).present = true ∧ (s.mod.feed f).rev = false) 0 (at_ fun m => m.onFeed 0
      fun x => { x with present := true, fet := .full, retries := 6, lastFull := some 0 })) ∧
    ((fun (f : Feed) (s : State) => (s.mod.feed f).fet ≠ .off) 1 (at_ fun m => m.onFeed 1 fun x => { x with fet := .ramp })) := by
  refine ⟨?_, ?_, ?_, ?_, ?_, ?_, ?_⟩ <;> decide +kernel

theorem meets_GateChecksLimitsCooldownMetering :
    ((fun (f : Feed) (t : Nat) (s : State) => (s.mod.feed f).fet = .full ∧ (s.mod.feed f).lastFull = some t) 0 0 (at_ fun m => m.onFeed 0 fun x =>
      { x with fet := .full, lastFull := some 0 })) ∧
    ((fun (f : Feed) (s : State) => (s.mod.feed f).fet = .full ∧ (s.mod.feed f).ilim = false) 1 (at_ fun m => m.onFeed 1 fun x => { x with fet := .full })) ∧
    ((fun (f : Feed) (s : State) => (s.mod.feed f).fet = .off ∧ (s.mod.feed f).present = true ∧ (s.mod.feed f).fetShort = false ∧ s.mod.pw.near f = true ∧
      ((s.mod.feed (otherFeed f)).fet = .off ∨ (s.mod.feed (otherFeed f)).present = false)) 0 (at_ fun m => m.onFeed 0 fun x => { x with present := true })) ∧
    ((fun (l : Fin 3) (v t : Nat) (s : State) => (if l = 0 then s.mod.pw.a.limitDue else if l = 1 then s.mod.pw.b.limitDue else s.mod.pw.limitDue) = some
      (v, t)) 2 20000 5 (at_ fun m => m.onPw fun p => { p with limitDue := some (20000, 5) })) ∧
    ((fun (f : Feed) (temp : Int) (t : Nat) (s : State) => (s.mod.feed f).coolEnd = some t ∧ ((s.mod.feed f).hotTrip = true → temp < 125000)) 1 124999 9
      (at_ fun m => m.onFeed 1 fun x => { x with coolEnd := some 9, hotTrip := true, present := true })) ∧
    ((fun (_va _ia _vb _ib _vbus : Nat) (_ta _tb : Int) (s : State) => s.mod.pw.vao = true) 54000 2000 0 0 53900 40000 30000 (at_ fun m => m.onPw fun p =>
      { p with vao := true })) := by
  refine ⟨?_, ?_, ?_, ?_, ?_, ?_⟩ <;> decide +kernel

theorem meets_StartUpReachesItsModes :
    ((fun (s : State) => s.mod.pw.good = true ∧ s.mod.pw.unregulated = true ∧ s.mod.pw.pg = false ∧ s.mod.pw.ftStart = none) (at_ fun m => m.onPw fun p =>
      { p with vao := true, a := { p.a with fet := .full, present := true, oring := true, voltage := 54000 }, vbus := 54000 })) ∧
    ((fun (t : Nat) (s : State) => s.mod.pw.okSince = some t ∧ s.mod.md.mode = .standby ∧ s.mod.md.bootHeld = true ∧ s.mod.pw.vao = true) 5 (at_ fun m =>
      (m.onPw fun p => { p with okSince := some 5, vao := true }).onMd fun b => { b with mode := .standby, bootHeld := true })) ∧
    ((fun (s : State) => s.mod.md.raising = true ∧ s.mod.md.railStep < 6) (at_ fun m => m.onMd fun b =>
      { b with mode := .boot, raising := true, railStep := 5 })) ∧
    ((fun (_fails : List UnitId) (s : State) => s.mod.md.mode = .boot ∧ s.mod.md.railStep = 6 ∧ s.mod.railsUp = true ∧ s.mod.se.boot.ready = true ∧
      s.mod.now < s.mod.md.bootAt + 5 * sec) ([]) (at_ fun m => (m.onMd fun b =>
      { b with mode := .boot, rails := [.vib, .vcore0, .vcore1, .vhub, .vio, .vppm, .vmem, .vsera, .vserh], railStep := 6 }).onSe fun b =>
      { b with boot := { b.boot with ready := true } })) ∧
    ((fun (t : Nat) (s : State) => s.mod.md.mode = .configure ∧ s.mod.md.passEnd = some t) 7 (at_ fun m => m.onMd fun b =>
      { b with mode := .configure, passEnd := some 7 })) ∧
    ((fun (s : State) => s.mod.md.mode = .boot) (at_ fun m => m.onMd fun b => { b with mode := .boot })) ∧
    ((fun (s : State) => s.mod.md.mode = .fault ∧ s.mod.md.serving = false ∧ s.mod.md.raising = false ∧ ([.vib, .vhub, .vio].all fun r =>
      s.mod.md.rails.contains r) = true) (at_ fun m => m.onMd fun b => { b with mode := .fault, rails := [.vib, .vhub, .vio] })) ∧
    ((fun (t : Nat) (s : State) => s.mod.pw.holdupEnd = some t) 9 (at_ fun m => m.onPw fun p => { p with holdupEnd := some 9, vao := true })) := by
  refine ⟨?_, ?_, ?_, ?_, ?_, ?_, ?_, ?_⟩ <;> decide +kernel

theorem meets_GovernorStepsAndFatalEvents :
    ((fun (_t0 _t1 _th : Int) (s : State) => s.mod.md.mode.governed = true ∧ s.mod.md.gov.floor = false) 90000 105000 20000 (at_ fun m => m.onMd fun b
      => { b with mode := .operate })) ∧
    ((fun (i : Nat) (s : State) => s.mod.md.mode.governed = true ∧ ((List.range 12).find? fun i => s.mod.md.slowCh.contains i != decide (2 ≤
      s.mod.md.gov.step)) = some i) 0 (at_ fun m => m.onMd fun b => { b with mode := .capped, gov := { b.gov with step := 2 } })) ∧
    ((fun (t : Nat) (s : State) => s.mod.md.gov.floorSince = some t ∧ (s.mod.md.mode = .configure ∨ s.mod.md.mode = .operate ∨ s.mod.md.mode =
      .capped) ∧ s.mod.md.gov.step = 5 ∧ s.mod.md.gov.isOver = true) 0 (at_ fun m => m.onMd fun b =>
      { b with mode := .capped, gov := { b.gov with step := 5, floor := true, isOver := true, floorSince := some 0 } })) ∧
    ((fun (s : State) => s.mod.md.mode.governed = true ∧ s.mod.md.gov.step < 2) (at_ fun m => m.onMd fun b => { b with mode := .operate })) ∧
    ((fun (_d : Fin 3) (s : State) => s.mod.md.rails ≠ []) 2 (at_ fun m => m.onMd fun b => { b with mode := .operate, rails := [.vib, .vhub] })) ∧
    ((fun (_d : Die) (_cause : Fin 6) (s : State) => 2 ≤ s.mod.md.mode.code ∧ s.mod.md.mode ≠ .fault) 1 0 (at_ fun m => m.onMd fun b =>
      { b with mode := .operate })) ∧
    ((fun (_cause : Fin 6) (s : State) => 2 ≤ s.mod.md.mode.code ∧ s.mod.md.mode ≠ .fault) 5 (at_ fun m => m.onMd fun b => { b with mode := .drain })) ∧
    ((fun (r : Rail) (s : State) => r ∈ s.mod.md.rails) .vmem (at_ fun m => m.onMd fun b => { b with mode := .operate, rails := [.vib, .vmem] })) := by
  refine ⟨?_, ?_, ?_, ?_, ?_, ?_, ?_, ?_⟩ <;> decide +kernel

theorem meets_DrainGoesThroughItsSteps :
    ((fun (s : State) => s.mod.drainAt 2 = true ∧ s.mod.br.wc = [] ∧ s.mod.br.held = [] ∧ (∀ x ∈ s.mod.sv.qps, x.2.started = []) ∧ (∀ x ∈ s.mod.sw.trk,
      x.2.kind = 0 ∨ x.2.kind = 5 ∨ x.2.orphan = true)) (at_ fun m => m.onMd fun b => { b with mode := .drain, drain := { b.drain with step := 2 } })) ∧
    ((fun (s : State) => s.mod.drainAt 3 = true ∧ (∀ x ∈ s.mod.ca.lines, x.2.st = .i) ∧ s.mod.ed.filter = []) (at_ fun m => m.onMd fun b =>
      { b with mode := .drain, drain := { b.drain with step := 3 } })) ∧
    ((fun (i : Fin 65536) (s : State) => s.mod.drainAt 4 = true ∧ i.val ∈ s.mod.homedParcels ∧ s.mod.dPartner i ≠ 0 ∧ s.mod.parcelBusy i = false) 5 (at_
      fun m => ((m.onMd fun b => { b with mode := .drain, drain := { b.drain with step := 4 } }).setObj (descOid 0 5) (2 ^ 64 - 1)).setObj (descOid 1 5) (2
      ^ 64 - 1))) ∧
    ((fun (i : Fin 65536) (s : State) => s.mod.drainAt 4 = true ∧ i.val ∈ s.mod.po.recalling ∧ s.mod.parcelBusy i = false ∧ s.mod.parcelLines i = []) 65535
      (at_ fun m => (m.onMd fun b => { b with mode := .drain, drain := { b.drain with step := 4 } }).onPo fun b => { b with recalling := [65535] })) ∧
    ((fun (s : State) => s.mod.drainAt 4 = true ∧ (∀ i ∈ s.mod.homedParcels, i ∈ s.mod.po.unhomed)) (at_ fun m => m.onMd fun b =>
      { b with mode := .drain, drain := { b.drain with step := 4 } })) ∧
    ((fun (s : State) => s.mod.drainAt 5 = true ∧ (∀ n, n < 16 → (s.mod.link n).st = .down ∨ (s.mod.link n).st = .retired)) (at_ fun m => m.onMd fun b =>
      { b with mode := .drain, drain := { b.drain with step := 5 } })) ∧
    ((fun (s : State) => s.mod.drainAt 6 = true) (at_ fun m => m.onMd fun b => { b with mode := .drain, drain := { b.drain with step := 6 } })) ∧
    ((fun (s : State) => s.mod.md.mode = .drain ∧ s.mod.md.drain.step ≤ 5) (at_ fun m => m.onMd fun b =>
      { b with mode := .drain, drain := { b.drain with step := 5 } })) := by
  refine ⟨?_, ?_, ?_, ?_, ?_, ?_, ?_, ?_⟩ <;> decide +kernel

theorem meets_ClustersRegionsAndLeaks :
    ((fun (k : Cluster) (s : State) => (s.mod.cluster k).locked = true) 15 (at_ fun m => m.onCluster 15 fun c => { c with locked := true })) ∧
    ((fun (k : Cluster) (s : State) => (s.mod.cluster k).locked = false ∧ s.mod.regionGated (k.val / 2) = false ∧ .vsera ∈ s.mod.md.rails) 0 (at_ fun m =>
      m.onMd fun b => { b with rails := [.vsera] })) ∧
    ((fun (r : Region) (s : State) => (s.mod.region r).withdrawn = true ∧ (s.mod.region r).gated = false) 7 (at_ fun m => m.onRegion 7 fun r =>
      { r with withdrawn := true })) ∧
    ((fun (r : Region) (s : State) => (s.mod.region r).gated = true) 3 (at_ fun m => m.onRegion 3 fun r => { r with gated := true })) ∧
    ((fun (d : Die) (u : Fin 53) (s : State) => s.mod.leakLimit u ≤ tget 0 (64 * d.val + u.val) s.mod.cn.leak ∧ 64 * d.val + u.val ∉ s.mod.cn.leakStopped)
      1 52 (at_ fun m => m.onCn fun b => { b with leak := tset 0 116 100000 b.leak })) := by
  refine ⟨?_, ?_, ?_, ?_, ?_⟩ <;> decide +kernel

theorem meets_FlitsGoBackN :
    ((fun (n : FabPort) (f : Flit) (rest : List Flit) (s : State) => (s.mod.link n).st = .active ∧ (s.mod.link n).slot ≠ 31 ∧ (s.mod.link n).dormantHs
      = .none ∧ (s.mod.link n).nakOwed = false ∧ (s.mod.link n).leaveOwed = false ∧ (s.mod.link n).resend = f :: rest) 3
      ({ seq := 7, words := [], pkts := [] }) ([]) (at_ fun m => m.onLink 3 fun s =>
      { s with st := .active, resend := [{ seq := 7, words := [], pkts := [] }] })) ∧
    ((fun (n : FabPort) (ws : List TxWord) (s : State) => (s.mod.link n).st = .active ∧ (s.mod.link n).slot ≠ 31 ∧ (s.mod.link n).dormantHs = .none ∧
      (s.mod.link n).nakOwed = false ∧ (s.mod.link n).leaveOwed = false ∧ (s.mod.link n).resend = [] ∧ ws = txReady (stampSync s.mod.ti.count 29
      (s.mod.link n).tx) ∧ ws ≠ [] ∧ (s.mod.link n).replay.length < 512) 0 ([{ w := 5, fin := true }]) (at_ fun m => m.onLink 0 fun s =>
      { s with st := .active, slot := 30, nextTx := 4095, tx := [{ w := 5, fin := true }] })) ∧
    ((fun (n : FabPort) (s : State) => (s.mod.link n).st = .active ∧ (s.mod.link n).slot = 31 ∧ (s.mod.link n).dormantHs = .none ∧ (s.mod.link
      n).leave = .none ∧ (s.mod.link n).peerLeave = .none) 15 (at_ fun m => m.onLink 15 fun s =>
      { s with st := .active, slot := 31, nakOwed := true })) ∧
    ((fun (n : FabPort) (head : FlitHead) (sent : List Nat) (noise : Noise) (again : Bool) (seq : Nat) (words : List Nat) (fixed : Nat) (s : State) =>
      (s.mod.link n).st = .active ∧ (s.mod.rxSymbols n (s.mod.arriving n (.payload head.replay head.seq sent) noise)).2 = .good (.payload again seq
      words) fixed) 2 ({ seq := 4095 }) ([7]) ([[some 3, none, some 1]]) false 4095 (7 :: List.replicate 28 0) 1 (at_ fun m => m.onLink 2 fun s =>
      { s with st := .active, nextRx := 4095 })) ∧
    ((fun (n : FabPort) (sent : Control) (noise : Noise) (c : Control) (fixed : Nat) (s : State) => (s.mod.link n).st = .active ∧ (s.mod.rxSymbols n
      (s.mod.arriving n (.control sent) noise)).2 = .good (.control c) fixed ∧ c.ctype = 0 ∧ c.nak = false) 2
      ({ ctype := 0, nak := false, ack := 4095, grant := List.replicate 16 0, opens := 128 }) []
      ({ ctype := 0, nak := false, ack := 4095, grant := List.replicate 16 0, opens := 128 }) 0 (at_ fun m => m.onLink 2 fun s =>
      { s with st := .active, replay := [{ seq := 2047, words := [], pkts := [] }, { seq := 2048, words := [], pkts := [] }] })) ∧
    ((fun (n : FabPort) (sent : Control) (noise : Noise) (c : Control) (fixed : Nat) (s : State) => ((s.mod.link n).st = .train ∨ (s.mod.link n).st =
      .retrain) ∧ (s.mod.searchOf n).aligned = true ∧ (s.mod.rxSymbols n (s.mod.arriving n (.control sent) noise)).2 = .good (.control c) fixed ∧
      c.ctype = 1) 2 ({ ctype := 1, grant := List.replicate 16 0, ownId := 5 }) [] ({ ctype := 1, grant := List.replicate 16 0, ownId := 5 }) 0 (at_
      fun m => (m.onLink 2 fun s => { s with st := .train }).onSearch 2 fun x => { x with aligned := true })) ∧
    ((fun (n : FabPort) (noise : Noise) (fixed : Nat) (s : State) => (s.mod.link n).st = .active ∧ (s.mod.rxSymbols n (s.mod.arriving n .null
      noise)).2 = .good .null fixed) 2 (noiseOf (sealed (List.replicate 234 0))) 0 (at_ fun m => m.onLink 2 fun s => { s with st := .active })) ∧
    ((fun (n : FabPort) (sent : FlitForm) (noise : Noise) (got : FlitRx) (fixed : Nat) (s : State) => (s.mod.link n).st = .active ∧ (s.mod.rxSymbols n
      (s.mod.arriving n sent noise)).2 = got ∧ (got = .uncorrectable fixed ∨ got = .crcFailed fixed ∨ got = .reserved fixed)) 2 .null (noiseOf
      (((((sealed (List.replicate 234 0)).set 2 1).set 4 1).set 6 1).set 8 1)) (.uncorrectable 0) 0 (at_ fun m => m.onLink 2 fun s =>
      { s with st := .active })) ∧
    ((fun (n : FabPort) (f : Flit) (rest : List Flit) (t : Nat) (s : State) => (s.mod.link n).st = .active ∧ (s.mod.link n).replay = f :: rest ∧
      (s.mod.link n).replayDeadline = some t ∧ (s.mod.link n).resend = []) 1 ({ seq := 9, words := [], pkts := [] }) ([]) 40 (at_ fun m => m.onLink 1
      fun s => { s with st := .active, replay := [{ seq := 9, words := [], pkts := [] }], replayDeadline := some 40, replayNum := 3 })) := by
  refine ⟨?_, ?_, ?_, ?_, ?_, ?_, ?_, ?_, ?_⟩ <;> decide +kernel

theorem meets_LinkStatesAndHandshake :
    ((fun (n : FabPort) (_asks : List (Fin 4)) (s : State) => (s.mod.link n).st = .down ∧ s.mod.mayTrain = true ∧ s.mod.portTesting (48 + n.val) =
      false ∧ (s.mod.cluster (clusterOfPort (48 + n.val))).locked = true ∧ (s.mod.region (clusterOfPort (48 + n.val) / 2)).gated = false ∧
      s.mod.tp.scanning = false) 0 ([1, 3]) (at_ fun m => ((m.onMd fun b => { b with mode := .operate }).onCluster (clusterOfPort 48) fun c =>
      { c with locked := true }).onLink 0 fun s => { s with lastFail := some 5 })) ∧
    ((fun (n : FabPort) (c : Control) (s : State) => (s.mod.link n).peer = some c ∧ (s.mod.link n).peerSlot = true ∧ ((s.mod.link n).st = .train ∨
      (s.mod.link n).st = .retrain) ∧ (s.mod.link n).heldId = c.ownId ∧ c.heldId = s.mod.ownIdentity n) 0
      ({ ctype := 1, nak := false, ack := 0, grant := [], opens := 0, ownId := 5, heldId := State.reset.mod.ownIdentity 0 }) (at_ fun m => m.onLink 0
      fun s =>
      { s with st := .retrain, heldId := 5, peerSlot := true, peer := some { ctype := 1, nak := false, ack := 0, grant := [], opens := 0, ownId := 5, heldId := State.reset.mod.ownIdentity 0 } })) ∧
    ((fun (n : FabPort) (c : Control) (s : State) => (s.mod.link n).peer = some c ∧ (s.mod.link n).peerSlot = true ∧ ((s.mod.link n).st = .train ∨
      (s.mod.link n).st = .retrain) ∧ ((s.mod.link n).heldId = 0 ∨ (s.mod.link n).heldId = c.ownId) ∧ (c.heldId = 0 ∨ c.heldId = s.mod.ownIdentity n)
      ∧ (¬((s.mod.link n).heldId = c.ownId ∧ c.heldId = s.mod.ownIdentity n))) 0
      ({ ctype := 1, nak := false, ack := 0, grant := [], opens := 0, ownId := 5, heldId := 0 }) (at_ fun m => m.onLink 0 fun s =>
      { s with st := .train, peerSlot := true, peer := some { ctype := 1, nak := false, ack := 0, grant := [], opens := 0, ownId := 5, heldId := 0 } })) ∧
    ((fun (n : FabPort) (c : Control) (s : State) => (s.mod.link n).peer = some c ∧ (s.mod.link n).peerSlot = true ∧ ((s.mod.link n).st = .train ∨
      (s.mod.link n).st = .retrain) ∧ (s.mod.link n).heldId ≠ 0 ∧ (s.mod.link n).heldId ≠ c.ownId ∧ s.mod.holdsNothing n = false) 0
      ({ ctype := 1, nak := false, ack := 0, grant := [], opens := 0, ownId := 5, heldId := 0 }) (at_ fun m => m.onLink 0 fun s =>
      { s with st := .train, heldId := 6, tx := [{ w := 1 }], peerSlot := true, peer := some { ctype := 1, nak := false, ack := 0, grant := [], opens := 0, ownId := 5, heldId := 0 } })) ∧
    ((fun (n : FabPort) (s : State) => ((s.mod.link n).st = .active ∨ (s.mod.link n).st = .retrain)) 7 (at_ fun m => m.onLink 7 fun s =>
      { s with st := .active, peerLeave := .ackSent })) ∧
    ((fun (n : FabPort) (s : State) => (s.mod.link n).st = .retrain) 7 (at_ fun m => m.onLink 7 fun s =>
      { s with st := .retrain, retrainStart := 4 })) ∧
    ((fun (n : FabPort) (s : State) => (s.mod.link n).st = .train) 7 (at_ fun m => m.onLink 7 fun s => { s with st := .train })) ∧
    ((fun (n : FabPort) (t : Nat) (s : State) => (s.mod.link n).st = .dormant ∧ (s.mod.link n).exitAt = some t) 7 9 (at_ fun m => m.onLink 7 fun s =>
      { s with st := .dormant, exitAt := some 9 })) ∧
    ((fun (n : FabPort) (s : State) => (s.mod.link n).peerLeave = .asked ∧ s.mod.holdsNothing n = true ∧ s.mod.rt.changedAt = none ∧
      s.mod.rt.computing = none) 7 (at_ fun m => m.onLink 7 fun s => { s with peerLeave := .asked })) ∧
    ((fun (n : FabPort) (s : State) => (s.mod.link n).replay = [] ∧ (s.mod.link n).st ≠ .down ∧ (s.mod.link n).st ≠ .retired ∧ (((s.mod.link n).leave
      = .acked ∧ ((s.mod.link n).peerLeave = .none ∨ (s.mod.link n).peerLeave = .ackSent)) ∨ ((s.mod.link n).leave ≠ .acked ∧ (s.mod.link n).peerLeave
      = .ackSent))) 7 (at_ fun m => (m.onLink 7 fun s => { s with st := .active, peerLeave := .ackSent }).onRt fun b => { b with adj := [7] })) ∧
    ((fun (n : FabPort) (s : State) => (s.mod.link n).replay = [] ∧ (s.mod.link n).st ≠ .down ∧ (s.mod.link n).st ≠ .retired ∧ (((s.mod.link n).leave
      = .acked ∧ ((s.mod.link n).peerLeave = .none ∨ (s.mod.link n).peerLeave = .ackSent)) ∨ ((s.mod.link n).leave ≠ .acked ∧ (s.mod.link n).peerLeave
      = .ackSent))) 7 (at_ fun m => (m.onLink 7 fun s => { s with st := .active, leave := .acked }).onRt fun b => { b with adj := [7] })) := by
  refine ⟨?_, ?_, ?_, ?_, ?_, ?_, ?_, ?_, ?_, ?_, ?_⟩ <;> decide +kernel

theorem meets_DormantEntryAndExit :
    ((fun (n : FabPort) (s : State) => (s.mod.link n).st = .active ∧ s.mod.objv (mkOid 5 n.val 7) ≠ 0 ∧ (s.mod.link n).dormantHs = .none ∧
      s.mod.holdsNothing n = true) 4 (at_ fun m => (m.onLink 4 fun s => { s with st := .active }).setObj (mkOid 5 4 7) 50)) ∧
    ((fun (n : FabPort) (s : State) => (s.mod.link n).st = .active ∧ (s.mod.link n).dormantHs = .none ∧ (s.mod.link n).dormantAskAt ≠ 0 ∧
      s.mod.holdsNothing n = true ∧ ((s.mod.link n).redundant = true ∨ (s.mod.objv (mkOid 5 n.val 7) ≠ 0 ∧ (s.mod.link n).lastPayload + s.mod.objv
      (mkOid 5 n.val 7) * 1000 ≤ max s.mod.now ((s.mod.link n).dormantAskAt + 10000)))) 4 (at_ fun m => m.onLink 4 fun s =>
      { s with st := .active, dormantAskAt := 1, redundant := true })) ∧
    ((fun (n : FabPort) (s : State) => (s.mod.link n).st = .active ∧ (s.mod.link n).dormantHs = .none ∧ (s.mod.link n).dormantAskAt ≠ 0 ∧
      s.mod.holdsNothing n = true ∧ ((s.mod.link n).redundant = true ∨ (s.mod.objv (mkOid 5 n.val 7) ≠ 0 ∧ (s.mod.link n).lastPayload + s.mod.objv
      (mkOid 5 n.val 7) * 1000 ≤ max s.mod.now ((s.mod.link n).dormantAskAt + 10000)))) 4 (at_ fun m => (m.onLink 4 fun s =>
      { s with st := .active, dormantAskAt := 1 }).setObj (mkOid 5 4 7) 5)) ∧
    ((fun (n : FabPort) (s : State) => (s.mod.link n).st = .active ∧ (s.mod.link n).leave = .none ∧ (s.mod.link n).peerLeave = .none ∧ (s.mod.link
      n).dormantHs = .reqOwed ∧ s.mod.holdsNothing n = true) 4 (at_ fun m => m.onLink 4 fun s => { s with st := .active, dormantHs := .reqOwed })) ∧
    ((fun (n : FabPort) (s : State) => (s.mod.link n).st = .dormant ∧ (s.mod.link n).entering = true) 4 (at_ fun m => m.onLink 4 fun s =>
      { s with st := .dormant, entering := true, exitAsked := true })) ∧
    ((fun (n : FabPort) (s : State) => (s.mod.link n).st = .dormant ∧ (s.mod.link n).exitAt = none ∧ (s.mod.link n).exitAsked = false) 4 (at_ fun m =>
      m.onLink 4 fun s => { s with st := .dormant })) ∧
    ((fun (n : FabPort) (_failed : List (Fin 4)) (s : State) => (s.mod.link n).st = .dormant ∧ (s.mod.link n).exitAt.isSome = true ∧ (s.mod.searchOf
      n).running = false) 4 ([3]) (at_ fun m => m.onLink 4 fun s => { s with st := .dormant, exitAt := some 0 })) := by
  refine ⟨?_, ?_, ?_, ?_, ?_, ?_, ?_⟩ <;> decide +kernel

theorem meets_LanesAlignAndLoseAlignment :
    ((fun (n : FabPort) (_hits : List Nat) (s : State) => (s.mod.searchOf n).running = true ∧ (s.mod.searchOf n).relock = false ∧ s.mod.se.live = none) 5
      ([60, 59, 64, 64]) (at_ fun m => (m.onSearch 5 fun s => { s with running := true, open_ := [0, 1, 2, 3], attempt := 3, round := 31 }).onLink 5 fun s
      => { s with st := .train })) ∧
    ((fun (n : FabPort) (s : State) => (s.mod.searchOf n).running = true) 5 (at_ fun m => m.onSearch 5 fun s => { s with running := true, relock := true })) ∧
    ((fun (n : FabPort) (_skew : Nat) (_reversed : Bool) (_inverted : List (Fin 4)) (_taps : List Taps) (s : State) => (s.mod.searchOf n).running = true ∧
      (s.mod.searchOf n).open_ = []) 5 65 true ([1]) ([]) (at_ fun m => (m.onSearch 5 fun s => { s with running := true, attempt := 3, open_ := [] }).onLink
      5 fun s => { s with st := .train })) ∧
    ((fun (l : Lane) (s : State) => 192 ≤ l.val ∧ (s.mod.searchOf (l.val / 4 - 48)).running = true) 255 (at_ fun m => m.onSearch 15 fun s =>
      { s with running := true, open_ := [] })) ∧
    ((fun (l : Lane) (s : State) => 192 ≤ l.val ∧ (s.mod.link (l.val / 4 - 48)).st = .active) 192 (at_ fun m => m.onLink 0 fun s =>
      { s with st := .active })) ∧
    ((fun (n : FabPort) (s : State) => (s.mod.link n).st = .active) 15 (at_ fun m => m.onLink 15 fun s => { s with st := .active })) := by
  refine ⟨?_, ?_, ?_, ?_, ?_, ?_⟩ <;> decide +kernel

theorem meets_ReferencesWidthAndEdgeTraining :
    ((fun (s : State) => s.mod.ph.refin = true) (at_ fun m => (m.onPh fun b => { b with refin := true }).onCluster 3 fun c =>
      { c with locked := true, source := 1 })) ∧
    ((fun (p : EdgePort) (s : State) => s.mod.lead p = p) 0 (at_ fun m => (m.onMd fun b => { b with mode := .operate }).setObj (mkOid 3 0x100 3) 2)) ∧
    ((fun (p : EdgePort) (s : State) => s.mod.lead p = p) 4 (at_ fun m => (m.onEdge 4 fun x => { x with clkreq := true }).setObj (mkOid 3 0x100 3) 2)) ∧
    ((fun (p : EdgePort) (u1 u2 : Nat) (s : State) => s.mod.lead p = p ∧ (s.mod.edge p).l0p = true ∧ s.mod.objv (mkOid 3 (0x200 + p.val) 3) = 2 ∧ u1 <
      25 ∧ u2 < 25 ∧ 2 ≤ (s.mod.edge p).widthNow ∧ (s.mod.edge p).widthNow ≤ (s.mod.edge p).tr.width) 0 24 0 (at_ fun m => (m.onEdge 0 fun x =>
      { x with link := .l0, tr := { x.tr with width := 4, flit := 2 } }).setObj (mkOid 3 0x200 3) 2)) ∧
    ((fun (p : EdgePort) (s : State) => s.mod.lead p = p ∧ (s.mod.edge p).link = .l0p ∧ s.mod.objv (mkOid 3 (0x200 + p.val) 3) = 2 ∧ 65536 <
      ((List.range 8).map fun c => ((s.mod.queue (qKey p c)).map fun e => pktBytes e.held.pkt).sum).sum) 47 (at_ fun m => ((m.onEdge 47 fun x =>
      { x with link := .l0p, tr := { x.tr with width := 4, flit := 2 } }).setObj (mkOid 3 0x22F 3) 2).onSw fun b =>
      { b with queues := [(qKey 47 4, List.replicate 130 { held := { id := 1, pkt := { len := 16 } } })] })) ∧
    ((fun (p : EdgePort) (w : Nat) (s : State) => s.mod.lead p = p ∧ (s.mod.edge p).l0p = true ∧ 1 ≤ s.mod.objv (mkOid 3 (0x200 + p.val) 3) ∧ w ∈ [1,
      2, 4, 8, 16] ∧ w ≤ (s.mod.edge p).tr.width) 47 4 (at_ fun m => (m.onEdge 47 fun x =>
      { x with link := .l0, tr := { x.tr with width := 4, flit := 2 } }).setObj (mkOid 3 0x22F 3) 1)) ∧
    ((fun (p : EdgePort) (_kind : Fin 5) (s : State) => s.mod.lead p = p) 0 4 (at_ fun m => m.onEdge 0 fun x =>
      { x with link := .l0, dllUp := true })) ∧
    ((fun (p : EdgePort) (kind : Fin 5) (s : State) => s.mod.lead p = p ∧ kind.val ≠ 4 ∧ ((s.mod.edge p).link = .l0 ∨ (s.mod.edge p).link = .l0p ∨
      (s.mod.edge p).link = .l1) ∧ ((kind.val = 1 → bit (s.mod.objv (mkOid 3 (0x200 + p.val) 4)) 0 = true ∧ (s.mod.edge p).clkreqUsed = true)) ∧
      ((kind.val = 2 → bit (s.mod.objv (mkOid 3 (0x200 + p.val) 4)) 1 = true ∧ (s.mod.edge p).clkreqUsed = true))) 0 3 (at_ fun m => m.onEdge 0 fun x
      => { x with link := .l1, dllUp := true })) ∧
    ((fun (p : EdgePort) (kind : Fin 5) (s : State) => s.mod.lead p = p ∧ kind.val ≠ 4 ∧ ((s.mod.edge p).link = .l0 ∨ (s.mod.edge p).link = .l0p ∨
      (s.mod.edge p).link = .l1) ∧ ((kind.val = 1 → bit (s.mod.objv (mkOid 3 (0x200 + p.val) 4)) 0 = true ∧ (s.mod.edge p).clkreqUsed = true)) ∧
      ((kind.val = 2 → bit (s.mod.objv (mkOid 3 (0x200 + p.val) 4)) 1 = true ∧ (s.mod.edge p).clkreqUsed = true))) 0 1 (at_ fun m => (m.onEdge 0 fun x
      => { x with link := .l0, dllUp := true, clkreqUsed := true }).setObj (mkOid 3 0x200 4) 1)) ∧
    ((fun (p : EdgePort) (_t : Trained) (_loop : Bool) (_atomics : List Nat) (_dvsec : Option Nat) (s : State) => s.mod.lead p = p ∧
      s.mod.mayTrainEdge p = true) 0 ({ rate := 5, width := 16, flit := 2, io := true, cache := true, mem := false }) true ([4]) none (at_ fun m =>
      ((((m.onMd fun b => { b with mode := .operate }).onCluster 0 fun c => { c with locked := true, reset := false }).setObj (mkOid 4 0 1) 1).setObj
      (mkOid 4 0 2) 1).onEdge 0 fun x => { x with perst := false })) := by
  refine ⟨?_, ?_, ?_, ?_, ?_, ?_, ?_, ?_, ?_, ?_⟩ <;> decide +kernel

theorem meets_HotAddRemovalAndUnbinding :
    ((fun (p : EdgePort) (s : State) => s.mod.lead p = p ∧ (s.mod.edge p).prsnt = false) 0 (at_ id)) ∧
    ((fun (p : EdgePort) (s : State) => s.mod.lead p = p ∧ s.mod.se.live = none ∧ (s.mod.edge p).hotAdd = .counting ∧ (s.mod.edge p).prsnt = true ∧
      s.mod.portPowered p = true) 0 (at_ fun m => (((m.onMd fun b => { b with mode := .operate }).onCluster 0 fun c =>
      { c with locked := true, reset := false }).setObj (mkOid 4 0 2) 3).onEdge 0 fun x =>
      { x with prsnt := true, hotAdd := .counting, dpc := true })) ∧
    ((fun (p : EdgePort) (s : State) => s.mod.lead p = p ∧ s.mod.se.live = none ∧ (s.mod.edge p).hotAdd = .powered ∧ s.mod.portPowered p = true) 0
      (at_ fun m => (((m.onMd fun b => { b with mode := .operate }).onCluster 0 fun c =>
      { c with locked := true, reset := false, refout := true, refoutSince := 7 }).setObj (mkOid 4 0 2) 3).onEdge 0 fun x =>
      { x with prsnt := true, hotAdd := .powered })) ∧
    ((fun (p : EdgePort) (s : State) => s.mod.lead p = p ∧ s.mod.se.live = none ∧ (s.mod.edge p).hotAdd = .released ∧ (s.mod.edge p).dllUp = true) 0
      (at_ fun m => ((m.setObj (mkOid 4 0 2) 2).setObj (mkOid 4 0 3) 0x101).onEdge 0 fun x => { x with hotAdd := .released, dllUp := true })) ∧
    ((fun (p : EdgePort) (s : State) => s.mod.lead p = p ∧ (s.mod.edge p).prsnt = true) 0 (at_ fun m => (m.setObj (mkOid 4 0 2) 2).onEdge 0 fun x =>
      { x with prsnt := true, hotAdd := .up, dllUp := true })) ∧
    ((fun (p : EdgePort) (s : State) => s.mod.lead p = p ∧ (s.mod.edge p).dllUp = true) 0 (at_ fun m => ((m.setObj (mkOid 4 0 2) 2).setObj (mkOid 4 0
      1) 1).onEdge 0 fun x => { x with prsnt := true, hotAdd := .up, dllUp := true })) ∧
    ((fun (sw : Option SwitchId) (v : Vcs) (n : Vppb) (q : Nat) (s : State) => s.mod.devicePort (sw.map (·.val)) v n = some q ∧ (s.mod.edge
      q).unbind.isSome = true) none 1 1 0 (at_ fun m => (m.setObj (mkOid 4 0 3) 0x101).onEdge 0 fun x =>
      { x with hotAdd := .up, unbind := some (5, 0x101) })) ∧
    ((fun (sw : Option SwitchId) (v : Vcs) (n : Vppb) (q : Nat) (s : State) => s.mod.devicePort (sw.map (·.val)) v n = some q ∧ (s.mod.edge
      q).unbind.isSome = true) (some 9) 1 1 0 (at_ fun m => m.onEdge 0 fun x =>
      { x with hotAdd := .up, farVcs := some (9, 1, 1, 0), unbind := some (5, 0x90101) })) ∧
    ((fun (p : EdgePort) (t b : Nat) (s : State) => s.mod.lead p = p ∧ (s.mod.edge p).unbind = some (t, b)) 0 5 257 (at_ fun m => (m.setObj (mkOid 4 0
      3) 0x101).onEdge 0 fun x => { x with hotAdd := .up, unbind := some (5, 257) })) := by
  refine ⟨?_, ?_, ?_, ?_, ?_, ?_, ?_, ?_, ?_⟩ <;> decide +kernel

theorem meets_IdeFailureAndResets :
    ((fun (p : EdgePort) (i : Fin 6) (s : State) => s.mod.lead p = p ∧ (s.mod.ideSt p i).state = 2) 0 5 (at_ fun m => (m.setObj (mkOid 4 0 2) 1).onIde 0 5
      fun x => { x with state := 2 })) ∧
    ((fun (p : EdgePort) (s : State) => s.mod.lead p = p ∧ (s.mod.edge p).dllUp = true) 0 (at_ fun m => (m.setObj (mkOid 4 0 2) 1).onEdge 0 fun x =>
      { x with dllUp := true })) ∧
    ((fun (p : EdgePort) (s : State) => s.mod.lead p = p ∧ s.mod.role p = 1 ∧ (s.mod.edge p).perst = false) 0 (at_ fun m => ((m.setObj (mkOid 4 0 2)
      1).setObj (mkOid 4 0x102 1) 0).onEdge 0 fun x => { x with dllUp := true, wasUp := true, perst := false })) ∧
    ((fun (p : EdgePort) (s : State) => s.mod.lead p = p ∧ s.mod.role p = 1 ∧ (s.mod.edge p).perst = true) 0 (at_ fun m => (m.setObj (mkOid 4 0 2)
      1).onEdge 0 fun x => { x with perst := true })) ∧
    ((fun (v : Vcs) (n : Vppb) (sw q : Nat) (s : State) => s.mod.boundPort v n = some (sw, q)) 1 1 5 9 (at_ fun m => m.onVppb 1 1 fun x =>
      { x with remote := some (5, 9) })) ∧
    ((fun (v : Vcs) (n : Vppb) (sw q : Nat) (s : State) => (s.mod.vppb v n).resetHold = true ∧ (s.mod.vppb v n).remote = some (sw, q) ∧ sw ≠ s.mod.rt.id ∧
      (∀ x ∈ s.mod.sw.trk, x.2.kind = 1 ∨ x.2.kind = 2 → x.2.orphan = false → x.2.dest = sw → x.2.destPort ≠ q)) 1 1 5 9 (at_ fun m => m.onVppb 1 1 fun x =>
      { x with remote := some (5, 9), resetHold := true })) ∧
    ((fun (i : Nat) (m1 : Mod) (x : Pkt) (s : State) => s.mod.takeInbox i (fun p => decide (p.tc = 7) && decide (fld p.body 56 8 = 7)) = (m1, some x) ∧ fld
      x.body 0 56 < 48 ∧ s.mod.role (s.mod.lead (fld x.body 0 56)) = 2) 0 (State.reset.mod.setObj (mkOid 4 3 2) 2) (tc7Pkt 5 0 7 3 []) (at_ fun m =>
      (m.setObj (mkOid 4 3 2) 2).onSw fun b => { b with inbox := [{ id := 0, port := none, pkt := tc7Pkt 5 0 7 3 [] }] })) := by
  refine ⟨?_, ?_, ?_, ?_, ?_, ?_, ?_⟩ <;> decide +kernel

theorem meets_HostAnswersAndLaneTests :
    ((fun (i p n : Nat) (s : State) => s.mod.ed.scans[i]? = some (p, n)) 0 3 9 (at_ fun m => m.onEd fun b => { b with scans := [(3, 9)] })) ∧
    ((fun (p : EdgePort) (i : Nat) (_dirty : Option Nat) (_poison : Bool) (x : Snoop) (s : State) => s.mod.lead p = p ∧ (s.mod.edge p).stopped = false
      ∧ (s.mod.outSnoops p)[i]? = some x) 0 0 (some 77) true ({ port := 0, line := 5, kind := .data, sent := true, conflict := true }) (at_ fun m =>
      (m.onEd fun b => { b with snoops := [{ port := 0, line := 5, kind := .data, sent := true, conflict := true }] }).onLine 5 fun x =>
      { x with st := .e })) ∧
    ((fun (p : EdgePort) (i : Nat) (x : Snoop) (s : State) => s.mod.lead p = p ∧ (s.mod.outSnoops p)[i]? = some x) 0 0
      ({ port := 0, line := 5, kind := .data, sent := true }) (at_ fun m => m.onEd fun b =>
      { b with snoops := [{ port := 0, line := 5, kind := .data, sent := true }] })) ∧
    ((fun (p : EdgePort) (i _tag _mask _data : Nat) (_poison : Bool) (x : Snoop) (s : State) => s.mod.lead p = p ∧ (s.mod.edge p).stopped = false ∧
      (s.mod.outSnoops p)[i]? = some x ∧ (s.mod.cline x.line).st ≠ .i) 0 0 3 1 255 true ({ port := 0, line := 5, kind := .data, sent := true }) (at_
      fun m => (m.onEd fun b => { b with snoops := [{ port := 0, line := 5, kind := .data, sent := true }] }).onLine 5 fun x => { x with st := .e })) ∧
    ((fun (p : EdgePort) (_i _tag _mask _data : Nat) (_dirty : Option Nat) (_poison : Bool) (s : State) => s.mod.lead p = p ∧ (s.mod.edge p).stopped =
      true) 0 0 3 1 255 (some 77) true (at_ fun m => m.onEdge 0 fun x => { x with stopped := true })) ∧
    ((fun (l : Lane) (_errors : Nat) (s : State) => 5 ≤ fld (s.mod.lane l).test 29 3 ∧ (s.mod.lane l).done = false ∧ s.mod.laneLive l = true) 0
      5000000000 (at_ fun m => (m.onEdge 0 fun x => { x with link := .l0 }).onLane 0 fun x =>
      { x with pstate := 0, rate := 6, test := setFld 0 29 3 5 })) ∧
    ((fun (l : Lane) (_errors _symbols : Nat) (s : State) => (s.mod.lane l).checking = true) 0 3 7 (at_ fun m => m.onLane 0 fun x =>
      { x with lock := true, test := setFld 0 29 3 2 })) ∧
    ((fun (l : Lane) (_errors _symbols : Nat) (s : State) => (s.mod.lane l).checking = true ∧ (s.mod.lane l).lock = true) 0 3 7 (at_ fun m => m.onLane
      0 fun x => { x with lock := true, test := setFld 0 29 3 2 })) := by
  refine ⟨?_, ?_, ?_, ?_, ?_, ?_, ?_, ?_⟩ <;> decide +kernel

theorem meets_RecordsAndRoutes :
    ((fun (_n : FabPort) (r : LinkRecord) (s : State) => s.mod.se.live = none ∧ r.id ≠ s.mod.rt.id ∧ r.id ≠ 0 ∧ (∀ x ∈ s.mod.rt.db, x.lsr.id = r.id →
      x.lsr.epoch = r.epoch → recAhead r.seq x.lsr.seq = true) ∧ (s.mod.rt.db.filter fun x => decide (x.lsr.id = 0) == decide (r.id = 0)).length < 4094) 0
      ({ id := 5, seq := 9 }) (at_ fun m => m.onRt fun b => { b with id := 3, db := [{ lsr := { id := 5, seq := 8 }, at_ := 0 }] })) ∧
    ((fun (_n : FabPort) (r : LinkRecord) (x : StoredRec) (s : State) => s.mod.se.live = none ∧ r.id ≠ s.mod.rt.id ∧ r.id ≠ 0 ∧ s.mod.rt.db.find? (fun x =>
      decide (x.lsr.id = r.id)) = some x ∧ x.lsr.epoch = r.epoch ∧ recAhead r.seq x.lsr.seq = false) 0 ({ id := 5, seq := 8 })
      ({ lsr := { id := 5, seq := 8 }, at_ := 0 }) (at_ fun m => m.onRt fun b => { b with id := 3, db := [{ lsr := { id := 5, seq := 8 }, at_ := 0 }] })) ∧
    ((fun (_n : FabPort) (r : LinkRecord) (k last : Nat) (s : State) => s.mod.se.live = none ∧ r.id = s.mod.rt.id ∧ r.id ≠ 0 ∧ r.epoch < s.mod.lk.epoch ∧
      s.mod.rt.foreign.find? (fun x => decide (x.1 = r.epoch)) = some (k, last) ∧ recAhead r.seq last = true) 0 ({ id := 3, seq := 8, epoch := 1 }) 1 7 (at_
      fun m => (m.onRt fun b => { b with id := 3, foreign := [(1, 7)] }).onLk fun b => { b with epoch := 2 })) ∧
    ((fun (s : State) => s.mod.se.live = none ∧ s.mod.md.mode.pastBootMode = true) (at_ fun m => m.onMd fun b => { b with mode := .operate })) ∧
    ((fun (id epoch : Nat) (x : StoredRec) (s : State) => (s.mod.rt.db.find? (fun x => decide (x.lsr.id = id ∧ x.lsr.epoch = epoch)) = some x)) 5 2
      ({ lsr := { id := 5, epoch := 2 }, at_ := 4 }) (at_ fun m => m.onRt fun b => { b with db := [{ lsr := { id := 5, epoch := 2 }, at_ := 4 }] })) ∧
    ((fun (t : Nat) (s : State) => s.mod.se.live = none ∧ s.mod.rt.changedAt = some t ∧ s.mod.rt.computing = none) 5 (at_ fun m => m.onRt fun b =>
      { b with changedAt := some 5 })) ∧
    ((fun (rs : List LinkRecord) (s : State) => s.mod.se.live = none ∧ s.mod.rt.computing = some rs ∧ s.mod.objv 0x601000 = 0)
      ([{ id := 3, links := [{ nbr := 5, port := 1, far := 2, state := 0, cost := 10 }] },
      { id := 5, links := [{ nbr := 3, port := 2, far := 1, state := 0, cost := 10 }] }]) (at_ fun m => m.onRt fun b =>
      { b with id := 3, computing := some [{ id := 3, links := [{ nbr := 5, port := 1, far := 2, state := 0, cost := 10 }] }, { id := 5, links := [{ nbr := 3, port := 2, far := 1, state := 0, cost := 10 }] }] })) := by
  refine ⟨?_, ?_, ?_, ?_, ?_, ?_, ?_⟩ <;> decide +kernel

theorem meets_TimeExchangeAndHoldover :
    ((fun (n : FabPort) (a b : Nat) (s : State) => s.mod.se.live = none ∧ (s.mod.link n).st = .active ∧ s.mod.hopsToGm s.mod.rt.id = some a ∧
      s.mod.hopsToGm (s.mod.nbrOf n) = some b ∧ (a < b ∨ (a = b ∧ s.mod.rt.id < s.mod.nbrOf n))) 1 0 1 (at_ fun m => (((m.onTi fun t =>
      { t with gm := 3 }).onRt fun b =>
      { b with id := 3, adj := [1], db := [{ lsr := { id := 5, links := [{ nbr := 3, port := 2, far := 1, state := 0, cost := 10 }] }, at_ := 0 }] }).onLink
      1 fun s => { s with st := .active, heldId := 5 * 2 ^ 52 + 2 * 2 ^ 48, openTx := [7], openRx := [7] }))) ∧
    ((fun (n : FabPort) (_t1 : Nat) (s : State) => s.mod.se.live = none ∧ (s.mod.link n).st = .active) 1 77 (at_ fun m => m.onLink 1 fun s =>
      { s with st := .active })) ∧
    ((fun (n : FabPort) (s : State) => s.mod.se.live = none ∧ (s.mod.link n).st = .active) 1 (at_ fun m => m.onLink 1 fun s => { s with st := .active })) ∧
    ((fun (n : FabPort) (_t4 : Nat) (s : State) => s.mod.se.live = none ∧ (tget {} n.val s.mod.ti.ex).open_ = true) 1 300000 (at_ fun m => m.onTi fun t =>
      { t with parent := some 1, count := 500000, ex := [(1, { t1 := 100000, t2 := 200000, t3 := 200000, open_ := true })] })) ∧
    ((fun (p : Nat) (s : State) => s.mod.ti.st = .locked ∧ s.mod.ti.parent = some p) 1 (at_ fun m => m.onTi fun t =>
      { t with st := .locked, parent := some 1 })) := by
  refine ⟨?_, ?_, ?_, ?_, ?_⟩ <;> decide +kernel

theorem meets_PacketsThroughTheSwitchCore :
    ((fun (i : Nat) (h : Held) (s : State) => s.mod.forwards = true ∧ s.mod.sw.waiting[i]? = some h ∧ s.mod.sw.waiting.find? (fun x => decide (x.id =
      h.id)) = some h ∧ h.die ∉ s.mod.md.dieStopped ∧ h.refs = [] ∧ h.target = none ∧ h.pkt.dest = s.mod.rt.id ∧ 4 * h.pkt.len ≤ h.got ∧
      s.mod.pruneKept.keptBack i h none = false ∧ (h.pkt.tc ≠ 7 ∨ (h.pkt.fmt = 1 ∧ 6 ≤ fld h.pkt.body 56 8 ∧ fld h.pkt.body 56 8 ≤ 7))) 0
      ({ id := 4, pkt := { tc := 0, dest := 0, src := 0, body := 0 } }) (at_ fun m => (m.onMd fun b => { b with mode := .operate }).onSw fun b =>
      { b with waiting := [{ id := 4, pkt := { tc := 0, dest := 0, src := 0, body := 0 } }] })) ∧
    ((fun (i : Nat) (h : Held) (s : State) => s.mod.forwards = true ∧ s.mod.sw.waiting[i]? = some h ∧ s.mod.sw.waiting.find? (fun x => decide (x.id =
      h.id)) = some h ∧ h.die ∉ s.mod.md.dieStopped ∧ h.refs = [] ∧ h.target = none ∧ h.pkt.dest = s.mod.rt.id ∧ 4 * h.pkt.len ≤ h.got ∧
      s.mod.pruneKept.keptBack i h none = false ∧ h.pkt.tc = 7 ∧ (h.pkt.fmt ≠ 1 ∨ fld h.pkt.body 56 8 = 0 ∨ 7 < fld h.pkt.body 56 8)) 0
      ({ id := 4, pkt := { tc := 7, dest := 0, src := 0, body := 8 * 2 ^ 56 } }) (at_ fun m => (m.onMd fun b => { b with mode := .operate }).onSw fun
      b => { b with waiting := [{ id := 4, pkt := { tc := 7, dest := 0, src := 0, body := 8 * 2 ^ 56 } }] })) ∧
    ((fun (i : Nat) (h : Held) (t need : Nat) (s : State) => s.mod.forwards = true ∧ s.mod.sw.waiting[i]? = some h ∧ s.mod.sw.waiting.find? (fun x =>
      decide (x.id = h.id)) = some h ∧ h.die ∉ s.mod.md.dieStopped ∧ h.refs = [] ∧ h.target = some t ∧ t < 64 ∧ s.mod.pruneKept.keptBack i h (some
      (queueToward h.die t h.pkt.tc)) = false ∧ (48 ≤ t → (s.mod.link (t - 48)).st ≠ .retired) ∧ s.mod.pruneKept.admitNeed (queueToward h.die t
      h.pkt.tc) (pktCells h.pkt) = some need) 0 ({ id := 4, pkt := { tc := 0, dest := 5, src := 0, body := 0 }, target := some 48 }) 48 0 (at_ fun m
      => ((m.onMd fun b => { b with mode := .operate }).setObj (mkOid 7 0x20 3) 8).onSw fun b =>
      { b with waiting := [{ id := 4, pkt := { tc := 0, dest := 5, src := 0, body := 0 }, target := some 48 }] })) ∧
    ((fun (p : EdgePort) (credits : Nat) (e : QEnt) (s : State) => s.mod.forwards = true ∧ dieOfPort p ∉ s.mod.md.dieStopped ∧ s.mod.midPacket p =
      false ∧ (s.mod.sched p).rrControl = false ∧ s.mod.headOf p credits 1 = some e ∧ 4 * e.held.pkt.len ≤ e.held.got ∧ e.held.pkt.tc = 1) 0 255
      ({ held := { id := 4, blk := .snoop, pkt := { tc := 1, dest := 0, src := 0, body := 0 }, target := some 0 } }) (at_ fun m => ((m.onMd fun b =>
      { b with mode := .operate }).setQueue (qKey 0 1)
      [{ held := { id := 4, blk := .snoop, pkt := { tc := 1, dest := 0, src := 0, body := 0 }, target := some 0 } }]).onEdge 0 fun x =>
      { x with link := .l0, dllUp := true, tr := { x.tr with rate := 5, width := 4 } })) ∧
    ((fun (n : FabPort) (credits : Nat) (e : QEnt) (s : State) => s.mod.forwards = true ∧ dieOfPort (48 + n.val) ∉ s.mod.md.dieStopped ∧
      s.mod.midPacket (48 + n.val) = false ∧ (s.mod.sched (48 + n.val)).rrControl = true ∧ s.mod.headOf (48 + n.val) credits 7 = some e ∧ 4 *
      e.held.pkt.len ≤ e.held.got) 0 0 ({ held := { id := 4, pkt := { tc := 7, dest := 5, src := 0, body := 0 }, target := some 48 } }) (at_ fun m =>
      (((m.onMd fun b => { b with mode := .operate }).setQueue (qKey 48 7)
      [{ held := { id := 4, pkt := { tc := 7, dest := 5, src := 0, body := 0 }, target := some 48 } }]).onLink 0 fun x =>
      { x with st := .active, openTx := [7], limit := [(7, { h := 1, d := 4 })] }).onSched 48 fun s => { s with rrControl := true })) ∧
    ((fun (p : PortIx) (k : Nat) (e : QEnt) (s : State) => (List.range 8).findSome? (fun c => ((s.mod.queue (qKey p c)).find? fun e => e.cut &&
      !e.resend && decide (e.held.got < 4 * e.held.pkt.len)).map fun e => (qKey p c, e)) = some (k, e)) 48 (qKey 48 0)
      ({ held := { id := 4, pkt := { tc := 0, len := 1, dest := 5, src := 0, body := 0 }, target := some 48 }, cut := true, sent := 0 }) (at_ fun m =>
      m.setQueue (qKey 48 0)
      [{ held := { id := 4, pkt := { tc := 0, len := 1, dest := 5, src := 0, body := 0 }, target := some 48 }, cut := true, sent := 0 }])) ∧
    ((fun (p : PortIx) (c : Tc) (t : Tenant) (b : Bool) (e : QEnt) (s : State) => s.mod.agedHead p c t b = some e) 0 6 0 false
      ({ held := { id := 4, pkt := { tc := 6, dest := 5, src := 0, body := 0 }, target := some 0 } }) (at_ fun m => (m.setQueue (qKey 0 6)
      [{ held := { id := 4, pkt := { tc := 6, dest := 5, src := 0, body := 0 }, target := some 0 } }]).onSw fun b =>
      { b with age := [(qKey 0 6, 10 ^ 12)] })) ∧
    ((fun (p : PortIx) (e pos : Nat) (s : State) => s.mod.gatePos p = some (e, pos)) 0 0 0 (at_ fun m => (((m.onSched 0 fun s =>
      { s with gateRun := true }).setObj (gateObj 0 2) 1).setObj (gateOid 0 0) 1000))) := by
  refine ⟨?_, ?_, ?_, ?_, ?_, ?_, ?_, ?_⟩ <;> decide +kernel

theorem meets_TrackerBridgeCrcAndSampler :
    ((fun (tid code k : Nat) (_poison : Bool) (_words : List Nat) (s : State) => s.mod.trkOfTid (tid % 2 ^ 24) = some k ∧ ((s.mod.trk k).orphan = true ∨
      code ≠ 0 ∨ (s.mod.trk k).kind = 1 ∨ (s.mod.trk k).kind = 2)) 3 0 3 false ([]) (at_ fun m => m.setTrk 3 { kind := 1, orphan := true })) ∧
    ((fun (tid _code : Nat) (_poison : Bool) (_words : List Nat) (s : State) => s.mod.trkOfTid (tid % 2 ^ 24) = none) 3 0 false ([]) (at_ id)) ∧
    ((fun (k : Fin 131072) (t : Nat) (s : State) => (s.mod.trk k).deadline = some t ∧ (s.mod.trk k).kind ≠ 0 ∧ (s.mod.trk k).orphan = false) 131071 9 (at_
      fun m => m.setTrk 131071 { kind := 2, deadline := some 9 })) ∧
    ((fun (k : Fin 131072) (s : State) => (s.mod.trk k).kind ≠ 0 ∧ (s.mod.trk k).orphan = true) 131071 (at_ fun m => m.setTrk 131071
      { kind := 2, orphan := true, gen := 127 })) ∧
    ((fun (d : Die) (x : Nat × Bool × Bool × Nat) (s : State) => bit (s.mod.objv (mkOid 8 (0x900 + d.val) 1)) 31 = true ∧ bit (s.mod.objv (mkOid 8 (0x900 +
      d.val) 1)) 27 = false ∧ (s.mod.sampled d)[(tget {} d.val s.mod.sc.samplers).pos]? = some x) 1 ((24, false, false, 0)) (at_ fun m => (((m.setObj (mkOid
      8 0x901 1) (2 ^ 31 + 2 ^ 30)).setObj (mkOid 8 0x901 2) (2 ^ 24)).setObj (mkOid 8 0x901 4) 64).setObj (mkOid 8 0x901 3) 4096)) := by
  refine ⟨?_, ?_, ?_, ?_, ?_⟩ <;> decide +kernel

theorem meets_ExtentsBindAndRelease :
    ((fun (e : Fin 4096) (_res _d0 : Nat) (s : State) => extState (s.mod.objv (extOid e)) = 2 ∧ (s.mod.extAux e).size = none) 0 0 0 (at_ fun m => m.setObj
      (extOid 0) (2 * 2 ^ 61))) ∧
    ((fun (e : Fin 4096) (_res _d0 : Nat) (s : State) => extState (s.mod.objv (extOid e)) = 2 ∧ (s.mod.extAux e).size = none) 4095 (3 * 2 ^ 61) 0 (at_ fun
      m => m.setObj (extOid 4095) (2 * 2 ^ 61))) ∧
    ((fun (e : Fin 4096) (_accept : Bool) (s : State) => extState (s.mod.objv (extOid e)) = 2 ∧ (s.mod.extAux e).size.isSome = true) 0 true (at_ fun m =>
      (m.setObj (extOid 0) (2 * 2 ^ 61)).onExt 0 fun x => { x with size := some 0 })) ∧
    ((fun (e : Fin 4096) (_accept : Bool) (s : State) => extState (s.mod.objv (extOid e)) = 2 ∧ (s.mod.extAux e).size.isSome = true) 0 false (at_ fun m =>
      ((m.setObj (extOid 0) (2 * 2 ^ 61 + 5 * 2 ^ 40)).onExt 0 fun x => { x with size := some 0 }).onRt fun b => { b with id := 1 })) ∧
    ((fun (e : Fin 4096) (s : State) => extState (s.mod.objv (extOid e)) = 6 ∧ (s.mod.extAux e).flushing = false) 0 (at_ fun m => m.setObj (extOid 0) (6 *
      2 ^ 61))) ∧
    ((fun (e : Fin 4096) (s : State) => 3 ≤ extState (s.mod.objv (extOid e)) ∧ extState (s.mod.objv (extOid e)) ≤ 5 ∧ (s.mod.extAux e).unbinding = false ∧
      (s.mod.extAux e).flushing = false) 0 (at_ fun m => m.setObj (extOid 0) (3 * 2 ^ 61))) ∧
    ((fun (e : Fin 4096) (s : State) => (s.mod.extAux e).unbinding = true) 0 (at_ fun m => (m.setObj (extOid 0) (5 * 2 ^ 61)).onExt 0 fun x =>
      { x with unbinding := true })) ∧
    ((fun (e : Fin 4096) (s : State) => (s.mod.extAux e).unbinding = true) 0 (at_ fun m => (m.setObj (extOid 0) (7 * 2 ^ 61)).onExt 0 fun x =>
      { x with unbinding := true })) ∧
    ((fun (e : Fin 4096) (t : Nat) (s : State) => extState (s.mod.objv (extOid e)) = 5 ∧ (s.mod.extAux e).askedAt = some t ∧ (s.mod.extAux e).flushing =
      false ∧ (s.mod.extAux e).unbinding = false) 0 9 (at_ fun m => (m.setObj (extOid 0) (5 * 2 ^ 61)).onExt 0 fun x => { x with askedAt := some 9 })) := by
  refine ⟨?_, ?_, ?_, ?_, ?_, ?_, ?_, ?_, ?_⟩ <;> decide +kernel

theorem meets_ParcelsMoveAndMigrate :
    ((fun (i : Fin 65536) (_ok : Bool) (s : State) => bit (s.mod.d0 i) 20 = true) 5 true (at_ fun m => m.setObj (descOid 0 5) (2 ^ 61 + 2 ^ 20))) ∧
    ((fun (i : Fin 65536) (_ok : Bool) (s : State) => bit (s.mod.d0 i) 20 = true) 5 false (at_ fun m => m.setObj (descOid 0 5) (2 ^ 61 + 2 ^ 20))) ∧
    ((fun (_n : FabPort) (seq old _oldDesc _new _newDesc _cause : Nat) (s : State) => ((∀ x, s.mod.rt.moves.find? (fun x => decide (x.1 = old)) = some x →
      recAhead seq x.2 = true))) 0 7 2 3 4 5 1 (at_ fun m => (m.onRt fun b => { b with id := 1 }).setObj (extOid 0) (3 * 2 ^ 61 + 2 * 2 ^ 40 + 3 * 2 ^ 24))) ∧
    ((fun (_n : FabPort) (seq old _oldDesc _new _newDesc _cause : Nat) (x : Nat × Nat) (s : State) => s.mod.rt.moves.find? (fun x => decide (x.1 = old)) =
      some x ∧ recAhead seq x.2 = false) 0 7 2 3 4 5 1 ((2, 9)) (at_ fun m => m.onRt fun b => { b with moves := [(2, 9)] })) ∧
    ((fun (i : Fin 65536) (s : State) => s.mod.mState i = 1 ∧ s.mod.po.migs.length < s.mod.objv 0x900500 ∧ s.mod.migDestOk i (s.mod.mDest i) = true) 5 (at_
      fun m => ((m.setObj (descOid 0 5) (2 ^ 61)).setObj (descOid 0 6) (2 ^ 61)).setObj (descOid 6 5) (2 ^ 61 + 6 * 2 ^ 45))) ∧
    ((fun (i : Fin 65536) (g : Mig) (s : State) => tget none i.val (s.mod.po.migs.map fun x => (x.1, some x.2)) = some g ∧ g.final = false) 5
      ({ pass := 8 }) (at_ fun m => m.onPo fun b => { b with migs := [(5, { pass := 8 })] })) ∧
    ((fun (i : Fin 65536) (g : Mig) (s : State) => tget none i.val (s.mod.po.migs.map fun x => (x.1, some x.2)) = some g ∧ g.final = true ∧ s.mod.mDest i ≠
      i.val) 5 ({ pass := 9, final := true }) (at_ fun m => (((m.setObj (descOid 0 5) (3 * 2 ^ 61)).setObj (descOid 0 6) (2 ^ 61)).setObj (descOid 6 5) (3 *
      2 ^ 61 + 6 * 2 ^ 45)).onPo fun b => { b with migs := [(5, { pass := 9, final := true })] })) ∧
    ((fun (i : Fin 65536) (s : State) => (s.mod.mState i = 1 ∨ (tget none i.val (s.mod.po.migs.map fun x => (x.1, some x.2))).isSome = true)) 5 (at_ fun m
      => m.setObj (descOid 6 5) (2 ^ 61))) ∧
    ((fun (i : Fin 65536) (s : State) => i.val ∈ s.mod.po.zeroing ∧ s.mod.dState i = 5) 5 (at_ fun m => (m.setObj (descOid 0 5) (5 * 2 ^ 61)).onPo fun b =>
      { b with zeroing := [5] })) := by
  refine ⟨?_, ?_, ?_, ?_, ?_, ?_, ?_, ?_, ?_⟩ <;> decide +kernel

theorem meets_HomeRequestsQueueInOrder :
    ((fun (i : Nat) (b : Inbox) (c : Instr) (k : MsgKind) (op : Nat) (keep : Bool) (s : State) => (c, k, op, keep) ∈ [(Instr.homeRdshared i,
      MsgKind.rdShared, 0, false), (.homeRdown i, .rdOwn, 1, false), (.homeUpgrade i, .upgrade, 2, false), (.homeWbdirty i, .wbDirty, 3, false),
      (.homeWbdirtyKeep i, .wbDirty, 3, true), (.homeEvictexcl i, .evictExcl, 4, false), (.homeFlushowned i, .flushOwned, 5, false)] ∧ Arrives s.mod i k b ∧
      (op = 3 → bit b.pkt.body 59 = keep) ∧ (∀ d : Die, (s.mod.kind5 b.port d.val).isSome = true) ∧ ((s.mod.txn (dirKey (pktLine b.pkt))).isSome = true ∨
      s.mod.homeQueue (dirKey (pktLine b.pkt)) ≠ [])) 0 ({ id := 0, port := none, pkt := tc0Pkt 2 .rdShared (lineKey 1 3 64) false false 0 false })
      (.homeRdshared 0) .rdShared 0 false (at_ fun m => (((m.onRt fun b => { b with id := 1 }).setTxn (dirKey (lineKey 1 3 64)) { busy := .c }).setObj
      (descOid 0 3) (2 ^ 61)).onSw fun b => { b with inbox := [{ id := 0, port := none, pkt := tc0Pkt 2 .rdShared (lineKey 1 3 64) false false 0 false }] })) ∧
    ((fun (i : Nat) (b : Inbox) (c : Instr) (k : MsgKind) (op : Nat) (keep : Bool) (s : State) => (c, k, op, keep) ∈ [(Instr.homeRdshared i,
      MsgKind.rdShared, 0, false), (.homeRdown i, .rdOwn, 1, false), (.homeUpgrade i, .upgrade, 2, false), (.homeWbdirty i, .wbDirty, 3, false),
      (.homeWbdirtyKeep i, .wbDirty, 3, true), (.homeEvictexcl i, .evictExcl, 4, false), (.homeFlushowned i, .flushOwned, 5, false)] ∧ Arrives s.mod i k b ∧
      (op = 3 → bit b.pkt.body 59 = keep) ∧ (∀ d : Die, (s.mod.kind5 b.port d.val).isSome = true) ∧ ((s.mod.txn (dirKey (pktLine b.pkt))).isSome = true ∨
      s.mod.homeQueue (dirKey (pktLine b.pkt)) ≠ [])) 0 ({ id := 0, port := none, pkt := tc0Pkt 2 .rdOwn (lineKey 1 3 64) false false 0 false }) (.homeRdown
      0) .rdOwn 1 false (at_ fun m => (((m.onRt fun b => { b with id := 1 }).setTxn (dirKey (lineKey 1 3 64)) { busy := .c }).setObj (descOid 0 3) (2 ^
      61)).onSw fun b => { b with inbox := [{ id := 0, port := none, pkt := tc0Pkt 2 .rdOwn (lineKey 1 3 64) false false 0 false }] })) ∧
    ((fun (i : Nat) (b : Inbox) (c : Instr) (k : MsgKind) (op : Nat) (keep : Bool) (s : State) => (c, k, op, keep) ∈ [(Instr.homeRdshared i,
      MsgKind.rdShared, 0, false), (.homeRdown i, .rdOwn, 1, false), (.homeUpgrade i, .upgrade, 2, false), (.homeWbdirty i, .wbDirty, 3, false),
      (.homeWbdirtyKeep i, .wbDirty, 3, true), (.homeEvictexcl i, .evictExcl, 4, false), (.homeFlushowned i, .flushOwned, 5, false)] ∧ Arrives s.mod i k b ∧
      (op = 3 → bit b.pkt.body 59 = keep) ∧ (∀ d : Die, (s.mod.kind5 b.port d.val).isSome = true) ∧ ((s.mod.txn (dirKey (pktLine b.pkt))).isSome = true ∨
      s.mod.homeQueue (dirKey (pktLine b.pkt)) ≠ [])) 0 ({ id := 0, port := none, pkt := tc0Pkt 2 .upgrade (lineKey 1 3 64) false false 0 false })
      (.homeUpgrade 0) .upgrade 2 false (at_ fun m => (((m.onRt fun b => { b with id := 1 }).setTxn (dirKey (lineKey 1 3 64)) { busy := .c }).setObj
      (descOid 0 3) (2 ^ 61)).onSw fun b => { b with inbox := [{ id := 0, port := none, pkt := tc0Pkt 2 .upgrade (lineKey 1 3 64) false false 0 false }] })) ∧
    ((fun (i : Nat) (b : Inbox) (c : Instr) (k : MsgKind) (op : Nat) (keep : Bool) (s : State) => (c, k, op, keep) ∈ [(Instr.homeRdshared i,
      MsgKind.rdShared, 0, false), (.homeRdown i, .rdOwn, 1, false), (.homeUpgrade i, .upgrade, 2, false), (.homeWbdirty i, .wbDirty, 3, false),
      (.homeWbdirtyKeep i, .wbDirty, 3, true), (.homeEvictexcl i, .evictExcl, 4, false), (.homeFlushowned i, .flushOwned, 5, false)] ∧ Arrives s.mod i k b ∧
      (op = 3 → bit b.pkt.body 59 = keep) ∧ (∀ d : Die, (s.mod.kind5 b.port d.val).isSome = true) ∧ ((s.mod.txn (dirKey (pktLine b.pkt))).isSome = true ∨
      s.mod.homeQueue (dirKey (pktLine b.pkt)) ≠ [])) 0 ({ id := 0, port := none, pkt := tc0Pkt 2 .wbDirty (lineKey 1 3 64) false false 0 false })
      (.homeWbdirty 0) .wbDirty 3 false (at_ fun m => (((m.onRt fun b => { b with id := 1 }).setTxn (dirKey (lineKey 1 3 64)) { busy := .c }).setObj
      (descOid 0 3) (2 ^ 61)).onSw fun b => { b with inbox := [{ id := 0, port := none, pkt := tc0Pkt 2 .wbDirty (lineKey 1 3 64) false false 0 false }] })) ∧
    ((fun (i : Nat) (b : Inbox) (c : Instr) (k : MsgKind) (op : Nat) (keep : Bool) (s : State) => (c, k, op, keep) ∈ [(Instr.homeRdshared i,
      MsgKind.rdShared, 0, false), (.homeRdown i, .rdOwn, 1, false), (.homeUpgrade i, .upgrade, 2, false), (.homeWbdirty i, .wbDirty, 3, false),
      (.homeWbdirtyKeep i, .wbDirty, 3, true), (.homeEvictexcl i, .evictExcl, 4, false), (.homeFlushowned i, .flushOwned, 5, false)] ∧ Arrives s.mod i k b ∧
      (op = 3 → bit b.pkt.body 59 = keep) ∧ (∀ d : Die, (s.mod.kind5 b.port d.val).isSome = true) ∧ ((s.mod.txn (dirKey (pktLine b.pkt))).isSome = true ∨
      s.mod.homeQueue (dirKey (pktLine b.pkt)) ≠ [])) 0 ({ id := 0, port := none, pkt := tc0Pkt 2 .wbDirty (lineKey 1 3 64) false true 0 false })
      (.homeWbdirtyKeep 0) .wbDirty 3 true (at_ fun m => (((m.onRt fun b => { b with id := 1 }).setTxn (dirKey (lineKey 1 3 64)) { busy := .c }).setObj
      (descOid 0 3) (2 ^ 61)).onSw fun b => { b with inbox := [{ id := 0, port := none, pkt := tc0Pkt 2 .wbDirty (lineKey 1 3 64) false true 0 false }] })) ∧
    ((fun (i : Nat) (b : Inbox) (c : Instr) (k : MsgKind) (op : Nat) (keep : Bool) (s : State) => (c, k, op, keep) ∈ [(Instr.homeRdshared i,
      MsgKind.rdShared, 0, false), (.homeRdown i, .rdOwn, 1, false), (.homeUpgrade i, .upgrade, 2, false), (.homeWbdirty i, .wbDirty, 3, false),
      (.homeWbdirtyKeep i, .wbDirty, 3, true), (.homeEvictexcl i, .evictExcl, 4, false), (.homeFlushowned i, .flushOwned, 5, false)] ∧ Arrives s.mod i k b ∧
      (op = 3 → bit b.pkt.body 59 = keep) ∧ (∀ d : Die, (s.mod.kind5 b.port d.val).isSome = true) ∧ ((s.mod.txn (dirKey (pktLine b.pkt))).isSome = true ∨
      s.mod.homeQueue (dirKey (pktLine b.pkt)) ≠ [])) 0 ({ id := 0, port := none, pkt := tc0Pkt 2 .evictExcl (lineKey 1 3 64) false false 0 false })
      (.homeEvictexcl 0) .evictExcl 4 false (at_ fun m => (((m.onRt fun b => { b with id := 1 }).setTxn (dirKey (lineKey 1 3 64)) { busy := .c }).setObj
      (descOid 0 3) (2 ^ 61)).onSw fun b =>
      { b with inbox := [{ id := 0, port := none, pkt := tc0Pkt 2 .evictExcl (lineKey 1 3 64) false false 0 false }] })) ∧
    ((fun (i : Nat) (b : Inbox) (c : Instr) (k : MsgKind) (op : Nat) (keep : Bool) (s : State) => (c, k, op, keep) ∈ [(Instr.homeRdshared i,
      MsgKind.rdShared, 0, false), (.homeRdown i, .rdOwn, 1, false), (.homeUpgrade i, .upgrade, 2, false), (.homeWbdirty i, .wbDirty, 3, false),
      (.homeWbdirtyKeep i, .wbDirty, 3, true), (.homeEvictexcl i, .evictExcl, 4, false), (.homeFlushowned i, .flushOwned, 5, false)] ∧ Arrives s.mod i k b ∧
      (op = 3 → bit b.pkt.body 59 = keep) ∧ (∀ d : Die, (s.mod.kind5 b.port d.val).isSome = true) ∧ ((s.mod.txn (dirKey (pktLine b.pkt))).isSome = true ∨
      s.mod.homeQueue (dirKey (pktLine b.pkt)) ≠ [])) 0 ({ id := 0, port := none, pkt := tc0Pkt 2 .flushOwned (lineKey 1 3 64) false false 0 false })
      (.homeFlushowned 0) .flushOwned 5 false (at_ fun m => (((m.onRt fun b => { b with id := 1 }).setTxn (dirKey (lineKey 1 3 64)) { busy := .c }).setObj
      (descOid 0 3) (2 ^ 61)).onSw fun b =>
      { b with inbox := [{ id := 0, port := none, pkt := tc0Pkt 2 .flushOwned (lineKey 1 3 64) false false 0 false }] })) ∧
    ((fun (desc off : Nat) (r : HReq) (rest : List HReq) (s : State) => s.mod.txn (lineOf desc off) = none ∧ s.mod.homeQueue (lineOf desc off) = r :: rest
      ∧ r.op ≤ 2 ∧ s.mod.served (lineOf desc off / 2 ^ 48) = true ∧ s.mod.handedOff (lineOf desc off / 2 ^ 48) = false ∧ r.from_ ∈ s.mod.members (lineOf
      desc off / 2 ^ 48) ∧ s.mod.ho.lost = [] ∧ (s.mod.dent (lineOf desc off)).st = .uncached) 3 64 ({ op := 1, from_ := 2 }) ([]) (at_ fun m => (((m.onRt
      fun b => { b with id := 1 }).setObj (descOid 0 3) (2 ^ 61 + 1 * 2 ^ 41)).setObj (setOid 1) (2 * 2 ^ 756)).setHomeQueue (lineOf 3 64)
      [{ op := 1, from_ := 2 }])) := by
  refine ⟨?_, ?_, ?_, ?_, ?_, ?_, ?_, ?_⟩ <;> decide +kernel

theorem meets_HomeTransactionsProceed :
    ((fun (i : Nat) (b : Inbox) (t : Txn) (s : State) => Arrives s.mod i .cmp b ∧ s.mod.txn (dirKey (pktLine b.pkt)) = some t ∧ t.busy = .c ∧ lineHome
      (pktLine b.pkt) = s.mod.rt.id ∧ t.req.map (·.from_) = some b.pkt.src) 0
      ({ id := 0, port := none, pkt := tc2Pkt 2 1 3 (lineKey 1 3 64) 16 0 false })
      ({ busy := .c, req := some { op := 1, from_ := 2 }, next := { st := .exclusive, owner := 2 } }) (at_ fun m => (((m.onRt fun b =>
      { b with id := 1 }).setTxn (dirKey (lineKey 1 3 64))
      { busy := .c, req := some { op := 1, from_ := 2 }, next := { st := .exclusive, owner := 2 } }).setObj (descOid 0 3) (2 ^ 61)).onSw fun b =>
      { b with inbox := [{ id := 0, port := none, pkt := tc2Pkt 2 1 3 (lineKey 1 3 64) 16 0 false }] })) ∧
    ((fun (i : Nat) (b : Inbox) (t : Txn) (s : State) => Arrives s.mod i .invAck b ∧ s.mod.inRecall (pktLine b.pkt) = true ∧ s.mod.txn (dirKey
      (pktLine b.pkt)) = some t) 0 ({ id := 0, port := none, pkt := tc2Pkt 2 1 3 (lineKey 1 3 64) 0 0 false }) ({ busy := .r, due := 2 }) (at_ fun m
      => (((m.onRt fun b => { b with id := 1 }).setTxn (dirKey (lineKey 1 3 64)) { busy := .r, due := 2 }).setObj (descOid 0 3) (2 ^ 61)).onSw fun b
      => { b with inbox := [{ id := 0, port := none, pkt := tc2Pkt 2 1 3 (lineKey 1 3 64) 0 0 false }] })) ∧
    ((fun (i : Nat) (b : Inbox) (t : Txn) (s : State) => Arrives s.mod i .invAck b ∧ s.mod.inRecall (pktLine b.pkt) = true ∧ s.mod.txn (dirKey
      (pktLine b.pkt)) = some t) 0 ({ id := 0, port := none, pkt := tc2Pkt 2 1 3 (lineKey 1 3 64) 0 0 false }) ({ busy := .r, due := 1 }) (at_ fun m
      => (((m.onRt fun b => { b with id := 1 }).setTxn (dirKey (lineKey 1 3 64)) { busy := .r, due := 1 }).setObj (descOid 0 3) (2 ^ 61)).onSw fun b
      => { b with inbox := [{ id := 0, port := none, pkt := tc2Pkt 2 1 3 (lineKey 1 3 64) 0 0 false }] })) ∧
    ((fun (i : Nat) (b : Inbox) (t : Txn) (s : State) => Arrives s.mod i .dataOwned b ∧ s.mod.inRecall (pktLine b.pkt) = true ∧ s.mod.txn (dirKey
      (pktLine b.pkt)) = some t ∧ t.discard = false ∧ 2 ≤ t.due) 0 ({ id := 0, port := none, pkt := tc2Pkt 2 1 1 (lineKey 1 3 64) 0 7 false })
      ({ busy := .r, due := 2 }) (at_ fun m => (((m.onRt fun b => { b with id := 1 }).setTxn (dirKey (lineKey 1 3 64))
      { busy := .r, due := 2 }).setObj (descOid 0 3) (2 ^ 61)).onSw fun b =>
      { b with inbox := [{ id := 0, port := none, pkt := tc2Pkt 2 1 1 (lineKey 1 3 64) 0 7 false }] })) ∧
    ((fun (i : Nat) (b : Inbox) (t : Txn) (s : State) => Arrives s.mod i .dataOwned b ∧ s.mod.inRecall (pktLine b.pkt) = true ∧ s.mod.txn (dirKey
      (pktLine b.pkt)) = some t ∧ t.discard = false ∧ 2 ≤ t.due) 0 ({ id := 0, port := none, pkt := tc2Pkt 2 1 1 (lineKey 1 3 64) 0 7 false })
      ({ busy := .r, due := 2 }) (at_ fun m => ((((m.onRt fun b => { b with id := 1 }).setTxn (dirKey (lineKey 1 3 64))
      { busy := .r, due := 2 }).setObj (descOid 0 3) (2 ^ 61)).onSw fun b =>
      { b with inbox := [{ id := 0, port := none, pkt := tc2Pkt 2 1 1 (lineKey 1 3 64) 0 7 false }] }).onPo fun b =>
      { b with migs := [(3, { pass := 8, final := true })] })) ∧
    ((fun (desc off _data : Nat) (_poison : Bool) (t : Txn) (r : HReq) (s : State) => s.mod.txn (lineOf desc off) = some t ∧ t.req = some r ∧ t.busy =
      .d ∧ r.op ≤ 2 ∧ t.grant = .data ∧ r.from_ ≠ s.mod.rt.id) 3 64 77 false
      ({ busy := .d, req := some { op := 0, from_ := 2 }, grant := .data, acks := 0 }) ({ op := 0, from_ := 2 }) (at_ fun m => (m.onRt fun b =>
      { b with id := 1 }).setTxn (lineOf 3 64) { busy := .d, req := some { op := 0, from_ := 2 }, grant := .data, acks := 0 })) ∧
    ((fun (desc off : Nat) (t : Txn) (r : HReq) (s : State) => s.mod.txn (lineOf desc off) = some t ∧ t.req = some r ∧ t.busy = .w ∧ 3 ≤ r.op ∧ r.op ≤
      5 ∧ r.from_ ≠ s.mod.rt.id ∧ t.nextDrop = none) 3 64 ({ busy := .w, req := some { op := 3, from_ := 2 }, next := {} }) ({ op := 3, from_ := 2 })
      (at_ fun m => (m.onRt fun b => { b with id := 1 }).setTxn (lineOf 3 64) { busy := .w, req := some { op := 3, from_ := 2 }, next := {} })) ∧
    ((fun (desc off w : Nat) (t : Txn) (r : HReq) (s : State) => s.mod.txn (lineOf desc off) = some t ∧ t.req = some r ∧ t.busy = .s ∧ (s.mod.dent
      (lineOf desc off)).st = .uncached ∧ s.mod.chipSet (lineOf desc off) ∉ s.mod.ho.suspectChip ∧ s.mod.ledgerSet (lineOf desc off) ∉
      s.mod.ho.suspectLedger ∧ (r.op = 1 ∨ (r.op = 0 ∧ r.pref = true)) ∧ s.mod.freeSlot (s.mod.chipOpen (lineOf desc off)) (lineOf desc off) = some w)
      3 64 0 ({ busy := .s, req := some { op := 1, from_ := 2 } }) ({ op := 1, from_ := 2 }) (at_ fun m => (m.onRt fun b => { b with id := 1 }).setTxn
      (lineOf 3 64) { busy := .s, req := some { op := 1, from_ := 2 } })) ∧
    ((fun (d : Die) (k y : Nat) (t : Txn) (s : State) => s.mod.ho.tokenWait.find? (fun x => decide (x.1 = d.val)) = some (y, k) ∧ s.mod.txn k = some t
      ∧ t.mcast ≠ []) 0 (lineOf 3 64) 0 ({ busy := .t, req := some { op := 1, from_ := 2 }, mcast := [5, 6] }) (at_ fun m => ((m.onRt fun b =>
      { b with id := 1 }).setTxn (lineOf 3 64) { busy := .t, req := some { op := 1, from_ := 2 }, mcast := [5, 6] }).onHo fun b =>
      { b with tokenWait := [(0, lineOf 3 64)] })) := by
  refine ⟨?_, ?_, ?_, ?_, ?_, ?_, ?_, ?_, ?_⟩ <;> decide +kernel

theorem meets_CacheTakesItsMessages :
    ((fun (i : Nat) (b : Inbox) (c : Instr) (k : MsgKind) (op : Nat) (s : State) => (c, k, op) ∈ [(Instr.cacheFwdshared i, MsgKind.fwdShared, 0),
      (.cacheFwdown i, .fwdOwn, 1), (.cacheInv i, .inv, 2)] ∧ Arrives s.mod i k b) 0 ({ id := 0, port := none, pkt := tc1Pkt 2 1 0 9 (lineKey 2 3 64) 0 })
      (.cacheFwdshared 0) .fwdShared 0 (at_ fun m => ((m.onRt fun b => { b with id := 1 }).onLine (lineKey 2 3 64) fun x => { x with st := .m }).onSw fun b
      => { b with inbox := [{ id := 0, port := none, pkt := tc1Pkt 2 1 0 9 (lineKey 2 3 64) 0 }] })) ∧
    ((fun (i : Nat) (b : Inbox) (c : Instr) (k : MsgKind) (op : Nat) (s : State) => (c, k, op) ∈ [(Instr.cacheFwdshared i, MsgKind.fwdShared, 0),
      (.cacheFwdown i, .fwdOwn, 1), (.cacheInv i, .inv, 2)] ∧ Arrives s.mod i k b) 0 ({ id := 0, port := none, pkt := tc1Pkt 2 1 1 9 (lineKey 2 3 64) 0 })
      (.cacheFwdown 0) .fwdOwn 1 (at_ fun m => ((m.onRt fun b => { b with id := 1 }).onLine (lineKey 2 3 64) fun x => { x with st := .m }).onSw fun b =>
      { b with inbox := [{ id := 0, port := none, pkt := tc1Pkt 2 1 1 9 (lineKey 2 3 64) 0 }] })) ∧
    ((fun (i : Nat) (b : Inbox) (c : Instr) (k : MsgKind) (op : Nat) (s : State) => (c, k, op) ∈ [(Instr.cacheFwdshared i, MsgKind.fwdShared, 0),
      (.cacheFwdown i, .fwdOwn, 1), (.cacheInv i, .inv, 2)] ∧ Arrives s.mod i k b) 0 ({ id := 0, port := none, pkt := tc1Pkt 2 1 2 9 (lineKey 2 3 64) 0 })
      (.cacheInv 0) .inv 2 (at_ fun m => ((m.onRt fun b => { b with id := 1 }).onLine (lineKey 2 3 64) fun x => { x with st := .m }).onSw fun b =>
      { b with inbox := [{ id := 0, port := none, pkt := tc1Pkt 2 1 2 9 (lineKey 2 3 64) 0 }] })) ∧
    ((fun (i : Nat) (b : Inbox) (s : State) => Arrives s.mod i .data b ∧ s.mod.cacheRole (pktLine b.pkt) = true ∧ (s.mod.cline (pktLine b.pkt)).st = .isD)
      0 ({ id := 0, port := none, pkt := tc2Pkt 2 1 0 (lineKey 2 3 64) 1 77 false }) (at_ fun m => ((m.onRt fun b => { b with id := 1 }).onLine (lineKey 2 3
      64) fun x => { x with st := .isD }).onSw fun b => { b with inbox := [{ id := 0, port := none, pkt := tc2Pkt 2 1 0 (lineKey 2 3 64) 1 77 false }] })) ∧
    ((fun (i : Nat) (b : Inbox) (s : State) => Arrives s.mod i .dataOwned b ∧ s.mod.cacheRole (pktLine b.pkt) = true ∧ s.mod.ownUpgrade (pktLine b.pkt) =
      false) 0 ({ id := 0, port := none, pkt := tc2Pkt 2 1 1 (lineKey 2 3 64) 0 77 false }) (at_ fun m => ((m.onRt fun b => { b with id := 1 }).onLine
      (lineKey 2 3 64) fun x => { x with st := .isD }).onSw fun b =>
      { b with inbox := [{ id := 0, port := none, pkt := tc2Pkt 2 1 1 (lineKey 2 3 64) 0 77 false }] })) ∧
    ((fun (i : Nat) (b : Inbox) (s : State) => Arrives s.mod i .dataOwned b ∧ s.mod.cacheRole (pktLine b.pkt) = true ∧ s.mod.ownUpgrade (pktLine b.pkt) =
      false) 0 ({ id := 0, port := none, pkt := tc2Pkt 2 1 1 (lineKey 2 3 64) 0 77 false }) (at_ fun m => ((m.onRt fun b => { b with id := 1 }).onLine
      (lineKey 2 3 64) fun x => { x with st := .imAD }).onSw fun b =>
      { b with inbox := [{ id := 0, port := none, pkt := tc2Pkt 2 1 1 (lineKey 2 3 64) 0 77 false }] })) ∧
    ((fun (i : Nat) (b : Inbox) (s : State) => Arrives s.mod i .dataOwned b ∧ s.mod.cacheRole (pktLine b.pkt) = true ∧ s.mod.ownUpgrade (pktLine b.pkt) =
      false) 0 ({ id := 0, port := none, pkt := tc2Pkt 2 1 1 (lineKey 2 3 64) 1 77 false }) (at_ fun m => ((m.onRt fun b => { b with id := 1 }).onLine
      (lineKey 2 3 64) fun x => { x with st := .smAD }).onSw fun b =>
      { b with inbox := [{ id := 0, port := none, pkt := tc2Pkt 2 1 1 (lineKey 2 3 64) 1 77 false }] })) ∧
    ((fun (i : Nat) (b : Inbox) (s : State) => Arrives s.mod i .ack b ∧ s.mod.cacheRole (pktLine b.pkt) = true) 0
      ({ id := 0, port := none, pkt := tc2Pkt 2 1 2 (lineKey 2 3 64) 0 0 false }) (at_ fun m => ((m.onRt fun b => { b with id := 1 }).onLine (lineKey 2 3
      64) fun x => { x with st := .smAD }).onSw fun b => { b with inbox := [{ id := 0, port := none, pkt := tc2Pkt 2 1 2 (lineKey 2 3 64) 0 0 false }] })) ∧
    ((fun (i : Nat) (b : Inbox) (s : State) => Arrives s.mod i .ack b ∧ s.mod.cacheRole (pktLine b.pkt) = true) 0
      ({ id := 0, port := none, pkt := tc2Pkt 2 1 2 (lineKey 2 3 64) 0 0 false }) (at_ fun m => ((m.onRt fun b => { b with id := 1 }).onLine (lineKey 2 3
      64) fun x => { x with st := .miA }).onSw fun b => { b with inbox := [{ id := 0, port := none, pkt := tc2Pkt 2 1 2 (lineKey 2 3 64) 0 0 false }] })) ∧
    ((fun (i : Nat) (b : Inbox) (s : State) => Arrives s.mod i .ack b ∧ s.mod.cacheRole (pktLine b.pkt) = true) 0
      ({ id := 0, port := none, pkt := tc2Pkt 2 1 2 (lineKey 2 3 64) 0 0 false }) (at_ fun m => ((m.onRt fun b => { b with id := 1 }).onLine (lineKey 2 3
      64) fun x => { x with st := .meA, owed := 1 }).onSw fun b =>
      { b with inbox := [{ id := 0, port := none, pkt := tc2Pkt 2 1 2 (lineKey 2 3 64) 0 0 false }] })) ∧
    ((fun (i : Nat) (b : Inbox) (s : State) => Arrives s.mod i .ackErr b ∧ s.mod.cacheRole (pktLine b.pkt) = true) 0
      ({ id := 0, port := none, pkt := ackErrPkt 2 1 (lineKey 2 3 64) 1 }) (at_ fun m => ((m.onRt fun b => { b with id := 1 }).onLine (lineKey 2 3 64) fun x
      => { x with st := .miA }).onSw fun b => { b with inbox := [{ id := 0, port := none, pkt := ackErrPkt 2 1 (lineKey 2 3 64) 1 }] })) ∧
    ((fun (i : Nat) (b : Inbox) (s : State) => Arrives s.mod i .ackErr b ∧ s.mod.cacheRole (pktLine b.pkt) = true) 0
      ({ id := 0, port := none, pkt := ackErrPkt 2 1 (lineKey 2 3 64) 1 }) (at_ fun m => ((m.onRt fun b => { b with id := 1 }).onLine (lineKey 2 3 64) fun x
      => { x with st := .imAD }).onSw fun b => { b with inbox := [{ id := 0, port := none, pkt := ackErrPkt 2 1 (lineKey 2 3 64) 1 }] })) ∧
    ((fun (i : Nat) (b : Inbox) (s : State) => Arrives s.mod i .invAck b ∧ s.mod.cacheRole (pktLine b.pkt) = true) 0
      ({ id := 0, port := none, pkt := tc2Pkt 2 1 3 (lineKey 2 3 64) 0 0 false }) (at_ fun m => ((m.onRt fun b => { b with id := 1 }).onLine (lineKey 2 3
      64) fun x => { x with st := .imAD }).onSw fun b => { b with inbox := [{ id := 0, port := none, pkt := tc2Pkt 2 1 3 (lineKey 2 3 64) 0 0 false }] })) ∧
    ((fun (i : Nat) (b : Inbox) (s : State) => Arrives s.mod i .invAck b ∧ s.mod.cacheRole (pktLine b.pkt) = true) 0
      ({ id := 0, port := none, pkt := tc2Pkt 2 1 3 (lineKey 2 3 64) 0 0 false }) (at_ fun m => ((m.onRt fun b => { b with id := 1 }).onLine (lineKey 2 3
      64) fun x => { x with st := .smA, need := some 1 }).onSw fun b =>
      { b with inbox := [{ id := 0, port := none, pkt := tc2Pkt 2 1 3 (lineKey 2 3 64) 0 0 false }] })) ∧
    ((fun (i : Nat) (b : Inbox) (s : State) => Arrives s.mod i .invAck b ∧ s.mod.cacheRole (pktLine b.pkt) = true) 0
      ({ id := 0, port := none, pkt := tc2Pkt 2 1 3 (lineKey 2 3 64) 0 0 false }) (at_ fun m => ((m.onRt fun b => { b with id := 1 }).onLine (lineKey 2 3
      64) fun x => { x with st := .imA, need := some 3 }).onSw fun b =>
      { b with inbox := [{ id := 0, port := none, pkt := tc2Pkt 2 1 3 (lineKey 2 3 64) 0 0 false }] })) := by
  refine ⟨?_, ?_, ?_, ?_, ?_, ?_, ?_, ?_, ?_, ?_, ?_, ?_, ?_, ?_, ?_⟩ <;> decide +kernel

theorem meets_FlushesAndLostModules :
    ((fun (i : Nat) (f : MemberFlush) (s : State) => s.mod.ca.flushes[i]? = some f ∧ (∀ x ∈ s.mod.ca.lines, x.2.flushFor = true → lineHome x.1 = f.home →
      f.desc ≠ 65535 ∧ lineDesc x.1 ≠ f.desc)) 0 ({ home := 2, desc := 3, src := .mgmtPf }) (at_ fun m => m.onCa fun b =>
      { b with flushes := [{ home := 2, desc := 3, src := .mgmtPf }] })) ∧
    ((fun (desc : Nat) (f : HomeFlush) (s : State) => s.mod.ho.flushes.find? (fun f => decide (f.desc = desc)) = some f ∧ f.due ≠ []) 3
      ({ desc := 3, due := [2], lastAt := 5 }) (at_ fun m => m.onHo fun b => { b with flushes := [{ desc := 3, due := [2], lastAt := 5 }] })) ∧
    ((fun (desc : Nat) (f : HomeFlush) (s : State) => s.mod.ho.flushes.find? (fun f => decide (f.desc = desc)) = some f ∧ f.scanning = true ∧ desc < 65535)
      3 ({ desc := 3, scanning := true }) (at_ fun m => ((m.setObj (descOid 0 3) (7 * 2 ^ 61)).setDent (lineOf 3 64) { st := .exclusive, owner := 2 }).onHo
      fun b => { b with flushes := [{ desc := 3, scanning := true }] })) ∧
    ((fun (id : Nat) (s : State) => id ∈ s.mod.ho.lost) 2 (at_ fun m => m.onHo fun b => { b with lost := [2, 5] })) ∧
    ((fun (i : Nat) (r : LostReport) (s : State) => s.mod.ca.reports[i]? = some r) 0 ({ home := 2, hdr := 5 }) (at_ fun m => m.onCa fun b =>
      { b with reports := [{ home := 2, hdr := 5 }] })) := by
  refine ⟨?_, ?_, ?_, ?_, ?_⟩ <;> decide +kernel

theorem meets_IoRequestsAreCarried :
    ((fun (p : EdgePort) (t : Tenant) (n : Vppb) (addr len data mask hdr tag : Nat) (poison secure : Bool) (c : Instr) (io : Io) (kind : Ak) (tc q v k :
      Nat) (s : State) => (c, io, kind, tc) ∈ [(Instr.ioPostedWrite p t .write n addr len data mask hdr poison secure, Io.write, Ak.deviceWrite, 4),
      (.ioReadRequest p t .memRead n addr len data mask hdr tag secure, .read, .deviceRead, 5)] ∧ s.mod.takesFrom p = true ∧ s.mod.admits = true ∧
      s.mod.decodeIo (s.mod.lead p) addr = some (s.mod.rt.id, q, v, k, 0) ∧ len ∈ [1, 2, 4, 8] ∧ addr % len = 0 ∧ (maskRuns (mask % 2 ^ len) len).length ≤ 1
      ∧ Quiet s.mod (portStream (s.mod.lead p) t.val) ∧ Open s.mod q ∧ Room s.mod (s.mod.lead p)) 0 5 0 4104 8 (2 ^ 64 - 1) 255 0 9 false false
      (.ioPostedWrite 0 5 .write 0 4104 8 (2 ^ 64 - 1) 255 0 false false) .write .deviceWrite 4 6 0 1 (at_ fun m => (((m.onMd fun b =>
      { b with mode := .operate }).setObj (mkOid 4 0 3) 0xFF).setObj (mkOid 4 6 3) 1).onEd fun b =>
      { b with vppb := [(1, { bars := [(0, (4096, 4096, false))] })], ports := [(0, { dllUp := true }), (6, { atomics := [8] })] })) ∧
    ((fun (p : EdgePort) (t : Tenant) (n : Vppb) (addr len data mask hdr tag : Nat) (poison secure : Bool) (c : Instr) (io : Io) (kind : Ak) (tc q v k :
      Nat) (s : State) => (c, io, kind, tc) ∈ [(Instr.ioPostedWrite p t .write n addr len data mask hdr poison secure, Io.write, Ak.deviceWrite, 4),
      (.ioReadRequest p t .memRead n addr len data mask hdr tag secure, .read, .deviceRead, 5)] ∧ s.mod.takesFrom p = true ∧ s.mod.admits = true ∧
      s.mod.decodeIo (s.mod.lead p) addr = some (s.mod.rt.id, q, v, k, 0) ∧ len ∈ [1, 2, 4, 8] ∧ addr % len = 0 ∧ (maskRuns (mask % 2 ^ len) len).length ≤ 1
      ∧ Quiet s.mod (portStream (s.mod.lead p) t.val) ∧ Open s.mod q ∧ Room s.mod (s.mod.lead p)) 0 5 0 8188 4 0 0 0 9 false false (.ioReadRequest 0 5
      .memRead 0 8188 4 0 0 0 9 false) .read .deviceRead 5 6 0 1 (at_ fun m => (((m.onMd fun b => { b with mode := .operate }).setObj (mkOid 4 0 3)
      0xFF).setObj (mkOid 4 6 3) 1).onEd fun b =>
      { b with vppb := [(1, { bars := [(0, (4096, 4096, false))] })], ports := [(0, { dllUp := true }), (6, { atomics := [8] })] })) ∧
    ((fun (p : EdgePort) (t : Tenant) (_op : Fin 3) (addr size _a _cmp _hdr _tag q v k ty : Nat) (s : State) => s.mod.takesFrom p = true ∧ s.mod.admits =
      true ∧ s.mod.decodeIo (s.mod.lead p) addr = some (s.mod.rt.id, q, v, k, ty) ∧ size ∈ [4, 8, 16] ∧ size ∈ (s.mod.edge q).atomics ∧ Quiet s.mod
      (portStream (s.mod.lead p) t.val) ∧ Open s.mod q ∧ Room s.mod (s.mod.lead p)) 0 5 0 4104 8 3 0 0 9 6 0 1 0 (at_ fun m => (((m.onMd fun b =>
      { b with mode := .operate }).setObj (mkOid 4 0 3) 0xFF).setObj (mkOid 4 6 3) 1).onEd fun b =>
      { b with vppb := [(1, { bars := [(0, (4096, 4096, false))] })], ports := [(0, { dllUp := true }), (6, { atomics := [8] })] })) ∧
    ((fun (p : EdgePort) (t : Tenant) (addr _len _hdr _tag q v k : Nat) (s : State) => s.mod.takesFrom p = true ∧ s.mod.admits = true ∧ s.mod.decodeIo
      (s.mod.lead p) addr = some (s.mod.rt.id, q, v, k, 0) ∧ Quiet s.mod (portStream (s.mod.lead p) t.val) ∧ Open s.mod q ∧ Room s.mod (s.mod.lead p) ∧ (∀ x
      ∈ s.mod.br.locks, x.1 ≠ v) ∧ (∀ x ∈ s.mod.br.held, x.io ≠ .locked)) 0 5 4104 8 0 9 6 0 1 (at_ fun m => (((m.onMd fun b =>
      { b with mode := .operate }).setObj (mkOid 4 0 3) 0xFF).setObj (mkOid 4 6 3) 1).onEd fun b =>
      { b with vppb := [(1, { bars := [(0, (4096, 4096, false))] })], ports := [(0, { dllUp := true }), (6, { atomics := [8] })] })) ∧
    ((fun (p : EdgePort) (t : Tenant) (_hdr v q : Nat) (l : IoReq) (s : State) => s.mod.takesFrom p = true ∧ s.mod.br.locks.find? (fun x => decide
      (x.2.stream = portStream (s.mod.lead p) t.val)) = some (v, l) ∧ l.tgt = .port s.mod.rt.id q ∧ Quiet s.mod (portStream (s.mod.lead p) t.val) ∧ Open
      s.mod q) 0 5 0 0 6 ({ id := 1, stream := portStream 0 5, maker := .port 0, kind := .atomic, io := .locked, tgt := .port 0 6, addr := 4104, len := 8 })
      (at_ fun m => ((((m.onMd fun b => { b with mode := .operate }).setObj (mkOid 4 0 3) 0xFF).setObj (mkOid 4 6 3) 1).onEd fun b =>
      { b with vppb := [(1, { bars := [(0, (4096, 4096, false))] })], ports := [(0, { dllUp := true }), (6, { atomics := [8] })] }).onBr fun b =>
      { b with locks := [(0, { id := 1, stream := portStream 0 5, maker := .port 0, kind := .atomic, io := .locked, tgt := .port 0 6, addr := 4104, len := 8 })] })) ∧
    ((fun (p : EdgePort) (k _status len _data : Nat) (_poison _secure : Bool) (d : Deliv) (s : State) => (s.mod.br.delivered.filter fun (d : Deliv) =>
      decide (d.port = p.val) && decide (d.tc ≠ 4))[k]? = some d ∧ d.tc = 5 ∧ d.sw = s.mod.rt.id ∧ len ≤ 256 ∧ (∀ x ∈ s.mod.br.live ++ s.mod.br.held,
      x.stream ≠ portStream p.val d.tenant)) 6 0 0 256 1 false false ({ port := 6, sw := 0, tid := 77, flow := 6, tenant := 5, tc := 5 }) (at_ fun m =>
      ((((m.onMd fun b => { b with mode := .operate }).setObj (mkOid 4 0 3) 0xFF).setObj (mkOid 4 6 3) 1).onEd fun b =>
      { b with vppb := [(1, { bars := [(0, (4096, 4096, false))] })], ports := [(0, { dllUp := true }), (6, { atomics := [8] })] }).onBr fun b =>
      { b with delivered := [{ port := 6, sw := 0, tid := 77, flow := 6, tenant := 5, tc := 5 }] })) ∧
    ((fun (_v : Vcs) (_n : Vppb) (_bar : Fin 6) (_base _size : Nat) (_pf : Bool) (s : State) => s.mod.br.wc = []) 0 1 5 4096 65536 true (at_ id)) := by
  refine ⟨?_, ?_, ?_, ?_, ?_, ?_, ?_⟩ <;> decide +kernel

theorem meets_OrderIsKeptByTheBridge :
    ((fun (p : EdgePort) (r : SemReq) (rest : List SemReq) (s : State) => (s.mod.sem p).holder = none ∧ (s.mod.sem p).waiting = r :: rest ∧ r.locked =
      true) 4 ({ key := 3, pkt := { tc := 5, dest := 0, src := 2, body := 7 }, locked := true }) ([]) (at_ fun m => m.onSem 4 fun s =>
      { s with waiting := [{ key := 3, pkt := { tc := 5, dest := 0, src := 2, body := 7 }, locked := true }] })) ∧
    ((fun (p : EdgePort) (r : SemReq) (s : State) => (s.mod.sem p).holder = some r) 4
      ({ key := 3, pkt := { tc := 5, dest := 0, src := 2, body := 7 }, locked := true }) (at_ fun m => m.onSem 4 fun s =>
      { s with holder := some { key := 3, pkt := { tc := 5, dest := 0, src := 2, body := 7 }, locked := true }, since := 5 })) ∧
    ((fun (p : EdgePort) (e : WcEnt) (s : State) => s.mod.br.wc.find? (fun (e : WcEnt) => decide (e.port = p.val)) = some e) 0
      ({ port := 0, req := { id := 1, stream := portStream 0 5, maker := .port 0, kind := .normalWrite, io := .write, tgt := .port 0 6, addr := 4104, len := 8 }, block := 16, mask := 255, data := 7, first := 3 })
      (at_ fun m => ((((m.onMd fun b => { b with mode := .operate }).setObj (mkOid 4 0 3) 0xFF).setObj (mkOid 4 6 3) 1).onEd fun b =>
      { b with vppb := [(1, { bars := [(0, (4096, 4096, false))] })], ports := [(0, { dllUp := true }), (6, { atomics := [8] })] }).onBr fun b =>
      { b with wc := [{ port := 0, req := { id := 1, stream := portStream 0 5, maker := .port 0, kind := .normalWrite, io := .write, tgt := .port 0 6, addr := 4104, len := 8 }, block := 16, mask := 255, data := 7, first := 3 }] })) ∧
    ((fun (i p q : Nat) (r : IoReq) (s : State) => s.mod.br.held[i]? = some r ∧ r.io = .completion ∧ r.kind ≠ .barrier ∧ r.hdm = false ∧ r.maker = .port p
      ∧ r.tgt = .port s.mod.rt.id q ∧ s.mod.mayCarry r (s.mod.br.held.take i) = true) 0 6 0
      ({ id := 4, stream := portStream 6 5, maker := .port 6, kind := .deviceRead, io := .completion, tgt := .port 0 0, addr := 0, len := 4, mask := 4, tag := 77 })
      (at_ fun m => ((((m.onMd fun b => { b with mode := .operate }).setObj (mkOid 4 0 3) 0xFF).setObj (mkOid 4 6 3) 1).onEd fun b =>
      { b with vppb := [(1, { bars := [(0, (4096, 4096, false))] })], ports := [(0, { dllUp := true }), (6, { atomics := [8] })] }).onBr fun b =>
      { b with held := [{ id := 4, stream := portStream 6 5, maker := .port 6, kind := .deviceRead, io := .completion, tgt := .port 0 0, addr := 0, len := 4, mask := 4, tag := 77 }] })) ∧
    ((fun (p : EdgePort) (t : Tenant) (s : State) => s.mod.br.wc = [] ∧ s.mod.barred (portStream (s.mod.lead p) t) = false ∧ ((∀ x ∈ s.mod.br.held,
      x.stream = portStream (s.mod.lead p) t → x.kind ≠ .barrier))) 0 5 (at_ fun m => ((((m.onMd fun b => { b with mode := .operate }).setObj (mkOid 4 0 3)
      0xFF).setObj (mkOid 4 6 3) 1).onEd fun b =>
      { b with vppb := [(1, { bars := [(0, (4096, 4096, false))] })], ports := [(0, { dllUp := true }), (6, { atomics := [8] })] }).onBr fun b =>
      { b with live := [{ id := 1, stream := portStream 0 5, maker := .port 0, kind := .atomic, io := .locked, tgt := .port 0 6, addr := 4104, len := 8 }] })) ∧
    ((fun (i : Nat) (b : Barrier) (s : State) => s.mod.br.barriers[i]? = some b ∧ b.covered = [] ∧ b.who = .firmware) 0
      ({ stream := portStream 0 5, seq := 1, who := .firmware, covered := [] }) (at_ fun m => m.onBr fun b =>
      { b with barriers := [{ stream := portStream 0 5, seq := 1, who := .firmware, covered := [] }] })) ∧
    ((fun (p : EdgePort) (d : Deliv) (s : State) => s.mod.br.delivered.find? (fun (d : Deliv) => decide (d.port = p.val) && decide (d.tc = 4)) = some d ∧
      d.sw ≠ s.mod.rt.id ∧ d.tunnel = false) 6 ({ port := 6, sw := 2, tid := 77, flow := 6, tenant := 5 }) (at_ fun m => m.onBr fun b =>
      { b with delivered := [{ port := 6, sw := 2, tid := 77, flow := 6, tenant := 5 }] })) ∧
    ((fun (sw flow count last : Nat) (s : State) => tget (0, 0) (sw % 4096 * 4096 + flow % 4096) s.mod.br.bcmp = (count, last) ∧ count ≠ 0 ∧ sw % 4096 ≠
      s.mod.rt.id) 2 70 70000 5 (at_ fun m => m.onBr fun b => { b with bcmp := [(2 * 4096 + 70, (70000, 5))] })) := by
  refine ⟨?_, ?_, ?_, ?_, ?_, ?_, ?_, ?_⟩ <;> decide +kernel

theorem meets_BridgePacketsAndHostMemory :
    ((fun (i : Nat) (b : Inbox) (s : State) => let q := s.mod.lead (fld (b.pkt.data.getD 1 0) 32 8); Received s.mod i 0 b ∧ fld (b.pkt.data.getD 1 0) 32 8
      < 48 ∧ fld (b.pkt.data.getD 1 0) 24 8 ∉ [0x33, 0x21, 0x6C, 0x6D, 0x6E] ∧ Open s.mod q) 0
      ({ id := 1, port := some 48, pkt := { tc := 5, len := 1, dest := 0, src := 2, body := bridgeBody 6 0 77 5 0, data := headerUnit 4104 8 true false 6 (withKind 0 0x20) } })
      (at_ fun m => ((((m.onMd fun b => { b with mode := .operate }).setObj (mkOid 4 0 3) 0xFF).setObj (mkOid 4 6 3) 1).onEd fun b =>
      { b with vppb := [(1, { bars := [(0, (4096, 4096, false))] })], ports := [(0, { dllUp := true }), (6, { atomics := [8] })] }).onSw fun b =>
      { b with inbox := [{ id := 1, port := some 48, pkt := { tc := 5, len := 1, dest := 0, src := 2, body := bridgeBody 6 0 77 5 0, data := headerUnit 4104 8 true false 6 (withKind 0 0x20) } }] })) ∧
    ((fun (i k p : Nat) (b : Inbox) (s : State) => Received s.mod i 1 b ∧ s.mod.semOfTid (fld b.pkt.body 24 24) = none ∧ s.mod.trkOfTid (fld b.pkt.body 24
      24) = some k ∧ (s.mod.trk k).kind = 1 ∧ (s.mod.trk k).port = some p ∧ (s.mod.trk k).orphan = false ∧ (s.mod.trk k).discard = false ∧ byteCount
      b.pkt.data ≤ fld (b.pkt.data.getD 1 0) 48 16 ∧ b.pkt.data ≠ []) 0 3 0
      ({ id := 1, port := some 48, pkt := { tc := 6, len := 2, dest := 0, src := 2, body := bridgeBody 6 1 3 5 0, data := headerUnit 0 8 true false 0 (withKind 0 0x4A) ++ [1, 2, 3, 4] } })
      (at_ fun m => (m.setTrk 3 { kind := 1, port := some 0, tag := 9 }).onSw fun b =>
      { b with inbox := [{ id := 1, port := some 48, pkt := { tc := 6, len := 2, dest := 0, src := 2, body := bridgeBody 6 1 3 5 0, data := headerUnit 0 8 true false 0 (withKind 0 0x4A) ++ [1, 2, 3, 4] } }] })) ∧
    ((fun (i k : Nat) (b : Inbox) (s : State) => Received s.mod i 2 b ∧ s.mod.objv 0x602000 ≠ 0 ∧ s.mod.trkOfTid (fld b.pkt.body 24 24) = some k ∧
      (s.mod.trk k).kind = 2 ∧ (s.mod.trk k).orphan = false) 0 3
      ({ id := 1, port := some 48, pkt := { tc := 6, dest := 0, src := 2, body := bridgeBody 6 2 3 5 0 } }) (at_ fun m => ((m.setObj 0x602000 1).setTrk 3
      { kind := 2, port := some 0 }).onSw fun b =>
      { b with inbox := [{ id := 1, port := some 48, pkt := { tc := 6, dest := 0, src := 2, body := bridgeBody 6 2 3 5 0 } }] })) ∧
    ((fun (i k p : Nat) (b : Inbox) (s : State) => Received s.mod i 3 b ∧ s.mod.semOfTid (fld b.pkt.body 24 24) = none ∧ s.mod.trkOfTid (fld b.pkt.body 24
      24) = some k ∧ (s.mod.trk k).kind = 1 ∧ (s.mod.trk k).port = some p ∧ (s.mod.trk k).orphan = false ∧ (s.mod.trk k).discard = false ∧ fld b.pkt.body 8
      8 ≠ 4) 0 3 0 ({ id := 1, port := some 48, pkt := { tc := 6, len := 1, dest := 0, src := 2, body := bridgeBody 6 3 3 5 2, data := [0, 0, 0, 0] } })
      (at_ fun m => (m.setTrk 3 { kind := 1, port := some 0, tag := 9 }).onSw fun b =>
      { b with inbox := [{ id := 1, port := some 48, pkt := { tc := 6, len := 1, dest := 0, src := 2, body := bridgeBody 6 3 3 5 2, data := [0, 0, 0, 0] } }] })) ∧
    ((fun (i k : Nat) (b : Inbox) (s : State) => Received s.mod i 4 b ∧ b.pkt.tc = 4 ∧ fld b.pkt.body 8 8 = 2 ∧ (s.mod.ed.vppb.filter fun x => decide
      (x.2.remote = some (b.pkt.src, fld b.pkt.body 58 6))).map (·.1) = [k]) 0 33
      ({ id := 1, port := some 48, pkt := { tc := 4, dest := 0, src := 2, body := bridgeBody (5 * 64) 4 0 0 2 } }) (at_ fun m => (m.onVppb 1 1 fun x =>
      { x with remote := some (2, 5) }).onSw fun b =>
      { b with inbox := [{ id := 1, port := some 48, pkt := { tc := 4, dest := 0, src := 2, body := bridgeBody (5 * 64) 4 0 0 2 } }] })) ∧
    ((fun (p : EdgePort) (t : Tenant) (tag addr data mask : Nat) (c : Instr) (kind : AccKind) (v e x off : Nat) (s : State) => (c, kind) ∈
      [(Instr.hostMemrdNocache p t 0 tag addr, AccKind.read), (.hostMemrdShared p t 0 tag addr, .readShared), (.hostMemrdAny p t 0 tag addr, .readAny),
      (.hostMemwr p t 0 tag addr data mask, .write)] ∧ s.mod.takesFrom p = true ∧ s.mod.admits = true ∧ s.mod.vcsOf (s.mod.lead p) = some v ∧ s.mod.extentAt
      v addr = some (e, x, off) ∧ extState x = 3 ∧ (kind = .write → bit x 3 = true ∧ off % 64 = 0 ∧ Quiet s.mod (portStream (s.mod.lead p) (extTenant x))) ∧
      (s.mod.lineAttr (lineKey (s.mod.extParcel e x).1 (s.mod.extParcel e x).2 off)).1 ≠ 2 ∧ (s.mod.lineAttr (lineKey (s.mod.extParcel e x).1
      (s.mod.extParcel e x).2 off)).2.1 = false ∧ Room s.mod (s.mod.lead p)) 0 5 9 64 (3 * 256 ^ 5 + 7) (2 ^ 64 - 1) (.hostMemrdNocache 0 5 0 9 64) .read 0
      0 (3 * 2 ^ 61 + 8 + 5 * 16 + 7 * 2 ^ 24) 64 (at_ fun m => (((((m.onMd fun b => { b with mode := .operate }).setObj (mkOid 4 0 3) 0xFF).setObj (extOid
      0) (3 * 2 ^ 61 + 8 + 5 * 16 + 7 * 2 ^ 24)).onExt 0 fun x => { x with size := some 0 }).setObj (descOid 0 7) (2 * 2 ^ 61)).onEd fun b =>
      { b with ports := [(0, { dllUp := true })] })) ∧
    ((fun (p : EdgePort) (t : Tenant) (tag addr data mask : Nat) (c : Instr) (kind : AccKind) (v e x off : Nat) (s : State) => (c, kind) ∈
      [(Instr.hostMemrdNocache p t 0 tag addr, AccKind.read), (.hostMemrdShared p t 0 tag addr, .readShared), (.hostMemrdAny p t 0 tag addr, .readAny),
      (.hostMemwr p t 0 tag addr data mask, .write)] ∧ s.mod.takesFrom p = true ∧ s.mod.admits = true ∧ s.mod.vcsOf (s.mod.lead p) = some v ∧ s.mod.extentAt
      v addr = some (e, x, off) ∧ extState x = 3 ∧ (kind = .write → bit x 3 = true ∧ off % 64 = 0 ∧ Quiet s.mod (portStream (s.mod.lead p) (extTenant x))) ∧
      (s.mod.lineAttr (lineKey (s.mod.extParcel e x).1 (s.mod.extParcel e x).2 off)).1 ≠ 2 ∧ (s.mod.lineAttr (lineKey (s.mod.extParcel e x).1
      (s.mod.extParcel e x).2 off)).2.1 = false ∧ Room s.mod (s.mod.lead p)) 0 5 9 64 (3 * 256 ^ 5 + 7) (2 ^ 64 - 1) (.hostMemrdShared 0 5 0 9 64)
      .readShared 0 0 (3 * 2 ^ 61 + 8 + 5 * 16 + 7 * 2 ^ 24) 64 (at_ fun m => (((((m.onMd fun b => { b with mode := .operate }).setObj (mkOid 4 0 3)
      0xFF).setObj (extOid 0) (3 * 2 ^ 61 + 8 + 5 * 16 + 7 * 2 ^ 24)).onExt 0 fun x => { x with size := some 0 }).setObj (descOid 0 7) (2 * 2 ^ 61)).onEd
      fun b => { b with ports := [(0, { dllUp := true })] })) ∧
    ((fun (p : EdgePort) (t : Tenant) (tag addr data mask : Nat) (c : Instr) (kind : AccKind) (v e x off : Nat) (s : State) => (c, kind) ∈
      [(Instr.hostMemrdNocache p t 0 tag addr, AccKind.read), (.hostMemrdShared p t 0 tag addr, .readShared), (.hostMemrdAny p t 0 tag addr, .readAny),
      (.hostMemwr p t 0 tag addr data mask, .write)] ∧ s.mod.takesFrom p = true ∧ s.mod.admits = true ∧ s.mod.vcsOf (s.mod.lead p) = some v ∧ s.mod.extentAt
      v addr = some (e, x, off) ∧ extState x = 3 ∧ (kind = .write → bit x 3 = true ∧ off % 64 = 0 ∧ Quiet s.mod (portStream (s.mod.lead p) (extTenant x))) ∧
      (s.mod.lineAttr (lineKey (s.mod.extParcel e x).1 (s.mod.extParcel e x).2 off)).1 ≠ 2 ∧ (s.mod.lineAttr (lineKey (s.mod.extParcel e x).1
      (s.mod.extParcel e x).2 off)).2.1 = false ∧ Room s.mod (s.mod.lead p)) 0 5 9 64 (3 * 256 ^ 5 + 7) (2 ^ 64 - 1) (.hostMemrdAny 0 5 0 9 64) .readAny 0 0
      (3 * 2 ^ 61 + 8 + 5 * 16 + 7 * 2 ^ 24) 64 (at_ fun m => (((((m.onMd fun b => { b with mode := .operate }).setObj (mkOid 4 0 3) 0xFF).setObj (extOid 0)
      (3 * 2 ^ 61 + 8 + 5 * 16 + 7 * 2 ^ 24)).onExt 0 fun x => { x with size := some 0 }).setObj (descOid 0 7) (2 * 2 ^ 61)).onEd fun b =>
      { b with ports := [(0, { dllUp := true })] })) ∧
    ((fun (p : EdgePort) (t : Tenant) (tag addr data mask : Nat) (c : Instr) (kind : AccKind) (v e x off : Nat) (s : State) => (c, kind) ∈
      [(Instr.hostMemrdNocache p t 0 tag addr, AccKind.read), (.hostMemrdShared p t 0 tag addr, .readShared), (.hostMemrdAny p t 0 tag addr, .readAny),
      (.hostMemwr p t 0 tag addr data mask, .write)] ∧ s.mod.takesFrom p = true ∧ s.mod.admits = true ∧ s.mod.vcsOf (s.mod.lead p) = some v ∧ s.mod.extentAt
      v addr = some (e, x, off) ∧ extState x = 3 ∧ (kind = .write → bit x 3 = true ∧ off % 64 = 0 ∧ Quiet s.mod (portStream (s.mod.lead p) (extTenant x))) ∧
      (s.mod.lineAttr (lineKey (s.mod.extParcel e x).1 (s.mod.extParcel e x).2 off)).1 ≠ 2 ∧ (s.mod.lineAttr (lineKey (s.mod.extParcel e x).1
      (s.mod.extParcel e x).2 off)).2.1 = false ∧ Room s.mod (s.mod.lead p)) 0 5 9 64 (3 * 256 ^ 5 + 7) (2 ^ 64 - 1) (.hostMemwr 0 5 0 9 64 (3 * 256 ^ 5 +
      7) (2 ^ 64 - 1)) .write 0 0 (3 * 2 ^ 61 + 8 + 5 * 16 + 7 * 2 ^ 24) 64 (at_ fun m => (((((m.onMd fun b => { b with mode := .operate }).setObj (mkOid 4
      0 3) 0xFF).setObj (extOid 0) (3 * 2 ^ 61 + 8 + 5 * 16 + 7 * 2 ^ 24)).onExt 0 fun x => { x with size := some 0 }).setObj (descOid 0 7) (2 * 2 ^
      61)).onEd fun b => { b with ports := [(0, { dllUp := true })] })) := by
  refine ⟨?_, ?_, ?_, ?_, ?_, ?_, ?_, ?_, ?_⟩ <;> decide +kernel

theorem meets_OwnSideOfAMailbox :
    ((fun (k : Mbox) (s : State) => s.mod.agent k = true) 256 (at_ fun m => (m.onMd fun b => { b with mrdy := true }).onBox 256 fun x =>
      { x with inq := [7, 8] })) ∧
    ((fun (k : Mbox) (s : State) => s.mod.agent k = true) 257 (at_ fun m => m.onMd fun b => { b with serving := true })) ∧
    ((fun (k : Mbox) (_w : Nat) (s : State) => s.mod.agent k = true) 256 (2 ^ 32 + 5) (at_ fun m => (m.onMd fun b => { b with mrdy := true }).onBox 256 fun
      x => { x with holder := 258 })) ∧
    ((fun (k : Mbox) (_w : Nat) (s : State) => s.mod.agent k = true) 256 5 (at_ fun m => (m.onMd fun b => { b with mrdy := true }).onBox 256 fun x =>
      { x with holder := 258, outq := List.replicate 16 0 })) ∧
    ((fun (k : Mbox) (_v : Nat) (s : State) => s.mod.agent k = true) 256 (2 ^ 31 + 2 ^ 30) (at_ fun m => (m.onMd fun b => { b with mrdy := true }).onBox
      256 fun x => { x with holder := 258, ovf := true })) ∧
    ((fun (k : Mbox) (_v : Nat) (s : State) => s.mod.agent k = true) 256 3 (at_ fun m => (m.onMd fun b => { b with mrdy := true }).onBox 256 fun x =>
      { x with db := 6 })) ∧
    ((fun (k : Mbox) (_v : Nat) (s : State) => s.mod.agent k = true) 256 (2 ^ 32 - 1) (at_ fun m => (m.onMd fun b => { b with mrdy := true }).onBox 256 fun
      x => { x with db := 6 })) ∧
    ((fun (k : Mbox) (s : State) => (s.mod.box k).holder ≠ 0) 256 (at_ fun m => m.onBox 256 fun x => { x with holder := 258, inq := [3] })) := by
  refine ⟨?_, ?_, ?_, ?_, ?_, ?_, ?_, ?_⟩ <;> decide +kernel

theorem meets_CallSideOfAMailbox :
    ((fun (c : Mbox) (s : State) => s.mod.agent c = true) 257 (at_ fun m => m.onMd fun b => { b with serving := true })) ∧
    ((fun (c : Mbox) (s : State) => s.mod.agent c = true) 257 (at_ fun m => (m.onMd fun b => { b with serving := true }).onBox 256 fun x =>
      { x with holder := 3 })) ∧
    ((fun (c : Mbox) (v : Nat) (s : State) => s.mod.agent c = true ∧ v % 2 ^ 32 = 0 ∧ s.mod.holds c = true) 257 (2 ^ 32) (at_ fun m => (m.onMd fun b =>
      { b with serving := true }).onBox 256 fun x => { x with holder := 258, inq := [1] })) ∧
    ((fun (c : Mbox) (_w : Nat) (s : State) => s.mod.agent c = true) 257 9 (at_ fun m => (m.onMd fun b => { b with serving := true }).onBox 256 fun x =>
      { x with holder := 258, inq := [1] })) ∧
    ((fun (c : Mbox) (_w : Nat) (s : State) => s.mod.agent c = true) 257 9 (at_ fun m => (m.onMd fun b => { b with serving := true }).onBox 256 fun x =>
      { x with holder := 258, inq := List.replicate 16 0 })) ∧
    ((fun (c : Mbox) (s : State) => s.mod.agent c = true) 257 (at_ fun m => (m.onMd fun b => { b with serving := true }).onBox 256 fun x =>
      { x with holder := 258, outq := [9] })) ∧
    ((fun (c : Mbox) (s : State) => s.mod.agent c = true) 257 (at_ fun m => m.onMd fun b => { b with serving := true })) ∧
    ((fun (c : Mbox) (_v : Nat) (s : State) => s.mod.agent c = true ∧ s.mod.callable c (s.mod.selected c) = true) 257 (2 ^ 31 + 1) (at_ fun m => ((m.onMd
      fun b => { b with serving := true }).onFn_ 0 fun x => { x with msixOn := true, table := [(1, { masked := false })] }))) ∧
    ((fun (c : Mbox) (s : State) => s.mod.agent c = true) 257 (at_ fun m => (m.onMd fun b => { b with serving := true }).onCall 257 fun x =>
      { x with ovf := true })) := by
  refine ⟨?_, ?_, ?_, ?_, ?_, ?_, ?_, ?_, ?_⟩ <;> decide +kernel

theorem meets_QueuePairsAndFunctions :
    ((fun (n : VfSlot) (j : Fin 64) (_v q : Nat) (s : State) => s.mod.localQp n j = some q) 0 0 (2 ^ 20 + 3) 0 (at_ fun m => ((((((m.onMd fun b =>
      { b with mode := .operate }).setObj (qpOwnerOid 0) (2 ^ 15)).setObj (vfOid 0 1) (2 ^ 31 + 5)).setObj (mkOid 4 0x100 1) 0).setObj (vfOid 0 5) 1).onFn_
      (hostFn 0) fun x => { x with vfEnable := true }).onQp 0 fun x => { x with sqs := 16 })) ∧
    ((fun (n : VfSlot) (j : Fin 64) (_v q : Nat) (s : State) => s.mod.localQp n j = some q) 0 0 (2 ^ 20 + 3) 0 (at_ fun m => ((((((m.onMd fun b =>
      { b with mode := .operate }).setObj (qpOwnerOid 0) (2 ^ 15)).setObj (vfOid 0 1) (2 ^ 31 + 5)).setObj (mkOid 4 0x100 1) 0).setObj (vfOid 0 5) 1).onFn_
      (hostFn 0) fun x => { x with vfEnable := true }).onQp 0 fun x => { x with cqs := 16 })) ∧
    ((fun (n : VfSlot) (j : Fin 64) (_v q : Nat) (s : State) => s.mod.localQp n j = some q ∧ (s.mod.qp q).enable = false ∧ (s.mod.qp q).closing = false) 0
      0 (4 * 2 ^ 24 + 17 * 2 ^ 19 + 7 * 256) 0 (at_ fun m => ((((((m.onMd fun b => { b with mode := .operate }).setObj (qpOwnerOid 0) (2 ^ 15)).setObj
      (vfOid 0 1) (2 ^ 31 + 5)).setObj (mkOid 4 0x100 1) 0).setObj (vfOid 0 5) 1).onFn_ (hostFn 0) fun x => { x with vfEnable := true }).onQp 0 fun x =>
      { x with sqHead := 3 })) ∧
    ((fun (n : VfSlot) (j : Fin 64) (_v q : Nat) (s : State) => s.mod.localQp n j = some q ∧ (s.mod.qp q).enable = true) 0 0 0 0 (at_ fun m => ((((((m.onMd
      fun b => { b with mode := .operate }).setObj (qpOwnerOid 0) (2 ^ 15)).setObj (vfOid 0 1) (2 ^ 31 + 5)).setObj (mkOid 4 0x100 1) 0).setObj (vfOid 0 5)
      1).onFn_ (hostFn 0) fun x => { x with vfEnable := true }).onQp 0 fun x => { x with enable := true, st := .running })) ∧
    ((fun (n : VfSlot) (j : Fin 64) (_v q : Nat) (s : State) => s.mod.localQp n j = some q ∧ (s.mod.qp q).enable = true) 0 0 0 0 (at_ fun m => ((((((m.onMd
      fun b => { b with mode := .operate }).setObj (qpOwnerOid 0) (2 ^ 15)).setObj (vfOid 0 1) (2 ^ 31 + 5)).setObj (mkOid 4 0x100 1) 0).setObj (vfOid 0 5)
      1).onFn_ (hostFn 0) fun x => { x with vfEnable := true }).onQp 0 fun x => { x with enable := true, st := .quiesced })) ∧
    ((fun (q : Qp) (s : State) => (s.mod.qp q).st = .quiescing ∧ (s.mod.qp q).started = []) 0 (at_ fun m => ((((((m.onMd fun b =>
      { b with mode := .operate }).setObj (qpOwnerOid 0) (2 ^ 15)).setObj (vfOid 0 1) (2 ^ 31 + 5)).setObj (mkOid 4 0x100 1) 0).setObj (vfOid 0 5) 1).onFn_
      (hostFn 0) fun x => { x with vfEnable := true }).onQp 0 fun x => { x with st := .quiescing })) ∧
    ((fun (q : Qp) (s : State) => (s.mod.qp q).st = .quiescing ∧ (s.mod.qp q).started = []) 0 (at_ fun m => ((((((m.onMd fun b =>
      { b with mode := .operate }).setObj (qpOwnerOid 0) (2 ^ 15)).setObj (vfOid 0 1) (2 ^ 31 + 5)).setObj (mkOid 4 0x100 1) 0).setObj (vfOid 0 5) 1).onFn_
      (hostFn 0) fun x => { x with vfEnable := true }).onQp 0 fun x => { x with st := .quiescing, closing := true, enable := true })) ∧
    ((fun (n : VfSlot) (s : State) => s.mod.vfShown n = true) 0 (at_ fun m => ((((((m.onMd fun b => { b with mode := .operate }).setObj (qpOwnerOid 0) (2 ^
      15)).setObj (vfOid 0 1) (2 ^ 31 + 5)).setObj (mkOid 4 0x100 1) 0).setObj (vfOid 0 5) 1).onFn_ (hostFn 0) fun x => { x with vfEnable := true }).onQp 0
      fun x => { x with started := [{ num := 1, words := [], writes := [(1, 2)] }, { num := 2, words := [] }] })) ∧
    ((fun (n : VfSlot) (s : State) => (s.mod.fnSt (vfFn n)).flr = true ∧ (∀ q ∈ s.mod.qpsOf n, (s.mod.qp q).started = [] ∧ ∀ r ∈ s.mod.sv.records, r.qp ≠
      q)) 0 (at_ fun m => (((((((m.onMd fun b => { b with mode := .operate }).setObj (qpOwnerOid 0) (2 ^ 15)).setObj (vfOid 0 1) (2 ^ 31 + 5)).setObj (mkOid
      4 0x100 1) 0).setObj (vfOid 0 5) 1).onFn_ (hostFn 0) fun x => { x with vfEnable := true }).onFn_ (vfFn 0) fun x => { x with flr := true }).onBox 3 fun
      x => { x with holder := 1 })) ∧
    ((fun (v : Vcs) (s : State) => (s.mod.fnSt (hostFn v)).vfEnable = true) 0 (at_ fun m => (((((m.onMd fun b => { b with mode := .operate }).setObj
      (qpOwnerOid 0) (2 ^ 15)).setObj (vfOid 0 1) (2 ^ 31 + 5)).setObj (mkOid 4 0x100 1) 0).setObj (vfOid 0 5) 1).onFn_ (hostFn 0) fun x =>
      { x with vfEnable := true })) := by
  refine ⟨?_, ?_, ?_, ?_, ?_, ?_, ?_, ?_, ?_, ?_⟩ <;> decide +kernel

theorem meets_TheMoverCopiesFillsAndRecords :
    ((fun (d : Die) (q : Nat) (_words : List Nat) (s : State) => s.mod.se.live = none ∧ s.mod.fetchable d = [q]) 0 0 ([2 * 2 ^ 56, 64, 0, 4096, 9, 0, 0,
      0]) (at_ fun m => ((((((m.onMd fun b => { b with mode := .operate }).setObj (qpOwnerOid 0) (2 ^ 15)).setObj (vfOid 0 1) (2 ^ 31 + 5)).setObj (mkOid 4
      0x100 1) 0).setObj (vfOid 0 5) 1).onFn_ (hostFn 0) fun x => { x with vfEnable := true }).onQp 0 fun x =>
      { x with enable := true, st := .running, sqTail := 1 })) ∧
    ((fun (d : Die) (q : Nat) (_words : List Nat) (s : State) => s.mod.se.live = none ∧ s.mod.fetchable d = [q]) 0 0 ([200 * 2 ^ 56, 64, 0, 4096, 9, 0, 0,
      0]) (at_ fun m => ((((((m.onMd fun b => { b with mode := .operate }).setObj (qpOwnerOid 0) (2 ^ 15)).setObj (vfOid 0 1) (2 ^ 31 + 5)).setObj (mkOid 4
      0x100 1) 0).setObj (vfOid 0 5) 1).onFn_ (hostFn 0) fun x => { x with vfEnable := true }).onQp 0 fun x =>
      { x with enable := true, st := .running, sqTail := 1 })) ∧
    ((fun (q : Qp) (num op : Nat) (c : Instr) (d : Desc) (s : State) => (c, op) ∈ [(Instr.opCopy q num false, 1), (.opFill q num false, 2), (.opZero q num
      false, 3)] ∧ Runs s.mod q num op d ∧ d.sas = 0 ∧ d.das = 0 ∧ d.src % 64 = d.dst % 64 ∧ d.pos < d.len ∧ d.writes.length ≤ 64 ∧ (op = 1 → d.buf.length =
      s.mod.chunk q d) ∧ Quiet s.mod (qpStream q) ∧ Room s.mod (s.mod.qpPort q) ∧ Open s.mod (s.mod.qpPort q)) 0 7 1 (.opCopy 0 7 false)
      ({ num := 7, words := [1 * 2 ^ 56, 8, 64, 4096, 0x1122334455667788, 0, 0, 0], buf := [1, 2, 3, 4, 5, 6, 7, 8] }) (at_ fun m => ((((((m.onMd fun b =>
      { b with mode := .operate }).setObj (qpOwnerOid 0) (2 ^ 15)).setObj (vfOid 0 1) (2 ^ 31 + 5)).setObj (mkOid 4 0x100 1) 0).setObj (vfOid 0 5) 1).onFn_
      (hostFn 0) fun x => { x with vfEnable := true }).onQp 0 fun x =>
      { x with st := .running, enable := true, started := [{ num := 7, words := [1 * 2 ^ 56, 8, 64, 4096, 0x1122334455667788, 0, 0, 0], buf := [1, 2, 3, 4, 5, 6, 7, 8] }] })) ∧
    ((fun (q : Qp) (num op : Nat) (c : Instr) (d : Desc) (s : State) => (c, op) ∈ [(Instr.opCopy q num false, 1), (.opFill q num false, 2), (.opZero q num
      false, 3)] ∧ Runs s.mod q num op d ∧ d.sas = 0 ∧ d.das = 0 ∧ d.src % 64 = d.dst % 64 ∧ d.pos < d.len ∧ d.writes.length ≤ 64 ∧ (op = 1 → d.buf.length =
      s.mod.chunk q d) ∧ Quiet s.mod (qpStream q) ∧ Room s.mod (s.mod.qpPort q) ∧ Open s.mod (s.mod.qpPort q)) 0 7 2 (.opFill 0 7 false)
      ({ num := 7, words := [2 * 2 ^ 56, 8, 64, 4096, 0x1122334455667788, 0, 0, 0] }) (at_ fun m => ((((((m.onMd fun b =>
      { b with mode := .operate }).setObj (qpOwnerOid 0) (2 ^ 15)).setObj (vfOid 0 1) (2 ^ 31 + 5)).setObj (mkOid 4 0x100 1) 0).setObj (vfOid 0 5) 1).onFn_
      (hostFn 0) fun x => { x with vfEnable := true }).onQp 0 fun x =>
      { x with st := .running, enable := true, started := [{ num := 7, words := [2 * 2 ^ 56, 8, 64, 4096, 0x1122334455667788, 0, 0, 0] }] })) ∧
    ((fun (q : Qp) (num op : Nat) (c : Instr) (d : Desc) (s : State) => (c, op) ∈ [(Instr.opCopy q num false, 1), (.opFill q num false, 2), (.opZero q num
      false, 3)] ∧ Runs s.mod q num op d ∧ d.sas = 0 ∧ d.das = 0 ∧ d.src % 64 = d.dst % 64 ∧ d.pos < d.len ∧ d.writes.length ≤ 64 ∧ (op = 1 → d.buf.length =
      s.mod.chunk q d) ∧ Quiet s.mod (qpStream q) ∧ Room s.mod (s.mod.qpPort q) ∧ Open s.mod (s.mod.qpPort q)) 0 7 3 (.opZero 0 7 false)
      ({ num := 7, words := [3 * 2 ^ 56, 100, 64, 4096, 0x1122334455667788, 0, 0, 0] }) (at_ fun m => ((((((m.onMd fun b =>
      { b with mode := .operate }).setObj (qpOwnerOid 0) (2 ^ 15)).setObj (vfOid 0 1) (2 ^ 31 + 5)).setObj (mkOid 4 0x100 1) 0).setObj (vfOid 0 5) 1).onFn_
      (hostFn 0) fun x => { x with vfEnable := true }).onQp 0 fun x =>
      { x with st := .running, enable := true, started := [{ num := 7, words := [3 * 2 ^ 56, 100, 64, 4096, 0x1122334455667788, 0, 0, 0] }] })) ∧
    ((fun (q : Qp) (num : Nat) (d : Desc) (s : State) => Runs s.mod q num 7 d ∧ d.das = 0 ∧ d.dst % 64 = 0 ∧ d.pos = d.len ∧ Quiet s.mod (qpStream q) ∧
      Room s.mod (s.mod.qpPort q) ∧ Open s.mod (s.mod.qpPort q)) 0 7
      ({ num := 7, words := [7 * 2 ^ 56, 8, 64, 4096, 0x1122334455667788, 0, 0, 0], pos := 8, msg := [1, 2, 3, 4, 5, 6, 7, 8] }) (at_ fun m => ((((((m.onMd
      fun b => { b with mode := .operate }).setObj (qpOwnerOid 0) (2 ^ 15)).setObj (vfOid 0 1) (2 ^ 31 + 5)).setObj (mkOid 4 0x100 1) 0).setObj (vfOid 0 5)
      1).onFn_ (hostFn 0) fun x => { x with vfEnable := true }).onQp 0 fun x =>
      { x with st := .running, enable := true, started := [{ num := 7, words := [7 * 2 ^ 56, 8, 64, 4096, 0x1122334455667788, 0, 0, 0], pos := 8, msg := [1, 2, 3, 4, 5, 6, 7, 8] }] })) ∧
    ((fun (q : Qp) (num : Nat) (d : Desc) (s : State) => s.mod.md.mode.pastBootMode = true ∧ s.mod.absorbed q = s.mod ∧ s.mod.desc q num = some d ∧ d.ran =
      true ∧ d.writes = [] ∧ d.silent = false ∧ (s.mod.qp q).cqRoom = true ∧ (s.mod.fnSt (vfFn (s.mod.qpSlot q))).flr = false ∧ Quiet s.mod (qpStream q) ∧
      Room s.mod (s.mod.qpPort q) ∧ Open s.mod (s.mod.qpPort q)) 0 7
      ({ num := 7, words := [4 * 2 ^ 56, 8, 64, 4096, 0x1122334455667788, 0, 0, 0], ran := true, bytes := 8 }) (at_ fun m => ((((((m.onMd fun b =>
      { b with mode := .operate }).setObj (qpOwnerOid 0) (2 ^ 15)).setObj (vfOid 0 1) (2 ^ 31 + 5)).setObj (mkOid 4 0x100 1) 0).setObj (vfOid 0 5) 1).onFn_
      (hostFn 0) fun x => { x with vfEnable := true }).onQp 0 fun x =>
      { x with st := .running, enable := true, started := [{ num := 7, words := [4 * 2 ^ 56, 8, 64, 4096, 0x1122334455667788, 0, 0, 0], ran := true, bytes := 8 }] })) := by
  refine ⟨?_, ?_, ?_, ?_, ?_, ?_, ?_⟩ <;> decide +kernel

theorem meets_DescriptorsEndWithTheirResults :
    ((fun (q : Qp) (num : Nat) (d : Desc) (s : State) => Runs s.mod q num 4 d ∧ d.writes = [] ∧ d.silent = false ∧ d.buf.length = s.mod.chunk q d ∧
      d.msg.length = s.mod.chunk q d ∧ d.pos < d.len ∧ d.len ≤ d.pos + s.mod.chunk q d) 0 7
      ({ num := 7, words := [4 * 2 ^ 56, 8, 64, 4096, 0x1122334455667788, 0, 0, 0], buf := [1, 2, 3, 4, 5, 6, 7, 8], msg := [1, 2, 3, 4, 5, 6, 9, 8] }) (at_
      fun m => ((((((m.onMd fun b => { b with mode := .operate }).setObj (qpOwnerOid 0) (2 ^ 15)).setObj (vfOid 0 1) (2 ^ 31 + 5)).setObj (mkOid 4 0x100 1)
      0).setObj (vfOid 0 5) 1).onFn_ (hostFn 0) fun x => { x with vfEnable := true }).onQp 0 fun x =>
      { x with st := .running, enable := true, started := [{ num := 7, words := [4 * 2 ^ 56, 8, 64, 4096, 0x1122334455667788, 0, 0, 0], buf := [1, 2, 3, 4, 5, 6, 7, 8], msg := [1, 2, 3, 4, 5, 6, 9, 8] }] })) ∧
    ((fun (q : Qp) (num : Nat) (d : Desc) (s : State) => Runs s.mod q num 4 d ∧ d.writes = [] ∧ d.silent = false ∧ d.buf.length = s.mod.chunk q d ∧
      d.msg.length = s.mod.chunk q d ∧ d.pos < d.len ∧ d.len ≤ d.pos + s.mod.chunk q d) 0 7
      ({ num := 7, words := [4 * 2 ^ 56, 8, 64, 4096, 0x1122334455667788, 0, 0, 0], buf := [1, 2, 3, 4, 5, 6, 7, 8], msg := [1, 2, 3, 4, 5, 6, 7, 8] }) (at_
      fun m => ((((((m.onMd fun b => { b with mode := .operate }).setObj (qpOwnerOid 0) (2 ^ 15)).setObj (vfOid 0 1) (2 ^ 31 + 5)).setObj (mkOid 4 0x100 1)
      0).setObj (vfOid 0 5) 1).onFn_ (hostFn 0) fun x => { x with vfEnable := true }).onQp 0 fun x =>
      { x with st := .running, enable := true, started := [{ num := 7, words := [4 * 2 ^ 56, 8, 64, 4096, 0x1122334455667788, 0, 0, 0], buf := [1, 2, 3, 4, 5, 6, 7, 8], msg := [1, 2, 3, 4, 5, 6, 7, 8] }] })) ∧
    ((fun (q : Qp) (num op : Nat) (c : Instr) (d : Desc) (s : State) => (c, op) ∈ [(Instr.opCrc32c q num false, 5), (.opCrc64 q num false, 6)] ∧ Runs s.mod
      q num op d ∧ d.writes = [] ∧ d.silent = false ∧ d.buf.length = s.mod.chunk q d ∧ d.pos < d.len ∧ d.len ≤ d.pos + s.mod.chunk q d) 0 7 5 (.opCrc32c 0 7
      false) ({ num := 7, words := [5 * 2 ^ 56, 8, 64, 4096, 0x1122334455667788, 0, 0, 0], buf := [1, 2, 3, 4, 5, 6, 7, 8] }) (at_ fun m => ((((((m.onMd fun
      b => { b with mode := .operate }).setObj (qpOwnerOid 0) (2 ^ 15)).setObj (vfOid 0 1) (2 ^ 31 + 5)).setObj (mkOid 4 0x100 1) 0).setObj (vfOid 0 5)
      1).onFn_ (hostFn 0) fun x => { x with vfEnable := true }).onQp 0 fun x =>
      { x with st := .running, enable := true, started := [{ num := 7, words := [5 * 2 ^ 56, 8, 64, 4096, 0x1122334455667788, 0, 0, 0], buf := [1, 2, 3, 4, 5, 6, 7, 8] }] })) ∧
    ((fun (q : Qp) (num op : Nat) (c : Instr) (d : Desc) (s : State) => (c, op) ∈ [(Instr.opCrc32c q num false, 5), (.opCrc64 q num false, 6)] ∧ Runs s.mod
      q num op d ∧ d.writes = [] ∧ d.silent = false ∧ d.buf.length = s.mod.chunk q d ∧ d.pos < d.len ∧ d.len ≤ d.pos + s.mod.chunk q d) 0 7 6 (.opCrc64 0 7
      false) ({ num := 7, words := [6 * 2 ^ 56, 8, 64, 4096, 0x1122334455667788, 0, 0, 0], buf := [1, 2, 3, 4, 5, 6, 7, 8] }) (at_ fun m => ((((((m.onMd fun
      b => { b with mode := .operate }).setObj (qpOwnerOid 0) (2 ^ 15)).setObj (vfOid 0 1) (2 ^ 31 + 5)).setObj (mkOid 4 0x100 1) 0).setObj (vfOid 0 5)
      1).onFn_ (hostFn 0) fun x => { x with vfEnable := true }).onQp 0 fun x =>
      { x with st := .running, enable := true, started := [{ num := 7, words := [6 * 2 ^ 56, 8, 64, 4096, 0x1122334455667788, 0, 0, 0], buf := [1, 2, 3, 4, 5, 6, 7, 8] }] })) ∧
    ((fun (q : Qp) (num op : Nat) (c : Instr) (d : Desc) (s : State) => (c, op) ∈ [(Instr.opFetchAdd q num false, 8), (.opCas q num false, 9)] ∧ Runs s.mod
      q num op d ∧ d.writes = [] ∧ d.silent = false ∧ d.opened = true ∧ d.buf.length = d.len) 0 7 8 (.opFetchAdd 0 7 false)
      ({ num := 7, words := [8 * 2 ^ 56, 8, 64, 4096, 0x1122334455667788, 0, 0, 0], opened := true, buf := [1, 2, 3, 4, 5, 6, 7, 8] }) (at_ fun m =>
      ((((((m.onMd fun b => { b with mode := .operate }).setObj (qpOwnerOid 0) (2 ^ 15)).setObj (vfOid 0 1) (2 ^ 31 + 5)).setObj (mkOid 4 0x100 1) 0).setObj
      (vfOid 0 5) 1).onFn_ (hostFn 0) fun x => { x with vfEnable := true }).onQp 0 fun x =>
      { x with st := .running, enable := true, started := [{ num := 7, words := [8 * 2 ^ 56, 8, 64, 4096, 0x1122334455667788, 0, 0, 0], opened := true, buf := [1, 2, 3, 4, 5, 6, 7, 8] }] })) ∧
    ((fun (q : Qp) (num op : Nat) (c : Instr) (d : Desc) (s : State) => (c, op) ∈ [(Instr.opFetchAdd q num false, 8), (.opCas q num false, 9)] ∧ Runs s.mod
      q num op d ∧ d.writes = [] ∧ d.silent = false ∧ d.opened = true ∧ d.buf.length = d.len) 0 7 9 (.opCas 0 7 false)
      ({ num := 7, words := [9 * 2 ^ 56, 8, 64, 4096, 0x1122334455667788, 0, 0, 0], opened := true, buf := [1, 2, 3, 4, 5, 6, 7, 8] }) (at_ fun m =>
      ((((((m.onMd fun b => { b with mode := .operate }).setObj (qpOwnerOid 0) (2 ^ 15)).setObj (vfOid 0 1) (2 ^ 31 + 5)).setObj (mkOid 4 0x100 1) 0).setObj
      (vfOid 0 5) 1).onFn_ (hostFn 0) fun x => { x with vfEnable := true }).onQp 0 fun x =>
      { x with st := .running, enable := true, started := [{ num := 7, words := [9 * 2 ^ 56, 8, 64, 4096, 0x1122334455667788, 0, 0, 0], opened := true, buf := [1, 2, 3, 4, 5, 6, 7, 8] }] })) ∧
    ((fun (q : Qp) (num : Nat) (d : Desc) (s : State) => Runs s.mod q num 10 d ∧ d.migrate = none ∧ s.mod.objv (vfOid (s.mod.qpSlot q) 7) ≠ 0 ∧
      s.mod.homedHere (fld (d.word 4) 0 16) = true ∧ s.mod.homedHere (fld (d.word 4) 16 16) = true ∧ fld (s.mod.d0 (fld (d.word 4) 0 16)) 33 8 =
      s.mod.vfTenant (s.mod.qpSlot q) ∧ s.mod.mState (fld (d.word 4) 0 16) ∉ [1, 2, 3] ∧ s.mod.migDestOk (fld (d.word 4) 0 16) (fld (d.word 4) 16 16) =
      true) 0 7 ({ num := 7, words := [10 * 2 ^ 56, 0, 0, 0, 5 + 6 * 2 ^ 16, 0, 0, 0] }) (at_ fun m => (((((((((m.onMd fun b =>
      { b with mode := .operate }).setObj (qpOwnerOid 0) (2 ^ 15)).setObj (vfOid 0 1) (2 ^ 31 + 5)).setObj (mkOid 4 0x100 1) 0).setObj (vfOid 0 5) 1).onFn_
      (hostFn 0) fun x => { x with vfEnable := true }).setObj (vfOid 0 7) 1).setObj (descOid 0 5) (2 ^ 61 + 5 * 2 ^ 33)).setObj (descOid 0 6) (2 ^ 61 + 5 *
      2 ^ 33)).onQp 0 fun x => { x with started := [{ num := 7, words := [10 * 2 ^ 56, 0, 0, 0, 5 + 6 * 2 ^ 16, 0, 0, 0] }] })) ∧
    ((fun (q : Qp) (num : Nat) (d : Desc) (s : State) => Runs s.mod q num 11 d ∧ d.opened = false ∧ Quiet s.mod (qpStream q)) 0 7
      ({ num := 7, words := [11 * 2 ^ 56, 0, 0, 0, 0, 0, 0, 0] }) (at_ fun m => ((((((m.onMd fun b => { b with mode := .operate }).setObj (qpOwnerOid 0) (2
      ^ 15)).setObj (vfOid 0 1) (2 ^ 31 + 5)).setObj (mkOid 4 0x100 1) 0).setObj (vfOid 0 5) 1).onFn_ (hostFn 0) fun x => { x with vfEnable := true }).onQp
      0 fun x => { x with st := .running, enable := true, started := [{ num := 7, words := [11 * 2 ^ 56, 0, 0, 0, 0, 0, 0, 0] }] })) ∧
    ((fun (q : Qp) (num : Nat) (d : Desc) (s : State) => Runs s.mod q num 12 d ∧ s.mod.callable (s.mod.qpSlot q) (fld (d.word 4) 0 9) = true) 0 7
      ({ num := 7, words := [12 * 2 ^ 56, 0, 0, 0, 256, 6, 0, 0] }) (at_ fun m => ((((((m.onMd fun b => { b with mode := .operate }).setObj (qpOwnerOid 0)
      (2 ^ 15)).setObj (vfOid 0 1) (2 ^ 31 + 5)).setObj (mkOid 4 0x100 1) 0).setObj (vfOid 0 5) 1).onFn_ (hostFn 0) fun x =>
      { x with vfEnable := true }).onQp 0 fun x =>
      { x with st := .running, enable := true, started := [{ num := 7, words := [12 * 2 ^ 56, 0, 0, 0, 256, 6, 0, 0] }] })) := by
  refine ⟨?_, ?_, ?_, ?_, ?_, ?_, ?_, ?_, ?_⟩ <;> decide +kernel

theorem meets_HubBusCountersAndScrub :
    ((fun (master : Fin 18) (priv : Fin 4) (k : BusKind) (addr size _data : Nat) (s : State) => 2 ≤ s.mod.md.mode.code ∧ 1 ≤ size ∧ size ≤ 64 ∧ addr < 2 ^
      48 ∧ (master ≠ 17 ∨ (priv = 3 ∧ k ≠ .fetch ∧ s.mod.lifeCode ≠ 5))) 3 0 .write 0x100000010 8 0x1122334455667788 (at_ fun m => ((m.onMd fun b =>
      { b with mode := .operate }).setObj (regionOid 0 1) 0x100000000).setObj (regionOid 0 2) (2 ^ 31 + 31 * 2 ^ 24 + 3))) ∧
    ((fun (master : Fin 18) (priv : Fin 4) (k : BusKind) (addr size _data : Nat) (s : State) => 2 ≤ s.mod.md.mode.code ∧ 1 ≤ size ∧ size ≤ 64 ∧ addr < 2 ^
      48 ∧ (master ≠ 17 ∨ (priv = 3 ∧ k ≠ .fetch ∧ s.mod.lifeCode ≠ 5))) 3 0 .write 0x10000010 64 0x1122334455667788 (at_ fun m => ((m.onMd fun b =>
      { b with mode := .operate }).setObj (regionOid 0 1) 0x10000000).setObj (regionOid 0 2) (2 ^ 31 + 24 * 2 ^ 24 + 3))) ∧
    ((fun (master : Fin 18) (priv : Fin 4) (k : BusKind) (addr size _data : Nat) (s : State) => 2 ≤ s.mod.md.mode.code ∧ 1 ≤ size ∧ size ≤ 64 ∧ addr < 2 ^
      48 ∧ (master ≠ 17 ∨ (priv = 3 ∧ k ≠ .fetch ∧ s.mod.lifeCode ≠ 5))) 3 0 .read 0x10000010 1 0 (at_ fun m => ((m.onMd fun b =>
      { b with mode := .operate }).setObj (regionOid 0 1) 0x10000000).setObj (regionOid 0 2) (2 ^ 31 + 24 * 2 ^ 24 + 3))) ∧
    ((fun (master : Fin 18) (priv : Fin 4) (k : BusKind) (addr size _data : Nat) (s : State) => 2 ≤ s.mod.md.mode.code ∧ 1 ≤ size ∧ size ≤ 64 ∧ addr < 2 ^
      48 ∧ (master ≠ 17 ∨ (priv = 3 ∧ k ≠ .fetch ∧ s.mod.lifeCode ≠ 5))) 17 3 .write 0x3000000000 1 0 (at_ fun m => m.onMd fun b =>
      { b with mode := .operate })) ∧
    ((fun (k : Fin 64) (_o : Sampled) (s : State) => k.val ∈ s.mod.cn.arms) 5 ({ port := 3 }) (at_ fun m => ((m.onCn fun b =>
      { b with arms := [5] }).setObj 0xE04200 64).setObj 0xE04100 4096)) ∧
    ((fun (k : Fin 64) (_o : Sampled) (s : State) => k.val ∈ s.mod.cn.arms) 5 ({ port := 3 }) (at_ fun m => ((m.onCn fun b =>
      { b with arms := [5] }).setObj 0xE04200 64).setObj 0xE04300 2)) ∧
    ((fun (s : State) => s.mod.cn.winSkip = false) (at_ fun m => (m.setObj 0xE04000 1000).onCn fun b =>
      { b with winRx := [(3, 9)], peakRx := [(3, 5), (4, 7)] })) ∧
    ((fun (c : Fin 24) (f : ScrubFind) (s : State) => .vmem ∈ s.mod.md.rails ∧ tget 0 c.val s.mod.cn.scrubPos + 1 < scrubLines ∧ f ∈ [.clean, .corrected])
      5 .corrected (at_ fun m => (m.onMd fun b => { b with rails := [.vmem] }).onCn fun b => { b with rowFix := [(5 * 2 ^ 20, 3)] })) ∧
    ((fun (c : Fin 24) (f : ScrubFind) (s : State) => .vmem ∈ s.mod.md.rails ∧ tget 0 c.val s.mod.cn.scrubPos + 1 < scrubLines ∧ f ∈ [.clean, .corrected])
      5 .clean (at_ fun m => m.onMd fun b => { b with rails := [.vmem] })) ∧
    ((fun (c : Fin 24) (s : State) => .vmem ∈ s.mod.md.rails ∧ s.mod.chained (1152 + 8 * c + 1) = false) 23 (at_ fun m => m.onMd fun b =>
      { b with rails := [.vmem] })) ∧
    ((fun (t : Nat) (s : State) => s.mod.ev.msiQuiet = some t) 5 (at_ fun m => ((m.onEv fun b => { b with msiQuiet := some 5, msiOwed := true }).onMd fun b
      => { b with mrdy := true }).onFn_ 0 fun x => { x with msixOn := true, table := [(0, { masked := false })] })) ∧
    ((fun (t : Nat) (s : State) => s.mod.ev.msiQuiet = some t) 5 (at_ fun m => m.onEv fun b => { b with msiQuiet := some 5 })) := by
  refine ⟨?_, ?_, ?_, ?_, ?_, ?_, ?_, ?_, ?_, ?_, ?_, ?_⟩ <;> decide +kernel

theorem meets_RequestsReadAndWriteObjects :
    ((fun (h : ReqHdr) (it : Item) (m0 : Mod) (c : Caller) (s : State) => Enters s.mod h (.read it) m0 c ∧ m0.readSts h.src it.oid ≠ .ok) ((reqOf 8))
      ({ oid := 0xFFFFFF }) ((entered (conf State.reset.mod) (reqOf 8)).1) ((entered (conf State.reset.mod) (reqOf 8)).2) ((at_ conf))) ∧
    ((fun (h : ReqHdr) (it : Item) (m0 : Mod) (c : Caller) (s : State) => Enters s.mod h (.read it) m0 c ∧ m0.readSts h.src it.oid ≠ .ok)
      ({ (reqOf 8) with src := .proxy 5 77 0, target := 0 }) ({ oid := 0xFFFFFF }) ((entered (conf State.reset.mod)
      { (reqOf 8) with src := .proxy 5 77 0, target := 0 }).1) ((entered (conf State.reset.mod) { (reqOf 8) with src := .proxy 5 77 0, target := 0 }).2)
      ((at_ conf))) ∧
    ((fun (h : ReqHdr) (it : Item) (r : ObjRow) (m0 : Mod) (c : Caller) (s : State) => Enters s.mod h (.read it) m0 c ∧ m0.rowFor h.src it.oid = some r ∧
      m0.readSts h.src it.oid = .ok ∧ it.ty = tyCode r.ty ∧ r.m ∈ [.r, .rw] ∧ PlainRead it.oid) ((reqOf 8)) ({ oid := 0x003400, ty := 4 }) ((objFind
      0x003400).get (by decide)) ((entered (conf State.reset.mod) (reqOf 8)).1) ((entered (conf State.reset.mod) (reqOf 8)).2) ((at_ conf))) ∧
    ((fun (h : ReqHdr) (it : Item) (r : ObjRow) (m0 : Mod) (c : Caller) (s : State) => Enters s.mod h (.read it) m0 c ∧ m0.rowFor h.src it.oid = some r ∧
      m0.readSts h.src it.oid = .ok ∧ it.ty = tyCode r.ty ∧ r.m ∈ [.r, .rw] ∧ PlainRead it.oid)
      ({ (reqOf 8) with shadow := true, src := .mctpPcie 7, session := 2, seq := 9 }) ({ oid := fctrOid 5 4, ty := 5 }) ((objFind (fctrOid 5 4)).get (by
      decide)) ((entered (((fun m => (((conf m).openSession (.mctpPcie 7)).1).onDi fun d =>
      { d with groups := [filterGroup] })) State.reset.mod)
      { (reqOf 8) with shadow := true, src := .mctpPcie 7, session := 2, seq := 9 }).1) ((entered (((fun m => (((conf m).openSession (.mctpPcie 7)).1).onDi
      fun d => { d with groups := [filterGroup] })) State.reset.mod)
      { (reqOf 8) with shadow := true, src := .mctpPcie 7, session := 2, seq := 9 }).2) (at_ ((fun m => (((conf m).openSession (.mctpPcie 7)).1).onDi fun d
      => { d with groups := [filterGroup] })))) ∧
    ((fun (h : ReqHdr) (its : List Item) (m0 : Mod) (c : Caller) (s : State) => Enters s.mod h (.multi its) m0 c) ((reqOf 8))
      ([{ oid := 0x003400, ty := 4 }]) ((entered (conf State.reset.mod) (reqOf 8)).1) ((entered (conf State.reset.mod) (reqOf 8)).2) ((at_ conf))) ∧
    ((fun (h : ReqHdr) (it : Item) (_stored : Bool) (m0 : Mod) (c : Caller) (s : State) => Enters s.mod h (.write it) m0 c ∧ (m0.checkWrite c it).2.1 ≠
      .ok) (reqOf 12) ({ oid := 0x003400, ty := 4, len := 4, val := 2 ^ 31 }) true ((entered (conf State.reset.mod) (reqOf 12)).1) ((entered (conf
      State.reset.mod) (reqOf 12)).2) ((at_ conf))) ∧
    ((fun (h : ReqHdr) (it : Item) (_stored : Bool) (m0 k : Mod) (c : Caller) (r : ObjRow) (num : Nat) (s : State) => Enters s.mod h (.write it) m0 c ∧
      m0.checkWrite c it = (k, .ok, some r) ∧ k.groupOf r it.oid = some num ∧ (∀ g ∈ k.group num, g.st = .opened ∧ (g.session = c.sess ∨ privOf h.src ≠
      .root)) ∧ (∃ i < 64, i + 1 ∉ k.di.groups.map (·.slot))) (({ reqOf 16 with src := .mctpPcie 7, session := 2, seq := 9 }))
      (({ oid := fctrOid 5 4, ty := 5, len := 8, val := 5 })) true ((entered (((fun m => ((conf m).openSession (.mctpPcie 7)).1)) State.reset.mod)
      ({ reqOf 16 with src := .mctpPcie 7, session := 2, seq := 9 })).1) (((entered (((fun m => ((conf m).openSession (.mctpPcie 7)).1)) State.reset.mod)
      ({ reqOf 16 with src := .mctpPcie 7, session := 2, seq := 9 })).1.checkWrite (entered (((fun m => ((conf m).openSession (.mctpPcie 7)).1))
      State.reset.mod) ({ reqOf 16 with src := .mctpPcie 7, session := 2, seq := 9 })).2 ({ oid := fctrOid 5 4, ty := 5, len := 8, val := 5 })).1) ((entered
      (((fun m => ((conf m).openSession (.mctpPcie 7)).1)) State.reset.mod) ({ reqOf 16 with src := .mctpPcie 7, session := 2, seq := 9 })).2) ((objFind
      (fctrOid 5 4)).get (by decide)) (3 * 2 ^ 24 + 5) (at_ ((fun m => ((conf m).openSession (.mctpPcie 7)).1)))) ∧
    ((fun (h : ReqHdr) (it : Item) (_stored : Bool) (m0 k : Mod) (c : Caller) (r : ObjRow) (num : Nat) (s : State) => Enters s.mod h (.write it) m0 c ∧
      m0.checkWrite c it = (k, .ok, some r) ∧ k.groupOf r it.oid = some num ∧ (∀ g ∈ k.group num, g.st = .opened ∧ (g.session = c.sess ∨ privOf h.src ≠
      .root)) ∧ (∃ i < 64, i + 1 ∉ k.di.groups.map (·.slot))) (({ reqOf 16 with src := .mctpPcie 7, session := 2, seq := 9 }))
      (({ oid := fctrOid 5 4, ty := 5, len := 8, val := 5 })) true ((entered (((fun m => (((conf m).openSession (.mctpPcie 7)).1).onDi fun d =>
      { d with groups := [filterGroup] })) State.reset.mod)
      ({ reqOf 16 with src := .mctpPcie 7, session := 2, seq := 9 })).1) (((entered (((fun m => (((conf m).openSession (.mctpPcie 7)).1).onDi fun d =>
      { d with groups := [filterGroup] })) State.reset.mod)
      ({ reqOf 16 with src := .mctpPcie 7, session := 2, seq := 9 })).1.checkWrite (entered (((fun m => (((conf m).openSession (.mctpPcie 7)).1).onDi fun d
      => { d with groups := [filterGroup] })) State.reset.mod)
      ({ reqOf 16 with src := .mctpPcie 7, session := 2, seq := 9 })).2 ({ oid := fctrOid 5 4, ty := 5, len := 8, val := 5 })).1) ((entered (((fun m =>
      (((conf m).openSession (.mctpPcie 7)).1).onDi fun d =>
      { d with groups := [filterGroup] })) State.reset.mod)
      ({ reqOf 16 with src := .mctpPcie 7, session := 2, seq := 9 })).2) ((objFind (fctrOid 5 4)).get (by decide)) (3 * 2 ^ 24 + 5) (at_ ((fun m => (((conf
      m).openSession (.mctpPcie 7)).1).onDi fun d =>
      { d with groups := [filterGroup] })))) ∧
    ((fun (h : ReqHdr) (it : Item) (_stored : Bool) (m0 k : Mod) (c : Caller) (r : ObjRow) (num : Nat) (s : State) => Enters s.mod h (.write it) m0 c ∧
      m0.checkWrite c it = (k, .ok, some r) ∧ k.groupOf r it.oid = some num ∧ (∀ g ∈ k.group num, g.st = .opened ∧ (g.session = c.sess ∨ privOf h.src ≠
      .root)) ∧ (∃ i < 64, i + 1 ∉ k.di.groups.map (·.slot))) (({ reqOf 16 with src := .mctpPcie 7, session := 2, seq := 9 }))
      (({ oid := fctrOid 5 4, ty := 5, len := 8, val := 5 })) true ((entered (((fun m => (((conf m).openSession (.mctpPcie 7)).1).onDi fun d =>
      { d with groups := [{ filterGroup with session := 3 }] }))
      State.reset.mod) ({ reqOf 16 with src := .mctpPcie 7, session := 2, seq := 9 })).1) (((entered (((fun m => (((conf m).openSession (.mctpPcie
      7)).1).onDi fun d =>
      { d with groups := [{ filterGroup with session := 3 }] }))
      State.reset.mod) ({ reqOf 16 with src := .mctpPcie 7, session := 2, seq := 9 })).1.checkWrite (entered (((fun m => (((conf m).openSession (.mctpPcie
      7)).1).onDi fun d =>
      { d with groups := [{ filterGroup with session := 3 }] }))
      State.reset.mod) ({ reqOf 16 with src := .mctpPcie 7, session := 2, seq := 9 })).2 ({ oid := fctrOid 5 4, ty := 5, len := 8, val := 5 })).1) ((entered
      (((fun m => (((conf m).openSession (.mctpPcie 7)).1).onDi fun d =>
      { d with groups := [{ filterGroup with session := 3 }] }))
      State.reset.mod) ({ reqOf 16 with src := .mctpPcie 7, session := 2, seq := 9 })).2) ((objFind (fctrOid 5 4)).get (by decide)) (3 * 2 ^ 24 + 5) (at_
      ((fun m => (((conf m).openSession (.mctpPcie 7)).1).onDi fun d =>
      { d with groups := [{ filterGroup with session := 3 }] })))) ∧
    ((fun (h : ReqHdr) (num : Nat) (its : List Item) (_stored : Bool) (m0 : Mod) (c : Caller) (s : State) => Enters s.mod h (.group num its) m0 c)
      ({ reqOf 20 with src := .mctpPcie 7, session := 2, seq := 9 }) (3 * 2 ^ 24 + 5) ([({ oid := fctrOid 5 4, ty := 5, len := 8, val := 5 })]) true
      ((entered (((fun m => ((conf m).openSession (.mctpPcie 7)).1)) State.reset.mod) { reqOf 20 with src := .mctpPcie 7, session := 2, seq := 9 }).1)
      ((entered (((fun m => ((conf m).openSession (.mctpPcie 7)).1)) State.reset.mod) { reqOf 20 with src := .mctpPcie 7, session := 2, seq := 9 }).2) (at_
      ((fun m => ((conf m).openSession (.mctpPcie 7)).1)))) ∧
    ((fun (h : ReqHdr) (it : Item) (mode : Nat) (m0 : Mod) (c : Caller) (s : State) => Enters s.mod h (.subscribe it mode) m0 c ∧ m0.readSts h.src it.oid =
      .ok ∧ ((objFind it.oid).any (fun r => decide (tyCode r.ty = it.ty)) = true) ∧ 2 ≤ c.sess ∧ c.sess < 0x100)
      (({reqOf 12 with src := .mctpPcie 7, session := 2, seq := 9 })) ({ oid := 0x003400, ty := 4 }) 5 ((entered (((fun m => ((conf m).openSession
      (.mctpPcie 7)).1)) State.reset.mod) ({reqOf 12 with src := .mctpPcie 7, session := 2, seq := 9 })).1) ((entered (((fun m => ((conf m).openSession
      (.mctpPcie 7)).1)) State.reset.mod) ({reqOf 12 with src := .mctpPcie 7, session := 2, seq := 9 })).2) (at_ ((fun m => ((conf m).openSession (.mctpPcie
      7)).1)))) := by
  refine ⟨?_, ?_, ?_, ?_, ?_, ?_, ?_, ?_, ?_, ?_, ?_⟩ <;> decide +kernel

theorem meets_GroupsCommitAndApply :
    ((fun (h : ReqHdr) (num : Nat) (_stored : Bool) (m0 : Mod) (c : Caller) (s : State) => Enters s.mod h (.commit num) m0 c ∧ (m0.checkWrite c
      (itemOf 0x001000 num)).2.1 ≠ .ok) ({ reqGroup with src := .proxy 5 77 3, session := 0, target := 0 }) (3 * 2 ^ 24 + 5) true (entered (conf
      State.reset.mod) { reqGroup with src := .proxy 5 77 3, session := 0, target := 0 }).1 (entered (conf State.reset.mod)
      { reqGroup with src := .proxy 5 77 3, session := 0, target := 0 }).2 (at_ conf)) ∧
    ((fun (h : ReqHdr) (num : Nat) (m0 : Mod) (c : Caller) (s : State) => Enters s.mod h (.abort num) m0 c ∧ (m0.checkWrite c (itemOf 0x001200
      num)).2.1 ≠ .ok) ({ reqGroup with src := .proxy 5 77 3, session := 0, target := 0 }) (3 * 2 ^ 24 + 5) (entered (conf State.reset.mod)
      { reqGroup with src := .proxy 5 77 3, session := 0, target := 0 }).1 (entered (conf State.reset.mod)
      { reqGroup with src := .proxy 5 77 3, session := 0, target := 0 }).2 (at_ conf)) ∧
    ((fun (h : ReqHdr) (num : Nat) (_stored : Bool) (m1 m0 : Mod) (c : Caller) (r : ObjRow) (s : State) => Enters s.mod h (.commit num) m1 c ∧
      m1.checkWrite c (itemOf 0x001000 num) = (m0, .ok, some r)) reqGroup (3 * 2 ^ 24 + 5) true (entered (grouped filterGroup State.reset.mod)
      reqGroup).1 ((entered (grouped filterGroup State.reset.mod) reqGroup).1.checkWrite (entered (grouped filterGroup State.reset.mod) reqGroup).2
      (itemOf 0x001000 (3 * 2 ^ 24 + 5))).1 (entered (grouped filterGroup State.reset.mod) reqGroup).2 ((objFind 0x001000).get (by decide)) (at_
      (grouped filterGroup))) ∧
    ((fun (h : ReqHdr) (num : Nat) (_stored : Bool) (m1 m0 : Mod) (c : Caller) (r : ObjRow) (s : State) => Enters s.mod h (.commit num) m1 c ∧
      m1.checkWrite c (itemOf 0x001000 num) = (m0, .ok, some r)) reqGroup (3 * 2 ^ 24 + 5) true (entered (grouped { filterGroup with session := 3 }
      State.reset.mod) reqGroup).1 ((entered (grouped { filterGroup with session := 3 } State.reset.mod) reqGroup).1.checkWrite (entered (grouped
      { filterGroup with session := 3 } State.reset.mod) reqGroup).2 (itemOf 0x001000 (3 * 2 ^ 24 + 5))).1 (entered (grouped
      { filterGroup with session := 3 } State.reset.mod) reqGroup).2 ((objFind 0x001000).get (by decide)) (at_ (grouped
      { filterGroup with session := 3 }))) ∧
    ((fun (h : ReqHdr) (num : Nat) (_stored : Bool) (m1 m0 : Mod) (c : Caller) (r : ObjRow) (s : State) => Enters s.mod h (.commit num) m1 c ∧
      m1.checkWrite c (itemOf 0x001000 num) = (m0, .ok, some r)) reqGroup (3 * 2 ^ 24 + 5) true (entered (grouped { filterGroup with num := 9 }
      State.reset.mod) reqGroup).1 ((entered (grouped { filterGroup with num := 9 } State.reset.mod) reqGroup).1.checkWrite (entered (grouped
      { filterGroup with num := 9 } State.reset.mod) reqGroup).2 (itemOf 0x001000 (3 * 2 ^ 24 + 5))).1 (entered (grouped { filterGroup with num := 9 }
      State.reset.mod) reqGroup).2 ((objFind 0x001000).get (by decide)) (at_ (grouped { filterGroup with num := 9 }))) ∧
    ((fun (h : ReqHdr) (num : Nat) (_stored : Bool) (m1 m0 : Mod) (c : Caller) (r : ObjRow) (s : State) => Enters s.mod h (.commit num) m1 c ∧
      m1.checkWrite c (itemOf 0x001000 num) = (m0, .ok, some r)) reqGroup (3 * 2 ^ 24 + 5) true (entered (grouped { filterGroup with st := .armed }
      State.reset.mod) reqGroup).1 ((entered (grouped { filterGroup with st := .armed } State.reset.mod) reqGroup).1.checkWrite (entered (grouped
      { filterGroup with st := .armed } State.reset.mod) reqGroup).2 (itemOf 0x001000 (3 * 2 ^ 24 + 5))).1 (entered (grouped
      { filterGroup with st := .armed } State.reset.mod) reqGroup).2 ((objFind 0x001000).get (by decide)) (at_ (grouped
      { filterGroup with st := .armed }))) ∧
    ((fun (h : ReqHdr) (num : Nat) (_stored : Bool) (m1 m0 : Mod) (c : Caller) (r : ObjRow) (s : State) => Enters s.mod h (.commit num) m1 c ∧
      m1.checkWrite c (itemOf 0x001000 num) = (m0, .ok, some r)) reqGroup (6 * 2 ^ 24) true (entered (grouped
      { filterGroup with num := 6 * 2 ^ 24, shadows := [(gateObj 0 1, 10 ^ 9)] } State.reset.mod) reqGroup).1 ((entered (grouped
      { filterGroup with num := 6 * 2 ^ 24, shadows := [(gateObj 0 1, 10 ^ 9)] } State.reset.mod) reqGroup).1.checkWrite (entered (grouped
      { filterGroup with num := 6 * 2 ^ 24, shadows := [(gateObj 0 1, 10 ^ 9)] } State.reset.mod) reqGroup).2 (itemOf 0x001000 (6 * 2 ^ 24))).1
      (entered (grouped { filterGroup with num := 6 * 2 ^ 24, shadows := [(gateObj 0 1, 10 ^ 9)] } State.reset.mod) reqGroup).2 ((objFind
      0x001000).get (by decide)) (at_ (grouped { filterGroup with num := 6 * 2 ^ 24, shadows := [(gateObj 0 1, 10 ^ 9)] }))) ∧
    ((fun (h : ReqHdr) (num : Nat) (m1 m0 : Mod) (c : Caller) (r : ObjRow) (s : State) => Enters s.mod h (.abort num) m1 c ∧ m1.checkWrite c (itemOf
      0x001200 num) = (m0, .ok, some r)) reqGroup (3 * 2 ^ 24 + 5) (entered (grouped filterGroup State.reset.mod) reqGroup).1 ((entered (grouped
      filterGroup State.reset.mod) reqGroup).1.checkWrite (entered (grouped filterGroup State.reset.mod) reqGroup).2 (itemOf 0x001200 (3 * 2 ^ 24 +
      5))).1 (entered (grouped filterGroup State.reset.mod) reqGroup).2 ((objFind 0x001200).get (by decide)) (at_ (grouped filterGroup))) ∧
    ((fun (h : ReqHdr) (num : Nat) (m1 m0 : Mod) (c : Caller) (r : ObjRow) (s : State) => Enters s.mod h (.abort num) m1 c ∧ m1.checkWrite c (itemOf
      0x001200 num) = (m0, .ok, some r)) reqGroup (3 * 2 ^ 24 + 5) (entered (grouped { filterGroup with session := 3 } State.reset.mod) reqGroup).1
      ((entered (grouped { filterGroup with session := 3 } State.reset.mod) reqGroup).1.checkWrite (entered (grouped { filterGroup with session := 3 }
      State.reset.mod) reqGroup).2 (itemOf 0x001200 (3 * 2 ^ 24 + 5))).1 (entered (grouped { filterGroup with session := 3 } State.reset.mod)
      reqGroup).2 ((objFind 0x001200).get (by decide)) (at_ (grouped { filterGroup with session := 3 }))) ∧
    ((fun (h : ReqHdr) (num : Nat) (m1 m0 : Mod) (c : Caller) (r : ObjRow) (s : State) => Enters s.mod h (.abort num) m1 c ∧ m1.checkWrite c (itemOf
      0x001200 num) = (m0, .ok, some r)) reqGroup (3 * 2 ^ 24 + 5) (entered (grouped { filterGroup with st := .armed } State.reset.mod) reqGroup).1
      ((entered (grouped { filterGroup with st := .armed } State.reset.mod) reqGroup).1.checkWrite (entered (grouped { filterGroup with st := .armed }
      State.reset.mod) reqGroup).2 (itemOf 0x001200 (3 * 2 ^ 24 + 5))).1 (entered (grouped { filterGroup with st := .armed } State.reset.mod)
      reqGroup).2 ((objFind 0x001200).get (by decide)) (at_ (grouped { filterGroup with st := .armed }))) ∧
    ((fun (num : Nat) (g : Group) (s : State) => s.mod.group num = some g ∧ g.st = .applying ∧ (g.shadows.map (·.1)).Nodup ∧ g.num = num ∧ g.kind ∈
      [1, 2, 3, 8] ∧ s.mod.groupWaits g = false) (3 * 2 ^ 24 + 5)
      ({ ({ num := 3 * 2 ^ 24 + 5, session := 2, shadows := [(fctrOid 5 1, 9), (fctrOid 5 4, 77)] : Group }) with st := .applying, answered := true })
      (at_ fun m => m.onDi fun d =>
      { d with groups := [{ ({ num := 3 * 2 ^ 24 + 5, session := 2, shadows := [(fctrOid 5 1, 9), (fctrOid 5 4, 77)] : Group }) with st := .applying, answered := true }] })) ∧
    ((fun (num : Nat) (g : Group) (s : State) => s.mod.group num = some g ∧ g.st = .applying ∧ (g.shadows.map (·.1)).Nodup ∧ g.num = num ∧ g.kind ∈
      [1, 2, 3, 8] ∧ s.mod.groupWaits g = false) (3 * 2 ^ 24 + 5)
      ({ ({ num := 3 * 2 ^ 24 + 5, session := 2, shadows := [(fctrOid 5 1, 9), (fctrOid 5 4, 77)] : Group }) with st := .applying, src := .mgmtPf, opcode := 2 })
      (at_ fun m => m.onDi fun d =>
      { d with groups := [{ ({ num := 3 * 2 ^ 24 + 5, session := 2, shadows := [(fctrOid 5 1, 9), (fctrOid 5 4, 77)] : Group }) with st := .applying, src := .mgmtPf, opcode := 2 }] })) ∧
    ((fun (num : Nat) (g : Group) (s : State) => s.mod.group num = some g ∧ g.st = .applying ∧ (g.shadows.map (·.1)).Nodup ∧ g.num = num ∧ g.kind = 7
      ∧ s.mod.groupGated g = false) (7 * 2 ^ 24)
      ({ ({ num := 3 * 2 ^ 24 + 5, session := 2, shadows := [(fctrOid 5 1, 9), (fctrOid 5 4, 77)] : Group }) with num := 7 * 2 ^ 24, st := .applying, shadows := [(ideOid 3 2 1, 1)] })
      (at_ fun m => m.onDi fun d =>
      { d with groups := [{ ({ num := 3 * 2 ^ 24 + 5, session := 2, shadows := [(fctrOid 5 1, 9), (fctrOid 5 4, 77)] : Group }) with num := 7 * 2 ^ 24, st := .applying, shadows := [(ideOid 3 2 1, 1)] }] })) ∧
    ((fun (num : Nat) (g : Group) (s : State) => s.mod.group num = some g ∧ g.st = .applying ∧ (g.shadows.map (·.1)).Nodup ∧ g.num = num ∧ g.kind = 7
      ∧ s.mod.groupGated g = false) (7 * 2 ^ 24)
      ({ ({ num := 3 * 2 ^ 24 + 5, session := 2, shadows := [(fctrOid 5 1, 9), (fctrOid 5 4, 77)] : Group }) with num := 7 * 2 ^ 24, st := .applying, shadows := [(ideOid 3 2 1, 1)] })
      (at_ fun m => (m.onEdge 3 fun e => { e with dllUp := true }).onDi fun d =>
      { d with groups := [{ filterGroup with num := 7 * 2 ^ 24, st := .applying, shadows := [(ideOid 3 2 1, 1)] }] })) ∧
    ((fun (num : Nat) (g : Group) (s : State) => s.mod.group num = some g ∧ g.num = num ∧ g.st ≠ .opened ∧ g.answered = false) (3 * 2 ^ 24 + 5)
      ({ ({ num := 3 * 2 ^ 24 + 5, session := 2, shadows := [(fctrOid 5 1, 9), (fctrOid 5 4, 77)] : Group }) with st := .applying, src := .mctpPcie 7 })
      (at_ fun m => (conf m).onDi fun d =>
      { d with groups := [{ ({ num := 3 * 2 ^ 24 + 5, session := 2, shadows := [(fctrOid 5 1, 9), (fctrOid 5 4, 77)] : Group }) with st := .applying, src := .mctpPcie 7 }] })) ∧
    ((fun (num : Nat) (g : Group) (s : State) => s.mod.group num = some g ∧ g.num = num ∧ g.st = .opened) (3 * 2 ^ 24 + 5)
      (({ num := 3 * 2 ^ 24 + 5, session := 2, shadows := [(fctrOid 5 1, 9), (fctrOid 5 4, 77)] : Group })) (at_ ((fun m => (((conf m).openSession
      (.mctpPcie 7)).1).onDi fun d => { d with groups := [filterGroup] })))) ∧
    ((fun (p : EdgePort) (i : Fin 6) (s : State) => s.mod.lead p = p ∧ (s.mod.ideSt p i).committed = true ∧ (s.mod.ideSt p i).state ≠ 3 ∧ (s.mod.edge
      p).dllUp = true ∧ (∀ g ∈ s.mod.di.groups, g.kind = 7 → g.st = .applying → ideOf g ≠ (p.val, i.val))) 3 2 (at_ fun m => (m.onEdge 3 fun e =>
      { e with dllUp := true, stopped := true }).onIde 3 2 fun _ => { state := 1, committed := true })) ∧
    ((fun (p : PortIx) (g : Group) (T : Nat) (s : State) => s.mod.group (6 * 2 ^ 24 + p) = some g ∧ g.st = .armed ∧ (g.shadows.map (·.1)).Nodup ∧
      s.mod.groupGated g = false ∧ T = s.mod.withShadow g (gateObj p 1)) 5
      ({ ({ num := 3 * 2 ^ 24 + 5, session := 2, shadows := [(fctrOid 5 1, 9), (fctrOid 5 4, 77)] : Group }) with num := 6 * 2 ^ 24 + 5, st := .armed, src := .mctpPcie 7, shadows := [(gateObj 5 1, 100)] })
      100 (at_ fun m => (conf m).onDi fun d =>
      { d with groups := [{ filterGroup with num := 6 * 2 ^ 24 + 5, st := .armed, src := .mctpPcie 7, shadows := [(gateObj 5 1, 100)] }] })) ∧
    ((fun (p : PortIx) (g : Group) (T : Nat) (s : State) => s.mod.group (6 * 2 ^ 24 + p) = some g ∧ g.st = .armed ∧ (g.shadows.map (·.1)).Nodup ∧
      s.mod.groupGated g = false ∧ T = s.mod.withShadow g (gateObj p 1)) 5
      ({ ({ num := 3 * 2 ^ 24 + 5, session := 2, shadows := [(fctrOid 5 1, 9), (fctrOid 5 4, 77)] : Group }) with num := 6 * 2 ^ 24 + 5, st := .armed, shadows := [(gateObj 5 2, 1)] })
      0 (at_ fun m => ((conf m).onTi fun t => { t with count := 65536 * 9 }).onDi fun d =>
      { d with groups := [{ ({ num := 3 * 2 ^ 24 + 5, session := 2, shadows := [(fctrOid 5 1, 9), (fctrOid 5 4, 77)] : Group }) with num := 6 * 2 ^ 24 + 5, st := .armed, shadows := [(gateObj 5 2, 1)] }] })) ∧
    ((fun (p : PortIx) (s : State) => s.mod.group (6 * 2 ^ 24 + p) = none ∧ s.mod.objv (gateObj p 2) ≠ 0 ∧ (s.mod.sched p).gateRun = false ∧
      s.mod.ti.locked = true) 63 (at_ fun m => ((conf m).onTi fun t => { t with count := 65536 * 9, locked := true }).setObj (gateObj 63 2) 1)) := by
  refine ⟨?_, ?_, ?_, ?_, ?_, ?_, ?_, ?_, ?_, ?_, ?_, ?_, ?_, ?_, ?_, ?_, ?_, ?_, ?_, ?_⟩ <;> decide +kernel

theorem meets_SessionsNotificationsAndProxies :
    ((fun (id : Nat) (x : Session) (s : State) => s.mod.di.sessions.find? (fun s => s.id = id) = some x) 2 ({ id := 2, src := .mctpPcie 7 }) (at_
      ((fun m => (((conf m).openSession (.mctpPcie 7)).1).onDi fun d =>
      { d with groups := [({ num := 3 * 2 ^ 24 + 5, session := 2, shadows := [(fctrOid 5 1, 9), (fctrOid 5 4, 77)] : Group })] })))) ∧
    ((fun (id : Nat) (x : Sub) (y : Session) (it : RItem) (s : State) => s.mod.di.subs.find? (fun s => s.id = id) = some x ∧ s.mod.di.sessions.find?
      (fun s => s.id = x.session) = some y ∧ s.mod.serves y.src = true ∧ transportOf y.src ≠ 6 ∧ (s.mod.advanceTo (x.lastAt + (if x.mode = 0 then ms
      else x.mode * ms))).subItems y.src x = [it] ∧ s.mod.subItems y.src x ≠ [] ∧ it.len ≤ 1024) 0
      ({ id := 0, session := 2, oid := 0x003400, mode := 10 }) ({ id := 2, src := .mctpPcie 7 }) ({ oid := 0x003400, ty := 4, len := 4, val := 500 })
      (at_ fun m => (((conf m).openSession (.mctpPcie 7)).1).onDi fun d =>
      { d with subs := [{ id := 0, session := 2, oid := 0x003400, mode := 10 }] })) ∧
    ((fun (i : Nat) (p : Proxied) (s : State) => s.mod.di.proxied[i]? = some p ∧ p.src ≠ .firmware) 0
      ({ session := 3, seq := 4, opcode := 1, target := 7, tag := 0, deadline := 50, src := .mctpPcie 8 }) (at_ fun m => (conf m).onDi fun d =>
      { d with proxied := [{ session := 3, seq := 4, opcode := 1, target := 7, tag := 0, deadline := 50, src := .mctpPcie 8 }] })) ∧
    ((fun (i : Nat) (_priv : Fin 4) (_orig : Nat) (_stored : Bool) (b : Inbox) (s : State) => s.mod.sw.inbox[i]? = some b ∧ isProxy b.pkt = true ∧ fld
      b.pkt.body 52 2 = 2 ∧ fld b.pkt.body 54 2 = 0 ∧ ((∀ y ∈ s.mod.sw.inbox.take i, y.pkt.src = b.pkt.src → y.pkt.tc = 7 → fld y.pkt.body 52 12 ≠ fld
      b.pkt.body 52 12)) ∧ ((∀ x ∈ s.mod.di.segs, x.src = b.pkt.src → x.tag ≠ fld b.pkt.body 32 16))) 0 0 0 true
      ({ id := 1, port := none, pkt := { tc := 7, src := 9, data := [5], body := 6 * 2 ^ 56 + 2 * 2 ^ 52 + 4 * 2 ^ 32 + 1456 * 2 ^ 16 } }) (at_ fun m
      => m.onSw fun s =>
      { s with inbox := [{ id := 1, port := none, pkt := { tc := 7, src := 9, data := [5], body := 6 * 2 ^ 56 + 2 * 2 ^ 52 + 4 * 2 ^ 32 + 1456 * 2 ^ 16 } }] })) ∧
    ((fun (i : Nat) (_priv : Fin 4) (_orig : Nat) (_stored : Bool) (b : Inbox) (s : State) => s.mod.sw.inbox[i]? = some b ∧ isProxy b.pkt = true ∧ fld
      b.pkt.body 52 2 = 1 ∧ fld b.pkt.body 54 2 = 0 ∧ ((∀ y ∈ s.mod.sw.inbox.take i, y.pkt.src = b.pkt.src → y.pkt.tc = 7 → fld y.pkt.body 52 12 ≠ fld
      b.pkt.body 52 12)) ∧ ((∀ x ∈ s.mod.di.segs, x.src = b.pkt.src → x.tag ≠ fld b.pkt.body 32 16))) 0 0 0 true
      ({ id := 1, port := none, pkt := { tc := 7, src := 9, data := [5], body := 6 * 2 ^ 56 + 1 * 2 ^ 52 + 4 * 2 ^ 32 + 24 * 2 ^ 16 } }) (at_ fun m =>
      m.onSw fun s =>
      { s with inbox := [{ id := 1, port := none, pkt := { tc := 7, src := 9, data := [5], body := 6 * 2 ^ 56 + 1 * 2 ^ 52 + 4 * 2 ^ 32 + 24 * 2 ^ 16 } }] })) ∧
    ((fun (i : Nat) (b : SegBuf) (s : State) => s.mod.di.segs[i]? = some b) 0 ({ src := 3, tag := 4, total := 2, len := 5 }) (at_ fun m => m.onDi fun
      d => { d with segs := [{ src := 3, tag := 4, total := 2, len := 5 }] })) ∧
    ((fun (s : State) => s.mod.md.mode ≠ .off ∧ s.mod.di.strapped = true) (at_ fun m => (conf m).onDi fun d =>
      { d with strapped := true, slotId := 3 })) ∧
    ((fun (s : State) => s.mod.md.mode ≠ .off ∧ s.mod.di.strapped = true) (at_ fun m => ((conf m).onDi fun d =>
      { d with strapped := true, slotId := 3 }).onEv fun e => { e with lostAlert := true })) := by
  refine ⟨?_, ?_, ?_, ?_, ?_, ?_, ?_, ?_⟩ <;> decide +kernel

theorem meets_WindowsAndRegisters :
    ((fun (src : Source) (_off : Nat) (_wide : Bool) (k : Nat) (_s : State) => winKey src = some k) .mgmtPf 0 true 0 ((at_ conf))) ∧
    ((fun (src : Source) (_off : Nat) (_wide : Bool) (k : Nat) (_s : State) => winKey src = some k) .mgmtPf (0x34 * 2 ^ 11) false 0 ((at_ conf))) ∧
    ((fun (src : Source) (_off : Nat) (_wide : Bool) (k : Nat) (_s : State) => winKey src = some k) .mgmtPf 0x7800000 false 0 ((at_ conf))) ∧
    ((fun (src : Source) (_off : Nat) (_wide : Bool) (k : Nat) (_s : State) => winKey src = some k) .mgmtPf 0x7800400 true 0 ((at_ conf))) ∧
    ((fun (src : Source) (_off : Nat) (_wide : Bool) (k : Nat) (_s : State) => winKey src = some k) .mgmtPf 0x7800400 true 0 (at_ id)) ∧
    ((fun (src : Source) (_off : Nat) (_wide : Bool) (_v : Nat) (_stored : Bool) (k : Nat) (s : State) => winKey src = some k ∧ s.mod.serves src =
      true) .mgmtPf 0 true 7 true 0 ((at_ conf))) ∧
    ((fun (src : Source) (_off : Nat) (_wide : Bool) (_v : Nat) (_stored : Bool) (k : Nat) (s : State) => winKey src = some k ∧ s.mod.serves src =
      true) .mgmtPf (0x34 * 2 ^ 11) false 700 true 0 ((at_ conf))) ∧
    ((fun (src : Source) (_off : Nat) (_wide : Bool) (_v : Nat) (_stored : Bool) (k : Nat) (s : State) => winKey src = some k ∧ s.mod.serves src =
      true) .mgmtPf 0x7800000 false 0x003400 true 0 ((at_ conf))) ∧
    ((fun (src : Source) (_off : Nat) (_wide : Bool) (_v : Nat) (_stored : Bool) (k : Nat) (s : State) => winKey src = some k ∧ s.mod.serves src =
      true) .mgmtPf 0x7800400 true 99 true 0 ((at_ conf))) ∧
    ((fun (src : Source) (_shadow : Bool) (k : Nat) (w : Window) (s : State) => winKey src = some k ∧ s.mod.serves src = true ∧ s.mod.winBusy src =
      false ∧ w = s.mod.dictWindow k ∧ PlainRead w.oid) .mgmtPf false 0 ({ oid := 0x003400, errOid := 5 }) (at_ fun m => (conf m).onDictWindow 0 fun w
      => { w with oid := 0x003400, errOid := 5 })) ∧
    ((fun (src : Source) (_shadow : Bool) (k : Nat) (w : Window) (s : State) => winKey src = some k ∧ s.mod.serves src = true ∧ s.mod.winBusy src =
      false ∧ w = s.mod.dictWindow k ∧ PlainRead w.oid) .mgmtPf false 0 ({ oid := 0xFFFFFF, errOid := 5 }) (at_ fun m => (conf m).onDictWindow 0 fun w
      => { w with oid := 0xFFFFFF, errOid := 5 })) ∧
    ((fun (src : Source) (len : Fin 2048) (_stored : Bool) (k : Nat) (m1 : Mod) (w : Window) (s : State) => winKey src = some k ∧ s.mod.serves src =
      true ∧ s.mod.winBusy src = false ∧ m1 = s.mod.onDictWindow k (fun w => { w with op := 1, shadow := false, length := len }) ∧ w = m1.dictWindow
      k) .mgmtPf 4 true 0 ((conf State.reset.mod).onDictWindow 0 fun w => { w with oid := 0x003400, data := 700 * 256 ^ 1020, op := 1, length := 4 })
      ({ oid := 0x003400, data := 700 * 256 ^ 1020, op := 1, length := 4 }) (at_ fun m => (conf m).onDictWindow 0 fun w =>
      { w with oid := 0x003400, data := 700 * 256 ^ 1020 })) ∧
    ((fun (src : Source) (len : Fin 2048) (_stored : Bool) (k : Nat) (m1 : Mod) (w : Window) (s : State) => winKey src = some k ∧ s.mod.serves src =
      true ∧ s.mod.winBusy src = false ∧ m1 = s.mod.onDictWindow k (fun w => { w with op := 1, shadow := false, length := len }) ∧ w = m1.dictWindow
      k) .mgmtPf 3 true 0 ((conf State.reset.mod).onDictWindow 0 fun w => { w with oid := 0x003400, data := 700 * 256 ^ 1020, op := 1, length := 3 })
      ({ oid := 0x003400, data := 700 * 256 ^ 1020, op := 1, length := 3 }) (at_ fun m => (conf m).onDictWindow 0 fun w =>
      { w with oid := 0x003400, data := 700 * 256 ^ 1020 })) ∧
    ((fun (src : Source) (len : Fin 2048) (_stored : Bool) (k : Nat) (m1 : Mod) (w : Window) (s : State) => winKey src = some k ∧ s.mod.serves src =
      true ∧ s.mod.winBusy src = false ∧ m1 = s.mod.onDictWindow k (fun w => { w with op := 1, shadow := false, length := len }) ∧ w = m1.dictWindow
      k) .mgmtPf 1025 true 0 ((conf State.reset.mod).onDictWindow 0 fun w =>
      { w with oid := 0x003400, data := 700 * 256 ^ 1020, op := 1, length := 1025 })
      ({ oid := 0x003400, data := 700 * 256 ^ 1020, op := 1, length := 1025 }) (at_ fun m => (conf m).onDictWindow 0 fun w =>
      { w with oid := 0x003400, data := 700 * 256 ^ 1020 })) ∧
    ((fun (src : Source) (k : Nat) (w : Window) (s : State) => winKey src = some k ∧ s.mod.serves src = true ∧ w = s.mod.dictWindow k) .mgmtPf 0
      ({ errStatus := 2, errOid := 7 }) (at_ fun m => (conf m).onDictWindow 0 fun w => { w with errStatus := 2, errOid := 7 })) ∧
    ((fun (src : Source) (oid v : Nat) (stored : Bool) (r : ObjRow) (s : State) => objFind oid = some r ∧ plainIndex (oid / 256) = true ∧ r.grp = 0 ∧
      (stored = true ∨ r.pers = false) ∧ Accepted s.mod src oid v) (.mctpPcie 3) 0x003400 700 true ((objFind 0x003400).get (by decide)) ((at_ conf))) ∧
    ((fun (src : Source) (oid v : Nat) (stored : Bool) (r : ObjRow) (s : State) => objFind oid = some r ∧ plainIndex (oid / 256) = true ∧ r.grp = 0 ∧
      (stored = true ∨ r.pers = false) ∧ Accepted s.mod src oid v) .mgmtPf 0x003400 700 true ((objFind 0x003400).get (by decide)) ((at_ conf))) ∧
    ((fun (src : Source) (oid v : Nat) (stored : Bool) (r : ObjRow) (s : State) => objFind oid = some r ∧ plainIndex (oid / 256) = true ∧ r.grp = 0 ∧
      (stored = true ∨ r.pers = false) ∧ Accepted s.mod src oid v) .firmware (0x603100 + 0x1100) 700 true ((objFind 0x604200).get (by decide)) ((at_
      conf))) ∧
    ((fun (n : VfSlot) (j : Fin 64) (_v q : Nat) (s : State) => s.mod.localQp n j = some q ∧ (s.mod.qp q).enable = false) 0 0 7 0 (at_ fun m =>
      (((((m.onMd fun b => { b with mode := .operate }).setObj (qpOwnerOid 0) (2 ^ 15)).setObj (vfOid 0 1) (2 ^ 31 + 5)).setObj (mkOid 4 0x100 1)
      0).setObj (vfOid 0 5) 1).onFn_ (hostFn 0) fun x => { x with vfEnable := true })) ∧
    ((fun (n : VfSlot) (j : Fin 64) (_v q : Nat) (s : State) => s.mod.localQp n j = some q ∧ (s.mod.qp q).enable = false) 0 0 7 0 (at_ fun m =>
      (((((m.onMd fun b => { b with mode := .operate }).setObj (qpOwnerOid 0) (2 ^ 15)).setObj (vfOid 0 1) (2 ^ 31 + 5)).setObj (mkOid 4 0x100 1)
      0).setObj (vfOid 0 5) 1).onFn_ (hostFn 0) fun x => { x with vfEnable := true })) ∧
    ((fun (r : Reg) (n : VfSlot) (j : Fin 64) (v q : Nat) (s : State) => r ∈ [.sqBase n j v, .cqBase n j v] ∧ s.mod.localQp n j = some q ∧ (s.mod.qp
      q).enable = true) (.cqBase 0 0 7) 0 0 7 0 (at_ fun m => ((((((m.onMd fun b => { b with mode := .operate }).setObj (qpOwnerOid 0) (2 ^
      15)).setObj (vfOid 0 1) (2 ^ 31 + 5)).setObj (mkOid 4 0x100 1) 0).setObj (vfOid 0 5) 1).onFn_ (hostFn 0) fun x =>
      { x with vfEnable := true }).onQp 0 fun x => { x with enable := true })) ∧
    ((fun (n : VfSlot) (_v : Nat) (s : State) => s.mod.vfShown n = true) 0 300 (at_ fun m => (((((m.onMd fun b => { b with mode := .operate }).setObj
      (qpOwnerOid 0) (2 ^ 15)).setObj (vfOid 0 1) (2 ^ 31 + 5)).setObj (mkOid 4 0x100 1) 0).setObj (vfOid 0 5) 1).onFn_ (hostFn 0) fun x =>
      { x with vfEnable := true })) ∧
    ((fun (a : Fin 258) (_v : Nat) (s : State) => s.mod.agent a = true) 256 600 (at_ fun m => m.onMd fun b => { b with mrdy := true })) ∧
    ((fun (f e _addr _data : Nat) (_masked : Bool) (s : State) => f < 560 ∧ e < s.mod.msixSize f) 559 3 4 5 true (at_ fun m => m.onFn_ 559 fun x =>
      { x with msixOn := true, pending := [3] })) ∧
    ((fun (f e _addr _data : Nat) (_masked : Bool) (s : State) => f < 560 ∧ e < s.mod.msixSize f) 559 3 4 5 false (at_ fun m => m.onFn_ 559 fun x =>
      { x with msixOn := true, pending := [3] })) ∧
    ((fun (a : Fin 257) (off size _tag : Nat) (s : State) => s.mod.agent a = true ∧ s.mod.fastOk a off size false = true) 0 0x800 4 9 (at_ fun m =>
      (((((m.onMd fun b => { b with mode := .operate, serving := true }).setObj (qpOwnerOid 0) (2 ^ 15)).setObj (vfOid 0 1) (2 ^ 31 + 5)).setObj
      (mkOid 4 0x100 1) 0).setObj (vfOid 0 5) 1).onFn_ (hostFn 0) fun x => { x with vfEnable := true })) ∧
    ((fun (a : Fin 257) (off size _tag : Nat) (s : State) => s.mod.agent a = true ∧ s.mod.fastOk a off size false = true) 256 0x1000 4 9 (at_ fun m =>
      m.onMd fun b => { b with mrdy := true })) ∧
    ((fun (n : VfSlot) (a : Fin 257) (_v : Nat) (s : State) => a.val = n.val ∧ s.mod.agent a = true) 0 0 300 (at_ fun m => (((((m.onMd fun b =>
      { b with mode := .operate, serving := true }).setObj (qpOwnerOid 0) (2 ^ 15)).setObj (vfOid 0 1) (2 ^ 31 + 5)).setObj (mkOid 4 0x100 1)
      0).setObj (vfOid 0 5) 1).onFn_ (hostFn 0) fun x => { x with vfEnable := true })) ∧
    ((fun (a : Fin 257) (off size _v : Nat) (s : State) => s.mod.agent a = true ∧ s.mod.fastOk a off size true = false ∧ a.val < 256) 0 0x800 4 9 (at_
      fun m => (((((m.onMd fun b => { b with mode := .operate, serving := true }).setObj (qpOwnerOid 0) (2 ^ 15)).setObj (vfOid 0 1) (2 ^ 31 +
      5)).setObj (mkOid 4 0x100 1) 0).setObj (vfOid 0 5) 1).onFn_ (hostFn 0) fun x => { x with vfEnable := true })) ∧
    ((fun (_off _size : Nat) (s : State) => s.mod.md.mode.pastBootMode = true) 64 8 (at_ conf)) ∧
    ((fun (_off _size : Nat) (s : State) => s.mod.md.mode.pastBootMode = true) 64 2 (at_ conf)) ∧
    ((fun (f : Nat) (_on : Bool) (_s : State) => f < 560) 559 false (at_ fun m => m.onFn_ 559 fun x => { x with msixOn := true, pending := [255] })) ∧
    ((fun (f : Nat) (_on : Bool) (_s : State) => f < 560) 559 true (at_ fun m => m.onFn_ 559 fun x => { x with msixOn := true, pending := [255] })) ∧
    ((fun (v : Vcs) (_on : Bool) (s : State) => (s.mod.edge (s.mod.objv (mkOid 4 (0x100 + v) 1))).dllUp = true) 3 true (at_ fun m => (m.setObj (mkOid
      4 0x103 1) 5).onEdge 5 fun e => { e with dllUp := true })) ∧
    ((fun (v : Vcs) (_n : Vppb) (_ur : Bool) (s : State) => (s.mod.edge (s.mod.objv (mkOid 4 (0x100 + v) 1))).dllUp = true) 3 2 true (at_ fun m =>
      (m.setObj (mkOid 4 0x103 1) 5).onEdge 5 fun e => { e with dllUp := true })) := by
  refine ⟨?_, ?_, ?_, ?_, ?_, ?_, ?_, ?_, ?_, ?_, ?_, ?_, ?_, ?_, ?_, ?_, ?_, ?_, ?_, ?_, ?_, ?_, ?_, ?_, ?_, ?_, ?_, ?_, ?_, ?_, ?_, ?_, ?_, ?_, ?_⟩ <;> decide +kernel

theorem meets_WritesOfModesFencesAndFeeds :
    ((fun (c : Instr) (src : Source) (v : Nat) (e : Mode) (s : State) => (c, v, e) ∈ [(Instr.modeRequestOff src, 0, Mode.off), (.modeRequestStandby src, 1,
      .standby)] ∧ Accepted s.mod src 0x200100 v ∧ s.mod.md.mode ∈ [.configure, .operate, .capped, .drain]) (.modeRequestOff .mgmtPf) .mgmtPf 0 .off ((at_
      conf))) ∧
    ((fun (c : Instr) (src : Source) (v : Nat) (e : Mode) (s : State) => (c, v, e) ∈ [(Instr.modeRequestOff src, 0, Mode.off), (.modeRequestStandby src, 1,
      .standby)] ∧ Accepted s.mod src 0x200100 v ∧ s.mod.md.mode ∈ [.configure, .operate, .capped, .drain]) (.modeRequestStandby .mgmtPf) .mgmtPf 1 .standby
      ((at_ conf))) ∧
    ((fun (c : Instr) (src : Source) (v : Nat) (e : Mode) (s : State) => (c, v, e) ∈ [(Instr.modeRequestOff src, 0, Mode.off), (.modeRequestStandby src, 1,
      .standby)] ∧ Accepted s.mod src 0x200100 v ∧ s.mod.md.mode ∈ [.configure, .operate, .capped, .drain]) (.modeRequestStandby (.mctpPcie 7)) (.mctpPcie
      7) 1 .standby ((at_ fun m => (conf m).onMd fun b => { b with mode := .drain, drain := { step := 3, bound := 5 * 10 ^ 9 } }))) ∧
    ((fun (src : Source) (s : State) => Accepted s.mod src 0x200100 1 ∧ s.mod.md.mode ∈ [.standby, .fault]) .firmware ((at_ fun m => (conf m).onMd fun b =>
      { b with mode := .standby }))) ∧
    ((fun (src : Source) (s : State) => Accepted s.mod src 0x200100 1 ∧ s.mod.md.mode ∈ [.standby, .fault]) .firmware ((at_ fun m => (conf m).onMd fun b =>
      { b with mode := .fault, temps := [25000] }))) ∧
    ((fun (src : Source) (s : State) => Accepted s.mod src 0x200100 2) .mgmtPf ((at_ conf))) ∧
    ((fun (src : Source) (s : State) => Accepted s.mod src 0x200100 2) (.mctpPcie 7) ((at_ fun m => (conf m).onMd fun b =>
      { b with mode := .drain, drain := { step := 3, bound := 5 * 10 ^ 9 } }))) ∧
    ((fun (src : Source) (s : State) => Accepted s.mod src 0x200100 2) .firmware ((at_ fun m => (conf m).onMd fun b => { b with mode := .standby }))) ∧
    ((fun (src : Source) (s : State) => Accepted s.mod src 0x200100 2) .firmware ((at_ fun m => (conf m).onMd fun b =>
      { b with mode := .fault, temps := [25000] }))) ∧
    ((fun (src : Source) (s : State) => Accepted s.mod src 0x200100 3) .mgmtPf ((at_ conf))) ∧
    ((fun (src : Source) (s : State) => Accepted s.mod src 0x200100 4) (.mctpPcie 9) ((at_ conf))) ∧
    ((fun (src : Source) (s : State) => Accepted s.mod src 0x200100 4) .mgmtPf (at_ ready)) ∧
    ((fun (_src : Source) (s : State) => s.mod.di.lockedOut = []) .mgmtPf ((at_ conf))) ∧
    ((fun (_src : Source) (s : State) => s.mod.di.lockedOut = []) .firmware ((at_ conf))) ∧
    ((fun (src : Source) (s : State) => s.mod.di.lockedOut = [] ∧ winKey src = none ∧ s.mod.modeServes src 0x200100 true false = true ∧ privOf src ≠
      .tenant ∧ LetIn s.mod (s.mod.rowHdr src (itemLen (itemOf 0x200100 5))) (.write (itemOf 0x200100 5))) (.mctpPcie 7) ((at_ conf))) ∧
    ((fun (src : Source) (e : Fin 64) (u : UnitId) (s : State) => Accepted s.mod src (fenceOid (e + 1)) (unitFields u)) .mgmtPf 63 (.edge 3) ((at_ conf))) ∧
    ((fun (src : Source) (e : Fin 64) (u : UnitId) (s : State) => Accepted s.mod src (fenceOid (e + 1)) (unitFields u)) (.mctpPcie 7) 0 (.slice 1 16) ((at_
      conf))) ∧
    ((fun (src : Source) (e : Fin 64) (u : UnitId) (s : State) => Accepted s.mod src (fenceOid (e + 1)) (unitFields u)) .mgmtPf 0 (.fabric 15) ((at_ conf))) ∧
    ((fun (src : Source) (e : Fin 64) (u : UnitId) (s : State) => Accepted s.mod src (fenceOid (e + 1)) (unitFields u)) .mgmtPf 0 (.tracker 1 3) ((at_
      conf))) ∧
    ((fun (src : Source) (e : Fin 64) (u : UnitId) (s : State) => Accepted s.mod src (fenceOid (e + 1)) (unitFields u)) .mgmtPf 0 (.bank 1 31) ((at_ conf))) ∧
    ((fun (src : Source) (e : Fin 64) (s : State) => Accepted s.mod src (fenceOid (e + 1)) 0) .mgmtPf 63 (at_ fun m => ((conf m).setObj (fenceOid 64)
      (unitFields (.edge 3))).onFn fun b => { b with fenced := [.edge 3] })) ∧
    ((fun (src : Source) (v : Fin 256) (s : State) => Accepted s.mod src 0x102100 v) .mgmtPf 3 (at_ fun m => ((conf m).onFeed 0 fun s =>
      { s with latched := true, count := 3, held := true, coolEnd := some 5 }).onFeed 1 fun s => { s with latched := true, count := 2 })) ∧
    ((fun (src : Source) (v : Fin 256) (s : State) => Accepted s.mod src 0x102100 v) (.mctpPcie 7) 1 (at_ fun m => ((conf m).onFeed 0 fun s =>
      { s with latched := true, count := 3, present := true, held := true, voltage := 48 }).onFeed 1 fun s => { s with latched := true, count := 2 })) ∧
    ((fun (src : Source) (v : Fin 256) (s : State) => Accepted s.mod src 0x102300 v) .mgmtPf 13 (at_ fun m => (conf m).onFeed 0 fun s =>
      { s with energy := 3, peak := 4 })) := by
  refine ⟨?_, ?_, ?_, ?_, ?_, ?_, ?_, ?_, ?_, ?_, ?_, ?_, ?_, ?_, ?_, ?_, ?_, ?_, ?_, ?_, ?_, ?_, ?_, ?_⟩ <;> decide +kernel

theorem meets_WritesOfTestsPortsAndTime :
    ((fun (c : Instr) (src : Source) (l : Lane) (mode v w : Nat) (s : State) => (c, mode) ∈ [(Instr.testOff src l v, 0), (.testGenerate src l v, 1),
      (.testCheck src l v, 2), (.testGenerateCheck src l v, 3), (.testCompliance src l v, 4), (.timingMargin src l v, 5), (.voltageMargin src l v, 6)] ∧ w =
      mode * 2 ^ 29 + v % 2 ^ 29 ∧ Accepted s.mod src (mkOid 3 l 4) w) (.testOff .mgmtPf 255 7) .mgmtPf 255 0 7 7 ((at_ conf))) ∧
    ((fun (c : Instr) (src : Source) (l : Lane) (mode v w : Nat) (s : State) => (c, mode) ∈ [(Instr.testOff src l v, 0), (.testGenerate src l v, 1),
      (.testCheck src l v, 2), (.testGenerateCheck src l v, 3), (.testCompliance src l v, 4), (.timingMargin src l v, 5), (.voltageMargin src l v, 6)] ∧ w =
      mode * 2 ^ 29 + v % 2 ^ 29 ∧ Accepted s.mod src (mkOid 3 l 4) w) (.testGenerateCheck .mgmtPf 0 (2 ^ 24)) .mgmtPf 0 3 (2 ^ 24) (3 * 2 ^ 29 + 2 ^ 24)
      ((at_ conf))) ∧
    ((fun (c : Instr) (src : Source) (l : Lane) (mode v w : Nat) (s : State) => (c, mode) ∈ [(Instr.testOff src l v, 0), (.testGenerate src l v, 1),
      (.testCheck src l v, 2), (.testGenerateCheck src l v, 3), (.testCompliance src l v, 4), (.timingMargin src l v, 5), (.voltageMargin src l v, 6)] ∧ w =
      mode * 2 ^ 29 + v % 2 ^ 29 ∧ Accepted s.mod src (mkOid 3 l 4) w) (.testCompliance .mgmtPf 0 0) .mgmtPf 0 4 0 (4 * 2 ^ 29) ((at_ conf))) ∧
    ((fun (c : Instr) (src : Source) (l : Lane) (mode v w : Nat) (s : State) => (c, mode) ∈ [(Instr.testOff src l v, 0), (.testGenerate src l v, 1),
      (.testCheck src l v, 2), (.testGenerateCheck src l v, 3), (.testCompliance src l v, 4), (.timingMargin src l v, 5), (.voltageMargin src l v, 6)] ∧ w =
      mode * 2 ^ 29 + v % 2 ^ 29 ∧ Accepted s.mod src (mkOid 3 l 4) w) (.voltageMargin .mgmtPf 0 0) .mgmtPf 0 6 0 (6 * 2 ^ 29) ((at_ conf))) ∧
    ((fun (src : Source) (l : Lane) (s : State) => Accepted s.mod src (mkOid 3 l 4) (setFld ((s.mod.lane l).test / 2 ^ 16 * 2 ^ 16 % 2 ^ 32) 24 1 1))
      .mgmtPf 5 (at_ fun m => (conf m).onLane 5 fun s => { s with errors := 5, symbols := 6, lock := true, test := 2 ^ 29 })) ∧
    ((fun (src : Source) (p : EdgePort) (v : Fin 256) (s : State) => Accepted s.mod src (mkOid 4 p 2) v) .mgmtPf 47 2 ((at_ conf))) ∧
    ((fun (src : Source) (p : EdgePort) (s : State) => Accepted s.mod src (mkOid 4 p 1) 1) .mgmtPf 3 (at_ fun m => (conf m).setObj (mkOid 4 3 2) 2)) ∧
    ((fun (src : Source) (p : EdgePort) (s : State) => Accepted s.mod src (mkOid 4 p 1) 1) .mgmtPf 3 (at_ fun m => ((conf m).setObj (mkOid 4 3 2) 1).setObj
      (mkOid 4 3 1) 1)) ∧
    ((fun (src : Source) (p : EdgePort) (s : State) => Accepted s.mod src (mkOid 4 p 1) 0) .mgmtPf 3 (at_ fun m => ((conf m).setObj (mkOid 4 3 2) 2).setObj
      (mkOid 4 3 1) 1)) ∧
    ((fun (src : Source) (p : EdgePort) (s : State) => Accepted s.mod src (mkOid 4 p 1) 0) .mgmtPf 3 (at_ fun m => (((conf m).setObj (mkOid 4 3 2)
      2).setObj (mkOid 4 3 1) 1).onEdge 3 fun s => { s with dllUp := true, link := .l0 })) ∧
    ((fun (src : Source) (p : EdgePort) (v : Fin 65536) (s : State) => Accepted s.mod src (mkOid 4 p 3) v ∧ v.val ≠ 0xFFFF) .mgmtPf 3 0x0102 (at_ fun m =>
      (((conf m).setObj (mkOid 4 3 2) 2).setObj (mkOid 4 3 1) 1).onEdge 3 fun s => { s with prsnt := true })) ∧
    ((fun (src : Source) (p : EdgePort) (v : Fin 65536) (s : State) => Accepted s.mod src (mkOid 4 p 3) v ∧ v.val ≠ 0xFFFF) .mgmtPf 3 0x01FF (at_ fun m =>
      ((conf m).setObj (mkOid 4 3 2) 1).setObj (mkOid 4 3 1) 1)) ∧
    ((fun (src : Source) (p : EdgePort) (v : Fin 65536) (sw up : Nat) (s : State) => Accepted (s.mod.onEdge p fun x =>
      { x with farVcs := some (sw, v / 256, v % 256, up) }) src (mkOid 4 p 3) v ∧ v.val % 256 ≠ 0xFF ∧ (s.mod.edge p).hotAdd ≠ .up) .mgmtPf 3 0x0102 9 4
      (at_ fun m => ((conf m).setObj (mkOid 4 3 2) 2).setObj (mkOid 4 3 1) 1)) ∧
    ((fun (_src : Source) (_p : EdgePort) (v : Fin 65536) (_sw _q _flit : Nat) (_stored : Bool) (s : State) => 1 ≤ v.val % 256 ∧ v.val % 256 < 32 ∧ v.val /
      256 < 48 ∧ s.mod.boundPort (v.val / 256) (v.val % 256) = none) .mgmtPf 3 0x0102 9 4 2 true ((at_ conf))) ∧
    ((fun (src : Source) (p : EdgePort) (far : Far) (sw up : Nat) (s : State) => far ∈ [.here, .vcs sw up] ∧ Accepted s.mod src (mkOid 4 p 3) 0xFFFF)
      .mgmtPf 3 .here 0 0 (at_ fun m => (((conf m).setObj (mkOid 4 3 2) 2).setObj (mkOid 4 3 1) 1).setObj (mkOid 4 3 3) 0x0102)) ∧
    ((fun (src : Source) (p : EdgePort) (far : Far) (sw up : Nat) (s : State) => far ∈ [.here, .vcs sw up] ∧ Accepted s.mod src (mkOid 4 p 3) 0xFFFF)
      .mgmtPf 3 .here 0 0 (at_ fun m => ((((conf m).setObj (mkOid 4 3 2) 1).setObj (mkOid 4 3 1) 1).setObj (mkOid 4 3 3) 0x01FF).setObj (mkOid 4 0x101 1) 3)) ∧
    ((fun (src : Source) (p : EdgePort) (far : Far) (sw up : Nat) (s : State) => far ∈ [.here, .vcs sw up] ∧ Accepted s.mod src (mkOid 4 p 3) 0xFFFF)
      .mgmtPf 3 .here 0 0 (at_ fun m => ((((((conf m).setObj (mkOid 4 3 2) 2).setObj (mkOid 4 3 1) 1).setObj (mkOid 4 3 3) 0x0102).setObj (mkOid 4 0x101 1)
      5).onEdge 5 fun s => { s with dllUp := true }).onEdge 3 fun s => { s with hotAdd := .up })) ∧
    ((fun (src : Source) (n : FabPort) (s : State) => Accepted s.mod src (mkOid 5 n 2) 1 ∧ (s.mod.link n).st ≠ .retired) .mgmtPf 3 ((at_ conf))) ∧
    ((fun (src : Source) (n : FabPort) (s : State) => Accepted s.mod src (mkOid 5 n 2) 0 ∧ (s.mod.link n).st = .retired) .mgmtPf 3 (at_ fun m => ((conf
      m).setObj (mkOid 5 3 2) 1).onLink 3 fun s => { s with st := .retired })) ∧
    ((fun (src : Source) (n : FabPort) (s : State) => Accepted s.mod src (mkOid 5 n 8) 1) .mgmtPf 3 (at_ fun m => (conf m).onLink 3 fun s =>
      { s with st := .active })) ∧
    ((fun (src : Source) (v : Nat) (s : State) => Accepted s.mod src 0x603200 (v % 2 ^ 64)) .mgmtPf 77 (at_ fun m => (conf m).onTi fun t =>
      { t with st := .grandmaster })) := by
  refine ⟨?_, ?_, ?_, ?_, ?_, ?_, ?_, ?_, ?_, ?_, ?_, ?_, ?_, ?_, ?_, ?_, ?_, ?_, ?_, ?_, ?_⟩ <;> decide +kernel

theorem meets_WritesOfExtentsAndParcels :
    ((fun (src : Source) (e : Fin 4096) (v w : Nat) (s : State) => w = setFld (v % 2 ^ 64) 61 3 1 ∧ Accepted s.mod src (extOid e) w ∧ privOf src ≠ .root)
      .mgmtPf 5 0 (2 ^ 61) (at_ conf)) ∧
    ((fun (src : Source) (e : Fin 4096) (v w : Nat) (s : State) => w = setFld (v % 2 ^ 64) 61 3 1 ∧ Accepted s.mod src (extOid e) w ∧ privOf src ≠ .root)
      .mgmtPf 5 (9 * 2 ^ 43) (2 ^ 61 + 9 * 2 ^ 43) (at_ fun m => ((conf m).setObj (mkOid 4 0x100 1) 4).onEd fun b =>
      { b with vcs := tmod {} 0 (fun s => { s with biEnabled := true }) b.vcs })) ∧
    ((fun (src : Source) (e : Fin 4096) (v w : Nat) (s : State) => w = setFld (v % 2 ^ 64) 61 3 1 ∧ Accepted s.mod src (extOid e) w ∧ privOf src ≠ .root)
      .mgmtPf 5 0 (2 ^ 61) (at_ fun m => ((conf m).setObj (mkOid 4 0x100 1) 4).onEd fun b =>
      { b with vcs := tmod {} 0 (fun s => { s with biEnabled := true }) b.vcs })) ∧
    ((fun (src : Source) (e : Fin 4096) (v w : Nat) (s : State) => w = setFld (v % 2 ^ 64) 61 3 1 ∧ Accepted s.mod src (extOid e) w ∧ privOf src ≠ .root)
      .mgmtPf 5 (9 * 2 ^ 24 + 5 * 2 ^ 40) (2 ^ 61 + 9 * 2 ^ 24 + 5 * 2 ^ 40) (at_ fun m => (((((conf m).setObj (descOid 0 9) (2 ^ 61)).setObj (setOid 0)
      5).onRt fun b => { b with id := 5 }).setObj (mkOid 4 0x100 1) 4).onEd fun b =>
      { b with vcs := tmod {} 0 (fun s => { s with biEnabled := true }) b.vcs })) ∧
    ((fun (c : Instr) (src : Source) (e : Fin 4096) (v oid w : Nat) (i dest : Fin 65536) (evac : Bool) (s : State) => (c, oid, w) ∈
      [(Instr.extentAddRequest src e v true, extOid e, setFld (v % 2 ^ 64) 61 3 1), (.extentReleaseRequest src e true, extOid e, setFld (s.mod.objv (extOid
      e)) 61 3 4), (.extentForce src e true, extOid e, setFld (s.mod.objv (extOid e)) 61 3 6), (.extentClear src e true, extOid e, setFld (s.mod.objv
      (extOid e)) 61 3 0), (.migrationRequest src i dest evac true, descOid 6 i, pack [(1, 61, 3), (dest, 45, 16), (b2n evac, 44, 1)])] ∧ Accepted s.mod src
      oid w ∧ privOf src = .root) (.extentForce .firmware 5 true) .firmware 5 0 (extOid 5) (6 * 2 ^ 61) 0 0 true (at_ fun m => (conf m).setObj (extOid 5) (3
      * 2 ^ 61))) ∧
    ((fun (src : Source) (e : Fin 4096) (s : State) => Accepted s.mod src (extOid e) (setFld (s.mod.objv (extOid e)) 61 3 4) ∧ privOf src ≠ .root ∧
      s.mod.objv (extOid e) < 2 ^ 64 ∧ extState (s.mod.objv (extOid e)) ≠ 0) .mgmtPf 5 (at_ fun m => (conf m).setObj (extOid 5) (3 * 2 ^ 61))) ∧
    ((fun (src : Source) (e : Fin 4096) (s : State) => Accepted s.mod src (extOid e) (setFld (s.mod.objv (extOid e)) 61 3 6) ∧ privOf src ≠ .root ∧
      s.mod.objv (extOid e) < 2 ^ 64 ∧ extState (s.mod.objv (extOid e)) ≠ 0) .mgmtPf 5 (at_ fun m => (conf m).setObj (extOid 5) (4 * 2 ^ 61))) ∧
    ((fun (src : Source) (e : Fin 4096) (s : State) => Accepted s.mod src (extOid e) (setFld (s.mod.objv (extOid e)) 61 3 6) ∧ privOf src ≠ .root ∧
      s.mod.objv (extOid e) < 2 ^ 64 ∧ extState (s.mod.objv (extOid e)) ≠ 0) .mgmtPf 5 (at_ fun m => ((conf m).setObj (extOid 5) (5 * 2 ^ 61)).onExt 5 fun x
      => { x with flushing := true, askedAt := some 3 })) ∧
    ((fun (src : Source) (e : Fin 4096) (s : State) => Accepted s.mod src (extOid e) (setFld (s.mod.objv (extOid e)) 61 3 0) ∧ privOf src ≠ .root ∧
      s.mod.objv (extOid e) < 2 ^ 64 ∧ extState (s.mod.objv (extOid e)) = 7) .mgmtPf 5 (at_ fun m => (conf m).setObj (extOid 5) (7 * 2 ^ 61 + 3))) ∧
    ((fun (src : Source) (sw : Fin 4096) (desc : Fin 65536) (t : Tenant) (s : State) => Accepted s.mod src 0x901000 (pack [(1, 62, 2), (sw, 50, 12), (desc,
      34, 16), (t, 26, 8)])) .firmware 9 5 3 (at_ fun m => (conf m).setObj (descOid 0 5) (2 ^ 61))) ∧
    ((fun (src : Source) (sw : Fin 4096) (desc : Fin 65536) (t : Tenant) (s : State) => Accepted s.mod src 0x901000 (pack [(1, 62, 2), (sw, 50, 12), (desc,
      34, 16), (t, 26, 8)])) (.proxy 9 4 0) 9 5 3 (at_ fun m => (conf m).setObj (descOid 0 5) (2 ^ 61))) ∧
    ((fun (src : Source) (sw : Fin 4096) (desc : Fin 65536) (t : Tenant) (s : State) => Accepted s.mod src 0x901000 (pack [(1, 62, 2), (sw, 50, 12), (desc,
      34, 16), (t, 26, 8)])) .firmware 9 5 0 (at_ fun m => ((conf m).setObj (descOid 0 5) (2 ^ 61)).setObj (setOid 0) 9)) ∧
    ((fun (src : Source) (sw : Fin 4096) (desc : Fin 65536) (t : Tenant) (s : State) => Accepted s.mod src 0x901000 (pack [(2, 62, 2), (sw, 50, 12), (desc,
      34, 16), (t, 26, 8)])) .firmware 9 5 3 (at_ fun m => (conf m).setObj (descOid 0 5) (2 * 2 ^ 61 + 1))) ∧
    ((fun (src : Source) (sw : Fin 4096) (desc : Fin 65536) (t : Tenant) (s : State) => Accepted s.mod src 0x901000 (pack [(2, 62, 2), (sw, 50, 12), (desc,
      34, 16), (t, 26, 8)])) .firmware 9 5 3 (at_ fun m => (conf m).setObj (descOid 0 5) (2 * 2 ^ 61))) ∧
    ((fun (src : Source) (lost : Fin 65536) (i : Nat) (s : State) => Accepted s.mod src 0x901100 lost ∧ s.mod.descs.filter (fun i => decide (s.mod.dState i
      = 6) && decide (s.mod.dPartner i = lost.val)) = [i] ∧ i < 65536) .mgmtPf 9 5 (at_ fun m => (conf m).setObj (descOid 0 5) (6 * 2 ^ 61 + 9 * 2 ^ 21))) ∧
    ((fun (src : Source) (lost : Fin 65536) (i : Nat) (s : State) => Accepted s.mod src 0x901100 lost ∧ s.mod.descs.filter (fun i => decide (s.mod.dState i
      = 6) && decide (s.mod.dPartner i = lost.val)) = [i] ∧ i < 65536) .mgmtPf 9 5 (at_ fun m => (conf m).setObj (descOid 0 5) (6 * 2 ^ 61 + 9 * 2 ^ 21 + 2
      ^ 52))) ∧
    ((fun (src : Source) (lost : Fin 65536) (s : State) => Accepted s.mod src 0x901100 lost ∧ s.mod.descs.filter (fun i => decide (s.mod.dState i = 6) &&
      decide (s.mod.dPartner i = lost.val)) = []) .mgmtPf 9 ((at_ conf))) ∧
    ((fun (src : Source) (i : Fin 65536) (s : State) => Accepted s.mod src 0x901300 i) .mgmtPf 5 (at_ fun m => ((conf m).setObj (descOid 0 5) (7 * 2 ^
      61)).onPo fun b => { b with await := [5] })) ∧
    ((fun (src : Source) (i dest : Fin 65536) (evac : Bool) (s : State) => Accepted s.mod src (descOid 6 i) (pack [(1, 61, 3), (dest, 45, 16), (b2n evac,
      44, 1)]) ∧ privOf src ≠ .root) .mgmtPf 5 6 true (at_ fun m => ((conf m).setObj (descOid 0 5) (2 ^ 61)).setObj (descOid 0 6) (2 ^ 61))) ∧
    ((fun (src : Source) (i : Fin 65536) (s : State) => Accepted s.mod src 0x901200 i) .mgmtPf 5 (at_ fun m => ((conf m).setObj (descOid 0 5) (5 * 2 ^
      61)).onPo fun b => { b with zeroing := [5] })) ∧
    ((fun (src : Source) (i : Fin 65536) (s : State) => Accepted s.mod src 0x901200 (2 ^ 30 + i)) .mgmtPf 5 (at_ fun m => (conf m).setObj (descOid 0 5) (5
      * 2 ^ 61))) ∧
    ((fun (src : Source) (desc : Fin 65536) (discard : Bool) (home : Fin 4096) (s : State) => Accepted s.mod src 0xA06200 (flushWord desc home discard))
      .firmware 65535 true 9 ((at_ conf))) ∧
    ((fun (src : Source) (id : Fin 4096) (s : State) => Accepted s.mod src 0xA06100 id) .mgmtPf 9 (at_ fun m => (conf m).onHo fun b =>
      { b with flushes := [{ desc := 5, due := [9, 8] }] })) ∧
    ((fun (src : Source) (v : Nat) (s : State) => Accepted s.mod src 0xA06300 (v % 2 ^ 128)) .firmware (2 ^ 120 + 7) ((at_ conf))) := by
  refine ⟨?_, ?_, ?_, ?_, ?_, ?_, ?_, ?_, ?_, ?_, ?_, ?_, ?_, ?_, ?_, ?_, ?_, ?_, ?_, ?_, ?_, ?_, ?_, ?_⟩ <;> decide +kernel

theorem meets_WritesOfServiceCountersAndLog :
    ((fun (src : Source) (host : Bool) (n : VfSlot) (v : Fin 65536) (oid : Nat) (s : State) => oid = (if host then mkOid 0xB (0x100 + n.val % 48) 2 else
      vfOid n 3) ∧ Accepted s.mod src oid v) .mgmtPf true 50 3 (mkOid 0xB 0x102 2) ((at_ conf))) ∧
    ((fun (src : Source) (host : Bool) (n : VfSlot) (v : Fin 65536) (oid : Nat) (s : State) => oid = (if host then mkOid 0xB (0x100 + n.val % 48) 2 else
      vfOid n 3) ∧ Accepted s.mod src oid v) .mgmtPf false 50 3 (vfOid 50 3) (at_ fun m => (conf m).setObj (vfOid 50 4) 8)) ∧
    ((fun (src : Source) (q : Qp) (v : Fin 65536) (s : State) => Accepted s.mod src (qpOwnerOid q) v) .mgmtPf 5 (2 ^ 15 + 3) ((at_ conf))) ∧
    ((fun (src : Source) (q : Qp) (s : State) => Accepted s.mod src (qpQuiesceOid q) 1) .mgmtPf 5 (at_ fun m => (conf m).onQp 5 fun x =>
      { x with st := .running, started := [{ num := 3, words := [], migrate := some 3 }] })) ∧
    ((fun (src : Source) (q : Qp) (s : State) => Accepted s.mod src (qpQuiesceOid q) 2) .mgmtPf 5 (at_ fun m => (conf m).onQp 5 fun x =>
      { x with st := .quiescing, started := [{ num := 3, words := [] }] })) ∧
    ((fun (src : Source) (q : Qp) (s : State) => Accepted s.mod src (qpQuiesceOid q) 0) .mgmtPf 5 (at_ fun m => (conf m).onQp 5 fun x =>
      { x with st := .quiesced })) ∧
    ((fun (src : Source) (n : VfSlot) (on : Bool) (v : Fin 64) (t : Tenant) (s : State) => Accepted s.mod src (vfOid n 1) (pack [(b2n on, 31, 1), (v, 24,
      6), (t, 0, 8)])) .mgmtPf 255 true 47 9 (at_ fun m => (conf m).onBox 255 fun x => { x with inq := [3] })) ∧
    ((fun (src : Source) (s : State) => Accepted s.mod src 0xC01002 (2 ^ 31)) .mgmtPf (at_ fun m => ((conf m).setObj 0xC01002 (2 ^ 31)).setObj 0xC01001 3)) ∧
    ((fun (src : Source) (slot : Fin 64) (v : Nat) (s : State) => Accepted s.mod src (slotOid slot) (v % 2 ^ 32)) .firmware 21 (2 ^ 31 + 1) ((at_ conf))) ∧
    ((fun (src : Source) (slot : Fin 64) (v : Nat) (s : State) => Accepted s.mod src (slotOid slot) (v % 2 ^ 32)) .firmware 22 1 ((at_ conf))) ∧
    ((fun (src : Source) (w : Fin 24) (v : Nat) (s : State) => Accepted s.mod src (mkOid 0xE 0x30 (1 + w)) (v % 2 ^ 64)) .mgmtPf 23 (2 ^ 64 - 1) ((at_
      conf))) ∧
    ((fun (src : Source) (v : Nat) (s : State) => Accepted s.mod src 0xE04000 (v % 2 ^ 32)) .mgmtPf 2000 ((at_ conf))) ∧
    ((fun (src : Source) (seq : Nat) (s : State) => Accepted s.mod src 0xE01500 (seq % 2 ^ 32)) .mgmtPf 0 ((at_ conf))) ∧
    ((fun (src : Source) (s : State) => Accepted s.mod src 0xE01600 (2 ^ 30)) .mgmtPf (at_ fun m => (conf m).onEv fun b => { b with lostAlert := true })) ∧
    ((fun (c : Instr) (src : Source) (e : Fin 64) (u : UnitId) (p : EdgePort) (n : FabPort) (r : Fin 256) (on evac : Bool) (b i dest : Fin 65536) (x : Fin
      4096) (a oid w : Nat) (f : VfSlot) (q : Qp) (v : Fin 64) (tt : Tenant) (k : Fin 24) (s : State) => (c, oid, w) ∈ [(Instr.fenceEntrySet src e u false,
      fenceOid (e + 1), unitFields u), (.fenceEntryClear src e false, fenceOid (e + 1), 0), (.portRoleWrite src p r false, mkOid 4 p 2, r.val),
      (.portEnableWrite src p on false, mkOid 4 p 1, b2n on), (.bindingWrite src p b .here false, mkOid 4 p 3, b.val), (.unbindWrite src p .here false,
      mkOid 4 p 3, 0xFFFF), (.linkRetire src n false, mkOid 5 n 2, 1), (.linkUnretire src n false, mkOid 5 n 2, 0), (.extentAddRequest src x a false, extOid
      x, setFld (a % 2 ^ 64) 61 3 1), (.extentReleaseRequest src x false, extOid x, setFld (s.mod.objv (extOid x)) 61 3 4), (.extentForce src x false,
      extOid x, setFld (s.mod.objv (extOid x)) 61 3 6), (.extentClear src x false, extOid x, setFld (s.mod.objv (extOid x)) 61 3 0), (.migrationRequest src
      i dest evac false, descOid 6 i, pack [(1, 61, 3), (dest, 45, 16), (b2n evac, 44, 1)]), (.backedVectorsWrite src false f b false, vfOid f 3, b.val),
      (.qpOwnerWrite src q b false, qpOwnerOid q, b.val), (.vfAssignmentWrite src f on v tt false, vfOid f 1, pack [(b2n on, 31, 1), (v, 24, 6), (tt, 0,
      8)]), (.chainMaskWrite src k a false, mkOid 0xE 0x30 (1 + k), a % 2 ^ 64), (.windowLengthWrite src a false, 0xE04000, a % 2 ^ 32)] ∧ Accepted s.mod
      src oid w) (.linkRetire .mgmtPf 3 false) .mgmtPf 0 (.edge 3) 0 3 0 true true 0 0 0 0 0 (mkOid 5 3 2) 1 0 0 0 0 0 ((at_ conf))) := by
  refine ⟨?_, ?_, ?_, ?_, ?_, ?_, ?_, ?_, ?_, ?_, ?_, ?_, ?_, ?_, ?_⟩ <;> decide +kernel

theorem meets_TokensReportsAndKeySlots :
    ((fun (src : Source) (it : Item) (e : Mod × Caller) (s : State) => it = { oid := 0xD03000, ty := tyCode .blob } ∧ e = writerOf s.mod src it ∧
      s.mod.serves src = true ∧ ((winKey src = none → LetIn s.mod (s.mod.rowHdr src 8) (.read it))) ∧ e.1.readSts src 0xD03000 = .ok) .mgmtPf
      (({ oid := 0xD03000, ty := tyCode .blob })) (writerOf (conf State.reset.mod) .mgmtPf ({ oid := 0xD03000, ty := tyCode .blob })) ((at_ conf))) ∧
    ((fun (src : Source) (it : Item) (e : Mod × Caller) (s : State) => it = { oid := 0xD03000, ty := tyCode .blob } ∧ e = writerOf s.mod src it ∧
      s.mod.serves src = true ∧ ((winKey src = none → LetIn s.mod (s.mod.rowHdr src 8) (.read it))) ∧ e.1.readSts src 0xD03000 = .ok) (.mctpPcie 7)
      (({ oid := 0xD03000, ty := tyCode .blob })) (writerOf (conf State.reset.mod) (.mctpPcie 7) ({ oid := 0xD03000, ty := tyCode .blob })) ((at_ conf))) ∧
    ((fun (src : Source) (len : Fin 65536) (e : Mod × Caller) (body : List Nat) (s : State) => Accepted s.mod src 0xD04100 len ∧ e = writerOf s.mod src
      (itemOf 0xD04100 len) ∧ body = ((List.range 4).flatMap fun i => toBytes 1024 (s.mod.objv (mkOid 0xD 0x40 (1 + i)))).take len) (.mctpPcie 7) 30
      (writerOf (conf State.reset.mod) (.mctpPcie 7) (itemOf 0xD04100 30)) (List.replicate 30 0) ((at_ conf))) ∧
    ((fun (sess : Nat) (t : Token) (s : State) => s.mod.se.tokens.find? (fun t => t.session = sess) = some t) 1
      ({ session := 1, slot := 0, op := 1, param := 0, items := [], at_ := 5 }) (at_ fun m => m.onSe fun b =>
      { b with tokens := [{ session := 1, slot := 0, op := 1, param := 0, items := [], at_ := 5 }] })) ∧
    ((fun (src : Source) (nonce : Nat) (e : Mod × Caller) (s : State) => Accepted s.mod src 0xD02000 (nonce % 2 ^ 256) ∧ e = writerOf s.mod src (itemOf
      0xD02000 (nonce % 2 ^ 256))) (.mctpPcie 7) 30 (writerOf (at_ fun m => (conf m).onSe fun b => { b with life := 2 }).mod (.mctpPcie 7) (itemOf 0xD02000
      30)) ((at_ fun m => (conf m).onSe fun b => { b with life := 2 }))) ∧
    ((fun (src : Source) (k : Fin 8) (rights : Fin 256) (s : State) => Accepted s.mod src (keyOid k 3) (2 ^ 30 + rights)) .mgmtPf 1 2 ((at_ fun m =>
      (((conf m).setObj (keyOid 1 1) 5).setObj (keyOid 1 2) 6).setObj (keyOid 0 3) (2 ^ 30 + 7)))) ∧
    ((fun (src : Source) (k : Fin 8) (s : State) => Accepted s.mod src (keyOid k 3) (2 ^ 31 + s.mod.slotRights k)) .mgmtPf 1 (at_ fun m => (((conf
      m).setObj (keyOid 1 3) (2 ^ 30 + 4))).setObj (keyOid 0 3) (2 ^ 30 + 7))) ∧
    ((fun (src : Source) (k : Fin 8) (s : State) => Accepted s.mod src (keyOid k 3) 0 ∧ s.mod.objv (keyOid k 3) < 2 ^ 32) .mgmtPf 1 (at_ fun m => ((((conf
      m).setObj (keyOid 1 3) (2 ^ 31 + 4))).setObj (keyOid 0 3) (2 ^ 30 + 7)).setObj (keyOid 1 1) 4)) ∧
    ((fun (c : Instr) (src : Source) (k : Fin 8) (rights : Fin 256) (v : Nat) (s : State) => (c, v) ∈ [(Instr.keySlotEnrol src k rights false, 2 ^ 30 +
      rights.val), (.keySlotRevoke src k false, 2 ^ 31 + s.mod.slotRights k), (.keySlotClear src k false, 0)] ∧ Accepted s.mod src (keyOid k 3) v)
      (.keySlotEnrol .mgmtPf 1 2 false) .mgmtPf 1 2 (2 ^ 30 + 2) ((at_ fun m => (((conf m).setObj (keyOid 1 1) 5).setObj (keyOid 1 2) 6).setObj (keyOid 0 3)
      (2 ^ 30 + 7)))) := by
  refine ⟨?_, ?_, ?_, ?_, ?_, ?_, ?_, ?_, ?_⟩ <;> decide +kernel

theorem meets_LifeCycleAndDebug :
    ((fun (src : Source) (s : State) => Accepted s.mod src 0xD00200 1) .mgmtPf ((at_ fun m => (((conf m).setObj (keyOid 1 1) 5).setObj (keyOid 1 2)
      6).setObj (keyOid 0 3) (2 ^ 30 + 7)))) ∧
    ((fun (src : Source) (s : State) => Accepted s.mod src 0xD00200 2) .mgmtPf (at_ fun m => ((conf m).onSe fun b =>
      { b with life := 2, debug := true }).setObj 0xD00300 5)) ∧
    ((fun (src : Source) (s : State) => Accepted s.mod src 0xD00200 4) .firmware ((at_ fun m => (conf m).onSe fun b => { b with life := 2 }))) ∧
    ((fun (src : Source) (s : State) => Accepted s.mod src 0xD00200 5 ∧ s.mod.se.life ≤ 5) .firmware ((at_ fun m => (conf m).onSe fun b =>
      { b with life := 2 }))) ∧
    ((fun (src : Source) (minutes : Fin 65536) (s : State) => Accepted s.mod src 0xD05000 minutes) .firmware 5 ((at_ fun m => (conf m).onSe fun b =>
      { b with life := 2 }))) ∧
    ((fun (s : State) => s.mod.lifeCode = 3) (at_ fun m => ((conf m).onSe fun b => { b with life := 2, debug := true }).setObj 0xD00300 5)) := by
  refine ⟨?_, ?_, ?_, ?_, ?_, ?_⟩ <;> decide +kernel

theorem meets_ImagesAreStagedAndActivated :
    ((fun (src : Source) (data base : Nat) (s : State) => Accepted s.mod src 0xD06003 (data % 256 ^ 1024) ∧ base = slotBase s.mod.stageKind
      (s.mod.stageSlot s.mod.stageKind) + s.mod.objv 0xD06002) .mgmtPf (2 ^ 200 + 7) (slotBase 1 true + 0) (at_ fun m => (conf m).setObj 0xD06001 1)) ∧
    ((fun (src : Source) (s : State) => Accepted s.mod src 0xD06004 1) .mgmtPf ((at_ conf))) ∧
    ((fun (t : Nat) (s : State) => s.mod.se.checkEnd = some t) 5 (at_ fun m => m.onSe fun b => { b with checkEnd := some 5 })) ∧
    ((fun (src : Source) (s : State) => Accepted s.mod src 0xD06100 1) .mgmtPf ((at_ fun m => ((conf m).onSe fun b =>
      { b with staged := 2 ^ 31 + 2 ^ 27 }).setObj 0xD06001 2))) ∧
    ((fun (src : Source) (s : State) => Accepted s.mod src 0xD06100 2) .mgmtPf ((at_ fun m => ((conf m).onSe fun b =>
      { b with staged := 2 ^ 31 + 2 ^ 27 }).setObj 0xD06001 2))) ∧
    ((fun (t : Nat) (s : State) => s.mod.se.live = some t) 5 (at_ fun m => m.onSe fun b => { b with live := some 5 })) ∧
    ((fun (t : Nat) (s : State) => s.mod.se.live = some t ∧ s.mod.se.liveRetry = false) 5 (at_ fun m => m.onSe fun b => { b with live := some 5 })) ∧
    ((fun (t : Nat) (s : State) => s.mod.se.live = some t ∧ s.mod.se.liveRetry = true ∧ 2 ≤ s.mod.md.mode.code ∧ s.mod.md.mode ≠ .fault) 5 (at_ fun m =>
      (conf m).onSe fun b => { b with live := some 5, liveRetry := true })) := by
  refine ⟨?_, ?_, ?_, ?_, ?_, ?_, ?_, ?_⟩ <;> decide +kernel

theorem meets_StrapsAndTestAccessPort :
    ((fun (_slot : Fin 32) (s : State) => s.mod.pw.vao = true ∧ s.mod.di.strapped = false) 31 (at_ fun m => m.onPw fun p =>
      { p with vao := true, vaoSince := 7 })) ∧
    ((fun (c : Instr) (i : TapInstr) (pins data : Nat) (s : State) => (c, i) ∈ [(Instr.tapExtest pins data, TapInstr.extest), (.tapExtestPulse pins data,
      .extestPulse), (.tapExtestTrain pins data, .extestTrain)] ∧ s.mod.tapServed = true) (.tapExtestPulse 3 (2 ^ 1157 + 4)) .extestPulse 3 (2 ^ 1157 + 4)
      (at_ fun m => m.onMd fun b => { b with mode := .fault })) ∧
    ((fun (c : Instr) (i : TapInstr) (pins data : Nat) (s : State) => (c, i) ∈ [(Instr.tapExtest pins data, TapInstr.extest), (.tapExtestPulse pins data,
      .extestPulse), (.tapExtestTrain pins data, .extestTrain)] ∧ s.mod.tapServed = true) (.tapExtest 3 4) .extest 3 4 (at_ fun m => m.onMd fun b =>
      { b with mode := .operate })) ∧
    ((fun (c : Instr) (i : TapInstr) (s : State) => (c, i) ∈ [(Instr.tapClamp, TapInstr.clamp), (.tapHighz, .highz)] ∧ s.mod.tapServed = true) .tapHighz
      .highz (at_ fun m => m.onMd fun b => { b with mode := .fault })) ∧
    ((fun (c : Instr) (i : TapInstr) (s : State) => (c, i) ∈ [(Instr.tapClamp, TapInstr.clamp), (.tapHighz, .highz)] ∧ s.mod.tapServed = true) .tapClamp
      .clamp (at_ fun m => m.onMd fun b => { b with mode := .operate })) ∧
    ((fun (s : State) => s.mod.tapServed = true) (at_ ready)) ∧
    ((fun (_pins _data : Nat) (s : State) => s.mod.tapServed = true) 3 4 (at_ ready)) ∧
    ((fun (_pins _data : Nat) (s : State) => s.mod.tapServed = true) 3 4 (at_ fun m => (ready m).onSe fun b => { b with life := 5 })) ∧
    ((fun (s : State) => s.mod.tapServed = true) (at_ ready)) ∧
    ((fun (s : State) => s.mod.tapServed = true) (at_ fun m => (ready m).onSe fun b => { b with life := 5 })) ∧
    ((fun (s : State) => s.mod.tapServed = true) (at_ ready)) ∧
    ((fun (c : Instr) (pins data : Nat) (s : State) => c ∈ [.tapExtest pins data, .tapExtestPulse pins data, .tapExtestTrain pins data, .tapClamp,
      .tapHighz, .tapIdcode, .tapSamplePreload pins data, .tapDebug, .tapBypass] ∧ s.mod.tapServed = false) .tapBypass 3 4 (at_ id)) := by
  refine ⟨?_, ?_, ?_, ?_, ?_, ?_, ?_, ?_, ?_, ?_, ?_, ?_⟩ <;> decide +kernel

/-! Positions of the connector and cells of the boundary register (R611 to R614, R624). -/

theorem test_boundary_cells : boundaryParts.sum = boundaryCells := by decide
theorem test_lane_149 : lanePins 149 = { txp := ⟨2, 74, some 'H'⟩, txn := ⟨2, 74, some 'J'⟩, rxp := ⟨2, 74, some 'L'⟩, rxn := ⟨2, 74, some 'M'⟩ } := by decide
theorem test_lane_244 : lanePins 244 = slotPins 3 26 false := by decide
theorem test_refout_12 : refoutPins 12 = (⟨3, 41, some 'B'⟩, ⟨3, 41, some 'C'⟩) := by decide
theorem test_prsnt_37 : prsntPin 37 = { conn := 4, col := 38, row := some 'B' } := by decide

/-! The fast-path map (R516): VF_CAPS of slot 0 holds the slot, its tenant, its backed vectors and its queue pairs; RMA drops reports (R573). -/

theorem test_vf_caps : after (.registerWrite (.fastRead 0 0x800 4 9)) (at_ fun m => (((((m.onMd fun b => { b with mode := .operate, serving := true }).setObj
    (qpOwnerOid 0) (2 ^ 15)).setObj (vfOid 0 1) (2 ^ 31 + 5)).setObj (mkOid 4 0x100 1) 0).setObj (vfOid 0 5) 1).onFn_ (hostFn 0) fun x => { x with vfEnable := true })
    (fun m => decide (m.out.length = 1) && m.out.all fun o => match o with | .reg 0 v => decide (fld v 16 8 = 5 ∧ fld v 0 7 = 1) | _ => false) = true := by decide +kernel
theorem test_msix_beyond_table : after (.registerWrite (.msix 559 4 1 2 true)) (at_ id) (fun m => decide (m.fnSt 559 = {})) = true := by decide +kernel

end Sys2Proof.Tests
end

section
/-! Sessions: which IDs they have, and what opening, closing and using one leaves alone (R82 to R85). -/
namespace Sys2Proof.Machine

@[simp] theorem Mod.raise_di (m : Mod) (e : Ev) : (m.raise e).di = m.di :=
  Mod.raise_keeps (P := fun x => x.di = m.di) Stable.di_is.up rfl e

/-- The dictionary but for what belongs to sessions: themselves, their groups, subscriptions and sessions on other modules. -/
def DictBlk.sessionless (d : DictBlk) : DictBlk := { d with groups := [], sessions := [], subs := [], far := [] }

@[simp] theorem abortGroups_sessions (m : Mod) (p : Group → Bool) : (m.abortGroups p).di.sessions = m.di.sessions :=
  each_keeps (fun x => x.di.sessions) _ (fun g x => by simp) _ _

@[simp] theorem abortGroups_sessionless (m : Mod) (p : Group → Bool) : (m.abortGroups p).di.sessionless = m.di.sessionless :=
  each_keeps (fun x => x.di.sessionless) _ (fun g x => by simp [DictBlk.sessionless]) _ _

@[simp] theorem closeSession_sessions (m : Mod) (id : Nat) : (m.closeSession id).di.sessions = m.di.sessions.filter fun s => s.id ≠ id := by
  simp [Mod.closeSession]

@[simp] theorem closeSession_sessionless (m : Mod) (id : Nat) : (m.closeSession id).di.sessionless = m.di.sessionless := by
  rw [← abortGroups_sessionless m fun g => decide (g.session = id)]
  simp [Mod.closeSession, DictBlk.sessionless]

/-- The module in which the earlier session of a source, if it has one, is closed. -/
def Mod.endSession (m : Mod) (src : Source) : Mod :=
  match m.sessionBySrc src with
  | some s => m.closeSession s.id
  | none => m

/-- The first ID from 2 to 33 that no session has, less 2. -/
def Mod.freeId (m : Mod) : Option Nat := (List.range 32).find? fun i => m.di.sessions.all fun s => s.id ≠ i + 2

theorem openSession_eq (m : Mod) (src : Source) :
    m.openSession src = match (m.endSession src).freeId with
      | none => (m.endSession src, none)
      | some i =>
        ((m.endSession src).onDi fun d => { d with sessions := d.sessions ++ [{ id := i + 2, src := src, lastAt := (m.endSession src).now }] }, some (i + 2)) :=
  rfl

/-- What opening a session can do (R82): no ID is free, or one from 2 to 33 is taken and its session added. -/
theorem openSession_cases (m : Mod) (src : Source) :
    m.openSession src = (m.endSession src, none) ∨
    ∃ i < 32, m.openSession src =
      ((m.endSession src).onDi fun d => { d with sessions := d.sessions ++ [{ id := i + 2, src := src, lastAt := (m.endSession src).now }] }, some (i + 2)) := by
  rw [openSession_eq]
  cases free : (m.endSession src).freeId with
  | none => exact .inl rfl
  | some i => exact .inr ⟨i, List.mem_range.mp (List.mem_of_find?_eq_some free), rfl⟩

theorem endSession_sessions_subset (m : Mod) (src : Source) : (m.endSession src).di.sessions ⊆ m.di.sessions := by
  unfold Mod.endSession
  split
  · rw [closeSession_sessions]
    exact fun x hx => (List.mem_filter.mp hx).1
  · exact List.Subset.refl _

@[simp] theorem endSession_sessionless (m : Mod) (src : Source) : (m.endSession src).di.sessionless = m.di.sessionless := by
  unfold Mod.endSession
  split <;> simp

/-- The ID of a dynamic session lies between those of the management PF's window and of the VFs' (R82, R83). -/
theorem openSession_id {m : Mod} {src : Source} {i : Nat} (h : (m.openSession src).2 = some i) : 2 ≤ i ∧ i < 34 := by
  obtain e | ⟨k, hk, e⟩ := openSession_cases m src <;> rw [e] at h
  · cases h
  · cases h
    omega

theorem mem_openSession {m : Mod} {src : Source} {x : Session} (h : x ∈ (m.openSession src).1.di.sessions) :
    x ∈ m.di.sessions ∨ (m.openSession src).2 = some x.id := by
  obtain e | ⟨k, -, e⟩ := openSession_cases m src <;> rw [e] at h ⊢
  · exact .inl (endSession_sessions_subset m src h)
  · obtain old | new := List.mem_append.mp h
    · exact .inl (endSession_sessions_subset m src old)
    · rw [List.mem_singleton.mp new]
      exact .inr rfl

@[simp] theorem openSession_sessionless (m : Mod) (src : Source) : (m.openSession src).1.di.sessionless = m.di.sessionless := by
  obtain e | ⟨k, -, e⟩ := openSession_cases m src <;> rw [e]
  · exact endSession_sessionless m src
  · exact endSession_sessionless m src

/-- A request's session stands already, or is opened for it (R82). -/
theorem sessionFor_mod (m : Mod) (h : ReqHdr) : (m.sessionFor h).1 = m ∨ (m.sessionFor h).1 = (m.openSession h.src).1 := by
  have opened : (match m.openSession h.src with
      | (m1, some i) => (m1, Sts.ok, i)
      | (m1, none) => (m1, .busy, 0)).1 = (m.openSession h.src).1 := by
    obtain e | ⟨k, -, e⟩ := openSession_cases m h.src <;> rw [e]
  unfold Mod.sessionFor
  dsimp only
  split
  · exact .inl rfl
  · split
    · exact .inr opened
    · left
      split
      · split <;> rfl
      · rfl

@[simp] theorem sessionFor_sessionless (m : Mod) (h : ReqHdr) : (m.sessionFor h).1.di.sessionless = m.di.sessionless := by
  obtain e | e := sessionFor_mod m h <;> simp [e]

@[simp] theorem transportCtr_di (m : Mod) (src : Source) (k : Nat) : (m.transportCtr src k).di = m.di :=
  Mod.transportCtr_keeps (P := fun x => x.di = m.di) Stable.di_is.up rfl src k

/-- The module in which a request has its session, which is stamped with the time (R84), and its transport's count. -/
def Mod.withSession (m : Mod) (h : ReqHdr) : Mod := ((m.sessionFor h).1.touch (m.sessionFor h).2.2).transportCtr h.src 0

@[simp] theorem withSession_sessionless (m : Mod) (h : ReqHdr) : (m.withSession h).di.sessionless = m.di.sessionless := by
  rw [← sessionFor_sessionless m h]
  simp [Mod.withSession, Mod.touch, DictBlk.sessionless]

theorem withSession_sw (m : Mod) (h : ReqHdr) : (m.withSession h).sw = m.sw :=
  Mod.transportCtr_keeps Stable.sw_is.up (Mod.touch_keeps Stable.sw_is.up (Mod.sessionFor_keeps Stable.sw_is.up rfl h).fst _) _ _

/-- The responses that a session keeps (R85). -/
def Mod.keptOf (m : Mod) (sess : Nat) : List Resp := ((m.di.sessions.find? fun (s : Session) => s.id = sess).map (·.kept)).getD []

/-- A SEQ is older than every one of the kept responses (R85). -/
def isStale (kept : List Resp) (seq : Nat) : Bool :=
  kept.getLast?.any fun (o : Resp) => let d := (o.seq + 2 ^ 32 - seq % 2 ^ 32) % 2 ^ 32; decide (1 ≤ d ∧ d ≤ 2 ^ 31)

@[simp] theorem touch_keptOf (m : Mod) (sess id : Nat) : (m.touch id).keptOf sess = m.keptOf sess := by
  have same : (fun s : Session => decide ((if s.id = id then { s with lastAt := m.now } else s).id = sess)) = fun s => decide (s.id = sess) := by
    funext s
    split <;> rfl
  have kept : (fun s : Session => (if s.id = id then { s with lastAt := m.now } else s).kept) = (·.kept) := by
    funext s
    split <;> rfl
  simp [Mod.keptOf, Mod.touch, List.find?_map, Function.comp_def, same, kept]

@[simp] theorem withSession_keptOf (m : Mod) (h : ReqHdr) (sess : Nat) : (m.withSession h).keptOf sess = (m.sessionFor h).1.keptOf sess := by
  calc (m.withSession h).keptOf sess
    _ = ((m.sessionFor h).1.touch (m.sessionFor h).2.2).keptOf sess := by simp [Mod.withSession, Mod.keptOf]
    _ = (m.sessionFor h).1.keptOf sess := touch_keptOf ..

end Sys2Proof.Machine
end

section
/-! The fixed sessions of the windows (R83). -/
namespace Sys2Proof
open Sys2Proof.Machine

theorem winKey_of_fixedSession {src : Source} {id : Nat} (h : fixedSession src = some id) : (winKey src).isSome = true := by
  cases src with
  | mgmtPf | vf | hostPf => rfl
  | _ => cases h

theorem fixedSession_range {src : Source} {id : Nat} (h : fixedSession src = some id) : id = 1 ∨ 0x100 ≤ id := by
  cases src <;> cases h
  · exact .inl rfl
  · exact .inr (Nat.le_add_right _ _)
  · exact .inr (by omega)

theorem openSession_ne_fixedSession {m : Mod} {src w : Source} {i : Nat} (h : (m.openSession src).2 = some i) : fixedSession w ≠ some i := by
  intro hw
  have dyn := openSession_id h
  have fix := fixedSession_range hw
  omega

/-- With no session of the ID, its idle timeout does nothing (R84). -/
theorem sessionIdleTimeout_none {id : Nat} {s : State} (h : ∀ x ∈ s.mod.di.sessions, x.id ≠ id) : Answers (.sessionIdleTimeout id) s fun m => m = s.mod := by
  have absent : s.mod.di.sessions.find? (fun x => x.id = id) = none := by simpa using h
  refine ⟨_, rfl, ?_⟩
  simp only [absent]

/-- Settles O11: dynamic sessions have the IDs 2 to 33, fixed ones 1 and those from 0x100 on. -/
theorem fixedSessionsNeverExpire : Obligations.FixedSessionsNeverExpire := by
  unfold Obligations.FixedSessionsNeverExpire
  refine ⟨⟨rfl, fun _ => rfl, fun _ => rfl⟩, fun src id h => ⟨winKey_of_fixedSession h, ?_⟩, fun m src i h w => openSession_ne_fixedSession h,
    fun w id s _ h => sessionIdleTimeout_none h, fun w src id s hw h x hx e => ?_⟩
  · simp [callerOf, h]
  · obtain old | new := mem_openSession hx
    · exact h x old e
    · exact openSession_ne_fixedSession new (e ▸ hw)

end Sys2Proof
end

section
/-! Requests of Tenant sessions for other modules (R90). -/
namespace Sys2Proof
open Sys2Proof.Machine

/-- Each command of the message classes is a request that arrives (R78). -/
theorem exec_of_asked {c : Instr} {h : ReqHdr} {b : Body} (e : asked c = some (h, b)) :
    ∃ stored, ∀ s, exec c s = .next { s with mod := s.mod.request h b stored } := by
  unfold asked at e
  split at e <;> cases e <;> exact ⟨_, fun _ => rfl⟩

/-- A new SEQ is one of no kept response, and not older than all of them (R85). -/
theorem kept_of_seqNew {m : Mod} {h : ReqHdr} (hseq : seqNew m h = true) :
    ((m.withSession h).keptOf (m.sessionFor h).2.2).find? (fun r => r.seq = h.seq) = none ∧ isStale ((m.withSession h).keptOf (m.sessionFor h).2.2) h.seq = false := by
  rw [withSession_keptOf]
  have both : (((m.sessionFor h).1.keptOf (m.sessionFor h).2.2).all (fun r => decide (r.seq ≠ h.seq)) &&
    !isStale ((m.sessionFor h).1.keptOf (m.sessionFor h).2.2) h.seq) = true := hseq
  obtain ⟨hnew, hstale⟩ := (Bool.and_eq_true _ _).mp both
  exact ⟨by simpa using hnew, by simpa using hstale⟩

theorem proxyOn_tenant {h : ReqHdr} (ht : privOf h.src = .tenant) (m : Mod) (b : Body) (sess target : Nat) :
    m.proxyOn h b sess target = (m, .accessDenied) := if_pos ht

/-- What an accepted form of request comes to in its session (R82 to R85, R89). -/
theorem request_eq {m : Mod} {h : ReqHdr} (b : Body) (stored : Bool) (hserves : m.serves h.src = true) (hwin : winKey h.src = none)
    (hframed : framed h = true) (hbad : hdrBad h b = false) (hsess : (m.sessionFor h).2.1 = .ok) :
    m.request h b stored =
      match ((m.withSession h).keptOf (m.sessionFor h).2.2).find? (fun r => r.seq = h.seq) with
      | some r => (m.withSession h).respond h.src r
      | none =>
        if isStale ((m.withSession h).keptOf (m.sessionFor h).2.2) h.seq then (m.withSession h).onDi fun d => { d with staleSeq := d.staleSeq + 1 }
        else if h.target % 4096 = 0 ∨ h.target % 4096 = m.rt.id then ((m.withSession h).hubCtr 272 1).execute h b (m.sessionFor h).2.2 stored
        else match (m.withSession h).proxyOn h b (m.sessionFor h).2.2 (h.target % 4096) with
          | (m1, .ok) => m1
          | (m1, s) => m1.answer h.src { opcode := bodyOpcode b, session := (m.sessionFor h).2.2, seq := h.seq, status := s } := by
  unfold Mod.request
  dsimp only
  rw [if_neg (by simp [hserves, hframed]), if_neg (by simp [hwin]), if_neg (by simp [hbad])]
  unfold Mod.withSession
  generalize m.sessionFor h = x at hsess ⊢
  obtain ⟨m0, _, sess⟩ := x
  cases hsess
  rfl

/-- A well-formed new request of a Tenant session for another module is answered with ACCESS_DENIED in the module that holds its session (R90). -/
theorem request_tenant_elsewhere {m : Mod} {h : ReqHdr} (b : Body) (stored : Bool) (ht : privOf h.src = .tenant) (hserves : m.serves h.src = true)
    (hwin : winKey h.src = none) (hframed : framed h = true) (hbad : hdrBad h b = false) (hsess : (m.sessionFor h).2.1 = .ok) (hseq : seqNew m h = true)
    (htarget : h.target % 4096 ∉ [0, m.rt.id]) :
    m.request h b stored =
      (m.withSession h).answer h.src { opcode := bodyOpcode b, session := (m.sessionFor h).2.2, seq := h.seq, status := .accessDenied } := by
  obtain ⟨hnew, hstale⟩ := kept_of_seqNew hseq
  have elsewhere : ¬ (h.target % 4096 = 0 ∨ h.target % 4096 = m.rt.id) := by simpa using htarget
  rw [request_eq b stored hserves hwin hframed hbad hsess, hnew, hstale, proxyOn_tenant ht]
  simp only [if_neg elsewhere, Bool.false_eq_true, if_false]

/-- A response through a window leaves by it. -/
theorem respond_of_fixedSession {src : Source} {id : Nat} (h : fixedSession src = some id) (m : Mod) (r : Resp) : m.respond src r = m.emit (.resp src r) := by
  cases src with
  | mgmtPf | vf | hostPf => rfl
  | _ => cases h

/-- A request of a Tenant's window for another module is answered with ACCESS_DENIED, and nothing changes (R90, R92). -/
theorem request_tenant_window_elsewhere {m : Mod} {h : ReqHdr} {id : Nat} (b : Body) (stored : Bool) (ht : privOf h.src = .tenant)
    (hserves : m.serves h.src = true) (hfix : fixedSession h.src = some id) (hframed : framed h = true) (htarget : h.target % 4096 ∉ [0, m.rt.id]) :
    m.request h b stored = m.emit (.resp h.src { opcode := bodyOpcode b, session := id, seq := h.seq, status := .accessDenied }) := by
  have elsewhere : h.target % 4096 ≠ 0 ∧ h.target % 4096 ≠ m.rt.id := by simpa using htarget
  calc m.request h b stored
    _ = m.windowRequest h b := by
      unfold Mod.request
      dsimp only
      rw [if_neg (by simp [hserves, hframed]), if_pos (winKey_of_fixedSession hfix)]
    _ = m.respond h.src { opcode := bodyOpcode b, session := (fixedSession h.src).getD 0, seq := h.seq, status := .accessDenied } := if_pos ⟨ht, elsewhere⟩
    _ = _ := by rw [respond_of_fixedSession hfix, hfix, Option.getD_some]

/-- Settles O12: a transport's request gets its session and goes no further, a window's changes nothing. -/
theorem tenantRequestsAreNotProxied : Obligations.TenantRequestsAreNotProxied := by
  unfold Obligations.TenantRequestsAreNotProxied
  constructor
  · intro h b c s hc ht hserves hwin hframed hbad hsess hseq htarget
    obtain ⟨stored, run⟩ := exec_of_asked hc
    have same := withSession_sessionless s.mod h
    exact ⟨_, run s, s.mod.withSession h, request_tenant_elsewhere b stored ht hserves hwin hframed hbad hsess hseq htarget,
      (congrArg DictBlk.proxied same :), congrArg SwitchBlk.waiting (withSession_sw s.mod h), (congrArg DictBlk.obj same :)⟩
  · intro h b c id s hc ht hserves hfix hframed htarget
    obtain ⟨stored, run⟩ := exec_of_asked hc
    exact ⟨_, run s, request_tenant_window_elsewhere b stored ht hserves hfix hframed htarget⟩

end Sys2Proof
end

section
/-! The bytes of items and responses (R76, R77). -/
namespace Sys2Proof.Machine

@[simp] theorem toBytes_length (len n : Nat) : (toBytes len n).length = len := by
  induction len with
  | zero => rfl
  | succ len ih => simp [toBytes, ih]

theorem toBytes_lt (len n : Nat) : ∀ x ∈ toBytes len n, x < 256 := by
  induction len with
  | zero => simp [toBytes]
  | succ len ih => simpa [toBytes] using ⟨Nat.mod_lt _ (by decide), ih⟩

theorem foldl_toBytes (len n a : Nat) : (toBytes len n).foldl (fun a b => a * 256 + b % 256) a = a * 256 ^ len + n % 256 ^ len := by
  induction len generalizing a with
  | zero => simp [toBytes, Nat.mod_one]
  | succ len ih =>
    rw [toBytes, List.foldl_cons, ih, Nat.mod_mod, Nat.pow_succ, Nat.mod_mul, Nat.add_mul, Nat.mul_assoc, Nat.mul_comm 256 (256 ^ len),
      Nat.mul_comm (n / 256 ^ len % 256) (256 ^ len), Nat.add_assoc, Nat.add_comm (n % 256 ^ len)]

@[simp] theorem ofBytes_toBytes (len n : Nat) : ofBytes (toBytes len n) = n % 256 ^ len := by
  rw [ofBytes, foldl_toBytes, Nat.zero_mul, Nat.zero_add]

@[simp] theorem itemBytes_length (i : WireItem) : (itemBytes i).length = 8 + 4 * ((i.len + 3) / 4) := by
  simp [itemBytes]
  omega

/-- The layout of an item (R77): object, type code, value length, status and value, each from its own byte on, and zeros to a multiple of 4 bytes. -/
theorem itemBytes_layout {i : WireItem} (hoid : i.oid < 2 ^ 24) (hty : i.ty < 2 ^ 8) (hlen : i.len < 2 ^ 16) (hstatus : i.status < 2 ^ 16)
    (hval : i.val < 256 ^ i.len) :
    (∀ x ∈ itemBytes i, x < 256) ∧ ofBytes ((itemBytes i).take 3) = i.oid ∧ ((itemBytes i).drop 3).take 1 = [i.ty] ∧
    ofBytes (((itemBytes i).drop 4).take 2) = i.len ∧ ofBytes (((itemBytes i).drop 6).take 2) = i.status ∧
    ofBytes (((itemBytes i).drop 8).take i.len) = i.val ∧ ∀ x ∈ (itemBytes i).drop (8 + i.len), x = 0 := by
  have value : (itemBytes i).drop 8 = toBytes i.len i.val ++ List.replicate ((4 - i.len % 4) % 4) 0 := rfl
  refine ⟨?_, ?_, ?_, ?_, ?_, ?_, ?_⟩
  · intro x hx
    simp only [itemBytes, List.mem_append, List.mem_replicate] at hx
    obtain ((((hx | hx) | hx) | hx) | hx) | ⟨-, rfl⟩ := hx
    any_goals exact toBytes_lt _ _ x hx
    decide
  · exact (ofBytes_toBytes 3 i.oid).trans (Nat.mod_eq_of_lt hoid)
  · exact congrArg (fun b => [b]) (show i.ty / 1 % 256 = i.ty by omega)
  · exact (ofBytes_toBytes 2 i.len).trans (Nat.mod_eq_of_lt hlen)
  · exact (ofBytes_toBytes 2 i.status).trans (Nat.mod_eq_of_lt hstatus)
  · rw [value, List.take_left' (toBytes_length ..), ofBytes_toBytes, Nat.mod_eq_of_lt hval]
  · rw [← List.drop_drop, value, List.drop_left' (toBytes_length ..)]
    exact fun x hx => (List.mem_replicate.mp hx).2

/-- Behind the 16 bytes of a message's header stands its payload (R76). -/
theorem parvorBytes_drop_header (flags opcode session seq status wireTarget subid : Nat) (payload : List Nat) :
    (parvorBytes flags opcode session seq status wireTarget subid payload).drop 16 = payload := rfl

/-- An item of a response as it is sent: PEND above the status code (R77). -/
def RItem.wire (x : RItem) : WireItem := { oid := x.oid, ty := x.ty, len := x.len, status := x.status.code + 32768 * b2n x.pend, val := x.val }

theorem respBytes_drop_header (r : Resp) : (respBytes r).drop 16 = (r.items ++ holderItems r).flatMap fun x => itemBytes x.wire := parvorBytes_drop_header ..

/-- A response of one item is its header and that item exactly when its status is not LOCKED: with LOCKED the holder's item follows, whoever the holder is
(R63, R70). -/
theorem respBytes_oneItem_iff {r : Resp} {x : RItem} (h : r.items = [x]) : (respBytes r).drop 16 = itemBytes x.wire ↔ r.status ≠ .locked := by
  rw [respBytes_drop_header, h, holderItems]
  split
  case isTrue locked =>
    refine iff_of_false (fun e => ?_) (fun n => n locked)
    have := congrArg List.length e
    simp at this
  case isFalse free => exact iff_of_true (by simp) free

end Sys2Proof.Machine

namespace Sys2Proof
open Sys2Proof.Machine

/-- Refutes O10: a WRITE answered LOCKED with holder 0, as after Root has locked a region (R556), and one item, which the holder's item follows all the same. -/
theorem not_itemsAreLaidOut : ¬ Obligations.ItemsAreLaidOut := by
  unfold Obligations.ItemsAreLaidOut
  rintro ⟨-, oneItem, -⟩
  let x : RItem := { oid := 0x003400, ty := 4, status := .locked }
  let r : Resp := { opcode := 2, session := 2, seq := 1, status := .locked, items := [x] }
  exact (respBytes_oneItem_iff (r := r) (x := x) rfl).mp (oneItem r x rfl rfl) rfl

end Sys2Proof
end

section
/-! Writes that the rules of an object refuse, through a window and in a session (R61, R78, R94). -/
namespace Sys2Proof.Machine

/-- An object that a session may know of is in the dictionary (R55). -/
theorem objFind_of_rowFor {m : Mod} {src : Source} {oid : Nat} {r : ObjRow} (h : m.rowFor src oid = some r) : objFind oid = some r := by
  unfold Mod.rowFor at h
  split at h
  case h_1 => cases h
  case h_2 row found =>
    split at h
    · cases h
    · rw [found, h]

theorem itemOf_eq {oid : Nat} {r : ObjRow} (h : objFind oid = some r) (v : Nat) :
    itemOf oid v = { oid := oid, ty := tyCode r.ty, len := r.size, val := v % 256 ^ r.size } := by
  unfold itemOf
  rw [h]

/-- The item of a write has the object's type, whatever its value (R49). -/
theorem typeOk_itemOf {oid : Nat} {r : ObjRow} (h : objFind oid = some r) (v : Nat) : typeOk r (itemOf oid v) = true := by
  simp [itemOf_eq h, typeOk]

/-- A write of v to an object passes the checks before the range (R61, R572): the caller's source may know of the object and write it, the mode serves the write, and
it needs no token; and no session is yet to be told that Root has taken its lock (R556). -/
structure ReachesRange (m : Mod) (src : Source) (c : Caller) (oid v : Nat) (r : ObjRow) : Prop where
  caller : c.src = src
  row : m.rowFor src oid = some r
  access : accWrites (rowAcc (privOf src) r) = true
  mode : m.modeServes src oid true r.cfg = true
  token : m.tokenFree c r oid v = true
  locked : m.di.lockedOut = []

/-- Where the chapter of an object of areas 0 to 5 refuses a write that has reached the range, the answer is RANGE whether or not the value lies in the object's
own range, and no token is taken. -/
theorem checkWrite_range {m : Mod} {src : Source} {c : Caller} {oid v : Nat} {r : ObjRow} (h : ReachesRange m src c oid v r) (hv : v < 256 ^ r.size)
    (harea : oid / 2 ^ 20 ≤ 5) (hrefuse : m.refuseLow oid v = .range) : m.checkWrite c (itemOf oid v) = (m, .range, none) := by
  obtain ⟨rfl, hrow, hacc, hmode, htoken, hlocked⟩ := h
  have htype := typeOk_itemOf (objFind_of_rowFor hrow) v
  rw [itemOf_eq (objFind_of_rowFor hrow), Nat.mod_eq_of_lt hv] at htype ⊢
  unfold Mod.checkWrite
  simp only [hrow, Nat.mod_eq_of_lt hv, htoken, hacc, htype, harea, if_true, Option.map_none, Option.getD_none]
  cases rangeOk r v with
  | false => simp [hmode]
  | true => simp [hmode, hlocked, hrefuse]

theorem writeOne_of_refused {m m1 : Mod} {q : Req} {it : Item} {e : Sts} (h : m.checkWrite q.c it = (m1, e, none)) :
    m.writeOne q it = { mod := m1, sts := e } := by
  unfold Mod.writeOne
  rw [h]

/-- A source writes an object through its window, in the window's fixed session (R94). -/
theorem writeRow_window_refused {m : Mod} {src : Source} {k oid v : Nat} {m1 : Mod} {e : Sts} (stored : Bool) (hkey : winKey src = some k)
    (hserves : m.serves src = true) (hrow : (m.rowFor src oid).isSome = true) (hcheck : m.checkWrite (callerOf src) (itemOf oid v) = (m1, e, none)) (he : e ≠ .ok) :
    m.writeRow src oid v stored = m1.winFail k oid e := by
  obtain ⟨r, hrow⟩ := Option.isSome_iff_exists.mp hrow
  have found := objFind_of_rowFor hrow
  rw [itemOf_eq found] at hcheck
  have refused : m.winWriteOne src 255 oid v r.size stored = { mod := m1, sts := e } := by
    unfold Mod.winWriteOne
    rw [hrow]
    exact writeOne_of_refused hcheck
  unfold Mod.writeRow
  simp [found, hkey, hserves, refused, he]

/-- A source without a window writes an object by a WRITE in its session (R78). -/
theorem writeRow_session {m : Mod} {src : Source} {oid : Nat} {r : ObjRow} (v : Nat) (stored : Bool) (hkey : winKey src = none) (found : objFind oid = some r) :
    m.writeRow src oid v stored = m.request (m.rowHdr src (itemLen (itemOf oid v))) (.write (itemOf oid v)) stored := by
  unfold Mod.writeRow
  rw [itemOf_eq found]
  simp only [found, hkey]

/-- A request that is let in is executed in the module its entry leaves, as its caller (R78). -/
theorem request_of_letIn {m : Mod} {h : ReqHdr} {b : Body} (stored : Bool) (hin : LetIn m h b) :
    m.request h b stored = (entered m h).1.execute h b (entered m h).2.sess stored := by
  obtain ⟨hserves, hwin, hframed, hbad, hsess, hseq, htarget⟩ := hin
  obtain ⟨hnew, hstale⟩ := kept_of_seqNew hseq
  have here : h.target % 4096 = 0 ∨ h.target % 4096 = m.rt.id := by simpa using htarget
  rw [request_eq b stored hserves hwin hframed hbad hsess, hnew, hstale]
  simp only [if_pos here, Bool.false_eq_true, if_false]
  rfl

/-- A refused WRITE is answered with the status of its item (R78, R81). -/
theorem execute_write_refused {m m1 : Mod} {h : ReqHdr} {it : Item} {sess : Nat} {e : Sts} (stored : Bool)
    (hcheck : m.checkWrite { src := h.src, sess := sess } it = (m1, e, none)) :
    ∃ y : Resp, m.execute h (.write it) sess stored = m1.answer h.src y ∧ y.opcode = 2 ∧ y.status = e := by
  unfold Mod.execute
  dsimp only
  rw [writeOne_of_refused hcheck]
  exact ⟨_, rfl, rfl, rfl⟩

/-- A request's entry leaves every object as it is. -/
theorem entered_obj (m : Mod) (h : ReqHdr) : (entered m h).1.di.obj = m.di.obj := by
  have counted : (entered m h).1.di = (m.withSession h).di := Mod.hubCtr_keeps (P := fun x => x.di = (m.withSession h).di) Stable.di_is.up rfl _ _
  rw [counted]
  exact (congrArg DictBlk.obj (withSession_sessionless m h) :)

theorem writerOf_window {src : Source} {k : Nat} (h : winKey src = some k) (m : Mod) (it : Item) : writerOf m src it = (m, callerOf src) := by
  simp [writerOf, h]

theorem writerOf_session {src : Source} (h : winKey src = none) (m : Mod) (it : Item) : writerOf m src it = entered m (m.rowHdr src (itemLen it)) := by
  simp [writerOf, h]

theorem writerOf_src (m : Mod) (src : Source) (it : Item) : (writerOf m src it).2.src = src := by
  unfold writerOf
  split <;> rfl

@[simp] theorem writerOf_objv (m : Mod) (src : Source) (it : Item) (oid : Nat) : (writerOf m src it).1.objv oid = m.objv oid := by
  unfold writerOf
  split
  · rfl
  · exact congrArg (tget (objDefault oid) oid) (entered_obj ..)

/-- A source's write that fails a check is reported in the error registers of its window, or in the response of its session (R61, R94). -/
theorem writeRow_of_refused {m m1 : Mod} {src : Source} {oid v : Nat} {e : Sts} (stored : Bool) (hserves : m.serves src = true)
    (hlet : winKey src = none → LetIn m (m.rowHdr src (itemLen (itemOf oid v))) (.write (itemOf oid v)))
    (hrow : ((writerOf m src (itemOf oid v)).1.rowFor src oid).isSome = true)
    (hcheck : (writerOf m src (itemOf oid v)).1.checkWrite (writerOf m src (itemOf oid v)).2 (itemOf oid v) = (m1, e, none)) (he : e ≠ .ok) :
    (∀ k ∈ winKey src, m.writeRow src oid v stored = m1.winFail k oid e) ∧
    (winKey src = none → ∃ y : Resp, m.writeRow src oid v stored = m1.answer src y ∧ y.opcode = 2 ∧ y.status = e) := by
  constructor
  · intro k hkey
    rw [writerOf_window hkey] at hrow hcheck
    exact writeRow_window_refused stored hkey hserves hrow hcheck he
  · intro hkey
    obtain ⟨r, hrow⟩ := Option.isSome_iff_exists.mp hrow
    rw [writerOf_session hkey] at hcheck
    rw [writeRow_session v stored hkey (objFind_of_rowFor hrow), request_of_letIn stored (hlet hkey)]
    exact execute_write_refused stored hcheck

/-- A source's write that reaches the range and that the object's chapter refuses (R61, R94). -/
theorem writeRow_range {m : Mod} {src : Source} {oid v : Nat} {r : ObjRow} (stored : Bool) (hserves : m.serves src = true)
    (hlet : winKey src = none → LetIn m (m.rowHdr src (itemLen (itemOf oid v))) (.write (itemOf oid v)))
    (h : ReachesRange (writerOf m src (itemOf oid v)).1 src (writerOf m src (itemOf oid v)).2 oid v r) (hv : v < 256 ^ r.size) (harea : oid / 2 ^ 20 ≤ 5)
    (hrefuse : (writerOf m src (itemOf oid v)).1.refuseLow oid v = .range) :
    (∀ k ∈ winKey src, m.writeRow src oid v stored = (writerOf m src (itemOf oid v)).1.winFail k oid .range) ∧
    (winKey src = none → ∃ y : Resp, m.writeRow src oid v stored = (writerOf m src (itemOf oid v)).1.answer src y ∧ y.opcode = 2 ∧ y.status = .range) :=
  writeRow_of_refused stored hserves hlet (Option.isSome_of_eq_some h.row) (checkWrite_range h hv harea hrefuse) (by decide)

end Sys2Proof.Machine
end

section
/-! Roles of edge ports that are enabled (R220). -/
namespace Sys2Proof.Machine

/-- Whether a port is enabled, and its role, take one byte each (R219). -/
theorem objFind_port_size (p : EdgePort) : ∀ el ∈ [1, 2], (objFind (mkOid 4 p el)).map (·.size) = some 1 := by
  revert p
  decide +kernel

theorem lt_of_port_row {m : Mod} {src : Source} {p : EdgePort} {el v : Nat} {r : ObjRow} (hel : el ∈ [1, 2]) (hrow : m.rowFor src (mkOid 4 p el) = some r)
    (hv : v < 256) : v < 256 ^ r.size := by
  have size : r.size = 1 := by simpa [objFind_of_rowFor hrow] using objFind_port_size p el hel
  rwa [size, Nat.pow_one]

theorem mkOid_port_area (p : EdgePort) {el : Nat} (hel : el < 256) : mkOid 4 p el / 2 ^ 20 ≤ 5 := by
  unfold mkOid
  omega

/-- The rules of a port's record (R219 to R223). -/
theorem refuseLow_port (m : Mod) (p : EdgePort) {el : Nat} (hel : el < 256) (v : Nat) :
    m.refuseLow (mkOid 4 p el) v =
      if leadElements.contains el = true ∧ m.lead p ≠ p then .range
      else if el = 1 then rangeIf (decide (v = 1) && (decide (m.role p = 0) || (m.membersOf p).any m.portTesting || m.tp.scanning))
      else if el = 2 then rangeIf (decide (3 < v) || decide (m.objv (mkOid 4 p 1) = 1))
      else if el = 3 then rangeIf (m.bindingBad p v)
      else if el = 4 then rangeIf (decide (0xFFF < v))
      else .ok := by
  have hix : mkOid 4 p el / 256 = 0x4000 + p := by
    unfold mkOid
    omega
  have hmod : mkOid 4 p el % 256 = el := by
    unfold mkOid
    omega
  have hoid : 0x400000 ≤ mkOid 4 p el := Nat.le_add_right_of_le (Nat.le_add_right ..)
  unfold Mod.refuseLow
  simp only [hix, hmod]
  rw [if_neg (by omega), if_neg (by omega), if_neg (by omega), if_neg (by omega), if_neg (by omega), if_neg (by omega), if_neg (by omega), if_pos (by omega),
    Nat.add_sub_cancel_left]

/-- Enabling a port of role 0 is refused. -/
theorem refuseLow_portEnable {m : Mod} {p : EdgePort} (h : m.role p = 0) : m.refuseLow (mkOid 4 p 1) 1 = .range := by
  rw [refuseLow_port m p (by decide)]
  split
  · rfl
  · simp [h, rangeIf]

/-- The role of an enabled port is not written. -/
theorem refuseLow_portRole {m : Mod} {p : EdgePort} (h : m.objv (mkOid 4 p 1) = 1) (v : Nat) : m.refuseLow (mkOid 4 p 2) v = .range := by
  rw [refuseLow_port m p (by decide)]
  split
  · rfl
  · simp [h, rangeIf]

end Sys2Proof.Machine

namespace Sys2Proof
open Sys2Proof.Machine

/-- Settles O13: the port's rules are asked in the module the write enters, whose objects are those of the module before. -/
theorem roleOfAnEnabledPortIsRefused : Obligations.RoleOfAnEnabledPortIsRefused := by
  unfold Obligations.RoleOfAnEnabledPortIsRefused
  constructor
  · rintro src p v stored r x s hserves rfl hlet hrow hacc hmode htoken hlocked henabled
    have reaches := ReachesRange.mk (writerOf_src ..) hrow hacc hmode htoken hlocked
    have enabled := (writerOf_objv s.mod src (itemOf (mkOid 4 p 2) v) _).trans henabled
    exact ⟨_, rfl, writeRow_range stored hserves hlet reaches (lt_of_port_row (by decide) hrow v.isLt) (mkOid_port_area p (by decide))
      (refuseLow_portRole enabled v)⟩
  · rintro src p stored r x s hserves rfl hlet hrow hacc hmode htoken hlocked hrole
    have reaches := ReachesRange.mk (writerOf_src ..) hrow hacc hmode htoken hlocked
    have unassigned := (writerOf_objv s.mod src (itemOf (mkOid 4 p 1) 1) _).trans hrole
    exact ⟨_, rfl, writeRow_range stored hserves hlet reaches (lt_of_port_row (by decide) hrow (by decide)) (mkOid_port_area p (by decide))
      (refuseLow_portEnable unassigned)⟩

end Sys2Proof
end

section
/-! What a flit slot can do to the sender's state of a link without sending a new PAYLOAD flit (R255, R262, R266). -/
namespace Sys2Proof.Machine

/-- From a to b no new PAYLOAD flit leaves port n: its next sequence number, its replay buffer and its words to send stand, no first transmission of it is
among what was sent since, and the other links stand (R262, R266). -/
structure SendsNoNew (n : Nat) (a b : Mod) : Prop where
  nextTx : (b.link n).nextTx = (a.link n).nextTx
  replay : (b.link n).replay = (a.link n).replay
  tx : (b.link n).tx = (a.link n).tx
  out : ∀ seq words, Out.payload n false seq words ∈ b.out → Out.payload n false seq words ∈ a.out
  others : ∀ k, k ≠ n → b.link k = a.link k

/-- The change f of a link leaves its next sequence number, its replay buffer and its words to send. -/
def KeepsSender (f : LinkSt → LinkSt) : Prop := ∀ s, (f s).nextTx = s.nextTx ∧ (f s).replay = s.replay ∧ (f s).tx = s.tx

theorem link_onLink (m : Mod) (n k : Nat) (f : LinkSt → LinkSt) : (m.onLink n f).link k = if k = n then f (m.link n) else m.link k :=
  tget_tmod _ n k f m.lk.ports

theorem SendsNoNew.refl (n : Nat) (a : Mod) : SendsNoNew n a a := ⟨rfl, rfl, rfl, fun _ _ h => h, fun _ _ => rfl⟩

theorem SendsNoNew.trans {n : Nat} {a b c : Mod} (h : SendsNoNew n a b) (k : SendsNoNew n b c) : SendsNoNew n a c :=
  ⟨k.nextTx.trans h.nextTx, k.replay.trans h.replay, k.tx.trans h.tx, fun s w e => h.out s w (k.out s w e), fun i hi => (k.others i hi).trans (h.others i hi)⟩

section
variable {n : Nat} {a m : Mod} (h : SendsNoNew n a m)
include h

/-- An operation that neither changes a link nor sends anything. -/
theorem SendsNoNew.of_keeps {m' : Mod} (hk : ∀ {P : Mod → Prop}, Stable 0x5fffffbfb P → P m → P m') : SendsNoNew n a m' := by
  have links : m'.lk = m.lk := hk (P := fun x => x.lk = m.lk) Stable.lk_is.up rfl
  have sent : m'.out = m.out := hk (P := fun x => x.out = m.out) Stable.out_is.up rfl
  have same (k : Nat) : m'.link k = m.link k := by simp only [Mod.link, links]
  refine h.trans ⟨?_, ?_, ?_, fun _ _ e => sent ▸ e, fun k _ => same k⟩ <;> rw [same]

theorem SendsNoNew.onLink {f : LinkSt → LinkSt} (hf : KeepsSender f) : SendsNoNew n a (m.onLink n f) := by
  obtain ⟨hseq, hbuf, htx⟩ := hf (m.link n)
  have self : (m.onLink n f).link n = f (m.link n) := by rw [link_onLink, if_pos rfl]
  exact h.trans ⟨self ▸ hseq, self ▸ hbuf, self ▸ htx, fun _ _ e => e, fun k hk => by rw [link_onLink, if_neg hk]⟩

theorem SendsNoNew.emit {o : Out} (ho : ∀ seq words, o ≠ .payload n false seq words) : SendsNoNew n a (m.emit o) :=
  h.trans ⟨rfl, rfl, rfl, fun seq words e => (List.mem_append.mp e).resolve_right fun new => ho seq words (List.mem_singleton.mp new).symm, fun _ _ => rfl⟩

/-- Operations repeated over a list. -/
theorem SendsNoNew.each {α : Type} {l : List α} {f : α → Mod → Mod} (hf : ∀ x b, SendsNoNew n a b → SendsNoNew n a (f x b)) :
    SendsNoNew n a (m.each l f) := by
  induction l generalizing m with
  | nil => exact h
  | cons x l ih => exact ih (hf x m h)

theorem SendsNoNew.linkObj (el k : Nat) : SendsNoNew n a (m.linkObj n el k) := h.of_keeps fun hS hm => Mod.linkObj_keeps hS.up hm n el k

/-- The levels of a flit on the lanes are no PAYLOAD flit of their own. -/
theorem SendsNoNew.sendFlit (f : FlitForm) : SendsNoNew n a (m.sendFlit n f) := by
  unfold Mod.sendFlit
  refine SendsNoNew.onLink ?_ fun _ => ⟨rfl, rfl, rfl⟩
  refine SendsNoNew.each (h.emit (by nofun)) fun i b hb => ?_
  exact hb.of_keeps fun hS hm => Mod.onLane_keeps hS.up hm _ _

theorem SendsNoNew.sendTraining : SendsNoNew n a (m.sendTraining n) := h.emit (by nofun)

theorem SendsNoNew.openClasses : SendsNoNew n a (m.openClasses n) := h.onLink fun _ => ⟨rfl, rfl, rfl⟩

/-- A CONTROL flit (R260). -/
theorem SendsNoNew.sendControl (ctype : Nat) : SendsNoNew n a (m.sendControl n ctype) := by
  have flit : SendsNoNew n a (((m.openClasses n).emit (.control n ((m.openClasses n).controlOf n ctype))).sendFlit n
      (.control ((m.openClasses n).controlOf n ctype))) := (h.openClasses.emit (by nofun)).sendFlit _
  unfold Mod.sendControl
  refine SendsNoNew.onLink ?_ fun _ => ⟨rfl, rfl, rfl⟩
  split
  · exact flit.linkObj 9 1
  · exact flit

theorem SendsNoNew.enterDormant : SendsNoNew n a (m.enterDormant n) := by
  unfold Mod.enterDormant
  refine SendsNoNew.of_keeps (h.onLink (f := fun s =>
    { s with st := .dormant, dormantHs := .none, entering := true, exitAsked := false, woken := false, exitAt := none, replayDeadline := none })
    fun _ => ⟨rfl, rfl, rfl⟩) fun hS hm => ?_
  have counted := Mod.portCtr_keeps hS.up (Mod.endMargins_keeps hS.up hm (lanesOf (48 + n))) (48 + n) 22 1
  exact hS.when counted (Mod.recordDirty_keeps hS.up counted)

/-- The slot of a pending NAK or handshake carries a CONTROL flit (R282, R283). -/
theorem SendsNoNew.handshakeSlot : OptP (SendsNoNew n a) (m.handshakeSlot n) := by
  have control (ctype : Nat) {f : LinkSt → LinkSt} (hf : KeepsSender f) : OptP (SendsNoNew n a) (some ((m.sendControl n ctype).onLink n f)) :=
    OptP.some ((h.sendControl ctype).onLink hf)
  unfold Mod.handshakeSlot
  dsimp only
  split
  · split
    · exact control _ fun _ => ⟨rfl, rfl, rfl⟩
    · exact OptP.none
  · cases (m.link n).dormantHs with
    | reqOwed =>
      dsimp only
      split
      · exact control 2 fun _ => ⟨rfl, rfl, rfl⟩
      · exact control 0 fun _ => ⟨rfl, rfl, rfl⟩
    | ackOwed =>
      dsimp only
      split
      · exact OptP.some (h.sendControl 3).enterDormant
      · exact control 4 fun _ => ⟨rfl, rfl, rfl⟩
    | nakOwed => exact control 4 fun _ => ⟨rfl, rfl, rfl⟩
    | none | reqSent =>
      dsimp only
      split
      · exact OptP.some (h.sendControl 0)
      · exact OptP.none

/-- A retransmission has REPLAY set (R262). -/
theorem SendsNoNew.resendNext (f : Flit) (rest : List Flit) : SendsNoNew n a (m.resendNext n f rest) :=
  (((h.emit (by nofun)).sendFlit _).linkObj 2 1).onLink fun _ => ⟨rfl, rfl, rfl⟩

theorem SendsNoNew.startExit : SendsNoNew n a (m.startExit n) := by
  unfold Mod.startExit
  dsimp only
  split
  · exact h
  · split
    · exact h.onLink fun _ => ⟨rfl, rfl, rfl⟩
    · exact (h.emit (by nofun)).onLink fun _ => ⟨rfl, rfl, rfl⟩

/-- A record for the neighbour waits for the port's queue, and wakes a DORMANT port (R294). -/
theorem SendsNoNew.sendRecord (r : LinkRecord) : SendsNoNew n a (m.sendRecord n r) := by
  unfold Mod.sendRecord Mod.sendNbr
  exact h.startExit.of_keeps fun hS hm => hS.onSwN hm fun _ => rfl

theorem SendsNoNew.adjCheck : SendsNoNew n a (m.adjCheck n) := by
  have routed (f : RouteBlk → RouteBlk) : SendsNoNew n a (m.onRt f) := h.of_keeps fun hS hm => hS.onRt hm
  unfold Mod.adjCheck
  split
  · exact (routed _).each fun r b hb => hb.sendRecord r
  · split
    · exact routed _
    · exact h

end

/-- R266: in the slot of a port whose replay buffer is full, only the branch that takes new words is closed; every other branch leaves the sender's state. -/
theorem flitSlot_sendsNoNew {n : FabPort} {s : State} (full : 512 ≤ (s.mod.link n).replay.length) :
    Answers (.flitSlot n) s (SendsNoNew n s.mod) := by
  have start := SendsNoNew.refl n s.mod
  have slotted : SendsNoNew n s.mod (s.mod.onLink n fun x => { x with slot := (x.slot + 1) % 32 }) := start.onLink fun _ => ⟨rfl, rfl, rfl⟩
  refine ⟨_, rfl, SendsNoNew.adjCheck ?_⟩
  dsimp only
  cases (s.mod.link n).st with
  | train | retrain =>
    dsimp only
    split
    · exact start.sendTraining
    · exact (start.sendControl 1).onLink fun _ => ⟨rfl, rfl, rfl⟩
  | active =>
    dsimp only
    split
    · exact slotted.handshakeSlot.get ‹_›
    · split
      · exact slotted.sendControl _
      · split
        · exact slotted.resendNext ..
        · split
          case isTrue room => exact absurd room.2.1 (Nat.not_lt.mpr full)
          case isFalse =>
            split
            · exact slotted.sendControl _
            · exact (slotted.emit (by nofun)).sendFlit _
  | down =>
    dsimp only
    split
    · exact start.sendTraining
    · exact start
  | dormant =>
    dsimp only
    split
    · split
      · exact start.sendTraining
      · exact start
    · exact start
  | retired => exact start

end Sys2Proof.Machine

namespace Sys2Proof
open Sys2Proof.Machine

/-- Settles O14: a flit slot takes new words only while the replay buffer has room, and all else it does sends no new PAYLOAD flit. -/
theorem fullReplayBufferHoldsPayloads : Obligations.FullReplayBufferHoldsPayloads := by
  unfold Obligations.FullReplayBufferHoldsPayloads
  intro n s full
  obtain ⟨m, next, held⟩ := flitSlot_sendsNoNew full
  exact ⟨m, next, held.nextTx, held.replay, held.tx, held.out, held.others⟩

end Sys2Proof
end
